-- ==== Sys2Proof/Word.lean ====
section
/-! DEFINITION. The word types of the module and the sparse map that holds every large storage. -/

namespace Sys2Proof

/-- A byte of any memory. -/
abbrev Byte := BitVec 8

/-- A 64-bit register, word or counter (R6: bit 0 is the least significant bit). -/
abbrev Word := BitVec 64

/-- A 32-bit word: a binary32 or INT32 element, a RISC-V instruction word. -/
abbrev Word32 := BitVec 32

/-- Sparse storage: keys strictly rising, and no entry that equals what an unlisted key reads as. -/
abbrev SMap (α : Type) := List (Nat × α)

end Sys2Proof
end

