-- ==== Sys2Proof/Syntax.lean ====
section
/-! DEFINITION. The commands of the Ifeant 9 module: one constructor of `Instr` for each row of the table of operations. -/

namespace Sys2Proof

/-- Who makes a register access: the PF, the VF of a partition, or a firmware core by its target code (R578, R653, R654). -/
inductive Requester where
  | pf
  | vf (n : Fin 16)
  | fw (code : Fin 17)
  deriving DecidableEq, Repr

/-- Where a ring command comes from: a submission ring (R508), or a COMMANDS phase of a cadence (R562). -/
inductive CmdSrc where
  | ring (r : Fin 1024)
  | cadence (p : Fin 16) (i : Fin 4)
  deriving DecidableEq, Repr

/-- A 64 B ring command (R507), as one little-endian number: byte b of the entry is bits [8b+7:8b]. -/
abbrev Cmd := BitVec 512

/-- A RISC-V core: a vector core, a half controller (2d + h) or a service core (R242). -/
inductive RvCore where
  | vc (n : Fin 480)
  | hc (n : Fin 8)
  | sc (n : Fin 8)
  deriving DecidableEq, Repr

/-- A controller of the recovery chain, by its target code: 0-7 half controllers, 8-15 service cores, 16 attic (R578). -/
abbrev Ctlr := Fin 17

/-- The two management bindings and the DOE mailbox (R625, R635). -/
inductive Binding where
  | i3c
  | vdm
  | doe
  deriving DecidableEq, Repr

/-- The side of a router, its local port, its auxiliary port (R49). -/
inductive MeshDir where
  | north
  | south
  | east
  | west
  | cell
  | aux
  deriving DecidableEq, Repr

/-- The virtual channels of the two planes (R58): six of the request plane, four of the response plane. -/
inductive MeshVc where
  | req
  | mcast
  | mem
  | xout
  | xin
  | svc
  | rsp
  | rspXout
  | rspXin
  | rspSvc
  deriving DecidableEq, Repr

/-- A router: die, column, die row (R48). -/
structure RouterId where
  die : Fin 4
  x : Fin 10
  row : Fin 12
  deriving DecidableEq, Repr

/-- Where a packet goes on the module (R57, R67): a cell, a controller, a half controller, the junction die, a target set. -/
inductive MeshDst where
  | cell (c : Fin 480)
  | ctl (s : Fin 12)
  | hc (n : Fin 8)
  | junction
  | set (die : Fin 4) (form : Bool) (half : Bool) (field : Word)
  deriving DecidableEq, Repr

/-- A packet of the mesh: 1 to 4 flits on one virtual channel (R58), with the partition stamp of R47. -/
structure MeshPacket where
  id : Nat
  src : RouterId
  dst : MeshDst
  vc : MeshVc
  flits : Nat
  stamp : Fin 16
  expects : Bool
  deriving DecidableEq, Repr

/-- A gateway port of a die: the die-to-die interface to J by die row, or a ring interface by column (R49). -/
inductive GatewayId where
  | junction (die : Fin 4) (row : Fin 12)
  | ringNorth (die : Fin 4) (x : Fin 10)
  | ringSouth (die : Fin 4) (x : Fin 10)
  deriving DecidableEq, Repr

/-- The kind of an access, for the permissions of R300. -/
inductive Access where
  | read
  | write
  | atomic
  | fetch
  deriving DecidableEq, Repr

/-- A unit that translates (R295, R302, R311): the kinds of R311 with their unit numbers. -/
inductive UnitId where
  | mc (n : Fin 1920)
  | vc (n : Fin 480)
  | dma (c : Fin 480)
  | bulk (e : Fin 16)
  | ce (s : Fin 12)
  | port (p : Fin 18)
  | host (f : Fin 16)
  | jservice (n : Fin 32)
  deriving DecidableEq, Repr

/-- A matrix core or a vector core, as the sync instructions name it (R184, R260). -/
structure CoreName where
  isVc : Bool
  num : Nat
  deriving DecidableEq, Repr

/-- A signal on its way to a sync counter (R365), with the stamp of its sender's cell. -/
structure Signal where
  sender : CoreName
  target : CoreName
  sn : Fin 32
  value : BitVec 16
  stamp : Fin 16
  dma : Bool
  deriving DecidableEq, Repr

/-- A node of the barrier tree below the switches (R371). -/
inductive BarNode where
  | half (die : Fin 4) (south : Bool)
  | package
  deriving DecidableEq, Repr

/-- A request that reaches a store room (R275): 128 B line address, kind, byte enables and data. -/
structure RoomReq where
  part : Fin 16
  line : Nat
  kind : Access
  enables : BitVec 128
  data : List Byte
  deriving DecidableEq, Repr

/-- The AMO of the A extension performed at a home (R245). -/
inductive AmoOp where
  | swap
  | add
  | xor
  | and
  | or
  | min
  | max
  | minu
  | maxu
  | lr
  | sc
  deriving DecidableEq, Repr

/-- An SRAM whose SECDED reports an uncorrectable error (R280). -/
inductive SramLoc where
  | roomLine (cell : Fin 480) (line : Nat)
  | scratch (mc : Fin 1920) (word : Fin 65536)
  | tile (mc : Fin 1920) (word : Fin 8192)
  | acc (mc : Fin 1920) (word : Fin 32768)
  | vscratch (vc : Fin 480) (word : Fin 65536)
  | junction (word : Fin 8388608)
  deriving DecidableEq, Repr

/-- The outcome of an ATS Translation Request (R307, R308). -/
inductive AtsOutcome where
  | granted (hpa : Nat) (r w x : Bool)
  | unsupported
  | aborted
  deriving DecidableEq, Repr

/-- The response code of a PRG Response (R308). -/
inductive PrgCode where
  | success
  | invalid
  | failure
  deriving DecidableEq, Repr

/-- A unit whose context is saved (R327). -/
inductive SaveUnit where
  | mc (n : Fin 1920)
  | vc (n : Fin 480)
  | cellUnit (c : Fin 480)
  deriving DecidableEq, Repr

/-- Why a lane left the active set, or why the port retrains (R411). -/
inductive RetrainCause where
  | laneLost
  | laneErrors
  | retry
  | violation
  | commanded
  deriving DecidableEq, Repr

/-- A PCIe configuration write that takes effect (R308, R497, R527). -/
inductive CfgWrite where
  | priEnable
  | busMaster (on : Bool)
  | barSize (log2 : Fin 64)
  deriving DecidableEq, Repr

/-- A status flag of an interrupt controller (R579-R583): a bit of IRQ_DSTAT, IRQ_CSTATc, IRQ_MSTAT or IRQ_PSTATn. -/
inductive IrqFlag where
  | dstat (die : Fin 4) (bit : Fin 10)
  | cstat (cell : Fin 480) (bit : Fin 11)
  | mstat (bit : Fin 33)
  | pstat (port : Fin 18) (bit : Fin 5)
  deriving DecidableEq, Repr

/-- What a thermal sensor reading acts on (R601): one die, or the whole module for the coolant. -/
inductive ThermalScope where
  | die (d : Fin 4)
  | hbm (s : Fin 12)
  | coolant
  deriving DecidableEq, Repr

/-- One sample of the input (R590): voltage in 10 mV, current in 10 mA, power and trailing mean in W. -/
structure InputSample where
  vin : BitVec 16
  iin : BitVec 16
  pin : BitVec 16
  pmean : BitVec 16
  deriving DecidableEq, Repr

/-- The telemetry of one control step (R590, R599, R604): draws of the four dies and of J in W, temperatures of the coolant, of the
four dies and of J in degrees, activities of cells in 1/256. -/
structure ControlSample where
  pdie : List (BitVec 12)
  pj : BitVec 12
  inlet : BitVec 8
  outlet : BitVec 8
  tdies : List (BitVec 8)
  tj : BitVec 8
  activity : SMap (BitVec 16)
  deriving DecidableEq, Repr

/-- A calibration record (R598): load, temperature, idle power and slope as binary32, 26 droop classes. -/
structure CalRecord where
  load : BitVec 8
  temp : BitVec 8
  pIdle : Word32
  kDyn : Word32
  fmax : List (BitVec 16)
  deriving DecidableEq, Repr

/-- A firmware image as the module holds it in flash (R631): its header's fields and the outcomes of the cryptographic checks. -/
structure Image where
  magicOk : Bool
  comp : BitVec 8
  svn : BitVec 8
  version : Word32
  keyOk : Bool
  sigOk : Bool
  digestOk : Bool
  deriving DecidableEq, Repr

/-- The requests of PLDM for firmware update that name a component (R633). -/
structure CompEntry where
  comp : Fin 5
  svn : BitVec 8
  version : Word32
  deriving DecidableEq, Repr

/-- The commands of the module: the rows of the table of operations, in its order. -/
inductive Instr where
  -- power input, pins and clocks
  | coldPowerOn (straps : BitVec 5) (mgmtClk : Bool)
  | hbmTrainingComplete (s : Fin 12) (ok80 ok64 : Bool) (repaired : BitVec 8)
  | inputUndervoltageShutdown
  | inputOvervoltageShutdown
  | inputLowBandEntry (vin : BitVec 16)
  | inputLowBandExit (vin : BitVec 16)
  | leakDetected
  | railOutOfRegulation
  | reversedFlowDetect
  | fabRefclkLoss
  | slowClockSwitchToRef
  | slowClockSwitchToOsc
  | modRstNAssert (straps : BitVec 5)
  | perstNAssert
  | perstNDeassert (refclkOk : Bool)
  | pcieHotReset
  | flr (f : Fin 16)
  | numvfsWrite (n : BitVec 16)
  -- the on-die network
  | meshFlitForward (r : RouterId) (out : MeshDir) (respPlane : Bool)
  | meshCreditReturn (r : RouterId) (out : MeshDir) (vc : MeshVc)
  | gatewayAccept (g : GatewayId) (p : MeshPacket)
  | cellDownConsume (c : Fin 480) (p : MeshPacket)
  | mcastReplicationEntry (r : RouterId) (inp : MeshDir)
  | mcastBranchTake (r : RouterId) (branch : MeshDir)
  -- matrix instructions: control, address, configuration
  | nop (mc : Fin 1920) (f : BitVec 56)
  | halt (mc : Fin 1920) (f : BitVec 56)
  | programComplete (mc : Fin 1920)
  | jmp (mc : Fin 1920) (f : BitVec 56)
  | setl (mc : Fin 1920) (f : BitVec 56)
  | bloop (mc : Fin 1920) (f : BitVec 56)
  | psync (mc : Fin 1920) (f : BitVec 56)
  | fclr (mc : Fin 1920) (f : BitVec 56)
  | gli (mc : Fin 1920) (f : BitVec 56)
  | gadd (mc : Fin 1920) (f : BitVec 56)
  | glds (mc : Fin 1920) (f : BitVec 56)
  | org (mc : Fin 1920) (f : BitVec 56)
  | srset (mc : Fin 1920) (f : BitVec 56)
  | tcfg (mc : Fin 1920) (f : BitVec 56)
  | ttbl (mc : Fin 1920) (f : BitVec 56)
  -- matrix instructions: tile movement
  | tld (mc : Fin 1920) (f : BitVec 56)
  | tst (mc : Fin 1920) (f : BitVec 56)
  | tileRowArrival (mc : Fin 1920) (op : Nat) (row : Nat)
  | tileWriteAck (mc : Fin 1920) (op : Nat)
  | dmaq (mc : Fin 1920) (f : BitVec 56)
  -- matrix instructions: accumulators and products
  | aclr (mc : Fin 1920) (f : BitVec 56)
  | ard (mc : Fin 1920) (f : BitVec 56)
  | awr (mc : Fin 1920) (f : BitVec 56)
  | aspl (mc : Fin 1920) (f : BitVec 56)
  | afil (mc : Fin 1920) (f : BitVec 56)
  | accStarvationGuard (mc : Fin 1920)
  | mma (mc : Fin 1920) (f : BitVec 56)
  | arrayPassStart (mc : Fin 1920)
  | arrayPassComplete (mc : Fin 1920)
  | lds (mc : Fin 1920) (f : BitVec 56)
  | ldsSpill (mc : Fin 1920)
  | ldsDrain (mc : Fin 1920)
  -- matrix instructions: row threads and synchronisation
  | tew (mc : Fin 1920) (f : BitVec 56)
  | tact (mc : Fin 1920) (f : BitVec 56)
  | tder (mc : Fin 1920) (f : BitVec 56)
  | tqnt (mc : Fin 1920) (f : BitVec 56)
  | tmsk (mc : Fin 1920) (f : BitVec 56)
  | sadd (mc : Fin 1920) (f : BitVec 56)
  | swait (mc : Fin 1920) (f : BitVec 56)
  | ssig (mc : Fin 1920) (f : BitVec 56)
  | sbar (mc : Fin 1920) (f : BitVec 56)
  -- matrix core control
  | mxcStop (mc : Fin 1920)
  | mxcStopped (mc : Fin 1920)
  | mxcStopRelease (mc : Fin 1920)
  | mxcResume (mc : Fin 1920)
  | mxqClr (mc : Fin 1920) (mask : BitVec 8)
  -- vector cores
  | xtVl (vc : Fin 480) (vm : Bool) (rs1 vd : BitVec 5)
  | xtVls (vc : Fin 480) (vm : Bool) (rs2 rs1 vd : BitVec 5)
  | xtVs (vc : Fin 480) (vm : Bool) (rs1 vs3 : BitVec 5)
  | xtVss (vc : Fin 480) (vm : Bool) (rs2 rs1 vs3 : BitVec 5)
  | xtVunp (vc : Fin 480) (vs2 : BitVec 5) (fmt : BitVec 4) (vd : BitVec 5)
  | xtVpk (vc : Fin 480) (ovf : Bool) (vs2 : BitVec 5) (fmt : BitVec 4) (vd : BitVec 5)
  | xtFence (vc : Fin 480)
  | xsAdd (vc : Fin 480) (sn : Fin 32) (rs1 : BitVec 5)
  | xsWait (vc : Fin 480) (sn : Fin 32) (rs1 : BitVec 5)
  | xsTry (vc : Fin 480) (sn : Fin 32) (rs1 rd : BitVec 5)
  | xsRd (vc : Fin 480) (sn : Fin 32) (rd : BitVec 5)
  | xsSig (vc : Fin 480) (rs2 rs1 : BitVec 5)
  | xsBar (vc : Fin 480) (sn : Fin 32) (rs1 : BitVec 5)
  | xdQ (vc : Fin 480) (rs1 : BitVec 5)
  | xdQv (vc : Fin 480) (vs2 : BitVec 5)
  | xdTq (vc : Fin 480) (rs1 rd : BitVec 5)
  | xdTqv (vc : Fin 480) (vs2 rd : BitVec 5)
  | riscvInstruction (core : RvCore) (w : Word32)
  | vcInterruptTake (vc : Fin 480)
  | mtimeCompare (core : RvCore)
  | reservationTimeout (core : RvCore)
  -- store rooms and HBM
  | storeRoomAccess (q : RoomReq)
  | storeRoomAmo (core : RvCore) (part : Fin 16) (op : AmoOp) (wide : Bool) (pa : Nat) (x : Word)
  | storeRoomFill (s : Fin 12)
  | workCounterClaim (who : Option CoreName) (part : Fin 16) (pa : Nat) (n : Word)
  | workCounterPresent (who : Option CoreName) (part : Fin 16) (pa : Nat) (t : Word)
  | hbmRequest (s : Fin 12)
  | hbmScrub (s : Fin 12) (corrected : BitVec 32) (bad : List Nat)
  | stackDegradingEvent (s : Fin 12)
  | sramUncorrectableError (loc : SramLoc)
  | hbmTempRead (s : Fin 12) (t : BitVec 8)
  | clean (d : Fin 4)
  | cleanInv (d : Fin 4)
  | drop (d : Fin 4)
  | srmRangeDone (d : Fin 4)
  -- translation, faults and pre-emption
  | pageWalk (u : UnitId) (ctx : Fin 64) (part : Fin 16) (va : Nat) (acc : Access)
  | faultRecordQueued (id : Word32)
  | growFaultService (id : Word32)
  | faultTimeout (id : Word32)
  | atsTranslationCompletion (id : Word32) (res : AtsOutcome)
  | prgResponse (id : Word32) (code : PrgCode)
  | atsInvalidateRequest (pasid : Option (BitVec 20)) (page : Nat) (pages : Nat)
  | invalidateAll
  | invalidateContext
  | invalidateRange
  | invalidationComplete
  | cellSaveComplete (u : SaveUnit)
  | cellRestoreComplete (c : Fin 480)
  -- DMA engines
  | dmaCopy (c : Fin 480) (q : Fin 6)
  | dmaPanel (c : Fin 480) (q : Fin 6)
  | dmaImage (c : Fin 480) (q : Fin 6)
  | dmaFetchAdd (c : Fin 480) (q : Fin 6)
  | dmaClaim (c : Fin 480) (q : Fin 6)
  | dmaPresent (c : Fin 480) (q : Fin 6)
  | dmaMaskload (c : Fin 480) (q : Fin 6)
  | dmaKey (c : Fin 480) (q : Fin 6)
  | dmaLineResponse (c : Fin 480) (q : Fin 6)
  -- synchronisation
  | signalReceive (g : Signal)
  | signalCompletion (c : Fin 480) (targetDown : Bool)
  | barrierNodeArrival (node : BarNode) (part : Fin 16) (bid : BitVec 10) (gen : BitVec 2)
  | barrierReleaseApply (core : CoreName) (part : Fin 16) (bid : BitVec 10) (gen : BitVec 2)
  | idleReport (core : CoreName)
  | syncHang (core : CoreName) (bid : BitVec 10)
  -- Chonen ports
  | portEnable (p : Fin 18)
  | portDisable (p : Fin 18)
  | portSignalDetect (p : Fin 18)
  | portTuneDone (p : Fin 18) (tuned : BitVec 4)
  | portAlignDone (p : Fin 18) (aligned : BitVec 4) (reversed : Bool)
  | portStateTimeout (p : Fin 18)
  | portTuneBackoff (p : Fin 18)
  | configFlit (p : Fin 18) (bytes : List Byte)
  | configResendTimer (p : Fin 18)
  | laneLockLost (p : Fin 18) (lane : Fin 4)
  | laneErrorThreshold (p : Fin 18) (lane : Fin 4) (count : BitVec 16)
  | portRetrain (p : Fin 18)
  | portUnquarantine (p : Fin 18)
  | degradedRetrainTimer (p : Fin 18)
  | quarantineReleaseTimer (p : Fin 18)
  | rateLimitExpiry (p : Fin 18) (vc : Fin 8)
  | dataFlit (p : Fin 18) (bytes : List Byte)
  | idleFlit (p : Fin 18) (bytes : List Byte)
  | creditFlit (p : Fin 18) (bytes : List Byte)
  | retrainFlit (p : Fin 18) (bytes : List Byte)
  | quarantineFlit (p : Fin 18) (bytes : List Byte)
  | flitTransmit (p : Fin 18)
  | replayTimeout (p : Fin 18)
  | creditFlitTimer (p : Fin 18)
  -- fabric messages: header of R420 as one number, payload bytes
  | put (p : Fin 18) (h : BitVec 256) (pl : List Byte)
  | get (p : Fin 18) (h : BitVec 256) (pl : List Byte)
  | atomic (p : Fin 18) (h : BitVec 256) (pl : List Byte)
  | reduceContrib (p : Fin 18) (h : BitVec 256) (pl : List Byte)
  | reduceResult (p : Fin 18) (h : BitVec 256) (pl : List Byte)
  | barrierArrive (p : Fin 18) (h : BitVec 256) (pl : List Byte)
  | barrierRelease (p : Fin 18) (h : BitVec 256) (pl : List Byte)
  | mcast (p : Fin 18) (h : BitVec 256) (pl : List Byte)
  | probe (p : Fin 18) (h : BitVec 256) (pl : List Byte)
  | nodeCfg (p : Fin 18) (h : BitVec 256) (pl : List Byte)
  | portStat (p : Fin 18) (h : BitVec 256) (pl : List Byte)
  | fabricResponse (p : Fin 18) (h : BitVec 256) (pl : List Byte)
  | xlateRetryResend (tag : BitVec 16)
  | transactionTimeout (tag : BitVec 16)
  -- reduction and multicast
  | localContribRead (id : BitVec 12) (frag : Nat) (i : Fin 64)
  | fragmentDeadline (id : BitVec 12) (frag : Nat)
  | resultWriteAck (id : BitVec 12) (frag : Nat)
  | reductionHang (id : BitVec 12) (frag : Nat)
  | mcastTargetCompletion (c : Fin 480) (q : Fin 6) (target : Fin 480) (ok : Bool)
  | mcastTimeout (c : Fin 480) (q : Fin 6) (target : Fin 480)
  -- cellar engines
  | cellarChunk (s : Fin 12)
  | cellarStatsRoundDone (s : Fin 12)
  -- rings and the host window
  | sqDoorbell (f : Fin 16) (r : Fin 1024) (v : Word32)
  | cqDoorbell (f : Fin 16) (r : Fin 1024) (v : Word32)
  | commandFetch (r : Fin 1024) (data : Option Cmd)
  | ringEnable (f : Fin 16) (r : Fin 1024) (v : Word)
  | ringDisable (f : Fin 16) (r : Fin 1024) (v : Word)
  | completionRecordWrite (r : Fin 1024)
  | eventRecordWrite (p : Fin 16)
  | fnPop (f : Fin 16)
  | bar4Read (f : Fin 16) (off : Nat) (len : Nat)
  | bar4Write (f : Fin 16) (off : Nat) (data : List Byte)
  | bar4HoldExpiry (f : Fin 16) (id : Nat)
  | msixModerationExpiry (m : Fin 2048)
  | msixUnmask (m : Fin 2048)
  -- ring commands
  | ringNop (src : CmdSrc) (c : Cmd)
  | launch (src : CmdSrc) (c : Cmd)
  | kernelStart (k : Nat)
  | kernelComplete (k : Nat)
  | kstopPreempt (src : CmdSrc) (c : Cmd)
  | kstopEnd (src : CmdSrc) (c : Cmd)
  | kresume (src : CmdSrc) (c : Cmd)
  | copy (src : CmdSrc) (c : Cmd)
  | barcfg (src : CmdSrc) (c : Cmd)
  | redjob (src : CmdSrc) (c : Cmd)
  | redctlClose (src : CmdSrc) (c : Cmd)
  | redctlUnconfigure (src : CmdSrc) (c : Cmd)
  | updjob (src : CmdSrc) (c : Cmd)
  | updstop (src : CmdSrc) (c : Cmd)
  | fltresRetry (src : CmdSrc) (c : Cmd)
  | fltresAbort (src : CmdSrc) (c : Cmd)
  | inval (src : CmdSrc) (c : Cmd)
  | fabcfg (src : CmdSrc) (c : Cmd)
  | fmcast (src : CmdSrc) (c : Cmd)
  | portctlUnquarantine (src : CmdSrc) (c : Cmd)
  | portctlRetrain (src : CmdSrc) (c : Cmd)
  | pantryConfig (src : CmdSrc) (c : Cmd)
  | pantryReset (src : CmdSrc) (c : Cmd)
  | pantryIntake (src : CmdSrc) (c : Cmd)
  | pantrySelect (src : CmdSrc) (c : Cmd)
  | pantryFeed (src : CmdSrc) (c : Cmd)
  | pantryPublish (src : CmdSrc) (c : Cmd)
  | pantryQuery (src : CmdSrc) (c : Cmd)
  | pantryUnconfig (src : CmdSrc) (c : Cmd)
  | cadenceStart (src : CmdSrc) (c : Cmd)
  | cadenceStop (src : CmdSrc) (c : Cmd)
  | cadenceAdjust (src : CmdSrc) (c : Cmd)
  | cadenceResume (src : CmdSrc) (c : Cmd)
  | create (src : CmdSrc) (c : Cmd)
  | destroy (src : CmdSrc) (c : Cmd)
  | moveCells (src : CmdSrc) (c : Cmd)
  | moveMem (src : CmdSrc) (c : Cmd)
  | moveRings (src : CmdSrc) (c : Cmd)
  | ports (src : CmdSrc) (c : Cmd)
  | setCtx (src : CmdSrc) (c : Cmd)
  | clearCtx (src : CmdSrc) (c : Cmd)
  | share (src : CmdSrc) (c : Cmd)
  | waymask (src : CmdSrc) (c : Cmd)
  | scope (src : CmdSrc) (c : Cmd)
  | assist (src : CmdSrc) (c : Cmd)
  | physwin (src : CmdSrc) (c : Cmd)
  | discard (src : CmdSrc) (c : Cmd)
  -- coupling service: pantries 0-7, and 8 + i for the queue of query service i
  | pantryTicketTake (p : Fin 16) (i : Fin 10)
  | intakeSkip (p : Fin 16) (i : Fin 10)
  | queryBatchTimeout (p : Fin 16) (i : Fin 2)
  | queryDoneRead (p : Fin 16) (i : Fin 2)
  | queryDoneTimeout (p : Fin 16) (i : Fin 2)
  | cadencePeriodStart (p : Fin 16) (i : Fin 4)
  | cadencePhaseEnd (p : Fin 16) (i : Fin 4)
  -- interrupts
  | irqFlagSet (fl : IrqFlag)
  | irqFilterPass (ctl : Fin 5) (src : Fin 512)
  | irqTake (t : Fin 17) (ctl : BitVec 3) (src : BitVec 9)
  | irqDone (t : Fin 17) (ctl : BitVec 3) (src : BitVec 9)
  | irqHoldoffExpiry (ctl : Fin 5) (g : Fin 32)
  -- power, clocks and thermal control
  | powerSample (x : InputSample)
  | sustainedOverdraw
  | powerControlStep (x : ControlSample)
  | recalibrationComplete (c : Fin 480) (rec : CalRecord)
  | calibrationRetake (c : Fin 480) (rec : CalRecord)
  | thermalStepEntry (sc : ThermalScope) (step : Fin 4)
  | thermalStepExit (sc : ThermalScope)
  | thermalTrip (sc : ThermalScope)
  | powerAnswerTimeout (p : Fin 16)
  | pwrAnsWrite (rq : Requester) (p : Fin 16) (v : Word)
  | pwrCapWrite (rq : Requester) (v : Word)
  | pwrCeilWrite (rq : Requester) (v : Word)
  | mgtModnumWrite (rq : Requester) (v : Word)
  | mgtSvnWrite (rq : Requester) (v : Word)
  | mgtBadstkWrite (rq : Requester) (v : Word)
  | otpBurnComplete
  -- resets and recovery
  | cellReset (rq : Requester) (d : Fin 4) (v : Word)
  | warmResetWrite (rq : Requester) (v : Word) (straps : BitVec 5)
  | partitionReset (rq : Requester) (v : Word)
  | recoveryResume (rq : Requester) (p : Fin 16) (v : Word)
  | recoveryEnd (rq : Requester) (p : Fin 16) (v : Word)
  | recoveryReset (rq : Requester) (p : Fin 16) (v : Word)
  | heartbeat (k : Ctlr)
  | heartbeatLost (k : Ctlr)
  | controllerTakeover (k : Ctlr)
  | restartTimeout (k : Ctlr)
  | junctionHang
  -- management
  | entdaa (addr : BitVec 7)
  | setEndpointId (b : Binding) (eid : BitVec 8)
  | getEndpointId (b : Binding)
  | getEndpointUuid (b : Binding)
  | getMctpVersionSupport (b : Binding) (type : BitVec 8)
  | getMessageTypeSupport (b : Binding)
  | pldmResetRequest (b : Binding) (straps : BitVec 5)
  | getSensorReading (b : Binding) (sensor : BitVec 16)
  | getStateSensorReadings (b : Binding) (sensor : BitVec 16)
  | setEventReceiver (b : Binding) (eid : BitVec 8) (mode : BitVec 2)
  | platformEventMessage (b : Binding)
  | requestUpdate (b : Binding)
  | passComponentTable (b : Binding) (comps : List CompEntry)
  | firmwareComponentWrite (b : Binding) (comp : Fin 5) (img : Image)
  | activateFirmware (b : Binding)
  | getVersion (b : Binding)
  | getCapabilities (b : Binding)
  | negotiateAlgorithms (b : Binding) (ecdsa384 sha384 : Bool)
  | getDigests (b : Binding)
  | getCertificate (b : Binding) (slot : Fin 8) (off len : BitVec 16)
  | challenge (b : Binding) (slot : Fin 8) (nonce : BitVec 256)
  | getMeasurements (b : Binding) (index : BitVec 8) (sign : Bool) (nonce : BitVec 256)
  -- registers
  | unlockWrite (rq : Requester) (off : Fin 67108864) (v : Word)
  | chnJobWrite (rq : Requester) (p : Fin 16) (v : Word)
  | w1cClear (rq : Requester) (off : Fin 67108864) (v : Word)
  | registerWrite (rq : Requester) (off : Fin 67108864) (size : Fin 16) (v : Word)
  -- rows that stand at the table's end
  | commandedPowerDown
  | illegalOpcode (mc : Fin 1920) (w : Word)
  | fetchFault (mc : Fin 1920)
  | configurationWrite (f : Fin 16) (w : CfgWrite)
  | pcieLinkStateChange (up : Bool) (rate : Fin 8) (width : Fin 8)
  | cancelUpdate (b : Binding)
  | slowClockEdge
  deriving DecidableEq, Repr

end Sys2Proof
end

