-- ==== Sys2Proof/Decode.lean ====
section
/-! DEFINITION. The command that a word spells. The table of operations gives no row any bits, so no word spells a command. -/

namespace Sys2Proof

/-- No row of the table has bits (every row's list of fields is empty), so every word is refused (log entry 16). -/
def decodeTableWord (_nbits _w : Nat) : Option Instr := none

end Sys2Proof
end

