-- ==== Sys2Proof/Config.lean ====
section
/-! DEFINITION. The values the spec leaves open: constants without a body, so that nothing can be proved of what they are. -/

namespace Sys2Proof

/-- A free 64-bit value, fresh for each number of the free-value counter (log entry 1). -/
opaque Config.freeWord : Nat → Word

/-- The digest (SHA-384, as a number) of bytes: the spec names the standard and states no function (log entry 20). -/
opaque Config.sha384 : List Nat → Nat

/-- A signature by the module's device key over a digest (R635, log entry 20). -/
opaque Config.deviceSign : Nat → Nat

/-- The factory calibration record of a cell: its 64 bytes as a little-endian number (R598, log entry 45). -/
opaque Config.factoryCal : Nat → Nat

/-- What a calibration record's p_idle or k_dyn that is no number stands for, by its code (log entry 45). -/
opaque Config.calSpecial : Nat → Nat

/-- The droop class of a cell (R598, log entry 45). -/
opaque Config.droopClass : Nat → Nat

/-- The module's UUID (R626, log entry 51). -/
opaque Config.uuid : Nat

/-- The measurement of the boot ROM (R636, log entry 51). -/
opaque Config.romDigest : Nat

/-- The certificate chain of slot 0 (R635, log entry 51): its length and its bytes. -/
opaque Config.certLen : Nat
opaque Config.certByte : Nat → Nat

/-- Device physical address of the 64 MiB junction-die SRAM, and of each core's mtimecmp and software interrupt (log entry 55). -/
opaque Config.jsramBase : Nat
opaque Config.mtimecmpAddr : Nat → Nat
opaque Config.msipAddr : Nat → Nat

/-- The machine information CSRs of a core: vendor, architecture, implementation, hart and configuration pointer (log entry 27). -/
opaque Config.idCsr : Nat → Nat → Nat

/-- vl for an AVL between VLMAX and 2 × VLMAX, before it is held to the range that the V extension gives (log entry 56). -/
opaque Config.vlChoice : Nat → Nat → Nat

end Sys2Proof
end

