-- ==== Sys2Proof/Machine/Maps.lean ====
section
/-! DEFINITION. Sparse storage: reading, writing and the canonical form. -/

namespace Sys2Proof.Machine

/-- The entry of a key, if it is listed. -/
def mfind {α : Type} (m : SMap α) (k : Nat) : Option α :=
  match m with
  | [] => none
  | (j, v) :: r => if j = k then some v else mfind r k

/-- List the value at a key, keeping the keys in rising order. -/
def mput {α : Type} (m : SMap α) (k : Nat) (v : α) : SMap α :=
  match m with
  | [] => [(k, v)]
  | (j, w) :: r => if j < k then (j, w) :: mput r k v else if j = k then (k, v) :: r else (k, v) :: (j, w) :: r

/-- Unlist a key. -/
def mdel {α : Type} (m : SMap α) (k : Nat) : SMap α :=
  match m with
  | [] => []
  | (j, w) :: r => if j = k then mdel r k else (j, w) :: mdel r k

/-- Read a key; an unlisted key k reads as d k. -/
def mgetF {α : Type} (d : Nat → α) (m : SMap α) (k : Nat) : α := (mfind m k).getD (d k)

/-- Write a key; the value an unlisted key reads as is not listed. -/
def msetF {α : Type} [DecidableEq α] (d : Nat → α) (m : SMap α) (k : Nat) (v : α) : SMap α :=
  if v = d k then mdel m k else mput m k v

/-- Read with one default for every key. -/
def mget {α : Type} (d : α) (m : SMap α) (k : Nat) : α := mgetF (fun _ => d) m k

/-- Write with one default for every key. -/
def mset {α : Type} [DecidableEq α] (d : α) (m : SMap α) (k : Nat) (v : α) : SMap α := msetF (fun _ => d) m k v

/-- The keys of a map rise strictly from above a bound. -/
def risingFrom {α : Type} (lo : Nat) (m : SMap α) : Bool :=
  match m with
  | [] => true
  | (k, _) :: r => decide (lo ≤ k) && risingFrom (k + 1) r

/-- The canonical form: keys strictly rising, no entry that equals what its key reads as when unlisted. -/
def canonF {α : Type} [DecidableEq α] (d : Nat → α) (m : SMap α) : Bool :=
  risingFrom 0 m && m.all (fun p => decide (p.2 ≠ d p.1))

/-- The canonical form of a memory of bytes in which an unlisted byte reads as 0. -/
def Memory.wf (m : SMap Byte) : Bool := canonF (fun _ => 0) m

/-- n bytes from an address upwards. -/
def readBytes (m : SMap Byte) (a n : Nat) : List Byte :=
  match n with
  | 0 => []
  | k + 1 => mget 0 m a :: readBytes m (a + 1) k

/-- Write bytes from an address upwards. -/
def writeBytes (m : SMap Byte) (a : Nat) (bs : List Byte) : SMap Byte :=
  match bs with
  | [] => m
  | b :: r => writeBytes (mset 0 m a b) (a + 1) r

/-- Write the bytes of a list whose mark is true, from an address upwards. -/
def writeMasked (m : SMap Byte) (a : Nat) (bs : List Byte) (keep : List Bool) : SMap Byte :=
  match bs, keep with
  | b :: r, k :: ks => writeMasked (if k then mset 0 m a b else m) (a + 1) r ks
  | _, _ => m

end Sys2Proof.Machine
end

