-- ==== Sys2Proof/Machine/Bits.lean ====
section
/-! DEFINITION. Bit fields, byte order and two's complement (R4-R6). -/

namespace Sys2Proof.Machine

/-- Bits [lo+len-1:lo] of a number. -/
def bits (v lo len : Nat) : Nat := (v >>> lo) % 2 ^ len

/-- Bit i of a number. -/
def bit (v i : Nat) : Bool := v.testBit i

/-- Field [lo+len-1:lo] of a register. -/
def fld (v : Word) (lo len : Nat) : Nat := bits v.toNat lo len

/-- The 64-bit mask of a field. -/
def maskW (lo len : Nat) : Word := BitVec.ofNat 64 ((2 ^ len - 1) <<< lo)

/-- A register with field [lo+len-1:lo] replaced by the low bits of x. -/
def setFld (v : Word) (lo len x : Nat) : Word :=
  (v &&& ~~~ maskW lo len) ||| (BitVec.ofNat 64 (x % 2 ^ len) <<< lo)

/-- Take the bits of a mask from b and the others from a. -/
def mergeW (a b mask : Word) : Word := (a &&& ~~~ mask) ||| (b &&& mask)

/-- A truth value as a number. -/
def b2n (b : Bool) : Nat := if b then 1 else 0

/-- The two's-complement value of the low len bits. -/
def sext (v len : Nat) : Int :=
  let x := v % 2 ^ len
  if x < 2 ^ (len - 1) then (x : Int) else (x : Int) - (2 ^ len : Nat)

/-- The low len bits of an integer. -/
def toBits (x : Int) (len : Nat) : Nat := (x % ((2 ^ len : Nat) : Int)).toNat

/-- The number that little-endian bytes spell (R6). -/
def ofLE (bs : List Byte) : Nat :=
  match bs with
  | [] => 0
  | b :: r => b.toNat + 256 * ofLE r

/-- A number as n little-endian bytes. -/
def toLE (n v : Nat) : List Byte :=
  match n with
  | 0 => []
  | k + 1 => BitVec.ofNat 8 (v % 256) :: toLE k (v / 256)

/-- A little-endian number of n bytes in a byte memory. -/
def readLE (m : SMap Byte) (a n : Nat) : Nat := ofLE (readBytes m a n)

/-- Store a little-endian number of n bytes. -/
def writeLE (m : SMap Byte) (a n v : Nat) : SMap Byte := writeBytes m a (toLE n v)

/-- n bytes at offset a of a record held as one little-endian number. -/
def recB (r a n : Nat) : Nat := bits r (8 * a) (8 * n)

/-- Add to a count that stays at its largest value of len bits. -/
def satAdd (x y len : Nat) : Nat := min (x + y) (2 ^ len - 1)

/-- Ceiling of a quotient. -/
def cdiv (a b : Nat) : Nat := (a + b - 1) / b

/-- A list index in range, else a default. -/
def nth {α : Type} (d : α) (l : List α) (i : Nat) : α := (l[i]?).getD d

/-- Replace an entry of a list. -/
def putAt {α : Type} (l : List α) (i : Nat) (v : α) : List α := l.set i v

/-- Change the entries that meet a test. -/
def mapWhere {α : Type} (l : List α) (p : α → Bool) (f : α → α) : List α := l.map (fun x => if p x then f x else x)

/-- The numbers 0 to n - 1. -/
def upTo (n : Nat) : List Nat := List.range n

/-- Do the steps of a list from left to right. -/
def forEach {α σ : Type} (l : List α) (s : σ) (f : σ → α → σ) : σ := l.foldl f s

end Sys2Proof.Machine
end

