-- ==== Sys2Proof/Machine/RegMap.lean ====
section
/-! DEFINITION. The register space (R644-R664): blocks, registers, fields, access codes and reset values. -/

namespace Sys2Proof.Machine

/-! ### Where the blocks stand -/

/-- Key of the function page of function f: the PF's page stands in the register space, a VF's beside it (R498, R644). -/
def fnPage (f : Nat) : Nat := if f = 0 then 0 else 0x1000_0000 + 0x1_0000 * f

/-- Key of the registers of ring r, which stand in the page of the function it is bound to (R498). -/
def ringKey (r : Nat) : Nat := 0x2000_0000 + 0x20 * r

/-- CFG block (R660). -/
def cfgBase : Nat := 0x20_0000
/-- PWR block (R660). -/
def pwrBase : Nat := 0x20_1000
/-- MMU block (R660). -/
def mmuBase : Nat := 0x20_2000
/-- RED block (R660). -/
def redBase : Nat := 0x20_3000
/-- PAN block (R660). -/
def panBase : Nat := 0x20_4000
/-- MGT block (R660). -/
def mgtBase : Nat := 0x20_5000
/-- RST block of the junction die (R660). -/
def rstJBase : Nat := 0x20_6000
/-- CHN block (R660). -/
def chnBase : Nat := 0x20_8000
/-- IRQ block of the junction die (R660). -/
def irqJBase : Nat := 0x21_0000
/-- Window of die d (R660). -/
def dieBase (d : Nat) : Nat := 0x40_0000 + 0x1_0000 * d
/-- IRQ block of die d (R661). -/
def irqDBase (d : Nat) : Nat := dieBase d
/-- SRM block of die d (R661). -/
def srmBase (d : Nat) : Nat := dieBase d + 0x4000
/-- HBM block of stack s (R12, R661). -/
def hbmBase (s : Nat) : Nat := dieBase (s / 3) + 0x5000 + 0x1000 * (s % 3)
/-- CEL block of cellar engine s (R12, R661). -/
def celBase (s : Nat) : Nat := dieBase (s / 3) + 0x8000 + 0x1000 * (s % 3)
/-- RST block of die d (R661). -/
def rstDBase (d : Nat) : Nat := dieBase d + 0xB000
/-- Window of cell c (R660). -/
def cellBase (c : Nat) : Nat := 0x100_0000 + 0x1000 * c
/-- MXC block of a matrix core (R662). -/
def mxcBase (mc : Nat) : Nat := cellBase (mc / 4) + 0x100 * (mc % 4)
/-- MXQ block of a matrix core (R662). -/
def mxqBase (mc : Nat) : Nat := cellBase (mc / 4) + 0x400 + 0x200 * (mc % 4)
/-- DMA block of a cell (R662). -/
def dmaBase (c : Nat) : Nat := cellBase c + 0xC00
/-- SYN block of a cell (R662). -/
def synBase (c : Nat) : Nat := cellBase c + 0xE00

/-- The blocks of the register space (R660-R662). -/
inductive Block where
  | fn (f : Nat)
  | ring (r : Nat)
  | cfg
  | pwr
  | mmu
  | red
  | pan
  | mgt
  | rstJ
  | chn
  | irqJ
  | irqD (d : Nat)
  | srm (d : Nat)
  | hbm (s : Nat)
  | cel (s : Nat)
  | rstD (d : Nat)
  | mxc (mc : Nat)
  | mxq (mc : Nat)
  | dma (c : Nat)
  | syn (c : Nat)
  | nowhere
  deriving DecidableEq, Repr

/-- The block that holds an offset, and the offset within it. -/
def blockOf (k : Nat) : Block × Nat :=
  if k ≥ 0x2000_0000 then (.ring ((k - 0x2000_0000) / 0x20), (k - 0x2000_0000) % 0x20)
  else if k ≥ 0x1000_0000 then (.fn ((k - 0x1000_0000) / 0x1_0000), k % 0x1_0000)
  else if k < 0x1_0000 then (.fn 0, k)
  else if k ≥ 0x100_0000 then
    let c := (k - 0x100_0000) / 0x1000
    let o := k % 0x1000
    if c ≥ 480 then (.nowhere, o)
    else if o < 0x400 then (.mxc (4 * c + o / 0x100), o % 0x100)
    else if o < 0xC00 then (.mxq (4 * c + (o - 0x400) / 0x200), (o - 0x400) % 0x200)
    else if o < 0xE00 then (.dma c, o - 0xC00)
    else (.syn c, o - 0xE00)
  else if k ≥ 0x40_0000 then
    let d := (k - 0x40_0000) / 0x1_0000
    let o := k % 0x1_0000
    if d ≥ 4 then (.nowhere, o)
    else if o < 0x4000 then (.irqD d, o)
    else if o < 0x5000 then (.srm d, o - 0x4000)
    else if o < 0x8000 then (.hbm (3 * d + (o - 0x5000) / 0x1000), (o - 0x5000) % 0x1000)
    else if o < 0xB000 then (.cel (3 * d + (o - 0x8000) / 0x1000), (o - 0x8000) % 0x1000)
    else if o < 0xC000 then (.rstD d, o - 0xB000)
    else (.nowhere, o)
  else if 0x20_0000 ≤ k ∧ k < 0x20_7000 then
    (match (k - 0x20_0000) / 0x1000 with
      | 0 => .cfg
      | 1 => .pwr
      | 2 => .mmu
      | 3 => .red
      | 4 => .pan
      | 5 => .mgt
      | _ => .rstJ, k % 0x1000)
  else if 0x20_8000 ≤ k ∧ k < 0x20_C000 then (.chn, k - 0x20_8000)
  else if 0x21_0000 ≤ k ∧ k < 0x21_8000 then (.irqJ, k - 0x21_0000)
  else (.nowhere, k)

/-! ### Fields -/

/-- Access codes of the register tables (R5, R649). -/
inductive Acc where
  | rw
  | kw
  | cw
  | ro
  | rc
  | w1c
  | wo
  deriving DecidableEq, Repr

/-- A field of a register: lowest bit, length, access code, reset value. -/
structure RegField where
  lo : Nat
  len : Nat
  acc : Acc
  rst : Nat
  deriving DecidableEq, Repr

/-- Reset target of source n of a compute-die controller (R579). -/
def dieTgt (d n : Nat) : Nat :=
  if n ≤ 8 then 2 * d
  else if n = 9 then 2 * d + 1
  else if n = 10 then 2 * d
  else if n ≤ 12 then 2 * d
  else if n = 13 then 2 * d + 1
  else if n = 14 then 2 * d
  else if n = 15 then 2 * d + 1
  else if n < 136 then 2 * d + (n - 16) / 60
  else 17

/-- Reset target of source n of the junction-die controller (R581). -/
def jTgt (n : Nat) : Nat :=
  if n ≤ 11 then 16
  else if n = 12 ∨ n = 13 then 8
  else if n = 14 then 16
  else if n = 16 ∨ n = 17 then 15
  else if n = 18 then 8
  else if n = 19 ∨ n = 20 then 15
  else if 32 ≤ n ∧ n < 50 then 15
  else if 64 ≤ n ∧ n < 80 then 8 + (n - 64) % 4
  else if 112 ≤ n ∧ n < 116 then 15
  else if n = 116 then 0
  else if 117 ≤ n ∧ n < 125 then 16
  else 17

/-- Fields of an UNLOCK register (R655). -/
def unlockFields : List RegField := [⟨0, 16, .wo, 0⟩, ⟨16, 1, .ro, 0⟩]

/-- Fields of the function page of function f (R498, R524, R525). -/
def fnFields (f o : Nat) : List RegField :=
  if o = 0 then [⟨0, 4, .ro, f⟩, ⟨4, 1, .ro, b2n (f == 0)⟩]
  else if o = 8 then [⟨0, 1, .rw, 0⟩, ⟨8, 10, .rw, 0⟩, ⟨24, 8, .rw, 40⟩]
  else if o = 0x10 then [⟨0, 6, .rw, 0⟩, ⟨6, 1, .rw, 0⟩, ⟨30, 18, .rw, 0⟩]
  else if o = 0x18 then [⟨0, 1, .rc, 0⟩, ⟨1, 1, .rc, 0⟩, ⟨16, 16, .rc, 0⟩, ⟨32, 16, .rc, 0⟩, ⟨48, 1, .w1c, 0⟩]
  else if o = 0x100 then [⟨0, 32, .ro, 0⟩, ⟨32, 8, .ro, 0⟩, ⟨40, 1, .ro, 0⟩, ⟨41, 7, .ro, 0⟩]
  else if 0x200 ≤ o ∧ o < 0x300 then [⟨0, 64, .ro, 0⟩]
  else if 0x2000 ≤ o ∧ o < 0x2800 then
    if o % 16 = 0 then [⟨2, 30, .rw, 0⟩, ⟨32, 32, .rw, 0⟩] else [⟨0, 32, .rw, 0⟩, ⟨32, 1, .rw, 1⟩]
  else if o = 0x3000 ∨ o = 0x3008 then [⟨0, 64, .ro, 0⟩]
  else []

/-- Fields of a ring's registers (R502). -/
def ringFields (o : Nat) : List RegField :=
  if o = 0 then [⟨12, 52, .rw, 0⟩]
  else if o = 8 then
    [⟨0, 2, .rw, 0⟩, ⟨2, 1, .rw, 0⟩, ⟨3, 5, .rw, 4⟩, ⟨8, 10, .rw, 0⟩, ⟨18, 7, .rw, 0⟩, ⟨26, 2, .rc, 0⟩, ⟨28, 4, .rc, 0⟩]
  else if o = 0x10 then [⟨0, 16, .rc, 0⟩, ⟨16, 16, .rc, 0⟩, ⟨32, 1, .rc, 0⟩]
  else []

/-- Fields of the CFG block (R546, R663, R664). -/
def cfgFields (o : Nat) : List RegField :=
  if o = 0 then [⟨0, 16, .ro, 0x0F09⟩, ⟨16, 4, .ro, 0⟩, ⟨20, 16, .ro, 0⟩, ⟨36, 1, .ro, 0⟩]
  else if o = 8 then [⟨0, 64, .ro, 0xF0_0000_0000⟩]
  else if o = 0x10 then [⟨0, 16, .rc, 0⟩, ⟨16, 16, .rc, 0⟩, ⟨32, 23, .rc, 0⟩, ⟨55, 1, .rc, 0⟩, ⟨56, 1, .w1c, 0⟩]
  else if 0x100 ≤ o ∧ o < 0x180 then (upTo 9).map (fun i => ⟨i, 1, .kw, 0⟩)
  else if 0x180 ≤ o ∧ o < 0x200 then
    [⟨0, 1, .rc, b2n (o == 0x180)⟩, ⟨1, 9, .rc, 0⟩, ⟨10, 10, .rc, 0⟩, ⟨20, 11, .rc, 16 * b2n (o == 0x180)⟩]
  else if o = 0xFF0 then unlockFields
  else []

/-- Fields of the PWR block (R604, R605). -/
def pwrFields (o : Nat) : List RegField :=
  if o = 0 then [⟨0, 16, .cw, 4000⟩, ⟨16, 4, .ro, 8⟩]
  else if o = 8 then [⟨0, 16, .kw, 4000⟩]
  else if o = 0x10 then [⟨0, 16, .rc, 4000⟩, ⟨16, 12, .rc, 1850⟩, ⟨28, 3, .rc, 0⟩, ⟨31, 2, .rc, 0⟩, ⟨33, 1, .rc, 0⟩]
  else if o = 0x18 then [⟨0, 16, .rc, 0⟩, ⟨16, 16, .rc, 0⟩, ⟨32, 16, .rc, 0⟩, ⟨48, 16, .rc, 0⟩]
  else if o = 0x20 then [⟨0, 12, .rc, 0⟩, ⟨12, 12, .rc, 0⟩, ⟨24, 12, .rc, 0⟩, ⟨36, 12, .rc, 0⟩, ⟨48, 12, .rc, 0⟩]
  else if o = 0x28 then [⟨0, 8, .rc, 0⟩, ⟨8, 8, .rc, 0⟩, ⟨16, 8, .rc, 0⟩, ⟨24, 8, .rc, 0⟩]
  else if o = 0x30 then [⟨0, 16, .rc, 0⟩, ⟨16, 16, .rc, 0⟩, ⟨32, 1, .w1c, 0⟩]
  else if o = 0x38 then [⟨0, 9, .rc, 0⟩]
  else if 0x100 ≤ o ∧ o < 0x180 then [⟨0, 32, .kw, 0⟩, ⟨32, 32, .kw, 0⟩]
  else if o = 0xFF0 then unlockFields
  else []

/-- Fields of the MMU block (R329-R331). -/
def mmuFields (o : Nat) : List RegField :=
  if o = 0 then [⟨11, 37, .kw, 0⟩]
  else if o = 8 then [⟨0, 6, .rw, 0⟩, ⟨8, 2, .rw, 0⟩, ⟨10, 1, .wo, 0⟩, ⟨11, 1, .rc, 0⟩, ⟨12, 1, .w1c, 0⟩]
  else if o = 0x10 then [⟨12, 36, .rw, 0⟩]
  else if o = 0x18 then [⟨0, 36, .rw, 0⟩]
  else if o = 0x20 then [⟨0, 32, .rc, 0⟩, ⟨32, 16, .rc, 0⟩, ⟨48, 16, .rc, 0⟩]
  else if 0x28 ≤ o ∧ o ≤ 0x40 then [⟨0, 64, .rc, 0⟩]
  else if o = 0xFF0 then unlockFields
  else []

/-- Fields of the RED block (R468-R470). -/
def redFields (o : Nat) : List RegField :=
  if o = 0 then [⟨0, 16, .rw, 100⟩, ⟨16, 16, .rw, 0⟩]
  else if o = 8 then [⟨0, 13, .rc, 0⟩, ⟨16, 13, .rc, 0⟩]
  else if o = 0x10 then [⟨0, 24, .rc, 0⟩, ⟨24, 16, .rc, 0⟩, ⟨40, 16, .rc, 0⟩, ⟨56, 1, .w1c, 0⟩]
  else []

/-- Fields of PAN_SVCp (R568). -/
def panFields (o : Nat) : List RegField :=
  if o < 0x80 then [⟨0, 8, .rc, 0⟩, ⟨8, 2, .rc, 0⟩, ⟨10, 4, .rc, 0⟩, ⟨14, 1, .rc, 0⟩, ⟨16, 16, .rc, 0⟩] else []

/-- Fields of the MGT block (R642, R643). -/
def mgtFields (o : Nat) : List RegField :=
  if o = 0 then [⟨0, 1, .rc, 0⟩, ⟨1, 3, .rc, 0⟩, ⟨4, 3, .rc, 0⟩]
  else if o = 8 then [⟨0, 14, .cw, 0⟩, ⟨14, 1, .ro, 0⟩, ⟨15, 4, .ro, 8⟩]
  else if o = 0x10 then [⟨0, 7, .cw, 0⟩, ⟨7, 7, .ro, 64⟩]
  else if o = 0x18 then [⟨0, 12, .cw, 0⟩, ⟨12, 12, .ro, 0⟩]
  else if o = 0x20 then (upTo 6).map (fun i => ⟨i, 1, .w1c, 0⟩)
  else if o = 0x28 then [⟨0, 64, .rw, 0⟩]
  else if 0x30 ≤ o ∧ o ≤ 0x68 then [⟨0, 64, .rc, 0⟩]
  else if o = 0xFF0 then unlockFields
  else []

/-- Fields of the RST block of the junction die (R623, R624). -/
def rstJFields (o : Nat) : List RegField :=
  if o = 0 then [⟨0, 3, .rc, 0⟩, ⟨3, 1, .rc, 0⟩, ⟨4, 3, .rc, 0⟩, ⟨8, 16, .rc, 0⟩]
  else if o = 8 then [⟨0, 1, .kw, 0⟩]
  else if o = 0x10 then [⟨0, 4, .kw, 0⟩, ⟨4, 1, .kw, 0⟩]
  else if o = 0x18 then
    [⟨0, 5, .rc, 31⟩, ⟨5, 8, .rc, 0⟩, ⟨13, 2, .rc, 0⟩, ⟨15, 1, .rc, 0⟩] ++ (upTo 8).map (fun n => ⟨16 + 2 * n, 2, .rc, 0⟩)
  else if 0x100 ≤ o ∧ o ≤ 0x140 then [⟨0, 64, .wo, 0⟩]
  else if 0x200 ≤ o ∧ o < 0x280 then [⟨0, 32, .kw, 0⟩, ⟨32, 2, .kw, 0⟩]
  else if o = 0xFF0 then unlockFields
  else []

/-- Fields of the RST block of die d (R623, R624). -/
def rstDFields (d o : Nat) : List RegField :=
  if o = 0 ∨ o = 8 then [⟨0, 64, .wo, 0⟩]
  else if o = 0x10 then [⟨0, 5, .rc, 2 * d⟩, ⟨5, 5, .rc, 2 * d + 1⟩, ⟨10, 2, .rc, 0⟩, ⟨12, 2, .rc, 0⟩]
  else if o = 0x18 then [⟨0, 7, .kw, 0⟩, ⟨7, 1, .kw, 0⟩]
  else if o = 0xFF0 then unlockFields
  else []

/-- Fields of the CHN block (R432-R438). -/
def chnFields (o : Nat) : List RegField :=
  if o = 0 then [⟨0, 14, .rc, 0⟩, ⟨14, 1, .rc, 0⟩]
  else if o = 8 then [⟨0, 8, .kw, 64⟩, ⟨8, 8, .kw, 16⟩, ⟨16, 16, .kw, 200⟩]
  else if o = 0x10 then [⟨0, 18, .rw, 0x3_FFFF⟩]
  else if 0x80 ≤ o ∧ o < 0x100 then [⟨0, 16, .kw, 0⟩, ⟨16, 1, .kw, 0⟩]
  else if o = 0xFF0 then unlockFields
  else if 0x1000 ≤ o ∧ o < 0x2200 then
    (match o % 0x100 with
      | 0 => [⟨0, 1, .rw, 0⟩, ⟨1, 2, .rw, 0⟩, ⟨3, 2, .rw, 0⟩, ⟨5, 1, .wo, 0⟩, ⟨6, 1, .kw, 0⟩, ⟨7, 1, .rw, 0⟩, ⟨16, 16, .rw, 16384⟩]
      | 8 => [⟨0, 4, .rc, 0⟩, ⟨4, 2, .rc, 3⟩, ⟨6, 4, .rc, 0⟩, ⟨10, 1, .rc, 0⟩, ⟨11, 1, .rc, 0⟩, ⟨12, 1, .rc, 0⟩,
              ⟨13, 1, .rc, 0⟩, ⟨14, 16, .rc, 0⟩, ⟨30, 8, .rc, 0⟩]
      | 0x10 => [⟨0, 16, .kw, 0⟩]
      | 0x18 => [⟨0, 16, .rc, 0⟩, ⟨16, 16, .rc, 0⟩, ⟨32, 8, .rc, 0⟩, ⟨40, 8, .rc, 0⟩, ⟨48, 1, .w1c, 0⟩]
      | 0x20 => [⟨0, 16, .rc, 0⟩, ⟨16, 4, .rc, 0⟩, ⟨20, 14, .rc, 0⟩, ⟨34, 1, .rc, 0⟩, ⟨35, 1, .w1c, 0⟩]
      | 0x28 => [⟨0, 16, .rc, 0⟩, ⟨16, 16, .rc, 0⟩, ⟨32, 16, .rc, 0⟩, ⟨48, 16, .rc, 0⟩]
      | _ => [])
  else []

/-- The bits of IRQ_MSTAT that R581 assigns. -/
def mstatBit (i : Nat) : Bool := decide (i < 33) && !(i == 15 || i == 16 || i == 18)

/-- Eight 8-bit counters (R586). -/
def cntFields : List RegField := (upTo 8).map (fun i => ⟨8 * i, 8, .rc, 0⟩)

/-- Fields of the IRQ block of the junction die (R586, R587). -/
def irqJFields (o : Nat) : List RegField :=
  if o < 0x200 then [⟨0, 16, .rw, 0⟩]
  else if o < 0x300 then [⟨0, 16, .rc, 0⟩, ⟨16, 16, .rc, 0⟩]
  else if 0x1000 ≤ o ∧ o < 0x2000 then [⟨0, 8, .rw, 4⟩, ⟨8, 5, .rw, jTgt ((o - 0x1000) / 8)⟩]
  else if o = 0x2000 then ((upTo 33).filter mstatBit).map (fun i => ⟨i, 1, .w1c, 0⟩)
  else if 0x2008 ≤ o ∧ o ≤ 0x2028 then cntFields
  else if 0x2100 ≤ o ∧ o < 0x2220 then
    if o % 16 = 0 then (upTo 5).map (fun i => ⟨i, 1, .w1c, 0⟩) else (upTo 5).map (fun i => ⟨8 * i, 8, .rc, 0⟩)
  else if 0x2400 ≤ o ∧ o < 0x2480 then (upTo 64).map (fun i => ⟨i, 1, .w1c, 0⟩)
  else if 0x3000 ≤ o ∧ o < 0x3220 then
    (match o % 0x20 with
      | 0 => [⟨0, 3, .rc, 0⟩, ⟨3, 9, .rc, 0⟩, ⟨12, 1, .rc, 0⟩, ⟨13, 1, .rc, 0⟩]
      | 8 => [⟨0, 3, .wo, 0⟩, ⟨3, 9, .wo, 0⟩]
      | 0x10 => [⟨0, 3, .wo, 0⟩, ⟨3, 9, .wo, 0⟩]
      | _ => [])
  else if 0x4000 ≤ o then [⟨0, 16, .rw, 0⟩]
  else []

/-- Fields of the IRQ block of die d (R586, R587). -/
def irqDFields (d o : Nat) : List RegField :=
  if o < 0x200 then [⟨0, 16, .rw, 0⟩]
  else if o < 0x300 then [⟨0, 16, .rc, 0⟩, ⟨16, 16, .rc, 0⟩]
  else if 0x800 ≤ o ∧ o < 0x1000 then [⟨0, 8, .rw, 4⟩, ⟨8, 5, .rw, dieTgt d ((o - 0x800) / 8)⟩]
  else if o = 0x1000 then (upTo 10).map (fun i => ⟨i, 1, .w1c, 0⟩)
  else if o = 0x1008 then cntFields
  else if o = 0x1010 then [⟨0, 8, .rc, 0⟩, ⟨8, 8, .rc, 0⟩]
  else if 0x2000 ≤ o ∧ o < 0x2F00 then
    (match o % 0x20 with
      | 0 => (upTo 11).map (fun i => ⟨i, 1, .w1c, 0⟩)
      | 8 => cntFields
      | 0x10 => [⟨0, 8, .rc, 0⟩, ⟨8, 8, .rc, 0⟩, ⟨16, 8, .rc, 0⟩]
      | _ => [])
  else []

/-- Fields of an SRM block (R290, R292). -/
def srmFields (o : Nat) : List RegField :=
  if o = 0 then [⟨0, 2, .kw, 0⟩, ⟨2, 1, .kw, 0⟩, ⟨3, 1, .rc, 0⟩, ⟨4, 1, .w1c, 0⟩]
  else if o = 8 then [⟨7, 41, .rw, 0⟩]
  else if o = 0x10 then [⟨7, 34, .rw, 0⟩]
  else if 0x100 ≤ o ∧ o < 0x180 then [⟨0, 16, .rw, 0xFFFF⟩]
  else if o = 0xFF0 then unlockFields
  else []

/-- Fields of an HBM block (R290, R291). -/
def hbmFields (o : Nat) : List RegField :=
  if o = 0 then [⟨0, 2, .rc, 0⟩, ⟨2, 1, .rc, 0⟩, ⟨3, 8, .rc, 0⟩, ⟨11, 8, .rc, 0⟩]
  else if o = 8 then [⟨0, 32, .rc, 0⟩, ⟨32, 16, .rc, 0⟩]
  else if o = 0x10 then [⟨0, 36, .rc, 0⟩]
  else []

/-- Fields of a CEL block (R492-R494). -/
def celFields (o : Nat) : List RegField :=
  if o = 0 then [⟨0, 3, .rc, 0⟩, ⟨3, 4, .rc, 0⟩, ⟨7, 1, .rc, 0⟩, ⟨8, 12, .rc, 0⟩, ⟨20, 32, .rc, 0⟩]
  else if o = 8 then [⟨0, 8, .rc, 0⟩, ⟨8, 4, .rc, 0⟩, ⟨16, 16, .rc, 0⟩, ⟨32, 1, .w1c, 0⟩]
  else if o = 0x10 then [⟨16, 32, .kw, 0⟩]
  else if o = 0xFF0 then unlockFields
  else []

/-- Fields of an MXC block (R192-R195). -/
def mxcFields (o : Nat) : List RegField :=
  if o = 0 then [⟨0, 1, .rw, 0⟩, ⟨1, 1, .rw, 0⟩, ⟨2, 1, .wo, 0⟩]
  else if o = 8 then [⟨0, 3, .rc, 0⟩, ⟨4, 4, .rc, 0⟩, ⟨8, 1, .w1c, 0⟩, ⟨9, 1, .w1c, 0⟩, ⟨10, 1, .w1c, 0⟩]
  else if o = 0x10 then [⟨0, 48, .rc, 0⟩, ⟨48, 1, .rc, 0⟩]
  else if o = 0x18 then [⟨0, 8, .rc, 0⟩, ⟨8, 4, .rc, 0⟩, ⟨12, 3, .rc, 0⟩]
  else if o = 0x20 then [⟨0, 48, .rc, 0⟩, ⟨48, 1, .rc, 0⟩]
  else []

/-- Fields of an MXQ block (R238-R241). -/
def mxqFields (o : Nat) : List RegField :=
  if o < 0x100 then
    (match o % 0x20 with
      | 0 => [⟨0, 32, .rc, 0⟩, ⟨32, 32, .rc, 0⟩]
      | 8 => [⟨0, 48, .rc, 0⟩]
      | 0x10 => [⟨0, 9, .rc, 0x100⟩, ⟨12, 4, .rc, 0⟩, ⟨16, 8, .rc, 0⟩, ⟨24, 1, .rc, 0⟩]
      | _ => [])
  else if o = 0x100 then [⟨0, 8, .wo, 0⟩]
  else []

/-- Fields of a DMA block (R357, R358). -/
def dmaFields (o : Nat) : List RegField :=
  if o = 0 then (upTo 6).map (fun q => ⟨5 * q, 5, .rc, 0⟩) ++ [⟨30, 1, .rc, 0⟩, ⟨31, 1, .rc, 0⟩]
  else if o = 8 then [⟨0, 8, .rc, 0⟩, ⟨8, 3, .rc, 0⟩, ⟨16, 16, .rc, 0⟩, ⟨32, 16, .rc, 0⟩, ⟨48, 1, .w1c, 0⟩]
  else []

/-- Fields of a SYN block (R385-R389). -/
def synFields (o : Nat) : List RegField :=
  if o < 0xA0 then
    (match o % 0x20 with
      | 0 => [⟨0, 32, .rw, 0⟩]
      | 8 => (upTo 32).map (fun i => ⟨i, 1, .w1c, 0⟩)
      | 0x10 => [⟨0, 5, .rc, 0⟩, ⟨5, 3, .rc, 0⟩, ⟨8, 1, .rc, 0⟩, ⟨9, 10, .rc, 0⟩]
      | _ => [])
  else if o = 0x100 then [⟨0, 16, .rw, 25⟩, ⟨16, 16, .rw, 0⟩]
  else if o = 0x108 then [⟨0, 16, .rc, 0⟩, ⟨16, 16, .rc, 0⟩, ⟨32, 1, .w1c, 0⟩]
  else []

/-- The fields of the register at a key; an offset that no register has reads zero and ignores writes (R646). -/
def regFields (k : Nat) : List RegField :=
  if k % 8 ≠ 0 then []
  else
    match blockOf k with
    | (.fn f, o) => fnFields f o
    | (.ring _, o) => ringFields o
    | (.cfg, o) => cfgFields o
    | (.pwr, o) => pwrFields o
    | (.mmu, o) => mmuFields o
    | (.red, o) => redFields o
    | (.pan, o) => panFields o
    | (.mgt, o) => mgtFields o
    | (.rstJ, o) => rstJFields o
    | (.chn, o) => chnFields o
    | (.irqJ, o) => irqJFields o
    | (.irqD d, o) => irqDFields d o
    | (.srm _, o) => srmFields o
    | (.hbm _, o) => hbmFields o
    | (.cel _, o) => celFields o
    | (.rstD d, o) => rstDFields d o
    | (.mxc _, o) => mxcFields o
    | (.mxq _, o) => mxqFields o
    | (.dma _, o) => dmaFields o
    | (.syn _, o) => synFields o
    | (.nowhere, _) => []

/-- The reset value of the register at a key. -/
def regReset (k : Nat) : Word :=
  (regFields k).foldl (fun v f => setFld v f.lo f.len f.rst) 0

/-- The bits of a register whose fields have a given access code. -/
def accMask (k : Nat) (p : Acc → Bool) : Word :=
  (regFields k).foldl (fun v f => if p f.acc then v ||| maskW f.lo f.len else v) 0

/-- The bits of fields that do not lie wholly within the half of a 4-byte write (R645). -/
def spanMask (k : Nat) : Word :=
  (regFields k).foldl (fun v f => if f.lo < 32 ∧ f.lo + f.len > 32 then v ||| maskW f.lo f.len else v) 0

end Sys2Proof.Machine
end

