-- ==== Sys2Proof/Machine/State.lean ====
section
/-! DEFINITION. Everything the spec gives the module, as plain data; the reasons a command can stop; the state after reset. -/

namespace Sys2Proof.Machine

/-- The machine stops with no next state. No command of the spec does: every failure the spec names is a status, a flag or a record. -/
inductive Fault where
  /-- Raised by no meaning of this model: kept for an address outside the machine's spaces (safe: it could only stop a run). -/
  | outsideAddressSpace (addr : Nat)
  deriving DecidableEq, Repr

/-- A command without a meaning. -/
inductive Refusal where
  /-- Raised by the arm of a command that has no meaning yet (safe: it stops the run). -/
  | notModelled (mnemonic : String)
  deriving DecidableEq, Repr

/-! ### Matrix cores -/

/-- The shape of a tile register (R152). -/
structure TileCfg where
  rows : Nat
  cols : Nat
  fmt : BitVec 4
  layout : BitVec 2
  bgrp : BitVec 2
  deriving DecidableEq, Repr

/-- The gradient-store mask in force at a core (R226, R232, R233). -/
inductive GradMask where
  | keepAll
  | discardAll
  | record (rows cols : List (Nat × Nat)) (rowInv colInv : Bool)
  deriving DecidableEq, Repr

/-- The tile requester's and the mover's operations that can be part-done (R190, R320). -/
inductive TileOpKind where
  | tld
  | tst
  | aspl
  | afil
  deriving DecidableEq, Repr

/-- What a masked write needs (R228, R231): the mask loads still to come, the mask, the origin and the shape it was issued with. -/
structure MaskUse where
  wait : Nat
  mask : GradMask
  orgRow : Word32
  orgCol : Word32
  cfg : TileCfg
  scales : Bool
  deriving DecidableEq, Repr

/-- A part-done TLD, TST, ASPL or AFIL with its progress (R190, R321, R322): `done` is the valid-row count, `img` the byte of
the register's image that row 0 starts at, `data` what a TST or ASPL has read, `bad` the rows of it that were poisoned. -/
structure TileOp where
  id : Nat
  kind : TileOpKind
  pc : Word
  reg : Nat
  scratch : Bool
  base : Nat
  stride : Nat
  rowBytes : Nat
  rows : Nat
  img : Nat
  done : Nat
  arrived : List Nat
  held : Option Word32
  data : List Byte
  bad : List Nat
  mask : Option MaskUse
  tag : Bool
  deriving DecidableEq, Repr

/-- One MMA: its problem record (R167), its fields (R161) and the numbers of its passes begun and ended. -/
structure MmaJob where
  pc : Word
  rcd : Nat
  abase : Nat
  loft : Bool
  ftz : Bool
  tile : Option Nat
  fmtA : Nat
  fmtB : Nat
  begun : Nat
  ended : Nat
  deriving DecidableEq, Repr

/-- A pass in the array, with the operands it streams (R127, R168): A panel, stationary image, scale panel, scale image. -/
structure ArrayPass where
  lds : Bool
  pc : Word
  loft : Bool
  fmtA : Nat
  fmtB : Nat
  ftz : Bool
  m : Nat
  ncols : Nat
  klen : Nat
  tile : Nat
  mi : Nat
  ni : Nat
  aOps : List Byte
  bOps : List Byte
  aScales : List Byte
  bScales : List Byte
  last : Bool
  deriving DecidableEq, Repr

/-- What a group of claimed accumulator tiles holds for an LDS (R207, R215). -/
structure LdsGroup where
  slot : Nat
  mi : Nat
  ni : Nat
  draining : Bool
  stamp : Nat
  deriving DecidableEq, Repr

/-- A running LDS: its descriptor (R197) and its progress record (R207): ticket and super-block, passes begun in it, the
panels and images its slots hold (slot, M block, N tile, K pass), groups, tiles spilled, the next ticket; the mask of its issue, and whether its staging region was written to (R200). -/
structure LdsState where
  pc : Word
  desc : Nat
  active : Bool
  ticket : Nat
  m0 : Nat
  n0 : Nat
  mb : Nat
  nb : Nat
  begun : Nat
  aHeld : List (Nat × Nat × Nat × Nat)
  aNext : Nat
  bHeld : List (Nat × Nat × Nat × Nat)
  bNext : Nat
  groups : List LdsGroup
  spilled : List (Nat × Nat)
  nextTicket : Option Nat
  noMore : Bool
  held : Option Word32
  clock : Nat
  maskWait : Nat
  mask : GradMask
  spoiled : Bool
  deriving DecidableEq, Repr

/-- A matrix core: storage of R114 and the control state of R149, R190 and R327 that its registers do not hold. -/
structure McState where
  launched : Bool := false
  scratch : SMap Byte := []
  tiles : SMap Byte := []
  cfg : SMap (Option TileCfg) := []
  acc : SMap Word32 := []
  zero : SMap Bool := []
  tag : SMap Bool := []
  tabFwd : SMap Byte := []
  tabDer : SMap Byte := []
  g : SMap Word := []
  loops : SMap Word32 := []
  seed : Word := 0
  stream : BitVec 16 := 0
  swapKey : Bool := false
  orgRow : Word32 := 0
  orgCol : Word32 := 0
  mask : GradMask := .keepAll
  maskLoads : Nat := 0
  ended : Bool := false
  ctx : Nat := 0
  halted : Bool := false
  pcOut : Bool := false
  fetchHeld : Option Word32 := none
  ops : List TileOp := []
  nextOp : Nat := 0
  jobs : List MmaJob := []
  passes : List ArrayPass := []
  lds : Option LdsState := none
  guard : Bool := false
  stopped : Bool := false
  badScratch : SMap Bool := []
  badTiles : SMap Bool := []
  badAcc : SMap Bool := []
  deriving DecidableEq, Repr

/-! ### RISC-V cores -/

/-- The privilege modes (R242). -/
inductive Mode where
  | machine
  | supervisor
  | user
  deriving DecidableEq, Repr

/-- A RISC-V core (R242): registers, CSRs by number, vector registers as bytes (512 B each), scratch, reservation (R245); the
access a fault record holds (record, kind, address) and the mcause that ended its kernel (R318, R511). -/
structure RvState where
  pc : Word := 0
  x : SMap Word := []
  f : SMap Word := []
  v : SMap Byte := []
  csr : SMap Word := []
  mode : Mode := .machine
  resv : Option Nat := none
  resvScratch : Bool := false
  scratch : SMap Byte := []
  badScratch : SMap Bool := []
  mtimecmp : Word := 0
  waiting : Bool := false
  launched : Bool := false
  ended : Bool := false
  stopped : Bool := false
  ctx : Nat := 0
  held : Option (Word32 × Nat × Nat) := none
  endCause : Option Nat := none
  deriving DecidableEq, Repr

/-! ### Store rooms and HBM -/

/-- A line held by a store room (R274, R281). -/
structure RoomLine where
  line : Nat
  way : Nat
  data : List Byte
  dirty : Bool
  poison : Bool
  deriving DecidableEq, Repr

/-- The range operations (R277). -/
inductive RangeKind where
  | clean
  | cleanInv
  | drop
  deriving DecidableEq, Repr

/-- A store room: its lines and the replacement bits of each set (R274). -/
structure RoomState where
  lines : List RoomLine := []
  plru : SMap (BitVec 15) := []
  deriving DecidableEq, Repr

/-- A request on MEM to a controller (R60, R268): a line read for a fill, a write-back, a non-allocating access. -/
structure MemReq where
  line : Nat
  room : Nat
  write : Bool
  enables : BitVec 128
  data : List Byte
  poison : Bool
  want : Option RoomReq
  fill : Bool
  deriving DecidableEq, Repr

/-- Data that a controller has returned and its store room has not installed yet (R274). -/
structure FillData where
  req : MemReq
  data : List Byte
  poison : Bool
  deriving DecidableEq, Repr

/-- The stacks and what their controllers keep beside the registers (R266-R287). -/
structure HbmState where
  cells : SMap Byte := []
  written : SMap Bool := []
  poison : SMap Bool := []
  dieLocal : SMap Bool := []
  memQ : SMap (List MemReq) := []
  fills : SMap (List FillData) := []
  deriving DecidableEq, Repr

/-! ### Translation, faults, save slots -/

/-- A context table entry (R294). -/
structure CtxEntry where
  valid : Bool
  part : Nat
  hostEn : Bool
  growEn : Bool
  pasid : BitVec 20
  root : BitVec 44
  growLo : Word32
  growHi : Word32
  pool : Word
  timeout : BitVec 16
  deriving DecidableEq, Repr

/-- A cached translation (R302): context, first 4 KiB page, pages, the leaf. -/
structure TlbEntry where
  unit : Nat
  ctx : Nat
  page : Nat
  pages : Nat
  ppn : Nat
  host : Bool
  r : Bool
  w : Bool
  x : Bool
  dirty : Bool
  deriving DecidableEq, Repr

/-- A host translation granted by ATS (R307). -/
structure AtcEntry where
  pasid : BitVec 20
  page : Nat
  hpa : Nat
  r : Bool
  w : Bool
  x : Bool
  deriving DecidableEq, Repr

/-- An access that waits on a fault record (R312). -/
inductive Waiter where
  | tileOp (mc op : Nat)
  | ldsOp (mc : Nat)
  | fetch (mc : Nat)
  | vc (n : Nat)
  | dma (cell q : Nat)
  | bulk (e : Nat)
  | chunk (s : Nat)
  | fabric (p : Nat) (src : BitVec 14) (tag : BitVec 16)
  | barWrite (f id : Nat)
  | contrib (part id frag i : Nat)
  | result (part id frag : Nat)
  | command (ring : Nat)
  | service (part k : Nat)
  deriving DecidableEq, Repr

/-- A fault record (R311) with its place in the service (R313-R317). -/
structure FaultRec where
  id : Word32
  va : Nat
  unit : UnitId
  ctx : Nat
  part : Nat
  cls : Nat
  acc : Access
  host : Bool
  level : Nat
  pte : Word
  waiters : List Waiter
  queue : Option Nat
  posted : Bool
  pri : Bool
  deriving DecidableEq, Repr

/-- A queued invalidation (R304): every context, or pages of one. -/
structure InvReq where
  ctx : Option Nat
  range : Option (Nat × Nat)
  part : Option Nat
  src : Option CmdSrc
  cmd : Cmd
  deriving DecidableEq, Repr

/-- The MMU beside its registers. -/
structure MmuState where
  ctxs : SMap (Option CtxEntry) := []
  tlb : List TlbEntry := []
  atc : List AtcEntry := []
  recs : List FaultRec := []
  nextId : Word32 := 0
  invs : List InvReq := []
  prgs : List Word32 := []
  priFailed : Bool := false
  poolEmpty : SMap Bool := []
  deriving DecidableEq, Repr

/-! ### DMA -/

/-- The stochastic-rounding key state of a queue (R344). -/
structure KeyState where
  seed : Word
  stream : BitVec 16
  orgRow : Word32
  orgCol : Word32
  deriving DecidableEq, Repr

/-- How far a descriptor has come (R347, R351). -/
inductive DescPhase where
  | queued
  | moving
  | held (id : Word32)
  | done
  deriving DecidableEq, Repr

/-- The state of a multicast target (R463): waiting, delivered, undelivered. -/
inductive TargetState where
  | waiting
  | delivered
  | undelivered
  deriving DecidableEq, Repr

/-- A piece of a multicast that has been injected (R340): core, offset, bytes with their poison. -/
structure McastCopy where
  space : Nat
  mc : Nat
  off : Nat
  data : List (Byte × Bool)
  deriving DecidableEq, Repr

/-- A queued descriptor (R335) with its progress, the statuses it has met (R348) and its multicast copies (R463). -/
structure DescState where
  d : BitVec 512
  phase : DescPhase
  rowsDone : Nat
  status : BitVec 8
  detail : BitVec 8
  targets : SMap TargetState
  copies : List McastCopy
  deriving DecidableEq, Repr

/-- A cell DMA engine: queues Q0-Q5, their key states, and the copies still held for targets that have timed out (R464). -/
structure DmaState where
  queues : SMap (List DescState) := []
  keys : SMap KeyState := []
  late : List (Nat × Nat × List McastCopy) := []
  deriving DecidableEq, Repr

/-- Whose work a bulk engine does: a COPY or FMCAST, or a publish of a partition for a command or a cadence (R354, R466, R558). -/
inductive BulkOwner where
  | cmd (src : CmdSrc) (cmd : Cmd)
  | publish (part : Nat) (who : Nat)
  deriving DecidableEq, Repr

/-- A fabric multicast that a bulk engine sends (R466): its source in memory or as bytes, the members, those undelivered. -/
structure McastRun where
  group : Nat
  dst : Nat
  rctx : Nat
  members : List Nat
  bad : List Nat
  src : Nat
  lit : List Byte
  bytes : Nat
  report : Nat
  deriving DecidableEq, Repr

/-- A bulk DMA engine at work: the descriptors with the one in hand, whether its remote source is still being fetched, the next
offset, the offsets to send again and those outstanding, and what has been fetched (R354, R355, R423, R466, R513). -/
structure BulkState where
  owner : BulkOwner
  part : Nat
  ctx : Nat
  descs : List (BitVec 512)
  index : Nat
  fetching : Bool
  off : Nat
  again : List Nat
  waiting : List Nat
  got : SMap (Byte × Bool)
  held : Option Word32
  stop : Bool
  status : Nat
  failed : Option (Nat × Nat × Nat)
  mcast : Option McastRun
  finished : Bool
  deriving DecidableEq, Repr

/-! ### Synchronisation -/

/-- A core's part in one barrier (R375): next generation, open entries and the counters they named. -/
structure BarPart where
  gen : BitVec 2
  entries : List (BitVec 2 × Nat)
  deriving DecidableEq, Repr

/-- The sync unit's state of one core (R359, R375). -/
structure SyncCore where
  cnt : SMap (BitVec 16) := []
  pend : List Nat := []
  bars : SMap (Option BarPart) := []
  idle : Bool := false
  want : Option (Nat × Nat) := none
  stall : Option Nat := none
  hung : List (Nat × BitVec 2) := []
  deriving DecidableEq, Repr

/-- A configured barrier (R369). -/
structure BarCfg where
  scope : BitVec 2
  ahead : Bool
  modules : Nat
  cores : List Nat
  deriving DecidableEq, Repr

/-- A node's entry: arrivals expected and counted for each generation (R373). -/
structure NodeEntry where
  expected : Nat
  counts : SMap Nat
  deriving DecidableEq, Repr

/-- The sync units, the barrier tree and what is on its way between them (R359-R383). -/
structure SyncState where
  cores : SMap SyncCore := []
  cfgs : SMap (Option BarCfg) := []
  nodes : SMap (Option NodeEntry) := []
  signals : List Signal := []
  arrivals : List (BarNode × Nat × BitVec 10 × BitVec 2) := []
  releases : List (Nat × Nat × BitVec 10 × BitVec 2) := []
  answers : List (Nat × Bool) := []
  deriving DecidableEq, Repr

/-! ### The mesh -/

/-- A flit in a buffer (R62): its packet and whether it is the packet's last. -/
structure Flit where
  pkt : MeshPacket
  last : Bool
  deriving DecidableEq, Repr

/-- A packet in a replication buffer (R71) with the branches that have not taken their copy (R72). -/
structure ReplEntry where
  pkt : MeshPacket
  branches : List MeshDir
  deriving DecidableEq, Repr

/-- The on-die network, by router, port and virtual channel (keys of Machine/Mesh.lean). -/
structure MeshState where
  bufs : SMap (List Flit) := []
  used : SMap Nat := []
  owed : SMap Nat := []
  rrVc : SMap Nat := []
  rrIn : SMap Nat := []
  locks : SMap (Option Nat) := []
  repl : SMap (List ReplEntry) := []
  gates : SMap (List MeshPacket) := []
  arrived : List (Nat × MeshPacket) := []
  answers : List (Nat × Nat) := []
  nextPkt : Nat := 0
  deriving DecidableEq, Repr

/-! ### Chonen ports -/

/-- A message that stands whole in a receive buffer (R416, R419), with the flits of the buffer that its taking frees. -/
structure RxMsg where
  bytes : List Byte
  frees : Nat
  deriving DecidableEq, Repr

/-- A DATA flit in the retry buffer (R412): sequence number, virtual channel, payload. -/
structure SentFlit where
  seq : BitVec 12
  vc : Nat
  pay : List Byte
  deriving DecidableEq, Repr

/-- A port beside its registers (R401-R431). Maps are keyed by virtual channel; times are values of mtime. -/
structure PortState where
  sub : Nat := 0
  backoff : Bool := false
  tuned : BitVec 4 := 0
  aligned : BitVec 4 := 0
  lost : BitVec 4 := 0
  record : Option (BitVec 256) := none
  kept : Bool := false
  agreed : Option (BitVec 32) := none
  caps : BitVec 8 := 0
  pmd : BitVec 2 := 0
  maxWidth : BitVec 2 := 0
  backupCap : Bool := false
  ctrl : List Nat := []
  cause : Nat := 0
  expect : BitVec 12 := 0
  next : BitVec 12 := 0
  retry : List SentFlit := []
  replay : List SentFlit := []
  replayAck : Option (BitVec 12) := none
  oldest : Option (BitVec 12) := none
  sameOldest : Nat := 0
  sendNak : Bool := false
  nakSent : Bool := false
  gapSeen : Bool := false
  adv : SMap (BitVec 16) := []
  used : SMap (BitVec 16) := []
  ret : SMap (BitVec 16) := []
  freed : SMap (BitVec 16) := []
  owed : SMap Nat := []
  slowed : SMap Nat := []
  limited : SMap Bool := []
  rxTail : SMap (List Byte) := []
  rxMsgs : SMap (List RxMsg) := []
  rxFlits : SMap Nat := []
  txq : SMap (List (Nat × List Byte)) := []
  txRest : SMap (List Byte) := []
  rrPart : SMap Nat := []
  violTimes : List Word := []
  rlTimes : SMap (List Word) := []
  releases : List Word := []
  degWait : Nat := 60
  deriving DecidableEq, Repr

/-- Whose request an outstanding one is: fragment i of a bulk engine, node record i of a FABCFG, or a query's reply (R423, R427, R561). -/
inductive ReqOwner where
  | frag (e i : Nat)
  | node (src : CmdSrc) (cmd : Cmd) (i : Nat)
  | reply (part q : Nat)
  deriving DecidableEq, Repr

/-- A request of the module that awaits its answers (R425, R466): who must still answer, its header and payload, and those who
have answered XLATE_RETRY. -/
structure OutReq where
  tag : BitVec 16
  members : List (BitVec 14)
  part : Nat
  port : Nat
  vc : Nat
  hdr : BitVec 256
  pay : List Byte
  owner : ReqOwner
  retryOf : List (BitVec 14)
  deriving DecidableEq, Repr

/-- A message that waits for a port it may leave on (R393, R396). -/
structure RouteMsg where
  part : Nat
  vc : Nat
  ports : List Nat
  bytes : List Byte
  deriving DecidableEq, Repr

/-- A message kept while its fault is served (R424). -/
structure KeptMsg where
  port : Nat
  hdr : BitVec 256
  rcd : Word32
  deriving DecidableEq, Repr

/-- The transaction layer (R390-R427). -/
structure FabricState where
  outstanding : List OutReq := []
  kept : List KeptMsg := []
  toRoute : List RouteMsg := []
  nextTag : BitVec 16 := 0
  rr : Nat := 0
  deriving DecidableEq, Repr

/-! ### Reduction -/

/-- An exact accumulator element (R439). -/
structure AccEl where
  v : Int := 0
  nan : Bool := false
  pinf : Bool := false
  ninf : Bool := false
  allnz : Bool := true
  deriving DecidableEq, Repr

/-- The states of a fragment (R451). -/
inductive FragState where
  | free
  | opened
  | closed
  | writing
  | done
  deriving DecidableEq, Repr

/-- A fragment of a round at the package node (R451-R456): sums, count and status; local contributions, slots, elements covered by
each child port and cellar engines that have arrived; its result (count, status, elements), and the record that holds its write. -/
structure Frag where
  st : FragState := .free
  els : SMap AccEl := []
  count : Nat := 0
  status : BitVec 8 := 0
  locals : List Nat := []
  slots : List (Nat × Bool) := []
  children : SMap Nat := []
  engines : List Nat := []
  result : Option (Nat × BitVec 8 × List Byte) := none
  held : Option Word32 := none
  hung : Bool := false
  deriving DecidableEq, Repr

/-- Whose round it is: a REDJOB's, or an update job's statistics (R444, R481). -/
inductive RedOwner where
  | cmd (src : CmdSrc) (cmd : Cmd)
  | update (job : Nat)
  deriving DecidableEq, Repr

/-- A round (R444, R451-R456): record, local contributions (address, slot, backup), the engines of a statistics round, fragments
from the lowest one not complete; those with a status; whether its deadline was posted, whether it was closed; the ports that
have contributed. -/
structure RedRound where
  owner : RedOwner
  ctx : Nat
  rcd : BitVec 512
  locs : List (Nat × Nat × Bool)
  engines : List Nat
  base : Nat
  frags : SMap Frag
  nonzero : Nat
  excluded : Bool
  nonfinite : Bool
  count0 : Nat
  posted : Bool
  closeSeen : Bool
  contributed : List Nat
  deriving DecidableEq, Repr

/-- A reduction configured at the package node (R452, R509): its window, the round it serves and the next one, the number of the
last complete one, and ended rounds whose fragments in WRITING complete their writes. -/
structure RedState where
  part : Nat
  id : Nat
  w : Nat
  cur : Option RedRound
  next : Option RedRound
  last : Option (BitVec 8)
  ending : List RedRound
  deriving DecidableEq, Repr

/-! ### Cellar engines -/

/-- The phases of an update job on one engine (R484): its stack is cleaned, pass 1, the statistics round, pass 2; stopped in pass 1. -/
inductive CePhase where
  | idle
  | clean
  | pass1
  | stats
  | pass2
  deriving DecidableEq, Repr

/-- A cellar engine's service of one partition (R473), keyed 16 × engine + partition: the job it serves, its position, the
element chunk at which a continued FACTORED entry goes on, its work area (exact sums, Cn), the record that holds its chunk. -/
structure CeState where
  job : Option Nat := none
  phase : CePhase := .idle
  entry : Nat := 0
  chunk : Nat := 0
  resume : Option Nat := none
  sums : SMap AccEl := []
  cn : SMap Word32 := []
  held : Option Word32 := none
  deriving DecidableEq, Repr

/-- An update job (R474) on its way: its record, layer table and hyper-parameter sets as read at its start (R478), what its
statistics round gave, the norm and clip factor, the stop it has met with its engine (R487, R490), the engines that have
finished, the positions a continued one starts from, the master weights not finite. -/
structure UpdJob where
  id : Nat
  src : CmdSrc
  cmd : Cmd
  part : Nat
  ctx : Nat
  rcd : BitVec 512
  red : BitVec 512
  entries : List (BitVec 1024)
  hsets : List (BitVec 256)
  roundDone : Bool
  statsBad : Bool
  nonfinite : Bool
  count : Word32
  norm : Word32
  clip : Word32
  custom : Bool
  status : Nat
  pass : Nat
  engine : Nat
  finished : List Nat
  starts : SMap (Nat × Nat)
  nfOut : Nat
  deriving DecidableEq, Repr

/-- The cellar engines and their jobs; the partition whose turn it is at an engine, with the time its turn began; the time
shares (R543), keyed 16 × engine + partition. -/
structure CellarState where
  engines : SMap CeState := []
  jobs : List UpdJob := []
  nextJob : Nat := 0
  weights : SMap Nat := []
  turn : SMap (Nat × Word) := []
  deriving DecidableEq, Repr

/-! ### Host interface -/

/-- A command fetched and not yet completed (R505, R508, R512). -/
structure OpenCmd where
  src : CmdSrc
  cmd : Cmd
  started : Bool
  deriving DecidableEq, Repr

/-- The phases of a kernel (R511, R512). -/
inductive KernPhase where
  | waiting
  | running
  | preempted
  | preemptedUnstarted
  | restoring
  | done
  deriving DecidableEq, Repr

/-- A kernel from the start of its LAUNCH to its record (R510-R512); `cut`: a cell reset has ended programs of it (R606). -/
structure Kernel where
  id : Nat
  src : CmdSrc
  cmd : Cmd
  part : Nat
  ctx : Nat
  rcd : BitVec 1024
  phase : KernPhase
  dmaErr : Bool
  cut : Bool
  stopper : Option (CmdSrc × Cmd)
  resumer : Option (CmdSrc × Cmd)
  deriving DecidableEq, Repr

/-- The events and requests of a partition (R521-R524). A record is 64 B. -/
structure PartEvents where
  seq : Word32 := 1
  buffer : List (List Byte) := []
  popReqs : List (List Byte) := []
  dropped : Nat := 0
  lastPop : Word32 := 0
  deriving DecidableEq, Repr

/-- A BAR4 access held under fault service (R499). -/
structure HeldBar where
  fn : Nat
  id : Nat
  va : Nat
  data : Option (List Byte)
  len : Nat
  rcd : Word32
  deriving DecidableEq, Repr

/-- The host side: configuration space, rings, vectors (R495-R527, R584). -/
structure HostState where
  numVfs : Nat := 0
  linkUp : Bool := false
  linkRate : Nat := 0
  linkWidth : Nat := 0
  srisMode : Bool := true
  busMaster : SMap Bool := []
  pfBar : Nat := 36
  vfBar : Nat := 36
  sqHead : SMap Nat := []
  dbMark : SMap Nat := []
  open_ : List OpenCmd := []
  waitRecs : SMap (List (List Byte)) := []
  arm : SMap Bool := []
  events : SMap PartEvents := []
  held : List HeldBar := []
  nextHeld : Nat := 0
  kernels : List Kernel := []
  nextKernel : Nat := 0
  vecBusy : SMap Bool := []
  vecPend : SMap Bool := []
  bulk : SMap (Option BulkState) := []
  deriving DecidableEq, Repr

/-! ### Partitions and saved contexts -/

/-- A saved cell context (R327, R540): the images of the cell's units and its cell-window registers; the units to save and those
saved (0-3 matrix cores, 4 vector core, 5 DMA engine and sync unit). -/
structure SavedCtx where
  cell : Nat
  part : Nat
  pool : Bool
  need : List Nat
  mcs : SMap McState
  vc : RvState
  dma : DmaState
  sync : SMap SyncCore
  regs : SMap Word
  done : List Nat
  deriving DecidableEq, Repr

/-- The bindings of R528; 16 stands for unbound. Cells whose reset waits for a save, partitions whose reset waits for a PARTOP (R608). -/
structure PartState where
  cellOf : SMap Nat := []
  granOf : SMap Nat := []
  ringOf : SMap Nat := []
  svcWeight : SMap Nat := []
  physwin : Option Nat := none
  saved : List SavedCtx := []
  resetWait : List Nat := []
  partWait : List Nat := []
  deriving DecidableEq, Repr

/-! ### Coupling service -/

/-- For whom the coupling service works: a PANTRY command, or the phase of a cadence. -/
inductive SvcOwner where
  | cmd (src : CmdSrc) (cmd : Cmd)
  | phase (part i : Nat)
  deriving DecidableEq, Repr

/-- What a pantry does one at a time (R555). -/
inductive SvcKind where
  | feed
  | reset
  | unconfig
  deriving DecidableEq, Repr

/-- Work that waits at a pantry: samples and batch area of a feed, and the context of the area. -/
structure SvcWork where
  owner : SvcOwner
  kind : SvcKind
  n : Nat
  area : Nat
  ctx : Nat
  deriving DecidableEq, Repr

/-- A PANTRY INTAKE under way (R550, R565): samples still to deliver from an address, the ticket it holds, the record that holds it. -/
structure IntakeRun where
  src : CmdSrc
  cmd : Cmd
  va : Nat
  left : Nat
  ticket : Option Nat
  held : Option Word32
  deriving DecidableEq, Repr

/-- A configured pantry (R549-R556): its record with its address and context, the samples taken, feeds done, the cursor of FIFO
feeds, the filled slots, the request that waits for SELECT (number, kind, count) and its answer, and the work in hand. -/
structure Pantry where
  rcd : BitVec 512
  va : Nat
  ctx : Nat
  taken : Nat
  feeds : Nat
  cursor : Nat
  filled : List Nat
  request : Option (Word32 × Nat × Nat)
  answer : Option (List Nat)
  work : List SvcWork
  held : Option Word32
  intakes : List IntakeRun
  deriving DecidableEq, Repr

/-- A publish under way (R558): its record with its address, the stage (0 local, 1-3 multicasts), buffer and version, the members
not reached, the bulk engine, the record that holds it. -/
structure PubRun where
  id : Nat
  owner : SvcOwner
  part : Nat
  ctx : Nat
  rcd : BitVec 512
  va : Nat
  stage : Nat
  buf : Nat
  ver : Nat
  bad : List Nat
  engine : Option Nat
  held : Option Word32
  deriving DecidableEq, Repr

/-- A query service (R560-R561): the tickets of its batch with their headers, the batch's number, whether it is signalled, the
header of the pinned buffer with its version, and, while it answers, the status and the query and offset it has come to. -/
structure Query where
  rcd : BitVec 512
  ctx : Nat
  batch : List (Nat × List Byte)
  batchNo : Nat
  outstanding : Bool
  pinned : Option (Nat × Nat)
  stopping : Bool
  answering : Option (Nat × Nat × Nat)
  waiting : Bool
  replyFail : Nat
  deriving DecidableEq, Repr

/-- The states of a cadence (R564, R567). -/
inductive CadSt where
  | run
  | paused
  | waiting
  | stopped
  deriving DecidableEq, Repr

/-- A cadence (R562-R567): its record, its state, the period and phase, the times of R563 in units of 20 ns, what its status block
counts, the lengths that ADJUST has set, the request that waits, the failure of the phase in hand, the samples an INTAKE phase
waits for, the STOP that waits. -/
structure Cadence where
  rcd : List Byte
  ctx : Nat
  st : CadSt
  k : Nat
  phase : Nat
  inPeriod : Bool
  start : Nat
  b : Nat
  nextB : Nat
  lag : Nat
  overruns : Nat
  skipped : Nat
  skips : SMap Nat
  lengths : List Nat
  request : Option Word32
  failed : Option Nat
  failedPhase : Nat
  goal : Nat
  stopReq : Option (CmdSrc × Cmd)
  lastLen : Nat
  lastVersion : Nat
  undelivered : Nat
  deriving DecidableEq, Repr

/-- The coupling service (R548). Keys: partition × 8 + pantry, partition × 2 + query service, partition × 4 + cadence; the last
version of a publish record by context × 2^48 + address. -/
structure ServiceState where
  pantries : SMap (Option Pantry) := []
  queries : SMap (Option Query) := []
  cadences : SMap (Option Cadence) := []
  versions : SMap Nat := []
  pubs : List PubRun := []
  nextPub : Nat := 0
  deriving DecidableEq, Repr

/-! ### Interrupts, power, recovery, management -/

/-- The interrupt controllers beside their registers (R573-R576). Keys: controller × 512 + source, controller × 32 + group. -/
structure IrqState where
  line : SMap Bool := []
  holdoff : SMap Bool := []
  taken : SMap (Option (Nat × Nat)) := []
  routed : SMap Nat := []
  deriving DecidableEq, Repr

/-- A POWER request that awaits its answer (R602, R603). -/
structure PowerReq where
  seq : Word32
  proposed : Nat
  deriving DecidableEq, Repr

/-- The power input, its rails and pins, and the power manager (R23-R41, R588-R603). -/
structure PowerState where
  rails : Bool := true
  jrails : Bool := true
  dieOff : SMap Bool := []
  faultN : Bool := false
  pwrgd : Bool := true
  causes : BitVec 6 := 0
  slowRef : Bool := false
  fabClk : Bool := true
  perst : Bool := false
  straps : BitVec 5 := 0
  lowBand : Option (BitVec 16) := none
  revFlow : Bool := false
  steps : SMap Nat := []
  coolStep : Nat := 0
  throttled : Bool := false
  noLend : Bool := false
  overLast : Bool := false
  cellClk : SMap Nat := []
  meshClk : SMap Nat := []
  lent : SMap Bool := []
  share : SMap Nat := []
  reqs : SMap (Option PowerReq) := []
  cal : SMap (Option CalRecord) := []
  dflt : SMap Bool := []
  recal : SMap Bool := []
  rotor : Nat := 0
  deriving DecidableEq, Repr

/-- A rewritten interrupt target, to be written back (R615). -/
structure MovedTgt where
  ctl : Nat
  src : Nat
  old : Nat
  deriving DecidableEq, Repr

/-- An audit record (R640, R641). -/
structure AuditRec where
  seq : Nat
  boot : Nat
  type : Nat
  who : Nat
  time : Word
  data : List Nat
  deriving DecidableEq, Repr

/-- The recovery chain (R614-R622). Keys: target codes 0-16; requests and stopped kernels by partition. `restarts`: when the latest
restarts were made; `flagTime`: when the flag was set. -/
structure RecoveryState where
  failed : SMap Bool := []
  owner : SMap (Option Nat) := []
  restarts : SMap (List Word) := []
  flagTime : SMap Word := []
  restarting : SMap Bool := []
  dead : SMap Bool := []
  moved : SMap (List MovedTgt) := []
  reqs : SMap (Option Word32) := []
  stoppedKernels : SMap (List Nat) := []
  deferredAudit : List AuditRec := []
  deriving DecidableEq, Repr

/-- A counted write in progress (R638). -/
structure CountedWrite where
  setting : Nat
  value : Nat
  result : Nat
  deriving DecidableEq, Repr

/-- A PLDM update in progress (R633, R634). -/
structure UpdateSession where
  binding : Binding
  passed : List Nat
  verified : List Nat
  deriving DecidableEq, Repr

/-- The connection state of an SPDM responder (R635). -/
inductive SpdmStage where
  | start
  | version
  | capabilities
  | negotiated
  deriving DecidableEq, Repr

/-- Management (R625-R643). Images are keyed region × 5 + component - 1. Sensors by number: reading (32 bits, two's complement),
the state last reported, and when (R629). -/
structure MgmtState where
  address : Option (BitVec 7) := none
  eids : SMap (BitVec 8) := []
  spdm : SMap SpdmStage := []
  receiver : Option (Binding × BitVec 8 × BitVec 2) := none
  polled : List (List Nat) := []
  session : Option UpdateSession := none
  images : SMap Image := []
  slotA : SMap Nat := []
  cfgSeq : Nat := 0
  bootRegion : SMap Nat := []
  bootImage : SMap (Option Image) := []
  bootOk : Bool := true
  audit : List AuditRec := []
  auditSeq : Nat := 0
  boots : Nat := 0
  ceilSlots : List Nat := []
  modSlots : List Nat := []
  svnSlots : Nat := 0
  badMask : BitVec 12 := 0
  cwrite : Option CountedWrite := none
  sensors : SMap Nat := []
  told : SMap Nat := []
  toldAt : SMap (Option Word) := []
  ready : Bool := false
  deriving DecidableEq, Repr

/-! ### Outputs and the whole module -/

/-- What the module sends at its boundary. -/
inductive Output where
  | hostWrite (fn : Nat) (addr : Nat) (data : List Byte)
  | hostTranslated (hpa : Nat) (data : List Byte)
  | hostRead (hpa : Nat) (len : Nat)
  | completion (fn : Nat) (data : List Byte) (poison : Bool) (ur : Bool)
  | msix (vector : Nat) (addr : Nat) (data : Nat)
  | atsRequest (pasid : BitVec 20) (page : Nat) (write exec : Bool)
  | pageRequest (pasid : BitVec 20) (page : Nat) (r w x : Bool)
  | invCompletion
  | linkFlit (port : Nat) (bytes : List Byte)
  | fabricLocal (port : Nat) (bytes : List Byte)
  | memData (part : Nat) (line : Nat) (data : List Byte) (poison : Bool)
  | mgmt (b : Binding) (kind : Nat) (data : List Nat)
  | sensorEvent (sensor : Nat) (value : Nat)
  | inBandInterrupt
  | popData (fn : Nat) (value : Word)
  deriving DecidableEq, Repr

/-- The module: waiting commands; the model's own free-value counter and outputs; mtime (R246); registers and their slow-domain
copies (R649); open guards (R654) and writes not yet copied (R651); junction-die SRAM and its poison (R242, R280); then each unit. -/
structure State where
  pending : List Instr
  freeCtr : Nat
  out : List Output
  mtime : Word
  regs : SMap Word
  regsSlow : SMap Word
  guards : List (Requester × Nat)
  recentW : List (Requester × Nat)
  jsram : SMap Byte
  jsramBad : SMap Bool
  mcs : SMap McState
  rvs : SMap RvState
  rooms : SMap RoomState
  hbm : HbmState
  mmu : MmuState
  dma : SMap DmaState
  sync : SyncState
  mesh : MeshState
  ports : SMap PortState
  fabric : FabricState
  reds : List RedState
  cellar : CellarState
  host : HostState
  parts : PartState
  service : ServiceState
  irq : IrqState
  power : PowerState
  recovery : RecoveryState
  mgmt : MgmtState
  deriving DecidableEq, Repr

/-- The module right after a cold power-on's reset: every field at the value the spec states; the rest as the log names. -/
def State.reset : State where
  pending := []
  freeCtr := 0
  out := []
  mtime := 0
  regs := []
  regsSlow := []
  guards := []
  recentW := []
  jsram := []
  jsramBad := []
  mcs := []
  rvs := []
  rooms := []
  hbm := {}
  mmu := {}
  dma := []
  sync := {}
  mesh := {}
  ports := []
  fabric := {}
  reds := []
  cellar := {}
  host := {}
  parts := {}
  service := {}
  irq := {}
  power := {}
  recovery := {}
  mgmt := {}

end Sys2Proof.Machine
end

