-- ==== Sys2Proof/Machine/Access.lean ====
section
/-! DEFINITION. Reading and writing the parts of the state: every read and write of a part goes through here. -/

namespace Sys2Proof.Machine

/-- What a command answers. -/
abbrev Res := Host.Outcome State Fault Refusal

/-- A command with its effect where its conditions hold, and no effect elsewhere (log entry 15). -/
def when (c : Bool) (f : State → State) (s : State) : Res := .next (if c then f s else s)

/-! ### Registers -/

/-- A field of a register: its key, lowest bit and length. -/
structure RF where
  key : Nat
  lo : Nat
  len : Nat
  deriving DecidableEq, Repr

/-- The value of a register in its own domain. -/
def State.reg (s : State) (k : Nat) : Word := mgetF regReset s.regs k

/-- Write a register. -/
def State.setReg (s : State) (k : Nat) (v : Word) : State := { s with regs := msetF regReset s.regs k v }

/-- Read a field. -/
def State.getF (s : State) (f : RF) : Nat := fld (s.reg f.key) f.lo f.len

/-- Write a field. -/
def State.putF (s : State) (f : RF) (x : Nat) : State := s.setReg f.key (setFld (s.reg f.key) f.lo f.len x)

/-- Add to a count that saturates. -/
def State.addF (s : State) (f : RF) (x : Nat) : State := s.putF f (satAdd (s.getF f) x f.len)

/-- Read a one-bit field. -/
def State.getB (s : State) (f : RF) : Bool := s.getF f == 1

/-- Write a one-bit field. -/
def State.putB (s : State) (f : RF) (b : Bool) : State := s.putF f (b2n b)

/-- Give a register its reset value. -/
def State.resetReg (s : State) (k : Nat) : State := { s with regs := mdel s.regs k }

/-- Give the registers whose keys meet a test their reset values. -/
def State.resetRegs (s : State) (p : Nat → Bool) : State := { s with regs := s.regs.filter (fun e => !p e.1) }

/-- The slow-domain copy of a register (R649, R650). -/
def State.slowReg (s : State) (k : Nat) : Word := mgetF regReset s.regsSlow k

/-! ### Free values and outputs -/

/-- A fresh free value. -/
def State.freshVal (s : State) : Word := Config.freeWord s.freeCtr

/-- Step the free-value counter. -/
def State.tickFree (s : State) : State := { s with freeCtr := s.freeCtr + 1 }

/-- Send something at the module's boundary. -/
def State.emit (s : State) (o : Output) : State := { s with out := s.out ++ [o] }

/-! ### Units -/

/-- The number of a RISC-V core: vector cores 0-479, half controllers 480-487, service cores 488-495. -/
def rvKey (c : RvCore) : Nat :=
  match c with
  | .vc n => n.val
  | .hc n => 480 + n.val
  | .sc n => 488 + n.val

/-- A matrix core's state. -/
def State.mc (s : State) (n : Nat) : McState := mget {} s.mcs n
/-- Replace a matrix core's state. -/
def State.setMc (s : State) (n : Nat) (m : McState) : State := { s with mcs := mset {} s.mcs n m }
/-- Change a matrix core's state. -/
def State.updMc (s : State) (n : Nat) (f : McState → McState) : State := s.setMc n (f (s.mc n))

/-- A RISC-V core's state. -/
def State.rv (s : State) (n : Nat) : RvState := mget {} s.rvs n
/-- Replace a RISC-V core's state. -/
def State.setRv (s : State) (n : Nat) (r : RvState) : State := { s with rvs := mset {} s.rvs n r }
/-- Change a RISC-V core's state. -/
def State.updRv (s : State) (n : Nat) (f : RvState → RvState) : State := s.setRv n (f (s.rv n))

/-- A store room. -/
def State.room (s : State) (c : Nat) : RoomState := mget {} s.rooms c
/-- Replace a store room. -/
def State.setRoom (s : State) (c : Nat) (r : RoomState) : State := { s with rooms := mset {} s.rooms c r }

/-- A cell DMA engine. -/
def State.dmaOf (s : State) (c : Nat) : DmaState := mget {} s.dma c
/-- Replace a cell DMA engine's state. -/
def State.setDma (s : State) (c : Nat) (d : DmaState) : State := { s with dma := mset {} s.dma c d }
/-- The descriptors of queue q of cell c, oldest first. -/
def State.dmaQ (s : State) (c q : Nat) : List DescState := mget [] (s.dmaOf c).queues q
/-- Replace the descriptors of a queue. -/
def State.setDmaQ (s : State) (c q : Nat) (l : List DescState) : State :=
  s.setDma c { s.dmaOf c with queues := mset [] (s.dmaOf c).queues q l }

/-- The number of a core among the sync units: five to a cell, the vector core last. -/
def coreKey (n : CoreName) : Nat := if n.isVc then 5 * n.num + 4 else 5 * (n.num / 4) + n.num % 4

/-- A core's part of its sync unit. -/
def State.syncOf (s : State) (k : Nat) : SyncCore := mget {} s.sync.cores k
/-- Replace a core's part of its sync unit. -/
def State.setSync (s : State) (k : Nat) (x : SyncCore) : State :=
  { s with sync := { s.sync with cores := mset {} s.sync.cores k x } }

/-- A Chonen port. -/
def State.port (s : State) (n : Nat) : PortState := mget {} s.ports n
/-- Replace a port's state. -/
def State.setPort (s : State) (n : Nat) (p : PortState) : State := { s with ports := mset {} s.ports n p }
/-- Change a port's state. -/
def State.updPort (s : State) (n : Nat) (f : PortState → PortState) : State := s.setPort n (f (s.port n))

/-- A cellar engine. -/
def State.ce (s : State) (n : Nat) : CeState := mget {} s.cellar.engines n
/-- Replace a cellar engine's state. -/
def State.setCe (s : State) (n : Nat) (e : CeState) : State :=
  { s with cellar := { s.cellar with engines := mset {} s.cellar.engines n e } }

/-- A partition's events. -/
def State.evts (s : State) (p : Nat) : PartEvents := mget {} s.host.events p
/-- Replace a partition's events. -/
def State.setEvts (s : State) (p : Nat) (e : PartEvents) : State :=
  { s with host := { s.host with events := mset {} s.host.events p e } }

/-! ### Bindings (R528) -/

/-- The partition a cell is bound to; 16 when unbound. -/
def State.cellPart (s : State) (c : Nat) : Nat := mget 16 s.parts.cellOf c
/-- The partition a granule is bound to; 16 when unbound. -/
def State.granPart (s : State) (g : Nat) : Nat := mget 16 s.parts.granOf g
/-- The partition a ring is bound to: rings 0-15 start in partition 0 (R501). -/
def ringHome (r : Nat) : Nat := if r < 16 then 0 else 16
/-- The partition a ring is bound to; 16 when unbound. -/
def State.ringPart (s : State) (r : Nat) : Nat := mgetF ringHome s.parts.ringOf r

/-- Whether the compute rails of a die are down (R30, R32, R612). -/
def State.dieDown (s : State) (d : Nat) : Bool := !s.power.rails || mget false s.power.dieOff d

/-- Whether the island of a cell is unpowered (R46). -/
def State.cellDown (s : State) (c : Nat) : Bool := s.dieDown (c / 120)

end Sys2Proof.Machine
end

