-- ==== Sys2Proof/Machine/Raise.lean ====
section
/-! DEFINITION. Status flags with their event counters (R570, R580-R583) and the counts of refused register writes (R664). -/

namespace Sys2Proof.Machine

/-- Where a status flag lives: its register, its bit, its counter's register and place, its controller and source. -/
structure FlagHome where
  key : Nat
  bitNo : Nat
  cntKey : Nat
  cntNo : Nat
  ctl : Nat
  src : Nat
  deriving DecidableEq, Repr

/-- Home of bit b of IRQ_DSTAT of die d (R579, R586). -/
def dstatHome (d b : Nat) : FlagHome :=
  ⟨irqDBase d + 0x1000, b, irqDBase d + 0x1008 + 8 * (b / 8), b % 8, d, if b < 8 then b else b + 1⟩

/-- Home of bit b of the flags of module-wide cell c (R580, R586). -/
def cstatHome (c b : Nat) : FlagHome :=
  let k := irqDBase (c / 120) + 0x2000 + 0x20 * (c % 120)
  ⟨k, b, k + 8 + 8 * (b / 8), b % 8, c / 120, 16 + c % 120⟩

/-- Source of bit b of IRQ_MSTAT (R581). -/
def mstatSrc (b : Nat) : Nat :=
  if b < 20 then b else if b < 24 then 112 + (b - 20) else 116 + (b - 24)

/-- Home of bit b of IRQ_MSTAT (R581, R586). -/
def mstatHome (b : Nat) : FlagHome := ⟨irqJBase + 0x2000, b, irqJBase + 0x2008 + 8 * (b / 8), b % 8, 4, mstatSrc b⟩

/-- Home of bit b of the flags of port n (R583, R586). -/
def pstatHome (n b : Nat) : FlagHome := ⟨irqJBase + 0x2100 + 0x10 * n, b, irqJBase + 0x2108 + 0x10 * n, b, 4, 32 + n⟩

/-- Count a set of a flag of a source for its next ROUTED record (R585). -/
def State.countSet (s : State) (ctl src : Nat) : State :=
  let k := 512 * ctl + src
  { s with irq := { s.irq with routed := mset 0 s.irq.routed k (satAdd (mget 0 s.irq.routed k) 1 32) } }

/-- A unit sets a flag: its counter counts modulo 256 even while the flag is 1 already (R570). -/
def State.raiseAt (s : State) (h : FlagHome) : State :=
  let s := s.putF ⟨h.key, h.bitNo, 1⟩ 1
  let c : RF := ⟨h.cntKey, 8 * h.cntNo, 8⟩
  (s.putF c ((s.getF c + 1) % 256)).countSet h.ctl h.src

/-- Set bit b of IRQ_DSTAT of die d. -/
def State.raiseD (s : State) (d b : Nat) : State := s.raiseAt (dstatHome d b)
/-- Set bit b of the flags of cell c. -/
def State.raiseC (s : State) (c b : Nat) : State := s.raiseAt (cstatHome c b)
/-- Set bit b of IRQ_MSTAT. -/
def State.raiseM (s : State) (b : Nat) : State := s.raiseAt (mstatHome b)
/-- Set bit b of the flags of port n. -/
def State.raiseP (s : State) (n b : Nat) : State := s.raiseAt (pstatHome n b)

/-- Whether a requester is the PF. -/
def isPf (rq : Requester) : Bool := decide (rq = .pf)

/-- Count a refused access in CFG_REGERR: the field of the count, err, and the latest offset (R664). -/
def State.countRegErr (s : State) (lo : Nat) (off : Nat) (pf : Bool) : State :=
  let k := cfgBase + 0x10
  let s := s.addF ⟨k, lo, 16⟩ 1
  let s := s.putF ⟨k, 32, 23⟩ (off / 8)
  let s := s.putB ⟨k, 55, 1⟩ pf
  s.putF ⟨k, 56, 1⟩ 1

/-- Count a write that is ignored or not taken: refused of CFG_REGERR. -/
def State.refuse (s : State) (off : Nat) (pf : Bool) : State := s.countRegErr 16 off pf

/-- Count a wrong key: bad_key of CFG_REGERR (R657). -/
def State.badKey (s : State) (off : Nat) (pf : Bool) : State := s.countRegErr 0 off pf

end Sys2Proof.Machine
end

