-- ==== Sys2Proof/Machine/Memory.lean ====
section
/-! DEFINITION. Device physical memory: address map, controllers, store rooms, atomics, work counters (R266-R292, R245, R218-R222). -/

namespace Sys2Proof.Machine

/-! ### Address map -/

/-- state of HBM_STAT of stack s (R291). -/
def hbmStF (s : Nat) : RF := ⟨hbmBase s, 0, 2⟩

/-- The usable stacks, in ascending order (R267). -/
def State.goodStacks (s : State) : List Nat := (upTo 12).filter (fun k => s.getF (hbmStF k) == 1)

/-- The usable stacks of a die. -/
def State.goodOn (s : State) (d : Nat) : List Nat := s.goodStacks.filter (fun k => k / 3 == d)

/-- One GiB. -/
def gib : Nat := 2 ^ 30

/-- Bytes of one band (R269). -/
def State.bandSize (s : State) : Nat := s.goodStacks.length * gib

/-- The band of a physical address. -/
def State.bandOf (s : State) (pa : Nat) : Nat := pa / s.bandSize

/-- The die part that an offset of a die-local band lies in, and the offset within it (R271). -/
def State.diePart (s : State) (off d fuel : Nat) : Nat × Nat :=
  match fuel with
  | 0 => (d, off)
  | k + 1 =>
    let n := (s.goodOn d).length * gib
    if off < n then (d, off) else s.diePart (off - n) (d + 1) k

/-- Where a chunk lives: its stack and its stack-local chunk index q (R271). -/
structure Place where
  stack : Nat
  q : Nat
  deriving DecidableEq, Repr

/-- Decode a physical address (R271); none where no memory is. -/
def State.decodePa (s : State) (pa : Nat) : Option Place :=
  let g := s.goodStacks.length
  if g = 0 ∨ pa ≥ 48 * s.bandSize then none
  else
    let k := s.bandOf pa
    let off := pa % s.bandSize
    if mget false s.hbm.dieLocal k then
      let dp := s.diePart off 0 3
      let l := s.goodOn dp.1
      let c := dp.2 / 4096
      some ⟨nth 0 l (c % l.length), k * 262144 + c / l.length⟩
    else
      let c := off / 4096
      some ⟨nth 0 s.goodStacks (c % g), k * 262144 + c / g⟩

/-- Whether an access may reach a physical address: the granule-state tables of band 47 may not be reached (R287). -/
def State.paOk (s : State) (pa : Nat) : Bool :=
  decide (pa < 47 * s.bandSize + s.goodStacks.length * 1022 * 2 ^ 20)

/-- Whether a line (pa / 128) is one that memory holds and accesses may reach. -/
def State.lineOk (s : State) (line : Nat) : Bool := (s.decodePa (128 * line)).isSome && s.paOk (128 * line)

/-- The module-wide cell whose store room is the home of a place (R273). -/
def Place.home (p : Place) : Nat := 120 * (p.stack / 3) + (p.q % 120 + 13 * (p.q / 120) + 40 * (p.stack % 3)) % 120

/-- The set of a line in its home (R274). -/
def Place.setOf (p : Place) (line : Nat) : Nat :=
  let b := p.q / 120
  line % 32 + 32 * ((b ^^^ (b >>> 4) ^^^ (b >>> 8) ^^^ p.stack) % 16)

/-- Channel of a place (R271). -/
def Place.channel (p : Place) : Nat := (p.q ^^^ (p.q >>> 5) ^^^ (p.q >>> 10)) % 32

/-- Where line (pa / 128) stands, as a line number over all stacks: 2^29 lines to a stack. -/
def State.lineHome (s : State) (line : Nat) : Place × Nat :=
  match s.decodePa (128 * line) with
  | some p => (p, p.stack * 2 ^ 29 + p.q * 32 + line % 32)
  | none => (⟨0, 0⟩, 0)

/-! ### Controllers -/

/-- Key of one controller's part of a granule's fresh mark (R284). -/
def freshKey (line stack : Nat) : Nat := (line / 512) * 16 + stack

/-- Whether the part of a line's granule is fresh: parts of bands 0-46 until written, never in band 47 (R284). -/
def State.isFresh (s : State) (line : Nat) : Bool :=
  let p := (s.lineHome line).1
  decide (s.bandOf (128 * line) < 47) && !mget false s.hbm.written (freshKey line p.stack)

/-- A line of zeros. -/
def zeroLine : List Byte := List.replicate 128 0

/-- All 128 byte enables. -/
def fullEn : BitVec 128 := BitVec.allOnes 128

/-- Merge the enabled bytes of new into old, from byte i on. -/
def mergeFrom (old new : List Byte) (en : BitVec 128) (i : Nat) : List Byte :=
  match old, new with
  | o :: os, n :: ns => (if en.getLsbD i then n else o) :: mergeFrom os ns en (i + 1)
  | os, _ => os

/-- What a controller returns for a line: zeros where fresh, else the stack's bytes with their poison (R281, R285). -/
def State.ctlRead (s : State) (line : Nat) : List Byte × Bool :=
  let h := s.lineHome line
  if s.isFresh line then (zeroLine, false) else (readBytes s.hbm.cells (128 * h.2) 128, mget false s.hbm.poison h.2)

/-- Fill with zeros every line of the part of the granule that one stack holds, and end its fresh mark (R285). -/
def State.zeroFill (s : State) (line : Nat) : State :=
  let st := (s.lineHome line).1.stack
  let first := line / 512 * 512
  let chunks := ((upTo 16).map (fun i => s.lineHome (first + 32 * i))).filter (fun h => h.1.stack == st)
  let inPart (k : Nat) := chunks.any (fun h => decide (h.2 ≤ k) && decide (k < h.2 + 32))
  { s with hbm := { s.hbm with
      cells := s.hbm.cells.filter (fun e => !inPart (e.1 / 128))
      poison := s.hbm.poison.filter (fun e => !inPart e.1)
      written := mset false s.hbm.written (freshKey line st) true } }

/-- A controller writes the enabled bytes of a line; a write of the whole line sets its poison anew, a partial one keeps it (R281). -/
def State.ctlWrite (s : State) (line : Nat) (data : List Byte) (en : BitVec 128) (poison : Bool) : State :=
  let s := if s.isFresh line then s.zeroFill line else s
  let h := s.lineHome line
  let old := readBytes s.hbm.cells (128 * h.2) 128
  let bad := if en = fullEn then poison else poison || mget false s.hbm.poison h.2
  { s with hbm := { s.hbm with
      cells := writeBytes s.hbm.cells (128 * h.2) (mergeFrom old data en 0)
      poison := mset false s.hbm.poison h.2 bad } }

/-- The requests that wait at a controller. -/
def State.memQ (s : State) (st : Nat) : List MemReq := mget [] s.hbm.memQ st

/-- Put a request at the end of its controller's queue. -/
def State.toCtl (s : State) (r : MemReq) : State :=
  let st := (s.lineHome r.line).1.stack
  { s with hbm := { s.hbm with memQ := mset [] s.hbm.memQ st (s.memQ st ++ [r]) } }

/-- A controller serves its oldest request (R268): a write lands, a read's data goes to the store room. -/
def State.ctlServe (s : State) (st : Nat) : State :=
  match s.memQ st with
  | [] => s
  | r :: rest =>
    let s := { s with hbm := { s.hbm with memQ := mset [] s.hbm.memQ st rest } }
    if r.write then s.ctlWrite r.line r.data r.enables r.poison
    else
      let d := s.ctlRead r.line
      let fl := mget [] s.hbm.fills st
      { s with hbm := { s.hbm with fills := mset [] s.hbm.fills st (fl ++ [⟨r, d.1, d.2⟩]) } }

/-- Serve n requests of a controller. -/
def State.ctlServeN (s : State) (st n : Nat) : State :=
  match n with
  | 0 => s
  | k + 1 => (s.ctlServe st).ctlServeN st k

/-! ### Store rooms -/

/-- The line a store room holds, if it holds it. -/
def RoomState.find (r : RoomState) (line : Nat) : Option RoomLine := r.lines.find? (fun l => l.line == line)

/-- Turn the tree bits of a set away from a way (R274). -/
def plruTouch (t : BitVec 15) (w : Nat) : BitVec 15 :=
  let setB (t : BitVec 15) (i : Nat) (b : Bool) : BitVec 15 :=
    if b then t ||| (1#15 <<< i) else t &&& ~~~ (1#15 <<< i)
  let n1 := 1 + w / 8
  let n2 := 3 + w / 4
  let n3 := 7 + w / 2
  setB (setB (setB (setB t 0 (decide (w / 8 = 0))) n1 (decide (w / 4 % 2 = 0))) n2 (decide (w / 2 % 2 = 0))) n3 (decide (w % 2 = 0))

/-- The way the tree points to among the allowed ways: at each node the side its bit names, unless no way of that side is allowed. -/
def plruVictim (t : BitVec 15) (mask : Nat) : Nat :=
  let any (lo n : Nat) : Bool := decide (bits mask lo n ≠ 0)
  let go (node lo half : Nat) : Nat :=
    let right := t.getLsbD node
    if right then (if any (lo + half) half then lo + half else lo) else (if any lo half then lo else lo + half)
  let a := go 0 0 8
  let b := go (1 + a / 8) a 4
  let c := go (3 + b / 4) b 2
  go (7 + c / 2) c 1

/-- The allocation mask of a partition on a die (R278). -/
def State.wayMask (s : State) (d p : Nat) : Nat := fld (s.reg (srmBase d + 0x100 + 8 * p)) 0 16

/-- The set number that a line uses in its home. -/
def State.setNo (s : State) (line : Nat) : Nat := (s.lineHome line).1.setOf line

/-- The cell whose store room is a line's home. -/
def State.homeOf (s : State) (line : Nat) : Nat := (s.lineHome line).1.home

/-- Note a use of a way for the replacement of its set. -/
def State.touch (s : State) (line way : Nat) : State :=
  let h := s.homeOf line
  let r := s.room h
  let k := s.setNo line
  s.setRoom h { r with plru := mset 0 r.plru k (plruTouch (mget 0 r.plru k) way) }

/-- Install a line in a way its partition may allocate: a free one, else the victim of the tree, whose dirty data goes to
its controller (R274); nothing when the partition may allocate no way (R278). -/
def State.install (s : State) (part : Nat) (l : RoomLine) : State :=
  let h := s.homeOf l.line
  let mask := s.wayMask (h / 120) part
  if mask = 0 then s
  else
    let r := s.room h
    let k := s.setNo l.line
    let mates := r.lines.filter (fun x => s.setNo x.line == k)
    let free := (upTo 16).find? (fun w => bit mask w && !mates.any (fun x => x.way == w))
    let w := match free with | some w => w | none => plruVictim (mget 0 r.plru k) mask
    let old := mates.find? (fun x => x.way == w)
    let keep := r.lines.filter (fun x => !(s.setNo x.line == k && x.way == w))
    let s1 := s.setRoom h { r with lines := keep ++ [{ l with way := w }] }
    let s2 :=
      match old with
      | some v => if v.dirty then s1.toCtl ⟨v.line, h, true, fullEn, v.data, v.poison, none, false⟩ else s1
      | none => s1
    s2.touch l.line w

/-- Replace the data of a held line. -/
def State.putLine (s : State) (l : RoomLine) : State :=
  let h := s.homeOf l.line
  let r := s.room h
  s.setRoom h { r with lines := mapWhere r.lines (fun x => x.line == l.line) (fun _ => l) }

/-- A write by one agent ends every other core's reservation of the line (R245). -/
def State.breakResv (s : State) (line who : Nat) : State :=
  { s with rvs := s.rvs.map (fun e => if e.1 ≠ who ∧ e.2.resv = some line ∧ e.2.resvScratch = false then (e.1, { e.2 with resv := none }) else e) }

/-- Merge enabled bytes into a held line: it becomes dirty, and a write of all bytes clears its poison (R281). -/
def mergeLine (l : RoomLine) (data : List Byte) (en : BitVec 128) : RoomLine :=
  { l with data := mergeFrom l.data data en 0, dirty := true, poison := l.poison && decide (en ≠ fullEn) }

/-- Perform a request on data that has just arrived for it (R274): install the line, and merge a write. -/
def State.performFill (s : State) (f : FillData) : State :=
  let line := f.req.line
  match (s.room (s.homeOf line)).find line with
  | some l =>
    match f.req.want with
    | some q => if q.kind = .write then (s.putLine (mergeLine l q.data q.enables)).touch line l.way else s.touch line l.way
    | none => s
  | none =>
    match f.req.want with
    | none => s.install 0 ⟨line, 0, f.data, false, f.poison⟩
    | some q =>
      let l : RoomLine := ⟨line, 0, f.data, false, f.poison⟩
      if q.kind = .write then
        if s.wayMask (s.homeOf line / 120) q.part.val = 0 then s.toCtl ⟨line, s.homeOf line, true, q.enables, q.data, false, none, false⟩
        else s.install q.part.val (mergeLine l q.data q.enables)
      else s.install q.part.val l

/-- The data a request is answered with: emitted at the boundary of the memory system. -/
def State.answerMem (s : State) (q : RoomReq) (data : List Byte) (poison : Bool) : State :=
  if q.kind = .write then s else s.emit (.memData q.part.val q.line data poison)

/-- Install the oldest data that a controller has returned, and perform the request that waited for it. -/
def State.fillOne (s : State) (st : Nat) : State :=
  match mget [] s.hbm.fills st with
  | [] => s
  | f :: rest =>
    let s := { s with hbm := { s.hbm with fills := mset [] s.hbm.fills st rest } }
    let s := s.performFill f
    match f.req.want with
    | some q =>
      let d := match (s.room (s.homeOf q.line)).find q.line with | some l => (l.data, l.poison) | none => (f.data, f.poison)
      s.answerMem q d.1 d.2
    | none => s

/-- Install n of a controller's returned lines. -/
def State.fillN (s : State) (st n : Nat) : State :=
  match n with
  | 0 => s
  | k + 1 => (s.fillOne st).fillN st k

/-- Let everything that waits at the controller of a line, and at its store rooms, be performed first (R268, R275). -/
def State.settle (s : State) (line : Nat) : State :=
  let st := (s.lineHome line).1.stack
  let s := s.ctlServeN st (s.memQ st).length
  let s := s.fillN st (mget [] s.hbm.fills st).length
  s.ctlServeN st (s.memQ st).length

/-- What an access to a line gives: the state after it, the line's bytes before it, and their poison. -/
structure LineRes where
  st : State
  data : List Byte
  poison : Bool
  deriving DecidableEq, Repr

/-- A read of a line at its home, allocating on a miss (R274, R275). -/
def State.lineRead (s : State) (part line : Nat) : LineRes :=
  if !s.lineOk line then ⟨s, zeroLine, false⟩
  else
  match (s.room (s.homeOf line)).find line with
  | some l => ⟨s.touch line l.way, l.data, l.poison⟩
  | none =>
    let s := s.settle line
    match (s.room (s.homeOf line)).find line with
    | some l => ⟨s.touch line l.way, l.data, l.poison⟩
    | none =>
      let d := s.ctlRead line
      ⟨s.install part ⟨line, 0, d.1, false, d.2⟩, d.1, d.2⟩

/-- A write of the enabled bytes of a line at its home (R274, R278, R281), by agent who. -/
def State.lineWrite (s : State) (part line who : Nat) (data : List Byte) (en : BitVec 128) : State :=
  if !s.lineOk line then s
  else
  let s := s.breakResv line who
  match (s.room (s.homeOf line)).find line with
  | some l => (s.putLine (mergeLine l data en)).touch line l.way
  | none =>
    let s := s.settle line
    match (s.room (s.homeOf line)).find line with
    | some l => (s.putLine (mergeLine l data en)).touch line l.way
    | none =>
      if s.wayMask (s.homeOf line / 120) part = 0 then s.ctlWrite line data en false
      else if en = fullEn then s.install part ⟨line, 0, data, true, false⟩
      else
        let d := s.ctlRead line
        s.install part (mergeLine ⟨line, 0, d.1, false, d.2⟩ data en)

/-- Mark a line poisoned whole, as a copy of poisoned data does (R282). -/
def State.linePoison (s : State) (part line who : Nat) : State :=
  if !s.lineOk line then s
  else
  let s := s.lineWrite part line who zeroLine 0#128
  match (s.room (s.homeOf line)).find line with
  | some l => s.putLine { l with poison := true, dirty := true }
  | none => s.ctlWrite line zeroLine 0#128 true

/-! ### Runs of bytes -/

/-- The enables of bytes [lo, lo + n) of a line. -/
def enRange (lo n : Nat) : BitVec 128 := BitVec.ofNat 128 ((2 ^ n - 1) <<< lo)

/-- A line's data with bytes placed at offset lo. -/
def placeAt (lo : Nat) (bs : List Byte) : List Byte := List.replicate lo 0 ++ bs ++ List.replicate (128 - lo - bs.length) 0

/-- Read n bytes at a physical address, line by line; fuel is the count of lines at most. -/
def State.physReadF (s : State) (part pa n fuel : Nat) : LineRes :=
  match fuel with
  | 0 => ⟨s, [], false⟩
  | k + 1 =>
    if n = 0 then ⟨s, [], false⟩
    else
      let lo := pa % 128
      let m := min n (128 - lo)
      let r := s.lineRead part (pa / 128)
      let t := r.st.physReadF part (pa + m) (n - m) k
      ⟨t.st, (r.data.drop lo).take m ++ t.data, r.poison || t.poison⟩

/-- Read n bytes at a physical address. -/
def State.physRead (s : State) (part pa n : Nat) : LineRes := s.physReadF part pa n (n / 128 + 2)

/-- Write bytes at a physical address, line by line. -/
def State.physWriteF (s : State) (part who pa : Nat) (bs : List Byte) (fuel : Nat) : State :=
  match fuel with
  | 0 => s
  | k + 1 =>
    if bs.isEmpty then s
    else
      let lo := pa % 128
      let m := min bs.length (128 - lo)
      let s := s.lineWrite part (pa / 128) who (placeAt lo (bs.take m)) (enRange lo m)
      s.physWriteF part who (pa + m) (bs.drop m) k

/-- Agents without a reservation. -/
def noCore : Nat := 1000

/-- Write bytes at a physical address. -/
def State.physWrite (s : State) (part who pa : Nat) (bs : List Byte) : State := s.physWriteF part who pa bs (bs.length / 128 + 2)

/-- Poison the lines that n bytes at a physical address touch. -/
def State.physPoison (s : State) (part who pa n : Nat) : State :=
  forEach (upTo ((pa + n + 127) / 128 - pa / 128)) s (fun s i => s.linePoison part (pa / 128 + i) who)

/-- A byte as the whole memory system holds it now, without an access: the store room's, else the stack's. -/
def State.physByte (s : State) (pa : Nat) : Byte :=
  let line := pa / 128
  match (s.room (s.homeOf line)).find line with
  | some l => nth 0 l.data (pa % 128)
  | none => nth 0 (s.ctlRead line).1 (pa % 128)

/-! ### Range operations (R277) -/

/-- The lines of a range that a store room holds: first line and count. -/
def inRange (first count line : Nat) : Bool := decide (first ≤ line) && decide (line < first + count)

/-- A range operation at one store room. -/
def State.rangeRoom (s : State) (k : RangeKind) (first count c : Nat) : State :=
  let r := s.room c
  let hit := r.lines.filter (fun l => inRange first count l.line)
  let s1 :=
    if k = .drop then s
    else forEach (hit.filter (·.dirty)) s (fun s l => s.toCtl ⟨l.line, c, true, fullEn, l.data, l.poison, none, false⟩)
  let lines :=
    if k = .clean then mapWhere r.lines (fun l => inRange first count l.line) (fun l => { l with dirty := false })
    else r.lines.filter (fun l => !inRange first count l.line)
  if hit.isEmpty then s else s1.setRoom c { r with lines := lines }

/-- A range operation at every store room of the module that is listed, of the dies of a test. -/
def State.rangeOp (s : State) (k : RangeKind) (first count : Nat) (die : Nat → Bool) : State :=
  forEach ((s.rooms.map (·.1)).filter (fun c => die (c / 120))) s (fun s c => s.rangeRoom k first count c)

/-- A range operation asked for through SRM_OP of a die (R292): ignored while one is busy. -/
def State.srmStart (s : State) (d : Nat) (k : RangeKind) : State :=
  if s.getF ⟨srmBase d, 3, 1⟩ = 1 then s
  else
    let first := fld (s.reg (srmBase d + 8)) 7 41
    let count := fld (s.reg (srmBase d + 0x10)) 7 34
    (s.rangeOp k first count (fun x => x == d)).putF ⟨srmBase d, 3, 1⟩ 1

/-! ### Release of a granule (R286) -/

/-- Drop a GiB's lines everywhere, let the earlier write-backs land, and set every part of it fresh; its poison is gone. -/
def State.releaseGib (s : State) (g : Nat) : State :=
  let first := g * (gib / 128)
  let s := s.rangeOp .drop first (gib / 128) (fun _ => true)
  let s := forEach (upTo 12) s (fun s st => s.ctlServeN st (s.memQ st).length)
  let lo := (first / 512) * 16
  { s with hbm := { s.hbm with
      written := s.hbm.written.filter (fun e => !(decide (lo ≤ e.1) && decide (e.1 < lo + 16384 * 16))) } }

/-! ### Atomics at a home (R245) -/

/-- The value an AMO stores. -/
def amoVal (op : AmoOp) (w : Nat) (old x : Nat) : Nat :=
  match op with
  | .swap => x
  | .add => (old + x) % 2 ^ w
  | .xor => old ^^^ x
  | .and => old &&& x
  | .or => old ||| x
  | .min => if sext old w ≤ sext x w then old else x
  | .max => if sext x w ≤ sext old w then old else x
  | .minu => min old x
  | .maxu => max old x
  | .lr => old
  | .sc => x

/-- What an atomic gives: the state, the old value (for SC: 0 success, 1 failure), and the poison that stopped it. -/
structure AmoRes where
  st : State
  old : Nat
  poison : Bool
  deriving DecidableEq, Repr

/-- An AMO, LR or SC of w bits (32 or 64) by a RISC-V core at physical address pa, aligned (R245, R281). -/
def State.amoAt (s : State) (core part : Nat) (op : AmoOp) (w pa x : Nat) : AmoRes :=
  let n := w / 8
  let r := s.physRead part pa n
  let line := pa / 128
  let old := ofLE r.data
  let x := x % 2 ^ w
  if op = .sc then
    let c := r.st.rv core
    let good := decide (c.resv = some line) && !c.resvScratch
    let s1 := r.st.setRv core { c with resv := none }
    if r.poison then ⟨s1, 0, true⟩
    else if good then ⟨s1.physWrite part core pa (toLE n x), 0, false⟩
    else ⟨s1, 1, false⟩
  else if r.poison then ⟨r.st, 0, true⟩
  else if op = .lr then ⟨r.st.updRv core (fun c => { c with resv := some line, resvScratch := false }), old, false⟩
  else ⟨r.st.physWrite part core pa (toLE n (amoVal op w old x)), old, false⟩

/-! ### Work counters (R218-R222, R667) -/

/-- The ledger entry of a core (R221). -/
def ledgerEntry (who : CoreName) : Nat := 0x8000 + (if who.isVc then 0x4000 else 0) + who.num % 2048

/-- What a work-counter operation answers: the ticket, or DUPLICATE; poison stops it. -/
structure TicketRes where
  st : State
  ticket : Nat
  dup : Bool
  poison : Bool
  deriving DecidableEq, Repr

/-- Offer a ledger entry to a core: written where free; another core's entry counts as a duplicate (R222). -/
def State.ledgerOffer (s : State) (part pa : Nat) (who : CoreName) (t : Nat) : State × Bool :=
  let led := ofLE (s.physRead part (pa + 0x10) 8).data
  let a := led % 2 ^ 48 + 2 * t
  let r := s.physRead part a 2
  let e := ofLE r.data
  let mine := ledgerEntry who
  if e = 0 then (r.st.physWrite part noCore a (toLE 2 mine), false)
  else if e &&& 0xC7FF = mine &&& 0xC7FF then (r.st, false)
  else
    let s := r.st
    let cnt := ofLE (s.physRead part (pa + 0x18) 4).data
    let fst := ofLE (s.physRead part (pa + 0x1C) 4).data
    let s := s.physWrite part noCore (pa + 0x18) (toLE 4 (satAdd cnt 1 32))
    let s := if bit fst 31 then s else s.physWrite part noCore (pa + 0x1C) (toLE 4 (2 ^ 31 + t % 2 ^ 31))
    (s.raiseD (if who.isVc then who.num / 120 else who.num / 480) 7, true)

/-- The tickets a core is entered for: those below limit, when the ledger is on. -/
def ledgerOn (rcd : Nat) : Bool := bit rcd (8 * 0x10 + 63)

/-- Whether a ledger entry's line is poisoned. -/
def State.ledgerBad (s : State) (part rcd t : Nat) : Bool :=
  (s.physRead part (recB rcd 0x10 8 % 2 ^ 48 + 2 * t) 2).poison

/-- A CLAIM of n tickets (R219, R222, R667). -/
def State.wcClaim (s : State) (part pa n : Nat) (who : Option CoreName) : TicketRes :=
  let r := s.physRead part pa 32
  let rcd := ofLE r.data
  let next := recB rcd 0 8
  let limit := recB rcd 8 8
  let led := who.isSome && ledgerOn rcd
  let ts := if led then (upTo (min n (limit - next))).map (fun i => next + i) else []
  if r.poison || ts.any (fun t => r.st.ledgerBad part rcd t) then ⟨r.st, next, false, true⟩
  else
    let s := r.st.physWrite part noCore pa (toLE 8 ((next + n) % 2 ^ 64))
    match who with
    | none => ⟨s, next, false, false⟩
    | some w =>
      let z := forEach ts (s, false) (fun p t => let q := p.1.ledgerOffer part pa w t; (q.1, p.2 || q.2))
      ⟨z.1, next, z.2, false⟩

/-- A PRESENT of ticket t (R222, R667). -/
def State.wcPresent (s : State) (part pa t : Nat) (who : Option CoreName) : TicketRes :=
  let r := s.physRead part pa 32
  let rcd := ofLE r.data
  let limit := recB rcd 8 8
  if r.poison then ⟨r.st, t, false, true⟩
  else
    match who with
    | none => ⟨r.st, t, false, false⟩
    | some w =>
      if !ledgerOn rcd || decide (t ≥ limit) then ⟨r.st, t, false, false⟩
      else if r.st.ledgerBad part rcd t then ⟨r.st, t, false, true⟩
      else
        let q := r.st.ledgerOffer part pa w t
        ⟨q.1, t, q.2, false⟩

end Sys2Proof.Machine
end

