-- ==== Sys2Proof/Machine/Mmu.lean ====
section
/-! DEFINITION. Address translation: contexts, the Sv48 walk, cached translations, fault records (R293-R313). -/

namespace Sys2Proof.Machine

/-! ### Classes (R310) -/

def clsNotPresent : Nat := 1
def clsPermission : Nat := 2
def clsReservedPte : Nat := 3
def clsGranule : Nat := 4
def clsAddress : Nat := 5
def clsContext : Nat := 6
def clsPoison : Nat := 7
def clsWalkPoison : Nat := 8
def clsHostDenied : Nat := 9
def clsHostError : Nat := 10
def clsTimeout : Nat := 11

/-! ### Contexts -/

/-- A context's entry, if it is valid. -/
def State.ctxEntry (s : State) (c : Nat) : Option CtxEntry :=
  match mget none s.mmu.ctxs c with
  | some e => if e.valid then some e else none
  | none => none

/-- Whether a context is valid and belongs to a partition (R296). -/
def State.ctxOk (s : State) (c p : Nat) : Bool :=
  match s.ctxEntry c with
  | some e => e.part == p
  | none => false

/-- The cell of a unit that translates through a cell TLB (R302). -/
def unitCell (u : UnitId) : Option Nat :=
  match u with
  | .mc n => some (n.val / 4)
  | .vc n => some n.val
  | .dma c => some c.val
  | _ => none

/-- Number of the TLB a unit uses first: its cell's, else the junction die's. -/
def unitTlb (u : UnitId) : Nat :=
  match unitCell u with
  | some c => c
  | none => 488

/-- Number of the half TLB behind a cell TLB. -/
def halfTlb (c : Nat) : Nat := 480 + c / 60

/-- Entries of a TLB (R302). -/
def tlbCap (n : Nat) : Nat := if n < 480 then 64 else if n < 488 then 4096 else 8192

/-- The fault queue of a unit: the half controller of its half, or SC7 (R313). -/
def unitQueue (u : UnitId) : Nat :=
  match unitCell u with
  | some c => c / 60
  | none => 15

/-! ### Results -/

/-- What a translation gives: a device address, a host address, a host page not yet translated, or a failure. -/
inductive Xl where
  | dev (pa : Nat)
  | host (hpa : Nat)
  | ats (pte level : Nat) (page : Nat) (pasid : BitVec 20)
  | fail (cls level pte : Nat) (hst : Bool)
  deriving DecidableEq, Repr

/-- A translation with the state after it. -/
structure XlRes where
  st : State
  x : Xl
  deriving DecidableEq, Repr

/-- Whether permissions serve an access (R300). -/
def permOk (acc : Access) (r w x : Bool) : Bool :=
  match acc with
  | .read => r
  | .write => w
  | .atomic => r && w
  | .fetch => x

/-- Whether an access writes. -/
def accWrites (acc : Access) : Bool := acc == .write || acc == .atomic

/-- Whether every GiB of [pa, pa + n) is a granule of bands 0-46 bound to a partition (R301). -/
def State.granulesOk (s : State) (p pa n : Nat) : Bool :=
  (upTo ((pa + n - 1) / gib - pa / gib + 1)).all (fun i =>
    let g := pa / gib + i
    s.granPart g == p && decide (g * gib < 47 * s.bandSize))

/-! ### The walk (R297-R301) -/

/-- Bits of the virtual address below level l's index. -/
def lvlShift (l : Nat) : Nat := 12 + 9 * l

/-- Whether a PTE that is valid breaks R298 at a level; the flag says that the context admits host leaves. -/
def pteReserved (pte lvl : Nat) (hostEn : Bool) : Bool :=
  let r := bit pte 1
  let w := bit pte 2
  let x := bit pte 3
  let ppn := bits pte 10 44
  let ptr := !r && !w && !x
  (!r && w) || bit pte 9 || decide (bits pte 54 7 ≠ 0) || decide (bits pte 61 2 ≠ 0)
    || (ptr && (decide (lvl = 0) || bit pte 8 || bit pte 63))
    || (!ptr && ((bit pte 8 && !hostEn) || (bit pte 63 && !(decide (lvl = 0) && decide (ppn % 16 = 8)))
        || decide (ppn % 2 ^ (9 * lvl) ≠ 0)))

/-- The pages a leaf maps, in 4 KiB pages. -/
def leafPages (pte lvl : Nat) : Nat := if bit pte 63 then 16 else 2 ^ (9 * lvl)

/-- First page number a leaf maps to. -/
def leafPpn (pte : Nat) : Nat := let ppn := bits pte 10 44; if bit pte 63 then ppn / 16 * 16 else ppn

/-- What a walk finds: a leaf with its level and address, or a failure. -/
inductive Walk where
  | leaf (pte lvl addr : Nat)
  | fail (cls lvl pte : Nat)
  deriving DecidableEq, Repr

/-- One level of a walk, in the table with page number ppn at level lvl; prev is the PTE that named the table (R297, R298, R301): its
end, or the PTE that names the next table. -/
def State.walkLevel (s : State) (e : CtxEntry) (va ppn prev lvl : Nat) : State × (Walk ⊕ Nat) :=
  if !s.granulesOk e.part (ppn * 4096) 4096 then (s, .inl (.fail clsGranule lvl prev))
  else
    let a := ppn * 4096 + 8 * bits va (lvlShift lvl) 9
    let r := s.physRead e.part a 8
    let pte := ofLE r.data
    if r.poison then (r.st, .inl (.fail clsWalkPoison lvl pte))
    else if !bit pte 0 then (r.st, .inl (.fail clsNotPresent lvl pte))
    else if pteReserved pte lvl e.hostEn then (r.st, .inl (.fail clsReservedPte lvl pte))
    else if bits pte 1 3 ≠ 0 then (r.st, .inl (.leaf pte lvl a))
    else (r.st, .inr pte)

/-- Walk from a table down to a leaf or a failure (R297). -/
def State.walk (s : State) (e : CtxEntry) (va ppn prev lvl : Nat) : State × Walk :=
  let r := s.walkLevel e va ppn prev lvl
  match r.2, lvl with
  | .inl w, _ => (r.1, w)
  | .inr pte, 0 => (r.1, .fail clsReservedPte 0 pte)
  | .inr pte, l + 1 => r.1.walk e va (bits pte 10 44) pte l
termination_by structural lvl

/-- Put an entry into a TLB, dropping the oldest beyond its size. -/
def State.tlbPut (s : State) (t : TlbEntry) : State :=
  let mates := s.mmu.tlb.filter (fun x => x.unit == t.unit && !(x.ctx == t.ctx && x.page == t.page))
  let rest := s.mmu.tlb.filter (fun x => x.unit != t.unit)
  let kept := mates.drop (mates.length + 1 - tlbCap t.unit)
  { s with mmu := { s.mmu with tlb := rest ++ kept ++ [t] } }

/-- The entry of a TLB that serves an access: it covers the page, permits the access, and D stands for a write (R299). -/
def State.tlbFind (s : State) (unit ctx page : Nat) (acc : Access) : Option TlbEntry :=
  s.mmu.tlb.find? (fun t => t.unit == unit && t.ctx == ctx && decide (t.page ≤ page) && decide (page < t.page + t.pages)
    && permOk acc t.r t.w t.x && (!accWrites acc || t.dirty))

/-- The host translation that serves an access to a host page (R307). -/
def State.atcFind (s : State) (pasid : BitVec 20) (page : Nat) (acc : Access) : Option AtcEntry :=
  s.mmu.atc.find? (fun t => t.pasid == pasid && t.page == page && permOk acc t.r t.w t.x)

/-- A leaf's answer for an address: device memory directly, host memory through the ATC. -/
def State.leafAnswer (s : State) (e : CtxEntry) (va : Nat) (acc : Access) (page ppn0 pages : Nat) (hst : Bool) (pte lvl : Nat) : Xl :=
  let p := ppn0 + (va / 4096 - page) % pages
  if hst then
    match s.atcFind e.pasid p acc with
    | some t => .host (t.hpa + va % 4096)
    | none => .ats pte lvl p e.pasid
  else .dev (p * 4096 + va % 4096)

/-- Translate one address for an access (R296-R303). -/
def State.translate (s : State) (u : UnitId) (ctx part va : Nat) (acc : Access) : XlRes :=
  if va ≥ 2 ^ 48 then ⟨s, .fail clsAddress 0 0 false⟩
  else
    match s.ctxEntry ctx with
    | none => ⟨s, .fail clsContext 0 0 false⟩
    | some e =>
      if e.part ≠ part then ⟨s, .fail clsContext 0 0 false⟩
      else
        let page := va / 4096
        let t1 := s.tlbFind (unitTlb u) ctx page acc
        let t2 := match unitCell u with | some c => s.tlbFind (halfTlb c) ctx page acc | none => none
        match t1 with
        | some t => ⟨s, s.leafAnswer e va acc t.page t.ppn t.pages t.host 0 0⟩
        | none =>
          match t2 with
          | some t => ⟨s.tlbPut { t with unit := unitTlb u }, s.leafAnswer e va acc t.page t.ppn t.pages t.host 0 0⟩
          | none =>
            let w := s.walk e va e.root.toNat 0 3
            let s := w.1
            match w.2 with
            | .fail cls lvl pte => ⟨s, .fail cls lvl pte false⟩
            | .leaf pte lvl a =>
              let n := leafPages pte lvl
              let ppn0 := leafPpn pte
              let hst := bit pte 8
              if !permOk acc (bit pte 1) (bit pte 2) (bit pte 3) then ⟨s, .fail clsPermission lvl pte hst⟩
              else if !hst && !s.granulesOk part (ppn0 * 4096) (n * 4096) then ⟨s, .fail clsGranule lvl pte false⟩
              else
                let dirty := bit pte 7 || accWrites acc
                let pte' := pte ||| 0x40 ||| (if accWrites acc then 0x80 else 0)
                let s := if pte' = pte then s else s.physWrite part noCore a (toLE 8 pte')
                let first := page / n * n
                let t : TlbEntry := ⟨unitTlb u, ctx, first, n, ppn0, hst, bit pte 1, bit pte 2, bit pte 3, dirty⟩
                let s := s.tlbPut t
                let s := match unitCell u with | some c => s.tlbPut { t with unit := halfTlb c } | none => s
                ⟨s, s.leafAnswer e va acc first ppn0 n hst pte' lvl⟩

/-! ### Fault records (R311, R312) -/

/-- Unit number and kind of a unit in a fault record (R311, R668). -/
def unitWho (u : UnitId) : Nat :=
  match u with
  | .mc n => n.val
  | .vc n => n.val + 1 * 2048
  | .dma c => c.val + 2 * 2048
  | .bulk e => e.val + 3 * 2048
  | .ce n => n.val + 4 * 2048
  | .port p => p.val + 5 * 2048
  | .host f => f.val + 6 * 2048
  | .jservice n => n.val + 7 * 2048

/-- Code of an access in a fault record (R311). -/
def accCode (a : Access) : Nat :=
  match a with
  | .read => 0
  | .write => 1
  | .atomic => 2
  | .fetch => 3

/-- The 32 bytes of a fault record (R311). -/
def FaultRec.bytes (f : FaultRec) : List Byte :=
  toLE 8 (f.va % 2 ^ 48)
    ++ toLE 4 (unitWho f.unit + f.ctx * 2 ^ 14 + f.part % 16 * 2 ^ 20)
    ++ toLE 4 (f.cls + accCode f.acc * 16 + b2n f.host * 64 + f.level * 128)
    ++ toLE 8 (if f.cls = 5 ∨ f.cls = 6 then 0 else f.pte.toNat)
    ++ toLE 4 f.id.toNat ++ toLE 4 0

/-- The open record of a page of a context (R312). -/
def State.openRec (s : State) (ctx page : Nat) : Option FaultRec :=
  s.mmu.recs.find? (fun f => f.ctx == ctx && f.va / 4096 == page)

/-- The open record with a number. -/
def State.recOf (s : State) (id : Word32) : Option FaultRec := s.mmu.recs.find? (fun f => f.id == id)

/-- Add an access that waits to a record. -/
def addWaiter (f : FaultRec) (w : Option Waiter) : FaultRec :=
  match w with
  | some w => if f.waiters.contains w then f else { f with waiters := f.waiters ++ [w] }
  | none => f

/-- Open a record for a failed translation, or join the open record of its page (R311, R312). A host page without a
translation yet waits in a record of class 0, whose ATS request is sent once (R307). -/
def State.openFault (s : State) (u : UnitId) (ctx part va : Nat) (acc : Access) (x : Xl) (w : Option Waiter) : State × Word32 :=
  match s.openRec ctx (va / 4096) with
  | some f =>
    ({ s with mmu := { s.mmu with recs := mapWhere s.mmu.recs (fun g => g.id == f.id) (fun g => addWaiter g w) } }, f.id)
  | none =>
    let id := s.mmu.nextId
    let mk (cls lvl pte : Nat) (hst : Bool) : FaultRec :=
      addWaiter ⟨id, va, u, ctx, part, cls, acc, hst, lvl, BitVec.ofNat 64 pte, [], none, false, false⟩ w
    let put (s : State) (f : FaultRec) : State := { s with mmu := { s.mmu with recs := s.mmu.recs ++ [f], nextId := id + 1 } }
    match x with
    | .fail cls lvl pte hst => (put s (mk cls lvl pte hst), id)
    | .ats pte lvl page pasid =>
      ((put s (mk 0 lvl pte true)).emit (.atsRequest pasid page (accWrites acc) (acc == .fetch)), id)
    | _ => (s, id)

/-! ### Runs of virtual addresses -/

/-- A piece of a translated run: where it lies and its length. -/
structure Seg where
  host : Bool
  pa : Nat
  len : Nat
  deriving DecidableEq, Repr

/-- A run translated page by page: its pieces, or the first failure with its address. -/
structure RunRes where
  st : State
  segs : List Seg
  bad : Option (Nat × Xl)
  deriving DecidableEq, Repr

/-- Translate [va, va + n) page by page; fuel bounds the pages. -/
def State.xlRunF (s : State) (u : UnitId) (ctx part va n : Nat) (acc : Access) (fuel : Nat) : RunRes :=
  match fuel with
  | 0 => ⟨s, [], none⟩
  | k + 1 =>
    if n = 0 then ⟨s, [], none⟩
    else
      let m := min n (4096 - va % 4096)
      let r := s.translate u ctx part va acc
      match r.x with
      | .dev pa => let t := r.st.xlRunF u ctx part (va + m) (n - m) acc k; ⟨t.st, ⟨false, pa, m⟩ :: t.segs, t.bad⟩
      | .host pa => let t := r.st.xlRunF u ctx part (va + m) (n - m) acc k; ⟨t.st, ⟨true, pa, m⟩ :: t.segs, t.bad⟩
      | x => ⟨r.st, [], some (va, x)⟩

/-- Translate a run of n bytes. -/
def State.xlRun (s : State) (u : UnitId) (ctx part va n : Nat) (acc : Access) : RunRes :=
  s.xlRunF u ctx part va n acc (n / 4096 + 2)

/-- n bytes that the model does not hold: free values (log entry 1). -/
def State.freeBytes (s : State) (n : Nat) : State × List Byte :=
  match n with
  | 0 => (s, [])
  | k + 1 => let r := (s.tickFree).freeBytes k; (r.1, s.freshVal.setWidth 8 :: r.2)

/-- Read the pieces of a run; what host memory holds is outside the module: the read goes out and its bytes are free values. -/
def State.readSegs (s : State) (part : Nat) (l : List Seg) : LineRes :=
  match l with
  | [] => ⟨s, [], false⟩
  | g :: r =>
    let a : LineRes :=
      if g.host then let z := (s.emit (.hostRead g.pa g.len)).freeBytes g.len; ⟨z.1, z.2, false⟩
      else s.physRead part g.pa g.len
    let t := a.st.readSegs part r
    ⟨t.st, a.data ++ t.data, a.poison || t.poison⟩

/-- Write the pieces of a run; a write to host memory goes out as a translated request. -/
def State.writeSegs (s : State) (part who : Nat) (l : List Seg) (bs : List Byte) : State :=
  match l with
  | [] => s
  | g :: r =>
    let now := bs.take g.len
    let s := if g.host then s.emit (.hostTranslated g.pa now) else s.physWrite part who g.pa now
    s.writeSegs part who r (bs.drop g.len)

/-- Poison the lines of the device pieces of a run. -/
def State.poisonSegs (s : State) (part who : Nat) (l : List Seg) : State :=
  forEach l s (fun s g => if g.host then s else s.physPoison part who g.pa g.len)

/-- A translated access: done, with data, or held under a fault record. -/
inductive AccOut where
  | done (data : List Byte) (poison : Bool)
  | held (id : Word32) (va : Nat)
  deriving DecidableEq, Repr

/-- A translated access with the state after it. -/
structure AccRes where
  st : State
  o : AccOut
  deriving DecidableEq, Repr

/-- Read n bytes at a virtual address; a failed translation opens or joins a record, on which w waits. -/
def State.vRead (s : State) (u : UnitId) (ctx part va n : Nat) (acc : Access) (w : Option Waiter) : AccRes :=
  let r := s.xlRun u ctx part va n acc
  match r.bad with
  | some (a, x) => let f := r.st.openFault u ctx part a acc x w; ⟨f.1, .held f.2 a⟩
  | none => let d := r.st.readSegs part r.segs; ⟨d.st, .done d.data d.poison⟩

/-- Write bytes at a virtual address, all or (on a failed translation) none. -/
def State.vWrite (s : State) (u : UnitId) (ctx part va : Nat) (bs : List Byte) (who : Nat) (w : Option Waiter) : AccRes :=
  let r := s.xlRun u ctx part va bs.length .write
  match r.bad with
  | some (a, x) => let f := r.st.openFault u ctx part a .write x w; ⟨f.1, .held f.2 a⟩
  | none => ⟨r.st.writeSegs part who r.segs bs, .done [] false⟩

/-- Read without faults opened: the junction die's own reads whose failure ends their command (R668). -/
def State.tryRead (s : State) (u : UnitId) (ctx part va n : Nat) : State × Option (List Byte) × Nat :=
  let r := s.xlRun u ctx part va n .read
  match r.bad with
  | some (_, .fail cls _ _ _) => (r.st, none, cls)
  | some _ => (r.st, none, clsHostError)
  | none =>
    let d := r.st.readSegs part r.segs
    if d.poison then (d.st, none, clsPoison) else (d.st, some d.data, 0)

/-! ### Invalidation (R304, R309) -/

/-- Whether an invalidation covers pages of a context (of a partition, where it names one). -/
def State.invCovers (s : State) (q : InvReq) (ctx page pages : Nat) : Bool :=
  (match q.ctx with | none => true | some c => c == ctx)
    && (match q.part with | none => true | some p => match s.ctxEntry ctx with | some e => e.part == p | none => true)
    && (match q.range with | none => true | some (p, n) => decide (p < page + pages) && decide (page < p + n))

/-- Remove every cached translation that an invalidation covers; host translations of a PASID go with any of its contexts. -/
def State.dropCached (s : State) (q : InvReq) : State :=
  { s with mmu := { s.mmu with
      tlb := s.mmu.tlb.filter (fun t => !s.invCovers q t.ctx t.page t.pages)
      atc := s.mmu.atc.filter (fun a =>
        !(upTo 64).any (fun c => (match q.ctx with | none => true | some x => x == c)
          && (match s.ctxEntry c with
              | some e => e.pasid == a.pasid && (match q.part with | none => true | some p => e.part == p)
              | none => false))) } }

/-- Queue an invalidation (R304). -/
def State.queueInv (s : State) (q : InvReq) : State := { s with mmu := { s.mmu with invs := s.mmu.invs ++ [q] } }

/-- MMU_INV with go (R330): scope 3 is refused, an empty range completes at once. -/
def State.mmuInvGo (s : State) (scope : Nat) (off : Nat) (pf : Bool) : State :=
  let ctx := s.getF ⟨mmuBase + 8, 0, 6⟩
  let page := s.getF ⟨mmuBase + 0x10, 12, 36⟩
  let n := s.getF ⟨mmuBase + 0x18, 0, 36⟩
  let busy (s : State) := s.putF ⟨mmuBase + 8, 11, 1⟩ 1
  if scope = 0 then busy (s.queueInv ⟨none, none, none, none, 0⟩)
  else if scope = 1 then busy (s.queueInv ⟨some ctx, none, none, none, 0⟩)
  else if scope = 2 then
    if n = 0 then s.putF ⟨mmuBase + 8, 12, 1⟩ 1 else busy (s.queueInv ⟨some ctx, some (page, n), none, none, 0⟩)
  else s.refuse off pf

end Sys2Proof.Machine
end

