-- ==== Sys2Proof/Machine/Num.lean ====
section
/-! DEFINITION. Number formats and exact arithmetic (R81-R111): values, decoding, the one rounding, conversions. -/

namespace Sys2Proof.Machine

/-- A value: NaN, an infinity, or the exact number (-1)^neg * m * 2^e; zero keeps a sign (R88). -/
inductive Val where
  | nan
  | inf (neg : Bool)
  | fin (neg : Bool) (m : Nat) (e : Int)
  deriving DecidableEq, Repr

/-- How a rounding goes: the five of the RISC-V standard, or SR with the generator's 16 bits (R107). -/
inductive Rnd where
  | rne
  | rtz
  | rdn
  | rup
  | rmm
  | sr (r : Nat)
  deriving DecidableEq, Repr

/-- Which special codes a format has (R86). -/
inductive Specials where
  | noSpecials
  | oneNan
  | ieee
  deriving DecidableEq, Repr

/-- A floating-point format: exponent bits, mantissa bits, bias, specials (R86). -/
structure FFmt where
  eb : Nat
  mb : Nat
  bias : Nat
  sp : Specials
  deriving DecidableEq, Repr

def e2m1 : FFmt := ⟨2, 1, 1, .noSpecials⟩
def e2m3 : FFmt := ⟨2, 3, 1, .noSpecials⟩
def e3m2 : FFmt := ⟨3, 2, 3, .noSpecials⟩
def e4m3 : FFmt := ⟨4, 3, 7, .oneNan⟩
def e5m2 : FFmt := ⟨5, 2, 15, .ieee⟩
def binary16 : FFmt := ⟨5, 10, 15, .ieee⟩
def bfloat16 : FFmt := ⟨8, 7, 127, .ieee⟩
def binary32 : FFmt := ⟨8, 23, 127, .ieee⟩
def binary64 : FFmt := ⟨11, 52, 1023, .ieee⟩

/-- Magnitude code of infinity, in a format that has one. -/
def infMag (f : FFmt) : Nat := (2 ^ f.eb - 1) * 2 ^ f.mb

/-- Magnitude code of the largest normal (R86). -/
def maxMag (f : FFmt) : Nat :=
  match f.sp with
  | .noSpecials => 2 ^ (f.eb + f.mb) - 1
  | .oneNan => 2 ^ (f.eb + f.mb) - 2
  | .ieee => infMag f - 1

/-- The NaN code that conversions write (R95, R104). -/
def nanCode (f : FFmt) : Nat :=
  match f.sp with
  | .ieee => infMag f + 2 ^ (f.mb - 1)
  | _ => 2 ^ (f.eb + f.mb) - 1

/-- A code with its sign. -/
def withSign (f : FFmt) (neg : Bool) (mag : Nat) : Nat := if neg then mag + 2 ^ (f.eb + f.mb) else mag

/-- The value of a code (R86). -/
def decodeF (f : FFmt) (c : Nat) : Val :=
  let neg := bit c (f.eb + f.mb)
  let mag := c % 2 ^ (f.eb + f.mb)
  let ef := mag / 2 ^ f.mb
  let mf := mag % 2 ^ f.mb
  if f.sp = .ieee ∧ mag > infMag f then .nan
  else if f.sp = .ieee ∧ mag = infMag f then .inf neg
  else if f.sp = .oneNan ∧ mag > maxMag f then .nan
  else if ef = 0 then .fin neg mf (1 - (f.bias : Int) - f.mb)
  else .fin neg (2 ^ f.mb + mf) ((ef : Int) - f.bias - f.mb)

/-- A code is subnormal: not zero, and its magnitude below the least normal. -/
def isSub (f : FFmt) (c : Nat) : Bool :=
  let mag := c % 2 ^ (f.eb + f.mb)
  decide (mag ≠ 0) && decide (mag < 2 ^ f.mb)

/-- Drop sh bits of a magnitude under a rounding; the mark says that bits were lost. -/
def roundShift (rnd : Rnd) (neg : Bool) (m sh : Nat) : Nat × Bool :=
  let q := m >>> sh
  let r := m % 2 ^ sh
  let up :=
    match rnd with
    | .rne => decide (2 * r > 2 ^ sh) || (decide (2 * r = 2 ^ sh) && decide (q % 2 = 1))
    | .rmm => decide (r ≠ 0) && decide (2 * r ≥ 2 ^ sh)
    | .rtz => false
    | .rdn => neg && decide (r ≠ 0)
    | .rup => !neg && decide (r ≠ 0)
    | .sr x => decide (r ≠ 0) && decide (r * 65536 / 2 ^ sh + x ≥ 65536)
  (if up then q + 1 else q, decide (r ≠ 0))

/-- The magnitude code of m * 2^e after the one rounding, in a range without an upper end, and whether it is inexact. -/
def roundMag (f : FFmt) (rnd : Rnd) (neg : Bool) (m : Nat) (e : Int) : Nat × Bool :=
  if m = 0 then (0, false)
  else
    let low : Int := 1 - (f.bias : Int) - f.mb
    let ulp : Int := max ((Nat.log2 m : Int) + e - f.mb) low
    let r := if ulp ≤ e then (m <<< (e - ulp).toNat, false) else roundShift rnd neg m (ulp - e).toNat
    ((ulp - low).toNat * 2 ^ f.mb + r.1, r.2)

/-- Whether an overflowed result is the largest finite number and not infinity, by direction (IEEE 754). -/
def overflowToMax (rnd : Rnd) (neg : Bool) : Bool :=
  match rnd with
  | .rtz => true
  | .rdn => !neg
  | .rup => neg
  | _ => false

/-- IEEE rounding of a value to a format with infinities; the mark says that a finite value overflowed. -/
def encodeF (f : FFmt) (rnd : Rnd) (v : Val) : Nat × Bool :=
  match v with
  | .nan => (nanCode f, false)
  | .inf neg => (withSign f neg (infMag f), false)
  | .fin neg m e =>
    let mag := (roundMag f rnd neg m e).1
    if mag > maxMag f then (withSign f neg (if overflowToMax rnd neg then maxMag f else infMag f), true)
    else (withSign f neg mag, false)

/-! ### Exact arithmetic -/

/-- The signed mantissa of a finite value. -/
def signed (neg : Bool) (m : Nat) : Int := if neg then -(m : Int) else m

/-- The exact number a finite value stands for: mantissa and exponent. -/
def Val.exact (v : Val) : Int × Int :=
  match v with
  | .fin neg m e => (signed neg m, e)
  | _ => (0, 0)

/-- The exact sum of two numbers m * 2^e. -/
def dyAdd (a b : Int × Int) : Int × Int :=
  if a.2 ≤ b.2 then (a.1 + b.1 * ((2 ^ (b.2 - a.2).toNat : Nat) : Int), a.2)
  else (a.1 * ((2 ^ (a.2 - b.2).toNat : Nat) : Int) + b.1, b.2)

/-- An exact number as a value; a zero takes the sign given. -/
def ofDy (zneg : Bool) (d : Int × Int) : Val :=
  if d.1 = 0 then .fin zneg 0 0 else .fin (decide (d.1 < 0)) d.1.natAbs d.2

/-- Whether a value is a zero. -/
def Val.isZero (v : Val) : Bool :=
  match v with
  | .fin _ 0 _ => true
  | _ => false

/-- Whether a value is NaN. -/
def Val.isNan (v : Val) : Bool :=
  match v with
  | .nan => true
  | _ => false

/-- Whether a value is infinite. -/
def Val.isInf (v : Val) : Bool :=
  match v with
  | .inf _ => true
  | _ => false

/-- The sign of a value. -/
def Val.neg (v : Val) : Bool :=
  match v with
  | .nan => false
  | .inf n => n
  | .fin n _ _ => n

/-- A value with the opposite sign. -/
def Val.opp (v : Val) : Val :=
  match v with
  | .nan => .nan
  | .inf n => .inf (!n)
  | .fin n m e => .fin (!n) m e

/-- The magnitude of a value. -/
def Val.abs (v : Val) : Val :=
  match v with
  | .nan => .nan
  | .inf _ => .inf false
  | .fin _ m e => .fin false m e

/-- The exact product (IEEE 754 for the special values). -/
def Val.mul (a b : Val) : Val :=
  match a, b with
  | .nan, _ => .nan
  | _, .nan => .nan
  | .inf x, .inf y => .inf (x != y)
  | .inf x, .fin y m _ => if m = 0 then .nan else .inf (x != y)
  | .fin x m _, .inf y => if m = 0 then .nan else .inf (x != y)
  | .fin x m e, .fin y n f => .fin (x != y) (m * n) (e + f)

/-- The exact sum (IEEE 754 for the special values; a sum of zeros of unlike sign, or a cancelled sum, is +0). -/
def Val.add (a b : Val) : Val :=
  match a, b with
  | .nan, _ => .nan
  | _, .nan => .nan
  | .inf x, .inf y => if x = y then .inf x else .nan
  | .inf x, _ => .inf x
  | _, .inf y => .inf y
  | .fin x m e, .fin y n f => ofDy (x && y && decide (m = 0) && decide (n = 0)) (dyAdd (signed x m, e) (signed y n, f))

/-- A sum whose cancelled or mixed zero is -0, for rounding down (IEEE 754). -/
def Val.addRnd (rnd : Rnd) (a b : Val) : Val :=
  let v := Val.add a b
  if v.isZero && rnd = .rdn && (a.neg || b.neg) then .fin true 0 0 else v

/-- The quotient, exact or with a lost remainder marked in a last bit far below any rounding position. -/
def Val.div (a b : Val) : Val :=
  match a, b with
  | .nan, _ => .nan
  | _, .nan => .nan
  | .inf _, .inf _ => .nan
  | .inf x, .fin y _ _ => .inf (x != y)
  | .fin x _ _, .inf y => .fin (x != y) 0 0
  | .fin x m e, .fin y n f =>
    if n = 0 then (if m = 0 then .nan else .inf (x != y))
    else
      let sh := Nat.log2 n + 70
      let q := (m <<< sh) / n
      let sticky := if (m <<< sh) % n = 0 then 0 else 1
      .fin (x != y) (2 * q + sticky) (e - f - sh - 1)

/-- The integer square root: the largest r with r * r at most n, found bit by bit from bit k - 1 down. -/
def isqrtFrom (n r k : Nat) : Nat :=
  match k with
  | 0 => r
  | j + 1 => isqrtFrom n (if (r + 2 ^ j) * (r + 2 ^ j) ≤ n then r + 2 ^ j else r) j

/-- The integer square root. -/
def isqrt (n : Nat) : Nat := isqrtFrom n 0 (Nat.log2 n / 2 + 1)

/-- The square root, with a lost remainder marked in a last bit far below any rounding position. -/
def Val.sqrt (a : Val) : Val :=
  match a with
  | .nan => .nan
  | .inf true => .nan
  | .inf false => .inf false
  | .fin neg m e =>
    if m = 0 then .fin neg 0 0
    else if neg then .nan
    else
      let m2 := if e % 2 = 0 then m else 2 * m
      let e2 := if e % 2 = 0 then e else e - 1
      let big := m2 <<< 140
      let r := isqrt big
      let sticky := if r * r = big then 0 else 1
      .fin false (2 * r + sticky) (e2 / 2 - 70 - 1)

/-- Order of two finite or infinite values: a is less than b. -/
def Val.lt (a b : Val) : Bool :=
  match a, b with
  | .nan, _ => false
  | _, .nan => false
  | .inf x, .inf y => x && !y
  | .inf x, _ => x
  | _, .inf y => !y
  | .fin x m e, .fin y n f => decide ((dyAdd (signed x m, e) (-(signed y n), f)).1 < 0)

/-- Equality of two values as numbers. -/
def Val.eqv (a b : Val) : Bool := !a.isNan && !b.isNan && !Val.lt a b && !Val.lt b a

/-- ⌊log2⌋ of a positive finite value. -/
def Val.log2 (v : Val) : Int :=
  match v with
  | .fin _ m e => (Nat.log2 m : Int) + e
  | _ => 0

/-- A finite value times 2^k. -/
def Val.scale (v : Val) (k : Int) : Val :=
  match v with
  | .fin n m e => .fin n m (e + k)
  | w => w

/-- A value rounded to an integer. -/
def Val.toInt (rnd : Rnd) (v : Val) : Int :=
  match v with
  | .fin neg m e => signed neg (if e ≥ 0 then m <<< e.toNat else (roundShift rnd neg m (-e).toNat).1)
  | _ => 0

/-- The binary32 value of a code. -/
def f32 (c : Nat) : Val := decodeF binary32 c

/-- Round a value to binary32, nearest, ties to even. -/
def rne32 (v : Val) : Nat := (encodeF binary32 .rne v).1

/-- The canonical NaN of the accumulators (R95). -/
def nan32 : Nat := 0x7FC0_0000

/-! ### Format codes (R81) -/

/-- The floating-point format of a code. -/
def fmtF (c : Nat) : Option FFmt :=
  match c with
  | 0x0 => some e2m1
  | 0x2 => some e2m3
  | 0x3 => some e3m2
  | 0x4 => some e4m3
  | 0x5 => some e5m2
  | 0x6 => some e4m3
  | 0x7 => some e5m2
  | 0x9 => some bfloat16
  | 0xA => some binary16
  | 0xB => some binary32
  | 0xD => some binary64
  | _ => none

/-- Bits per element (R81). -/
def fmtBits (c : Nat) : Nat :=
  match c with
  | 0x0 => 4
  | 0x1 => 4
  | 0x2 => 6
  | 0x3 => 6
  | 0x9 => 16
  | 0xA => 16
  | 0xB => 32
  | 0xC => 32
  | 0xD => 64
  | _ => 8

/-- Formats that carry an MX block scale (R81). -/
def fmtMx (c : Nat) : Bool := c == 0x0 || c == 0x2 || c == 0x3 || c == 0x6 || c == 0x7

/-- Integer formats (R87). -/
def fmtInt (c : Nat) : Bool := c == 0x1 || c == 0x8 || c == 0xC

/-- The width class of a format as an MMA operand (R89): 0 4-bit, 1 6-bit and 8-bit, 2 16-bit, 3 32-bit. -/
def widthClass (c : Nat) : Option Nat :=
  match c with
  | 0x0 => some 0
  | 0x1 => some 0
  | 0x2 => some 1
  | 0x3 => some 1
  | 0x4 => some 1
  | 0x5 => some 1
  | 0x6 => some 1
  | 0x7 => some 1
  | 0x8 => some 1
  | 0x9 => some 2
  | 0xA => some 2
  | 0xB => some 3
  | _ => none

/-- The length of a k-group by width class (R89). -/
def kGroup (cls : Nat) : Nat :=
  match cls with
  | 0 => 32
  | 1 => 32
  | 2 => 16
  | _ => 4

/-- Packed length in bytes of a run of n elements (R665). -/
def packedLen (c n : Nat) : Nat :=
  if fmtBits c = 4 then (n + 1) / 2 else if fmtBits c = 6 then 3 * ((n + 3) / 4) else n * (fmtBits c / 8)

/-- Element i of a packed run held as a little-endian number (R82). -/
def elemAt (c run i : Nat) : Nat := bits run (fmtBits c * i) (fmtBits c)

/-- The elements of a packed run. -/
def unpackRun (c n : Nat) (bs : List Byte) : List Nat :=
  let run := ofLE bs
  (upTo n).map (elemAt c run)

/-- The little-endian number of elements of w bits each. -/
def packNat (w : Nat) (es : List Nat) : Nat :=
  match es with
  | [] => 0
  | e :: r => e % 2 ^ w + 2 ^ w * packNat w r

/-- A packed run; unused fields are zero (R665). -/
def packRun (c : Nat) (es : List Nat) : List Byte := toLE (packedLen c es.length) (packNat (fmtBits c) es)

/-- The value of an element under its block scale (R83, R84, R87). -/
def decodeEl (c : Nat) (x : Nat) (scale : Nat) : Val :=
  if fmtInt c then
    let v := sext x (fmtBits c)
    .fin (decide (v < 0)) v.natAbs 0
  else if fmtMx c && scale == 0xFF then .nan
  else
    match fmtF c with
    | none => .fin false 0 0
    | some f => if fmtMx c then (decodeF f x).scale ((scale : Int) - 127) else decodeF f x

/-- The value of an element decoded to binary32 (R666): beyond binary32's range it is infinite, with the mark. -/
def widenEl (c : Nat) (x : Nat) (scale : Nat) : Nat × Bool := encodeF binary32 .rne (decodeEl c x scale)

/-! ### Flags (R111) -/

/-- The sticky arithmetic flags of a matrix core. -/
structure AFlags where
  inv : Bool := false
  ovf : Bool := false
  unf : Bool := false
  deriving DecidableEq, Repr

/-- Flags of two operations together. -/
def AFlags.or (a b : AFlags) : AFlags := ⟨a.inv || b.inv, a.ovf || b.ovf, a.unf || b.unf⟩

/-- Formats whose subnormals the flush option concerns (R100). -/
def ftzFmt (c : Nat) : Bool := c == 0x9 || c == 0xA || c == 0xB

/-- An input element under the flush option: a subnormal code becomes the zero of its sign (R100). -/
def flushIn (ftz : Bool) (c x : Nat) : Nat × Bool :=
  match fmtF c with
  | some f => if ftz && ftzFmt c && isSub f x then (withSign f (bit x (f.eb + f.mb)) 0, true) else (x, false)
  | none => (x, false)

/-- A binary32 result under the flush option, judged after its rounding (R100). -/
def flushOut (ftz : Bool) (f : FFmt) (x : Nat) : Nat × Bool :=
  if ftz && isSub f x then (withSign f (bit x (f.eb + f.mb)) 0, true) else (x, false)

/-! ### The k-group (R90-R98) -/

/-- One k-group of a floating-point element: acc becomes rne(acc + S), S the exact sum of the products. -/
def accGroup (ftz : Bool) (acc : Nat) (ps : List (Val × Val)) : Nat × AFlags :=
  let prods := ps.map (fun p => Val.mul p.1 p.2)
  let inNan := ps.any (fun p => p.1.isNan || p.2.isNan)
  let pinf := prods.any (fun v => v.isInf && !v.neg)
  let ninf := prods.any (fun v => v.isInf && v.neg)
  if inNan then (nan32, {})
  else if prods.any Val.isNan || (pinf && ninf) then (nan32, { inv := true })
  else
    let allNegZero := prods.all (fun v => v.isZero && v.neg) && !prods.isEmpty
    let s : Val :=
      if pinf then .inf false
      else if ninf then .inf true
      else ofDy allNegZero (prods.foldl (fun d v => dyAdd d v.exact) (0, 0))
    let a := f32 acc
    let v := Val.add a s
    let r := encodeF binary32 .rne v
    let z := flushOut ftz binary32 r.1
    (z.1, ⟨v.isNan && !a.isNan, r.2, z.2⟩)

/-- One k-group of an integer element: the exact sum, added with saturation (R98). -/
def accGroupInt (acc : Nat) (ps : List (Int × Int)) : Nat × AFlags :=
  let s := ps.foldl (fun d p => d + p.1 * p.2) 0
  let v := sext acc 32 + s
  let c := max (-2147483648) (min 2147483647 v)
  (toBits c 32, { ovf := decide (c ≠ v) })

/-! ### Conversions out of binary32 (R103-R107) -/

/-- The result of converting one element: its code, its flags, and whether its block must become NaN. -/
structure ConvEl where
  code : Nat
  fl : AFlags
  blk : Bool
  deriving DecidableEq, Repr

/-- Convert a value (already divided by its block scale) to a format (R104); nonsat is the overflow option. -/
def convVal (c : Nat) (rnd : Rnd) (nonsat ftz : Bool) (v : Val) : ConvEl :=
  if fmtInt c then
    let w := fmtBits c
    let hi : Int := (2 ^ (w - 1) : Nat) - 1
    let lo : Int := -((2 ^ (w - 1) : Nat) : Int)
    match v with
    | .nan => ⟨0, { inv := true }, false⟩
    | .inf neg => ⟨toBits (if neg then lo else hi) w, { ovf := true }, false⟩
    | x =>
      let i := x.toInt rnd
      let k := max lo (min hi i)
      ⟨toBits k w, { ovf := decide (k ≠ i) }, false⟩
  else
    match fmtF c with
    | none => ⟨0, {}, false⟩
    | some f =>
      let narrow := decide (fmtBits c ≤ 8)
      let noInf := decide (f.sp = .noSpecials)
      let ovr (neg : Bool) : ConvEl :=
        if !narrow then ⟨withSign f neg (infMag f), { ovf := true }, false⟩
        else if !nonsat then ⟨withSign f neg (maxMag f), { ovf := true }, false⟩
        else if noInf then ⟨0, { ovf := true }, true⟩
        else if f.sp = .oneNan then ⟨nanCode f, { ovf := true }, false⟩
        else ⟨withSign f neg (infMag f), { ovf := true }, false⟩
      match v with
      | .nan => ⟨nanCode f, {}, fmtMx c⟩
      | .inf neg =>
        if !narrow then ⟨withSign f neg (infMag f), {}, false⟩
        else if nonsat && f.sp = .ieee then ⟨withSign f neg (infMag f), {}, false⟩
        else ovr neg
      | .fin neg m e =>
        let mag := (roundMag f rnd neg m e).1
        if mag > maxMag f then ovr neg
        else
          let z := flushOut (ftz && ftzFmt c) f (withSign f neg mag)
          ⟨z.1, { unf := z.2 }, false⟩

/-- emax of R105. -/
def emaxOf (c : Nat) : Int :=
  match c with
  | 0x0 => 2
  | 0x2 => 2
  | 0x3 => 4
  | 0x6 => 8
  | _ => 15

/-- The larger of two magnitudes. -/
def maxAbs (a b : Val) : Val := if Val.lt a b.abs then b.abs else a

/-- The largest magnitude among the finite values of a block. -/
def blockAmax (vs : List Val) : Val :=
  vs.foldl (fun a v => match v with | .fin _ _ _ => maxAbs a v | _ => a) (.fin false 0 0)

/-- The scale byte a block gets (R105). -/
def blockScale (c : Nat) (vs : List Val) : Nat :=
  if vs.any Val.isNan then 0xFF
  else
    let a := blockAmax vs
    if a.isZero then 0
    else (max (-127) (min 127 (a.log2 - emaxOf c)) + 127).toNat

/-- A converted block: scale byte, element codes, flags. -/
structure ConvBlk where
  scale : Nat
  codes : List Nat
  fl : AFlags
  deriving DecidableEq, Repr

/-- Flags of a list of conversions. -/
def flagsOf (es : List ConvEl) : AFlags := es.foldl (fun a e => a.or e.fl) {}

/-- Convert a block of up to 32 values, each with its rounding, to an MX-scaled format (R105). -/
def convBlock (c : Nat) (nonsat : Bool) (vs : List (Val × Rnd)) : ConvBlk :=
  let s := blockScale c (vs.map (·.1))
  if s = 0xFF then ⟨0xFF, vs.map (fun _ => 0), {}⟩
  else
    let es := vs.map (fun p => convVal c p.2 nonsat false (p.1.scale (127 - (s : Int))))
    if es.any (·.blk) then ⟨0xFF, vs.map (fun _ => 0), flagsOf es⟩
    else ⟨s, es.map (·.code), flagsOf es⟩

/-! ### Stochastic rounding (R108) -/

/-- The mixing function of the generator. -/
def mix64 (z : Nat) : Nat :=
  let z1 := ((z ^^^ (z >>> 30)) * 0xBF58_476D_1CE4_E5B9) % 2 ^ 64
  let z2 := ((z1 ^^^ (z1 >>> 27)) * 0x94D0_49BB_1331_11EB) % 2 ^ 64
  z2 ^^^ (z2 >>> 31)

/-- The generator's 16 bits for an element. -/
def srBits (seed stream row col : Nat) : Nat :=
  let z := mix64 (seed ^^^ (stream <<< 48))
  let z := mix64 (z ^^^ ((row * 0x9E37_79B9_7F4A_7C15) % 2 ^ 64))
  let z := mix64 (z ^^^ col)
  z % 65536

/-- The rounding of an element under SR, with the coordinates exchanged by swap_key (R109). -/
def srRnd (seed stream row col : Nat) (swap : Bool) : Rnd :=
  if swap then .sr (srBits seed stream (col % 2 ^ 32) (row % 2 ^ 32)) else .sr (srBits seed stream (row % 2 ^ 32) (col % 2 ^ 32))

end Sys2Proof.Machine
end

