-- ==== Sys2Proof/Machine/Operands.lean ====
section
/-! DEFINITION. The operand forms of a matrix core: tile images, accumulator tiles, operand scratch, panels and stationary images. -/

namespace Sys2Proof.Machine

/-! ### Tile registers (R152-R157) -/

/-- The format code of a tile register. -/
def TileCfg.code (c : TileCfg) : Nat := c.fmt.toNat

/-- Row size rs (R153). -/
def TileCfg.rs (c : TileCfg) : Nat :=
  if c.layout = 1 then 128 else if c.layout = 2 then 512 else 4 * cdiv (c.cols * fmtBits c.code) 32

/-- Scale bytes sb (R153). -/
def TileCfg.sb (c : TileCfg) : Nat := if c.bgrp = 0 then 0 else c.rows * c.cols / 32

/-- Whether the layout is ROW. -/
def TileCfg.isRow (c : TileCfg) : Bool := c.layout == 0

/-- The byte of the block scale that covers element (i, j) (R157). -/
def TileCfg.scaleAt (c : TileCfg) (i j : Nat) : Nat :=
  if c.bgrp = 1 then c.rows * c.rs + i * (c.cols / 32) + j / 32 else c.rows * c.rs + i / 32 * c.cols + j

/-- Configuration of a tile register; none when unconfigured. -/
def McState.cfgOf (m : McState) (t : Nat) : Option TileCfg := mget none m.cfg t

/-- n bytes of a tile register's image. -/
def McState.tileBytes (m : McState) (t off n : Nat) : List Byte := readBytes m.tiles (4096 * t + off) n

/-- The 64-bit words that lie wholly in a run of bytes lose their poison when the run is written (R280). -/
def clearBad (bad : SMap Bool) (a n : Nat) : SMap Bool :=
  bad.filter (fun e => !(decide (a ≤ 8 * e.1) && decide (8 * e.1 + 8 ≤ a + n)))

/-- Whether a run of bytes touches a poisoned word. -/
def anyBad (bad : SMap Bool) (a n : Nat) : Bool := bad.any (fun e => decide (a < 8 * e.1 + 8) && decide (8 * e.1 < a + n))

/-- Write bytes of a tile register's image. -/
def McState.putTile (m : McState) (t off : Nat) (bs : List Byte) : McState :=
  { m with tiles := writeBytes m.tiles (4096 * t + off) bs, badTiles := clearBad m.badTiles (4096 * t + off) bs.length }

/-- One row of a tile: the codes of its elements. -/
def McState.rowCodes (m : McState) (t : Nat) (c : TileCfg) (i : Nat) : List Nat :=
  unpackRun c.code c.cols (m.tileBytes t (i * c.rs) (packedLen c.code c.cols))

/-- The block scale of element (i, j); 127, which is 1, where the format has none (R93). -/
def McState.scaleOf (m : McState) (t : Nat) (c : TileCfg) (i j : Nat) : Nat :=
  if fmtMx c.code then (nth 0 (m.tileBytes t (c.scaleAt i j) 1) 0).toNat else 127

/-- An element that a row thread or AWR has decoded to binary32, with the flags that this sets (R100, R178, R666). -/
structure Src where
  x : Nat
  fl : AFlags
  deriving DecidableEq, Repr

/-- Decode an element to binary32. -/
def srcEl (c x scale : Nat) (ftz : Bool) : Src :=
  let z := flushIn ftz c x
  let v := widenEl c z.1 scale
  ⟨v.1, { ovf := v.2, unf := z.2 }⟩

/-- The elements of a row, decoded to binary32. -/
def McState.rowSrc (m : McState) (t : Nat) (c : TileCfg) (i : Nat) (ftz : Bool) : List Src :=
  (m.rowCodes t c i).zipIdx.map (fun p => srcEl c.code p.1 (m.scaleOf t c i p.2) ftz)

/-! ### Conversion of runs of binary32 values (R103-R106) -/

/-- What a conversion of a run gives: element codes, scale bytes (one to 32 elements when MX-scaled), flags, saturations. -/
structure RunConv where
  codes : List Nat
  scales : List Nat
  fl : AFlags
  sats : Nat
  deriving DecidableEq, Repr

/-- Number of the conversions of a list that saturate or overflow. -/
def countOvf (es : List ConvEl) : Nat := (es.filter (·.fl.ovf)).length

/-- Convert one block of an MX-scaled target, with its count of saturations (R105, R234). -/
def convBlockN (c : Nat) (nonsat ftz : Bool) (xs : List (Val × Rnd)) : RunConv :=
  let b := convBlock c nonsat xs
  let sc := blockScale c (xs.map (·.1))
  let es := if sc = 0xFF then [] else xs.map (fun p => convVal c p.2 nonsat ftz (p.1.scale (127 - (sc : Int))))
  ⟨b.codes, [b.scale], b.fl, countOvf es⟩

/-- Convert a run of values in blocks of 32; fuel counts the blocks. -/
def convRunF (c : Nat) (nonsat ftz : Bool) (vs : List (Val × Rnd)) (fuel : Nat) : RunConv :=
  match fuel with
  | 0 => ⟨[], [], {}, 0⟩
  | k + 1 =>
    if vs.isEmpty then ⟨[], [], {}, 0⟩
    else
      let a := convBlockN c nonsat ftz (vs.take 32)
      let r := convRunF c nonsat ftz (vs.drop 32) k
      ⟨a.codes ++ r.codes, a.scales ++ r.scales, a.fl.or r.fl, a.sats + r.sats⟩

/-- Convert a run of values, each with its rounding, to a format. -/
def convRun (c : Nat) (nonsat ftz : Bool) (vs : List (Val × Rnd)) : RunConv :=
  if fmtMx c then convRunF c nonsat ftz vs (vs.length / 32 + 1)
  else
    let es := vs.map (fun p => convVal c p.2 nonsat ftz p.1)
    ⟨es.map (·.code), [], flagsOf es, countOvf es⟩

/-- The rounding of element (i, j) of a destination tile register under the core's key (R163). -/
def McState.rndAt (m : McState) (sr : Bool) (i j : Nat) : Rnd :=
  if sr then srRnd m.seed.toNat m.stream.toNat (m.orgRow.toNat + i) (m.orgCol.toNat + j) m.swapKey else .rne

/-- Write a row of a destination tile: elements, padding as zero, block scales (R157). -/
def McState.putRow (m : McState) (t : Nat) (c : TileCfg) (i : Nat) (r : RunConv) : McState :=
  let run := packRun c.code r.codes
  let m := m.putTile t (i * c.rs) (run ++ List.replicate (c.rs - run.length) 0)
  if fmtMx c.code then m.putTile t (c.scaleAt i 0) (r.scales.map (BitVec.ofNat 8)) else m

/-! ### Accumulator tiles (R132-R134) -/

/-- Key of an accumulator word. -/
def accKey (t i j : Nat) : Nat := (32 * t + i) * 32 + j

/-- Whether a row carries its zero mark; every row does at a program's start. -/
def McState.zeroRow (m : McState) (t i : Nat) : Bool := mget true m.zero (32 * t + i)

/-- An accumulator element; +0 in a zero-marked row. -/
def McState.accAt (m : McState) (t i j : Nat) : Nat := if m.zeroRow t i then 0 else (mget 0 m.acc (accKey t i j)).toNat

/-- Write an accumulator element: the first write of a zero-marked row makes its other elements +0 words. -/
def McState.putAcc (m : McState) (t i j v : Nat) : McState :=
  let m :=
    if m.zeroRow t i then
      { m with
        acc := m.acc.filter (fun e => !(decide (accKey t i 0 ≤ e.1) && decide (e.1 < accKey t i 32)))
        zero := mset true m.zero (32 * t + i) false }
    else m
  { m with
    acc := mset 0 m.acc (accKey t i j) (BitVec.ofNat 32 v)
    badAcc := clearBad m.badAcc (4 * accKey t i j) 4 }

/-- Write elements of a row from column j on. -/
def McState.putAccRow (m : McState) (t i j : Nat) (vs : List Nat) : McState :=
  match vs with
  | [] => m
  | v :: r => (m.putAcc t i j v).putAccRow t i (j + 1) r

/-- Zero-mark a tile and tag it (R134, R133). -/
def McState.clearAcc (m : McState) (t : Nat) (int : Bool) : McState :=
  { m with
    zero := forEach (upTo 32) m.zero (fun z i => mset true z (32 * t + i) true)
    tag := mset false m.tag t int }

/-- Zero-mark and tag n tiles. -/
def McState.clearAccs (m : McState) (t n : Nat) (int : Bool) : McState :=
  forEach (upTo n) m (fun m i => m.clearAcc (t + i) int)

/-- The tag of a tile: true for INT32. -/
def McState.intTag (m : McState) (t : Nat) : Bool := mget false m.tag t

/-- The exact image of an accumulator tile (R177): 32 rows of 128 B. -/
def McState.accImage (m : McState) (t : Nat) : List Byte :=
  (upTo 32).flatMap (fun i => (upTo 32).flatMap (fun j => toLE 4 (m.accAt t i j)))

/-- Load an accumulator tile from its exact image: zero marks cleared, tag set (R177). -/
def McState.loadAcc (m : McState) (t : Nat) (bs : List Byte) (int : Bool) : McState :=
  let m := forEach (upTo 32) m (fun m i =>
    m.putAccRow t i 0 ((upTo 32).map (fun j => ofLE ((bs.drop (128 * i + 4 * j)).take 4))))
  { m with tag := mset false m.tag t int, badAcc := clearBad m.badAcc (4096 * t) 4096 }

/-- The accumulator tile of row i and column j of a pass whose first tile is given (R127, R132). -/
def passTile (loft : Bool) (tile i j : Nat) : Nat := if loft then tile + 4 * (i / 32) + j / 32 else tile + i / 32

/-! ### Operand scratch (R114, R164) -/

/-- Bytes of an operand scratch. -/
def scratchSize : Nat := 524288

/-- n bytes of operand scratch, addresses modulo 2^19. -/
def McState.scrRead (m : McState) (a n : Nat) : List Byte :=
  let b := a % scratchSize
  let k := min n (scratchSize - b)
  readBytes m.scratch b k ++ readBytes m.scratch 0 (n - k)

/-- The little-endian number of n bytes of operand scratch. -/
def McState.scrNat (m : McState) (a n : Nat) : Nat := ofLE (m.scrRead a n)

/-- Whether n bytes of operand scratch touch a poisoned word. -/
def McState.scrBad (m : McState) (a n : Nat) : Bool :=
  let b := a % scratchSize
  let k := min n (scratchSize - b)
  anyBad m.badScratch b k || anyBad m.badScratch 0 (n - k)

/-- Write bytes of operand scratch as they are. -/
def McState.scrPut (m : McState) (a : Nat) (bs : List Byte) : McState :=
  let b := a % scratchSize
  let k := min bs.length (scratchSize - b)
  { m with
    scratch := writeBytes (writeBytes m.scratch b (bs.take k)) 0 (bs.drop k)
    badScratch := clearBad (clearBad m.badScratch b k) 0 (bs.length - k) }

/-! ### Passes of the array (R115-R119, R168) -/

/-- Stationary elements per PE, d (R115), of a format. -/
def perPe (c : Nat) : Nat :=
  match widthClass c with
  | some 0 => 8
  | some 1 => 4
  | some 2 => 2
  | _ => 1

/-- K per pass, Kp (R115). -/
def kPerPass (c : Nat) (loft : Bool) : Nat := if loft then 8 * perPe c else 32 * perPe c

/-- PE rows of a form. -/
def peRows (loft : Bool) : Nat := if loft then 8 else 32

/-- Columns of a form. -/
def peCols (loft : Bool) : Nat := if loft then 128 else 32

/-- Lines of a panel and of a scale panel of M rows (R124, R125), with their sizes in bytes. -/
def panelLines (loft : Bool) (m : Nat) : Nat := if loft then m + 8 else m + 38
def panelLine (loft : Bool) : Nat := if loft then 32 else 128
def scaleLines (loft : Bool) (m : Nat) : Nat := if loft then m + 9 else m + 39
def scaleLine (loft : Bool) : Nat := if loft then 2 else 8

/-- Bytes of an A panel, of a scale panel, of a B scale image. -/
def panelBytes (loft : Bool) (m : Nat) : Nat := panelLines loft m * panelLine loft
def scalePanelBytes (loft : Bool) (m : Nat) : Nat := scaleLines loft m * scaleLine loft

/-- The width that a slot's element takes. -/
def slotOf (c : Nat) (es : List Nat) : List Byte := toLE 4 (packNat (fmtBits c) es)

/-- The slot of PE row r for row i of an operand: elements (i, r*d) to (i, r*d + d - 1), zero from klen on (R120, R124). -/
def peSlot (c klen r : Nat) (el : Nat → Nat) : List Byte :=
  slotOf c ((upTo (perPe c)).map (fun e => if r * perPe c + e < klen then el (r * perPe c + e) else 0))

/-- An A panel of M rows (R124); el i k is the code of A(i, k). -/
def buildPanel (c : Nat) (loft : Bool) (m klen : Nat) (el : Nat → Nat → Nat) : List Byte :=
  (upTo (panelLines loft m)).flatMap (fun n =>
    (upTo (peRows loft)).flatMap (fun r =>
      let sk := r + r / 4
      if sk ≤ n ∧ n - sk < m then peSlot c klen r (el (n - sk)) else toLE 4 0))

/-- The k-group of the pass that close stage q ends, if it ends one (R117). -/
def groupOfStage (c q : Nat) : Option Nat :=
  let g := kGroup ((widthClass c).getD 3)
  let k := 4 * (q + 1) * perPe c
  if k % g = 0 then some (k / g - 1) else none

/-- The block of 32 k that close stage q belongs to, if it ends a group that has one. -/
def blockOfStage (c klen q : Nat) : Option Nat :=
  match groupOfStage c q with
  | some g => if 32 * g < klen then some g else none
  | none => none

/-- An A scale panel of M rows (R125); sc i b is the scale byte of row i and block b. -/
def buildScalePanel (c : Nat) (loft : Bool) (m klen : Nat) (sc : Nat → Nat → Nat) : List Byte :=
  (upTo (scaleLines loft m)).flatMap (fun n =>
    (upTo (scaleLine loft)).flatMap (fun q =>
      let sk := 5 * q + 4
      match blockOfStage c klen q with
      | some b => if sk ≤ n ∧ n - sk < m then toLE 1 (sc (n - sk) b) else [0]
      | none => [0]))

/-- A stationary image (R120); el k j is the code of B(k, j), ncols the valid columns. -/
def buildImage (c : Nat) (loft : Bool) (ncols klen : Nat) (el : Nat → Nat → Nat) : List Byte :=
  (upTo (peRows loft)).flatMap (fun r =>
    (upTo (peCols loft)).flatMap (fun j => if j < ncols then peSlot c klen r (fun k => el k j) else toLE 4 0))

/-- A B scale image of 256 B (R120). -/
def buildScaleImage (c : Nat) (loft : Bool) (ncols klen : Nat) (sc : Nat → Nat → Nat) : List Byte :=
  (upTo (if loft then 2 else 8)).flatMap (fun q =>
    (upTo (peCols loft)).flatMap (fun j =>
      match blockOfStage c klen q with
      | some b => if j < ncols then toLE 1 (sc j b) else [0]
      | none => [0]))

/-- Bytes of a list as an array of numbers, for reading at many places. -/
def byteAt (bs : Array Byte) (i : Nat) : Nat := ((bs[i]?).getD 0).toNat

/-- A slot's 32 bits in a list of bytes. -/
def slotAt (bs : Array Byte) (i : Nat) : Nat :=
  byteAt bs i + 256 * byteAt bs (i + 1) + 65536 * byteAt bs (i + 2) + 16777216 * byteAt bs (i + 3)

/-- The operands of a pass as the array reads them: code and scale of A(i, k) and of B(k, j) within the pass. -/
structure PassOps where
  a : Array Byte
  b : Array Byte
  sa : Array Byte
  sb : Array Byte

/-- The operands of a pass. -/
def ArrayPass.ops (p : ArrayPass) : PassOps := ⟨p.aOps.toArray, p.bOps.toArray, p.aScales.toArray, p.bScales.toArray⟩

/-- The code of A(i, k). -/
def PassOps.aEl (o : PassOps) (p : ArrayPass) (i k : Nat) : Nat :=
  let r := k / perPe p.fmtA
  bits (slotAt o.a ((i + r + r / 4) * panelLine p.loft + 4 * r)) (fmtBits p.fmtA * (k % perPe p.fmtA)) (fmtBits p.fmtA)

/-- The code of B(k, j). -/
def PassOps.bEl (o : PassOps) (p : ArrayPass) (k j : Nat) : Nat :=
  let r := k / perPe p.fmtB
  bits (slotAt o.b (4 * (r * peCols p.loft + j))) (fmtBits p.fmtB * (k % perPe p.fmtB)) (fmtBits p.fmtB)

/-- The close stage that ends the group of k. -/
def stageOf (c k : Nat) : Nat := (k / kGroup ((widthClass c).getD 3) + 1) * kGroup ((widthClass c).getD 3) / (4 * perPe c) - 1

/-- The block scale of A(i, k) (R125). -/
def PassOps.aScale (o : PassOps) (p : ArrayPass) (i k : Nat) : Nat :=
  if fmtMx p.fmtA then byteAt o.sa ((i + 5 * stageOf p.fmtA k + 4) * scaleLine p.loft + stageOf p.fmtA k) else 127

/-- The block scale of B(k, j) (R120). -/
def PassOps.bScale (o : PassOps) (p : ArrayPass) (k j : Nat) : Nat :=
  if fmtMx p.fmtB then byteAt o.sb (peCols p.loft * stageOf p.fmtB k + j) else 127

/-- The k of group g of a pass. -/
def groupKs (p : ArrayPass) (g : Nat) : List Nat :=
  let n := kGroup ((widthClass p.fmtA).getD 3)
  (upTo n).filterMap (fun e => if g * n + e < p.klen then some (g * n + e) else none)

/-- Element (i, j) of a pass: its accumulator after every k-group in ascending k (R91, R94, R98). -/
def passEl (o : PassOps) (p : ArrayPass) (i j acc : Nat) : Nat × AFlags :=
  let n := kGroup ((widthClass p.fmtA).getD 3)
  (upTo (cdiv p.klen n)).foldl (fun s g =>
    let ks := groupKs p g
    if fmtInt p.fmtA then
      let r := accGroupInt s.1 (ks.map (fun k => (sext (o.aEl p i k) (fmtBits p.fmtA), sext (o.bEl p k j) (fmtBits p.fmtB))))
      (r.1, s.2.or r.2)
    else
      let ops := ks.map (fun k => (flushIn p.ftz p.fmtA (o.aEl p i k), flushIn p.ftz p.fmtB (o.bEl p k j), k))
      let r := accGroup p.ftz s.1 (ops.map (fun z =>
        (decodeEl p.fmtA z.1.1 (o.aScale p i z.2.2), decodeEl p.fmtB z.2.1.1 (o.bScale p z.2.2 j))))
      (r.1, (s.2.or r.2).or { unf := ops.any (fun z => z.1.2 || z.2.1.2) })) (acc, {})

/-! ### The gradient-store mask (R226-R229) -/

/-- Whether a coordinate lies in an interval. -/
def inInt (x : Nat) (l : List (Nat × Nat)) : Bool := l.any (fun p => decide (p.1 ≤ x) && decide (x < p.2))

/-- Whether a row or a column is kept. -/
def axisKept (x : Nat) (l : List (Nat × Nat)) (inv : Bool) : Bool := if l.isEmpty && !inv then true else inInt x l != inv

/-- Whether a mask keeps a row. -/
def GradMask.row (m : GradMask) (r : Nat) : Bool :=
  match m with
  | .keepAll => true
  | .discardAll => false
  | .record rows _ ri _ => axisKept (r % 2 ^ 32) rows ri

/-- Whether a mask keeps an element (R227). -/
def GradMask.keeps (m : GradMask) (r c : Nat) : Bool :=
  match m with
  | .keepAll => true
  | .discardAll => false
  | .record rows cols ri ci => axisKept (r % 2 ^ 32) rows ri && axisKept (c % 2 ^ 32) cols ci

/-- The mask that a mask record sets; none where the record is refused (R226, R232). -/
def maskOfRecord (bs : List Byte) : Option GradMask :=
  let r := ofLE bs
  let ctl := recB r 0 4
  let nr := ctl % 16
  let nc := ctl / 16 % 16
  let ints (base n : Nat) : List (Nat × Nat) := (upTo n).map (fun i => (recB r (base + 8 * i) 4, recB r (base + 4 + 8 * i) 4))
  let bad := decide (nr > 7) || decide (nc > 7) || decide (ctl / 1024 ≠ 0) || decide (recB r 4 4 ≠ 0) || decide (recB r 0x78 8 ≠ 0)
    || (ints 8 (min nr 7) ++ ints 0x40 (min nc 7)).any (fun p => decide (p.1 > p.2))
  if bad then none else some (.record (ints 8 nr) (ints 0x40 nc) (bit ctl 8) (bit ctl 9))

/-- Whether byte b of moved row k of a TST is written (R228, R229). -/
def MaskUse.keepByte (u : MaskUse) (k b : Nat) : Bool :=
  let ok (i j : Nat) : Bool := u.mask.keeps (u.orgRow.toNat + i) (u.orgCol.toNat + j)
  let c := u.cfg
  if u.scales then (if c.bgrp = 1 then ok k (32 * b) else ok (32 * k) b)
  else if !c.isRow then ok k (b / 4)
  else if b ≥ packedLen c.code c.cols then u.mask.row (u.orgRow.toNat + k)
  else
    let w := fmtBits c.code
    let gb := if w = 6 then 3 else max 1 (w / 8)
    let j := b / gb * gb * 8 / w
    if !fmtMx c.code then ok k j else if c.bgrp = 1 then ok k (j / 32 * 32) else ok (k / 32 * 32) j

/-- The runs of bytes a list of marks keeps, cut at every 128 B line: offset and length. -/
def keptRuns (a : Nat) (keep : List Bool) (i : Nat) : List (Nat × Nat) :=
  match keep with
  | [] => []
  | k :: ks =>
    let r := keptRuns a ks (i + 1)
    if !k then r
    else
      match r with
      | (o, n) :: t => if o = i + 1 ∧ (a + o) % 128 ≠ 0 then (i, n + 1) :: t else (i, 1) :: (o, n) :: t
      | [] => [(i, 1)]

end Sys2Proof.Machine
end

