-- ==== Sys2Proof/Machine/Flags.lean ====
section
/-! DEFINITION. Flags of the matrix core: sticky arithmetic flags (R111), faults (R188, R189, R324), overflow counters (R234-R236). -/

namespace Sys2Proof.Machine

/-! ### Registers of the MXC block (R192-R195) -/

/-- MXC_CTL.acc_mode: STRICT. -/
def mxcStrict (n : Nat) : RF := ⟨mxcBase n, 0, 1⟩
/-- MXC_CTL.stop. -/
def mxcStopF (n : Nat) : RF := ⟨mxcBase n, 1, 1⟩
/-- MXC_STAT.state. -/
def mxcSt (n : Nat) : RF := ⟨mxcBase n + 8, 0, 3⟩
/-- MXC_PC.pc. -/
def mxcPc (n : Nat) : RF := ⟨mxcBase n + 0x10, 0, 48⟩
/-- MXC_PC.space: 1 memory. -/
def mxcSpace (n : Nat) : RF := ⟨mxcBase n + 0x10, 48, 1⟩

/-- Set the sticky arithmetic flags that an operation raised (R111, R194). -/
def State.setAFlags (s : State) (n : Nat) (f : AFlags) : State :=
  let k := mxcBase n + 8
  let s := if f.inv then s.putF ⟨k, 8, 1⟩ 1 else s
  let s := if f.ovf then s.putF ⟨k, 9, 1⟩ 1 else s
  if f.unf then s.putF ⟨k, 10, 1⟩ 1 else s

/-! ### Fault codes (R188) -/

def fltOpcode : Nat := 0x01
def fltEncoding : Nat := 0x02
def fltFetch : Nat := 0x03
def fltTcfgSize : Nat := 0x10
def fltTcfgFormat : Nat := 0x11
def fltTcfgLayout : Nat := 0x12
def fltTcfgGrouping : Nat := 0x13
def fltUnconfigured : Nat := 0x20
def fltDims : Nat := 0x21
def fltFormat : Nat := 0x22
def fltLayout : Nat := 0x23
def fltAccRange : Nat := 0x24
def fltAccFormat : Nat := 0x25
def fltRecord : Nat := 0x26
def fltTable : Nat := 0x30
def fltOvercommit : Nat := 0x40
def fltLds : Nat := 0x41
def fltSync : Nat := 0x50
def fltTarget : Nat := 0x51
def fltMem : Nat := 0x60

/-- Enter FAULT (R189): code, operand and unit in MXC_FAULT, the instruction's address in MXC_FPC, the fault interrupt raised. -/
def State.enterFault (s : State) (n code operand unit fpc : Nat) : State :=
  let b := mxcBase n
  let s := s.setReg (b + 0x18) (BitVec.ofNat 64 (code % 256 + operand % 16 * 256 + unit % 8 * 4096))
  let s := (s.putF ⟨b + 0x20, 0, 48⟩ fpc).putF ⟨b + 0x20, 48, 1⟩ (s.getF (mxcSpace n))
  (s.putF (mxcSt n) 4).raiseC (n / 4) (n % 4)

/-- A fault at issue: the instruction has not issued (R189). -/
def State.issueFault (s : State) (n code operand unit : Nat) : State := s.enterFault n code operand unit (s.getF (mxcPc n))

/-- A MEM_FAULT with a class of R310 (R324), for the instruction at pc of a unit. -/
def State.memFault (s : State) (n cls unit : Nat) (pc : Word) : State := s.enterFault n fltMem cls unit pc.toNat

/-! ### Overflow counters (R234-R241) -/

/-- EMAX of R235 for a target the hint exists for. -/
def hintEmax (c : Nat) : Option Int :=
  match c with
  | 0x4 => some 8
  | 0x5 => some 15
  | 0x9 => some 127
  | 0xA => some 15
  | 0xB => some 127
  | _ => none

/-- The hint of a counter and whether it is valid (R235). -/
def hintOf (tgt : Nat) (amax : Int) : Int × Bool :=
  match hintEmax tgt with
  | none => (0, false)
  | some e => if amax = -256 then (0, false) else (max (-32) (min 32 (e - 1 - amax)), true)

/-- Add a TQNT's contribution to counter k of core n (R234). -/
def State.countQnt (s : State) (n k conv nonfinite sat : Nat) (amax : Option Int) (tgt : Nat) : State :=
  let b := mxqBase n + 0x20 * k
  let s := (s.addF ⟨b, 0, 32⟩ sat).addF ⟨b, 32, 32⟩ nonfinite
  let s := s.putF ⟨b + 8, 0, 48⟩ (s.getF ⟨b + 8, 0, 48⟩ + conv)
  let old := sext (s.getF ⟨b + 0x10, 0, 9⟩) 9
  let new := match amax with | some a => max old a | none => old
  let h := hintOf tgt new
  let s := (s.putF ⟨b + 0x10, 0, 9⟩ (toBits new 9)).putF ⟨b + 0x10, 12, 4⟩ tgt
  (s.putF ⟨b + 0x10, 16, 8⟩ (toBits h.1 8)).putB ⟨b + 0x10, 24, 1⟩ h.2

/-- Clear the overflow counters that a mask selects (R241). -/
def State.clearQnt (s : State) (n mask : Nat) : State :=
  forEach ((upTo 8).filter (bit mask)) s (fun s k =>
    let b := mxqBase n + 0x20 * k
    ((s.resetReg b).resetReg (b + 8)).resetReg (b + 0x10))

/-- ⌊log2 |x|⌋ of a finite, non-zero binary32 value (R234). -/
def expOf (x : Nat) : Option Int :=
  match f32 x with
  | .fin _ m e => if m = 0 then none else some ((Nat.log2 m : Int) + e)
  | _ => none

/-- The largest exponent of a list of binary32 values. -/
def maxExp (xs : List Nat) : Option Int :=
  xs.foldl (fun a x => match a, expOf x with | some p, some q => some (max p q) | none, q => q | p, none => p) none

end Sys2Proof.Machine
end

