-- ==== Sys2Proof/Machine/Mesh.lean ====
section
/-! DEFINITION. The on-die network (R45-R80): routes, credits, arbitration, gateways, multicast.
Router k is the router of module-wide cell k: die k / 120, die row k % 120 / 10, column k % 10 (R9, R48). -/

namespace Sys2Proof.Machine

/-- Number of a virtual channel: six of the request plane, then four of the response plane (R58). -/
def vcNo (v : MeshVc) : Nat :=
  match v with
  | .req => 0
  | .mcast => 1
  | .mem => 2
  | .xout => 3
  | .xin => 4
  | .svc => 5
  | .rsp => 6
  | .rspXout => 7
  | .rspXin => 8
  | .rspSvc => 9

/-- Number of a port. -/
def dirNo (d : MeshDir) : Nat :=
  match d with
  | .north => 0
  | .south => 1
  | .east => 2
  | .west => 3
  | .cell => 4
  | .aux => 5

/-- Every port. -/
def allDirs : List MeshDir := [.north, .south, .east, .west, .cell, .aux]

/-- Number of a router. -/
def rtNo (r : RouterId) : Nat := 120 * r.die.val + 10 * r.row.val + r.x.val

/-- Key of an input buffer, or of an output's credits, of a router, port and channel. -/
def bufKey (r : Nat) (d : MeshDir) (v : Nat) : Nat := (r * 6 + dirNo d) * 10 + v

/-- What stands behind an output port (R49). -/
inductive LinkTo where
  | router (r : Nat) (inp : MeshDir) (seam : Bool)
  | gateway
  | ctl (s : Nat)
  | endpoint
  deriving DecidableEq, Repr

/-- The link of an output port (R48, R49). -/
def linkOf (r : Nat) (out : MeshDir) : LinkTo :=
  let x := r % 10
  let row := r % 120 / 10
  match out with
  | .north => if row = 0 then .gateway else .router (r - 10) .south (decide (row = 6))
  | .south => if row = 11 then .gateway else .router (r + 10) .north (decide (row = 5))
  | .east => if x = 9 then .ctl (3 * (r / 120) + row / 4) else .router (r + 1) .west false
  | .west => if x = 0 then .gateway else .router (r - 1) .east false
  | .cell => .endpoint
  | .aux => .endpoint

/-- Flits of buffer behind a link, by channel (R62); none stands for an endpoint, which sinks. -/
def linkCap (l : LinkTo) (v : Nat) : Option Nat :=
  match l with
  | .router _ _ false => some (nth 0 [8, 8, 8, 6, 6, 2, 12, 8, 8, 2] v)
  | .router _ _ true => some (nth 0 [16, 16, 16, 12, 12, 4, 24, 16, 16, 4] v)
  | .gateway => some (nth 0 [0, 16, 0, 32, 32, 4, 0, 32, 32, 4] v)
  | .ctl _ => some (nth 0 [0, 0, 32, 0, 0, 0, 32, 0, 0, 0] v)
  | .endpoint => none

/-- Flits waiting in an input buffer, oldest first; at the local port the list goes on into the cell's own queue. -/
def State.meshBuf (s : State) (r : Nat) (d : MeshDir) (v : Nat) : List Flit := mget [] s.mesh.bufs (bufKey r d v)

/-- Replace an input buffer. -/
def State.setMeshBuf (s : State) (r : Nat) (d : MeshDir) (v : Nat) (l : List Flit) : State :=
  { s with mesh := { s.mesh with bufs := mset [] s.mesh.bufs (bufKey r d v) l } }

/-- Credits in use at an output. -/
def State.meshUsed (s : State) (r : Nat) (d : MeshDir) (v : Nat) : Nat := mget 0 s.mesh.used (bufKey r d v)

/-- Whether an output has credits for n flits. -/
def State.meshCredit (s : State) (r : Nat) (d : MeshDir) (v n : Nat) : Bool :=
  match linkCap (linkOf r d) v with
  | none => true
  | some c => decide (s.meshUsed r d v + n ≤ c)

/-- Use n credits of an output. -/
def State.meshSpend (s : State) (r : Nat) (d : MeshDir) (v n : Nat) : State :=
  match linkCap (linkOf r d) v with
  | none => s
  | some _ => { s with mesh := { s.mesh with used := mset 0 s.mesh.used (bufKey r d v) (s.meshUsed r d v + n) } }

/-- Owe n credits to the sender behind an output. -/
def State.meshOwe (s : State) (r : Nat) (d : MeshDir) (v n : Nat) : State :=
  let k := bufKey r d v
  { s with mesh := { s.mesh with owed := mset 0 s.mesh.owed k (mget 0 s.mesh.owed k + n) } }

/-- The output that feeds an input port, if it is a router's. -/
def feederOf (r : Nat) (inp : MeshDir) : Option (Nat × MeshDir) :=
  let x := r % 10
  let row := r % 120 / 10
  match inp with
  | .north => if row = 0 then none else some (r - 10, .south)
  | .south => if row = 11 then none else some (r + 10, .north)
  | .east => if x = 9 then none else some (r + 1, .west)
  | .west => if x = 0 then none else some (r - 1, .east)
  | _ => none

/-- Free n flits of an input buffer: the credits go back to the router that feeds it. -/
def State.meshFreed (s : State) (r : Nat) (inp : MeshDir) (v n : Nat) : State :=
  match feederOf r inp with
  | some f => s.meshOwe f.1 f.2 v n
  | none => s

/-! ### Routes (R56, R57, R70) -/

/-- One step towards a column and a row, the row of columns first; the last step leaves by `fin`. -/
def towards (r x row : Nat) (fin : MeshDir) : MeshDir :=
  let hx := r % 10
  let hr := r % 120 / 10
  if hx < x then .east else if x < hx then .west else if row < hr then .north else if hr < row then .south else fin

/-- The way out of a die: to J or the opposite die by column 0, to the next or the previous die by the north or south edge. -/
def wayOut (here there : Nat) : MeshDir :=
  let k := (there + 4 - here) % 4
  if k = 1 then .north else if k = 3 then .south else .west

/-- The output a unicast packet takes at a router (R56, R57). -/
def routeOf (r : Nat) (p : MeshPacket) : MeshDir :=
  let die := r / 120
  let srow := p.src.row.val
  match p.dst with
  | .cell c => if c.val / 120 = die then towards r (c.val % 10) (c.val % 120 / 10) .cell else wayOut die (c.val / 120)
  | .hc n => if n.val / 2 = die then towards r 0 (2 + 6 * (n.val % 2)) .aux else wayOut die (n.val / 2)
  | .ctl s =>
    let c := s.val % 3
    let row := if c = 1 then (if srow < 6 then 4 + srow % 2 else 6 + srow % 2) else 4 * c + srow % 4
    towards r 9 row .east
  | .junction => .west
  | .set d _ _ _ => wayOut die d.val

/-- Whether a target set's fields are legal (R68). -/
def setOk (form : Bool) (f : Word) : Bool :=
  if form then decide (fld f 60 4 = 0) && decide (fld f 0 60 ≠ 0)
  else
    decide (fld f 16 48 = 0) && decide (fld f 0 4 ≤ fld f 4 4) && decide (fld f 4 4 ≤ 9)
      && decide (fld f 8 4 ≤ fld f 12 4) && decide (fld f 12 4 ≤ 11)

/-- Whether a target set names the cell at a column and die row (R67). -/
def setHas (form half : Bool) (f : Word) (x row : Nat) : Bool :=
  if form then (decide (row / 6 = b2n half)) && f.toNat.testBit (row % 6 * 10 + x)
  else decide (fld f 0 4 ≤ x) && decide (x ≤ fld f 4 4) && decide (fld f 8 4 ≤ row) && decide (row ≤ fld f 12 4)

/-- The branches of a multicast packet at a router, by the port it came in by (R70): along its row, into each target
column, along the column; a packet that came in over the north or south edge of the die takes rows and columns in exchanged roles. -/
def branchesAt (r : Nat) (inp : MeshDir) (p : MeshPacket) : List MeshDir :=
  match p.dst with
  | .set d form half f =>
    let die := r / 120
    if d.val ≠ die then [wayOut die d.val]
    else
      let x := r % 10
      let row := r % 120 / 10
      let has := setHas form half f
      let k := (d.val + 4 - p.src.die.val) % 4
      let colFirst := decide (k = 1) || decide (k = 3)
      let anyCol (q : Nat → Bool) : Bool := (upTo 10).any (fun c => q c && (upTo 12).any (fun w => has c w))
      let anyRow (q : Nat → Bool) : Bool := (upTo 12).any (fun w => q w && (upTo 10).any (fun c => has c w))
      let here (q : Nat → Bool) : Bool := (upTo 12).any (fun w => q w && has x w)
      let hereRow (q : Nat → Bool) : Bool := (upTo 10).any (fun c => q c && has c row)
      let trunk : Bool := if colFirst then inp == .north || inp == .south || inp == .cell else inp == .west || inp == .east || inp == .cell
      let go (d : MeshDir) : Bool :=
        if d == inp && d != .cell then false
        else
          match d with
          | .east => if colFirst then hereRow (fun c => decide (x < c)) && (trunk || inp == .west)
                     else trunk && anyCol (fun c => decide (x < c)) && inp != .east
          | .west => if colFirst then hereRow (fun c => decide (c < x)) && (trunk || inp == .east)
                     else trunk && anyCol (fun c => decide (c < x)) && inp != .west
          | .north => if colFirst then trunk && anyRow (fun w => decide (w < row)) && inp != .north
                      else here (fun w => decide (w < row)) && (trunk || inp == .south)
          | .south => if colFirst then trunk && anyRow (fun w => decide (row < w)) && inp != .south
                      else here (fun w => decide (row < w)) && (trunk || inp == .north)
          | .cell => has x row
          | .aux => false
      allDirs.filter go
  | _ => []

/-! ### Injection and delivery -/

/-- The flits of a packet. -/
def flitsOf (p : MeshPacket) : List Flit := (upTo p.flits).map (fun i => ⟨p, decide (i + 1 = p.flits)⟩)

/-- A cell's router takes a packet of its cell (R47, R68): a bad target set is answered MCAST_TARGET (2) and not sent. -/
def State.meshInject (s : State) (cell : Nat) (dst : MeshDst) (vc : MeshVc) (flits : Nat) (expects : Bool) : State :=
  let id := s.mesh.nextPkt
  let p : MeshPacket :=
    ⟨id, ⟨Fin.ofNat 4 (cell / 120), Fin.ofNat 10 (cell % 10), Fin.ofNat 12 (cell % 120 / 10)⟩, dst, vc, flits,
     Fin.ofNat 16 (s.cellPart cell), expects⟩
  let s := { s with mesh := { s.mesh with nextPkt := id + 1 } }
  let bad := match dst with | .set _ form _ f => !setOk form f | _ => false
  if bad then { s with mesh := { s.mesh with answers := s.mesh.answers ++ [(id, 2)] } }
  else s.setMeshBuf cell .cell (vcNo vc) (s.meshBuf cell .cell (vcNo vc) ++ flitsOf p)

/-- Key of an endpoint behind a router's port: cells by number, half controllers from 480, stacks from 500. -/
def endpointOf (r : Nat) (out : MeshDir) : Nat :=
  match linkOf r out with
  | .ctl s => 500 + s
  | _ => if out = .aux then 480 + 2 * (r / 120) + r % 120 / 60 else r

/-- A packet has reached its endpoint whole. -/
def State.meshDeliver (s : State) (e : Nat) (p : MeshPacket) : State :=
  { s with mesh := { s.mesh with arrived := s.mesh.arrived ++ [(e, p)] } }

/-- Key of a gateway's exit buffer: by the router and the port that lead to it. -/
def gateKey (r : Nat) (out : MeshDir) : Nat := r * 6 + dirNo out

/-- Move flits of one packet through an output (R63): to the next router, a gateway, a controller or an endpoint. -/
def State.meshSend (s : State) (r : Nat) (out : MeshDir) (v : Nat) (fs : List Flit) : State :=
  match linkOf r out with
  | .router r' inp _ => (s.meshSpend r out v fs.length).setMeshBuf r' inp v (s.meshBuf r' inp v ++ fs)
  | .gateway =>
    let s := s.meshSpend r out v fs.length
    forEach (fs.filter (·.last)) s (fun s f =>
      let k := gateKey r out
      { s with mesh := { s.mesh with gates := mset [] s.mesh.gates k (mget [] s.mesh.gates k ++ [f.pkt]) } })
  | .ctl _ =>
    forEach (fs.filter (·.last)) ((s.meshSpend r out v fs.length).meshOwe r out v fs.length) (fun s f => s.meshDeliver (endpointOf r out) f.pkt)
  | .endpoint => forEach (fs.filter (·.last)) s (fun s f => s.meshDeliver (endpointOf r out) f.pkt)

/-! ### Arbitration (R63) -/

/-- The first entry of a list in round-robin order after the last one served. -/
def rrPick (n last : Nat) (ok : Nat → Bool) : Option Nat := ((upTo n).map (fun i => (last + 1 + i) % n)).find? ok

/-- Input ports of a channel whose first flit goes to an output. -/
def State.meshWants (s : State) (r : Nat) (out : MeshDir) (v i : Nat) : Bool :=
  match s.meshBuf r (nth .cell allDirs i) v with
  | f :: _ => routeOf r f.pkt == out
  | [] => false

/-- The input a channel serves at an output: the one whose packet holds it, else the next in turn. -/
def State.meshInput (s : State) (r : Nat) (out : MeshDir) (v : Nat) : Option Nat :=
  let k := bufKey r out v
  match mget none s.mesh.locks k with
  | some i => if (s.meshBuf r (nth .cell allDirs i) v).isEmpty then none else some i
  | none => rrPick 6 (mget 0 s.mesh.rrIn k) (s.meshWants r out v)

/-- The channels of a plane at an output that hold a flit and a credit; multicast leaves by its replication buffer (R71). -/
def State.meshReady (s : State) (r : Nat) (out : MeshDir) (v : Nat) : Bool :=
  decide (v ≠ 1) && s.meshCredit r out v 1 && (s.meshInput r out v).isSome

/-- MESH_FLIT_FORWARD (R63): one flit through an output of a plane. -/
def execMeshFlitForward (r : RouterId) (out : MeshDir) (respPlane : Bool) (s : State) : Res :=
  let k := rtNo r
  let base := if respPlane then 6 else 0
  let n := if respPlane then 4 else 6
  let key := (k * 6 + dirNo out) * 2 + b2n respPlane
  .next (match rrPick n (mget 0 s.mesh.rrVc key) (fun i => s.meshReady k out (base + i)) with
    | none => s
    | some i =>
      let v := base + i
      match s.meshInput k out v with
      | none => s
      | some j =>
        let inp := nth .cell allDirs j
        match s.meshBuf k inp v with
        | [] => s
        | f :: rest =>
          let bk := bufKey k out v
          let s := (s.setMeshBuf k inp v rest).meshFreed k inp v 1
          let s := { s with mesh := { s.mesh with
            rrVc := mset 0 s.mesh.rrVc key i
            locks := mset none s.mesh.locks bk (if f.last then none else some j)
            rrIn := mset 0 s.mesh.rrIn bk j } }
          s.meshSend k out v [f])

/-- MESH_CREDIT_RETURN (R62): one owed credit reaches the sender. -/
def execMeshCreditReturn (r : RouterId) (out : MeshDir) (vc : MeshVc) (s : State) : Res :=
  let k := bufKey (rtNo r) out (vcNo vc)
  when (decide (mget 0 s.mesh.owed k > 0)) (fun s =>
    { s with mesh := { s.mesh with
        owed := mset 0 s.mesh.owed k (mget 0 s.mesh.owed k - 1)
        used := mset 0 s.mesh.used k (mget 0 s.mesh.used k - 1) } }) s

/-- Router and port of a gateway on its own die. -/
def gateAt (g : GatewayId) : Nat × MeshDir :=
  match g with
  | .junction d row => (120 * d.val + 10 * row.val, .west)
  | .ringNorth d x => (120 * d.val + x.val, .north)
  | .ringSouth d x => (120 * d.val + 110 + x.val, .south)

/-- The output on another die whose packets come in by a gateway (R48, R57). -/
def gateFrom (g : GatewayId) : Nat × MeshDir :=
  match g with
  | .junction d row => (120 * ((d.val + 2) % 4) + 10 * row.val, .west)
  | .ringNorth d x => (120 * ((d.val + 1) % 4) + 110 + x.val, .south)
  | .ringSouth d x => (120 * ((d.val + 3) % 4) + x.val, .north)

/-- The channel a packet takes after its gateway (R58, R61). -/
def entryVc (p : MeshPacket) : MeshVc :=
  match p.vc with
  | .mcast => .mcast
  | .xout => .xin
  | .rspXout => .rspXin
  | v => v

/-- Die a packet is bound for. -/
def dstDie (p : MeshPacket) : Option Nat :=
  match p.dst with
  | .cell c => some (c.val / 120)
  | .hc n => some (n.val / 2)
  | .set d _ _ _ => some d.val
  | .ctl s => some (s.val / 3)
  | .junction => none

/-- GATEWAY_ACCEPT (R61): a whole packet of the facing exit, or of the junction die, enters when all of its flits have room. -/
def execGatewayAccept (g : GatewayId) (p : MeshPacket) (s : State) : Res :=
  let a := gateAt g
  let b := gateFrom g
  let v := vcNo (entryVc p)
  let cap := nth 0 [0, 16, 0, 32, 32, 4, 0, 32, 32, 4] v
  let fromExit := (mget [] s.mesh.gates (gateKey b.1 b.2)).contains p
  let fromJ := match g with | .junction _ _ => decide (rtNo p.src = a.1) | _ => false
  let fits := decide ((s.meshBuf a.1 a.2 v).length + p.flits ≤ cap) && decide (1 ≤ p.flits) && decide (p.flits ≤ 4)
  when ((fromExit || fromJ) && fits && decide (dstDie p = some (a.1 / 120))) (fun s =>
    let s :=
      if fromExit then
        let k := gateKey b.1 b.2
        ({ s with mesh := { s.mesh with gates := mset [] s.mesh.gates k ((mget [] s.mesh.gates k).erase p) } }).meshOwe b.1 b.2 (vcNo p.vc) p.flits
      else s
    s.setMeshBuf a.1 a.2 v (s.meshBuf a.1 a.2 v ++ flitsOf { p with vc := entryVc p })) s

/-- CELL_DOWN_CONSUME (R46): a packet for an unpowered cell is consumed; a request that expects a completion is answered TARGET_DOWN (1). -/
def execCellDownConsume (c : Fin 480) (p : MeshPacket) (s : State) : Res :=
  when (s.cellDown c.val && s.mesh.arrived.contains (c.val, p)) (fun s =>
    { s with mesh := { s.mesh with
        arrived := s.mesh.arrived.erase (c.val, p)
        answers := if p.expects then s.mesh.answers ++ [(p.id, 1)] else s.mesh.answers } }) s

/-- The packet at the head of a channel's buffer, once all of its flits are there. -/
def headPacket (l : List Flit) : Option MeshPacket :=
  match l with
  | [] => none
  | f :: _ => if decide (f.pkt.flits ≤ l.length) then some f.pkt else none

/-- Flits a router's replication buffer holds. -/
def replFlits (l : List ReplEntry) : Nat := l.foldl (fun n e => n + e.pkt.flits) 0

/-- MCAST_REPLICATION_ENTRY (R71): a whole multicast packet enters the 32-flit buffer when it has room. -/
def execMcastReplicationEntry (r : RouterId) (inp : MeshDir) (s : State) : Res :=
  let k := rtNo r
  .next (match headPacket (s.meshBuf k inp 1) with
    | none => s
    | some p =>
      let held := mget [] s.mesh.repl k
      if replFlits held + p.flits ≤ 32 then
        let s := (s.setMeshBuf k inp 1 ((s.meshBuf k inp 1).drop p.flits)).meshFreed k inp 1 p.flits
        { s with mesh := { s.mesh with repl := mset [] s.mesh.repl k (if (branchesAt k inp p).isEmpty then held else held ++ [⟨p, branchesAt k inp p⟩]) } }
      else s)

/-- Take one branch of the oldest entry that still has it. -/
def takeBranch (b : MeshDir) (l : List ReplEntry) : Option MeshPacket × List ReplEntry :=
  match l with
  | [] => (none, [])
  | e :: r =>
    if e.branches.contains b then
      let left := e.branches.erase b
      (some e.pkt, if left.isEmpty then r else { e with branches := left } :: r)
    else
      let t := takeBranch b r
      (t.1, e :: t.2)

/-- MCAST_BRANCH_TAKE (R72): a branch takes its copy under its own credits; the packet leaves with its last branch. -/
def execMcastBranchTake (r : RouterId) (branch : MeshDir) (s : State) : Res :=
  let k := rtNo r
  let t := takeBranch branch (mget [] s.mesh.repl k)
  .next (match t.1 with
    | none => s
    | some p =>
      if s.meshCredit k branch 1 p.flits then
        ({ s with mesh := { s.mesh with repl := mset [] s.mesh.repl k t.2 } }).meshSend k branch 1 (flitsOf p)
      else s)

end Sys2Proof.Machine
end

