-- ==== Sys2Proof/Machine/Sync.lean ====
section
/-! DEFINITION. Sync counters, signals and barriers (R359-R383): the sync unit's operations. -/

namespace Sys2Proof.Machine

/-! ### Names of cores -/

/-- The cell of a core. -/
def coreCell (n : CoreName) : Nat := if n.isVc then n.num else n.num / 4

/-- The core of a sync key: five to a cell, the vector core last. -/
def keyCore (k : Nat) : CoreName := if k % 5 = 4 then ⟨true, k / 5⟩ else ⟨false, 4 * (k / 5) + k % 5⟩

/-- Bit of a core in a participant bitmap (R369). -/
def coreBit (n : CoreName) : Nat := if n.isVc then 1920 + n.num else n.num

/-- The core of a bit of a participant bitmap. -/
def bitCore (b : Nat) : CoreName := if b < 1920 then ⟨false, b⟩ else ⟨true, b - 1920⟩

/-- Whether a core number exists. -/
def coreExists (n : CoreName) : Bool := if n.isVc then decide (n.num < 480) else decide (n.num < 1920)

/-- Base of a core's SYN registers: SYN_MODE, SYN_FLAG, SYN_ERR (R384). -/
def synKey (k : Nat) : Nat := synBase (k / 5) + 0x20 * (k % 5)

/-! ### One core's counters -/

/-- A core's sync state with its three registers, wherever they are: live, or in a saved image (R366). -/
structure CoreView where
  core : SyncCore
  mode : Word
  flag : Word
  err : Word
  deriving DecidableEq, Repr

/-- A counter's value. -/
def SyncCore.val (c : SyncCore) (n : Nat) : Nat := (mget 0 c.cnt n).toNat

/-- A core with a counter set. -/
def SyncCore.setVal (c : SyncCore) (n v : Nat) : SyncCore := { c with cnt := mset 0 c.cnt n (BitVec.ofNat 16 v) }

/-- Set a sticky flag. -/
def setBitW (w : Word) (i : Nat) : Word := w ||| (1#64 <<< i)

/-- Record an error in SYN_ERR (R387). -/
def errWord (counter cause : Nat) (pending : Bool) (barrier : Nat) : Word :=
  BitVec.ofNat 64 (counter + cause * 32 + b2n pending * 256 + barrier * 512)

/-- An incoming addition (R362); the mark says that a sync-error event is due. -/
def CoreView.incoming (v : CoreView) (n x : Nat) : CoreView × Bool :=
  let sum := v.core.val n + x
  if sum ≤ 65535 then ({ v with core := v.core.setVal n sum }, false)
  else
    let c := v.core.setVal n 65535
    if v.mode.getLsbD n then
      ({ v with core := { c with pend := if c.pend.contains n then c.pend else c.pend ++ [n] },
                flag := setBitW v.flag n, err := errWord n 3 true 0 }, true)
    else ({ v with core := c, flag := setBitW v.flag n }, false)

/-- An own addition (R362): done, or an error with its cause. -/
inductive AddOut where
  | done (v : CoreView)
  | error (cause : Nat)
  deriving DecidableEq, Repr

/-- SADD and XS.ADD on a core's view. -/
def CoreView.own (v : CoreView) (n : Nat) (x : Int) : AddOut :=
  let sum : Int := (v.core.val n : Int) + x
  if 0 ≤ sum ∧ sum ≤ 65535 then .done { v with core := v.core.setVal n sum.toNat }
  else if v.mode.getLsbD n then .error (if sum < 0 then 1 else 2)
  else .done { v with core := v.core.setVal n (if sum < 0 then 0 else 65535), flag := setBitW v.flag n }

/-- The release of generation g of a barrier at a participant (R375); the first mark says that an entry was open. -/
def CoreView.release (v : CoreView) (bid : Nat) (g : BitVec 2) : CoreView × Bool × Bool :=
  match mget none v.core.bars bid with
  | none => (v, false, false)
  | some b =>
    match b.entries.find? (fun e => e.1 == g) with
    | none => (v, false, false)
    | some e =>
      let left := b.entries.erase e
      let r := ({ v with core := { v.core with
        bars := mset none v.core.bars bid (some { b with entries := left })
        hung := v.core.hung.filter (fun h => h != (bid, g))
        stall := if v.core.stall = some bid then none else v.core.stall } } : CoreView).incoming e.2 1
      (r.1, true, r.2)

/-- A core's idle report ends once its wait is satisfied (R380). -/
def SyncCore.settleIdle (c : SyncCore) : SyncCore :=
  let waits := match c.want with | some (n, x) => decide (c.val n < x) | none => c.stall.isSome
  { c with idle := c.idle && waits }

/-! ### Live cores and saved images -/

/-- The live view of a core. -/
def State.coreView (s : State) (k : Nat) : CoreView :=
  ⟨s.syncOf k, s.reg (synKey k), s.reg (synKey k + 8), s.reg (synKey k + 0x10)⟩

/-- Put a live view back. -/
def State.putView (s : State) (k : Nat) (v : CoreView) : State :=
  ((s.setSync k v.core.settleIdle).setReg (synKey k + 8) v.flag).setReg (synKey k + 0x10) v.err

/-- The saved context of a cell for a partition whose sync unit has been saved (R366, R383). -/
def State.savedSync (s : State) (cell part : Nat) : Option SavedCtx :=
  s.parts.saved.find? (fun c => c.cell == cell && c.part == part && c.done.contains 5)

/-- The view of a core in a saved image; its registers are kept by their place in the cell's window. -/
def SavedCtx.view (c : SavedCtx) (k : Nat) : CoreView :=
  let r (o : Nat) : Word := mget 0 c.regs (0xE00 + 0x20 * (k % 5) + o)
  ⟨mget {} c.sync (k % 5), r 0, r 8, r 0x10⟩

/-- Put a view into a saved image. -/
def SavedCtx.putView (c : SavedCtx) (k : Nat) (v : CoreView) : SavedCtx :=
  let o := 0xE00 + 0x20 * (k % 5)
  { c with sync := mset {} c.sync (k % 5) v.core, regs := mset 0 (mset 0 c.regs (o + 8) v.flag) (o + 0x10) v.err }

/-- Replace the saved context of a cell and partition. -/
def State.putSaved (s : State) (c : SavedCtx) : State :=
  { s with parts := { s.parts with saved := mapWhere s.parts.saved (fun x => x.cell == c.cell && x.part == c.part) (fun _ => c) } }

/-- Count a signal or release dropped at a cell (R366, R375). -/
def State.recvDropped (s : State) (cell : Nat) : State :=
  let k := synBase cell + 0x108
  ((s.addF ⟨k, 16, 16⟩ 1).putF ⟨k, 32, 1⟩ 1).raiseC cell 7

/-- Count a signal of a cell's core as lost (R367). -/
def State.sentLost (s : State) (cell : Nat) : State :=
  let k := synBase cell + 0x108
  ((s.addF ⟨k, 0, 16⟩ 1).putF ⟨k, 32, 1⟩ 1).raiseC cell 7

/-! ### Signals (R365-R367) -/

/-- Whether a core lies in a partition: its cell is bound to it, or a saved context of it exists (R184). -/
def State.inPartition (s : State) (n : CoreName) (p : Nat) : Bool :=
  coreExists n && (s.cellPart (coreCell n) == p || s.parts.saved.any (fun c => c.cell == coreCell n && c.part == p))

/-- Send a signal: it waits for its target's sync unit, and crosses the network as one flit. -/
def State.sendSignal (s : State) (g : Signal) : State :=
  let from_ := coreCell g.sender
  let dest := coreCell g.target
  let s := { s with sync := { s.sync with signals := s.sync.signals ++ [g] } }
  if from_ = dest then s
  else s.meshInject from_ (.cell (Fin.ofNat 480 dest)) (if from_ / 120 = dest / 120 then .req else .xout) 1 true

/-- A signal is the oldest of its source and target among those on their way (R365). -/
def State.signalFirst (s : State) (g : Signal) : Bool :=
  match s.sync.signals.find? (fun x => x.sender == g.sender && x.target == g.target && x.dma == g.dma) with
  | some x => x == g
  | none => false

/-- A target's sync unit takes a signal (R366); the mark says that the answer is TARGET_DOWN. -/
def State.takeSignal (s : State) (g : Signal) : State × Bool :=
  let cell := coreCell g.target
  let k := coreKey g.target
  if s.cellDown cell then (s, true)
  else
    match s.savedSync cell g.stamp.val with
    | some c =>
      let r := (c.view k).incoming g.sn.val g.value.toNat
      let s := s.putSaved (c.putView k r.1)
      (if r.2 then s.raiseC cell 6 else s, false)
    | none =>
      if s.cellPart cell = g.stamp.val then
        let r := (s.coreView k).incoming g.sn.val g.value.toNat
        let s := s.putView k r.1
        (if r.2 then s.raiseC cell 6 else s, false)
      else (s.recvDropped cell, true)

/-- SIGNAL_RECEIVE (R366). -/
def execSignalReceive (g : Signal) (s : State) : Res :=
  when (s.signalFirst g) (fun s =>
    let r := ({ s with sync := { s.sync with signals := s.sync.signals.erase g } }).takeSignal g
    { r.1 with sync := { r.1.sync with answers := r.1.sync.answers ++ [(coreCell g.sender, r.2)] } }) s

/-- SIGNAL_COMPLETION (R367). -/
def execSignalCompletion (c : Fin 480) (targetDown : Bool) (s : State) : Res :=
  when (s.sync.answers.contains (c.val, targetDown)) (fun s =>
    let s := { s with sync := { s.sync with answers := s.sync.answers.erase (c.val, targetDown) } }
    if targetDown then s.sentLost c.val else s) s

/-! ### Barriers (R369-R378) -/

/-- Key of a barrier of a partition. -/
def barKey (part bid : Nat) : Nat := part * 1024 + bid

/-- A barrier's configuration. -/
def State.barCfg (s : State) (part bid : Nat) : Option BarCfg := mget none s.sync.cfgs (barKey part bid)

/-- The half of a cell: 2 × die + half. -/
def cellHalf (c : Nat) : Nat := c / 60

/-- The half of a core. -/
def bitHalf (b : Nat) : Nat := cellHalf (coreCell (bitCore b))

/-- Key of a barrier's entry at a node: the node of half h (0-7), or the package node (8). -/
def nodeKey (part bid h : Nat) : Nat := barKey part bid * 9 + h

/-- A node's number: its half, or 8 for the package node. -/
def nodeNo (n : BarNode) : Nat :=
  match n with
  | .half d south => 2 * d.val + b2n south
  | .package => 8

/-- A node by its number. -/
def nodeOf (h : Nat) : BarNode := if h < 8 then .half (Fin.ofNat 4 (h / 2)) (h % 2 == 1) else .package

/-- What an entry by SBAR or XS.BAR gives (R375, R376). -/
inductive BarOut where
  | entered (s : State)
  | stalled
  | error (cause : Nat)
  deriving DecidableEq, Repr

/-- A core's part in a barrier. -/
def SyncCore.bar (c : SyncCore) (bid : Nat) : BarPart := (mget none c.bars bid).getD ⟨0, []⟩

/-- Every participant of a cell has entered a generation. -/
def State.cellEntered (s : State) (cfg : BarCfg) (cell bid : Nat) (g : BitVec 2) : Bool :=
  (cfg.cores.filter (fun b => coreCell (bitCore b) == cell)).all (fun b =>
    ((s.syncOf (coreKey (bitCore b))).bar bid).entries.any (fun e => e.1 == g))

/-- A core enters a barrier (R375), naming counter sn. -/
def State.barEnter (s : State) (core : CoreName) (part bid sn : Nat) : BarOut :=
  match s.barCfg part bid with
  | none => .error 5
  | some cfg =>
    if !cfg.cores.contains (coreBit core) then .error 6
    else
      let k := coreKey core
      let c := s.syncOf k
      let b := c.bar bid
      if b.entries.length ≥ 2 then (if cfg.ahead then .error 4 else .stalled)
      else
        let s := s.setSync k { c with bars := mset none c.bars bid (some ⟨b.gen + 1, b.entries ++ [(b.gen, sn)]⟩), stall := none }
        let cell := coreCell core
        .entered (if s.cellEntered cfg cell bid b.gen then
          { s with sync := { s.sync with arrivals :=
              s.sync.arrivals ++ [(nodeOf (cellHalf cell), part, BitVec.ofNat 10 bid, b.gen)] } }
        else s)

/-- The node above a node for a barrier's scope (R371, R372); none above the root, and the fabric above the package node of
a domain barrier. -/
def parentOf (scope : BitVec 2) (h : Nat) : Option Nat :=
  if scope = 0 then none
  else if scope = 1 then (if h % 2 = 1 then some (h - 1) else none)
  else if h < 8 then some 8
  else none

/-- The children a node expects (R373). -/
def BarCfg.expects (c : BarCfg) (h : Nat) : Nat :=
  let cells (h : Nat) : Nat := ((c.cores.filter (fun b => bitHalf b == h)).map (fun b => coreCell (bitCore b))).eraseDups.length
  let halves := (c.cores.map bitHalf).eraseDups
  if h = 8 then halves.length
  else if c.scope = 1 ∧ h % 2 = 0 then cells h + b2n (halves.contains (h + 1))
  else cells h

/-- The nodes a barrier needs (R371, R372). -/
def BarCfg.nodes (c : BarCfg) : List Nat :=
  let halves := (c.cores.map bitHalf).eraseDups
  if c.scope = 0 then halves
  else if c.scope = 1 then (halves ++ halves.map (fun h => h / 2 * 2)).eraseDups
  else halves ++ [8]

/-- The releases of a generation leave for every participant (R373). -/
def State.releaseAll (s : State) (part bid : Nat) (g : BitVec 2) : State :=
  match s.barCfg part bid with
  | none => s
  | some c =>
    { s with sync := { s.sync with
        releases := s.sync.releases ++ c.cores.map (fun b => (coreKey (bitCore b), part, BitVec.ofNat 10 bid, g)) } }

/-- What a node does with an arrival: counts it, passes it on, releases, or passes it to the fabric (R373). -/
inductive NodeOut where
  | counted
  | up (h : Nat)
  | release
  | fabric
  deriving DecidableEq, Repr

/-- Count an arrival at a node. -/
def State.nodeCount (s : State) (h part bid : Nat) (g : BitVec 2) : State × NodeOut :=
  match s.barCfg part bid, mget none s.sync.nodes (nodeKey part bid h) with
  | some c, some e =>
    let n := mget 0 e.counts g.toNat + 1
    if n < e.expected then
      ({ s with sync := { s.sync with nodes := mset none s.sync.nodes (nodeKey part bid h) (some { e with counts := mset 0 e.counts g.toNat n }) } }, .counted)
    else
      let s := { s with sync := { s.sync with nodes := mset none s.sync.nodes (nodeKey part bid h) (some { e with counts := mset 0 e.counts g.toNat 0 }) } }
      match parentOf c.scope h with
      | some p => (s, .up p)
      | none => (s, if c.scope = 3 then .fabric else .release)
  | _, _ => (s, .counted)

/-- The oldest release of a barrier on its way to a core comes first (R377). -/
def State.releaseFirst (s : State) (k part : Nat) (bid : BitVec 10) (g : BitVec 2) : Bool :=
  match s.sync.releases.find? (fun r => r.1 == k && r.2.1 == part && r.2.2.1 == bid) with
  | some r => r.2.2.2 == g
  | none => false

/-- Apply a release at a participant, live or in its saved image; one that finds no open entry is dropped and counted (R375, R383). -/
def State.applyRelease (s : State) (k part bid : Nat) (g : BitVec 2) : State :=
  let cell := k / 5
  match s.savedSync cell part with
  | some c =>
    let r := (c.view k).release bid g
    if r.2.1 then (let s := s.putSaved (c.putView k r.1); if r.2.2 then s.raiseC cell 6 else s) else s.recvDropped cell
  | none =>
    if s.cellPart cell = part then
      let r := (s.coreView k).release bid g
      if r.2.1 then (let s := s.putView k r.1; if r.2.2 then s.raiseC cell 6 else s) else s.recvDropped cell
    else s.recvDropped cell

/-- BARRIER_RELEASE_APPLY (R375). -/
def execBarrierReleaseApply (core : CoreName) (part : Fin 16) (bid : BitVec 10) (gen : BitVec 2) (s : State) : Res :=
  let k := coreKey core
  when (s.releaseFirst k part.val bid gen) (fun s =>
    ({ s with sync := { s.sync with releases := s.sync.releases.erase (k, part.val, bid, gen) } }).applyRelease k part.val bid.toNat gen) s

/-! ### Waiting (R378, R380) -/

/-- Whether a core waits and is otherwise quiet (R380). -/
def State.coreWaits (s : State) (n : CoreName) : Bool :=
  let c := s.syncOf (coreKey n)
  let held := (match c.want with | some (i, x) => decide (c.val i < x) | none => false) || c.stall.isSome
  if n.isVc then held && (s.rv n.num).waiting && (s.rv n.num).held.isNone
  else
    let m := s.mc n.num
    held && (s.getF ⟨mxcBase n.num + 8, 0, 3⟩ == 1 || s.getF ⟨mxcBase n.num + 8, 0, 3⟩ == 2) && m.ops.isEmpty && m.jobs.isEmpty && m.passes.isEmpty && m.lds.isNone

/-- IDLE_REPORT (R380): with idle_th 0 no core is reported. -/
def execIdleReport (core : CoreName) (s : State) : Res :=
  when (coreExists core && s.coreWaits core && decide (s.getF ⟨synBase (coreCell core) + 0x100, 0, 16⟩ ≠ 0)) (fun s =>
    s.setSync (coreKey core) { s.syncOf (coreKey core) with idle := true }) s

/-- The oldest open entry of a core in a barrier. -/
def State.openRound (s : State) (core : CoreName) (bid : Nat) : Option (BitVec 2) :=
  match ((s.syncOf (coreKey core)).bar bid).entries with
  | e :: _ => some e.1
  | [] => none

/-- SYNC_HANG (R378): raised once for a round, and only with a threshold set. -/
def execSyncHang (core : CoreName) (bid : BitVec 10) (s : State) : Res :=
  let k := coreKey core
  .next (match s.openRound core bid.toNat with
    | none => s
    | some g =>
      if decide (s.getF ⟨synBase (coreCell core) + 0x100, 16, 16⟩ = 0) || (s.syncOf k).hung.contains (bid.toNat, g) then s
      else (s.setSync k { s.syncOf k with hung := (s.syncOf k).hung ++ [(bid.toNat, g)] }).raiseC (coreCell core) 8)

end Sys2Proof.Machine
end

