-- ==== Sys2Proof/Machine/Ops.lean ====
section
/-! DEFINITION. Issue of matrix instructions (R146-R151, R187), interlocks (R136, R140), scratch writes, fault records' waiters. -/

namespace Sys2Proof.Machine

/-! ### Issue -/

/-- The matrix core's instruction stream may proceed: a program runs, none of its stops holds, its fetch is not held. -/
def State.mcLive (s : State) (n : Nat) : Bool :=
  let m := s.mc n
  let st := s.getF (mxcSt n)
  m.launched && !m.halted && !m.ended && (st == 1 || st == 2) && !s.getB (mxcStopF n) && m.fetchHeld.isNone

/-- An instruction may issue: the stream proceeds and the next fetch lies inside the program's space (R147). -/
def State.mcRun (s : State) (n : Nat) : Bool := s.mcLive n && !(s.mc n).pcOut

/-- Bytes of the program's space: operand scratch, or 48 bits of device virtual addresses (R147). -/
def State.pcLimit (s : State) (n : Nat) : Nat := if s.getB (mxcSpace n) then 2 ^ 48 else scratchSize

/-- Send the program counter to an address; one outside the space faults when it reaches issue (R147). -/
def State.goTo (s : State) (n : Nat) (a : Int) : State :=
  let out := decide (a < 0) || decide ((s.pcLimit n : Int) ≤ a)
  (s.putF (mxcPc n) (toBits a 48)).updMc n (fun m => { m with pcOut := out })

/-- What the checks at issue find: a fault code of R188 with its operand number (R195), or nothing. -/
abbrev Chk := Option (Nat × Nat)

/-- The first failed check of a list. -/
def firstBad (l : List (Bool × Nat × Nat)) : Chk := (l.find? (fun c => c.1)).map (·.2)

/-- Issue an instruction (R150) that leaves the program at `next`: nothing while the core may not issue; ILLEGAL_ENCODING for a
reserved bit or value (R146); nothing while an interlock or its unit holds it; the fault of its first failed check (R187); else
state RUN and its effect. -/
def State.issueTo (s : State) (n unit : Nat) (rsv ready : Bool) (chk : Chk) (act : State → State) (next : Int) : Res :=
  .next (
    if !s.mcRun n then s
    else if rsv then s.issueFault n fltEncoding 0 unit
    else if !ready then s
    else
      match chk with
      | some c => s.issueFault n c.1 c.2 unit
      | none => (act (s.putF (mxcSt n) 1)).goTo n next)

/-- The address of the instruction to issue. -/
def State.pcAt (s : State) (n : Nat) : Int := s.getF (mxcPc n)

/-- Issue an instruction that goes on to the next one. -/
def State.issue (s : State) (n unit : Nat) (rsv ready : Bool) (chk : Chk) (act : State → State) : Res :=
  s.issueTo n unit rsv ready chk act (s.pcAt n + 8)

/-- Whether an instruction's bits [55:0] hold a bit outside its fields. -/
def rsvd (f : BitVec 56) (fields : List (Nat × Nat)) : Bool :=
  let m := fields.foldl (fun a p => a ||| ((2 ^ (p.1 - p.2 + 1) - 1) <<< p.2)) 0
  decide (f &&& ~~~ (BitVec.ofNat 56 m) ≠ 0)

/-- Field [hi:lo] of an instruction. -/
def fb (f : BitVec 56) (hi lo : Nat) : Nat := bits f.toNat lo (hi - lo + 1)

/-- A signed field of an instruction. -/
def fs (f : BitVec 56) (hi lo : Nat) : Int := sext (fb f hi lo) (hi - lo + 1)

/-- A one-bit field of an instruction. -/
def fbit (f : BitVec 56) (i : Nat) : Bool := bit f.toNat i

/-! ### What is under way -/

/-- The partition of a matrix core's program. -/
def State.mcPart (s : State) (n : Nat) : Nat := s.cellPart (n / 4)

/-- A matrix core as a requester. -/
def mcUnit (n : Nat) : UnitId := .mc (Fin.ofNat 1920 n)

/-- P, the K passes of an MMA (R168). -/
def MmaJob.k (j : MmaJob) : Nat := recB j.rcd 4 3
def MmaJob.m (j : MmaJob) : Nat := recB j.rcd 0 2
def MmaJob.n (j : MmaJob) : Nat := recB j.rcd 2 2
def MmaJob.batch (j : MmaJob) : Nat := recB j.rcd 8 2
def MmaJob.kp (j : MmaJob) : Nat := kPerPass j.fmtA j.loft
def MmaJob.p (j : MmaJob) : Nat := cdiv j.k j.kp
def MmaJob.mt (j : MmaJob) : Nat := cdiv j.m 32
def MmaJob.nt (j : MmaJob) : Nat := cdiv j.n (peCols j.loft)
def MmaJob.total (j : MmaJob) : Nat := j.batch * j.nt * j.p
/-- s of R171. -/
def MmaJob.sq (j : MmaJob) : Nat := if j.loft then 4 else 1
/-- Accumulator tiles of an MMA (R171). -/
def MmaJob.tiles (j : MmaJob) : Nat := j.sq * j.batch * j.mt * j.nt

/-- Whether an MMA has still to write back a row of tile t. -/
def MmaJob.uses (j : MmaJob) (t : Nat) : Bool :=
  decide (j.abase ≤ t) && decide (t < j.abase + j.tiles)
    && decide (j.ended < ((t - j.abase) / (j.sq * j.mt) + 1) * j.p)

/-- First claimed tile and count of an LDS (R197). -/
def LdsState.base (l : LdsState) : Nat := recB l.desc 0x1A 1 % 64
def LdsState.cnt (l : LdsState) : Nat := recB l.desc 0x1B 1 % 64 + 1

/-- A range of accumulator tiles meets another. -/
def meets (a n b k : Nat) : Bool := decide (a < b + k) && decide (b < a + n)

/-- An operation that reloads or spills tiles of a range is under way (R136). -/
def TileOp.onAcc (o : TileOp) (t n : Nat) : Bool :=
  (o.kind == .afil || (o.kind == .aspl && o.held.isSome)) && meets o.reg o.rows t n

/-- Accumulator tiles [t, t + n) may be used by an accumulator instruction (R136). -/
def McState.accFree (m : McState) (t n : Nat) : Bool :=
  !(upTo n).any (fun i => m.jobs.any (fun j => j.uses (t + i)))
    && !m.ops.any (fun o => o.onAcc t n)
    && (match m.lds with | some l => !meets l.base l.cnt t n | none => true)

/-- A tile register may be read: no TLD of it is under way (R140). -/
def McState.tileRd (m : McState) (t : Nat) : Bool := !m.ops.any (fun o => o.kind == .tld && o.reg == t)

/-- A tile register may be written: no TLD of it is under way, no held TST has it still to write again (R322), and no MMA has
still to load it (R123, R140). -/
def McState.tileWr (m : McState) (t : Nat) : Bool :=
  m.tileRd t && !m.ops.any (fun o => o.kind == .tst && o.held.isSome && o.reg == t)
    && !m.jobs.any (fun j => j.tile == some t && j.begun == 0)

/-- Every older instruction of the array is complete. -/
def McState.arrayQuiet (m : McState) : Bool := m.jobs.isEmpty && m.passes.isEmpty && m.lds.isNone

/-- The accumulator mover is free: its previous instruction is complete (R151). -/
def McState.moverFree (m : McState) : Bool := !m.ops.any (fun o => o.kind == .afil || (o.kind == .aspl && o.held.isSome))

/-- Every older instruction is complete; writes may still await their acknowledgement (R162, R165). -/
def McState.quiet (m : McState) : Bool :=
  m.arrayQuiet && !m.ops.any (fun o => o.kind == .tld || o.kind == .afil || o.held.isSome)

/-- Every older instruction is complete, every write acknowledged, every descriptor of the core's queue completed (R162, R185). -/
def State.drained (s : State) (n : Nat) : Bool :=
  let m := s.mc n
  m.arrayQuiet && m.ops.isEmpty && (s.dmaQ (n / 4) (n % 4)).isEmpty

/-- Whether a core's requester, mover and array go on with what has issued: running, or stopped at a fault at issue (R189). -/
def State.mcWorks (s : State) (n : Nat) : Bool :=
  let st := s.getF (mxcSt n)
  st == 1 || st == 2 || (st == 4 && decide (s.getF ⟨mxcBase n + 0x18, 0, 8⟩ ≠ fltMem))

/-! ### Writes into operand scratch -/

/-- Order code and other control bits of a loop descriptor (R198). -/
def LdsState.ctl (l : LdsState) : Nat := recB l.desc 0 4
def LdsState.loft (l : LdsState) : Bool := bit l.ctl 3
def LdsState.hold (l : LdsState) : Bool := bit l.ctl 4
def LdsState.fmtA (l : LdsState) : Nat := recB l.desc 4 1 % 16
def LdsState.fmtB (l : LdsState) : Nat := recB l.desc 4 1 / 16
def LdsState.tm (l : LdsState) : Nat := 32 * (recB l.desc 6 1 % 64 + 1)
def LdsState.kc (l : LdsState) : Nat := recB l.desc 7 1 % 64 + 1
def LdsState.gm (l : LdsState) : Nat := recB l.desc 8 3
def LdsState.gn (l : LdsState) : Nat := recB l.desc 0xC 3
def LdsState.gk (l : LdsState) : Nat := recB l.desc 0x10 3
def LdsState.tn (l : LdsState) : Nat := peCols l.loft
def LdsState.kp (l : LdsState) : Nat := kPerPass l.fmtA l.loft
def LdsState.mt (l : LdsState) : Nat := cdiv l.gm l.tm
def LdsState.nt (l : LdsState) : Nat := cdiv l.gn l.tn
def LdsState.p (l : LdsState) : Nat := cdiv l.gk l.kp
/-- u of R201. -/
def LdsState.u (l : LdsState) : Nat := if l.loft then l.tm / 8 else l.tm / 32
/-- First byte of the staging region (R197, R205). -/
def LdsState.stage (l : LdsState) : Nat := recB l.desc 0x1C 2 % 4096 * 128

/-- Round up to whole 128 B lines. -/
def lines128 (n : Nat) : Nat := cdiv n 128 * 128

/-- Bytes of an A slot and of a B slot (R205). -/
def LdsState.aSlot (l : LdsState) : Nat :=
  lines128 (panelBytes l.loft l.tm) + (if fmtMx l.fmtA then lines128 (scalePanelBytes l.loft l.tm) else 0)
def LdsState.bSlot (l : LdsState) : Nat := 4096 + (if fmtMx l.fmtB then 256 else 0)

/-- Slots of the A area and of the B area (R205): hold applies to the operand of the outer loop. -/
def LdsState.aSlots (l : LdsState) : Nat := if l.hold && l.ctl % 8 == 0 then l.p + l.kc else 2 * l.kc
def LdsState.bSlots (l : LdsState) : Nat := if l.hold && l.ctl % 8 == 1 then l.p + l.kc else 2 * l.kc

/-- Bytes of the staging region (R205). -/
def LdsState.stageLen (l : LdsState) : Nat := l.aSlots * l.aSlot + l.bSlots * l.bSlot + 8192

/-- A write into operand scratch by a program or a DMA; one into the staging region of a running LDS leaves its results
undefined (R200). -/
def State.scrWrite (s : State) (n a : Nat) (bs : List Byte) : State :=
  s.updMc n (fun m =>
    let m := m.scrPut a bs
    match m.lds with
    | some l =>
      let b := a % scratchSize
      if meets b bs.length l.stage l.stageLen || (decide (b + bs.length > scratchSize) && meets 0 (b + bs.length - scratchSize) l.stage l.stageLen)
      then { m with lds := some { l with spoiled := true } } else m
    | none => m)

/-! ### Waiters -/

/-- Take waiters that meet a test off every open record: their accesses are abandoned (R325). -/
def State.dropWaiters (s : State) (p : Waiter → Bool) : State :=
  { s with mmu := { s.mmu with recs := s.mmu.recs.map (fun r => { r with waiters := r.waiters.filter (fun w => !p w) }) } }

/-- Write the kept bytes of a run at a virtual address: no line without a kept byte is translated (R230). -/
def State.vWriteKept (s : State) (u : UnitId) (ctx part va : Nat) (bs : List Byte) (runs : List (Nat × Nat)) (who : Nat)
    (w : Option Waiter) : AccRes :=
  match runs with
  | [] => ⟨s, .done [] false⟩
  | r :: rest =>
    let a := s.vWrite u ctx part (va + r.1) ((bs.drop r.1).take r.2) who w
    match a.o with
    | .held id v => ⟨a.st, .held id v⟩
    | .done _ _ => a.st.vWriteKept u ctx part va bs rest who w

/-- Poison the lines of a run of virtual addresses that has just been written (R281, R352). -/
def State.vPoison (s : State) (u : UnitId) (ctx part va n who : Nat) : State :=
  let r := s.xlRun u ctx part va n .write
  r.st.poisonSegs part who r.segs

end Sys2Proof.Machine
end

