-- ==== Sys2Proof/Machine/MxcIssue.lean ====
section
/-! DEFINITION. Matrix instructions of the issue stage (R146-R163, R196), TTBL (R183), and the ends of a matrix program. -/

namespace Sys2Proof.Machine

/-! ### Control -/

/-- NOP (R160). -/
def execNop (mc : Fin 1920) (f : BitVec 56) (s : State) : Res := s.issue mc.val 0 (rsvd f []) true none id

/-- HALT (R162): issue stops. -/
def execHalt (mc : Fin 1920) (f : BitVec 56) (s : State) : Res :=
  s.issue mc.val 0 (rsvd f []) true none (fun s => s.updMc mc.val (fun m => { m with halted := true }))

/-- PROGRAM_COMPLETE (R162): a halted program whose work is all complete and acknowledged ends, and the core is IDLE. -/
def execProgramComplete (mc : Fin 1920) (s : State) : Res :=
  let m := s.mc mc.val
  when (m.launched && m.halted && !m.ended && s.drained mc.val && (s.getF (mxcSt mc.val) == 1 || s.getF (mxcSt mc.val) == 2)
      && !s.getB (mxcStopF mc.val)) (fun s =>
    (s.putF (mxcSt mc.val) 0).updMc mc.val (fun m => { m with ended := true })) s

/-- JMP (R162): a branch to its own address plus 8 × off. -/
def execJmp (mc : Fin 1920) (f : BitVec 56) (s : State) : Res :=
  s.issueTo mc.val 0 (rsvd f [(31, 0)]) true none id (s.pcAt mc.val + 8 * fs f 31 0)

/-- SETL (R162). -/
def execSetl (mc : Fin 1920) (f : BitVec 56) (s : State) : Res :=
  s.issue mc.val 0 (rsvd f [(55, 54), (31, 0)]) true none (fun s =>
    s.updMc mc.val (fun m => { m with loops := mset 0 m.loops (fb f 55 54) (BitVec.ofNat 32 (fb f 31 0)) }))

/-- BLOOP (R162): falls through at zero; else it counts down and branches while the result is not zero. -/
def execBloop (mc : Fin 1920) (f : BitVec 56) (s : State) : Res :=
  let l := fb f 55 54
  let c := mget 0 (s.mc mc.val).loops l
  s.issueTo mc.val 0 (rsvd f [(55, 54), (31, 0)]) true none (fun s =>
    s.updMc mc.val (fun m => { m with loops := mset 0 m.loops l (if c = 0 then 0 else c - 1) }))
    (s.pcAt mc.val + (if c = 0 ∨ c - 1 = 0 then 8 else 8 * fs f 31 0))

/-- PSYNC (R162): issues once every older instruction is complete; the fetch buffer it discards is not state of the model. -/
def execPsync (mc : Fin 1920) (f : BitVec 56) (s : State) : Res :=
  s.issue mc.val 0 (rsvd f []) (s.mc mc.val).quiet none id

/-- FCLR (R196). -/
def execFclr (mc : Fin 1920) (f : BitVec 56) (s : State) : Res :=
  s.issue mc.val 0 (rsvd f [(2, 0)]) ((s.mc mc.val).arrayQuiet && (s.mc mc.val).moverFree) none (fun s =>
    forEach ((upTo 3).filter (fun i => bit (fb f 2 0) i)) s (fun s i => s.putF ⟨mxcBase mc.val + 8, 8 + i, 1⟩ 0))

/-! ### Addresses and keys (R163) -/

/-- Write a G register. -/
def State.setG (s : State) (n g : Nat) (v : Word) : State := s.updMc n (fun m => { m with g := mset 0 m.g g v })

/-- A G register. -/
def State.gReg (s : State) (n g : Nat) : Word := mget 0 (s.mc n).g g

/-- GLI: a zero-extended immediate. -/
def execGli (mc : Fin 1920) (f : BitVec 56) (s : State) : Res :=
  s.issue mc.val 0 (rsvd f [(55, 53), (47, 0)]) true none (fun s => s.setG mc.val (fb f 55 53) (BitVec.ofNat 64 (fb f 47 0)))

/-- GADD: a sign-extended immediate, modulo 2^64. -/
def execGadd (mc : Fin 1920) (f : BitVec 56) (s : State) : Res :=
  s.issue mc.val 0 (rsvd f [(55, 53), (31, 0)]) true none (fun s =>
    s.setG mc.val (fb f 55 53) (s.gReg mc.val (fb f 55 53) + BitVec.ofInt 64 (fs f 31 0)))

/-- GLDS: 8 B from operand scratch, little-endian. -/
def execGlds (mc : Fin 1920) (f : BitVec 56) (s : State) : Res :=
  s.issue mc.val 0 (rsvd f [(55, 53), (15, 0)]) true none (fun s =>
    s.setG mc.val (fb f 55 53) (BitVec.ofNat 64 ((s.mc mc.val).scrNat (8 * fb f 15 0) 8)))

/-- ORG: the coordinate origin from Go. -/
def execOrg (mc : Fin 1920) (f : BitVec 56) (s : State) : Res :=
  s.issue mc.val 0 (rsvd f [(55, 53)]) true none (fun s =>
    let g := s.gReg mc.val (fb f 55 53)
    s.updMc mc.val (fun m => { m with orgRow := BitVec.ofNat 32 (fld g 32 32), orgCol := BitVec.ofNat 32 (fld g 0 32) }))

/-- SRSET: seed, stream and swap_key. -/
def execSrset (mc : Fin 1920) (f : BitVec 56) (s : State) : Res :=
  s.issue mc.val 0 (rsvd f [(55, 53), (52, 37), (36, 36)]) true none (fun s =>
    let g := s.gReg mc.val (fb f 55 53)
    s.updMc mc.val (fun m => { m with seed := g, stream := BitVec.ofNat 16 (fb f 52 37), swapKey := fbit f 36 }))

/-! ### Tile configuration (R152-R155) -/

/-- The configuration a TCFG names. -/
def tcfgOf (f : BitVec 56) : TileCfg :=
  ⟨fb f 51 46 + 1, fb f 45 33 + 1, BitVec.ofNat 4 (fb f 32 29), BitVec.ofNat 2 (fb f 28 27), BitVec.ofNat 2 (fb f 26 25)⟩

/-- The checks of R154 in their order: TCFG_FORMAT, TCFG_SIZE, TCFG_LAYOUT, TCFG_GROUPING. -/
def tcfgCheck (c : TileCfg) : Chk :=
  let row := c.isRow
  let mx := fmtMx c.code
  firstBad [
    (decide (c.code > 0xC) || (!row && decide (c.code > 0xB)), fltTcfgFormat, 1),
    (row && decide (c.rows * c.rs + c.sb > 4096), fltTcfgSize, 1),
    (c.layout == 1 && !(c.rows == 32 && c.cols == 32) || c.layout == 2 && !(c.rows == 8 && c.cols == 128), fltTcfgLayout, 1),
    (row && mx && c.bgrp == 0 || row && !mx && c.bgrp != 0 || !row && c.bgrp != 0, fltTcfgGrouping, 1),
    (c.bgrp == 1 && decide (c.cols % 32 ≠ 0) || c.bgrp == 2 && decide (c.rows % 32 ≠ 0), fltTcfgGrouping, 1)]

/-- TCFG (R152-R155): it waits for every earlier access of its register; its bytes stay as they are. -/
def execTcfg (mc : Fin 1920) (f : BitVec 56) (s : State) : Res :=
  let c := tcfgOf f
  let t := fb f 55 52
  s.issue mc.val 0 (rsvd f [(55, 25)] || c.layout == 3 || c.bgrp == 3) ((s.mc mc.val).tileWr t) (tcfgCheck c) (fun s =>
    s.updMc mc.val (fun m => { m with cfg := mset none m.cfg t (some c) }))

/-! ### Function tables (R141, R145, R183) -/

/-- Bytes of a function table image. -/
def tableSize : Nat := 3136

/-- Whether a table image passes the checks of R145. -/
def tableOk (bs : List Byte) : Bool :=
  let step := sext (ofLE ((bs.drop 4).take 1)) 8
  (match f32 (ofLE (bs.take 4)) with | .fin _ _ _ => true | _ => false)
    && decide (-24 ≤ step) && decide (step ≤ 8)
    && ((bs.drop 5).take 3).all (· == 0) && ((bs.drop 0x10).take 48).all (· == 0)

/-- TTBL (R183): writes the forward or the derivative table, or raises TABLE_IMAGE as a fault at issue. -/
def execTtbl (mc : Fin 1920) (f : BitVec 56) (s : State) : Res :=
  let m := s.mc mc.val
  let t := fb f 55 52
  let img := m.tileBytes t 0 tableSize
  let chk : Chk :=
    match m.cfgOf t with
    | none => some (fltUnconfigured, 1)
    | some c => firstBad [(!c.isRow || decide (c.rows * c.rs < tableSize), fltDims, 1), (!tableOk img, fltTable, 1)]
  s.issue mc.val 2 (rsvd f [(55, 52), (51, 51)]) (m.tileRd t) chk (fun s =>
    s.updMc mc.val (fun m =>
      if fbit f 51 then { m with tabDer := writeBytes m.tabDer 0 img } else { m with tabFwd := writeBytes m.tabFwd 0 img }))

/-! ### Faults of the instruction stream -/

/-- Whether an opcode is in the map of R160. -/
def opcodeOk (o : Nat) : Bool :=
  decide (o ≤ 6) || (decide (8 ≤ o) && decide (o ≤ 12)) || o == 0x10 || o == 0x11 || (decide (0x20 ≤ o) && decide (o ≤ 0x22))
    || (decide (0x30 ≤ o) && decide (o ≤ 0x34)) || o == 0x40 || o == 0x41 || (decide (0x50 ≤ o) && decide (o ≤ 0x54))
    || (decide (0x60 ≤ o) && decide (o ≤ 0x63))

/-- ILLEGAL_OPCODE (R146, R160): a word whose opcode the map does not list faults at issue. -/
def execIllegalOpcode (mc : Fin 1920) (w : Word) (s : State) : Res :=
  when (s.mcRun mc.val && !opcodeOk (fld w 56 8)) (fun s => s.issueFault mc.val fltOpcode 0 0) s

/-- FETCH_FAULT (R147): the fetch lies outside the program's space, or a fetch from memory fails: its fault is opened and the
fetch waits on it, or (poisoned data, R282) it is a MEM_FAULT. -/
def execFetchFault (mc : Fin 1920) (s : State) : Res :=
  let n := mc.val
  let m := s.mc n
  when (s.mcLive n) (fun s =>
    if m.pcOut then s.issueFault n fltFetch 6 0
    else if !s.getB (mxcSpace n) then s
    else
      let pc := s.getF (mxcPc n)
      let r := s.vRead (mcUnit n) m.ctx (s.mcPart n) pc 8 .fetch (some (.fetch n))
      match r.o with
      | .held id _ => r.st.updMc n (fun m => { m with fetchHeld := some id })
      | .done _ true => r.st.memFault n clsPoison 0 (BitVec.ofNat 64 pc)
      | .done _ false => r.st) s

end Sys2Proof.Machine
end

