-- ==== Sys2Proof/Machine/MxcMove.lean ====
section
/-! DEFINITION. Tile movement and spills of a matrix core: TLD, TST, ASPL, AFIL, their rows and acknowledgements (R164, R165, R177, R321, R322). -/

namespace Sys2Proof.Machine

/-- The rows a TLD or TST moves (R164): how many, their bytes, and where the first lies in the register's image. -/
structure MoveShape where
  rows : Nat
  bytes : Nat
  img : Nat
  deriving DecidableEq, Repr

/-- The rows of the elements, or of the scale array. -/
def moveShape (c : TileCfg) (scales : Bool) : MoveShape :=
  if !scales then ⟨c.rows, c.rs, 0⟩
  else if c.bgrp = 1 then ⟨c.rows, c.cols / 32, c.rows * c.rs⟩
  else ⟨c.rows / 32, c.cols, c.rows * c.rs⟩

/-- The checks of TLD and TST (R156, R187). -/
def moveCheck (cfg : Option TileCfg) (scales : Bool) : Chk :=
  match cfg with
  | none => some (fltUnconfigured, 1)
  | some c => firstBad [(scales && c.bgrp == 0, fltLayout, 1)]

/-- Fields of TLD and TST. -/
def moveFields : List (Nat × Nat) := [(55, 52), (51, 49), (48, 29), (28, 5), (4, 4), (3, 3), (2, 2)]

/-- base of R164 and R177: Gb + off, modulo 2^64. -/
def State.moveBase (s : State) (n g : Nat) (off : Int) : Nat := (s.gReg n g + BitVec.ofInt 64 off).toNat

/-- The address of row r. -/
def TileOp.rowAt (o : TileOp) (r : Nat) : Nat := (o.base + r * o.stride) % 2 ^ 64

/-- A new operation of the requester or the mover. -/
def State.newOp (s : State) (n : Nat) (o : TileOp) : State :=
  s.updMc n (fun m => { m with ops := m.ops ++ [{ o with id := m.nextOp }], nextOp := m.nextOp + 1 })

/-- Change an operation. -/
def State.updOp (s : State) (n id : Nat) (g : TileOp → TileOp) : State :=
  s.updMc n (fun m => { m with ops := mapWhere m.ops (fun o => o.id == id) g })

/-- An operation ends. -/
def State.endOp (s : State) (n id : Nat) : State := s.updMc n (fun m => { m with ops := m.ops.filter (fun o => o.id != id) })

/-- An operation of a core by its number. -/
def McState.opOf (m : McState) (id : Nat) : Option TileOp := m.ops.find? (fun o => o.id == id)

/-- Whether two runs of bytes share a 128 B line. -/
def sameLine (a n b k : Nat) : Bool := decide (a / 128 ≤ (b + k - 1) / 128) && decide (b / 128 ≤ (a + n - 1) / 128)

/-- Whether an older operation has still to move a line that a row touches (R165, R321). -/
def TileOp.holdsLine (o : TileOp) (a n : Nat) : Bool :=
  !o.scratch && (upTo o.rows).any (fun r => decide (o.done ≤ r) && sameLine (o.rowAt r) o.rowBytes a n)

/-- A row may be requested: no older operation of the core has the line still to move. -/
def McState.rowFree (m : McState) (o : TileOp) (a : Nat) : Bool :=
  (m.ops.takeWhile (fun x => x.id != o.id)).all (fun x => !x.holdsLine a o.rowBytes)

/-! ### TLD -/

/-- A row of a TLD has been received: the valid-row count is the lowest row not received; the TLD ends with the last (R321). -/
def TileOp.receive (o : TileOp) (r : Nat) : TileOp :=
  let got := if o.arrived.contains r then o.arrived else o.arrived ++ [r]
  let v := (upTo (o.rows + 1)).find? (fun i => decide (o.done ≤ i) && !got.contains i)
  { o with arrived := got, done := v.getD o.rows }

/-- Put a received row into the register. -/
def State.rowIn (s : State) (n : Nat) (o : TileOp) (r : Nat) (bs : List Byte) : State :=
  let o' := o.receive r
  let s := s.updMc n (fun m => m.putTile o.reg (o.img + r * o.rowBytes) bs)
  if o'.done ≥ o.rows then s.endOp n o.id else s.updOp n o.id (fun _ => o')

/-- Row r of a TLD arrives from memory or scratch. -/
def State.tldRow (s : State) (n : Nat) (o : TileOp) (r : Nat) : State :=
  let m := s.mc n
  let a := o.rowAt r
  if o.scratch then
    if m.scrBad a o.rowBytes then s.memFault n clsPoison 4 o.pc else s.rowIn n o r (m.scrRead a o.rowBytes)
  else
    let x := s.vRead (mcUnit n) m.ctx (s.mcPart n) a o.rowBytes .read (some (.tileOp n o.id))
    match x.o with
    | .held id _ => x.st.updOp n o.id (fun o => { o with held := some id })
    | .done _ true => x.st.memFault n clsPoison 4 o.pc
    | .done bs false => x.st.rowIn n o r bs

/-- The rows of a TLD from operand scratch, in order, up to one that is poisoned. -/
def State.tldRows (s : State) (n id : Nat) (rs : List Nat) : State :=
  match rs with
  | [] => s
  | r :: rest =>
    match (s.mc n).opOf id with
    | none => s
    | some o => if s.getF (mxcSt n) = 4 then s else (s.tldRow n o r).tldRows n id rest

/-- TLD (R164): from memory its rows arrive one by one; from operand scratch they are moved at issue. -/
def execTld (mc : Fin 1920) (f : BitVec 56) (s : State) : Res :=
  let n := mc.val
  let m := s.mc n
  let t := fb f 55 52
  let sc := fbit f 3
  s.issue n 4 (rsvd f moveFields || fbit f 2) (m.tileWr t) (moveCheck (m.cfgOf t) sc) (fun s =>
    match m.cfgOf t with
    | none => s
    | some c =>
      let h := moveShape c sc
      let stride := if fb f 48 29 = 0 then c.rs else fb f 48 29
      let o : TileOp :=
        ⟨0, .tld, s.reg (mxcBase n + 0x10) &&& maskW 0 48, t, fbit f 4, s.moveBase n (fb f 51 49) (fs f 28 5), stride, h.bytes, h.rows, h.img, 0, [],
         none, [], [], none, false⟩
      let s' := s.newOp n o
      if fbit f 4 then s'.tldRows n m.nextOp (upTo h.rows) else s')

/-! ### AFIL -/

/-- Tile r of an AFIL arrives (R177, R320): tiles come in order. -/
def State.afilTile (s : State) (n : Nat) (o : TileOp) : State :=
  let m := s.mc n
  let x := s.vRead (mcUnit n) m.ctx (s.mcPart n) (o.rowAt o.done) 4096 .read (some (.tileOp n o.id))
  match x.o with
  | .held id _ => x.st.updOp n o.id (fun o => { o with held := some id })
  | .done _ true => x.st.memFault n clsPoison 3 o.pc
  | .done bs false =>
    let s := x.st.updMc n (fun m => m.loadAcc (o.reg + o.done) bs o.tag)
    if o.done + 1 = o.rows then (s.endOp n o.id).updMc n (fun m => { m with guard := false })
    else s.updOp n o.id (fun o => { o with done := o.done + 1 })

/-- TILE_ROW_ARRIVAL (R165, R321): a requested row of a TLD arrives, or the next tile of an AFIL. -/
def execTileRowArrival (mc : Fin 1920) (op row : Nat) (s : State) : Res :=
  let n := mc.val
  let m := s.mc n
  .next (match m.opOf op with
    | none => s
    | some o =>
      if !s.mcWorks n then s
      else if o.kind = .tld ∧ o.done ≤ row ∧ row < o.rows ∧ m.rowFree o (o.rowAt row) = true then s.tldRow n o row
      else if o.kind = .afil ∧ o.held = none ∧ row = o.done then s.afilTile n o
      else s)

/-! ### TST and ASPL -/

/-- Rows of a run of bytes of a memory that touch a poisoned word. -/
def badRows (bad : SMap Bool) (a rowBytes rows : Nat) : List Nat :=
  (upTo rows).filter (fun r => anyBad bad (a + r * rowBytes) rowBytes)

/-- Row o.done of a TST is written to operand scratch or to memory, under its mask. -/
def State.tstRow (s : State) (n : Nat) (o : TileOp) : State :=
  let m := s.mc n
  let a := o.rowAt o.done
  let bs := (o.data.drop (o.done * o.rowBytes)).take o.rowBytes
  let keep := match o.mask with
    | none => List.replicate bs.length true
    | some u => (upTo bs.length).map (u.keepByte o.done)
  let runs := keptRuns a keep 0
  let next (s : State) : State :=
    if o.done + 1 = o.rows then s.endOp n o.id else s.updOp n o.id (fun o => { o with done := o.done + 1 })
  if o.scratch then
    next (forEach runs s (fun s r => s.scrWrite n (a + r.1) ((bs.drop r.1).take r.2)))
  else
    let x := s.vWriteKept (mcUnit n) m.ctx (s.mcPart n) a bs runs noCore (some (.tileOp n o.id))
    match x.o with
    | .held id _ => x.st.updOp n o.id (fun o => { o with held := some id })
    | .done _ _ =>
      next (if o.bad.contains o.done then forEach runs x.st (fun s r => s.vPoison (mcUnit n) m.ctx (s.mcPart n) (a + r.1) r.2 noCore) else x.st)

/-- The rows of a TST to operand scratch that waits for no mask, in order. -/
def State.tstRows (s : State) (n id k : Nat) : State :=
  match k with
  | 0 => s
  | k + 1 =>
    match (s.mc n).opOf id with
    | none => s
    | some o => (s.tstRow n o).tstRows n id k

/-- TST (R164, R165, R231): it reads its bytes at issue; its rows are written later, or at once into operand scratch. -/
def execTst (mc : Fin 1920) (f : BitVec 56) (s : State) : Res :=
  let n := mc.val
  let m := s.mc n
  let t := fb f 55 52
  let sc := fbit f 3
  s.issue n 4 (rsvd f moveFields) (m.tileRd t) (moveCheck (m.cfgOf t) sc) (fun s =>
    match m.cfgOf t with
    | none => s
    | some c =>
      let h := moveShape c sc
      let stride := if fb f 48 29 = 0 then c.rs else fb f 48 29
      let mask : Option MaskUse := if fbit f 2 then some ⟨m.maskLoads, m.mask, m.orgRow, m.orgCol, c, sc⟩ else none
      let o : TileOp :=
        ⟨0, .tst, s.reg (mxcBase n + 0x10) &&& maskW 0 48, t, fbit f 4, s.moveBase n (fb f 51 49) (fs f 28 5), stride, h.bytes, h.rows, h.img, 0, [],
         none, m.tileBytes t h.img (h.rows * h.bytes), badRows m.badTiles (4096 * t + h.img) h.bytes h.rows, mask, false⟩
      let s' := s.newOp n o
      if fbit f 4 && (!fbit f 2 || m.maskLoads == 0) then s'.tstRows n m.nextOp h.rows else s')

/-- The checks of ACLR, ASPL and AFIL (R187). -/
def accRange (an count : Nat) : Chk := firstBad [(decide (an + count > 64), fltAccRange, 4)]

/-- Fields of ASPL and AFIL. -/
def spillFields : List (Nat × Nat) := [(55, 50), (49, 47), (46, 44), (43, 20), (19, 19)]

/-- ASPL (R177): exact images of count tiles; their writes are acknowledged later. -/
def execAspl (mc : Fin 1920) (f : BitVec 56) (s : State) : Res :=
  let n := mc.val
  let m := s.mc n
  let an := fb f 55 50
  let cnt := fb f 49 47 + 1
  s.issue n 3 (rsvd f spillFields || fbit f 19) (m.accFree an cnt && m.moverFree) (accRange an cnt) (fun s =>
    let o : TileOp :=
      ⟨0, .aspl, s.reg (mxcBase n + 0x10) &&& maskW 0 48, an, false, s.moveBase n (fb f 46 44) (fs f 43 20), 4096, 4096, cnt, 0, 0, [], none,
       (upTo cnt).flatMap (fun i => m.accImage (an + i)), badRows m.badAcc (4096 * an) 4096 cnt, none, false⟩
    (s.newOp n o).updMc n (fun m => { m with guard := false }))

/-- AFIL (R177): reloads count tiles from their images; the tiles arrive one by one. -/
def execAfil (mc : Fin 1920) (f : BitVec 56) (s : State) : Res :=
  let n := mc.val
  let m := s.mc n
  let an := fb f 55 50
  let cnt := fb f 49 47 + 1
  s.issue n 3 (rsvd f spillFields) (m.accFree an cnt && m.moverFree) (accRange an cnt) (fun s =>
    s.newOp n
      ⟨0, .afil, s.reg (mxcBase n + 0x10) &&& maskW 0 48, an, false, s.moveBase n (fb f 46 44) (fs f 43 20), 4096, 4096, cnt, 0, 0, [], none, [], [],
       none, fbit f 19⟩)

/-- TILE_WRITE_ACK (R165, R322): the next row of a TST, or the next tile of an ASPL, is written at its home and acknowledged. -/
def execTileWriteAck (mc : Fin 1920) (op : Nat) (s : State) : Res :=
  let n := mc.val
  let m := s.mc n
  .next (match m.opOf op with
    | none => s
    | some o =>
      let free := m.rowFree o (o.rowAt o.done)
      let masked := match o.mask with | some u => decide (u.wait > 0) | none => false
      if s.mcWorks n && (o.kind == .tst || o.kind == .aspl) && o.held.isNone && free && !masked then s.tstRow n o else s)

end Sys2Proof.Machine
end

