-- ==== Sys2Proof/Machine/MxcAcc.lean ====
section
/-! DEFINITION. Accumulator instructions of a matrix core: ACLR, ARD, AWR and the starvation guard (R134, R135, R175, R176). -/

namespace Sys2Proof.Machine

/-- Accumulator instructions that end lift the guard of R135. -/
def State.liftGuard (s : State) (n : Nat) : State := s.updMc n (fun m => { m with guard := false })

/-- ACLR (R175): zero marks and tag of count tiles. -/
def execAclr (mc : Fin 1920) (f : BitVec 56) (s : State) : Res :=
  let n := mc.val
  let m := s.mc n
  let an := fb f 55 50
  let cnt := fb f 49 44 + 1
  s.issue n 3 (rsvd f [(55, 50), (49, 44), (43, 43)]) (m.accFree an cnt && m.moverFree) (accRange an cnt) (fun s =>
    (s.updMc n (fun m => m.clearAccs an cnt (fbit f 43))).liftGuard n)

/-- An accumulator element as a value, by the tile's tag. -/
def accVal (int : Bool) (x : Nat) : Val :=
  if int then (let v := sext x 32; .fin (decide (v < 0)) v.natAbs 0) else f32 x

/-- The checks of the window of ARD and AWR (R156, R176, R187). -/
def windowCheck (c : TileCfg) (rowoff colblk : Nat) (mxRow : Bool) : List (Bool × Nat × Nat) :=
  [(!c.isRow || (mxRow && fmtMx c.code && c.bgrp != 1), fltLayout, 1),
   (decide (32 * rowoff + 32 > c.rows) || decide (32 * colblk + 32 > c.cols), fltDims, 1)]

/-- The checks of ARD (R187). -/
def ardCheck (cfg : Option TileCfg) (int sr : Bool) (rowoff colblk : Nat) : Chk :=
  match cfg with
  | none => some (fltUnconfigured, 1)
  | some c =>
    let ok := if int then c.code == 0xC || c.code == 8 else decide (c.code ≤ 0xB)
    firstBad (windowCheck c rowoff colblk true ++ [(!ok || (sr && fmtInt c.code), fltFormat, 1)])

/-- What an ARD does to a core: the window, padding and scales it writes, and the flags it raises. -/
structure MoveRes where
  m : McState
  fl : AFlags
  deriving DecidableEq, Repr

/-- Row i of an ARD's window (R176). -/
def McState.ardRow (m : McState) (t a : Nat) (c : TileCfg) (rowoff colblk i : Nat) (sr nonsat ftz : Bool) : MoveRes :=
  let int := m.intTag a
  let r := 32 * rowoff + i
  let xs := (upTo 32).map (fun j =>
    let z := if int then (m.accAt a i j, false) else flushIn ftz 0xB (m.accAt a i j)
    (accVal int z.1, m.rndAt sr r (32 * colblk + j), z.2))
  let v := convRun c.code nonsat ftz (xs.map (fun x => (x.1, x.2.1)))
  let used := packedLen c.code c.cols
  let m := m.putTile t (r * c.rs + packedLen c.code (32 * colblk)) (packRun c.code v.codes)
  let m := m.putTile t (r * c.rs + used) (List.replicate (c.rs - used) 0)
  let m := if fmtMx c.code then m.putTile t (c.scaleAt r (32 * colblk)) (v.scales.map (BitVec.ofNat 8)) else m
  ⟨m, v.fl.or { unf := xs.any (·.2.2) }⟩

/-- ARD (R176): an accumulator tile, converted, into a window of a tile register; with clr the tile is then zero-marked. -/
def execArd (mc : Fin 1920) (f : BitVec 56) (s : State) : Res :=
  let n := mc.val
  let m := s.mc n
  let t := fb f 55 52
  let a := fb f 51 46
  let ro := fb f 45 45
  let cb := fb f 44 43
  let chk := ardCheck (m.cfgOf t) (m.intTag a) (fbit f 42) ro cb
  s.issue n 3 (rsvd f [(55, 52), (51, 46), (45, 45), (44, 43), (42, 42), (41, 41), (40, 40), (39, 39)])
      (m.tileWr t && m.accFree a 1 && m.moverFree) chk (fun s =>
    match m.cfgOf t with
    | none => s
    | some c =>
      let r := forEach (upTo 32) (⟨s.mc n, {}⟩ : MoveRes) (fun z i =>
        let y := z.m.ardRow t a c ro cb i (fbit f 42) (fbit f 41) (fbit f 40)
        ⟨y.m, z.fl.or y.fl⟩)
      let m' := if fbit f 39 then r.m.clearAcc a (r.m.intTag a) else r.m
      ((s.setMc n m').setAFlags n r.fl).liftGuard n)

/-- The checks of AWR (R187). -/
def awrCheck (cfg : Option TileCfg) (int : Bool) (rowoff colblk : Nat) : Chk :=
  match cfg with
  | none => some (fltUnconfigured, 1)
  | some c =>
    let ok := if int then c.code == 0xC else !fmtInt c.code && decide (c.code ≤ 0xB)
    firstBad (windowCheck c rowoff colblk false ++ [(!ok, fltFormat, 1)])

/-- Row i of an AWR's window, widened exactly (R176, R666). -/
def McState.awrRow (m : McState) (t a : Nat) (c : TileCfg) (rowoff colblk i : Nat) (int : Bool) : MoveRes :=
  let r := 32 * rowoff + i
  let codes := ((m.rowCodes t c r).drop (32 * colblk)).take 32
  let xs := codes.zipIdx.map (fun p => if int then (⟨p.1, {}⟩ : Src) else srcEl c.code p.1 (m.scaleOf t c r (32 * colblk + p.2)) false)
  ⟨m.putAccRow a i 0 (xs.map (·.x)), xs.foldl (fun z x => z.or x.fl) {}⟩

/-- AWR (R176): a window of a tile register into an accumulator tile, whose tag it sets and whose zero marks it clears. -/
def execAwr (mc : Fin 1920) (f : BitVec 56) (s : State) : Res :=
  let n := mc.val
  let m := s.mc n
  let t := fb f 55 52
  let a := fb f 51 46
  let ro := fb f 45 45
  let cb := fb f 44 43
  let int := fbit f 42
  s.issue n 3 (rsvd f [(55, 52), (51, 46), (45, 45), (44, 43), (42, 42)]) (m.tileRd t && m.accFree a 1 && m.moverFree)
      (awrCheck (m.cfgOf t) int ro cb) (fun s =>
    match m.cfgOf t with
    | none => s
    | some c =>
      let r := forEach (upTo 32) (⟨s.mc n, {}⟩ : MoveRes) (fun z i =>
        let y := z.m.awrRow t a c ro cb i int
        ⟨y.m, z.fl.or y.fl⟩)
      ((s.setMc n { r.m with tag := mset false r.m.tag a int }).setAFlags n r.fl).liftGuard n)

/-- ACC_STARVATION_GUARD (R135): while the array works, it starts no further pass until an accumulator instruction completes. -/
def execAccStarvationGuard (mc : Fin 1920) (s : State) : Res :=
  when (!(s.mc mc.val).arrayQuiet) (fun s => s.updMc mc.val (fun m => { m with guard := true })) s

end Sys2Proof.Machine
end

