-- ==== Sys2Proof/Machine/MxcRows.lean ====
section
/-! DEFINITION. Row-thread instructions of a matrix core: TEW, TACT, TDER, TQNT, TMSK (R139, R142-R144, R156, R178-R182). -/

namespace Sys2Proof.Machine

/-! ### Checks -/

/-- Formats that row threads read (R81, R178). -/
def rowSrcFmt (c : Nat) : Bool := c == 4 || c == 5 || c == 6 || c == 7 || c == 9 || c == 0xA || c == 0xB

/-- Formats that row threads other than TQNT write (R178). -/
def rowDstFmt (c : Nat) : Bool := c == 4 || c == 5 || c == 9 || c == 0xA || c == 0xB

/-- A tile field of a row-thread instruction: the register's configuration, its operand number, whether it is read. -/
structure RowArg where
  cfg : Option TileCfg
  op : Nat
  src : Bool
  deriving DecidableEq, Repr

/-- Whether a configured argument meets a test. -/
def RowArg.has (a : RowArg) (p : TileCfg → Bool) : Bool := match a.cfg with | some c => p c | none => false

/-- The checks of a row-thread instruction (R156, R178, R180, R187, R107) on its tile fields, destination first. -/
def rowCheck (args : List RowArg) (d a : Option TileCfg) (b : Option TileCfg) (qnt bcast sr : Bool) : Chk :=
  let unconf := args.map (fun x => (x.cfg.isNone, fltUnconfigured, x.op))
  let layout := args.map (fun x => (x.has (fun c => !c.isRow), fltLayout, x.op))
  let srcs := args.map (fun x => (x.src && x.has (fun c => !rowSrcFmt c.code), fltFormat, x.op))
  match d, a with
  | some d, some a =>
    let bbad := match b with
      | some b =>
        if bcast then !((b.rows == 1 || b.rows == a.rows) && (b.cols == 1 || b.cols == a.cols))
        else !(b.rows == a.rows && b.cols == a.cols)
      | none => false
    firstBad (unconf ++ layout ++ srcs ++
      [(if qnt then decide (d.code > 0xB) else !rowDstFmt d.code, fltFormat, 1),
       (!(d.rows == a.rows && d.cols == a.cols), fltDims, 1), (bbad, fltDims, 3),
       (qnt && fmtMx d.code && d.bgrp != 1, fltLayout, 1), (sr && fmtInt d.code, fltFormat, 1)])
  | _, _ => firstBad unconf

/-! ### Arithmetic -/

/-- A binary32 result of a row thread: invalid when a NaN comes from inputs without one, overflow when a finite result does (R111). -/
def rowRes (ins : List Val) (v : Val) : Src :=
  let r := encodeF binary32 .rne v
  ⟨r.1, { inv := v.isNan && !ins.any Val.isNan, ovf := r.2 }⟩

/-- Order of MAX and MIN: -0 is below +0 (R179). -/
def rowLe (a b : Nat) : Bool :=
  let x := f32 a
  let y := f32 b
  Val.lt x y || (Val.eqv x y && (!(x.isZero && y.isZero) || x.neg || !y.neg))

/-- The operations of TEW on binary32 codes (R179). -/
def tewOp (op a b d : Nat) : Src :=
  let x := f32 a
  let y := f32 b
  let z := f32 d
  let keep (v : Val) (c : Nat) : Src := if v.isNan then ⟨nan32, {}⟩ else ⟨c, {}⟩
  match op with
  | 0 => rowRes [x, y] (x.add y)
  | 1 => rowRes [x, y] (x.add y.opp)
  | 2 => rowRes [x, y] (x.mul y)
  | 3 => if x.isNan || y.isNan then ⟨nan32, {}⟩ else if rowLe b a then ⟨a, {}⟩ else ⟨b, {}⟩
  | 4 => if x.isNan || y.isNan then ⟨nan32, {}⟩ else if rowLe a b then ⟨a, {}⟩ else ⟨b, {}⟩
  | 5 => rowRes [x, y, z] ((x.mul y).add z)
  | 6 => keep x a
  | 7 => keep x (a % 2 ^ 31)
  | 8 => keep x (a ^^^ 2 ^ 31)
  | _ => rowRes [x] ((Val.fin false 1 0).div x)

/-- A number of a table image. -/
def tabNum (tab : Array Byte) (o : Nat) : Nat := slotAt tab o

/-- A function table as an array of bytes. -/
def McState.table (m : McState) (der : Bool) : Array Byte := (readBytes (if der then m.tabDer else m.tabFwd) 0 tableSize).toArray

/-- table_eval (R142) of a binary32 code, with the flags of R143. -/
def tableEval (tab : Array Byte) (x : Nat) : Src :=
  match f32 x with
  | .nan => ⟨nan32, {}⟩
  | .inf neg => ⟨tabNum tab (if neg then 8 else 12), {}⟩
  | .fin n m e =>
    let xv := Val.fin n m e
    let base := f32 (tabNum tab 0)
    let step := sext (byteAt tab 4) 8
    let d := xv.add base.opp
    let j := (max 0 (min 255 ((d.scale (-step)).toInt .rdn))).toNat
    let u := rne32 (d.add (Val.fin true j step))
    let c (k : Nat) : Val := f32 (tabNum tab (0x40 + 12 * j + 4 * k))
    let t := rne32 (((f32 u).mul (c 2)).add (c 1))
    let v := ((f32 u).mul (f32 t)).add (c 0)
    let r := rne32 v
    let fin (v : Val) : Bool := !v.isNan && !v.isInf
    let good := fin (c 0) && fin (c 1) && fin (c 2)
    ⟨r, { inv := good && (f32 r).isNan, ovf := good && (f32 r).isInf }⟩

/-! ### Tiles -/

/-- An operand of a row-thread instruction by row and column; a dimension of 1 is broadcast (R180). -/
structure Grid where
  rows : Array (Array Src)
  deriving DecidableEq, Repr

/-- A tile decoded to binary32. -/
def McState.grid (m : McState) (t : Nat) (c : TileCfg) (ftz : Bool) : Grid :=
  ⟨((upTo c.rows).map (fun i => (m.rowSrc t c i ftz).toArray)).toArray⟩

/-- A grid of one element. -/
def Grid.one (x : Src) : Grid := ⟨#[#[x]]⟩

/-- An element of a grid. -/
def Grid.at (g : Grid) (i j : Nat) : Src :=
  let row := (g.rows[if g.rows.size = 1 then 0 else i]?).getD #[]
  (row[if row.size = 1 then 0 else j]?).getD ⟨0, {}⟩

/-- Flags of every element of a grid. -/
def Grid.fl (g : Grid) : AFlags := g.rows.foldl (fun a r => r.foldl (fun a x => a.or x.fl) a) {}

/-- What a row-thread instruction does: the core, the flags, the saturations, the binary32 values it converted. -/
structure RowsRes where
  m : McState
  fl : AFlags
  sats : Nat
  deriving DecidableEq, Repr

/-- Convert and write every row of a destination, from the binary32 result of each element (R157, R163, R178). -/
def McState.emit (m : McState) (t : Nat) (c : TileCfg) (sr nonsat ftz : Bool) (el : Nat → Nat → Src) : RowsRes :=
  forEach (upTo c.rows) (⟨m, {}, 0⟩ : RowsRes) (fun z i =>
    let xs := (upTo c.cols).map (fun j => (el i j, m.rndAt sr i j))
    let v := convRun c.code nonsat ftz (xs.map (fun p => (f32 p.1.x, p.2)))
    ⟨z.m.putRow t c i v, (xs.foldl (fun a p => a.or p.1.fl) z.fl).or v.fl, z.sats + v.sats⟩)

/-- Put what a row-thread instruction did into the state. -/
def State.putRows (s : State) (n : Nat) (r : RowsRes) : State := (s.setMc n r.m).setAFlags n r.fl

/-- Whether TEW reads Tb (R156). -/
def tewB (f : BitVec 56) : Bool := decide (fb f 43 40 ≤ 5) && !fbit f 36

/-- TEW (R179, R180). -/
def execTew (mc : Fin 1920) (f : BitVec 56) (s : State) : Res :=
  let n := mc.val
  let m := s.mc n
  let td := fb f 55 52
  let ta := fb f 51 48
  let tb := fb f 47 44
  let op := fb f 43 40
  let ftz := fbit f 37
  let b := if tewB f then m.cfgOf tb else none
  let args := [⟨m.cfgOf td, 1, op == 5⟩, ⟨m.cfgOf ta, 2, true⟩] ++ (if tewB f then [(⟨m.cfgOf tb, 3, true⟩ : RowArg)] else [])
  s.issue n 2 (rsvd f [(55, 52), (51, 48), (47, 44), (43, 40), (39, 39), (38, 38), (37, 37), (36, 36), (35, 20)] || decide (op > 9))
      (m.tileWr td && m.tileRd ta && (!tewB f || m.tileRd tb)) (rowCheck args (m.cfgOf td) (m.cfgOf ta) b false true (fbit f 39)) (fun s =>
    match m.cfgOf td, m.cfgOf ta with
    | some d, some a =>
      let ga := m.grid ta a ftz
      let gb :=
        if fbit f 36 then Grid.one (srcEl 9 (fb f 35 20) 127 ftz)
        else match b with
          | some b => m.grid tb b ftz
          | none => Grid.one ⟨0, {}⟩
      let gd := if op = 5 then m.grid td d ftz else Grid.one ⟨0, {}⟩
      let r := m.emit td d (fbit f 39) (fbit f 38) ftz (fun i j => tewOp op (ga.at i j).x (gb.at i j).x (gd.at i j).x)
      s.putRows n { r with fl := ((r.fl.or ga.fl).or gb.fl).or gd.fl }
    | _, _ => s)

/-- TACT (R182): table_eval of the forward table. -/
def execTact (mc : Fin 1920) (f : BitVec 56) (s : State) : Res :=
  let n := mc.val
  let m := s.mc n
  let td := fb f 55 52
  let ta := fb f 51 48
  let ftz := fbit f 37
  s.issue n 2 (rsvd f [(55, 52), (51, 48), (39, 39), (38, 38), (37, 37)]) (m.tileWr td && m.tileRd ta)
      (rowCheck [⟨m.cfgOf td, 1, false⟩, ⟨m.cfgOf ta, 2, true⟩] (m.cfgOf td) (m.cfgOf ta) none false false (fbit f 39)) (fun s =>
    match m.cfgOf td, m.cfgOf ta with
    | some d, some a =>
      let ga := m.grid ta a ftz
      let tab := m.table false
      let r := m.emit td d (fbit f 39) (fbit f 38) ftz (fun i j => tableEval tab (ga.at i j).x)
      s.putRows n { r with fl := r.fl.or ga.fl }
    | _, _ => s)

/-- TDER of one element: the derivative table at x, times g, one RNE rounding (R144). -/
def tderEl (tab : Array Byte) (x g : Nat) : Src :=
  let y := tableEval tab x
  let r := rowRes [f32 y.x, f32 g] ((f32 y.x).mul (f32 g))
  ⟨r.x, y.fl.or r.fl⟩

/-- TDER (R144, R182, R225). -/
def execTder (mc : Fin 1920) (f : BitVec 56) (s : State) : Res :=
  let n := mc.val
  let m := s.mc n
  let td := fb f 55 52
  let ta := fb f 51 48
  let tb := fb f 47 44
  let ftz := fbit f 37
  s.issue n 2 (rsvd f [(55, 52), (51, 48), (47, 44), (39, 39), (38, 38), (37, 37)]) (m.tileWr td && m.tileRd ta && m.tileRd tb)
      (rowCheck [⟨m.cfgOf td, 1, false⟩, ⟨m.cfgOf ta, 2, true⟩, ⟨m.cfgOf tb, 3, true⟩] (m.cfgOf td) (m.cfgOf ta) (m.cfgOf tb) false false
        (fbit f 39)) (fun s =>
    match m.cfgOf td, m.cfgOf ta, m.cfgOf tb with
    | some d, some a, some b =>
      let ga := m.grid ta a ftz
      let gb := m.grid tb b ftz
      let tab := m.table true
      let r := m.emit td d (fbit f 39) (fbit f 38) ftz (fun i j => tderEl tab (ga.at i j).x (gb.at i j).x)
      s.putRows n { r with fl := (r.fl.or ga.fl).or gb.fl }
    | _, _, _ => s)

/-- TQNT (R182, R234): conversion with block scales, counted in overflow counter cnt. -/
def execTqnt (mc : Fin 1920) (f : BitVec 56) (s : State) : Res :=
  let n := mc.val
  let m := s.mc n
  let td := fb f 55 52
  let ta := fb f 51 48
  let ftz := fbit f 37
  s.issue n 2 (rsvd f [(55, 52), (51, 48), (43, 41), (39, 39), (38, 38), (37, 37)]) (m.tileWr td && m.tileRd ta)
      (rowCheck [⟨m.cfgOf td, 1, false⟩, ⟨m.cfgOf ta, 2, true⟩] (m.cfgOf td) (m.cfgOf ta) none true false (fbit f 39)) (fun s =>
    match m.cfgOf td, m.cfgOf ta with
    | some d, some a =>
      let ga := m.grid ta a ftz
      let r := m.emit td d (fbit f 39) (fbit f 38) ftz (fun i j => ⟨(ga.at i j).x, {}⟩)
      let xs := (upTo a.rows).flatMap (fun i => (upTo a.cols).map (fun j => (ga.at i j).x))
      let nf := (xs.filter (fun x => (f32 x).isNan || (f32 x).isInf)).length
      (s.putRows n { r with fl := r.fl.or ga.fl }).countQnt n (fb f 43 41) xs.length nf r.sats (maxExp xs) d.code
    | _, _ => s)

/-- Whether TMSK masks an element (R181). -/
def tmskMasked (mode : Nat) (off row col : Int) (b : Nat) : Bool :=
  if mode = 0 then decide (col - row > off) else if mode = 1 then decide (col - row < off) else (f32 b).isZero

/-- TMSK (R181). -/
def execTmsk (mc : Fin 1920) (f : BitVec 56) (s : State) : Res :=
  let n := mc.val
  let m := s.mc n
  let td := fb f 55 52
  let ta := fb f 51 48
  let tb := fb f 47 44
  let mode := fb f 43 42
  let args := [⟨m.cfgOf td, 1, false⟩, ⟨m.cfgOf ta, 2, true⟩] ++ (if mode = 2 then [(⟨m.cfgOf tb, 3, true⟩ : RowArg)] else [])
  let b := if mode = 2 then m.cfgOf tb else none
  s.issue n 2 (rsvd f [(55, 52), (51, 48), (47, 44), (43, 42), (41, 41), (40, 40), (31, 0)] || mode == 3)
      (m.tileWr td && m.tileRd ta && (mode != 2 || m.tileRd tb)) (rowCheck args (m.cfgOf td) (m.cfgOf ta) b false false false) (fun s =>
    match m.cfgOf td, m.cfgOf ta with
    | some d, some a =>
      let ga := m.grid ta a false
      let gb := match b with
        | some b => m.grid tb b false
        | none => Grid.one ⟨0, {}⟩
      let fill : Nat := if fbit f 41 then 0xFF80_0000 else 0
      let r := m.emit td d false (fbit f 40) false (fun i j =>
        if tmskMasked mode (fs f 31 0) (sext m.orgRow.toNat 32 + i) (sext m.orgCol.toNat 32 + j) (gb.at i j).x
        then ⟨fill, {}⟩ else ⟨(ga.at i j).x, {}⟩)
      s.putRows n { r with fl := (r.fl.or ga.fl).or gb.fl }
    | _, _ => s)

end Sys2Proof.Machine
end

