-- ==== Sys2Proof/Machine/MxcLds.lean ====
section
/-! DEFINITION. Loop descriptors (R197-R216, R220, R222): validation, loop orders, staging, groups, spills, drains. -/

namespace Sys2Proof.Machine

/-! ### Validation at issue (R213, R214) -/

/-- Loop order (R198). -/
def LdsState.order (l : LdsState) : Nat := l.ctl % 8
def LdsState.cInit (l : LdsState) : Bool := bit l.ctl 5
def LdsState.ftz (l : LdsState) : Bool := bit l.ctl 6
def LdsState.aTrans (l : LdsState) : Bool := bit l.ctl 7
def LdsState.bTrans (l : LdsState) : Bool := bit l.ctl 8
def LdsState.keepC (l : LdsState) : Bool := bit l.ctl 12
def LdsState.gmask (l : LdsState) : Bool := bit l.ctl 13
def LdsState.fmtC (l : LdsState) : Nat := recB l.desc 5 1 % 16
def LdsState.rM (l : LdsState) : Nat := recB l.desc 0x14 2
def LdsState.rN (l : LdsState) : Nat := recB l.desc 0x16 2
def LdsState.rK (l : LdsState) : Nat := recB l.desc 0x18 2
def LdsState.aLd (l : LdsState) : Nat := recB l.desc 0x50 4
def LdsState.bLd (l : LdsState) : Nat := recB l.desc 0x54 4
def LdsState.cLd (l : LdsState) : Nat := recB l.desc 0x58 4
def LdsState.asLd (l : LdsState) : Nat := recB l.desc 0x5C 4
def LdsState.bsLd (l : LdsState) : Nat := recB l.desc 0x60 4
def LdsState.blkM (l : LdsState) : Nat := recB l.desc 0x6C 2
def LdsState.blkN (l : LdsState) : Nat := recB l.desc 0x6E 2
def LdsState.wc (l : LdsState) : Nat := recB l.desc 0x70 6
/-- Address a_addr, b_addr, c_addr, as_addr, bs_addr or spill_addr by its offset. -/
def LdsState.addr (l : LdsState) (off : Nat) : Nat := recB l.desc off 6
/-- The class is integer. -/
def LdsState.int (l : LdsState) : Bool := fmtInt l.fmtA
/-- K chunks, Kc (R201). -/
def LdsState.chunks (l : LdsState) : Nat := cdiv l.p l.kc
/-- M blocks and N tiles of a super-block (R202). -/
def LdsState.sbM (l : LdsState) : Nat := if l.wc = 0 then l.mt else min l.blkM l.mt
def LdsState.sbN (l : LdsState) : Nat := if l.wc = 0 then l.nt else min l.blkN l.nt

/-- The live set L of R204. -/
def LdsState.live (l : LdsState) : Nat :=
  if l.keepC then l.sbM * l.sbN * l.u
  else if l.order ≤ 1 then 2 * l.u
  else if l.order = 2 then (l.sbN + 1) * l.u
  else if l.order = 3 then (l.sbM + 1) * l.u
  else l.sbM * l.sbN * l.u

/-- Whether two formats pair as MMA operands (R89). -/
def pairOk (a b : Nat) : Bool := (widthClass a).isSome && widthClass a == widthClass b && fmtInt a == fmtInt b

/-- Whether fmt_c obeys R211. -/
def LdsState.cOk (l : LdsState) : Bool :=
  if l.int then l.fmtC == 0xC
  else if l.cInit || l.keepC then l.fmtC == 0xB
  else l.fmtC == 4 || l.fmtC == 5 || l.fmtC == 9 || l.fmtC == 0xA || l.fmtC == 0xB

/-- The reserved bits of a loop descriptor are zero (R197, R198). -/
def LdsState.resvOk (l : LdsState) : Bool :=
  let z (off n lo : Nat) : Bool := decide (recB l.desc off n / 2 ^ lo = 0)
  z 0 4 14 && z 5 1 4 && z 6 1 6 && z 7 1 6 && z 8 4 24 && z 0xC 4 24 && z 0x10 4 24 && z 0x14 2 12 && z 0x16 2 8 && z 0x18 2 9
    && z 0x1A 1 6 && z 0x1B 1 6 && z 0x1C 2 12
    && [0x20, 0x28, 0x30, 0x38, 0x40, 0x48, 0x70].all (fun o => z o 8 48)

/-- The checks of R213; true when the descriptor breaks none. -/
def LdsState.valid (l : LdsState) : Bool :=
  let tmMax := if l.loft || widthClass l.fmtA == some 3 then 512 else 2048
  let aRow := packedLen l.fmtA (if l.aTrans then l.gm else l.gk)
  let bRow := packedLen l.fmtB (if l.bTrans then l.gn else l.gk)
  l.resvOk && decide (l.order ≤ 5) && pairOk l.fmtA l.fmtB && l.cOk && !(l.int && bit l.ctl 9)
    && decide (l.tm ≤ tmMax) && decide (1 ≤ l.gm) && decide (1 ≤ l.gn) && decide (1 ≤ l.gk)
    && decide (l.rM + (l.mt - 1) * l.tm = l.gm) && decide (l.rN + (l.nt - 1) * l.tn = l.gn) && decide (l.rK + (l.p - 1) * l.kp = l.gk)
    && decide (l.base + l.cnt ≤ 64) && (!l.loft || (decide (l.base % 4 = 0) && decide (l.cnt % 4 = 0))) && decide (l.u ≤ l.cnt)
    && (!l.hold || decide (l.order ≤ 1))
    && (!l.keepC || (decide (l.sbM * l.sbN * l.u ≤ l.cnt) && decide (l.wc = 0)))
    && (if l.wc = 0 then l.blkM == 0 && l.blkN == 0 else decide (1 ≤ l.blkM) && decide (1 ≤ l.blkN) && decide (l.wc % 32 = 0))
    && decide (aRow ≤ l.aLd) && decide (bRow ≤ l.bLd) && decide (packedLen l.fmtC l.gn ≤ l.cLd)
    && (!fmtMx l.fmtA || decide (cdiv l.gk 32 ≤ l.asLd)) && (!fmtMx l.fmtB || decide (cdiv l.gk 32 ≤ l.bsLd))
    && decide (l.stage + l.stageLen ≤ scratchSize)

/-- A loop descriptor at its start (R200, R202): without a work counter the whole problem is one super-block. -/
def ldsStart (pc : Word) (desc : Nat) (maskWait : Nat) (mask : GradMask) : LdsState :=
  let l : LdsState := ⟨pc, desc, false, 0, 0, 0, 0, 0, 0, [], 0, [], 0, [], [], none, false, none, 0, maskWait, mask, false⟩
  if l.wc = 0 then { l with active := true, mb := l.mt, nb := l.nt, noMore := true } else l

/-- LDS (R174, R200, R213, R214): LDS_DESCRIPTOR before ACC_OVERCOMMIT. -/
def execLds (mc : Fin 1920) (f : BitVec 56) (s : State) : Res :=
  let n := mc.val
  let m := s.mc n
  let l := ldsStart (s.reg (mxcBase n + 0x10) &&& maskW 0 48) (m.scrNat (128 * fb f 55 44) 128) m.maskLoads m.mask
  s.issue n 1 (rsvd f [(55, 44)]) (m.arrayQuiet && m.accFree l.base l.cnt)
    (firstBad [(!l.valid, fltLds, 0), (s.getB (mxcStrict n) && decide (l.live > l.cnt), fltOvercommit, 0)])
    (fun s => s.updMc n (fun m => { m with lds := some l }))

/-! ### Loop orders (R201-R203) -/

/-- A pass of an LDS: its output tile and its K pass. -/
structure LdsIdx where
  mi : Nat
  ni : Nat
  p : Nat
  deriving DecidableEq, Repr

/-- Passes of chunk c. -/
def LdsState.chunkLen (l : LdsState) (c : Nat) : Nat := min l.kc (l.p - c * l.kc)

/-- Passes of the super-block. -/
def LdsState.total (l : LdsState) : Nat := l.mb * l.nb * l.p

/-- The pass with index x of the super-block, in the descriptor's loop order. -/
def LdsState.idx (l : LdsState) (x : Nat) : LdsIdx :=
  let at_ (a b p : Nat) : LdsIdx := ⟨l.m0 + a, l.n0 + b, p⟩
  match l.order with
  | 0 => at_ (x / (l.nb * l.p)) (x / l.p % l.nb) (x % l.p)
  | 1 => at_ (x / l.p % l.mb) (x / (l.mb * l.p)) (x % l.p)
  | 2 =>
    let y := x % (l.nb * l.p)
    let c := y / (l.nb * l.kc)
    let z := y - c * l.nb * l.kc
    at_ (x / (l.nb * l.p)) (z / l.chunkLen c) (c * l.kc + z % l.chunkLen c)
  | 3 =>
    let y := x % (l.mb * l.p)
    let c := y / (l.mb * l.kc)
    let z := y - c * l.mb * l.kc
    at_ (z / l.chunkLen c) (x / (l.mb * l.p)) (c * l.kc + z % l.chunkLen c)
  | 4 =>
    let c := x / (l.mb * l.nb * l.kc)
    let z := x - c * l.mb * l.nb * l.kc
    at_ (z / (l.nb * l.chunkLen c)) (z / l.chunkLen c % l.nb) (c * l.kc + z % l.chunkLen c)
  | _ =>
    let c := x / (l.mb * l.nb * l.kc)
    let z := x - c * l.mb * l.nb * l.kc
    at_ (z / l.chunkLen c % l.mb) (z / (l.mb * l.chunkLen c)) (c * l.kc + z % l.chunkLen c)

/-- Valid rows, columns and k of a pass (R209). -/
def LdsState.rows (l : LdsState) (mi : Nat) : Nat := if mi + 1 = l.mt then l.rM else l.tm
def LdsState.cols (l : LdsState) (ni : Nat) : Nat := if ni + 1 = l.nt then l.rN else l.tn
def LdsState.klen (l : LdsState) (p : Nat) : Nat := if p + 1 = l.p then l.rK else l.kp

/-- What names a staged A panel: the N tile too, where the order fetches A for every N tile (R204). -/
def LdsState.aKey (l : LdsState) (x : LdsIdx) : Nat × Nat × Nat :=
  let once := (l.order == 0 && l.hold) || l.order == 2 || l.order == 4
  (x.mi, if once then 0 else x.ni, x.p)

/-- What names a staged B image. -/
def LdsState.bKey (l : LdsState) (x : LdsIdx) : Nat × Nat × Nat :=
  let once := (l.order == 1 && l.hold) || l.order == 3 || l.order == 5
  (if once then 0 else x.mi, x.ni, x.p)

/-! ### Accesses -/

/-- Change the LDS of a core. -/
def State.updLds (s : State) (n : Nat) (g : LdsState → LdsState) : State :=
  s.updMc n (fun m => { m with lds := m.lds.map g })

/-- What reading a list of rows gives. -/
inductive RowsOut where
  | got (rows : List (List Byte))
  | held (id : Word32)
  | poison
  deriving DecidableEq, Repr

/-- Read rows for an LDS. -/
def State.ldsRead (s : State) (n : Nat) (l : List (Nat × Nat)) : State × RowsOut :=
  match l with
  | [] => (s, .got [])
  | (va, len) :: rest =>
    let x := s.vRead (mcUnit n) (s.mc n).ctx (s.mcPart n) va len .read (some (.ldsOp n))
    match x.o with
    | .held id _ => (x.st, .held id)
    | .done _ true => (x.st, .poison)
    | .done bs false =>
      let r := x.st.ldsRead n rest
      (r.1, match r.2 with | .got rows => .got (bs :: rows) | o => o)

/-- An access of an LDS is held under a record, or ends in MEM_FAULT for poison (R282). -/
def State.ldsHeld (s : State) (n : Nat) (id : Word32) : State := s.updLds n (fun l => { l with held := some id })
def State.ldsPoison (s : State) (n : Nat) : State :=
  match (s.mc n).lds with
  | some l => s.memFault n clsPoison 1 l.pc
  | none => s

/-! ### Tickets (R219, R220, R222) -/

/-- Super-block rows and columns of a problem (R220). -/
def LdsState.sbRows (l : LdsState) : Nat := cdiv l.mt l.blkM
def LdsState.sbCols (l : LdsState) : Nat := cdiv l.nt l.blkN

/-- The physical address of the work-counter record, or what holds it. -/
inductive WcOut where
  | at (pa : Nat)
  | held (id : Word32)
  | noHome
  deriving DecidableEq, Repr

/-- Translate the work-counter record's address; a host page has no home store room (log entry 25). -/
def State.wcAt (s : State) (u : UnitId) (ctx part va : Nat) (w : Option Waiter) : State × WcOut :=
  let r := s.xlRun u ctx part va 32 .atomic
  match r.bad, r.segs with
  | some (a, x), _ => let f := r.st.openFault u ctx part a .atomic x w; (f.1, .held f.2)
  | none, [⟨false, pa, _⟩] => (r.st, .at pa)
  | none, _ => (r.st, .noHome)

/-- Claim the next ticket: one that the ledger gives to another core is passed over; one beyond the work ends the LDS. -/
def State.ldsClaim (s : State) (n fuel : Nat) : State :=
  match fuel with
  | 0 => s
  | k + 1 =>
    match (s.mc n).lds with
    | none => s
    | some l =>
      let w := s.wcAt (mcUnit n) (s.mc n).ctx (s.mcPart n) l.wc (some (.ldsOp n))
      match w.2 with
      | .held id => w.1.ldsHeld n id
      | .noHome => w.1.memFault n clsHostError 1 l.pc
      | .at pa =>
        let limit := ofLE (w.1.physRead (s.mcPart n) (pa + 8) 8).data
        let t := w.1.wcClaim (s.mcPart n) pa 1 (some ⟨false, n⟩)
        if t.poison then t.st.ldsPoison n
        else if t.ticket ≥ limit ∨ t.ticket ≥ l.sbRows * l.sbCols then t.st.updLds n (fun l => { l with noMore := true })
        else if t.dup then t.st.ldsClaim n k
        else t.st.updLds n (fun l => { l with nextTicket := some t.ticket })

/-- Present the ticket whose work begins, and open its super-block; a duplicate is given up. -/
def State.ldsOpen (s : State) (n t : Nat) : State :=
  match (s.mc n).lds with
  | none => s
  | some l =>
    let w := s.wcAt (mcUnit n) (s.mc n).ctx (s.mcPart n) l.wc (some (.ldsOp n))
    match w.2 with
    | .held id => w.1.ldsHeld n id
    | .noHome => w.1.memFault n clsHostError 1 l.pc
    | .at pa =>
      let r := w.1.wcPresent (s.mcPart n) pa t (some ⟨false, n⟩)
      if r.poison then r.st.ldsPoison n
      else if r.dup then r.st.updLds n (fun l => { l with nextTicket := none })
      else
        let m0 := t / l.sbCols * l.blkM
        let n0 := t % l.sbCols * l.blkN
        r.st.updLds n (fun l => { l with
          active := true, ticket := t, nextTicket := none, m0 := m0, n0 := n0, mb := min l.blkM (l.mt - m0), nb := min l.blkN (l.nt - n0),
          begun := 0, aHeld := [], bHeld := [], spilled := [] })

/-- See that a super-block is open, if there is one to open. -/
def State.ldsReady (s : State) (n : Nat) : State :=
  match (s.mc n).lds with
  | none => s
  | some l =>
    if l.active ∨ l.held ≠ none then s
    else
      let s := if l.nextTicket = none ∧ l.noMore = false then s.ldsClaim n (l.sbRows * l.sbCols + 1) else s
      match (s.mc n).lds with
      | some l => (match l.nextTicket with | some t => s.ldsOpen n t | none => s)
      | none => s

/-- The LDS is complete (R208): its last pass written back, every drain done, no further work claimed. In STORE mode its
claimed tiles are then zero-marked. -/
def State.ldsFinish (s : State) (n : Nat) : State :=
  let m := s.mc n
  match m.lds with
  | none => s
  | some l =>
    if !l.active && l.nextTicket.isNone && l.noMore && l.groups.isEmpty && m.passes.isEmpty && l.held.isNone then
      s.updMc n (fun m => { (if l.keepC then m else m.clearAccs l.base l.cnt l.int) with lds := none })
    else s

/-! ### Staging (R205, R206, R209) -/

/-- The rows that hold A(i, k) of a pass, in the stored order that a_trans names. -/
def LdsState.aRows (l : LdsState) (x : LdsIdx) : List (Nat × Nat) :=
  let k0 := x.p * l.kp
  let kn := l.klen x.p
  let i0 := x.mi * l.tm
  let rn := l.rows x.mi
  if l.aTrans then (upTo kn).map (fun k => (l.addr 0x20 + (k0 + k) * l.aLd + packedLen l.fmtA i0, packedLen l.fmtA rn))
  else (upTo rn).map (fun i => (l.addr 0x20 + (i0 + i) * l.aLd + packedLen l.fmtA k0, packedLen l.fmtA kn))

/-- The rows that hold B(k, j) of a pass. -/
def LdsState.bRows (l : LdsState) (x : LdsIdx) : List (Nat × Nat) :=
  let k0 := x.p * l.kp
  let kn := l.klen x.p
  let j0 := x.ni * l.tn
  let cn := l.cols x.ni
  if l.bTrans then (upTo kn).map (fun k => (l.addr 0x28 + (k0 + k) * l.bLd + packedLen l.fmtB j0, packedLen l.fmtB cn))
  else (upTo cn).map (fun j => (l.addr 0x28 + (j0 + j) * l.bLd + packedLen l.fmtB k0, packedLen l.fmtB kn))

/-- The rows of scale bytes of A and of B of a pass (R199). -/
def LdsState.asRows (l : LdsState) (x : LdsIdx) : List (Nat × Nat) :=
  if fmtMx l.fmtA then
    (upTo (l.rows x.mi)).map (fun i => (l.addr 0x38 + (x.mi * l.tm + i) * l.asLd + x.p * l.kp / 32, cdiv (l.klen x.p) 32))
  else []
def LdsState.bsRows (l : LdsState) (x : LdsIdx) : List (Nat × Nat) :=
  if fmtMx l.fmtB then
    (upTo (l.cols x.ni)).map (fun j => (l.addr 0x40 + (x.ni * l.tn + j) * l.bsLd + x.p * l.kp / 32, cdiv (l.klen x.p) 32))
  else []

/-- Element (i, k) of stored rows, each taken as a number: row i position k, or row k position i. -/
def storedEl (c : Nat) (rows : Array Nat) (trans : Bool) (i k : Nat) : Nat :=
  if trans then elemAt c ((rows[k]?).getD 0) i else elemAt c ((rows[i]?).getD 0) k

/-- Rows as numbers. -/
def rowNums (rows : List (List Byte)) : Array Nat := (rows.map ofLE).toArray

/-- A scale byte of stored scale rows. -/
def storedScale (rows : Array Nat) (i b : Nat) : Nat := bits ((rows[i]?).getD 0) (8 * b) 8

/-- Which slot holds a staged operand. -/
def slotOfKey (held : List (Nat × Nat × Nat × Nat)) (k : Nat × Nat × Nat) : Option Nat :=
  (held.find? (fun h => h.2 == k)).map (·.1)

/-- Stage the A panel of a pass, unless a slot holds it. -/
def State.stageA (s : State) (n : Nat) (l : LdsState) (x : LdsIdx) : State × RowsOut :=
  match slotOfKey l.aHeld (l.aKey x) with
  | some _ => (s, .got [])
  | none =>
    let a := s.ldsRead n (l.aRows x)
    match a.2 with
    | .got rows =>
      let b := a.1.ldsRead n (l.asRows x)
      match b.2 with
      | .got srows =>
        let slot := l.aNext % l.aSlots
        let at_ := l.stage + slot * l.aSlot
        let rn := l.rows x.mi
        let nums := rowNums rows
        let scs := rowNums srows
        let pan := buildPanel l.fmtA l.loft l.tm (l.klen x.p) (fun i k => if i < rn then storedEl l.fmtA nums l.aTrans i k else 0)
        let spn := if fmtMx l.fmtA then buildScalePanel l.fmtA l.loft l.tm (l.klen x.p) (fun i b => if i < rn then storedScale scs i b else 0) else []
        let s := b.1.updMc n (fun m => (m.scrPut at_ pan).scrPut (at_ + lines128 (panelBytes l.loft l.tm)) spn)
        (s.updLds n (fun l => { l with
          aHeld := l.aHeld.filter (fun h => h.1 != slot) ++ [(slot, l.aKey x)], aNext := l.aNext + 1 }), .got [])
      | o => (b.1, o)
    | _ => a

/-- Stage the B image of a pass, unless a slot holds it. -/
def State.stageB (s : State) (n : Nat) (l : LdsState) (x : LdsIdx) : State × RowsOut :=
  match slotOfKey l.bHeld (l.bKey x) with
  | some _ => (s, .got [])
  | none =>
    let a := s.ldsRead n (l.bRows x)
    match a.2 with
    | .got rows =>
      let b := a.1.ldsRead n (l.bsRows x)
      match b.2 with
      | .got srows =>
        let slot := l.bNext % l.bSlots
        let at_ := l.stage + l.aSlots * l.aSlot + slot * l.bSlot
        let cn := l.cols x.ni
        let nums := rowNums rows
        let scs := rowNums srows
        let img := buildImage l.fmtB l.loft cn (l.klen x.p) (fun k j => storedEl l.fmtB nums l.bTrans j k)
        let sim := if fmtMx l.fmtB then buildScaleImage l.fmtB l.loft cn (l.klen x.p) (storedScale scs) else []
        let s := b.1.updMc n (fun m => (m.scrPut at_ img).scrPut (at_ + 4096) sim)
        (s.updLds n (fun l => { l with
          bHeld := l.bHeld.filter (fun h => h.1 != slot) ++ [(slot, l.bKey x)], bNext := l.bNext + 1 }), .got [])
      | o => (b.1, o)
    | _ => a

/-- The group that holds an output tile. -/
def LdsState.groupOf (l : LdsState) (mi ni : Nat) : Option LdsGroup := l.groups.find? (fun g => g.mi == mi && g.ni == ni)

/-- First accumulator tile of a slot of u claimed tiles. -/
def LdsState.tileOf (l : LdsState) (slot : Nat) : Nat := l.base + slot * l.u

/-- Begin the next pass of an LDS: its operands are staged, its output tile is resident. -/
def State.ldsPass (s : State) (n : Nat) : State :=
  match (s.mc n).lds with
  | none => s
  | some l =>
    if !l.active || l.held.isSome then s
    else
      let x := l.idx l.begun
      match l.groupOf x.mi x.ni with
      | none => s
      | some g =>
        let a := s.stageA n l x
        match a.2 with
        | .held id => a.1.ldsHeld n id
        | .poison => a.1.ldsPoison n
        | .got _ =>
          let b := a.1.stageB n l x
          match b.2 with
          | .held id => b.1.ldsHeld n id
          | .poison => b.1.ldsPoison n
          | .got _ =>
            match (b.1.mc n).lds with
            | none => b.1
            | some l =>
              let m := b.1.mc n
              let aAt := l.stage + ((slotOfKey l.aHeld (l.aKey x)).getD 0) * l.aSlot
              let bAt := l.stage + l.aSlots * l.aSlot + ((slotOfKey l.bHeld (l.bKey x)).getD 0) * l.bSlot
              let p : ArrayPass :=
                ⟨true, l.pc, l.loft, l.fmtA, l.fmtB, l.ftz, l.rows x.mi, l.cols x.ni, l.klen x.p, l.tileOf g.slot, x.mi, x.ni,
                 m.scrRead aAt (panelBytes l.loft l.tm), m.scrRead bAt 4096,
                 m.scrRead (aAt + lines128 (panelBytes l.loft l.tm)) (scalePanelBytes l.loft l.tm), m.scrRead (bAt + 4096) 256,
                 decide (x.p + 1 = l.p)⟩
              let lastLen := l.chunkLen (l.chunks - 1)
              let claims := decide (l.wc ≠ 0) && decide (l.begun + lastLen = l.total)
              let s := b.1.updMc n (fun m => { m with
                passes := m.passes ++ [p]
                lds := some { l with
                  begun := l.begun + 1, active := decide (l.begun + 1 < l.total), clock := l.clock + 1
                  groups := mapWhere l.groups (fun g => g.mi == x.mi && g.ni == x.ni) (fun g => { g with stamp := l.clock }) } })
              if claims then s.ldsClaim n (l.sbRows * l.sbCols + 1) else s

/-! ### Groups and spills (R215, R216) -/

/-- The spill image of an output tile within the super-block (R216). -/
def LdsState.spillAt (l : LdsState) (mi ni : Nat) : Nat := l.addr 0x48 + ((mi - l.m0) * l.nb + (ni - l.n0)) * l.u * 4096

/-- The output tile that the LDS prepares: that of its next pass, else of the visit after it. -/
def LdsState.needs (l : LdsState) : Option (Nat × Nat) :=
  if !l.active then none
  else
    let x := l.idx l.begun
    if (l.groupOf x.mi x.ni).isNone then some (x.mi, x.ni)
    else
      let rest := (upTo l.kc).map (fun i => l.begun + 1 + i)
      ((rest.filter (fun i => decide (i < l.total))).map l.idx).findSome? (fun y =>
        if (l.groupOf y.mi y.ni).isNone then some (y.mi, y.ni) else none)

/-- The slot for an output tile: its own in KEEP mode (R210), a free one, or that of the least recently used group that holds
no draining tile, has no pass in the array and is not the next pass's. -/
inductive SlotOut where
  | free (slot : Nat)
  | victim (g : LdsGroup)
  | none
  deriving DecidableEq, Repr

/-- Choose a slot. -/
def LdsState.slotFor (l : LdsState) (passes : List ArrayPass) (mi ni : Nat) : SlotOut :=
  if l.keepC then .free (mi * l.nt + ni)
  else
    match (upTo (l.cnt / l.u)).find? (fun k => !l.groups.any (fun g => g.slot == k)) with
    | some k => .free k
    | none =>
      let x := l.idx l.begun
      let cand := l.groups.filter (fun g =>
        !g.draining && !passes.any (fun p => p.lds && p.mi == g.mi && p.ni == g.ni) && !(g.mi == x.mi && g.ni == x.ni))
      match cand with
      | [] => .none
      | c :: cs => .victim (cs.foldl (fun b g => if g.stamp < b.stamp then g else b) c)

/-- Write a run of images for a spill, tile by tile. -/
def State.ldsSpillOut (s : State) (n : Nat) (l : LdsState) (g : LdsGroup) (k : Nat) : State × Bool :=
  match k with
  | 0 => (s, true)
  | j + 1 =>
    let i := l.u - k
    let x := s.vWrite (mcUnit n) (s.mc n).ctx (s.mcPart n) (l.spillAt g.mi g.ni + 4096 * i) ((s.mc n).accImage (l.tileOf g.slot + i)) noCore
      (some (.ldsOp n))
    match x.o with
    | .held id _ => (x.st.ldsHeld n id, false)
    | .done _ _ => x.st.ldsSpillOut n l g j

/-- The valid rows of C that an output tile holds: address and bytes of each (R199, R211). -/
def LdsState.cRows (l : LdsState) (mi ni : Nat) : List (Nat × Nat) :=
  (upTo (l.rows mi)).map (fun i =>
    (l.addr 0x30 + (mi * l.tm + i) * l.cLd + packedLen l.fmtC (ni * l.tn), packedLen l.fmtC (l.cols ni)))

/-- Put stored values of C into the accumulator tiles of a slot. -/
def McState.loadC (m : McState) (l : LdsState) (tile : Nat) (rows : List (List Byte)) : McState :=
  forEach rows.zipIdx m (fun m r =>
    let vs := unpackRun l.fmtC (r.1.length / 4) r.1
    forEach vs.zipIdx m (fun m v => m.putAcc (passTile l.loft tile r.2 v.2) (r.2 % 32) (v.2 % 32) v.1))

/-- Load an output tile into a free slot: reloaded from its spill image, zero-marked, or C's stored values (R215). -/
def State.ldsLoad (s : State) (n : Nat) (l : LdsState) (slot mi ni : Nat) : State :=
  let t := l.tileOf slot
  let enter (s : State) (sp : List (Nat × Nat)) : State :=
    s.updLds n (fun l => { l with groups := l.groups ++ [⟨slot, mi, ni, false, l.clock⟩], spilled := sp, clock := l.clock + 1 })
  if l.spilled.contains (mi, ni) then
    let r := s.ldsRead n ((upTo l.u).map (fun i => (l.spillAt mi ni + 4096 * i, 4096)))
    match r.2 with
    | .held id => r.1.ldsHeld n id
    | .poison => r.1.ldsPoison n
    | .got rows =>
      enter (r.1.updMc n (fun m => forEach rows.zipIdx m (fun m b => m.loadAcc (t + b.2) b.1 l.int))) (l.spilled.filter (fun z => z != (mi, ni)))
  else if l.cInit then
    let r := s.ldsRead n (l.cRows mi ni)
    match r.2 with
    | .held id => r.1.ldsHeld n id
    | .poison => r.1.ldsPoison n
    | .got rows => enter (r.1.updMc n (fun m => (m.clearAccs t l.u l.int).loadC l t rows)) l.spilled
  else enter (s.updMc n (fun m => m.clearAccs t l.u l.int)) l.spilled

/-- Whether the array may go on with its work: no stop is asked for, and the core runs or faulted at issue (R189, R190). -/
def State.arrayGoes (s : State) (n : Nat) : Bool := s.mcWorks n && !s.getB (mxcStopF n)

/-- LDS_SPILL (R215): a group is freed for the next output tile that is not resident, and the tile is loaded. -/
def execLdsSpill (mc : Fin 1920) (s : State) : Res :=
  let n := mc.val
  when (s.arrayGoes n) (fun s =>
    let s := s.ldsReady n
    match (s.mc n).lds with
    | none => s
    | some l =>
      if l.held.isSome then s
      else
        match l.needs with
        | none => s.ldsFinish n
        | some (mi, ni) =>
          let s := s.liftGuard n
          match l.slotFor (s.mc n).passes mi ni with
          | .none => s
          | .free k => s.ldsLoad n l k mi ni
          | .victim g =>
            let r := s.ldsSpillOut n l g l.u
            if !r.2 then r.1
            else
              let s := r.1.updLds n (fun l => { l with groups := l.groups.filter (fun h => h != g), spilled := l.spilled ++ [(g.mi, g.ni)] })
              match (s.mc n).lds with
              | some l => s.ldsLoad n l g.slot mi ni
              | none => s) s

/-! ### Drains (R210-R212, R228) -/

/-- Row i of an output tile converted to C's format, its flags, and the elements that the mask keeps. -/
def State.drainRow (s : State) (n : Nat) (l : LdsState) (g : LdsGroup) (i : Nat) : List Byte × AFlags × List Bool :=
  let m := s.mc n
  let cn := l.cols g.ni
  let row := recB l.desc 0x64 4 + g.mi * l.tm + i
  let col (j : Nat) := recB l.desc 0x68 4 + g.ni * l.tn + j
  let sr := bit l.ctl 9
  let xs := (upTo cn).map (fun j =>
    let a := m.accAt (passTile l.loft (l.tileOf g.slot) i j) (i % 32) (j % 32)
    let z := if l.int then (a, false) else flushIn l.ftz 0xB a
    (accVal l.int z.1, (if sr then srRnd (recB l.desc 0x78 8) (recB l.desc 0x1E 2) row (col j) (bit l.ctl 11) else Rnd.rne), z.2))
  let v := convRun l.fmtC (bit l.ctl 10) l.ftz (xs.map (fun x => (x.1, x.2.1)))
  let w := fmtBits l.fmtC / 8
  (packRun l.fmtC v.codes, v.fl.or { unf := xs.any (·.2.2) },
   (upTo (cn * w)).map (fun b => !l.gmask || l.mask.keeps row (col (b / w))))

/-- Write the rows of a drained tile to C. -/
def State.drainRows (s : State) (n : Nat) (l : LdsState) (g : LdsGroup) (rows : List ((Nat × Nat) × Nat)) : State × Bool :=
  match rows with
  | [] => (s, true)
  | r :: rest =>
    let d := s.drainRow n l g r.2
    let x := s.vWriteKept (mcUnit n) (s.mc n).ctx (s.mcPart n) r.1.1 d.1 (keptRuns r.1.1 d.2.2 0) noCore (some (.ldsOp n))
    match x.o with
    | .held id _ => (x.st.ldsHeld n id, false)
    | .done _ _ => (x.st.setAFlags n d.2.1).drainRows n l g rest

/-- The drain area of the staging region holds converted tiles whose layout the spec does not state: free values (log entry 24). -/
def State.freeDrain (s : State) (n : Nat) (l : LdsState) : State :=
  let z := s.freeBytes 8192
  z.1.updMc n (fun m => m.scrPut (l.stage + l.aSlots * l.aSlot + l.bSlots * l.bSlot) z.2)

/-- LDS_DRAIN (R210): the oldest output tile whose last pass is written back is written to C, its tiles zero-marked and free;
in KEEP mode it stays. -/
def execLdsDrain (mc : Fin 1920) (s : State) : Res :=
  let n := mc.val
  when (s.arrayGoes n) (fun s =>
    match (s.mc n).lds with
    | none => s
    | some l =>
      if l.held.isSome then s
      else
        match l.groups.find? (·.draining) with
        | none => s
        | some g =>
          let out (s : State) : State := (s.updLds n (fun l => { l with groups := l.groups.filter (fun h => h != g) })).ldsFinish n
          if l.keepC then out s
          else if l.gmask && decide (l.maskWait > 0) then s
          else
            let s := (s.liftGuard n).freeDrain n l
            let r := s.drainRows n l g (l.cRows g.mi g.ni).zipIdx
            if !r.2 then r.1 else out (r.1.updMc n (fun m => m.clearAccs (l.tileOf g.slot) l.u l.int))) s

end Sys2Proof.Machine
end

