-- ==== Sys2Proof/Machine/MxcArray.lean ====
section
/-! DEFINITION. MMA and the passes of the array (R127, R128, R151, R167-R173, R187). -/

namespace Sys2Proof.Machine

/-! ### MMA -/

/-- A 4 B or 2 B field of a problem record. -/
def MmaJob.w (j : MmaJob) (off : Nat) : Nat := recB j.rcd off 4
def MmaJob.h (j : MmaJob) (off : Nat) : Nat := recB j.rcd off 2

/-- The operand streams of an MMA (R168), as base, steps with their counts, size and alignment: those the MMA reads. -/
def MmaJob.streams (j : MmaJob) : List (Nat × List (Nat × Nat) × Nat × Nat) :=
  let a := [(j.w 0xC, [(j.w 0x10, j.p), (j.w 0x14, j.batch)], panelBytes j.loft j.m, 128)]
  let b := if j.tile.isSome then [] else [(j.w 0x18, [(j.w 0x1C, j.p), (j.w 0x20, j.nt), (j.w 0x24, j.batch)], 4096, 128)]
  let sa := if fmtMx j.fmtA then [(j.w 0x28, [(j.w 0x2C, j.p), (j.w 0x30, j.batch)], scalePanelBytes j.loft j.m, 128)] else []
  let sb := if fmtMx j.fmtB then
    [(j.w 0x34, [(32 * j.h 0x38, j.p), (32 * j.h 0x3A, j.nt), (32 * j.h 0x3C, j.batch)], 256, 32)] else []
  a ++ b ++ sa ++ sb

/-- Whether a problem record breaks R167 or a stream leaves operand scratch (R187). -/
def MmaJob.badRecord (j : MmaJob) : Bool :=
  let mMax := if j.loft || widthClass j.fmtA == some 3 then 512 else 2048
  !(decide (1 ≤ j.m) && decide (j.m ≤ mMax) && decide (1 ≤ j.n) && decide (j.n ≤ 2048) && decide (1 ≤ j.k) && decide (1 ≤ j.batch)
      && decide (j.batch ≤ 64) && decide (recB j.rcd 7 1 = 0) && decide (j.h 0xA = 0) && decide (j.h 0x3E = 0))
    || j.streams.any (fun t =>
        decide (t.1 % t.2.2.2 ≠ 0) || t.2.1.any (fun q => decide (q.1 % t.2.2.2 ≠ 0))
          || decide (t.1 + t.2.1.foldl (fun z q => z + q.1 * (q.2 - 1)) 0 + t.2.2.1 > scratchSize))

/-- The checks of MMA (R98, R156, R170, R171, R187). -/
def McState.mmaCheck (m : McState) (j : MmaJob) (init inRange : Bool) : Chk :=
  let cfg := match j.tile with | some t => m.cfgOf t | none => none
  let has (p : TileCfg → Bool) : Bool := match cfg with | some c => p c | none => false
  firstBad [
    (j.tile.isSome && cfg.isNone, fltUnconfigured, 0),
    (!pairOk j.fmtA j.fmtB, fltFormat, 0),
    (!inRange || j.badRecord, fltRecord, 5),
    (decide (j.abase + j.tiles > 64) || (j.loft && decide (j.abase % 4 ≠ 0)), fltAccRange, 4),
    (!init && (upTo j.tiles).any (fun i => m.intTag (j.abase + i) != fmtInt j.fmtA), fltAccFormat, 4),
    (has (fun c => c.layout != (if j.loft then 2 else 1)), fltLayout, 0),
    (has (fun c => c.code != j.fmtB) || (j.tile.isSome && (decide (j.batch ≠ 1) || decide (j.n > peCols j.loft) || decide (j.k > j.kp))), fltDims, 0)]

/-- MMA (R168, R171): its passes are queued on the array; with init 1 its accumulator tiles are cleared and tagged. -/
def execMma (mc : Fin 1920) (f : BitVec 56) (s : State) : Res :=
  let n := mc.val
  let m := s.mc n
  let at_ := 32 * fb f 55 42
  let bsrc := fbit f 32
  let init := fbit f 34
  let j : MmaJob :=
    ⟨s.reg (mxcBase n + 0x10) &&& maskW 0 48, m.scrNat at_ 64, fb f 41 36, fbit f 35, fbit f 33,
     if bsrc then some (fb f 31 28) else none, fb f 27 24, fb f 23 20, 0, 0⟩
  let k := min j.tiles 64
  let accepts := m.lds.isNone && m.jobs.all (fun o => decide (o.begun = o.total))
  let tilesFree := !m.ops.any (fun o => o.onAcc j.abase k)
    && (!init || !(upTo k).any (fun i => m.jobs.any (fun o => o.uses (j.abase + i))))
  s.issue n 1 (rsvd f [(55, 42), (41, 36), (35, 35), (34, 34), (33, 33), (32, 32), (31, 28), (27, 24), (23, 20)])
    (accepts && tilesFree && (!bsrc || m.tileRd (fb f 31 28))) (m.mmaCheck j init (decide (at_ + 64 ≤ scratchSize)))
    (fun s => s.updMc n (fun m =>
      { (if init then m.clearAccs j.abase j.tiles (fmtInt j.fmtA) else m) with jobs := m.jobs ++ [j] }))

/-- The next pass of an MMA with the operands it streams (R168-R170). -/
def McState.mmaPass (m : McState) (j : MmaJob) : ArrayPass :=
  let x := j.begun
  let p := x % j.p
  let nt := x / j.p % j.nt
  let b := x / (j.p * j.nt)
  let bAt := j.w 0x18 + p * j.w 0x1C + nt * j.w 0x20 + b * j.w 0x24
  let img := match j.tile with | some t => m.tileBytes t 0 4096 | none => m.scrRead bAt 4096
  ⟨false, j.pc, j.loft, j.fmtA, j.fmtB, j.ftz, j.m, min (peCols j.loft) (j.n - nt * peCols j.loft), min j.kp (j.k - p * j.kp),
   j.abase + j.sq * (b * j.mt * j.nt + nt * j.mt), b, nt,
   m.scrRead (j.w 0xC + p * j.w 0x10 + b * j.w 0x14) (panelBytes j.loft j.m), img,
   m.scrRead (j.w 0x28 + p * j.w 0x2C + b * j.w 0x30) (scalePanelBytes j.loft j.m),
   m.scrRead (j.w 0x34 + 32 * (p * j.h 0x38 + nt * j.h 0x3A + b * j.h 0x3C)) 256, decide (x + 1 = j.total)⟩

/-- Begin the next pass of the oldest MMA that has one left. -/
def State.mmaBegin (s : State) (n : Nat) (j : MmaJob) : State :=
  s.updMc n (fun m => { m with
    passes := m.passes ++ [m.mmaPass j]
    jobs := mapWhere m.jobs (fun o => o == j) (fun o => { o with begun := o.begun + 1 }) })

/-- Whether a pass of a form and slot length may follow those in the chain (R128): the chain holds at most two passes, and of
one form and slot length. -/
def McState.mayFollow (m : McState) (loft : Bool) (fmt : Nat) : Bool :=
  match m.passes with
  | [] => true
  | [p] => p.loft == loft && (widthClass p.fmtA == some 3) == (widthClass fmt == some 3)
  | _ => false

/-- ARRAY_PASS_START (R128, R206): the next pass of the oldest MMA, or of the LDS, enters the array. -/
def execArrayPassStart (mc : Fin 1920) (s : State) : Res :=
  let n := mc.val
  when (s.arrayGoes n && !(s.mc n).guard) (fun s =>
    let m := s.mc n
    match m.jobs.find? (fun j => decide (j.begun < j.total)) with
    | some j => if m.mayFollow j.loft j.fmtA then s.mmaBegin n j else s
    | none =>
      match m.lds with
      | none => s
      | some l => if m.mayFollow l.loft l.fmtA then ((s.ldsReady n).ldsPass n).ldsFinish n else s) s

/-! ### Write-back -/

/-- The elements of a pass: row, column. -/
def ArrayPass.cells (p : ArrayPass) : List (Nat × Nat) := (upTo p.m).flatMap (fun i => (upTo p.ncols).map (fun j => (i, j)))

/-- The accumulators after a pass, with its flags (R127, R169). -/
def McState.runPass (m : McState) (p : ArrayPass) : MoveRes :=
  let o := p.ops
  forEach p.cells ⟨m, {}⟩ (fun z c =>
    let t := passTile p.loft p.tile c.1 c.2
    let r := passEl o p c.1 c.2 (m.accAt t (c.1 % 32) (c.2 % 32))
    ⟨z.m.putAcc t (c.1 % 32) (c.2 % 32) r.1, z.fl.or r.2⟩)

/-- The accumulators after a pass whose staged operands software has overwritten: undefined, so free values (R200, log entry 1). -/
def State.freePass (s : State) (n : Nat) (p : ArrayPass) : State :=
  forEach p.cells s (fun s c =>
    (s.tickFree).updMc n (fun m => m.putAcc (passTile p.loft p.tile c.1 c.2) (c.1 % 32) (c.2 % 32) (s.freshVal.toNat % 2 ^ 32)))

/-- ARRAY_PASS_COMPLETE (R173): the oldest pass in the chain is written back; the MMA whose last pass it is completes; an LDS
output tile whose last pass it is drains (R210). -/
def execArrayPassComplete (mc : Fin 1920) (s : State) : Res :=
  let n := mc.val
  .next (match (s.mc n).passes with
    | [] => s
    | p :: rest =>
      let spoiled := p.lds && (match (s.mc n).lds with | some l => l.spoiled | none => false)
      let r := (s.mc n).runPass p
      let s := if spoiled then s.freePass n p else (s.setMc n r.m).setAFlags n r.fl
      let s := s.updMc n (fun m => { m with passes := rest })
      if p.lds then
        (s.updLds n (fun l => if p.last then
          { l with groups := mapWhere l.groups (fun g => g.mi == p.mi && g.ni == p.ni) (fun g => { g with draining := true }) } else l)).ldsFinish n
      else
        s.updMc n (fun m => { m with jobs :=
          (match m.jobs with
            | j :: js => if j.ended + 1 = j.total then js else { j with ended := j.ended + 1 } :: js
            | [] => []) }))

end Sys2Proof.Machine
end

