-- ==== Sys2Proof/Machine/MxcSync.lean ====
section
/-! DEFINITION. Sync instructions of a matrix core (R184, R185, R362, R363, R375, R376) and its control commands (R189-R193, R241). -/

namespace Sys2Proof.Machine

/-! ### Errors of sync instructions -/

/-- Clear the pending mark of a counter of a core (R363). -/
def State.clearPend (s : State) (k n : Nat) : State :=
  let c := s.syncOf k
  let s := s.setSync k { c with pend := c.pend.filter (fun x => x != n) }
  let e : RF := ⟨synKey k + 0x10, 8, 1⟩
  if s.getF ⟨synKey k + 0x10, 0, 5⟩ = n then s.putF e 0 else s

/-- Whether an error is pending on a counter of a core. -/
def State.pendOn (s : State) (k n : Nat) : Bool := (s.syncOf k).pend.contains n

/-- Record an error of a sync instruction in SYN_ERR (R387). -/
def State.synErr (s : State) (k counter cause barrier : Nat) : State :=
  s.setReg (synKey k + 0x10) (errWord counter cause false barrier)

/-- The sync key of a matrix core. -/
def mcKey (n : Nat) : Nat := coreKey ⟨false, n⟩

/-- What a sync instruction does once its older work is done: nothing yet, a fault with the state that records it, or an effect. -/
inductive SyncDo where
  | hold (s : State)
  | fault (s : State) (code : Nat)
  | done (s : State)
  deriving DecidableEq, Repr

/-- Issue a sync instruction of a matrix core. -/
def State.issueSync (s : State) (n : Nat) (rsv ready : Bool) (act : State → SyncDo) : Res :=
  .next (
    if !s.mcRun n then s
    else if rsv then s.issueFault n fltEncoding 0 0
    else if !ready then s
    else
      match act s with
      | .hold s => if (s.syncOf (mcKey n)).want.isSome then s.putF (mxcSt n) 2 else s
      | .fault s code => s.issueFault n code 0 0
      | .done s =>
        let s := s.setSync (mcKey n) { s.syncOf (mcKey n) with want := none, stall := none, idle := false }
        (s.putF (mxcSt n) 1).goTo n (s.pcAt n + 8))

/-- An own addition (R362, R363). -/
def State.ownAdd (s : State) (k n : Nat) (x : Int) : SyncDo :=
  if s.pendOn k n then .fault (s.clearPend k n) fltSync
  else
    match (s.coreView k).own n x with
    | .done v => .done (s.putView k v)
    | .error cause => .fault (s.synErr k n cause 0) fltSync

/-- A wait on an own counter (R184, R361, R363). -/
def State.ownWait (s : State) (k n x : Nat) : SyncDo :=
  if s.pendOn k n then .fault (s.clearPend k n) fltSync
  else
    let c := s.syncOf k
    if c.val n ≥ x then .done (s.setSync k (c.setVal n (c.val n - x)))
    else .hold (s.setSync k { c with want := some (n, x) })

/-- An entry into a barrier (R363, R375, R376). -/
def State.ownBar (s : State) (core : CoreName) (bid n : Nat) : SyncDo :=
  let k := coreKey core
  if s.pendOn k n then .fault (s.clearPend k n) fltSync
  else
    match s.barEnter core (s.cellPart (coreCell core)) bid n with
    | .entered s => .done s
    | .stalled => .hold (s.setSync k { s.syncOf k with stall := some bid })
    | .error cause => .fault (s.synErr k 0 cause bid) fltSync

/-- A signal to a named core: SYNC_TARGET for one outside the partition (R184). -/
def State.ownSig (s : State) (core target : CoreName) (sn : Fin 32) (x : BitVec 16) : SyncDo :=
  let k := coreKey core
  let p := s.cellPart (coreCell core)
  if target = core ∧ s.pendOn k sn.val = true then .fault (s.clearPend k sn.val) fltSync
  else if s.inPartition target p then .done (s.sendSignal ⟨core, target, sn, x, Fin.ofNat 16 p, false⟩)
  else .fault s fltTarget

/-- SADD (R184, R185): takes effect once every older instruction is complete and its writes and descriptors are done. -/
def execSadd (mc : Fin 1920) (f : BitVec 56) (s : State) : Res :=
  s.issueSync mc.val (rsvd f [(55, 51), (15, 0)]) (s.drained mc.val) (fun s => s.ownAdd (mcKey mc.val) (fb f 55 51) (fs f 15 0))

/-- SWAIT (R184): holds issue, in state WAIT, until the counter has the value. -/
def execSwait (mc : Fin 1920) (f : BitVec 56) (s : State) : Res :=
  s.issueSync mc.val (rsvd f [(55, 51), (15, 0)]) true (fun s => s.ownWait (mcKey mc.val) (fb f 55 51) (fb f 15 0))

/-- SSIG (R184, R185, R365). -/
def execSsig (mc : Fin 1920) (f : BitVec 56) (s : State) : Res :=
  s.issueSync mc.val (rsvd f [(55, 51), (50, 50), (49, 39), (15, 0)]) (s.drained mc.val) (fun s =>
    s.ownSig ⟨false, mc.val⟩ ⟨fbit f 50, fb f 49 39⟩ (Fin.ofNat 32 (fb f 55 51)) (BitVec.ofNat 16 (fb f 15 0)))

/-- SBAR (R184, R375). -/
def execSbar (mc : Fin 1920) (f : BitVec 56) (s : State) : Res :=
  s.issueSync mc.val (rsvd f [(55, 46), (45, 41)]) (s.drained mc.val) (fun s => s.ownBar ⟨false, mc.val⟩ (fb f 55 46) (fb f 45 41))

/-! ### Stop, resume, counters (R189-R193, R241) -/

/-- Ask a core to stop. -/
def State.mxcStop (s : State) (n : Nat) : State := s.putF (mxcStopF n) 1

/-- A part-done operation whose held access is abandoned: it goes on from its valid-row count (R321, R325). -/
def TileOp.abandon (o : TileOp) : TileOp := if o.held.isSome then { o with held := none, arrived := [] } else o

/-- Abandon the accesses of a core that fault service holds; their records stay open (R325). -/
def State.abandonMc (s : State) (n : Nat) : State :=
  let s := s.updMc n (fun m => { m with
    ops := m.ops.map TileOp.abandon
    lds := m.lds.map (fun l => { l with held := none })
    fetchHeld := none })
  s.dropWaiters (fun w => match w with
    | .tileOp c _ => c == n
    | .ldsOp c => c == n
    | .fetch c => c == n
    | _ => false)

/-- Every unit of a stopping core has finished (R190). -/
def State.mxcSettled (s : State) (n : Nat) : Bool := (s.mc n).passes.isEmpty

/-- A core enters STOPPED; a wait that held issue has not issued (R191). -/
def State.mxcEnterStopped (s : State) (n : Nat) : State :=
  let s := s.abandonMc n
  let s := s.setSync (mcKey n) { s.syncOf (mcKey n) with want := none, stall := none, idle := false }
  s.putF (mxcSt n) 3

/-- A stop is taken back: a stopped core resumes, one that runs no program is idle (R193). -/
def State.mxcRelease (s : State) (n : Nat) : State :=
  let s := s.putF (mxcStopF n) 0
  if s.getF (mxcSt n) = 3 then s.putF (mxcSt n) (if (s.mc n).launched && !(s.mc n).ended then 1 else 0) else s

/-- Resume a core in FAULT: MXC_FAULT is cleared; ignored in any other state (R189, R193, R195). -/
def State.mxcResume (s : State) (n : Nat) : State :=
  if s.getF (mxcSt n) = 4 then (s.setReg (mxcBase n + 0x18) 0).putF (mxcSt n) 1 else s

/-- MXC_STOP (R190). -/
def execMxcStop (mc : Fin 1920) (s : State) : Res := .next (s.mxcStop mc.val)

/-- MXC_STOPPED (R190). -/
def execMxcStopped (mc : Fin 1920) (s : State) : Res :=
  let n := mc.val
  when (s.getB (mxcStopF n) && decide (s.getF (mxcSt n) < 3) && s.mxcSettled n) (fun s => s.mxcEnterStopped n) s

/-- MXC_STOP_RELEASE (R193). -/
def execMxcStopRelease (mc : Fin 1920) (s : State) : Res := .next (s.mxcRelease mc.val)

/-- MXC_RESUME (R189). -/
def execMxcResume (mc : Fin 1920) (s : State) : Res := .next (s.mxcResume mc.val)

/-- MXQ_CLR (R241). -/
def execMxqClr (mc : Fin 1920) (mask : BitVec 8) (s : State) : Res := .next (s.clearQnt mc.val mask.toNat)

end Sys2Proof.Machine
end

