-- ==== Sys2Proof/Machine/Dma.lean ====
section
/-! DEFINITION. The DMA descriptor: its fields, its validation, the rows of COPY, PANEL and IMAGE, atomics (R335-R344, R349, R351, R352). -/

namespace Sys2Proof.Machine

/-! ### The descriptor (R335, R336, R345) -/

/-- A descriptor's fields. -/
structure Desc where
  kind : Nat
  trans : Bool
  gather : Bool
  scatter : Bool
  zpad : Bool
  mcast : Bool
  conv : Bool
  scale : Bool
  loft : Bool
  fence : Bool
  aop : Nat
  srcFmt : Nat
  dstFmt : Nat
  sr : Bool
  nonsat : Bool
  ftz : Bool
  tag : Nat
  src : Nat
  srcSp : Nat
  srcMc : Nat
  dst : Nat
  dstSp : Nat
  dstMc : Nat
  len : Nat
  n1 : Nat
  n2 : Nat
  s1 : Int
  s2 : Int
  d1 : Int
  d2 : Int
  aux : Nat
  cpl : Nat
  deriving DecidableEq, Repr

/-- Read a descriptor's fields. -/
def descOf (w : BitVec 512) : Desc :=
  let r := w.toNat
  let ctl := recB r 0 4
  let fmt := recB r 4 2
  let src := recB r 8 8
  let dst := recB r 0x10 8
  { kind := ctl % 16, trans := bit ctl 4, gather := bit ctl 5, scatter := bit ctl 6, zpad := bit ctl 7, mcast := bit ctl 8
    conv := bit ctl 9, scale := bit ctl 10, loft := bit ctl 11, fence := bit ctl 12, aop := bits ctl 13 3
    srcFmt := bits fmt 0 4, dstFmt := bits fmt 4 4, sr := bit fmt 8, nonsat := bit fmt 9, ftz := bit fmt 10
    tag := recB r 6 2
    src := bits src 0 48, srcSp := bits src 48 3, srcMc := bits src 51 2
    dst := bits dst 0 48, dstSp := bits dst 48 3, dstMc := bits dst 51 2
    len := bits (recB r 0x18 4) 0 24, n1 := recB r 0x1C 2 + 1, n2 := recB r 0x1E 2 + 1
    s1 := sext (recB r 0x20 4) 32, s2 := sext (recB r 0x24 4) 32, d1 := sext (recB r 0x28 4) 32, d2 := sext (recB r 0x2C 4) 32
    aux := recB r 0x30 8, cpl := recB r 0x38 8 }

/-- Fields of cpl (R345). -/
def Desc.sn (d : Desc) : Nat := bits d.cpl 0 5
def Desc.sigVc (d : Desc) : Bool := bit d.cpl 5
def Desc.sigTgt (d : Desc) : Nat := bits d.cpl 6 11
def Desc.sigEn (d : Desc) : Bool := bit d.cpl 17
def Desc.stEn (d : Desc) : Bool := bit d.cpl 18
def Desc.stAddr (d : Desc) : Nat := bits d.cpl 19 16
def Desc.dies (d : Desc) : Nat := bits d.cpl 35 4
def Desc.tgtForm (d : Desc) : Bool := bit d.cpl 39
def Desc.tgtHalf (d : Desc) : Bool := bit d.cpl 40

/-- Whether a bit that no kind of descriptor defines is set (R335, R336, R345). -/
def descReserved (w : BitVec 512) : Bool :=
  let r := w.toNat
  decide (recB r 2 2 ≠ 0) || decide (bits (recB r 4 2) 11 5 ≠ 0) || decide (bits (recB r 8 8) 53 11 ≠ 0)
    || decide (bits (recB r 0x10 8) 53 11 ≠ 0) || decide (recB r 0x1B 1 ≠ 0) || decide (bits (recB r 0x38 8) 41 23 ≠ 0)

/-- The statuses of R348. -/
def stDescInvalid : Nat := 0x01
def stXlateFail : Nat := 0x02
def stPoison : Nat := 0x03
def stMaskRefused : Nat := 0x04
def stDuplicate : Nat := 0x05
def stPartial : Nat := 0x06
def stMcastTarget : Nat := 0x07
def stRemoteFail : Nat := 0x09
def stAborted : Nat := 0x0A
def stScratchRange : Nat := 0x0B

/-- Of two statuses the lower non-zero one (R348). -/
def lowStatus (a b : Nat) : Nat := if a = 0 then b else if b = 0 then a else min a b

/-! ### Geometry -/

/-- Bytes of a source row and of a destination row of a COPY (R338, R339): packed elements and, for an MX-scaled format under
conv, one scale byte for each run of 32. -/
def convRow (c n : Nat) : Nat := packedLen c n + (if fmtMx c then cdiv n 32 else 0)
def Desc.srcRow (d : Desc) : Nat :=
  if d.conv then convRow d.srcFmt d.len else if d.trans then packedLen d.srcFmt d.n1 else d.len
def Desc.dstRow (d : Desc) : Nat :=
  if d.conv then convRow d.dstFmt d.len else if d.trans then packedLen d.srcFmt d.len else d.len

/-- Bytes of a panel, a scale panel, an image or a scale image, in whole lines (R120, R124, R125, R343). -/
def Desc.objBytes (d : Desc) : Nat :=
  if d.kind = 2 then (if d.scale then 256 else 4096)
  else lines128 (if d.scale then scalePanelBytes d.loft d.n1 else panelBytes d.loft d.n1)

/-- Whether rows of n bytes, steps a between the k of a plane and b between the m planes, stay inside a scratch. -/
def inScratch (base : Nat) (a : Int) (k : Nat) (b : Int) (m n : Nat) : Bool :=
  let lo : Int := base + min 0 (((k : Int) - 1) * a) + min 0 (((m : Int) - 1) * b)
  let hi : Int := base + max 0 (((k : Int) - 1) * a) + max 0 (((m : Int) - 1) * b) + n
  decide (0 ≤ lo) && decide (hi ≤ scratchSize)

/-- Bytes of the Q5 status area (R346). -/
def q5Area : Nat := 0xC000

/-- Rows the engine moves one by one: rows of a COPY, planes of a PANEL or IMAGE, one operation else. -/
def Desc.rows (d : Desc) : Nat := if d.kind = 0 then d.n1 * d.n2 else if d.kind ≤ 2 then d.n2 else 1

/-! ### Validation (R349, R669) -/

/-- The fields besides ctl, tag and cpl that R344 lets a kind use; the others must be zero. -/
def Desc.onlyUses (d : Desc) (src dst aux s1 s2 d1 : Bool) : Bool :=
  (src || (d.src == 0 && d.srcSp == 0 && d.srcMc == 0)) && (dst || (d.dst == 0 && d.dstSp == 0 && d.dstMc == 0))
    && (aux || d.aux == 0) && (s1 || d.s1 == 0) && (s2 || d.s2 == 0) && (d1 || d.d1 == 0) && d.d2 == 0
    && d.srcFmt == 0 && d.dstFmt == 0 && !d.sr && !d.nonsat && !d.ftz && d.len == 0 && d.n1 == 1 && d.n2 == 1

/-- A COPY's own rules. -/
def Desc.copyOk (d : Desc) : Bool :=
  let gs := d.gather || d.scatter
  let lsp := bits d.aux 48 3
  let isFp := d.dstFmt ≤ 0xD && !fmtInt d.dstFmt
  let widths := d.conv || d.trans || (decide (fmtBits d.srcFmt ≥ 8) && decide (fmtBits d.dstFmt ≥ 8))
  let convOk := !d.conv || (isFp || (fmtInt d.dstFmt && !d.sr))
  let zOk := !d.zpad || (decide (d.aux < 2 ^ 56) && decide (bits d.aux 0 24 ≤ d.len) && decide (bits d.aux 24 16 ≤ d.n1)
    && decide (bits d.aux 40 16 ≤ d.n2))
  let lOk := !gs || (decide (d.aux < 2 ^ 53) && decide (lsp ≤ 2) && (lsp == 1 || decide (bits d.aux 51 2 = 0))
    && (lsp == 0 || inScratch (bits d.aux 0 48) 0 1 0 1 (4 * d.n1 * d.n2)))
  let sOk := d.gather || d.srcSp == 0 || inScratch d.src d.s1 (if d.trans then d.len else d.n1) d.s2 d.n2 d.srcRow
  let dOk := d.scatter || d.dstSp == 0 || inScratch d.dst d.d1 d.n1 d.d2 d.n2 d.dstRow
  widths && convOk && zOk && lOk && sOk && dOk

/-- A PANEL's or IMAGE's own rules (R341-R343). -/
def Desc.operandOk (d : Desc) : Bool :=
  let nmax := if d.kind = 2 then (if d.loft then 128 else 32) else if d.loft || d.srcFmt == 0xB then 512 else 2048
  let rows := if !d.scale && d.trans then d.len else d.n1
  let n := if d.scale then cdiv d.len 32 else packedLen d.srcFmt (if d.trans then d.n1 else d.len)
  d.srcFmt == d.dstFmt && (widthClass d.srcFmt).isSome && (!d.scale || fmtMx d.srcFmt) && d.dstSp == 1
    && decide (1 ≤ d.len) && decide (d.len ≤ kPerPass d.srcFmt d.loft) && decide (d.n1 ≤ nmax)
    && decide (d.dst % 128 = 0) && decide (d.d2 % 128 = 0)
    && (d.srcSp == 0 || inScratch d.src d.s1 rows d.s2 d.n2 n) && inScratch d.dst 0 1 d.d2 d.n2 d.objBytes

/-- An ATOMIC's own rules (R344). -/
def Desc.atomicOk (d : Desc) : Bool :=
  d.onlyUses true true true false false false && d.srcSp == 0 && d.srcMc == 0 && decide (d.dstSp ≤ 2) && (d.dstSp == 1 || d.dstMc == 0)
    && decide (d.src % (if d.aop = 0 then 8 else 32) = 0) && decide (d.dst % 8 = 0) && decide (d.aop ≤ 2)
    && (d.dstSp == 0 || inScratch d.dst 0 1 0 1 8)

/-- The options of ctl that R669 does not define for a kind are zero. -/
def Desc.optionsOk (d : Desc) : Bool :=
  (d.kind == 0 || !(d.gather || d.scatter || d.zpad || d.conv)) && (decide (d.kind ≤ 2) || !(d.trans || d.mcast))
    && (d.kind == 1 || d.kind == 2 || !(d.scale || d.loft)) && (d.kind == 3 || d.aop == 0)

/-- Whether a cell DMA engine accepts a descriptor on queue q (R349). -/
def descValid (w : BitVec 512) (q : Nat) : Bool :=
  let d := descOf w
  let gs := d.gather || d.scatter
  !descReserved w && decide (d.kind ≤ 5) && d.srcFmt != 0xF && d.dstFmt != 0xF && d.optionsOk
    && !(d.gather && d.scatter) && !(gs && (d.zpad || d.mcast || d.trans)) && !(d.conv && d.trans)
    && !(d.mcast && (d.dstSp == 0 || d.dies == 0))
    && !(d.stEn && decide (d.stAddr * 8 + 16 > (if q = 5 then q5Area else scratchSize)))
    && (match d.kind with
        | 0 => decide (d.srcSp ≤ 2) && decide (d.dstSp ≤ 2) && d.copyOk
        | 1 => decide (d.srcSp ≤ 2) && d.operandOk
        | 2 => decide (d.srcSp ≤ 2) && d.operandOk
        | 3 => d.atomicOk
        | 4 => decide (q < 4) && d.srcSp == 0 && d.onlyUses true false false false false false
        | _ => d.onlyUses false false true true true true && decide (0 ≤ d.s2) && decide (d.s2 < 65536))

/-! ### Reading and writing -/

/-- Who moves data: the unit, its context and partition, the cell whose scratches it reaches, its key state and its waiter. -/
structure Mover where
  u : UnitId
  ctx : Nat
  part : Nat
  cell : Nat
  key : KeyState
  w : Waiter
  got : SMap (Byte × Bool)
  deriving DecidableEq, Repr

/-- Bytes with their poison, or the record that holds the access. -/
structure Got where
  st : State
  bs : List (Byte × Bool)
  held : Option Word32
  deriving DecidableEq, Repr

/-- n bytes of a vector scratch. -/
def RvState.scrRead (r : RvState) (a n : Nat) : List Byte := readBytes r.scratch (a % scratchSize) n

/-- Write bytes of a vector scratch. -/
def RvState.scrPut (r : RvState) (a : Nat) (bs : List Byte) : RvState :=
  { r with scratch := writeBytes r.scratch (a % scratchSize) bs, badScratch := clearBad r.badScratch (a % scratchSize) bs.length }

/-- A write of another agent to a vector scratch ends a reservation of a line it touches (R245). -/
def RvState.extPut (r : RvState) (a : Nat) (bs : List Byte) : RvState :=
  let o := a % scratchSize
  let hit := match r.resv with | some l => r.resvScratch && decide (o / 128 ≤ l) && decide (l ≤ (o + bs.length - 1) / 128) && !bs.isEmpty | none => false
  let r := r.scrPut a bs
  if hit then { r with resv := none } else r

/-- Mark the words that a run of marked bytes touches as poisoned (R280). -/
def markBad (bad : SMap Bool) (a : Nat) (fl : List Bool) : SMap Bool :=
  match fl with
  | [] => bad
  | f :: r => markBad (if f then mset false bad (a / 8) true else bad) (a + 1) r

/-- Read device or host memory line by line; a failed translation holds the access. -/
def State.memGet (s : State) (x : Mover) (a n fuel : Nat) : Got :=
  match fuel with
  | 0 => ⟨s, [], none⟩
  | k + 1 =>
    if n = 0 then ⟨s, [], none⟩
    else
      let m := min n (128 - a % 128)
      let r := s.vRead x.u x.ctx x.part a m .read (some x.w)
      match r.o with
      | .held id _ => ⟨r.st, [], some id⟩
      | .done bs p =>
        let t := r.st.memGet x ((a + m) % 2 ^ 64) (n - m) k
        ⟨t.st, bs.map (fun b => (b, p)) ++ t.bs, t.held⟩

/-- Read n bytes of a space (R337). -/
def State.spGet (s : State) (x : Mover) (sp mc : Nat) (a : Int) (n : Nat) : Got :=
  let b := toBits a 64
  match sp with
  | 0 => s.memGet x b n (n / 128 + 2)
  | 1 =>
    let m := s.mc (4 * x.cell + mc)
    ⟨s, (m.scrRead b n).zipIdx.map (fun p => (p.1, anyBad m.badScratch (b + p.2) 1)), none⟩
  | 3 => ⟨s, (upTo n).map (fun i => mget (0, false) x.got ((b + i) % 2 ^ 48)), none⟩
  | _ =>
    let r := s.rv x.cell
    ⟨s, (r.scrRead b n).zipIdx.map (fun p => (p.1, anyBad r.badScratch (b + p.2) 1)), none⟩

/-- Write device or host memory line by line; poisoned bytes poison their lines (R352). -/
def State.memPut (s : State) (x : Mover) (a : Nat) (bs : List (Byte × Bool)) (fuel : Nat) : State × Option Word32 :=
  match fuel with
  | 0 => (s, none)
  | k + 1 =>
    if bs.isEmpty then (s, none)
    else
      let now := bs.take (128 - a % 128)
      let r := s.vWrite x.u x.ctx x.part a (now.map (·.1)) noCore (some x.w)
      match r.o with
      | .held id _ => (r.st, some id)
      | .done _ _ =>
        let s := if now.any (·.2) then r.st.vPoison x.u x.ctx x.part a now.length noCore else r.st
        s.memPut x ((a + now.length) % 2 ^ 64) (bs.drop now.length) k

/-- Write bytes of a space into a cell. -/
def State.scratchPut (s : State) (cell sp mc b : Nat) (bs : List (Byte × Bool)) : State :=
  let data := bs.map (·.1)
  let fl := bs.map (·.2)
  if sp = 1 then
    (s.scrWrite (4 * cell + mc) b data).updMc (4 * cell + mc) (fun m => { m with badScratch := markBad m.badScratch b fl })
  else s.updRv cell (fun r => let r := r.extPut b data; { r with badScratch := markBad r.badScratch b fl })

/-- Write bytes of a space (R337). -/
def State.spPut (s : State) (x : Mover) (sp mc : Nat) (a : Int) (bs : List (Byte × Bool)) : State × Option Word32 :=
  let b := toBits a 64
  if sp = 0 then s.memPut x b bs (bs.length / 128 + 2) else (s.scratchPut x.cell sp mc b bs, none)

/-- Read runs of n bytes at several addresses. -/
def State.spGets (s : State) (x : Mover) (sp mc : Nat) (as : List Int) (n : Nat) : State × List (List (Byte × Bool)) × Option Word32 :=
  match as with
  | [] => (s, [], none)
  | a :: r =>
    let g := s.spGet x sp mc a n
    match g.held with
    | some id => (g.st, [], some id)
    | none => let t := g.st.spGets x sp mc r n; (t.1, g.bs :: t.2.1, t.2.2)

/-! ### Elements with poison -/

/-- The code of element e of a packed run and whether a byte of it is poisoned. -/
def elBad (c : Nat) (run : List (Byte × Bool)) (e : Nat) : Nat × Bool :=
  let w := fmtBits c
  let lo := w * e / 8
  let hi := (w * (e + 1) - 1) / 8
  let part := (run.drop lo).take (hi - lo + 1)
  (bits (ofLE (part.map (·.1))) (w * e % 8) w, part.any (·.2))

/-- The elements of a packed run. -/
def unpackBad (c n : Nat) (run : List (Byte × Bool)) : List (Nat × Bool) := (upTo n).map (elBad c run)

/-- The bytes of a packed run that hold a marked element. -/
def packMarks (c : Nat) (fl : List Bool) : List Bool :=
  (packRun c (fl.map (fun f => if f then 2 ^ fmtBits c - 1 else 0))).map (fun b => b != 0)

/-- Pack elements with their poison. -/
def packBad (c : Nat) (es : List (Nat × Bool)) : List (Byte × Bool) := (packRun c (es.map (·.1))).zip (packMarks c (es.map (·.2)))

/-- n clean zero bytes. -/
def zeros (n : Nat) : List (Byte × Bool) := List.replicate n (0, false)

/-- A source element's value under conv (R83, R339, R666), its scale byte given; E8M0 is a power of two. -/
def convSrc (c x scale : Nat) (ftz : Bool) : Val :=
  if c = 0xE then (if x = 0xFF then .nan else .fin false 1 ((x : Int) - 127))
  else if fmtMx c then f32 (widenEl c x scale).1
  else decodeEl c (flushIn ftz c x).1 127

/-! ### A row of a COPY (R338, R339) -/

/-- What a row gives: its bytes, a status that ends the descriptor, poison met, the record that holds it, its address. -/
structure RowRes where
  st : State
  held : Option Word32
  code : Nat
  poison : Bool
  outs : List (Int × List (Byte × Bool))

/-- The extents of zpad; all of the copy without it. -/
def Desc.valid (d : Desc) : Nat × Nat × Nat :=
  if d.zpad then (bits d.aux 0 24, bits d.aux 24 16, bits d.aux 40 16) else (d.len, d.n1, d.n2)

/-- The elements of a row under conv, with their poison: keys of R339, blocks of R105. -/
def convRowOut (d : Desc) (key : KeyState) (row : Nat) (vs : List (Val × Bool)) : List (Byte × Bool) :=
  let rnd (e : Nat) : Rnd := if d.sr then srRnd key.seed.toNat key.stream.toNat (key.orgRow.toNat + row) (key.orgCol.toNat + e) false else .rne
  let r := convRun d.dstFmt d.nonsat d.ftz (vs.zipIdx.map (fun p => (p.1.1, rnd p.2)))
  if fmtMx d.dstFmt then
    let blk (b : Nat) : Bool := ((vs.drop (32 * b)).take 32).any (·.2)
    packBad d.dstFmt (r.codes.zipIdx.map (fun p => (p.1, blk (p.2 / 32))))
      ++ r.scales.zipIdx.map (fun p => (BitVec.ofNat 8 p.1, blk p.2))
  else packBad d.dstFmt (r.codes.zip (vs.map (·.2)))

/-- The bytes of destination row r of plane p, its source row at sa (R339). -/
def State.rowBytes (s : State) (x : Mover) (d : Desc) (p r : Nat) (sa : Int) : Got :=
  let v := d.valid
  let inR := decide (r < v.2.1) && decide (p < v.2.2)
  let nv := if inR then min v.1 d.len else 0
  if d.trans then
    let w := fmtBits d.srcFmt
    let lo := w * r / 8
    let n := (w * (r + 1) - 1) / 8 - lo + 1
    let base : Int := d.src + p * d.s2
    let g := s.spGets x d.srcSp d.srcMc ((upTo nv).map (fun e => base + e * d.s1 + lo)) n
    let es := g.2.1.map (fun run => (bits (ofLE (run.map (·.1))) (w * r % 8) w, run.any (·.2)))
    ⟨g.1, packBad d.srcFmt (es ++ List.replicate (d.len - nv) (0, false)), g.2.2⟩
  else if d.conv then
    let g := s.spGet x d.srcSp d.srcMc sa (packedLen d.srcFmt nv)
    match g.held with
    | some id => ⟨g.st, [], some id⟩
    | none =>
      let h :=
        if fmtMx d.srcFmt then g.st.spGet x d.srcSp d.srcMc (sa + packedLen d.srcFmt d.len) (cdiv nv 32) else ⟨g.st, [], none⟩
      let sc (e : Nat) : Byte × Bool := if fmtMx d.srcFmt then nth (0, false) h.bs (e / 32) else (127, false)
      let es := (unpackBad d.srcFmt nv g.bs).zipIdx.map (fun q =>
        (convSrc d.srcFmt q.1.1 (sc q.2).1.toNat d.ftz, q.1.2 || (sc q.2).2))
      ⟨h.st, convRowOut d x.key (p * d.n1 + r) (es ++ List.replicate (d.len - nv) (.fin false 0 0, false)), h.held⟩
  else
    let g := s.spGet x d.srcSp d.srcMc sa nv
    ⟨g.st, g.bs ++ zeros (d.len - nv), g.held⟩

/-- Row i of a COPY in traversal order: its bytes and where they go, or SCRATCH_RANGE (R339). -/
def State.copyRow (s : State) (x : Mover) (d : Desc) (i : Nat) : RowRes :=
  let p := i / d.n1
  let r := i % d.n1
  let gs := d.gather || d.scatter
  let ix : Got := if gs then s.spGet x (bits d.aux 48 3) (bits d.aux 51 2) (bits d.aux 0 48 + 4 * i) 4 else ⟨s, [], none⟩
  match ix.held with
  | some id => ⟨ix.st, some id, 0, false, []⟩
  | none =>
    let idx := ofLE (ix.bs.map (·.1))
    let sr := if d.gather then idx else r
    let dr := if d.scatter then idx else r
    let sa : Int := d.src + p * d.s2 + sr * d.s1
    let da : Int := d.dst + p * d.d2 + dr * d.d1
    let past (sp : Nat) (a : Int) (n : Nat) : Bool := sp != 0 && (decide (a < 0) || decide (a + n > scratchSize))
    let ixBad := ix.bs.any (·.2)
    if (d.gather && past d.srcSp sa d.srcRow) || (d.scatter && past d.dstSp da d.dstRow) then ⟨ix.st, none, stScratchRange, ixBad, []⟩
    else
      let g := ix.st.rowBytes x d p r sa
      ⟨g.st, g.held, 0, ixBad || g.bs.any (·.2), [(da, g.bs)]⟩

/-! ### A plane of a PANEL or IMAGE (R341, R342) -/

/-- The object of plane p: read in the stored order, built once from codes and once from poison marks. -/
def State.operandPlane (s : State) (x : Mover) (d : Desc) (p : Nat) : RowRes :=
  let c := d.srcFmt
  let base : Int := d.src + p * d.s2
  let tr := d.trans && !d.scale
  let rows := if tr then d.len else d.n1
  let n := if d.scale then cdiv d.len 32 else packedLen c (if tr then d.n1 else d.len)
  let g := s.spGets x d.srcSp d.srcMc ((upTo rows).map (fun i => base + i * d.s1)) n
  match g.2.2 with
  | some id => ⟨g.1, some id, 0, false, []⟩
  | none =>
    let els := g.2.1.map (fun run => if d.scale then run.map (fun b => (b.1.toNat, b.2)) else unpackBad c (if tr then d.n1 else d.len) run)
    let at_ (i k : Nat) : Nat × Bool := nth (0, false) (nth [] els (if tr then k else i)) (if tr then i else k)
    let ones := if d.scale then 255 else 2 ^ fmtBits c - 1
    let make (el : Nat → Nat → Nat) : List Byte :=
      if d.kind = 1 then (if d.scale then buildScalePanel c d.loft d.n1 d.len el else buildPanel c d.loft d.n1 d.len el)
      else if d.scale then buildScaleImage c d.loft d.n1 d.len el
      else buildImage c d.loft d.n1 d.len (fun k j => el j k)
    let obj := make (fun i k => (at_ i k).1)
    let marks := make (fun i k => if (at_ i k).2 then ones else 0)
    let out := (obj.zip (marks.map (fun b => b != 0))) ++ zeros (d.objBytes - obj.length)
    ⟨g.1, none, 0, els.any (fun r => r.any (·.2)), [((d.dst : Int) + p * d.d2, out)]⟩

/-! ### ATOMIC (R344) -/

/-- One atomic operation of a descriptor: both addresses are translated before it is performed, and it is never done in part
(R320); `who` is the core it names. A host page has no home for it (log entry 25). -/
def State.descAtomic (s : State) (x : Mover) (d : Desc) (who : Option CoreName) : RowRes :=
  let n := if d.aop = 0 then 8 else 32
  let t := s.xlRun x.u x.ctx x.part d.src n .atomic
  let hold (s : State) (a : Nat) (acc : Access) (f : Xl) : RowRes :=
    let o := s.openFault x.u x.ctx x.part a acc f (some x.w)
    ⟨o.1, some o.2, 0, false, []⟩
  match t.bad, t.segs with
  | some (a, f), _ => hold t.st a .atomic f
  | none, g :: _ =>
    if g.host then hold t.st d.src .atomic (.fail clsHostError 0 0 true)
    else
      let w : RunRes := if d.dstSp = 0 then t.st.xlRun x.u x.ctx x.part d.dst 8 .write else ⟨t.st, [], none⟩
      match w.bad with
      | some (a, f) => hold w.st a .write f
      | none =>
        let z : TicketRes :=
          match d.aop with
          | 0 =>
            let old := ofLE (w.st.physRead x.part g.pa 8).data
            let r := w.st.amoAt noCore x.part .add 64 g.pa d.aux
            ⟨r.st, old, false, r.poison⟩
          | 1 => w.st.wcClaim x.part g.pa d.aux who
          | _ => w.st.wcPresent x.part g.pa d.aux who
        ⟨z.st, none, if z.dup then stDuplicate else 0, z.poison, [(d.dst, (toLE 8 z.ticket).map (fun b => (b, z.poison)))]⟩
  | none, [] => ⟨t.st, none, 0, false, []⟩

end Sys2Proof.Machine
end

