-- ==== Sys2Proof/Machine/DmaRun.lean ====
section
/-! DEFINITION. The cell DMA engine: queues, progress, completion (R332-R334, R344-R348, R351), multicast completion (R463-R465), DMAQ (R166). -/

namespace Sys2Proof.Machine

/-! ### Queues (R332) -/

/-- Depth of a queue. -/
def dmaDepth (q : Nat) : Nat := if q = 5 then 8 else 16

/-- Whether a queue has room. -/
def State.dmaRoom (s : State) (c q : Nat) : Bool := decide ((s.dmaQ c q).length < dmaDepth q)

/-- The context of a cell (R295): the one its kernel's launch named. -/
def State.cellCtx (s : State) (c : Nat) : Nat := (s.rv c).ctx

/-- A cell's DMA engine as a unit. -/
def dmaUnit (c : Nat) : UnitId := .dma (Fin.ofNat 480 c)

/-- A queue's key state; zero at the start of a program (R344). -/
def State.dmaKey (s : State) (c q : Nat) : KeyState := mget ⟨0, 0, 0, 0⟩ (s.dmaOf c).keys q

/-- The mover of a queue. -/
def State.mover (s : State) (c q : Nat) : Mover := ⟨dmaUnit c, s.cellCtx c, s.cellPart c, c, s.dmaKey c q, .dma c q, []⟩

/-- The core a queue's atomics name; Q5 names none (R344, R667). -/
def queueCore (c q : Nat) : Option CoreName := if q < 4 then some ⟨false, 4 * c + q⟩ else if q = 4 then some ⟨true, c⟩ else none

/-- The core that a queue's signals come from. -/
def queueSender (c q : Nat) : CoreName := if q < 4 then ⟨false, 4 * c + q⟩ else ⟨true, c⟩

/-- Change descriptor i of a queue. -/
def State.updDesc (s : State) (c q i : Nat) (f : DescState → DescState) : State :=
  s.setDmaQ c q ((s.dmaQ c q).zipIdx.map (fun p => if p.2 = i then f p.1 else p.1))

/-! ### Masks (R231, R232) -/

/-- A mask load that a write waits for has ended. -/
def MaskUse.step (u : MaskUse) (k : GradMask) : MaskUse :=
  if u.wait = 0 then u else { u with wait := u.wait - 1, mask := if u.wait = 1 then k else u.mask }

/-- A mask load of a core ends: the mask in force, and the writes that waited for it. -/
def McState.maskDone (m : McState) (k : GradMask) : McState :=
  { m with
    mask := k
    maskLoads := m.maskLoads - 1
    ops := m.ops.map (fun o => { o with mask := o.mask.map (fun u => u.step k) })
    lds := m.lds.map (fun l => if l.maskWait = 0 then l else { l with maskWait := l.maskWait - 1, mask := if l.maskWait = 1 then k else l.mask }) }

/-! ### Multicast (R340, R463-R465) -/

/-- The cells of a descriptor's target sets. -/
def Desc.targets (d : Desc) : List Nat :=
  let f := BitVec.ofNat 64 d.aux
  (upTo 480).filter (fun c => bit d.dies (c / 120) && setHas d.tgtForm d.tgtHalf f (c % 10) (c % 120 / 10))

/-- The undelivered-target field of R465. -/
def undelivered (t : SMap TargetState) : Nat :=
  let cells := (t.filter (fun e => e.2 == .undelivered)).map (·.1)
  match cells with
  | [] => 0
  | c :: _ =>
    let h := c / 60
    (cells.filter (fun x => x / 60 == h)).foldl (fun n x => n + 2 ^ (x % 60)) 0
      + (h % 2) * 2 ^ 60 + (h / 2) * 2 ^ 61 + b2n (cells.any (fun x => x / 60 != h)) * 2 ^ 63

/-- Cut bytes into the 128 B lines of a destination. -/
def cutLines (a : Nat) (bs : List (Byte × Bool)) (fuel : Nat) : List (Nat × List (Byte × Bool)) :=
  match fuel with
  | 0 => []
  | k + 1 =>
    if bs.isEmpty then []
    else
      let m := 128 - a % 128
      (a, bs.take m) :: cutLines (a + m) (bs.drop m) k

/-- Inject one packet for each target die and line (R340). -/
def State.mcastOut (s : State) (c q i : Nat) (d : Desc) (a : Nat) (bs : List (Byte × Bool)) : State :=
  let dies := (upTo 4).filter (fun k => bit d.dies k)
  let cuts := cutLines a bs (bs.length / 128 + 2)
  let s := forEach cuts s (fun s _ => forEach dies s (fun s k =>
    s.meshInject c (.set (Fin.ofNat 4 k) d.tgtForm d.tgtHalf (BitVec.ofNat 64 d.aux)) .mcast 1 true))
  s.updDesc c q i (fun t => { t with
    targets := if t.targets.isEmpty then d.targets.map (fun x => (x, TargetState.waiting)) else t.targets
    copies := t.copies ++ cuts.map (fun p => ⟨d.dstSp, d.dstMc, p.1, p.2⟩) })

/-- A target takes its copies. -/
def State.takeCopies (s : State) (cell : Nat) (l : List McastCopy) : State :=
  forEach l s (fun s m => s.scratchPut cell m.space m.mc m.off m.data)

/-! ### Completion (R347, R348) -/

/-- Whether a descriptor has issued its last request (R334). -/
def DescState.issued (t : DescState) : Bool := t.phase == .done || decide (t.rowsDone ≥ (descOf t.d).rows)

/-- A descriptor whose requests are all done and whose targets are all settled is done, PARTIAL with one undelivered (R463). -/
def DescState.close (t : DescState) : DescState :=
  if t.issued && !(t.targets.any (fun e => e.2 == .waiting)) then
    { t with
      phase := .done
      status := BitVec.ofNat 8 (lowStatus t.status.toNat (if t.targets.any (fun e => e.2 == .undelivered) then stPartial else 0)) }
  else t

/-- The 16 B status record (R348). -/
def statusRecord (code detail tag field : Nat) : List Byte := toLE 1 code ++ toLE 1 detail ++ toLE 2 tag ++ toLE 4 0 ++ toLE 8 field

/-- Physical address of offset a of the Q5 status area of a cell (R287, R346, log entry 26). -/
def State.q5Addr (s : State) (c a : Nat) : Nat := 47 * s.bandSize + c * 2 ^ 22 + 0x3F_4000 + a

/-- Write a queue's status record; none where it would run past its place. -/
def State.putStatus (s : State) (c q : Nat) (d : Desc) (bs : List Byte) : State :=
  let a := d.stAddr * 8
  if !d.stEn || decide (a + 16 > (if q = 5 then q5Area else scratchSize)) then s
  else if q < 4 then s.scrWrite (4 * c + q) a bs
  else if q = 4 then s.updRv c (fun r => r.extPut a bs)
  else s.physWrite 0 noCore (s.q5Addr c a) bs

/-- Signal the counter a descriptor names (R345, R347); one outside the partition is not sent and is counted (R367). -/
def State.descSignal (s : State) (c q : Nat) (d : Desc) : State :=
  let t : CoreName := ⟨d.sigVc, d.sigTgt⟩
  let p := s.cellPart c
  if !d.sigEn then s
  else if p < 16 && s.inPartition t p then s.sendSignal ⟨queueSender c q, t, Fin.ofNat 32 d.sn, 1, Fin.ofNat 16 p, true⟩
  else s.sentLost c

/-- Note a completion that is not OK: DMA_ERR (R358), and the kernel that owns the cell (R511). -/
def State.descError (s : State) (c q tag code : Nat) : State :=
  let k := dmaBase c + 8
  let s := (((s.putF ⟨k, 0, 8⟩ code).putF ⟨k, 8, 3⟩ q).putF ⟨k, 16, 16⟩ tag).addF ⟨k, 32, 16⟩ 1
  let s := s.putF ⟨k, 48, 1⟩ 1
  let mine (x : Kernel) : Bool := x.phase != .done && x.phase != .waiting && bit x.rcd.toNat c
  let ks := mapWhere s.host.kernels mine (fun x => { x with dmaErr := true })
  { s with host := { s.host with kernels := ks } }

/-- Complete the done descriptors at the front of a queue, in enqueue order: status record, signal, error. -/
def State.dmaRetire (s : State) (c q fuel : Nat) : State :=
  match fuel with
  | 0 => s
  | k + 1 =>
    match s.dmaQ c q with
    | [] => s
    | t :: rest =>
      if t.phase ≠ .done then s
      else
        let d := descOf t.d
        let code := t.status.toNat
        let late := (t.targets.filter (fun e => e.2 == .undelivered)).map (fun e => (q, e.1, t.copies))
        let s := s.setDmaQ c q rest
        let s := s.setDma c { s.dmaOf c with late := (s.dmaOf c).late ++ late }
        let s := s.putStatus c q d (statusRecord code t.detail.toNat d.tag (if code = stPartial then undelivered t.targets else 0))
        let s := s.descSignal c q d
        let s := if code ≠ 0 then s.descError c q d.tag code else s
        s.dmaRetire c q k

/-- Settle a queue: descriptors that are complete leave it. -/
def State.dmaSettle (s : State) (c q : Nat) : State :=
  let s := s.setDmaQ c q ((s.dmaQ c q).map DescState.close)
  s.dmaRetire c q (s.dmaQ c q).length

/-- Put a descriptor into a queue that has room: validated now (R349); a mask load of a core is counted (R231). -/
def State.dmaEnqueue (s : State) (c q : Nat) (w : BitVec 512) : State :=
  let ok := descValid w q
  let t : DescState := ⟨w, if ok then .queued else .done, 0, if ok then 0 else BitVec.ofNat 8 stDescInvalid, 0, [], []⟩
  let s := s.setDmaQ c q (s.dmaQ c q ++ [t])
  let s := if ok && (descOf w).kind == 4 then s.updMc (4 * c + q) (fun m => { m with maskLoads := m.maskLoads + 1 }) else s
  s.dmaSettle c q

/-! ### Progress (R334, R351) -/

/-- The place of the descriptor of a queue that issues next: the first that has not issued everything; a held one blocks the queue. -/
def activeDesc (l : List DescState) (i : Nat) : Option (Nat × DescState) :=
  match l with
  | [] => none
  | t :: r =>
    if t.issued then activeDesc r (i + 1)
    else
      match t.phase with
      | .held _ => none
      | _ => some (i, t)

/-- Descriptors of an engine in progress. -/
def State.inProgress (s : State) (c : Nat) : Nat :=
  (upTo 6).foldl (fun n q => n + ((s.dmaQ c q).filter (fun t => t.phase != .queued && t.phase != .done)).length) 0

/-- Whether a descriptor may issue: the engine is not stopped; a new one has room among the 8, and a fence has nothing before it. -/
def State.mayIssue (s : State) (c i : Nat) (t : DescState) : Bool :=
  !s.getB ⟨dmaBase c, 30, 1⟩ && (t.phase == .moving || ((!(descOf t.d).fence || i == 0) && decide (s.inProgress c < 8)))

/-- The descriptor that a queue may go on with. -/
def State.dmaReady (s : State) (c q : Nat) : Option (Nat × DescState) :=
  match activeDesc (s.dmaQ c q) 0 with
  | some (i, t) => if s.mayIssue c i t then some (i, t) else none
  | none => none

/-- Set a queue's key state (R344). -/
def State.setKey (s : State) (c q : Nat) (k : KeyState) : State :=
  s.setDma c { s.dmaOf c with keys := mset ⟨0, 0, 0, 0⟩ (s.dmaOf c).keys q k }

/-- A MASKLOAD (R231, R232, R344): the record, or discard-all. -/
def State.maskLoad (s : State) (x : Mover) (c q : Nat) (d : Desc) : RowRes :=
  let g := s.spGet x 0 0 d.src 128
  match g.held with
  | some id => ⟨g.st, some id, 0, false, []⟩
  | none =>
    let bad := g.bs.any (·.2)
    let m := maskOfRecord (g.bs.map (·.1))
    let k := if bad then GradMask.discardAll else m.getD .discardAll
    ⟨g.st.updMc (4 * c + q) (fun z => z.maskDone k), none, if !bad && m.isNone then stMaskRefused else 0, bad, []⟩

/-- Row i of a descriptor. -/
def State.descRow (s : State) (x : Mover) (c q : Nat) (d : Desc) (i : Nat) : RowRes :=
  match d.kind with
  | 0 => s.copyRow x d i
  | 1 => s.operandPlane x d i
  | 2 => s.operandPlane x d i
  | 3 => s.descAtomic x d (queueCore c q)
  | 4 => s.maskLoad x c q d
  | _ =>
    let r := d.aux
    ⟨s.setKey c q ⟨BitVec.ofNat 64 r, BitVec.ofNat 16 (toBits d.s2 16), BitVec.ofNat 32 (toBits d.s1 32), BitVec.ofNat 32 (toBits d.d1 32)⟩,
     none, 0, false, []⟩

/-- Write what a row gives; the record that holds a write, if one does. -/
def State.putOuts (s : State) (x : Mover) (c q i : Nat) (d : Desc) (outs : List (Int × List (Byte × Bool))) : State × Option Word32 :=
  match outs with
  | [] => (s, none)
  | o :: r =>
    if d.mcast then (s.mcastOut c q i d (toBits o.1 64) o.2).putOuts x c q i d r
    else
      let w := s.spPut x d.dstSp d.dstMc o.1 o.2
      match w.2 with
      | some id => (w.1, some id)
      | none => w.1.putOuts x c q i d r

/-- Hold descriptor i of a queue at its row. -/
def State.holdDesc (s : State) (c q i : Nat) (id : Word32) : State := s.updDesc c q i (fun t => { t with phase := .held id })

/-- Move the next row of a queue's descriptor i. -/
def State.dmaRow (s : State) (c q i : Nat) (t : DescState) : State :=
  let d := descOf t.d
  let x := s.mover c q
  let s := s.updDesc c q i (fun t => { t with phase := .moving })
  let r := s.descRow x c q d t.rowsDone
  match r.held with
  | some id => r.st.holdDesc c q i id
  | none =>
    let code := if d.mcast && !setOk d.tgtForm (BitVec.ofNat 64 d.aux) then stMcastTarget else r.code
    let w := if code = stMcastTarget then (r.st, none) else r.st.putOuts x c q i d r.outs
    match w.2 with
    | some id => w.1.holdDesc c q i id
    | none =>
      let stop := code = stScratchRange ∨ code = stMcastTarget
      let s := w.1.updDesc c q i (fun t => { t with
        rowsDone := if stop then d.rows else t.rowsDone + 1
        status := BitVec.ofNat 8 (lowStatus (lowStatus t.status.toNat code) (if r.poison then stPoison else 0)) })
      s.dmaSettle c q

/-- Move the rows of a queue's next descriptor until it has issued everything or is held; fuel counts the rows. -/
def State.dmaRows (s : State) (c q : Nat) (w : BitVec 512) (fuel : Nat) : State :=
  match fuel with
  | 0 => s
  | k + 1 =>
    match s.dmaReady c q with
    | some (i, t) => if t.d = w then (s.dmaRow c q i t).dmaRows c q w k else s
    | none => s

/-- Carry out a queue's next descriptor if it is of a kind. -/
def State.dmaDo (s : State) (c q : Nat) (p : Desc → Bool) : State :=
  match s.dmaReady c q with
  | some (_, t) => if p (descOf t.d) then s.dmaRows c q t.d ((descOf t.d).rows - t.rowsDone) else s
  | none => s

/-- DMA_COPY (R338, R339, R340). -/
def execDmaCopy (c : Fin 480) (q : Fin 6) (s : State) : Res := .next (s.dmaDo c.val q.val (fun d => d.kind == 0))

/-- DMA_PANEL (R341). -/
def execDmaPanel (c : Fin 480) (q : Fin 6) (s : State) : Res := .next (s.dmaDo c.val q.val (fun d => d.kind == 1))

/-- DMA_IMAGE (R342). -/
def execDmaImage (c : Fin 480) (q : Fin 6) (s : State) : Res := .next (s.dmaDo c.val q.val (fun d => d.kind == 2))

/-- DMA_FETCH_ADD (R344). -/
def execDmaFetchAdd (c : Fin 480) (q : Fin 6) (s : State) : Res :=
  .next (s.dmaDo c.val q.val (fun d => d.kind == 3 && d.aop == 0))

/-- DMA_CLAIM (R344). -/
def execDmaClaim (c : Fin 480) (q : Fin 6) (s : State) : Res := .next (s.dmaDo c.val q.val (fun d => d.kind == 3 && d.aop == 1))

/-- DMA_PRESENT (R344). -/
def execDmaPresent (c : Fin 480) (q : Fin 6) (s : State) : Res := .next (s.dmaDo c.val q.val (fun d => d.kind == 3 && d.aop == 2))

/-- DMA_MASKLOAD (R231, R232, R344). -/
def execDmaMaskload (c : Fin 480) (q : Fin 6) (s : State) : Res := .next (s.dmaDo c.val q.val (fun d => d.kind == 4))

/-- DMA_KEY (R344). -/
def execDmaKey (c : Fin 480) (q : Fin 6) (s : State) : Res := .next (s.dmaDo c.val q.val (fun d => d.kind == 5))

/-- DMA_LINE_RESPONSE (R351): the requests of one row (of a plane, for PANEL and IMAGE) of the queue's descriptor return, or a
fault holds it there. -/
def execDmaLineResponse (c : Fin 480) (q : Fin 6) (s : State) : Res :=
  .next (match s.dmaReady c.val q.val with
    | some (i, t) => s.dmaRow c.val q.val i t
    | none => s)

/-! ### Fault service and the end of a program (R318, R348, R351) -/

/-- The held descriptor of a queue. -/
def State.heldDesc (s : State) (c q : Nat) : Option Nat :=
  ((s.dmaQ c q).zipIdx.find? (fun p => match p.1.phase with | .held _ => true | _ => false)).map (·.2)

/-- Retry: the descriptor goes on from its row. -/
def State.dmaRetry (s : State) (c q : Nat) : State :=
  match s.heldDesc c q with
  | some i => s.updDesc c q i (fun t => { t with phase := .moving })
  | none => s

/-- Abort: the descriptor completes with XLATE_FAIL and the class; a MASKLOAD leaves discard-all (R232). -/
def State.dmaAbort (s : State) (c q cls : Nat) : State :=
  match s.heldDesc c q with
  | none => s
  | some i =>
    let ml := match (s.dmaQ c q)[i]? with | some t => (descOf t.d).kind == 4 | none => false
    let s := if ml then s.updMc (4 * c + q) (fun m => m.maskDone .discardAll) else s
    (s.updDesc c q i (fun t => { t with
      phase := .moving
      rowsDone := (descOf t.d).rows
      status := BitVec.ofNat 8 (lowStatus t.status.toNat stXlateFail)
      detail := if t.status = 0 ∨ t.status.toNat ≥ stXlateFail then BitVec.ofNat 8 cls else 0 })).dmaSettle c q

/-- Firmware ends the owner's program: every descriptor of the queue completes ABORTED (R348), and its held access is abandoned. -/
def State.dmaEndQueue (s : State) (c q : Nat) : State :=
  let s := s.dropWaiters (fun w => w == .dma c q)
  let s := s.setDmaQ c q ((s.dmaQ c q).map (fun t => { t with
    phase := .done
    status := BitVec.ofNat 8 (lowStatus t.status.toNat stAborted) }))
  s.dmaRetire c q (s.dmaQ c q).length

/-- The accesses of a stopped engine that fault service holds are abandoned; each descriptor keeps its row (R325, R352). -/
def State.dmaAbandon (s : State) (c : Nat) : State :=
  let s := s.dropWaiters (fun w => match w with | .dma k _ => k == c | _ => false)
  forEach (upTo 6) s (fun s q => s.dmaRetry c q)

/-! ### Multicast targets (R463, R464) -/

/-- The first descriptor of a queue that waits for a target. -/
def State.waitsFor (s : State) (c q target : Nat) : Option Nat :=
  ((s.dmaQ c q).zipIdx.find? (fun p => p.1.issued && mget .undelivered p.1.targets target == .waiting)).map (·.2)

/-- Settle a target of a multicast. -/
def State.settleTarget (s : State) (c q i target : Nat) (r : TargetState) : State :=
  (s.updDesc c q i (fun t => { t with targets := mput t.targets target r })).dmaSettle c q

/-- MCAST_TARGET_COMPLETION (R463, R464): a delivered target has taken its copies; a completion after the target's timeout
delivers the copies that were held and is discarded. -/
def execMcastTargetCompletion (c : Fin 480) (q : Fin 6) (target : Fin 480) (ok : Bool) (s : State) : Res :=
  let good := ok && !s.cellDown target.val
  .next (match s.waitsFor c.val q.val target.val with
    | some i =>
      let copies := match (s.dmaQ c.val q.val)[i]? with | some t => t.copies | none => []
      let s := if good then s.takeCopies target.val copies else s
      s.settleTarget c.val q.val i target.val (if good then .delivered else .undelivered)
    | none =>
      match (s.dmaOf c.val).late.find? (fun e => e.1 == q.val && e.2.1 == target.val) with
      | none => s
      | some e =>
        let s := s.setDma c.val { s.dmaOf c.val with late := (s.dmaOf c.val).late.erase e }
        if good then s.takeCopies target.val e.2.2 else s)

/-- MCAST_TIMEOUT (R463): with mcast_to 0 no target times out. -/
def execMcastTimeout (c : Fin 480) (q : Fin 6) (target : Fin 480) (s : State) : Res :=
  .next (match s.waitsFor c.val q.val target.val with
    | some i => if s.getF ⟨redBase, 0, 16⟩ = 0 then s else s.settleTarget c.val q.val i target.val .undelivered
    | none => s)

/-! ### DMAQ (R166) -/

/-- DMAQ: the descriptor is copied at issue; a full queue holds issue, in state WAIT. -/
def execDmaq (mc : Fin 1920) (f : BitVec 56) (s : State) : Res :=
  let n := mc.val
  let rsv := rsvd f [(55, 43)]
  let room := s.dmaRoom (n / 4) (n % 4)
  if s.mcRun n && !rsv && !room then .next (s.putF (mxcSt n) 2)
  else
    s.issue n 4 rsv room none (fun s =>
      s.dmaEnqueue (n / 4) (n % 4) (BitVec.ofNat 512 ((s.mc n).scrNat (64 * fb f 55 43) 64)))

end Sys2Proof.Machine
end

