-- ==== Sys2Proof/Machine/Rv.lean ====
section
/-! DEFINITION. A RISC-V core (R242-R249): registers, CSRs, traps; where the spec names the RISC-V standards only, their text is presumed (log entry 27). -/

namespace Sys2Proof.Machine

/-! ### Registers and CSRs -/

/-- Whether a core is a vector core. -/
def isVcKey (k : Nat) : Bool := decide (k < 480)

/-- Integer register i; x0 reads zero. -/
def State.xr (s : State) (k i : Nat) : Word := if i = 0 then 0 else mget 0 (s.rv k).x i

/-- Write integer register i; x0 discards it. -/
def State.setXr (s : State) (k i : Nat) (v : Word) : State := if i = 0 then s else s.updRv k (fun r => { r with x := mset 0 r.x i v })

/-- mstatus: FS and VS are Initial at reset, so that the extensions of R242 run (log entry 27). -/
def csrMstatus : Nat := 0x300
/-- What an unlisted CSR reads as; mcounteren and scounteren let U mode read cycle, time and instret (R246). -/
def csrReset (n : Nat) : Word := if n = csrMstatus then 0x2200 else if n = 0x306 ∨ n = 0x106 then 7 else 0

/-- A CSR's stored value. -/
def State.csr (s : State) (k n : Nat) : Word := mgetF csrReset (s.rv k).csr n

/-- Store a CSR. -/
def State.setCsr (s : State) (k n : Nat) (v : Word) : State := s.updRv k (fun r => { r with csr := msetF csrReset r.csr n v })

/-- Set flags of fflags, held in fcsr[4:0]. -/
def State.setFflags (s : State) (k : Nat) (f : Nat) : State :=
  if f = 0 then s
  else
    let s := s.setCsr k 3 (s.csr k 3 ||| BitVec.ofNat 64 f)
    s.setCsr k csrMstatus (setFld (s.csr k csrMstatus) 13 2 3)

/-- Flags of fflags. -/
def ffNX : Nat := 1
def ffUF : Nat := 2
def ffOF : Nat := 4
def ffDZ : Nat := 8
def ffNV : Nat := 16

/-- Number of a privilege mode. -/
def modeNo (m : Mode) : Nat :=
  match m with
  | .machine => 3
  | .supervisor => 1
  | .user => 0

/-- The mode of a number; the reserved 2 is taken as U. -/
def modeOf (n : Nat) : Mode := if n = 3 then .machine else if n = 1 then .supervisor else .user

/-! ### Traps -/

/-- Exception causes of the standard, and the custom ones of R249. -/
def excFetchMisaligned : Nat := 0
def excFetchAccess : Nat := 1
def excIllegal : Nat := 2
def excBreakpoint : Nat := 3
def excLoadMisaligned : Nat := 4
def excLoadAccess : Nat := 5
def excStoreMisaligned : Nat := 6
def excStoreAccess : Nat := 7
def excEcallU : Nat := 8
def excFetchPage : Nat := 12
def excLoadPage : Nat := 13
def excStorePage : Nat := 15
def excXtAccess : Nat := 24
def excSyncTarget : Nat := 25
def excSyncError : Nat := 26
def excXdAddr : Nat := 27

/-- Where a trap goes: the base, or base + 4 × cause for an interrupt of a vectored tvec. -/
def tvecTarget (tvec : Word) (cause : Nat) (isInt : Bool) : Word :=
  let base := tvec &&& ~~~ 3#64
  if isInt && fld tvec 0 2 == 1 then base + BitVec.ofNat 64 (4 * cause) else base

/-- Whether a trap is taken in S mode: on a half controller or service core, from below M mode, when delegated. -/
def State.delegated (s : State) (k cause : Nat) (isInt : Bool) : Bool :=
  !isVcKey k && (s.rv k).mode != .machine && bit (s.csr k (if isInt then 0x303 else 0x302)).toNat cause

/-- Take a trap: the return address, cause and value saved, interrupts off, the mode changed, the reservation lost (R245). -/
def State.takeTrap (s : State) (k cause : Nat) (isInt : Bool) (tval : Word) : State :=
  let r := s.rv k
  let code : Word := BitVec.ofNat 64 (cause + b2n isInt * 2 ^ 63)
  let st := s.csr k csrMstatus
  let prev := modeNo r.mode
  let s :=
    if s.delegated k cause isInt then
      let st := setFld (setFld (setFld st 5 1 (fld st 1 1)) 1 1 0) 8 1 prev
      ((((s.setCsr k csrMstatus st).setCsr k 0x141 r.pc).setCsr k 0x142 code).setCsr k 0x143 tval).updRv k (fun z =>
        { z with mode := .supervisor, pc := tvecTarget (s.csr k 0x105) cause isInt })
    else
      let st := setFld (setFld (setFld st 7 1 (fld st 3 1)) 3 1 0) 11 2 prev
      ((((s.setCsr k csrMstatus st).setCsr k 0x341 r.pc).setCsr k 0x342 code).setCsr k 0x343 tval).updRv k (fun z =>
        { z with mode := .machine, pc := tvecTarget (s.csr k 0x305) cause isInt })
  s.updRv k (fun z => { z with resv := none, waiting := false, held := none })

/-- Take an exception. One that a kernel takes in U mode ends it: by an environment call it completes (log entry 28), by any
other cause M-mode firmware ends it (R318, R511). -/
def State.exception (s : State) (k cause : Nat) (tval : Word) : State :=
  let r := s.rv k
  let ends := isVcKey k && r.launched && !r.ended && r.mode == .user
  let s := s.takeTrap k cause false tval
  if ends then s.updRv k (fun z => { z with ended := true, endCause := if cause = excEcallU then none else some cause }) else s

/-- An illegal-instruction exception with the instruction's bits. -/
def State.illegal (s : State) (k w : Nat) : State := s.exception k excIllegal (BitVec.ofNat 64 w)

/-- A core may execute its next instruction: it is not stopped, no fault record holds its access, and a vector core in U mode runs
a kernel. -/
def State.rvRun (s : State) (k : Nat) : Bool :=
  let r := s.rv k
  !r.stopped && r.held.isNone && !(isVcKey k && r.mode == .user && (!r.launched || r.ended))

/-- One more instruction counts in instret, unless mcountinhibit stops it. -/
def State.countInst (s : State) (k : Nat) : State := if bit (s.csr k 0x320).toNat 2 then s else s.setCsr k 0xB02 (s.csr k 0xB02 + 1)

/-- An instruction of len bytes has completed: the pc moves on and instret counts. -/
def State.retire (s : State) (k len : Nat) : State :=
  (s.countInst k).updRv k (fun r => { r with pc := r.pc + BitVec.ofNat 64 len, waiting := false })

/-- A jump or taken branch has completed. -/
def State.jump (s : State) (k : Nat) (target : Word) : State :=
  (s.countInst k).updRv k (fun r => { r with pc := target &&& ~~~ 1#64, waiting := false })

/-- Floating-point and vector state: on, and marked Dirty in mstatus when written. -/
def State.fsOn (s : State) (k : Nat) : Bool := fld (s.csr k csrMstatus) 13 2 != 0
def State.vsOn (s : State) (k : Nat) : Bool := isVcKey k && fld (s.csr k csrMstatus) 9 2 != 0
def State.fsDirty (s : State) (k : Nat) : State := s.setCsr k csrMstatus (setFld (s.csr k csrMstatus) 13 2 3)
def State.vsDirty (s : State) (k : Nat) : State := s.setCsr k csrMstatus (setFld (s.csr k csrMstatus) 9 2 3)

/-! ### Vector configuration -/

/-- vl, vtype, vstart. -/
def State.vl (s : State) (k : Nat) : Nat := (s.csr k 0xC20).toNat
def State.vtype (s : State) (k : Nat) : Word := s.csr k 0xC21
def State.vstart (s : State) (k : Nat) : Nat := (s.csr k 0x008).toNat
def vill (t : Word) : Bool := bit t.toNat 63

/-- SEW in bits. -/
def sewOf (t : Word) : Nat := 8 * 2 ^ fld t 3 3

/-- LMUL in eighths of a register. -/
def lmul8 (t : Word) : Nat :=
  match fld t 0 3 with
  | 0 => 8
  | 1 => 16
  | 2 => 32
  | 3 => 64
  | 5 => 1
  | 6 => 2
  | 7 => 4
  | _ => 0

/-- Registers of a group; a fraction takes one. -/
def groupRegs (m8 : Nat) : Nat := max 1 (m8 / 8)

/-- VLMAX: LMUL × VLEN / SEW, with VLEN 4,096 (R243). -/
def vlmaxOf (m8 sew : Nat) : Nat := m8 * 512 / sew

/-- Bytes of vector registers from register r on. -/
def RvState.vBytes (r : RvState) (v n : Nat) : List Byte := readBytes r.v (512 * v) n

/-- Element i of w bits of the group at register v. -/
def RvState.vEl (r : RvState) (v w i : Nat) : Nat := readLE r.v (512 * v + i * (w / 8)) (w / 8)

/-- Write element i of w bits of the group at register v. -/
def RvState.setVEl (r : RvState) (v w i x : Nat) : RvState := { r with v := writeLE r.v (512 * v + i * (w / 8)) (w / 8) (x % 2 ^ w) }

/-- Mask bit i of register v. -/
def RvState.vBit (r : RvState) (v i : Nat) : Bool := bit (readLE r.v (512 * v + i / 8) 1) (i % 8)

/-- Write mask bit i of register v. -/
def RvState.setVBit (r : RvState) (v i : Nat) (b : Bool) : RvState :=
  let a := 512 * v + i / 8
  let o := readLE r.v a 1
  { r with v := writeLE r.v a 1 (if b then o ||| 2 ^ (i % 8) else o &&& (255 - 2 ^ (i % 8))) }

/-- Whether element i is active. -/
def RvState.active (r : RvState) (vm : Bool) (i : Nat) : Bool := vm || r.vBit 0 i

/-- The elements an instruction acts on: from vstart to vl - 1, those that are active. -/
def State.vElems (s : State) (k : Nat) (vm : Bool) : List Nat :=
  (upTo (s.vl k)).filter (fun i => decide (s.vstart k ≤ i) && (s.rv k).active vm i)

/-- A group of m8 eighths that starts at register v is legal: aligned to its size and inside the file. -/
def groupOk (v m8 : Nat) : Bool := decide (v % groupRegs m8 = 0) && decide (v + groupRegs m8 ≤ 32)

/-- The end of a vector instruction: vstart is zero, the vector state Dirty. -/
def State.endVec (s : State) (k : Nat) : State := (s.setCsr k 0x008 0).vsDirty k

/-- Agnostic elements of a destination, the tail from evl on under vta and the masked off ones from lo on under vma: each is kept
or set to ones, as a free value chooses (log entry 57). `tu` makes the tail agnostic whatever vta says. -/
def State.agnosticFrom (s : State) (k v w m8 lo evl : Nat) (vm tu : Bool) : State :=
  let t := s.vtype k
  let n := groupRegs m8 * 4096 / w
  let r0 := s.rv k
  let ta := tu || bit t.toNat 6
  let ma := !vm && bit t.toNat 7
  if !ta && !ma then s
  else
    let es := (upTo n).filter (fun i => (decide (evl ≤ i) && ta) || (decide (lo ≤ i) && decide (i < evl) && ma && !r0.vBit 0 i))
    let es := es.filter (fun i => bit (Config.freeWord (s.freeCtr + i)).toNat 0)
    let s := s.updRv k (fun r => forEach es r (fun r i => r.setVEl v w i (2 ^ w - 1)))
    { s with freeCtr := s.freeCtr + n }

/-- The same for the elements from vstart on; an instruction with vstart at or past its length updates nothing. -/
def State.agnostic (s : State) (k v w m8 evl : Nat) (vm tu : Bool) : State :=
  if s.vstart k ≥ evl then s else s.agnosticFrom k v w m8 (s.vstart k) evl vm tu

end Sys2Proof.Machine
end

