-- ==== Sys2Proof/Machine/Xif.lean ====
section
/-! DEFINITION. The vector core's own extensions: Xiftile (R255-R259), Xifsync and Xifdma (R260-R262). -/

namespace Sys2Proof.Machine

/-! ### Tile space (R255, R256) -/

/-- Whether a byte of tile space lies in the space that an access names. -/
def tsaOk (base a : Nat) : Bool :=
  decide (base / 2 ^ 22 = 0) && decide (bits base 18 2 ≤ 1) && decide (a / 2 ^ 18 = base / 2 ^ 18)
    && (decide (bits base 18 2 = 1) || decide (a % 2 ^ 18 < 0x1_0000))

/-- Read a byte of tile space of a cell; a zero-marked row reads +0. -/
def State.tsByte (s : State) (c a : Nat) : Byte :=
  let m := s.mc (4 * c + bits a 20 2)
  let off := a % 2 ^ 18
  if bits a 18 2 = 0 then mget 0 m.tiles off
  else
    let v := m.accAt (off / 4096) (off % 4096 / 128) (off % 128 / 4)
    BitVec.ofNat 8 (bits v (8 * (off % 4)) 8)

/-- Write a byte of tile space of a cell; a write clears a row's zero mark, and its other bytes then read +0. -/
def State.setTsByte (s : State) (c a : Nat) (b : Byte) : State :=
  s.updMc (4 * c + bits a 20 2) (fun m =>
    let off := a % 2 ^ 18
    if bits a 18 2 = 0 then m.putTile (off / 4096) (off % 4096) [b]
    else
      let t := off / 4096
      let i := off % 4096 / 128
      let j := off % 128 / 4
      let sh := 8 * (off % 4)
      let v := m.accAt t i j
      m.putAcc t i j (v - (bits v sh 8) * 2 ^ sh + b.toNat * 2 ^ sh))

/-- Addresses of the bytes of element i of an access. -/
def tsaOf (base stride w i : Nat) : List Nat := (upTo (w / 8)).map (fun b => (base + i * stride + b) % 2 ^ 64)

/-- An Xiftile access: illegal without a legal vtype and group, XT_ACCESS where a byte lies outside; else `go` on the active elements. -/
def State.xtAccess (s : State) (vc : Nat) (w : Nat) (vm load : Bool) (base stride v : Nat) (go : State → Nat → Nat → List Nat → State) : Res :=
  when (s.rvRun vc) (fun s =>
    let t := s.vtype vc
    let sew := sewOf t
    if !s.vsOn vc || vill t || !groupOk v (lmul8 t) || (load && !vm && v == 0) then s.illegal vc w
    else
      let es := s.vElems vc vm
      match (es.flatMap (tsaOf base stride sew)).find? (fun a => !tsaOk base a) with
      | some a => s.exception vc excXtAccess (BitVec.ofNat 64 a)
      | none =>
        let s := forEach es s (fun s i => go s sew i (tsaOf base stride sew i))
        let s := if load then s.agnostic vc v sew (lmul8 t) (s.vl vc) vm false else s
        (s.endVec vc).retire vc 4) s

/-- Load element i of a group from tile space. -/
def xtLoad (vc v : Nat) (s : State) (sew i : Nat) (as : List Nat) : State :=
  let x := ofLE (as.map (s.tsByte vc))
  s.updRv vc (fun r => r.setVEl v sew i x)

/-- Store element i of a group to tile space. -/
def xtStore (vc v : Nat) (s : State) (sew i : Nat) (as : List Nat) : State :=
  let bs := toLE (sew / 8) ((s.rv vc).vEl v sew i)
  forEach (as.zip bs) s (fun s p => s.setTsByte vc p.1 p.2)

/-- The word of an instruction of custom-0 or custom-1, for mtval. -/
def xifWord (hi vm f20 f15 f12 f7 op : Nat) : Nat :=
  hi * 2 ^ 26 + vm * 2 ^ 25 + f20 * 2 ^ 20 + f15 * 2 ^ 15 + f12 * 2 ^ 12 + f7 * 2 ^ 7 + op

/-- Opcodes custom-0 and custom-1. -/
def opC0 : Nat := 0b0001011
def opC1 : Nat := 0b0101011

/-- XT.VL (R256): unit-stride load of vl elements. -/
def execXtVl (vc : Fin 480) (vm : Bool) (rs1 vd : BitVec 5) (s : State) : Res :=
  s.xtAccess vc.val (xifWord 0 (b2n vm) 0 rs1.toNat 0 vd.toNat opC0) vm true (s.xr vc.val rs1.toNat).toNat (sewOf (s.vtype vc.val) / 8) vd.toNat
    (xtLoad vc.val vd.toNat)

/-- XT.VLS (R256): the byte stride comes from rs2. -/
def execXtVls (vc : Fin 480) (vm : Bool) (rs2 rs1 vd : BitVec 5) (s : State) : Res :=
  s.xtAccess vc.val (xifWord 1 (b2n vm) rs2.toNat rs1.toNat 0 vd.toNat opC0) vm true (s.xr vc.val rs1.toNat).toNat (s.xr vc.val rs2.toNat).toNat
    vd.toNat (xtLoad vc.val vd.toNat)

/-- XT.VS (R256): unit-stride store. -/
def execXtVs (vc : Fin 480) (vm : Bool) (rs1 vs3 : BitVec 5) (s : State) : Res :=
  s.xtAccess vc.val (xifWord 0 (b2n vm) 0 rs1.toNat 1 vs3.toNat opC0) vm false (s.xr vc.val rs1.toNat).toNat (sewOf (s.vtype vc.val) / 8) vs3.toNat
    (xtStore vc.val vs3.toNat)

/-- XT.VSS (R256). -/
def execXtVss (vc : Fin 480) (vm : Bool) (rs2 rs1 vs3 : BitVec 5) (s : State) : Res :=
  s.xtAccess vc.val (xifWord 1 (b2n vm) rs2.toNat rs1.toNat 1 vs3.toNat opC0) vm false (s.xr vc.val rs1.toNat).toNat
    (s.xr vc.val rs2.toNat).toNat vs3.toNat (xtStore vc.val vs3.toNat)

/-- XT.FENCE (R256): an Xiftile store is written when it is performed, so that the fence only goes on. -/
def execXtFence (vc : Fin 480) (s : State) : Res := when (s.rvRun vc.val) (fun s => s.retire vc.val 4) s

/-! ### XT.VUNP and XT.VPK (R258, R259) -/

/-- The binary32 value of a narrow element without its scale (R258). -/
def unpEl (c x : Nat) : Nat :=
  let v : Val := if c = 0xE then (if x = 0xFF then .nan else .fin false 1 ((x : Int) - 127)) else decodeEl c x 127
  rne32 v

/-- Whether two groups of the same size overlap. -/
def overlaps (a b m8 : Nat) : Bool := meets a (groupRegs m8) b (groupRegs m8)

/-- XT.VUNP (R258). -/
def execXtVunp (vc : Fin 480) (vs2 : BitVec 5) (fmt : BitVec 4) (vd : BitVec 5) (s : State) : Res :=
  let k := vc.val
  when (s.rvRun k) (fun s =>
    let t := s.vtype k
    let m8 := lmul8 t
    let c := fmt.toNat
    let okFmt := decide (c ≤ 5) || (decide (8 ≤ c) && decide (c ≤ 0xA)) || c == 0xE
    if !s.vsOn k || vill t || sewOf t != 32 || !okFmt || !groupOk vs2.toNat m8 || !groupOk vd.toNat m8 || overlaps vs2.toNat vd.toNat m8 then
      s.illegal k (xifWord 0 1 vs2.toNat c 2 vd.toNat opC0)
    else
      let n := s.vl k
      let es := unpackRun c n ((s.rv k).vBytes vs2.toNat (packedLen c n))
      ((s.updRv k (fun r => forEach es.zipIdx r (fun r p => r.setVEl vd.toNat 32 p.2 (unpEl c p.1)))).endVec k).retire k 4) s

/-- XT.VPK (R259): a NaN has no code in an MX element format without a scale, and its element is a free value (log entry 29). -/
def execXtVpk (vc : Fin 480) (ovf : Bool) (vs2 : BitVec 5) (fmt : BitVec 4) (vd : BitVec 5) (s : State) : Res :=
  let k := vc.val
  when (s.rvRun k) (fun s =>
    let t := s.vtype k
    let m8 := lmul8 t
    let c := fmt.toNat
    let mx := c == 0 || c == 2 || c == 3
    let okFmt := mx || c == 4 || c == 5 || c == 9 || c == 0xA
    if !s.vsOn k || vill t || sewOf t != 32 || !okFmt || (mx && ovf) || !groupOk vs2.toNat m8 || !groupOk vd.toNat m8 then
      s.illegal k (xifWord (b2n ovf) 1 vs2.toNat c 3 vd.toNat opC0)
    else
      let n := s.vl k
      let xs := (upTo n).map (fun i => f32 ((s.rv k).vEl vs2.toNat 32 i))
      let es := xs.map (convVal c .rne ovf false)
      let free := Config.freeWord s.freeCtr
      let codes := (xs.zip es).map (fun p => if mx && p.1.isNan then free.toNat % 2 ^ fmtBits c else p.2.code)
      let run := packRun c codes
      let fl := flagsOf es
      let img := run ++ List.replicate (512 * groupRegs m8 - run.length) 0
      let s := if mx && xs.any Val.isNan then s.tickFree else s
      let s := s.updRv k (fun r => { r with v := writeBytes r.v (512 * vd.toNat) img })
      let s := s.setFflags k ((if fl.ovf then ffOF else 0) + (if fl.inv then ffNV else 0))
      (s.endVec k).retire k 4) s

/-! ### Xifsync (R260, R261) -/

/-- The sync key of a vector core. -/
def vcKey (vc : Nat) : Nat := coreKey ⟨true, vc⟩

/-- Older stores and descriptors of a vector core are complete (R261): its stores are performed as they execute. -/
def State.vcDrained (s : State) (vc : Nat) : Bool := (s.dmaQ vc 4).isEmpty

/-- What a sync instruction of a vector core gives: it waits, traps, or completes with a result for rd. -/
def State.vcSync (_s : State) (vc : Nat) (counter target : Nat) (act : SyncDo) (rd : Option (Nat × Word)) : State :=
  match act with
  | .hold s => s.updRv vc (fun r => { r with waiting := true })
  | .fault s code =>
    if code = fltTarget then s.exception vc excSyncTarget (BitVec.ofNat 64 target) else s.exception vc excSyncError (BitVec.ofNat 64 counter)
  | .done s =>
    let s := s.setSync (vcKey vc) { s.syncOf (vcKey vc) with want := none, stall := none, idle := false }
    let s := match rd with | some (r, v) => s.setXr vc r v | none => s
    s.retire vc 4

/-- XS.ADD (R260-R262). -/
def execXsAdd (vc : Fin 480) (sn : Fin 32) (rs1 : BitVec 5) (s : State) : Res :=
  when (s.rvRun vc.val && s.vcDrained vc.val) (fun s =>
    let x := sext (s.xr vc.val rs1.toNat).toNat 16
    s.vcSync vc.val sn.val 0 (s.ownAdd (vcKey vc.val) sn.val x) none) s

/-- XS.WAIT (R260). -/
def execXsWait (vc : Fin 480) (sn : Fin 32) (rs1 : BitVec 5) (s : State) : Res :=
  when (s.rvRun vc.val) (fun s =>
    s.vcSync vc.val sn.val 0 (s.ownWait (vcKey vc.val) sn.val (fld (s.xr vc.val rs1.toNat) 0 16)) none) s

/-- XS.TRY (R260): as XS.WAIT when the counter is large enough; else rd is 0. -/
def execXsTry (vc : Fin 480) (sn : Fin 32) (rs1 rd : BitVec 5) (s : State) : Res :=
  when (s.rvRun vc.val) (fun s =>
    let k := vcKey vc.val
    let x := fld (s.xr vc.val rs1.toNat) 0 16
    if !s.pendOn k sn.val && decide ((s.syncOf k).val sn.val < x) then (s.setXr vc.val rd.toNat 0).retire vc.val 4
    else s.vcSync vc.val sn.val 0 (s.ownWait k sn.val x) (some (rd.toNat, 1))) s

/-- XS.RD (R260): value and sticky flag; it names the counter, so a pending error is raised (R363). -/
def execXsRd (vc : Fin 480) (sn : Fin 32) (rd : BitVec 5) (s : State) : Res :=
  when (s.rvRun vc.val) (fun s =>
    let k := vcKey vc.val
    let v := (s.syncOf k).val sn.val + b2n (bit (s.reg (synKey k + 8)).toNat sn.val) * 65536
    let act : SyncDo := if s.pendOn k sn.val then .fault (s.clearPend k sn.val) fltSync else .done s
    s.vcSync vc.val sn.val 0 act (some (rd.toNat, BitVec.ofNat 64 v))) s

/-- XS.SIG (R260, R261). -/
def execXsSig (vc : Fin 480) (rs2 rs1 : BitVec 5) (s : State) : Res :=
  when (s.rvRun vc.val && s.vcDrained vc.val) (fun s =>
    let t := (s.xr vc.val rs1.toNat).toNat
    if t / 2 ^ 17 ≠ 0 then s.illegal vc.val (xifWord 0 0 rs2.toNat rs1.toNat 4 0 opC1)
    else
      s.vcSync vc.val (t % 32) t
        (s.ownSig ⟨true, vc.val⟩ ⟨bit t 5, bits t 6 11⟩ (Fin.ofNat 32 t) (BitVec.ofNat 16 (fld (s.xr vc.val rs2.toNat) 0 16))) none) s

/-- XS.BAR (R260, R261, R375). -/
def execXsBar (vc : Fin 480) (sn : Fin 32) (rs1 : BitVec 5) (s : State) : Res :=
  when (s.rvRun vc.val && s.vcDrained vc.val) (fun s =>
    let t := (s.xr vc.val rs1.toNat).toNat
    if t / 1024 ≠ 0 then s.illegal vc.val (xifWord 0 0 sn.val rs1.toNat 5 0 opC1)
    else s.vcSync vc.val sn.val 0 (s.ownBar ⟨true, vc.val⟩ t sn.val) none) s

/-! ### Xifdma (R260) -/

/-- Offset in vector scratch of an address (R253). -/
def vscrOff (a : Word) : Option Nat := if a.toNat ≥ 0xFFFF_FFFF_FFF8_0000 then some (a.toNat - 0xFFFF_FFFF_FFF8_0000) else none

/-- The 64 B descriptor in bytes. -/
def descBytes (bs : List Byte) : BitVec 512 := BitVec.ofNat 512 (ofLE bs)

/-- Enqueue a descriptor: a full queue makes the instruction wait, or answers rd = 0. -/
def State.xdEnqueue (s : State) (vc : Nat) (w : BitVec 512) (rd : Option Nat) : State :=
  if s.dmaRoom vc 4 then
    let s := s.dmaEnqueue vc 4 w
    let s := match rd with | some r => s.setXr vc r 1 | none => s
    s.retire vc 4
  else
    match rd with
    | some r => (s.setXr vc r 0).retire vc 4
    | none => s.updRv vc (fun r => { r with waiting := true })

/-- The descriptor at an address of vector scratch, or XD_ADDR (R249). -/
def State.xdScratch (s : State) (vc : Nat) (a : Word) (rd : Option Nat) : State :=
  match vscrOff a with
  | none => s.exception vc excXdAddr a
  | some o => if o % 64 ≠ 0 then s.exception vc excXdAddr a else s.xdEnqueue vc (descBytes ((s.rv vc).scrRead o 64)) rd

/-- XD.Q. -/
def execXdQ (vc : Fin 480) (rs1 : BitVec 5) (s : State) : Res :=
  when (s.rvRun vc.val) (fun s => s.xdScratch vc.val (s.xr vc.val rs1.toNat) none) s

/-- XD.QV. -/
def execXdQv (vc : Fin 480) (vs2 : BitVec 5) (s : State) : Res :=
  when (s.rvRun vc.val) (fun s =>
    if s.vsOn vc.val then s.xdEnqueue vc.val (descBytes ((s.rv vc.val).vBytes vs2.toNat 64)) none
    else s.illegal vc.val (xifWord 1 1 vs2.toNat 0 6 0 opC1)) s

/-- XD.TQ. -/
def execXdTq (vc : Fin 480) (rs1 rd : BitVec 5) (s : State) : Res :=
  when (s.rvRun vc.val) (fun s => s.xdScratch vc.val (s.xr vc.val rs1.toNat) (some rd.toNat)) s

/-- XD.TQV. -/
def execXdTqv (vc : Fin 480) (vs2 rd : BitVec 5) (s : State) : Res :=
  when (s.rvRun vc.val) (fun s =>
    if s.vsOn vc.val then s.xdEnqueue vc.val (descBytes ((s.rv vc.val).vBytes vs2.toNat 64)) (some rd.toNat)
    else s.illegal vc.val (xifWord 1 1 vs2.toNat 0 7 rd.toNat opC1)) s

/-! ### Interrupts and timers (R245-R248) -/

/-- Set or clear a bit of mip. -/
def State.setMip (s : State) (k i : Nat) (b : Bool) : State := s.setCsr k 0x344 (setFld (s.csr k 0x344) i 1 (b2n b))

/-- The interrupt a core takes: external, then software, then timer, among those pending and enabled. -/
def State.pendingInt (s : State) (k : Nat) : Option Nat :=
  let p := (s.csr k 0x344 &&& s.csr k 0x304).toNat
  let on := (s.rv k).mode != .machine || fld (s.csr k csrMstatus) 3 1 == 1
  if on then [11, 3, 7].find? (fun i => bit p i) else none

/-- VC_INTERRUPT_TAKE (R247, R248). -/
def execVcInterruptTake (vc : Fin 480) (s : State) : Res :=
  .next (match s.pendingInt vc.val with
    | some i =>
      if (s.rv vc.val).stopped then s
      else
        let s := s.setSync (vcKey vc.val) { s.syncOf (vcKey vc.val) with want := none, stall := none, idle := false }
        let s := s.dropWaiters (fun w => w == .vc vc.val)
        s.takeTrap vc.val i true 0
    | none => s)

/-- MTIME_COMPARE (R246, R247): the timer interrupt becomes pending once mtime has reached mtimecmp. -/
def execMtimeCompare (core : RvCore) (s : State) : Res :=
  let k := rvKey core
  when (decide ((s.rv k).mtimecmp ≤ s.mtime)) (fun s => s.setMip k 7 true) s

/-- RESERVATION_TIMEOUT (R245). -/
def execReservationTimeout (core : RvCore) (s : State) : Res := .next (s.updRv (rvKey core) (fun r => { r with resv := none }))

end Sys2Proof.Machine
end

