-- ==== Sys2Proof/Machine/HostBase.lean ====
section
/-! DEFINITION. The host interface's shared operations: vectors (R584), events and requests (R521-R524), commands and their completion (R505-R520). -/

namespace Sys2Proof.Machine

/-! ### Functions and rings (R496, R498, R502) -/

/-- Whether a function exists: the PF, and VF n while NumVFs is at least n. -/
def State.fnOk (s : State) (f : Nat) : Bool := decide (f ≤ s.host.numVfs)

/-- Whether a function may send requests. -/
def State.busOk (s : State) (f : Nat) : Bool := s.fnOk f && mget false s.host.busMaster f

/-- Fields of a ring's registers. -/
def ringKind (r : Nat) : RF := ⟨ringKey r + 8, 0, 2⟩
def ringEn (r : Nat) : RF := ⟨ringKey r + 8, 2, 1⟩
def ringLsize (r : Nat) : RF := ⟨ringKey r + 8, 3, 5⟩
def ringCq (r : Nat) : RF := ⟨ringKey r + 8, 8, 10⟩
def ringVec (r : Nat) : RF := ⟨ringKey r + 8, 18, 7⟩
def ringSt (r : Nat) : RF := ⟨ringKey r + 8, 26, 2⟩
def ringErr (r : Nat) : RF := ⟨ringKey r + 8, 28, 4⟩
def ringMod (r : Nat) : RF := ⟨ringKey r + 0x10, 0, 16⟩
def ringHost (r : Nat) : RF := ⟨ringKey r + 0x10, 16, 16⟩
def ringPhase (r : Nat) : RF := ⟨ringKey r + 0x10, 32, 1⟩

/-- Entries of a ring. -/
def State.ringSize (s : State) (r : Nat) : Nat := 2 ^ s.getF (ringLsize r)

/-- Host address of entry i of a ring whose entries have n bytes. -/
def State.ringAddr (s : State) (r i n : Nat) : Nat := fld (s.reg (ringKey r)) 12 52 * 4096 + i * n

/-- A ring is ACTIVE and of a kind. -/
def State.ringActive (s : State) (r k : Nat) : Bool := s.getF (ringSt r) == 1 && s.getF (ringKind r) == k

/-- A CQ or EQ has room for a record (R517). -/
def State.ringRoom (s : State) (r : Nat) : Bool :=
  let n := s.ringSize r
  decide ((s.getF (ringMod r) + n - s.getF (ringHost r) % n) % n < n - 1)

/-! ### MSI-X vectors (R498, R518, R584) -/

/-- Key of the table entry of vector v of function f. -/
def vecKey (f v : Nat) : Nat := fnPage f + 0x2000 + 16 * v

/-- Whether a module vector is masked. -/
def State.vecMasked (s : State) (m : Nat) : Bool := bit (s.reg (vecKey (m / 128) (m % 128) + 8)).toNat 32

/-- Set or clear the PBA bit of a module vector. -/
def State.setPba (s : State) (m : Nat) (b : Bool) : State := s.putB ⟨fnPage (m / 128) + 0x3000 + 8 * (m % 128 / 64), m % 64, 1⟩ b

/-- Send the message of a module vector, and start its moderation interval. -/
def State.sendVec (s : State) (m : Nat) : State :=
  let k := vecKey (m / 128) (m % 128)
  let s := s.emit (.msix m (s.reg k).toNat (fld (s.reg (k + 8)) 0 32))
  let s := s.setPba m false
  let busy := decide (s.getF ⟨irqJBase + 0x4000 + 8 * m, 0, 16⟩ ≠ 0)
  { s with host := { s.host with vecPend := mset false s.host.vecPend m false, vecBusy := mset false s.host.vecBusy m busy } }

/-- Send a module vector's pending request unless it is masked or its interval runs; a masked one sets its PBA bit. -/
def State.flushVec (s : State) (m : Nat) : State :=
  if !mget false s.host.vecPend m then s
  else if s.vecMasked m then s.setPba m true
  else if mget false s.host.vecBusy m then s
  else s.sendVec m

/-- Request a message on vector v of function f. -/
def State.fireVec (s : State) (f v : Nat) : State :=
  let m := 128 * f + v
  ({ s with host := { s.host with vecPend := mset false s.host.vecPend m true } }).flushVec m

/-- MSIX_MODERATION_EXPIRY (R584). -/
def execMsixModerationExpiry (m : Fin 2048) (s : State) : Res :=
  when (mget false s.host.vecBusy m.val) (fun s =>
    ({ s with host := { s.host with vecBusy := mset false s.host.vecBusy m.val false } }).flushVec m.val) s

/-- Clear a vector's mask and send its pending message. -/
def State.unmaskVec (s : State) (m : Nat) : State := (s.putF ⟨vecKey (m / 128) (m % 128) + 8, 32, 1⟩ 0).flushVec m

/-- MSIX_UNMASK (R584). -/
def execMsixUnmask (m : Fin 2048) (s : State) : Res := .next (s.unmaskVec m.val)

/-! ### Records into rings (R514-R518) -/

/-- Write a record into a CQ or EQ: the phase in bit 0 of its first byte, the index moved on, an armed vector sent. -/
def State.putRecord (s : State) (r : Nat) (bs : List Byte) : State :=
  let f := s.ringPart r
  let i := s.getF (ringMod r)
  let ph := s.getF (ringPhase r)
  let s := s.emit (.hostWrite f (s.ringAddr r i bs.length) (BitVec.ofNat 8 ph :: bs.drop 1))
  let wrap := decide (i + 1 = s.ringSize r)
  let s := s.putF (ringMod r) (if wrap then 0 else i + 1)
  let s := if wrap then s.putF (ringPhase r) (1 - ph) else s
  if mget false s.host.arm r then
    ({ s with host := { s.host with arm := mset false s.host.arm r false } }).fireVec f (s.getF (ringVec r))
  else s

/-! ### Events and requests (R521-R523) -/

/-- The 64 B event record of a type, sequence number and payload. -/
def eventBytes (ty seq : Nat) (time : Word) (payload : List Byte) : List Byte :=
  [0, BitVec.ofNat 8 ty, 0, 0] ++ toLE 4 seq ++ toLE 8 time.toNat ++ (payload ++ List.replicate 32 0).take 32 ++ List.replicate 16 0

/-- The sequence number after one: 0 is skipped. -/
def nextSeq (x : Word32) : Word32 := if x + 1 = 0 then 1 else x + 1

/-- Delivery of requests through FN_POP. -/
def State.dlvPop (s : State) (p : Nat) : Bool := s.getB ⟨fnPage p + 8, 0, 1⟩

/-- Post an event that is no request: dropped and counted when the partition's buffer is full. -/
def State.postEvent (s : State) (p ty : Nat) (payload : List Byte) : State :=
  if p ≥ 16 then s
  else
    let e := s.evts p
    if e.buffer.length ≥ 1024 then s.setEvts p { e with dropped := e.dropped + 1 }
    else s.setEvts p { e with buffer := e.buffer ++ [eventBytes ty e.seq.toNat s.mtime payload], seq := nextSeq e.seq }

/-- Post a request, which is never dropped (R522); its sequence number. -/
def State.postRequest (s : State) (p ty : Nat) (payload : List Byte) : State × Word32 :=
  if p ≥ 16 then (s, 0)
  else
    let e := s.evts p
    let rec_ := eventBytes ty e.seq.toNat s.mtime payload
    let e := { e with seq := nextSeq e.seq }
    (if s.dlvPop p then s.setEvts p { e with popReqs := e.popReqs ++ [rec_] } else s.setEvts p { e with buffer := e.buffer ++ [rec_] },
     (s.evts p).seq)

/-- EVENT_RECORD_WRITE (R523): the oldest waiting record goes to the partition's EQ; dropped events are told once space returns. -/
def execEventRecordWrite (p : Fin 16) (s : State) : Res :=
  let e := s.evts p.val
  let r := s.getF ⟨fnPage p.val + 8, 8, 10⟩
  .next (match e.buffer with
    | [] => s
    | b :: rest =>
      if s.ringPart r = p.val ∧ s.ringActive r 3 = true ∧ s.ringRoom r = true ∧ s.busOk p.val = true then
        let s := (s.setEvts p.val { e with buffer := rest }).putRecord r b
        if e.dropped > 0 ∧ rest.length < 1024 then
          (s.setEvts p.val { s.evts p.val with dropped := 0 }).postEvent p.val 8 (toLE 4 e.dropped)
        else s
      else s)

/-! ### Commands (R505-R508, R514, R520) -/

def cmOk : Nat := 0
def cmBadOpcode : Nat := 1
def cmBadField : Nat := 2
def cmNotPermitted : Nat := 3
def cmRecordFault : Nat := 4
def cmKernelFault : Nat := 5
def cmDmaError : Nat := 6
def cmEnded : Nat := 7
def cmStale : Nat := 8
def cmBarParticipant : Nat := 9
def cmBarScope : Nat := 10
def cmBarFull : Nat := 11
def cmBarBusy : Nat := 12
def cmRedPort : Nat := 13
def cmRedFull : Nat := 14
def cmUpdateFail : Nat := 15
def cmNotFound : Nat := 16
def cmFabricRefused : Nat := 17
def cmReduceFail : Nat := 18

/-- n bytes at offset a of a command. -/
def cmdB (c : Cmd) (a n : Nat) : Nat := recB c.toNat a n

/-- Opcode, identifier, context, flags of a command (R507). -/
def cmdOp (c : Cmd) : Nat := cmdB c 0 1
def cmdId (c : Cmd) : Nat := cmdB c 2 2
def cmdCtx (c : Cmd) : Nat := cmdB c 4 1
def cmdFence (c : Cmd) : Bool := bit c.toNat 8
def cmdQuiet (c : Cmd) : Bool := bit c.toNat 9

/-- The opcodes of R509. -/
def opcodes : List Nat := [0, 1, 2, 3, 0x10, 0x20, 0x21, 0x22, 0x23, 0x24, 0x30, 0x31, 0x40, 0x41, 0x42, 0x50, 0x51, 0x60]

/-- Header without reserved bits, and every body byte outside the used ones zero (R507). -/
def cmdClean (c : Cmd) (used : List (Nat × Nat)) : Bool :=
  decide (cmdB c 1 1 < 4) && decide (cmdCtx c < 64) && decide (cmdB c 5 3 = 0)
    && (upTo 56).all (fun i => used.any (fun u => decide (u.1 ≤ i + 8) && decide (i + 8 < u.1 + u.2)) || decide (cmdB c (i + 8) 1 = 0))

/-- Number of a command's source, for the records that its reads wait on. -/
def srcKey (src : CmdSrc) : Nat :=
  match src with
  | .ring r => r.val
  | .cadence p i => 1024 + 4 * p.val + i.val

/-- The partition of a command's source. -/
def State.srcPart (s : State) (src : CmdSrc) : Nat :=
  match src with
  | .ring r => s.ringPart r.val
  | .cadence p _ => p.val

/-- The open commands of a source, in ring order. -/
def State.cmdsOf (s : State) (src : CmdSrc) : List OpenCmd := s.host.open_.filter (fun o => o.src == src)

/-- Whether a held BAR4 write of the ring's function arrived before the doorbell of its commands (R500). -/
def State.barWait (s : State) (r : Nat) : Bool :=
  let f := s.ringPart r
  s.host.held.any (fun h => h.fn == f && h.data.isSome && decide (h.id < mget 0 s.host.dbMark r))

/-- A command may start (R508, R517, R500): it is the oldest unstarted of its source, its fence has nothing before it, the buffer
of its CQ has room. -/
def State.cmdReady (s : State) (src : CmdSrc) (c : Cmd) : Bool :=
  let l := s.cmdsOf src
  (match l.find? (fun o => !o.started) with | some o => o.cmd == c | none => false)
    && (!cmdFence c || (match l with | o :: _ => !o.started | [] => false))
    && (match src with
        | .ring r => decide ((mget [] s.host.waitRecs (s.getF (ringCq r.val))).length < 256) && !s.barWait r.val
        | .cadence _ _ => true)

/-- Take a command off the open ones: the oldest entry of its source with its words. -/
def State.closeCmd (s : State) (src : CmdSrc) (c : Cmd) (started : Bool) : State :=
  { s with host := { s.host with open_ := s.host.open_.erase ⟨src, c, started⟩ } }

/-- The completion record without phase and head (R514). -/
def recordBytes (sq status id result : Nat) : List Byte := [0, BitVec.ofNat 8 status] ++ toLE 2 sq ++ toLE 2 0 ++ toLE 2 id ++ toLE 8 result

/-- A command of a cadence has completed with a status other than OK: its phase has failed (R562). -/
def State.cadenceFails (s : State) (p i status : Nat) : State :=
  let k := 4 * p + i
  match mget none s.service.cadences k with
  | some c =>
    { s with service := { s.service with cadences := mset none s.service.cadences k (some { c with failed := some (c.failed.getD status) }) } }
  | none => s

/-- A command completes: its record waits for its CQ, unless it is quiet and OK (R508). -/
def State.complete (s : State) (src : CmdSrc) (c : Cmd) (started : Bool) (status result : Nat) : State :=
  let s := s.closeCmd src c started
  match src with
  | .cadence p i => if status = 0 then s else s.cadenceFails p.val i.val status
  | .ring r =>
    if cmdQuiet c && status == 0 then s
    else
      let q := s.getF (ringCq r.val)
      let l := mget [] s.host.waitRecs q ++ [recordBytes r.val status (cmdId c) result]
      { s with host := { s.host with waitRecs := mset [] s.host.waitRecs q l } }

/-- Mark a command started. -/
def State.markStarted (s : State) (src : CmdSrc) (c : Cmd) : State :=
  let rec go (l : List OpenCmd) : List OpenCmd :=
    match l with
    | [] => []
    | o :: r => if o.src == src && !o.started && o.cmd == c then { o with started := true } :: r else o :: go r
  { s with host := { s.host with open_ := go s.host.open_ } }

/-- What a command does at its start: it completes, its records' reads wait, or it goes on. -/
inductive CmdDo where
  | done (s : State) (status result : Nat)
  | hold (s : State)
  | run (s : State)
  deriving DecidableEq, Repr

/-- A record read for a command: waiting, failed, or its bytes. -/
inductive RecDo where
  | wait (s : State)
  | bad (s : State)
  | bytes (s : State) (bs : List Byte)
  deriving DecidableEq, Repr

/-- The unit of the ring front end that serves a partition (R264, R668, log entry 30). -/
def frontUnit (p : Nat) : UnitId := .jservice (Fin.ofNat 32 (p % 4))

/-- Read a command's record in its context; the command waits while a fault of it is served (R508). -/
def State.cmdRead (s : State) (src : CmdSrc) (c : Cmd) (va n : Nat) : RecDo :=
  let p := s.srcPart src
  let r := s.vRead (frontUnit p) (cmdCtx c) p va n .read (some (.command (srcKey src)))
  match r.o with
  | .held _ _ => .wait r.st
  | .done bs poison => if poison then .bad r.st else .bytes r.st bs

/-- Run a command of an opcode when it may start: a reserved bit or byte is BAD_FIELD; a refused command does nothing else. -/
def State.runCmd (s : State) (src : CmdSrc) (c : Cmd) (mine : Bool) (used : List (Nat × Nat)) (act : State → CmdDo) : Res :=
  when (mine && s.cmdReady src c) (fun s =>
    if !cmdClean c used then s.complete src c false cmBadField 0
    else
      match act s with
      | .done s st r => s.complete src c false st r
      | .hold s => s
      | .run s => s.markStarted src c) s

/-- Read a record, then go on with its bytes. -/
def State.withRecord (s : State) (src : CmdSrc) (c : Cmd) (va n : Nat) (act : State → List Byte → CmdDo) : CmdDo :=
  match s.cmdRead src c va n with
  | .wait s => .hold s
  | .bad s => .done s cmRecordFault 0
  | .bytes s bs => act s bs

/-- The fault record of a command's read has been settled against it: RECORD_FAULT (R520). -/
def State.cmdReadFailed (s : State) (k : Nat) : State :=
  match s.host.open_.find? (fun o => srcKey o.src == k && !o.started) with
  | some o => s.complete o.src o.cmd false cmRecordFault 0
  | none => s

/-- RING_NOP (R509): NOP completes; an opcode not listed is refused with BAD_OPCODE. -/
def execRingNop (src : CmdSrc) (c : Cmd) (s : State) : Res :=
  if opcodes.contains (cmdOp c) then s.runCmd src c (cmdOp c == 0) [] (fun s => .done s cmOk 0)
  else when (s.cmdReady src c) (fun s => s.complete src c false cmBadOpcode 0) s

end Sys2Proof.Machine
end

