-- ==== Sys2Proof/Machine/Link.lean ====
section
/-! DEFINITION. The physical and the link layer of the Chonen ports (R397-R418, R428-R438). -/

namespace Sys2Proof.Machine

/-! ### Registers of a port (R434-R438) -/

/-- Base of port n's registers. -/
def portKey (n : Nat) : Nat := chnBase + 0x1000 + 0x100 * n
def pctlEnable (n : Nat) : RF := ⟨portKey n, 0, 1⟩
def pctlWidth (n : Nat) : RF := ⟨portKey n, 1, 2⟩
def pctlPmd (n : Nat) : RF := ⟨portKey n, 3, 2⟩
def pctlBackup (n : Nat) : RF := ⟨portKey n, 7, 1⟩
def pctlLaneTh (n : Nat) : RF := ⟨portKey n, 16, 16⟩
def pstState (n : Nat) : RF := ⟨portKey n + 8, 0, 4⟩
def pstWidth (n : Nat) : RF := ⟨portKey n + 8, 4, 2⟩
def pstLanes (n : Nat) : RF := ⟨portKey n + 8, 6, 4⟩
def pstReversed (n : Nat) : RF := ⟨portKey n + 8, 10, 1⟩
def pstDegraded (n : Nat) : RF := ⟨portKey n + 8, 11, 1⟩

/-- The states of a port (R401). -/
def psDisabled : Nat := 0
def psDetect : Nat := 1
def psTune : Nat := 2
def psAlign : Nat := 3
def psConfig : Nat := 4
def psActive : Nat := 5
def psRetrain : Nat := 6
def psQuarantined : Nat := 7

/-- A port's state. -/
def State.pst (s : State) (n : Nat) : Nat := s.getF (pstState n)

/-- The port is in a training step: by itself, or within RETRAIN (log entry 33). -/
def State.pstep (s : State) (n step : Nat) : Bool := s.pst n == step || (s.pst n == psRetrain && (s.port n).sub == step)

/-- mtime counts for one second and one millisecond (R246). -/
def tickS : Nat := 25000000
def tickMs : Nat := 25000

/-- The stamps of a list that lie within the last n counts of mtime. -/
def State.recent (s : State) (l : List Word) (n : Nat) : List Word := l.filter (fun t => decide ((s.mtime - t).toNat < n))

/-- The module's number and whether it is numbered (R390, R391). -/
def State.modNum (s : State) : Nat := s.getF ⟨chnBase, 0, 14⟩
def State.numbered (s : State) : Bool := s.getB ⟨chnBase, 14, 1⟩

/-! ### CRC (R410) -/

/-- One bit of the CRC-64. -/
def crcBit (c : Nat) (b : Bool) : Nat :=
  let top := c.testBit 63 != b
  let c2 := c % 2 ^ 63 * 2
  if top then c2 ^^^ 0x42F0_E1EB_A9EA_3693 else c2

/-- One byte, most significant bit first. -/
def crcByte (c : Nat) (b : Byte) : Nat := [7, 6, 5, 4, 3, 2, 1, 0].foldl (fun c i => crcBit c (bit b.toNat i)) c

/-- The CRC-64 of bytes. -/
def crc64 (bs : List Byte) : Nat := bs.foldl crcByte (2 ^ 64 - 1) ^^^ (2 ^ 64 - 1)

/-- A flit is whole: 256 bytes whose CRC agrees. -/
def flitGood (bs : List Byte) : Bool := bs.length == 256 && crc64 (bs.take 248) == ofLE (bs.drop 248)

/-- A flit from its link header and payload. -/
def mkFlit (hdr : Nat) (pay : List Byte) : List Byte :=
  let b := toLE 8 hdr ++ (pay ++ List.replicate 240 0).take 240
  b ++ toLE 8 (crc64 b)

/-- The link header of a flit (R409). -/
def flitHdr (bs : List Byte) : Nat := ofLE (bs.take 8)

/-- The payload of a flit. -/
def flitPay (bs : List Byte) : List Byte := (bs.drop 8).take 240

/-! ### Escalation mode and events (R431, R522, R583) -/

/-- The lowest-numbered partition bound to a port; 16 when none is. -/
def State.portPart (s : State) (n : Nat) : Nat :=
  ((upTo 16).find? (fun p => bit (s.reg (portKey n + 0x10)).toNat p)).getD 16

/-- Whether a port is in host-assisted mode. -/
def State.linkAssist (s : State) (n : Nat) : Bool :=
  let p := s.portPart n
  p < 16 && s.getB ⟨cfgBase + 0x100 + 8 * p, 6, 1⟩

/-- Post a LINK event in host-assisted mode: 1 quarantined, 2 degraded, 3 released. -/
def State.linkEvent (s : State) (n what : Nat) : State :=
  if s.linkAssist n then
    s.postEvent (s.portPart n) 6 (toLE 1 n ++ toLE 1 (s.pst n) ++ toLE 1 (s.getF ⟨portKey n + 0x20, 16, 4⟩) ++ toLE 1 what)
  else s

/-! ### Changes of state (R401, R404, R405, R429) -/

/-- Discard the link-layer state, as under resume 0. -/
def PortState.drop (p : PortState) : PortState :=
  { sub := p.sub, backoff := p.backoff, tuned := p.tuned, aligned := p.aligned, lost := p.lost, record := p.record
    agreed := p.agreed, caps := p.caps, pmd := p.pmd, maxWidth := p.maxWidth, backupCap := p.backupCap
    violTimes := p.violTimes, rlTimes := p.rlTimes, limited := p.limited, releases := p.releases, degWait := p.degWait }

/-- A port leaves ACTIVE: no lane is active. -/
def State.noLanes (s : State) (n : Nat) : State := (s.putF (pstWidth n) 3).putF (pstLanes n) 0

/-- Whether a state is one in which the port is trained (log entry 33). -/
def trained (st : Nat) : Bool := st == psActive || st == psRetrain || st == psQuarantined

/-- Count in CHN_PERR (R436). -/
def State.perr (s : State) (n lo len : Nat) : State := (s.addF ⟨portKey n + 0x18, lo, len⟩ 1).putF ⟨portKey n + 0x18, 48, 1⟩ 1

/-- Enter DETECT; from a trained state it is counted and flagged (R436, R583). -/
def State.toDetect (s : State) (n : Nat) : State :=
  let was := trained (s.pst n)
  let s := ((s.noLanes n).putF (pstState n) psDetect).putF (pstDegraded n) 0
  let s := s.updPort n (fun p => { p.drop with sub := 0, backoff := false, lost := 0, record := none, agreed := none })
  if was then (s.perr n 40 8).raiseP n 3 else s

/-- Enter DISABLED. -/
def State.toDisabled (s : State) (n : Nat) : State :=
  let s := ((s.noLanes n).putF (pstState n) psDisabled).putF (pstDegraded n) 0
  s.updPort n (fun p => { p.drop with sub := 0, backoff := false, lost := 0, record := none, agreed := none })

/-- Enter the TUNE step: pmd, max_width and backup_cap take effect (R434). -/
def State.latchCtl (s : State) (n : Nat) : State :=
  s.updPort n (fun p => { p with
    pmd := BitVec.ofNat 2 (s.getF (pctlPmd n)), maxWidth := BitVec.ofNat 2 (s.getF (pctlWidth n)), backupCap := s.getB (pctlBackup n) })

/-- Send a CTRL flit of a kind with its record's bytes. -/
def ctrlFlit (rec_ : List Byte) : List Byte := mkFlit 2 rec_

/-- Enter RETRAIN from ACTIVE (R404, R405), leaving some lanes out of the offer; a local cause is told to the partner. -/
def State.toRetrain (s : State) (n cause : Nat) (lanes : BitVec 4) (tell : Bool) : State :=
  if s.pst n ≠ psActive then s
  else
    let s := if tell then s.emit (.linkFlit n (ctrlFlit (toLE 1 3 ++ toLE 1 cause))) else s
    let s := (s.noLanes n).putF (pstState n) psRetrain
    let s := s.updPort n (fun p => { p with sub := psTune, kept := true, lost := lanes, record := none, ctrl := [], cause := cause, backoff := false })
    ((s.latchCtl n).perr n 32 8).raiseP n 2

/-- Enter QUARANTINED (R429). -/
def State.toQuarantine (s : State) (n : Nat) : State :=
  let s := (s.noLanes n).putF (pstState n) psQuarantined
  let s := s.updPort n (fun p => { p.drop with sub := 0, violTimes := [] })
  (s.raiseP n 0).linkEvent n 1

/-- Release a quarantined port to DETECT (R431). -/
def State.unquarantine (s : State) (n : Nat) : State :=
  if s.pst n = psQuarantined then (s.toDetect n).linkEvent n 3 else s

/-! ### Violations (R428-R430) -/

/-- Classes of R428. -/
def vMalformed : Nat := 1
def vUnknownType : Nat := 2
def vWrongVc : Nat := 3
def vCreditOverrun : Nat := 4
def vSeqGap : Nat := 5
def vSeqRange : Nat := 6
def vDupCompletion : Nat := 7
def vRoundClosed : Nat := 8
def vNoJob : Nat := 9
def vMisrouted : Nat := 10
def vBadCtrl : Nat := 11

/-- Rate-limit a channel when more than rl_th such violations fall within 1 ms (R429). -/
def State.rateLimit (s : State) (n vc : Nat) : State :=
  let p := s.port n
  let l := s.recent (mget [] p.rlTimes vc) tickMs ++ [s.mtime]
  let hot := decide (l.length > s.getF ⟨chnBase + 8, 8, 8⟩)
  let s := s.setPort n { p with
    rlTimes := mset [] p.rlTimes vc l
    limited := if hot then mset false p.limited vc true else p.limited }
  if hot then s.putF ⟨portKey n + 0x20, 34, 1⟩ 1 else s

/-- Log and count a violation; the one that fills the window quarantines the port (R429, R437). -/
def State.violate (s : State) (n cls src : Nat) (rl : Option Nat) : State :=
  let k := portKey n + 0x20
  let s := (((s.addF ⟨k, 0, 16⟩ 1).putF ⟨k, 16, 4⟩ cls).putF ⟨k, 20, 14⟩ src).putF ⟨k, 35, 1⟩ 1
  let s := s.raiseP n 4
  let s := match rl with | some vc => s.rateLimit n vc | none => s
  let l := s.recent (s.port n).violTimes tickS ++ [s.mtime]
  let s := s.updPort n (fun p => { p with violTimes := l })
  let th := s.getF ⟨chnBase + 8, 0, 8⟩
  if th ≠ 0 ∧ l.length ≥ th ∧ (s.pst n = psActive ∨ s.pst n = psRetrain) then s.toQuarantine n else s

/-- A violation whose response is a retrain. -/
def State.violateRetrain (s : State) (n cls : Nat) : State := (s.violate n cls 0 none).toRetrain n 4 0 true

/-! ### Credits (R416, R417) -/

/-- Credits that the module advertises. -/
def advCredits : List Nat := [256, 544, 256, 256, 32, 160, 32, 0]

/-- Freed buffer is returned; on a limited channel one credit for each eight flits (R429). -/
def PortState.free (p : PortState) (vc k : Nat) : PortState :=
  let back (p : PortState) (k : Nat) : PortState := { p with
    freed := mset 0 p.freed vc (mget 0 p.freed vc + BitVec.ofNat 16 k)
    owed := mset 0 p.owed vc (mget 0 p.owed vc + k) }
  let p := { p with rxFlits := mset 0 p.rxFlits vc (mget 0 p.rxFlits vc - k) }
  if mget false p.limited vc then
    let z := mget 0 p.slowed vc + k
    let due := z / 8 - mget 0 p.slowed vc / 8
    let p := back p due
    { p with slowed := mset 0 p.slowed vc z }
  else back p k

/-- The limit of a channel ends: what was held back is returned. -/
def PortState.unlimit (p : PortState) (vc : Nat) : PortState :=
  let z := mget 0 p.slowed vc
  let k := z - z / 8
  { p with
    limited := mset false p.limited vc false
    slowed := mset 0 p.slowed vc 0
    freed := mset 0 p.freed vc (mget 0 p.freed vc + BitVec.ofNat 16 k)
    owed := mset 0 p.owed vc (mget 0 p.owed vc + k) }

/-- RATE_LIMIT_EXPIRY (R429). -/
def execRateLimitExpiry (p : Fin 18) (vc : Fin 8) (s : State) : Res :=
  when (mget false (s.port p.val).limited vc.val) (fun s =>
    let s := s.updPort p.val (fun x => x.unlimit vc.val)
    s.putB ⟨portKey p.val + 0x20, 34, 1⟩ ((s.port p.val).limited.any (·.2))) s

/-- Take the credit returns of a link header. -/
def PortState.takeCredits (p : PortState) (h : Nat) : PortState :=
  let add (p : PortState) (vc k : Nat) : PortState := { p with ret := mset 0 p.ret vc (mget 0 p.ret vc + BitVec.ofNat 16 k) }
  add (add p (bits h 32 3) (bits h 35 8)) (bits h 43 3) (bits h 46 8)

/-- A channel has credit to send on. -/
def PortState.credit (p : PortState) (vc : Nat) : Bool :=
  decide ((mget 0 p.used vc - mget 0 p.ret vc).toNat < (mget 0 p.adv vc).toNat)

/-! ### Retry (R412-R414) -/

/-- Ask for a NAK unless one has been sent since the last accepted flit. -/
def PortState.nak (p : PortState) : PortState := if p.nakSent then p else { p with sendNak := true, nakSent := true }

/-- Start a replay from the oldest unreleased flit; the eighth in succession from the same one retrains the port. -/
def State.replayFrom (s : State) (n : Nat) (ack : BitVec 12) : State :=
  let p := s.port n
  match p.retry with
  | [] => s
  | f :: _ =>
    let k := if p.oldest = some f.seq then p.sameOldest + 1 else 1
    let s := s.setPort n { p with replay := p.retry, replayAck := some ack, oldest := some f.seq, sameOldest := k }
    let s := s.perr n 16 16
    if k ≥ 8 then s.toRetrain n 3 0 true else s

/-- Take the ack and nak of a good flit (R413). -/
def State.takeAck (s : State) (n : Nat) (ack : BitVec 12) (nak : Bool) : State :=
  let p := s.port n
  let first := match p.retry with | f :: _ => f.seq | [] => p.next
  let k := (ack + 1 - first).toNat
  if k > p.retry.length then s.violateRetrain n vSeqRange
  else
    let kept := p.retry.drop k
    let s := s.setPort n { p with
      retry := kept
      replay := p.replay.filter (fun f => kept.any (fun g => g.seq == f.seq))
      oldest := if k > 0 then none else p.oldest
      sameOldest := if k > 0 then 0 else p.sameOldest }
    if !nak then s
    else if !(s.port n).replay.isEmpty && p.replayAck == some ack then s
    else s.replayFrom n ack

/-- REPLAY_TIMEOUT (R414). -/
def execReplayTimeout (p : Fin 18) (s : State) : Res :=
  when (s.pst p.val == psActive) (fun s =>
    match (s.port p.val).retry with
    | f :: _ => s.replayFrom p.val (f.seq - 1)
    | [] => s) s

/-- A bad flit: counted, and a NAK sent (R410, R412, R436). -/
def State.badFlit (s : State) (n : Nat) : State := (s.perr n 0 16).updPort n (fun p => { p.nak with gapSeen := true })

/-! ### Messages out of slots (R419) -/

/-- Cut the slots of a channel into whole messages and an unfinished rest; a header whose len exceeds 16, or a message that runs
past its second flit, gives up the rest. -/
def cutSlots (bs : List Byte) (fuel : Nat) : List (List Byte) × List Byte × Bool :=
  match fuel with
  | 0 => ([], [], false)
  | k + 1 =>
    match bs with
    | [] => ([], [], false)
    | b :: _ =>
      if b = 0 then cutSlots (bs.drop 16) k
      else
        let len := ofLE ((bs.drop 1).take 1)
        let n := 16 * (2 + len)
        if len > 16 then ([], [], true)
        else if bs.length < n then ([], bs, false)
        else
          let r := cutSlots (bs.drop n) k
          (bs.take n :: r.1, r.2.1, r.2.2)

/-- The messages of one flit with the flits each frees when it is taken: a flit is freed with the last message that has a slot in it. -/
def framed (ms : List (List Byte)) (begun tail : Bool) : List RxMsg :=
  let n := ms.length
  ms.zipIdx.map (fun m => ⟨m.1, b2n (m.2 == 0 && begun) + b2n (m.2 + 1 == n && !tail)⟩)

/-- Put an accepted flit's slots into the buffer of its channel; the mark says that a message was malformed. -/
def PortState.takeSlots (p : PortState) (vc : Nat) (pay : List Byte) : PortState × Bool :=
  let tail := mget [] p.rxTail vc
  let r := cutSlots (tail ++ pay) 64
  let past := decide (r.2.1.length > 240)
  let rest := if past then [] else r.2.1
  let bad := r.2.2 || past
  let p := { p with
    rxFlits := mset 0 p.rxFlits vc (mget 0 p.rxFlits vc + 1)
    rxTail := mset [] p.rxTail vc rest
    rxMsgs := mset [] p.rxMsgs vc (mget [] p.rxMsgs vc ++ framed r.1 (!tail.isEmpty) (!rest.isEmpty)) }
  let lone := b2n (r.1.isEmpty && rest.isEmpty) + b2n (r.1.isEmpty && rest.isEmpty && !tail.isEmpty)
  (if lone > 0 then p.free vc lone else p, bad)

/-- Take the message at the front of a channel's buffer. -/
def PortState.popMsg (p : PortState) (vc : Nat) : PortState :=
  match mget [] p.rxMsgs vc with
  | [] => p
  | m :: r =>
    let p := { p with rxMsgs := mset [] p.rxMsgs vc r }
    if m.frees > 0 then p.free vc m.frees else p

/-! ### Received flits -/

/-- A flit command acts: the port receives, the flit is good and of its type; a bad one is counted and asked for again. -/
def State.onFlit (s : State) (n : Nat) (bs : List Byte) (ftype : Nat) (act : State → Nat → State) : Res :=
  if s.pst n = psActive ∨ s.pst n = psConfig ∨ s.pst n = psRetrain then
    if !flitGood bs then .next (if s.pst n = psActive then s.badFlit n else s)
    else when (decide (bits (flitHdr bs) 0 3 = ftype)) (fun s => act s (flitHdr bs)) s
  else .next s

/-- DATA_FLIT (R412, R413, R417, R428). -/
def execDataFlit (p : Fin 18) (bytes : List Byte) (s : State) : Res :=
  let n := p.val
  s.onFlit n bytes 0 (fun s h =>
    if s.pst n ≠ psActive then s
    else
      let x := s.port n
      let vc := bits h 3 3
      let d := (BitVec.ofNat 12 (bits h 6 12) - x.expect).toNat
      if d = 0 then
        if vc ≠ 7 ∧ mget 0 x.rxFlits vc ≥ nth 0 advCredits vc then
          (s.setPort n { x.nak with gapSeen := true, ctrl := x.ctrl ++ [2] }).violate n vCreditOverrun 0 none
        else
          let x := ({ x with expect := x.expect + 1, nakSent := false, gapSeen := false } : PortState).takeCredits h
          let r := if vc = 7 then (x, false) else x.takeSlots vc (flitPay bytes)
          let s := s.setPort n r.1
          let s := if vc = 7 then s.violate n vWrongVc 0 none else if r.2 then s.violate n vMalformed 0 (some vc) else s
          s.takeAck n (BitVec.ofNat 12 (bits h 18 12)) (bit h 30)
      else if d ≤ 1023 then
        let s := s.setPort n { x.nak with gapSeen := true }
        if x.gapSeen then s else s.violate n vSeqGap 0 none
      else if d ≥ 3072 then s.setPort n { x with gapSeen := true }
      else s.violateRetrain n vSeqRange)

/-- IDLE_FLIT (R413, R417). -/
def execIdleFlit (p : Fin 18) (bytes : List Byte) (s : State) : Res :=
  let n := p.val
  s.onFlit n bytes 1 (fun s h =>
    if s.pst n ≠ psActive then s
    else (s.updPort n (fun x => x.takeCredits h)).takeAck n (BitVec.ofNat 12 (bits h 18 12)) (bit h 30))

/-- Payload bytes [a, b) of a control record are zero. -/
def zeroBytes (pay : List Byte) (a b : Nat) : Bool := ((pay.drop a).take (b - a)).all (· == 0)

/-- The control record of a flit is of a kind, or of none that R411 names: then it is a BAD_CTRL violation. -/
def State.onCtrl (s : State) (n : Nat) (bs : List Byte) (kind : Nat) (clean : List Byte → Bool) (act : State → List Byte → State) : Res :=
  s.onFlit n bs 2 (fun s _ =>
    let pay := flitPay bs
    let k := ofLE (pay.take 1)
    if k = 0 ∨ k > 4 then s.violate n vBadCtrl 0 none
    else if k ≠ kind then s
    else if !clean pay then s.violate n vBadCtrl 0 none
    else act s pay)

/-- CREDIT_FLIT (R417). -/
def execCreditFlit (p : Fin 18) (bytes : List Byte) (s : State) : Res :=
  let n := p.val
  s.onCtrl n bytes 2 (fun pay => zeroBytes pay 1 8 && zeroBytes pay 24 240) (fun s pay =>
    if s.pst n ≠ psActive then s
    else forEach (upTo 8) s (fun s vc => s.updPort n (fun x =>
      let v := BitVec.ofNat 16 (ofLE ((pay.drop (8 + 2 * vc)).take 2))
      let d := (v - mget 0 x.ret vc).toNat
      if 0 < d ∧ d < 2 ^ 15 then { x with ret := mset 0 x.ret vc v } else x)))

/-- RETRAIN_FLIT (R404, R411). -/
def execRetrainFlit (p : Fin 18) (bytes : List Byte) (s : State) : Res :=
  s.onCtrl p.val bytes 3 (fun pay => zeroBytes pay 2 240) (fun s pay =>
    s.toRetrain p.val (ofLE ((pay.drop 1).take 1)) 0 false)

/-- QUARANTINE_FLIT (R411): the partner tells that it is quarantined; the port takes no step on it. -/
def execQuarantineFlit (p : Fin 18) (bytes : List Byte) (s : State) : Res :=
  s.onCtrl p.val bytes 4 (fun pay => zeroBytes pay 2 240) (fun s _ => s)

/-! ### Training (R401-R404) -/

/-- PORT_ENABLE (R401). -/
def execPortEnable (p : Fin 18) (s : State) : Res :=
  let s := s.putF (pctlEnable p.val) 1
  .next (if s.pst p.val = psDisabled then s.toDetect p.val else s)

/-- PORT_DISABLE (R401). -/
def execPortDisable (p : Fin 18) (s : State) : Res := .next ((s.putF (pctlEnable p.val) 0).toDisabled p.val)

/-- PORT_SIGNAL_DETECT (R401): a signal is seen and FAB_REFCLK is within tolerance, again if it was lost (log entry 47). -/
def execPortSignalDetect (p : Fin 18) (s : State) : Res :=
  when (s.pst p.val == psDetect) (fun s =>
    let s := { s with power := { s.power with fabClk := true } }
    (s.putF (pstState p.val) psTune).latchCtl p.val) s

/-- Move a training port to its next step. -/
def State.goStep (s : State) (n step : Nat) : State :=
  if s.pst n = psRetrain then s.updPort n (fun p => { p with sub := step }) else s.putF (pstState n) step

/-- PORT_TUNE_DONE (R401): with no lane set tuned the port backs off (within RETRAIN it fails). -/
def execPortTuneDone (p : Fin 18) (tuned : BitVec 4) (s : State) : Res :=
  when (s.pstep p.val psTune && !(s.port p.val).backoff) (fun s =>
    let s := s.updPort p.val (fun x => { x with tuned := tuned })
    if tuned ≠ 0 then s.goStep p.val psAlign
    else if s.pst p.val = psRetrain then s.toDetect p.val
    else s.updPort p.val (fun x => { x with backoff := true })) s

/-- PORT_TUNE_BACKOFF (R401). -/
def execPortTuneBackoff (p : Fin 18) (s : State) : Res :=
  when (s.pst p.val == psTune && (s.port p.val).backoff) (fun s => s.toDetect p.val) s

/-- PORT_ALIGN_DONE (R399, R401): CONFIG begins, and its record is sent; without an aligned lane ALIGN has failed. -/
def execPortAlignDone (p : Fin 18) (aligned : BitVec 4) (reversed : Bool) (s : State) : Res :=
  when (s.pstep p.val psAlign) (fun s =>
    let a := aligned &&& (s.port p.val).tuned
    if a = 0 then s.toDetect p.val
    else
      let s := s.updPort p.val (fun x => { x with aligned := a, record := none, ctrl := [1] })
      (s.putB (pstReversed p.val) reversed).goStep p.val psConfig) s

/-- PORT_STATE_TIMEOUT (R401). -/
def execPortStateTimeout (p : Fin 18) (s : State) : Res :=
  let st := s.pst p.val
  when (((st == psTune && !(s.port p.val).backoff) || st == psAlign || st == psConfig || st == psRetrain)) (fun s => s.toDetect p.val) s

/-- The lane sets of R402 by their bit, widest first. -/
def laneSets : List (BitVec 4) := [15, 3, 12, 1, 2, 4, 8]

/-- Width code of the lane set at a bit. -/
def setWidth (i : Nat) : Nat := if i = 0 then 0 else if i ≤ 2 then 1 else 2

/-- The widths byte that a port offers: sets within max_width, aligned, without the lanes left out. -/
def PortState.offer (p : PortState) : Nat :=
  let ok := p.aligned &&& ~~~ p.lost
  laneSets.zipIdx.foldl (fun v l => if l.1 &&& ~~~ ok = 0 ∧ setWidth l.2 ≥ min 2 p.maxWidth.toNat then v + 2 ^ l.2 else v) 0

/-- The port's own CONFIG record, bytes 0x00-0x1F (R402). -/
def State.ownRecord (s : State) (n : Nat) : List Byte :=
  let p := s.port n
  toLE 1 1 ++ toLE 1 1 ++ toLE 1 (2 * b2n s.numbered) ++ toLE 1 n ++ toLE 2 (if s.numbered then s.modNum else 0)
    ++ toLE 1 p.offer ++ toLE 1 (7 + 8 * b2n p.backupCap) ++ advCredits.flatMap (toLE 2)
    ++ toLE 1 (b2n p.kept) ++ toLE 1 0 ++ toLE 2 p.expect.toNat ++ toLE 4 0

/-- CONFIG_RESEND_TIMER (R402). -/
def execConfigResendTimer (p : Fin 18) (s : State) : Res :=
  when (s.pstep p.val psConfig) (fun s => s.updPort p.val (fun x => { x with ctrl := x.ctrl ++ [1] })) s

/-- n bytes at offset a of a record held as a number. -/
def recF (r : BitVec 256) (a n : Nat) : Nat := recB r.toNat a n

/-- The identity that a CONFIG record gives: role, port, id. -/
def recWho (r : BitVec 256) : BitVec 32 := BitVec.ofNat 32 (recF r 2 4)

/-- Both records agree: the width is chosen, the port is ACTIVE, and its link-layer state goes on or starts anew (R403, R405, R406). -/
def State.agree (s : State) (n : Nat) (r : BitVec 256) : State :=
  let p := s.port n
  let both := p.offer &&& recF r 6 1
  match (upTo 7).find? (fun i => bit both i) with
  | none => s.toDetect n
  | some i =>
    let w := setWidth i
    let was := s.getB (pstDegraded n)
    let deg := decide (w > min 2 p.maxWidth.toNat)
    let resume := p.kept && bit (recF r 0x18 1) 0
    let retrain := s.pst n == psRetrain
    let s := (((s.putF (pstState n) psActive).putF (pstWidth n) w).putF (pstLanes n) (nth 0 laneSets i).toNat).putB (pstDegraded n) deg
    let k := portKey n + 8
    let role := recF r 2 1
    let s := (((s.putB ⟨k, 12, 1⟩ (bit role 0)).putB ⟨k, 13, 1⟩ (bit role 1)).putF ⟨k, 14, 16⟩ (recF r 4 2)).putF ⟨k, 30, 8⟩ (recF r 3 1)
    let adv : SMap (BitVec 16) := (upTo 8).foldl (fun m v => mset 0 m v (BitVec.ofNat 16 (recF r (8 + 2 * v) 2))) []
    let x := if resume then { p with replayAck := none } else p.drop
    let nextRx := BitVec.ofNat 12 (recF r 0x1A 2)
    let first := match x.retry with | f :: _ => f.seq | [] => x.next
    let gone := (nextRx - first).toNat
    let retry := if gone ≤ x.retry.length then x.retry.drop gone else x.retry
    let s := s.setPort n { x with
      sub := 0, kept := false, lost := 0, record := none, agreed := some (recWho r), caps := BitVec.ofNat 8 (recF r 7 1)
      adv := adv, retry := retry, replay := if resume then retry else [], ctrl := if retrain then [2] else []
      sendNak := false, nakSent := false, degWait := if deg then x.degWait else 60 }
    if deg && !was then (s.raiseP n 1).linkEvent n 2 else s

/-- CONFIG_FLIT (R402-R405, R428): in CONFIG the partner's record is taken, and once both sides know each other's the port is
ACTIVE; in ACTIVE a record with another identity is a violation. -/
def execConfigFlit (p : Fin 18) (bytes : List Byte) (s : State) : Res :=
  let n := p.val
  s.onCtrl n bytes 1 (fun pay => zeroBytes pay 0x19 0x1A && zeroBytes pay 0x1C 0x20 && zeroBytes pay 0x40 240) (fun s pay =>
    let r : BitVec 256 := BitVec.ofNat 256 (ofLE (pay.take 32))
    if s.pst n = psActive then
      if (s.port n).agreed = some (recWho r) then s else s.violateRetrain n vBadCtrl
    else if s.pstep n psConfig then
      let s := s.updPort n (fun x => { x with record := some r })
      if (pay.drop 32).take 32 = s.ownRecord n then s.agree n r else s
    else s)

/-- LANE_LOCK_LOST (R404). -/
def execLaneLockLost (p : Fin 18) (lane : Fin 4) (s : State) : Res :=
  when (bit (s.getF (pstLanes p.val)) lane.val) (fun s => s.toRetrain p.val 1 (BitVec.ofNat 4 (2 ^ lane.val)) true) s

/-- LANE_ERROR_THRESHOLD (R404, R438): a 1 ms window ends with a count; above lane_th the port retrains without the lane. -/
def execLaneErrorThreshold (p : Fin 18) (lane : Fin 4) (count : BitVec 16) (s : State) : Res :=
  let s := s.putF ⟨portKey p.val + 0x28, 16 * lane.val, 16⟩ count.toNat
  when (bit (s.getF (pstLanes p.val)) lane.val && decide (count.toNat > s.getF (pctlLaneTh p.val))) (fun s =>
    s.toRetrain p.val 2 (BitVec.ofNat 4 (2 ^ lane.val)) true) s

/-- PORT_RETRAIN (R404, R408, R434). -/
def execPortRetrain (p : Fin 18) (s : State) : Res := .next (s.toRetrain p.val 5 0 true)

/-- PORT_UNQUARANTINE (R431). -/
def execPortUnquarantine (p : Fin 18) (s : State) : Res := .next (s.unquarantine p.val)

/-- DEGRADED_RETRAIN_TIMER (R406): hardware mode only; the next interval is twice as long, up to an hour. -/
def execDegradedRetrainTimer (p : Fin 18) (s : State) : Res :=
  when (s.getB (pstDegraded p.val) && !s.linkAssist p.val && s.pst p.val == psActive) (fun s =>
    (s.updPort p.val (fun x => { x with degWait := min 3600 (2 * x.degWait) })).toRetrain p.val 5 0 true) s

/-- QUARANTINE_RELEASE_TIMER (R431): hardware mode only, at most three times in an hour. -/
def execQuarantineReleaseTimer (p : Fin 18) (s : State) : Res :=
  let l := s.recent (s.port p.val).releases (3600 * tickS)
  when (s.pst p.val == psQuarantined && !s.linkAssist p.val && decide (l.length < 3)) (fun s =>
    (s.updPort p.val (fun x => { x with releases := l ++ [s.mtime] })).unquarantine p.val) s

/-! ### Transmission (R409, R413, R414, R417, R419) -/

/-- CREDIT_FLIT_TIMER (R417). -/
def execCreditFlitTimer (p : Fin 18) (s : State) : Res :=
  when (s.pst p.val == psActive) (fun s => s.updPort p.val (fun x => { x with ctrl := x.ctrl ++ [2] })) s

/-- The link header's ack, nak and credit fields. -/
def PortState.hdrFields (p : PortState) : Nat × PortState :=
  let vcs := (upTo 8).filter (fun v => decide (mget 0 p.owed v > 0))
  let cr (i : Nat) : Nat × Nat := match vcs[i]? with | some v => (v, min 255 (mget 0 p.owed v)) | none => (0, 0)
  let a := cr 0
  let b := cr 1
  let pay (m : SMap Nat) (c : Nat × Nat) : SMap Nat := mset 0 m c.1 (mget 0 m c.1 - c.2)
  ((p.expect - 1).toNat * 2 ^ 18 + b2n p.sendNak * 2 ^ 30 + a.1 * 2 ^ 32 + a.2 * 2 ^ 35 + b.1 * 2 ^ 43 + b.2 * 2 ^ 46,
   { p with sendNak := false, owed := pay (pay p.owed a) b })

/-- The next message of a channel: round-robin over the partitions (R396). -/
def PortState.pickMsg (p : PortState) (vc : Nat) : Option (Nat × List Byte) :=
  let q := mget [] p.txq vc
  let at_ := mget 0 p.rrPart vc
  (upTo 17).findSome? (fun i => q.find? (fun m => m.1 == (at_ + 1 + i) % 17))

/-- Fill the slots of a DATA flit: the rest of a message begun, then whole messages that end in the next flit at the latest. -/
def PortState.fill (p : PortState) (vc room fuel : Nat) : List Byte × PortState :=
  match fuel with
  | 0 => ([], p)
  | k + 1 =>
    let rest := mget [] p.txRest vc
    if room = 0 then ([], p)
    else if !rest.isEmpty then
      let now := rest.take (16 * room)
      let r := ({ p with txRest := mset [] p.txRest vc (rest.drop (16 * room)) } : PortState).fill vc (room - now.length / 16) k
      (now ++ r.1, r.2)
    else
      match p.pickMsg vc with
      | none => ([], p)
      | some m =>
        if m.2.length / 16 > room + 15 then ([], p)
        else
          let p := { p with
            txq := mset [] p.txq vc ((mget [] p.txq vc).erase m)
            rrPart := mset 0 p.rrPart vc m.1
            txRest := mset [] p.txRest vc m.2 }
          p.fill vc room k

/-- A channel has something to send. -/
def PortState.hasData (p : PortState) (vc : Nat) : Bool := !(mget [] p.txRest vc).isEmpty || !(mget [] p.txq vc).isEmpty

/-- The control record of a kind (R402, R411, R417), bytes from kind on. -/
def State.ctrlRecord (s : State) (n kind : Nat) : List Byte :=
  let p := s.port n
  if kind = 1 then s.ownRecord n ++ (match p.record with | some r => toLE 32 r.toNat | none => List.replicate 32 0)
  else if kind = 2 then toLE 8 2 ++ (upTo 8).flatMap (fun v => toLE 2 (mget 0 p.freed v).toNat)
  else toLE 1 4 ++ toLE 1 (s.getF ⟨portKey n + 0x20, 16, 4⟩)

/-- Send one DATA flit: its payload under a sequence number. -/
def State.sendData (s : State) (n : Nat) (f : SentFlit) (p : PortState) : State :=
  let h := p.hdrFields
  (s.setPort n h.2).emit (.linkFlit n (mkFlit (f.vc * 8 + f.seq.toNat * 64 + h.1) f.pay))

/-- What an ACTIVE port sends in a flit time: a control flit, a replayed flit, a new one of a channel with credit (which of
several is a free value, log entry 34), else IDLE. -/
def State.sendFlit (s : State) (n : Nat) : State :=
  let p := s.port n
  match p.ctrl with
  | k :: rest =>
    let p2 := { p with ctrl := rest, owed := if k = 2 then [] else p.owed }
    (s.setPort n p2).emit (.linkFlit n (ctrlFlit (s.ctrlRecord n k)))
  | [] =>
    match p.replay with
    | f :: rest => s.sendData n f { p with replay := rest, replayAck := if rest.isEmpty then none else p.replayAck }
    | [] =>
      let vcs := (upTo 7).filter (fun v => p.hasData v && p.credit v)
      if vcs.isEmpty ∨ p.retry.length ≥ 1024 then
        let h := p.hdrFields
        (s.setPort n h.2).emit (.linkFlit n (mkFlit (1 + h.1) []))
      else
        let vc := nth 0 vcs (s.freshVal.toNat % vcs.length)
        let s := s.tickFree
        let r := p.fill vc 15 64
        let f : SentFlit := ⟨p.next, vc, (r.1 ++ List.replicate 240 0).take 240⟩
        s.sendData n f { r.2 with next := p.next + 1, retry := p.retry ++ [f], used := mset 0 p.used vc (mget 0 p.used vc + 1) }

end Sys2Proof.Machine
end

