-- ==== Sys2Proof/Machine/Fabric.lean ====
section
/-! DEFINITION. The transaction layer: routing, messages received and answered, requests sent (R390-R396, R419-R428). -/

namespace Sys2Proof.Machine

/-! ### Headers (R420) -/

abbrev Hdr := BitVec 256

/-- n bytes at offset a of a header. -/
def hB (h : Hdr) (a n : Nat) : Nat := recB h.toNat a n
def hType (h : Hdr) : Nat := hB h 0 1 % 16
def hRsp (h : Hdr) : Bool := bit h.toNat 4
def hPoison (h : Hdr) : Bool := bit h.toNat 5
def hLen (h : Hdr) : Nat := hB h 1 1
def hDst (h : Hdr) : Nat := hB h 2 2 % 16384
def hSrc (h : Hdr) : Nat := hB h 4 2 % 16384
def hJob (h : Hdr) : Nat := hB h 6 2
def hTag (h : Hdr) : Nat := hB h 8 2
def hStatus (h : Hdr) : Nat := hB h 0xA 1
def hCtx (h : Hdr) : Nat := hB h 0xB 1 % 64
def hA (h : Hdr) : Nat := hB h 0xC 4
def hBb (h : Hdr) : Nat := hB h 0x10 8
def hC (h : Hdr) : Nat := hB h 0x18 8
/-- Bytes that a PUT, GET or MCAST moves. -/
def hBytes (h : Hdr) : Nat := hA h % 512

/-- A header from its fields. -/
def mkHdr (type len dst src job tag status ctx a b c : Nat) : Hdr :=
  BitVec.ofNat 256 (ofLE (toLE 1 type ++ toLE 1 len ++ toLE 2 dst ++ toLE 2 src ++ toLE 2 job ++ toLE 2 tag ++ toLE 1 status
    ++ toLE 1 ctx ++ toLE 4 a ++ toLE 8 b ++ toLE 8 c))

/-- The type codes of R421. -/
def tPut : Nat := 1
def tGet : Nat := 2
def tAtomic : Nat := 3
def tContrib : Nat := 4
def tResult : Nat := 5
def tArrive : Nat := 6
def tRelease : Nat := 7
def tMcast : Nat := 8
def tMgmt : Nat := 0xA

/-- The status codes of R422. -/
def msOk : Nat := 0
def msRetry : Nat := 1
def msFail : Nat := 2
def msMalformed : Nat := 3
def msUnsupported : Nat := 4
def msNoJob : Nat := 5
def msMisrouted : Nat := 6
def msRoundClosed : Nat := 7
def msDuplicate : Nat := 8
def msUnreachable : Nat := 9
def msResume : Nat := 0xA
def msWrongVc : Nat := 0xB

/-- The virtual channel of a message (R415). -/
def typeVc (h : Hdr) : Nat :=
  if hRsp h then 1
  else if hType h ≤ 3 then 0
  else if hType h = tContrib then 2
  else if hType h = tResult then 3
  else if hType h ≤ tRelease then 4
  else if hType h = tMcast then 5
  else 6

/-- A type code that no message has (R421). -/
def typeUnknown (t : Nat) : Bool := t == 0 || t == 9 || decide (t > 0xA)

/-- Bytes of an element of a reduction's format (R440). -/
def redSize (fmt : Nat) : Nat := if fmt = 0xB then 4 else if fmt = 0x9 then 2 else 1
def redFmt (fmt : Nat) : Bool := fmt == 0xB || fmt == 0x9 || fmt == 0x5

/-- Fields of a reduction message (R421, R448, R450). -/
def rdId (h : Hdr) : Nat := bits (hA h) 0 12
def rdRound (h : Hdr) : Nat := bits (hA h) 12 8
def rdFmt (h : Hdr) : Nat := bits (hA h) 20 4
def rdEnc (h : Hdr) : Bool := bit (hA h) 24
def rdFirst (h : Hdr) : Nat := bits (hA h) 25 6
def rdFrag (h : Hdr) : Nat := hBb h % 2 ^ 32
def rdCount (h : Hdr) : Nat := hBb h / 2 ^ 32
def rdSlot (h : Hdr) : Nat := bits (hC h) 0 16
def rdBackup (h : Hdr) : Bool := bit (hC h) 16
def rdN (h : Hdr) : Nat := bits (hC h) 17 7
def rdNf (h : Hdr) : Nat := bits (hC h) 24 7
def rdLsb (h : Hdr) : Int := sext (bits (hC h) 32 10) 10
def rdW (h : Hdr) : Nat := bits (hC h) 42 4 + 1
def rdStat (h : Hdr) : Nat := bits (hC h) 46 6

/-- Field i of a partial sum's payload (R449). -/
def rdField (w : Nat) (pl : List Byte) (i : Nat) : Int := sext (ofLE ((pl.drop (4 * w * i)).take (4 * w))) (32 * w)

/-- A contribution breaks R448 or R449. -/
def contribBad (h : Hdr) (pl : List Byte) : Bool :=
  let n := rdN h
  let w := rdW h
  let c := hC h
  let common := !bit (hA h) 31 && !bit c 31 && decide (c < 2 ^ 52) && redFmt (rdFmt h)
    && decide (1 ≤ n) && decide (n ≤ 64) && decide (1 ≤ rdNf h) && decide (rdNf h ≤ 64) && decide (rdFirst h + n ≤ rdNf h)
  let e0 := rdFirst h == 0 && n == rdNf h && decide (c < 2 ^ 32) && rdCount h == 1 && hLen h == cdiv (n * redSize (rdFmt h)) 16
  let e1 := rdSlot h == 0 && !rdBackup h && decide (-149 ≤ rdLsb h) && decide (rdLsb h ≤ 139) && decide (w ≤ 10)
    && decide (n * 4 * w ≤ 256) && hLen h == cdiv (n * 4 * w) 16 && decide (rdLsb h + 32 * w ≤ 171)
    && (upTo n).all (fun i => decide (rdField w pl i ≠ -(2 ^ (32 * w - 1) : Nat)))
  !(common && (if rdEnc h then e1 else e0))

/-- A result breaks R450; its format is the reduction's output format. -/
def resultBad (h : Hdr) : Bool :=
  let n := bits (hC h) 8 7
  !(decide (hA h < 2 ^ 24) && redFmt (rdFmt h) && decide (hC h < 2 ^ 15) && decide (bits (hC h) 6 2 = 0) && decide (1 ≤ n) && decide (n ≤ 64)
    && hLen h == cdiv (n * redSize (rdFmt h)) 16)

/-- A message of its type breaks R421, or sets a reserved bit or value of R420 or R422. -/
def msgBad (h : Hdr) (pl : List Byte) : Bool :=
  let a := hA h
  let b := hBb h
  let c := hC h
  let n := hLen h
  let small (x : Nat) : Bool := decide (x < 2 ^ 48)
  let frag (lim : Nat) : Bool := decide (1 ≤ hBytes h) && decide (hBytes h ≤ 256) && decide (a % lim / 512 = 0) && small b && small c
  let frame := decide (n ≤ 16) && pl.length == 16 * n && decide (hB h 0 1 < 64) && decide (hB h 2 2 < 16384) && decide (hB h 4 2 < 16384)
    && decide (hB h 0xB 1 < 64)
  let full := cdiv (hBytes h) 16
  let body : Bool :=
    if hRsp h then
      decide (hStatus h ≤ 0xB) &&
        (if hStatus h ≠ msOk then n == 0 || (hStatus h == msDuplicate && n == 1)
         else if hType h = tGet then n == full
         else if hType h = tAtomic then n == 1
         else if hType h = tMgmt then n == (if a % 256 = 0 then 1 else if a % 256 = 2 then 2 else 0)
         else n == 0)
    else
      decide (hStatus h = 0) &&
        (match hType h with
          | 1 => frag (2 ^ 32) && n == full
          | 2 => frag (2 ^ 32) && n == 0
          | 3 => decide (a < 5) && small b && decide (b % 8 = 0) && c == 0 && n == 1
          | 4 => !contribBad h pl
          | 5 => !resultBad h
          | 6 => decide (a < 2 ^ 12) && b == 0 && c == 0 && n == 0
          | 7 => decide (a < 2 ^ 12) && b == 0 && c == 0 && n == 0
          | 8 => frag (2 ^ 16) && n == full
          | _ => decide (a < 256) && (if a = 0 then n == 0 else if a = 1 then n == 2 else if a = 2 then n == 0 else true))
  !(frame && (typeUnknown (hType h) || body))

/-! ### Routing (R393, R394, R396) -/

/-- A port that a partition's messages may leave on; those of VC6 belong to none. -/
def State.portFor (s : State) (part n : Nat) : Bool :=
  s.pst n == psActive && (part ≥ 16 || bit (s.reg (portKey n + 0x10)).toNat part)

/-- Queue a message on a port. -/
def State.pushTx (s : State) (n part vc : Nat) (bs : List Byte) : State :=
  s.updPort n (fun p => { p with txq := mset [] p.txq vc (mget [] p.txq vc ++ [(part, bs)]) })

/-- Deliver a message inside the module, as though it had arrived on a port (R394). -/
def State.pushLocal (s : State) (n vc : Nat) (bs : List Byte) : State :=
  (s.updPort n (fun p => { p with rxMsgs := mset [] p.rxMsgs vc (mget [] p.rxMsgs vc ++ [⟨bs, 0⟩]) })).emit (.fabricLocal n bs)

/-- The destination of a message as bytes. -/
def bytesDst (bs : List Byte) : Nat := ofLE ((bs.drop 2).take 2) % 16384

/-- The port that a waiting message leaves on now, if any: a named one or its standby, else round-robin under the route mask. -/
def State.routeOf (s : State) (m : RouteMsg) : Option Nat :=
  if !s.numbered && m.vc ≠ 6 then none
  else
    match m.ports with
    | [] => ((upTo 18).map (fun i => (s.fabric.rr + 1 + i) % 18)).find? (fun n =>
        s.portFor m.part n && bit (s.reg (chnBase + 0x10)).toNat n)
    | l => l.find? (fun n => s.portFor m.part n)

/-- Send a message, or let it wait until one of its ports is ACTIVE; one to the module itself stays inside. -/
def State.sendMsg (s : State) (m : RouteMsg) (self : Bool) : State :=
  if self && s.numbered && bytesDst m.bytes == s.modNum then
    let n := ((upTo 18).find? (fun n => bit (s.reg (portKey n + 0x10)).toNat m.part)).getD 0
    s.pushLocal n m.vc m.bytes
  else
    match s.routeOf m with
    | some n =>
      let s := s.pushTx n m.part m.vc m.bytes
      if m.ports.isEmpty then { s with fabric := { s.fabric with rr := n } } else s
    | none => { s with fabric := { s.fabric with toRoute := s.fabric.toRoute ++ [m] } }

/-- Send the messages that waited for a port. -/
def State.routeAll (s : State) : State :=
  forEach s.fabric.toRoute { s with fabric := { s.fabric with toRoute := [] } } (fun s m => s.sendMsg m true)

/-- FLIT_TRANSMIT (R401, R409, R429): what the port sends in one flit time. -/
def execFlitTransmit (p : Fin 18) (s : State) : Res :=
  let s := s.routeAll
  let n := p.val
  .next (if s.pst n = psActive then s.sendFlit n
    else if s.pstep n psConfig then
      match (s.port n).ctrl with
      | k :: rest => (s.updPort n (fun x => { x with ctrl := rest })).emit (.linkFlit n (ctrlFlit (s.ctrlRecord n k)))
      | [] => s
    else if s.pst n = psQuarantined then s.emit (.linkFlit n (ctrlFlit (s.ctrlRecord n 4)))
    else s)

/-! ### Requests of the module (R423-R426) -/

/-- A tag that no outstanding request has. -/
def State.freeTag (s : State) (t : BitVec 16) (fuel : Nat) : BitVec 16 :=
  match fuel with
  | 0 => t
  | k + 1 => if s.fabric.outstanding.any (fun r => r.tag == t) then s.freeTag (t + 1) k else t

/-- Whether a further request may be outstanding. -/
def State.reqRoom (s : State) : Bool := decide (s.fabric.outstanding.length < 8192)

/-- The job number of a partition. -/
def State.jobOf (s : State) (p : Nat) : Nat := s.getF ⟨chnBase + 0x80 + 8 * p, 0, 16⟩

/-- Send a request that expects an answer from each member; its tag. -/
def State.request (s : State) (part type dst ctx a b c : Nat) (pl : List Byte) (poison : Bool) (members : List (BitVec 14))
    (owner : ReqOwner) : State × BitVec 16 :=
  let tag := s.freeTag s.fabric.nextTag 8192
  let job := if type = tMgmt then 0 else s.jobOf part
  let h := mkHdr (type + 32 * b2n poison) (cdiv pl.length 16) dst s.modNum job tag.toNat 0 ctx a b c
  let pl := pl ++ List.replicate (16 * cdiv pl.length 16 - pl.length) 0
  let vc := typeVc h
  let p := if type = tMgmt then 16 else part
  let r : OutReq := ⟨tag, members, p, 0, vc, h, pl, owner, []⟩
  let s := { s with fabric := { s.fabric with nextTag := tag + 1, outstanding := s.fabric.outstanding ++ [r] } }
  (s.sendMsg ⟨p, vc, [], toLE 32 h.toNat ++ pl⟩ (type != tMcast), tag)

/-- A request by its tag. -/
def State.reqOf (s : State) (tag : BitVec 16) : Option OutReq := s.fabric.outstanding.find? (fun r => r.tag == tag)

/-- Replace a request. -/
def State.setReq (s : State) (r : OutReq) : State :=
  { s with fabric := { s.fabric with outstanding := mapWhere s.fabric.outstanding (fun x => x.tag == r.tag) (fun _ => r) } }

/-- A request has ended. -/
def State.endReq (s : State) (tag : BitVec 16) : State :=
  { s with fabric := { s.fabric with outstanding := s.fabric.outstanding.filter (fun r => r.tag != tag) } }

/-- Send a request again to one of those who answered XLATE_RETRY: to a member of a multicast as a PUT (R424, R466). -/
def State.resend (s : State) (r : OutReq) (to_ : BitVec 14) : State :=
  let s := s.setReq { r with retryOf := r.retryOf.erase to_ }
  let h := if hType r.hdr = tMcast then
      mkHdr (tPut + 32 * b2n (hPoison r.hdr)) (hLen r.hdr) to_.toNat (hSrc r.hdr) (hJob r.hdr) (hTag r.hdr) 0 (hCtx r.hdr)
        (hBytes r.hdr) (hBb r.hdr) (hC r.hdr)
    else r.hdr
  s.sendMsg ⟨r.part, typeVc h, [], toLE 32 h.toNat ++ r.pay⟩ true

/-- XLATE_RETRY_RESEND (R424): whoever has sent neither RESUME nor XLATE_FAIL is asked again. -/
def execXlateRetryResend (tag : BitVec 16) (s : State) : Res :=
  .next (match s.reqOf tag with
    | some r => forEach r.retryOf s (fun s m => match s.reqOf tag with | some r => s.resend r m | none => s)
    | none => s)

/-! ### Arriving messages -/

/-- Answer a message on the port it came by. -/
def State.answer (s : State) (n : Nat) (h : Hdr) (status : Nat) (pl : List Byte) (poison : Bool) : State :=
  let g := mkHdr (hType h + 16 + 32 * b2n poison) (pl.length / 16) (hSrc h) s.modNum (hJob h) (hTag h) status (hCtx h) (hA h) 0 (hC h)
  let bs := toLE 32 g.toNat ++ pl
  if s.numbered && hSrc h == s.modNum then s.pushLocal n 1 bs else s.pushTx n (if hType h = tMgmt then 16 else s.portPart n) 1 bs

/-- Whether a message is a request that may be answered for a violation of classes 1 to 3. -/
def isRequest (h : Hdr) : Bool := !hRsp h && (hType h ≤ tContrib || hType h == tMcast || hType h == tMgmt || typeUnknown (hType h))

/-- The partition that a message on a port belongs to: an enabled entry holds its job, and the partition is bound to the port (R395). -/
def State.jobPart (s : State) (n : Nat) (h : Hdr) : Option Nat :=
  (upTo 16).find? (fun p => s.jobOf p == hJob h && s.getB ⟨chnBase + 0x80 + 8 * p, 16, 1⟩ && bit (s.reg (portKey n + 0x10)).toNat p)

/-- The channel at whose front a message stands. -/
def PortState.frontVc (p : PortState) (bs : List Byte) : Option Nat :=
  (upTo 7).find? (fun v => match mget [] p.rxMsgs v with | m :: _ => m.bytes == bs | [] => false)

/-- A message stands in a buffer behind others. -/
def PortState.behind (p : PortState) (bs : List Byte) : Bool :=
  (p.frontVc bs).isNone && (upTo 7).any (fun v => (mget [] p.rxMsgs v).any (fun m => m.bytes == bs))

/-- A violation at the transaction layer: logged, and answered where R428 says so. -/
def State.msgViolate (s : State) (n cls : Nat) (h : Hdr) : State :=
  let s := if cls = vMalformed ∧ isRequest h = true then s.answer n h msMalformed [] false
    else if cls = vUnknownType ∧ isRequest h = true then s.answer n h msUnsupported [] false
    else if cls = vWrongVc ∧ isRequest h = true then s.answer n h msWrongVc [] false
    else if cls = vNoJob then s.answer n h msNoJob [] false
    else if cls = vMisrouted then s.answer n h msMisrouted [] false
    else if cls = vRoundClosed then s.answer n h msRoundClosed [] false
    else s
  s.violate n cls (hSrc h) (if cls = vMalformed ∨ cls = vUnknownType ∨ cls = vNoJob then some (typeVc h) else none)

/-- The first violation of a message, by the order of R428's codes (log entry 35); v is the channel it came on. -/
def State.msgCheck (s : State) (n : Nat) (h : Hdr) (pl : List Byte) (v : Option Nat) : Option Nat :=
  if msgBad h pl then some vMalformed
  else if typeUnknown (hType h) then some vUnknownType
  else if (match v with | some x => x != typeVc h | none => false) then some vWrongVc
  else if hType h ≠ tMgmt ∧ s.numbered ∧ s.jobPart n h = none then some vNoJob
  else if (if s.numbered then decide (hDst h ≠ s.modNum) else decide (hType h ≠ tMgmt)) then some vMisrouted
  else none

/-- A message arrives: it is the front one of a buffer of its port, or comes as it is on an ACTIVE port (log entry 36); it is of
the command's kind or of none; a violation drops it. -/
def State.onMsg (s : State) (n : Nat) (h : Hdr) (pl : List Byte) (mine : Bool) (act : State → Nat → State) : Res :=
  let bs := toLE 32 h.toNat ++ pl
  let v := (s.port n).frontVc bs
  when ((mine || typeUnknown (hType h)) && !(s.port n).behind bs && (v.isSome || s.pst n == psActive)) (fun s =>
    let s := match v with | some x => s.updPort n (fun p => p.popMsg x) | none => s
    match s.msgCheck n h pl v with
    | some c => s.msgViolate n c h
    | none => act s ((s.jobPart n h).getD 16)) s

/-- A port as a unit that translates. -/
def portUnit (n : Nat) : UnitId := .port (Fin.ofNat 18 n)

/-- The waiter of a message on a port. -/
def msgWaiter (n : Nat) (h : Hdr) : Waiter := .fabric n (BitVec.ofNat 14 (hSrc h)) (BitVec.ofNat 16 (hTag h))

/-- A faulting message is answered XLATE_RETRY at once, and kept unless 1,024 are (R319, R424). -/
def State.keepMsg (s : State) (n : Nat) (h : Hdr) (rcd : Word32) : State :=
  let s := s.answer n h msRetry [] false
  if s.fabric.kept.length ≥ 1024 then s
  else { s with fabric := { s.fabric with kept := s.fabric.kept ++ [⟨n, h, rcd⟩] } }

/-- A record that messages wait on is settled: each kept message is told RESUME, or XLATE_FAIL (R424). -/
def State.fabricSettle (s : State) (rcd : Word32) (retry : Bool) : State :=
  let ks := s.fabric.kept.filter (fun k => k.rcd == rcd)
  let s := { s with fabric := { s.fabric with kept := s.fabric.kept.filter (fun k => k.rcd != rcd) } }
  forEach ks s (fun s k => s.answer k.port k.hdr (if retry then msResume else msFail) [] false)

/-- A write that a PUT or an MCAST copy carries. -/
def State.msgWrite (s : State) (n p : Nat) (h : Hdr) (pl : List Byte) : State :=
  let bs := pl.take (hBytes h)
  let r := s.vWrite (portUnit n) (hCtx h) p (hBb h) bs noCore (some (msgWaiter n h))
  match r.o with
  | .held id _ => r.st.keepMsg n h id
  | .done _ _ =>
    let s := if hPoison h then r.st.vPoison (portUnit n) (hCtx h) p (hBb h) bs.length noCore else r.st
    s.answer n h msOk [] false

/-- PUT (R421, R424, R426). -/
def execPut (p : Fin 18) (h : Hdr) (pl : List Byte) (s : State) : Res :=
  s.onMsg p.val h pl (hType h == tPut && !hRsp h) (fun s part => s.msgWrite p.val part h pl)

/-- MCAST (R421, R426, R466). -/
def execMcast (p : Fin 18) (h : Hdr) (pl : List Byte) (s : State) : Res :=
  s.onMsg p.val h pl (hType h == tMcast && !hRsp h) (fun s part => s.msgWrite p.val part h pl)

/-- Bytes padded to whole slots. -/
def slots (bs : List Byte) : List Byte := bs ++ List.replicate (16 * cdiv bs.length 16 - bs.length) 0

/-- GET (R421, R423, R424). -/
def execGet (p : Fin 18) (h : Hdr) (pl : List Byte) (s : State) : Res :=
  s.onMsg p.val h pl (hType h == tGet && !hRsp h) (fun s part =>
    let r := s.vRead (portUnit p.val) (hCtx h) part (hBb h) (hBytes h) .read (some (msgWaiter p.val h))
    match r.o with
    | .held id _ => r.st.keepMsg p.val h id
    | .done bs poison => r.st.answer p.val h msOk (slots bs) poison)

/-- An ATOMIC of a message at its home (R421): the state, the returned value, its poison. A duplicate cannot arise: no core is
named (R667). -/
def State.msgAtomic (s : State) (part pa aop x cmp : Nat) : State × Nat × Bool :=
  let amo (op : AmoOp) : State × Nat × Bool :=
    let old := ofLE (s.physRead part pa 8).data
    let r := s.amoAt noCore part op 64 pa x
    (r.st, old, r.poison)
  match aop with
  | 0 => amo .add
  | 1 => let r := s.wcClaim part pa x none; (r.st, r.ticket, r.poison)
  | 2 => let r := s.wcPresent part pa x none; (r.st, r.ticket, r.poison)
  | 3 => amo .swap
  | _ =>
    let r := s.physRead part pa 8
    let old := ofLE r.data
    if r.poison then (r.st, old, true)
    else if old = cmp then (r.st.physWrite part noCore pa (toLE 8 x), old, false)
    else (r.st, old, false)

/-- ATOMIC (R421, R424); a host page has no home for it (log entry 25). -/
def execAtomic (p : Fin 18) (h : Hdr) (pl : List Byte) (s : State) : Res :=
  s.onMsg p.val h pl (hType h == tAtomic && !hRsp h) (fun s part =>
    let n := p.val
    let u := portUnit n
    let t := s.xlRun u (hCtx h) part (hBb h) 8 .atomic
    let hold (s : State) (x : Xl) : State :=
      let f := s.openFault u (hCtx h) part (hBb h) .atomic x (some (msgWaiter n h))
      f.1.keepMsg n h f.2
    match t.bad, t.segs with
    | some (_, x), _ => hold t.st x
    | none, g :: _ =>
      if g.host then hold t.st (.fail clsHostError 0 0 true)
      else
        let r := t.st.msgAtomic part g.pa (hA h % 8) (ofLE (pl.take 8)) (ofLE (pl.drop 8))
        r.1.answer n h msOk (toLE 16 r.2.1) r.2.2
    | none, [] => t.st)

/-- BARRIER_ARRIVE (R427, R428): nothing in a module is configured to take one. -/
def execBarrierArrive (p : Fin 18) (h : Hdr) (pl : List Byte) (s : State) : Res :=
  s.onMsg p.val h pl (hType h == tArrive && !hRsp h) (fun s _ => s.msgViolate p.val vUnknownType h)

/-- BARRIER_RELEASE (R372, R373, R421): the release of a generation of a domain-scope barrier. -/
def execBarrierRelease (p : Fin 18) (h : Hdr) (pl : List Byte) (s : State) : Res :=
  s.onMsg p.val h pl (hType h == tRelease && !hRsp h) (fun s part =>
    match s.barCfg part (hA h % 1024) with
    | some c => if c.scope = 3 then s.releaseAll part (hA h % 1024) (BitVec.ofNat 2 (hA h / 1024)) else s
    | none => s)

/-- Send the arrival of a domain-scope barrier to the fabric: its destination module is a free value (log entry 37). -/
def State.sendArrive (s : State) (part bid : Nat) (g : BitVec 2) : State :=
  let h := mkHdr tArrive 0 (s.freshVal.toNat % 16384) s.modNum (s.jobOf part) 0 0 0 (bid + 1024 * g.toNat) 0 0
  s.tickFree.sendMsg ⟨part, 4, [], toLE 32 h.toNat⟩ false

/-- BARRIER_NODE_ARRIVAL (R373). -/
def execBarrierNodeArrival (node : BarNode) (part : Fin 16) (bid : BitVec 10) (gen : BitVec 2) (s : State) : Res :=
  when (s.sync.arrivals.contains (node, part.val, bid, gen)) (fun s =>
    let s := { s with sync := { s.sync with arrivals := s.sync.arrivals.erase (node, part.val, bid, gen) } }
    let r := s.nodeCount (nodeNo node) part.val bid.toNat gen
    match r.2 with
    | .counted => r.1
    | .up k => { r.1 with sync := { r.1.sync with arrivals := r.1.sync.arrivals ++ [(nodeOf k, part.val, bid, gen)] } }
    | .release => r.1.releaseAll part.val bid.toNat gen
    | .fabric => r.1.sendArrive part.val bid.toNat gen) s

/-- PROBE (R427), and every management message of a kind the module does not answer. -/
def execProbe (p : Fin 18) (h : Hdr) (pl : List Byte) (s : State) : Res :=
  s.onMsg p.val h pl (hType h == tMgmt && !hRsp h && (hA h % 256 == 0 || decide (hA h % 256 > 2))) (fun s _ =>
    if hA h = 0 then
      s.answer p.val h msOk (toLE 16 (s.modNum + b2n s.numbered * 2 ^ 14 + p.val * 2 ^ 15 + s.pst p.val * 2 ^ 23)) false
    else s.answer p.val h msUnsupported [] false)

/-- NODE_CFG (R427): a module answers UNSUPPORTED. -/
def execNodeCfg (p : Fin 18) (h : Hdr) (pl : List Byte) (s : State) : Res :=
  s.onMsg p.val h pl (hType h == tMgmt && !hRsp h && hA h % 256 == 1) (fun s _ => s.answer p.val h msUnsupported [] false)

/-- PORT_STAT (R427). -/
def execPortStat (p : Fin 18) (h : Hdr) (pl : List Byte) (s : State) : Res :=
  s.onMsg p.val h pl (hType h == tMgmt && !hRsp h && hA h % 256 == 2) (fun s _ =>
    let k := portKey p.val
    s.answer p.val h msOk ([8, 0x18, 0x20, 0x28].flatMap (fun o => toLE 8 (s.reg (k + o)).toNat)) false)

end Sys2Proof.Machine
end

