-- ==== Sys2Proof/Machine/Bulk.lean ====
section
/-! DEFINITION. The bulk DMA engines: COPY and FMCAST, and what the fabric's answers do to them (R354, R355, R423-R425, R466, R513). -/

namespace Sys2Proof.Machine

/-! ### Engines -/

/-- The work of a bulk engine, if it has any. -/
def State.bulkOf (s : State) (e : Nat) : Option BulkState := mget none s.host.bulk e
/-- Give a bulk engine work, or take it away. -/
def State.setBulk (s : State) (e : Nat) (b : Option BulkState) : State := { s with host := { s.host with bulk := mset none s.host.bulk e b } }
/-- Change a bulk engine's work. -/
def State.updBulk (s : State) (e : Nat) (f : BulkState → BulkState) : State := s.setBulk e ((s.bulkOf e).map f)

/-- A bulk engine as a unit. -/
def bulkUnit (e : Nat) : UnitId := .bulk (Fin.ofNat 16 e)

/-- The descriptor in hand; its cpl is applied as zero (R513). -/
def BulkState.desc (b : BulkState) : BitVec 512 := BitVec.ofNat 512 ((nth 0 b.descs b.index).toNat % 2 ^ 448)

/-- The engine as a mover of its context; its key state is zero (log entry 38). -/
def BulkState.mover (b : BulkState) (e : Nat) : Mover := ⟨bulkUnit e, b.ctx, b.part, 0, ⟨0, 0, 0, 0⟩, .bulk e, b.got⟩

/-- Whether a bulk engine accepts a descriptor (R349, R354, R355). -/
def bulkValid (w : BitVec 512) : Bool :=
  let d := descOf w
  let gs := d.gather || d.scatter
  let remote := d.srcSp == 3 || d.dstSp == 3
  let sp (x : Nat) : Bool := x == 0 || x == 3
  !descReserved w && d.srcFmt != 0xF && d.dstFmt != 0xF && d.optionsOk && !d.mcast
    && !(d.gather && d.scatter) && !(gs && (d.zpad || d.trans)) && !(d.conv && d.trans)
    && (match d.kind with
        | 0 => sp d.srcSp && sp d.dstSp && d.srcMc == 0 && d.dstMc == 0
            && ({ d with srcSp := 0, dstSp := 0 } : Desc).copyOk
            && !(gs && bits d.aux 48 3 != 0) && !(remote && (gs || d.zpad || decide (d.aux ≥ 2 ^ 20)))
        | 3 => d.dstSp == 0 && d.atomicOk
        | _ => false)

/-! ### Traversal of a remote side (R338, R423) -/

/-- Rows of a plane of the source: elements of a row under trans come from as many source rows. -/
def Desc.srcRows (d : Desc) : Nat := if d.trans then d.len else d.n1
/-- Bytes of the whole source, of the whole destination. -/
def Desc.srcTotal (d : Desc) : Nat := d.n2 * d.srcRows * d.srcRow
def Desc.dstTotal (d : Desc) : Nat := d.n2 * d.n1 * d.dstRow

/-- Address and length of the fragment at an offset: it ends with its row or at the next 256 B boundary. -/
def fragAt (base s1 s2 : Int) (rows rowLen off : Nat) : Nat × Nat :=
  let i := off / rowLen
  let pos := off % rowLen
  let a := toBits (base + (i / rows : Nat) * s2 + (i % rows : Nat) * s1 + pos) 48
  (a, min (rowLen - pos) (256 - a % 256))
def Desc.srcFrag (d : Desc) (off : Nat) : Nat × Nat := fragAt d.src d.s1 d.s2 d.srcRows d.srcRow off
def Desc.dstFrag (d : Desc) (off : Nat) : Nat × Nat := fragAt d.dst d.d1 d.d2 d.n1 d.dstRow off

/-- Remote module and context of a descriptor (R355). -/
def Desc.rmod (d : Desc) : Nat := bits d.aux 0 14
def Desc.rctx (d : Desc) : Nat := bits d.aux 14 6

/-! ### Work in steps -/

/-- A command that a bulk engine does is complete. -/
def State.bulkComplete (s : State) (e : Nat) (b : BulkState) (code idx off : Nat) : State :=
  match b.owner with
  | .cmd src c => (s.setBulk e none).complete src c true (if code = 0 then cmOk else cmDmaError) (code + idx * 2 ^ 8 + off * 2 ^ 16)
  | .publish _ _ => s.setBulk e (some { b with finished := true })

/-- The descriptor in hand completes with a code; the last one completes the command (R513). -/
def State.bulkNext (s : State) (e : Nat) (b : BulkState) (code : Nat) : State :=
  let failed := if code ≠ 0 ∧ b.failed = none then some (code, b.index, b.off) else b.failed
  let i := b.index + 1
  let b := { b with
    failed := failed, index := i, fetching := (descOf (nth 0 b.descs i)).srcSp == 3, off := 0, again := [], waiting := [], got := []
    held := none, stop := false, status := 0 }
  if i < b.descs.length then s.setBulk e (some b)
  else
    let f := failed.getD (0, 0, 0)
    s.bulkComplete e b f.1 f.2.1 f.2.2

/-- Send a fragment's request; what was sent is outstanding. -/
def State.bulkSend (s : State) (e : Nat) (b : BulkState) (off next : Nat) (type a n : Nat) (pl : List Byte) (poison : Bool) : State :=
  let d := descOf b.desc
  let r := s.request b.part type d.rmod d.rctx n a off pl poison [BitVec.ofNat 14 d.rmod] (.frag e off)
  r.1.setBulk e (some { b with off := next, again := b.again.erase off, waiting := b.waiting ++ [off] })

/-- The bytes of the destination fragment at an offset: part of its row. -/
def State.fragBytes (s : State) (e : Nat) (b : BulkState) (d : Desc) (off n : Nat) : Got × Nat :=
  let r := s.copyRow (b.mover e) d (off / d.dstRow)
  let bs := match r.outs with | o :: _ => (o.2.drop (off % d.dstRow)).take n | [] => []
  (⟨r.st, bs, r.held⟩, r.code)

/-- One step of a COPY's engine; none when it can do nothing now. -/
def State.bulkStep (s : State) (e : Nat) (b : BulkState) : Option State :=
  let w := b.desc
  let d := descOf w
  let hold (s : State) (id : Word32) : State := s.setBulk e (some { b with held := some id })
  if b.held.isSome then none
  else if b.stop then (if b.waiting.isEmpty then some (s.bulkNext e b b.status) else none)
  else if !bulkValid w then some (s.bulkNext e b stDescInvalid)
  else if b.fetching then
    match b.again with
    | o :: _ => if s.reqRoom then some (s.bulkSend e b o b.off tGet (d.srcFrag o).1 (d.srcFrag o).2 [] false) else none
    | [] =>
      if b.off < d.srcTotal then
        let f := d.srcFrag b.off
        if s.reqRoom then some (s.bulkSend e b b.off (b.off + f.2) tGet f.1 f.2 [] false) else none
      else if b.waiting.isEmpty then some (s.setBulk e (some { b with fetching := false, off := 0 }))
      else none
  else if d.kind = 3 then
    let r := s.descAtomic (b.mover e) d none
    match r.held with
    | some id => some (hold r.st id)
    | none =>
      match r.outs with
      | o :: _ =>
        let p := r.st.spPut (b.mover e) 0 0 o.1 o.2
        match p.2 with
        | some id => some (hold p.1 id)
        | none => some (p.1.bulkNext e b (lowStatus r.code (if r.poison then stPoison else 0)))
      | [] => some (r.st.bulkNext e b r.code)
  else if d.dstTotal = 0 then some (s.bulkNext e b b.status)
  else if d.dstSp = 3 then
    let go (o next : Nat) : Option State :=
      if !s.reqRoom then none
      else
        let f := d.dstFrag o
        let g := s.fragBytes e b d o f.2
        match g.1.held with
        | some id => some (hold g.1.st id)
        | none =>
          let bad := g.1.bs.any (·.2)
          some (g.1.st.bulkSend e { b with status := lowStatus b.status (if bad then stPoison else 0) } o next tPut f.1 f.2 (g.1.bs.map (·.1)) bad)
    match b.again with
    | o :: _ => go o b.off
    | [] => if b.off < d.dstTotal then go b.off (b.off + (d.dstFrag b.off).2)
            else if b.waiting.isEmpty then some (s.bulkNext e b b.status) else none
  else if b.off ≥ d.dstTotal then some (s.bulkNext e b b.status)
  else
    let r := s.copyRow (b.mover e) d (b.off / d.dstRow)
    match r.held with
    | some id => some (hold r.st id)
    | none =>
      match r.outs with
      | o :: _ =>
        let p := r.st.spPut (b.mover e) 0 0 o.1 o.2
        match p.2 with
        | some id => some (hold p.1 id)
        | none => some (p.1.setBulk e (some { b with
            off := b.off + d.dstRow, status := lowStatus b.status (if r.poison then stPoison else 0) }))
      | [] => some (r.st.bulkNext e b (lowStatus b.status r.code))

/-- The map of undelivered members, bit i for member i (R466). -/
def McastRun.map (m : McastRun) : List Byte :=
  toLE (cdiv m.members.length 8) (m.members.zipIdx.foldl (fun v p => if m.bad.contains p.1 then v + 2 ^ p.2 else v) 0)

/-- One step of a multicast's engine (R466): the header's destination module is a free value, the group names the members (log entry 37). -/
def State.mcastStep (s : State) (e : Nat) (b : BulkState) (m : McastRun) : Option State :=
  let hold (s : State) (id : Word32) : State := s.setBulk e (some { b with held := some id })
  let code := lowStatus b.status (if m.bad.isEmpty then 0 else stPartial)
  let fin (s : State) (c : Nat) : State := s.bulkComplete e b c 0 m.bad.length
  if b.held.isSome ∨ b.finished then none
  else if b.off < m.bytes ∧ b.stop = false then
    if !s.reqRoom then none
    else
      let a := (m.dst + b.off) % 2 ^ 48
      let n := min (m.bytes - b.off) (256 - a % 256)
      let g : Got := if m.lit.isEmpty then s.memGet (b.mover e) (m.src + b.off) n 4 else ⟨s, ((m.lit.drop b.off).take n).map (fun x => (x, false)), none⟩
      match g.held with
      | some id => some (hold g.st id)
      | none =>
        let bad := g.bs.any (·.2)
        let r := g.st.tickFree.request b.part tMcast (s.freshVal.toNat % 16384) m.rctx (n + m.group * 2 ^ 16) a b.off (g.bs.map (·.1)) bad
          (m.members.map (BitVec.ofNat 14)) (.frag e b.off)
        let none_ := m.members.isEmpty
        let s := if none_ then r.1.endReq r.2 else r.1
        some (s.setBulk e (some { b with
          off := b.off + n, waiting := if none_ then b.waiting else b.waiting ++ [b.off], status := lowStatus b.status (if bad then stPoison else 0) }))
  else if !b.waiting.isEmpty then none
  else if m.report = 0 ∨ b.stop = true then some (fin s code)
  else
    let r := s.vWrite (bulkUnit e) b.ctx b.part m.report m.map noCore (some (.bulk e))
    match r.o with
    | .held id _ => some (hold r.st id)
    | .done _ _ => some (fin r.st code)

/-- Let a bulk engine work until it waits or is done. -/
def State.bulkRun (s : State) (e fuel : Nat) : State :=
  match fuel with
  | 0 => s
  | k + 1 =>
    match s.bulkOf e with
    | none => s
    | some b =>
      match (match b.mcast with | some m => s.mcastStep e b m | none => s.bulkStep e b) with
      | some t => t.bulkRun e k
      | none => s

/-- Steps beyond what any command needs. -/
def bulkFuel : Nat := 2 ^ 60

/-- Let a bulk engine work. -/
def State.bulkGo (s : State) (e : Nat) : State := s.bulkRun e bulkFuel

/-- The engine that does a command goes to work. -/
def State.bulkKick (s : State) (o : BulkOwner) : State :=
  match (upTo 16).find? (fun e => match s.bulkOf e with | some b => b.owner == o | none => false) with
  | some e => s.bulkGo e
  | none => s

/-! ### Fault service -/

/-- Retry: the engine goes on where it was held. -/
def State.bulkRetry (s : State) (e : Nat) : State := (s.updBulk e (fun b => { b with held := none })).bulkGo e

/-- Abort: the descriptor completes XLATE_FAIL, once its outstanding requests are answered. -/
def State.bulkAbort (s : State) (e : Nat) : State :=
  (s.updBulk e (fun b => { b with held := none, stop := true, status := lowStatus b.status stXlateFail })).bulkGo e

/-! ### Answers of the fabric -/

/-- A request has been answered by one of those it went to; with the last answer it ends. -/
def State.answered (s : State) (r : OutReq) (who : BitVec 14) (e off : Nat) : State :=
  let left := r.members.erase who
  if left.isEmpty then (s.endReq r.tag).updBulk e (fun b => { b with waiting := b.waiting.erase off })
  else s.setReq { r with members := left, retryOf := r.retryOf.erase who }

/-- A fragment has failed at a member: a multicast's member is undelivered, a transfer is REMOTE_FAIL (R355, R466). -/
def State.fragFail (s : State) (r : OutReq) (who : BitVec 14) (e off : Nat) : State :=
  let s := s.updBulk e (fun b =>
    match b.mcast with
    | some m => { b with mcast := some { m with bad := if m.bad.contains who.toNat then m.bad else m.bad ++ [who.toNat] } }
    | none => { b with stop := true, status := lowStatus b.status stRemoteFail, off := if b.fetching then 0 else min b.off off })
  s.answered r who e off

/-- A fragment has been performed at a member; the data of a GET is kept until its rows are written. -/
def State.fragOk (s : State) (r : OutReq) (who : BitVec 14) (e off : Nat) (pl : List Byte) (poison : Bool) : State :=
  let s := if hType r.hdr = tGet then
      s.updBulk e (fun b => { b with
        got := (pl.take (hBytes r.hdr)).zipIdx.foldl (fun m p => mset (0, false) m ((hBb r.hdr + p.2) % 2 ^ 48) (p.1, poison)) b.got })
    else s
  s.answered r who e off

/-! ### COPY and FMCAST -/

/-- A bulk engine that is free: the one asked for, or any. -/
def State.freeBulk (s : State) (eng : Nat) : Option Nat :=
  if eng = 0xFF then (upTo 16).find? (fun e => (s.bulkOf e).isNone) else if (s.bulkOf eng).isNone then some eng else none

/-- Cut bytes into pieces of n. -/
def pieces (n : Nat) (bs : List Byte) (fuel : Nat) : List (List Byte) :=
  match fuel with
  | 0 => []
  | k + 1 => if bs.isEmpty then [] else bs.take n :: pieces n (bs.drop n) k

/-- Let the engine of a command work after the command has started. -/
def kicked (r : Res) (src : CmdSrc) (c : Cmd) : Res :=
  match r with
  | .next s => .next (s.bulkKick (.cmd src c))
  | x => x

/-- COPY (R513): it waits while its engine is at work. -/
def execCopy (src : CmdSrc) (c : Cmd) (s : State) : Res :=
  kicked (s.runCmd src c (cmdOp c == 0x10) [(8, 8), (0x10, 2), (0x12, 1)] (fun s =>
    let n := cmdB c 0x10 2
    let eng := cmdB c 0x12 1
    let p := s.srcPart src
    if n = 0 ∨ n > 256 ∨ (16 ≤ eng ∧ eng < 255) then .done s cmBadField 0
    else if !s.ctxOk (cmdCtx c) p then .done s cmNotPermitted 0
    else
      match s.freeBulk eng with
      | none => .hold s
      | some e =>
        s.withRecord src c (cmdB c 8 8) (64 * n) (fun s bs =>
          let ds := (pieces 64 bs 256).map (fun x => BitVec.ofNat 512 (ofLE x))
          .run (s.setBulk e (some ⟨.cmd src c, p, cmdCtx c, ds, 0, (descOf (nth 0 ds 0)).srcSp == 3, 0, [], [], [], none, false, 0, none, none, false⟩)))))
    src c

/-- FMCAST (R466, R509). -/
def execFmcast (src : CmdSrc) (c : Cmd) (s : State) : Res :=
  kicked (s.runCmd src c (cmdOp c == 0x41) [(8, 8), (0x10, 8), (0x18, 8), (0x20, 8), (0x28, 4), (0x2C, 2), (0x2E, 2), (0x30, 1)] (fun s =>
    let p := s.srcPart src
    let m := cmdB c 0x2E 2
    if cmdB c 0x30 1 ≥ 64 then .done s cmBadField 0
    else if !s.ctxOk (cmdCtx c) p then .done s cmNotPermitted 0
    else
      match s.freeBulk 0xFF with
      | none => .hold s
      | some e =>
        s.withRecord src c (cmdB c 0x18 8) (2 * m) (fun s bs =>
          let mem := (pieces 2 bs 65536).map (fun x => ofLE x % 16384)
          let run : McastRun := ⟨cmdB c 0x2C 2, cmdB c 0x10 8, cmdB c 0x30 1, mem, [], cmdB c 8 8, [], cmdB c 0x28 4, cmdB c 0x20 8⟩
          .run (s.setBulk e (some ⟨.cmd src c, p, cmdCtx c, [], 0, false, 0, [], [], [], none, false, 0, none, some run, false⟩)))))
    src c

/-- Every copy and multicast of a partition's commands ends (R544): its requests are forgotten. -/
def State.bulkDrop (s : State) (p : Nat) : State :=
  forEach (upTo 16) s (fun s e =>
    match s.bulkOf e with
    | some b =>
      if b.part = p then
        let s := (s.dropWaiters (fun w => w == .bulk e)).setBulk e none
        let mine (r : OutReq) : Bool := match r.owner with | .frag x _ => x == e | _ => false
        { s with fabric := { s.fabric with outstanding := s.fabric.outstanding.filter (fun r => !mine r) } }
      else s
    | none => s)

end Sys2Proof.Machine
end

