-- ==== Sys2Proof/Machine/Service.lean ====
section
/-! DEFINITION. The coupling service's shared operations: pantries, weight publication, the query service (R548-R561). -/

namespace Sys2Proof.Machine

/-! ### Accesses of the service -/

/-- The unit of the coupling service's own accesses (R668, log entry 30). -/
def svcUnit : UnitId := .jservice 4

/-- A piece of the service's work: done, stopped at a translation that failed, or at poison. -/
inductive Svc (α : Type) where
  | ok (s : State) (a : α)
  | miss (u : UnitId) (ctx va : Nat) (acc : Access) (x : Xl)
  | bad
  deriving DecidableEq, Repr

/-- One piece of work after another. -/
def Svc.andThen {α β : Type} (x : Svc α) (f : State → α → Svc β) : Svc β :=
  match x with
  | .ok s a => f s a
  | .miss u c va acc x => .miss u c va acc x
  | .bad => .bad

/-- Read n bytes in a context. -/
def State.svcGet (s : State) (u : UnitId) (ctx p va n : Nat) : Svc (List Byte) :=
  let r := s.xlRun u ctx p va n .read
  match r.bad with
  | some (a, x) => .miss u ctx a .read x
  | none => let d := r.st.readSegs p r.segs; if d.poison then .bad else .ok d.st d.data

/-- Read a number of n bytes. -/
def State.svcNat (s : State) (ctx p va n : Nat) : Svc Nat := (s.svcGet svcUnit ctx p va n).andThen (fun s bs => .ok s (ofLE bs))

/-- Write bytes in a context. -/
def State.svcPut (s : State) (u : UnitId) (ctx p va : Nat) (bs : List Byte) : Svc Unit :=
  let r := s.xlRun u ctx p va bs.length .write
  match r.bad with
  | some (a, x) => .miss u ctx a .write x
  | none => .ok (r.st.writeSegs p noCore r.segs bs) ()

/-- Write a number of n bytes. -/
def State.svcSet (s : State) (ctx p va n v : Nat) : Svc Unit := s.svcPut svcUnit ctx p va (toLE n v)

/-- Copy n bytes from one context to another, line by line; poison goes with its line. -/
def State.svcCopyF (s : State) (u : UnitId) (p c1 src c2 dst n fuel : Nat) : Svc Unit :=
  match fuel with
  | 0 => .ok s ()
  | k + 1 =>
    if n = 0 then .ok s ()
    else
      let m := min n 128
      let r := s.xlRun u c1 p src m .read
      match r.bad with
      | some (a, x) => .miss u c1 a .read x
      | none =>
        let d := r.st.readSegs p r.segs
        let w := d.st.xlRun u c2 p dst m .write
        match w.bad with
        | some (a, x) => .miss u c2 a .write x
        | none =>
          let s := w.st.writeSegs p noCore w.segs d.data
          let s := if d.poison then s.poisonSegs p noCore w.segs else s
          s.svcCopyF u p c1 (src + m) c2 (dst + m) (n - m) k

/-- Copy n bytes. -/
def State.svcCopy (s : State) (u : UnitId) (p c1 src c2 dst n : Nat) : Svc Unit := s.svcCopyF u p c1 src c2 dst n (n / 128 + 2)

/-- Work over a list in order. -/
def svcEach {α : Type} (l : List α) (s : State) (f : State → α → Svc Unit) : Svc Unit :=
  match l with
  | [] => .ok s ()
  | a :: r => (f s a).andThen (fun s _ => svcEach r s f)

/-- Open or join the record of a failed access of the service, for whoever waits on it. -/
def State.svcMiss (s : State) (p : Nat) (u : UnitId) (ctx va : Nat) (acc : Access) (x : Xl) (w : Waiter) : State × Word32 :=
  s.openFault u ctx p va acc x (some w)

/-! ### Parts -/

/-- A partition's weight at the coupling service (R543). -/
def State.svcWt (s : State) (p : Nat) : Nat := mget 0 s.parts.svcWeight p

/-- Pantry i of a partition, if it is configured. -/
def State.pantry (s : State) (p i : Nat) : Option Pantry := mget none s.service.pantries (8 * p + i)
/-- Set a pantry. -/
def State.setPantry (s : State) (p i : Nat) (x : Option Pantry) : State :=
  { s with service := { s.service with pantries := mset none s.service.pantries (8 * p + i) x } }
/-- Change a pantry. -/
def State.updPantry (s : State) (p i : Nat) (f : Pantry → Pantry) : State := s.setPantry p i ((s.pantry p i).map f)

/-- Query service q of a partition, if it is enabled. -/
def State.query (s : State) (p q : Nat) : Option Query := mget none s.service.queries (2 * p + q)
/-- Set a query service. -/
def State.setQuery (s : State) (p q : Nat) (x : Option Query) : State :=
  { s with service := { s.service with queries := mset none s.service.queries (2 * p + q) x } }

/-- Cadence i of a partition. -/
def State.cadence (s : State) (p i : Nat) : Option Cadence := mget none s.service.cadences (4 * p + i)
/-- Set a cadence. -/
def State.setCadence (s : State) (p i : Nat) (x : Option Cadence) : State :=
  { s with service := { s.service with cadences := mset none s.service.cadences (4 * p + i) x } }
/-- Change a cadence. -/
def State.updCadence (s : State) (p i : Nat) (f : Cadence → Cadence) : State := s.setCadence p i ((s.cadence p i).map f)

/-- A bit of a partition's CFG_ASSIST. -/
def State.assist (s : State) (p b : Nat) : Bool := s.getB ⟨cfgBase + 0x100 + 8 * p, b, 1⟩

/-- Field of a record of 64 bytes. -/
def Pantry.f (x : Pantry) (a n : Nat) : Nat := recB x.rcd.toNat a n
def Pantry.policy (x : Pantry) : Nat := x.f 0 4
def Pantry.sbytes (x : Pantry) : Nat := x.f 4 4
def Pantry.cap (x : Pantry) : Nat := x.f 8 4
def Pantry.stg (x : Pantry) : Nat := x.f 0xC 2
def Pantry.slot (x : Pantry) (j : Nat) : Nat := x.f 0x10 8 + j * x.sbytes
/-- Header of the staging slot of ticket t; its sample follows 128 B on. -/
def Pantry.stage (x : Pantry) (t : Nat) : Nat := x.f 0x18 8 + t % x.stg * (x.sbytes + 128)
def Pantry.ctrl (x : Pantry) : Nat := x.f 0x20 8
def Pantry.meta_ (x : Pantry) (j : Nat) : Nat := x.f 0x28 8 + 16 * j
def Pantry.seed (x : Pantry) : Nat := x.f 0x30 8
def Pantry.skipTo (x : Pantry) : Nat := x.f 0x38 4

/-- An address of 48 bits that is a multiple of n. -/
def vaOk (a n : Nat) : Bool := decide (a < 2 ^ 48) && a % n == 0

/-- A power of two from 16 to 4,096. -/
def stagingOk (x : Nat) : Bool := (upTo 9).any (fun i => 2 ^ (i + 4) == x)

/-- A pantry record breaks R549. -/
def pantryBad (r : Nat) : Bool :=
  let b := recB r 4 4
  decide (recB r 0 4 ≥ 3) || decide (b = 0) || decide (b > 1048576) || decide (b % 128 ≠ 0)
    || decide (recB r 8 4 = 0) || decide (recB r 8 4 > 16777216) || !stagingOk (recB r 0xC 2) || decide (recB r 0xE 2 ≠ 0)
    || !vaOk (recB r 0x10 8) 1 || !vaOk (recB r 0x18 8) 1 || !vaOk (recB r 0x20 8) 64 || !vaOk (recB r 0x28 8) 1 || decide (recB r 0x3C 4 ≠ 0)

/-- CONFIG and RESET write: the control record's words, every staging header and every meta entry zero (R549). -/
def State.pantryClear (s : State) (p ctx : Nat) (x : Pantry) : Svc Unit :=
  (s.svcSet ctx p x.ctrl 8 0).andThen (fun s _ =>
    (s.svcPut svcUnit ctx p (x.ctrl + 0x20) (toLE 32 0)).andThen (fun s _ =>
      (svcEach (upTo x.stg) s (fun s i => s.svcPut svcUnit ctx p (x.stage i) (toLE 128 0))).andThen (fun s _ =>
        svcEach (upTo x.cap) s (fun s j => s.svcPut svcUnit ctx p (x.meta_ j) (toLE 16 0)))))

/-! ### Selection (R553) -/

/-- The generator of R553. -/
def draw (seed pantry kind x : Nat) : Nat := mix64 (mix64 (seed ^^^ (pantry <<< 56) ^^^ (kind <<< 48)) ^^^ x)

/-- The order of scores: NaN below −∞. -/
def scoreLt (a b : Nat) : Bool :=
  if (f32 a).isNan then !(f32 b).isNan else if (f32 b).isNan then false else Val.lt (f32 a) (f32 b)

/-- The scores of slots, read one by one. -/
def State.scores (s : State) (p : Nat) (x : Pantry) (l : List Nat) : Svc (List (Nat × Nat)) :=
  match l with
  | [] => .ok s []
  | j :: r => (s.svcNat x.ctx p (x.meta_ j + 8) 4).andThen (fun s v => (s.scores p x r).andThen (fun s t => .ok s ((j, v) :: t)))

/-- The first of the lowest scores. -/
def lowestOf (l : List (Nat × Nat)) : Option (Nat × Nat) :=
  l.foldl (fun m e => match m with | none => some e | some b => if scoreLt e.2 b.2 then some e else some b) none

/-- Put an entry behind those whose score is not lower: descending scores, ties to the lowest slot. -/
def insertScore (e : Nat × Nat) (l : List (Nat × Nat)) : List (Nat × Nat) :=
  match l with
  | [] => [e]
  | b :: r => if scoreLt b.2 e.2 then e :: b :: r else b :: insertScore e r

/-- The slot that takes sample n with a score, none where it is declined (R553). -/
def State.placeOf (s : State) (p i : Nat) (x : Pantry) (n score : Nat) : Svc (Option Nat) :=
  if x.policy = 0 then .ok s (some ((n - 1) % x.cap))
  else if n ≤ x.cap then .ok s (some (n - 1))
  else if x.policy = 1 then
    let j := draw x.seed i 0 n % n
    .ok s (if j < x.cap then some j else none)
  else (s.scores p x (upTo x.cap)).andThen (fun s l =>
    .ok s (match lowestOf l with
      | some (j, v) => if scoreLt score v then none else some j
      | none => none))

/-- The slots of a micro-batch of B samples, feed number f, in order (R553). -/
def State.batchOf (s : State) (p i : Nat) (x : Pantry) (b f : Nat) : Svc (List Nat) :=
  let m := x.filled.length
  let at_ (k : Nat) : Nat := nth 0 x.filled (k % m)
  if x.policy = 0 then .ok s ((upTo b).map (fun k => at_ (x.cursor + k)))
  else if x.policy = 1 then .ok s ((upTo b).map (fun k => at_ (draw x.seed i 1 (f * 65536 + k) % m)))
  else (s.scores p x x.filled).andThen (fun s l => .ok s (((l.foldl (fun a e => insertScore e a) []).take b).map (·.1)))

/-- List a slot as filled, slots ascending. -/
def insertSlot (j : Nat) (l : List Nat) : List Nat :=
  match l with
  | [] => [j]
  | k :: r => if j < k then j :: k :: r else if j = k then k :: r else k :: insertSlot j r

/-! ### Taking a ticket (R551) -/

/-- The ticket to take next and the first 16 bytes of its header as a number; none where it is not committed. -/
def State.nextTicket (s : State) (p : Nat) (x : Pantry) : Svc (Nat × Option Nat) :=
  (s.svcNat x.ctx p (x.ctrl + 0x20) 8).andThen (fun s t =>
    (s.svcNat x.ctx p (x.stage t) 16).andThen (fun s h => .ok s (t, if recB h 0 8 = (t + 1) % 2 ^ 64 then some h else none)))

/-- Add one to an eight-byte word of the control record. -/
def State.svcInc (s : State) (ctx p va n : Nat) : Svc Unit :=
  (s.svcNat ctx p va 8).andThen (fun s v => s.svcSet ctx p va 8 ((v + n) % 2 ^ 64))

/-- Take ticket t into a slot, or decline it; the pantry after it. -/
def State.takeInto (s : State) (p : Nat) (x : Pantry) (t h : Nat) (slot : Option Nat) : Svc Pantry :=
  let n := x.taken + 1
  (match slot with
   | some j =>
     (s.svcCopy svcUnit p x.ctx (x.stage t + 128) x.ctx (x.slot j) x.sbytes).andThen (fun s _ =>
       s.svcPut svcUnit x.ctx p (x.meta_ j) (toLE 8 n ++ toLE 4 (recB h 8 4) ++ toLE 2 (recB h 0xC 2) ++ toLE 2 0))
   | none => s.svcInc x.ctx p (x.ctrl + 0x38) 1).andThen (fun s _ =>
    (s.svcInc x.ctx p (x.ctrl + 0x28) 1).andThen (fun s _ =>
      (s.svcPut svcUnit x.ctx p (x.stage t) (toLE 128 0)).andThen (fun s _ =>
        (s.svcSet x.ctx p (x.ctrl + 0x20) 8 ((t + 1) % 2 ^ 64)).andThen (fun s _ =>
          .ok s { x with
            taken := n, request := none, answer := none
            filled := match slot with | some j => insertSlot j x.filled | none => x.filled }))))

/-- The 32 payload bytes of a PANTRY request (R566). -/
def pantryEvent (i kind count n f : Nat) : List Byte :=
  toLE 1 i ++ toLE 1 kind ++ toLE 2 0 ++ toLE 4 count ++ toLE 8 n ++ toLE 8 f

/-- Post a PANTRY request; the pantry waits for its SELECT (R554). -/
def State.askPantry (s : State) (p i : Nat) (x : Pantry) (kind count n : Nat) : State :=
  let r := s.postRequest p 10 (pantryEvent i kind count n x.filled.length)
  r.1.setPantry p i (some { x with request := some (r.2, kind, count), answer := none })

/-- Keep a pantry's failed access: its record holds the pantry. -/
def holdPantry (p i : Nat) (x : Pantry) (m : State × Word32) : State :=
  m.1.setPantry p i (some { x with held := some m.2 })

/-- Take a ticket of pantry i, if one stands committed and nothing of the pantry comes first. -/
def State.takeTicket (s : State) (p i : Nat) : State :=
  match s.pantry p i with
  | none => s
  | some x =>
    let mine (r : Svc (State × Unit)) : State :=
      match r with
      | .ok _ (s, _) => s
      | .miss u c va acc e => holdPantry p i x (s.svcMiss p u c va acc e (.service p (32 + i)))
      | .bad => s
    let done (r : Svc Pantry) : Svc (State × Unit) := r.andThen (fun s x => .ok s (s.setPantry p i (some x), ()))
    if x.held.isSome then s
    else mine ((s.nextTicket p x).andThen (fun s r =>
      match r.2 with
      | none => .ok s (s, ())
      | some h =>
        match x.request, x.answer with
        | some (_, 1, _), some l => done (s.takeInto p x r.1 h (match l with | j :: _ => if j = 2 ^ 32 - 1 then none else some j | [] => none))
        | some _, _ => .ok s (s, ())
        | none, _ =>
          if s.assist p 5 then .ok s (s.askPantry p i x 1 1 (x.taken + 1), ())
          else done ((s.placeOf p i x (x.taken + 1) (recB h 8 4)).andThen (fun s slot => s.takeInto p x r.1 h slot))))

/-! ### Feeds and the other work of a pantry (R555, R556) -/

/-- A piece of work has ended: its command completes, or its phase has done it; a failure is the phase's. -/
def State.svcEnded (s : State) (o : SvcOwner) (status : Nat) : State :=
  match o with
  | .cmd src c => s.complete src c true status 0
  | .phase p i => if status = 0 then s else s.updCadence p i (fun c => { c with failed := some (c.failed.getD 0) })

/-- Gather a micro-batch with a bulk engine: index and samples (R556). -/
def State.gather (s : State) (u : UnitId) (p : Nat) (x : Pantry) (ctx a : Nat) (l : List Nat) : Svc Unit :=
  let data := a + cdiv (16 * l.length) 128 * 128
  svcEach l.zipIdx s (fun s e =>
    (s.svcGet u x.ctx p (x.meta_ e.1) 8).andThen (fun s n =>
      (s.svcPut u ctx p (a + 16 * e.2) (toLE 4 e.1 ++ toLE 4 0 ++ n)).andThen (fun s _ =>
        s.svcCopy u p x.ctx (x.slot e.1) ctx (data + e.2 * x.sbytes) x.sbytes)))

/-- The pantry after a feed of b samples. -/
def Pantry.fed (x : Pantry) (b : Nat) : Pantry :=
  { x with
    feeds := x.feeds + 1, work := x.work.drop 1, request := none, answer := none
    cursor := if x.policy = 0 then (x.cursor + b) % x.filled.length else x.cursor }

/-- One piece of a pantry's work, the oldest first; none when it must wait. Feeds count from 1. -/
def State.pantryStep (s : State) (p i : Nat) (x : Pantry) (w : SvcWork) : Option State :=
  let fin (s : State) (x : Option Pantry) (st : Nat) : Option State := some ((s.setPantry p i x).svcEnded w.owner st)
  let rest := { x with work := x.work.drop 1 }
  let hold (m : State × Word32) : Option State := some (holdPantry p i x m)
  match w.kind with
  | .reset =>
    match s.pantryClear p x.ctx x with
    | .ok s _ => fin s (some { rest with taken := 0, feeds := 0, cursor := 0, filled := [] }) cmOk
    | .miss u c va acc e => hold (s.svcMiss p u c va acc e (.service p i))
    | .bad => fin s (some rest) cmDmaError
  | .unconfig => if x.intakes.isEmpty then fin s none cmOk else none
  | .feed =>
    if w.n > x.filled.length ∨ x.filled = [] then fin s (some rest) cmBadField
    else
      match s.freeBulk 0xFF with
      | none => none
      | some e =>
        let u := bulkUnit e
        let run (r : Svc (List Nat)) : Option State :=
          match r.andThen (fun s l => s.gather u p x w.ctx w.area l) with
          | .ok s _ => fin s (some (x.fed w.n)) cmOk
          | .miss u c va acc e => hold (s.svcMiss p u c va acc e (.service p i))
          | .bad => fin s (some { rest with request := none, answer := none }) cmDmaError
        match x.request, x.answer with
        | some (_, 2, _), some l => run (.ok s l)
        | some _, _ => none
        | none, _ => if s.assist p 5 then some (s.askPantry p i x 2 w.n (x.feeds + 1)) else run (s.batchOf p i x w.n (x.feeds + 1))

/-- Let a pantry work: the placement that a SELECT has answered, then its work in order. -/
def State.pantryGo (s : State) (p i fuel : Nat) : State :=
  match fuel with
  | 0 => s
  | k + 1 =>
    match s.pantry p i with
    | none => s
    | some x =>
      if x.held.isSome then s
      else
        match x.request, x.answer with
        | some (_, 1, _), some _ =>
          let t := s.takeTicket p i
          if (t.pantry p i).any (fun y => y.request == x.request) then t else t.pantryGo p i k
        | some (_, 1, _), none => s
        | _, _ =>
          match x.work with
          | [] => s
          | w :: _ =>
            match s.pantryStep p i x w with
            | some t => t.pantryGo p i k
            | none => s

/-! ### INTAKE by command (R550) -/

/-- The state with the intake in front of a pantry replaced, or taken off. -/
def State.setIntake (s : State) (p i : Nat) (r : Option IntakeRun) : State :=
  s.updPantry p i (fun x => { x with intakes := (match r with | some r => [r] | none => []) ++ x.intakes.drop 1 })

/-- Claim one ticket from the control record's work counter at its home; a host page has no home for it (log entry 25). -/
def State.svcClaim (s : State) (u : UnitId) (ctx p va : Nat) : Svc Nat :=
  let r := s.xlRun u ctx p va 8 .atomic
  match r.bad, r.segs with
  | some (a, x), _ => .miss u ctx a .atomic x
  | none, g :: _ =>
    if g.host then .miss u ctx va .atomic (.fail clsHostError 0 0 true)
    else let t := r.st.wcClaim p g.pa 1 none; if t.poison then .bad else .ok t.st t.ticket
  | none, [] => .bad

/-- One step of an intake: a claim, or the sample's delivery; none when it waits. The initial score is a free value. -/
def State.intakeStep (s : State) (p i : Nat) (x : Pantry) (r : IntakeRun) : Option State :=
  let w : Waiter := .service p (24 + i)
  let fin (s : State) (st : Nat) : Option State := some ((s.setIntake p i none).complete r.src r.cmd true st 0)
  let out (q : Svc (Option IntakeRun)) : Option State :=
    match q with
    | .ok s (some r) => some (s.setIntake p i (some r))
    | .ok _ none => none
    | .miss u c va acc e => let m := s.svcMiss p u c va acc e w; some (m.1.setIntake p i (some { r with held := some m.2 }))
    | .bad => fin s cmDmaError
  if r.held.isSome then none
  else if r.left = 0 then fin s cmOk
  else
    match s.freeBulk 0xFF with
    | none => none
    | some e =>
      let u := bulkUnit e
      match r.ticket with
      | none => out ((s.svcClaim u x.ctx p x.ctrl).andThen (fun s t => .ok s (some { r with ticket := some t })))
      | some t =>
        out ((s.svcGet u x.ctx p (x.ctrl + 0x20) 8).andThen (fun s f =>
          let freed := ofLE f
          if t < freed then .ok s (some { r with ticket := none })
          else if t ≥ freed + x.stg then .ok s none
          else
            (s.svcCopy u p (cmdCtx r.cmd) r.va x.ctx (x.stage t + 128) x.sbytes).andThen (fun s _ =>
              (s.tickFree.svcPut u x.ctx p (x.stage t)
                (toLE 8 (t + 1) ++ toLE 4 (s.freshVal.toNat % 2 ^ 32) ++ toLE 2 s.modNum ++ toLE 2 0)).andThen (fun s _ =>
                .ok s (some { r with ticket := none, va := r.va + x.sbytes, left := r.left - 1 })))))

/-- Let the intakes of a pantry go on, the oldest first. -/
def State.intakeGo (s : State) (p i fuel : Nat) : State :=
  match fuel with
  | 0 => s
  | k + 1 =>
    match s.pantry p i with
    | none => s
    | some x =>
      match x.intakes with
      | [] => s
      | r :: _ =>
        match s.intakeStep p i x r with
        | some t => t.intakeGo p i k
        | none => s

/-! ### Weight publication (R557, R558) -/

/-- Fields of a publish record. -/
def pbNbuf (r : Nat) : Nat := recB r 0 1
def pbBytes (r : Nat) : Nat := recB r 8 8
def pbStride (r : Nat) : Nat := 4096 + cdiv (pbBytes r) 4096 * 4096
/-- Address of the header of buffer b: local, remote. -/
def pbBuf (r b : Nat) : Nat := recB r 0x18 8 + b * pbStride r
def pbRemote (r b : Nat) : Nat := recB r 0x30 8 + b * pbStride r

/-- A publish record breaks R557. -/
def publishBad (r : Nat) : Bool :=
  decide (pbNbuf r < 2) || decide (pbNbuf r > 8) || decide (recB r 1 7 ≠ 0) || decide (pbBytes r = 0) || decide (pbBytes r > 2 ^ 36)
    || !vaOk (recB r 0x10 8) 1 || !vaOk (recB r 0x18 8) 4096 || !vaOk (recB r 0x20 8) 1 || decide (recB r 0x2C 1 ≥ 64)
    || decide (recB r 0x2D 3 ≠ 0) || !vaOk (recB r 0x30 8) 1 || !vaOk (recB r 0x38 8) 1

/-- The headers of a record's buffers: version, state, pins of each. -/
def State.pubHeads (s : State) (ctx p r : Nat) (l : List Nat) : Svc (List (Nat × Nat × Nat × Nat)) :=
  match l with
  | [] => .ok s []
  | b :: t => (s.svcNat ctx p (pbBuf r b) 16).andThen (fun s h =>
      (s.pubHeads ctx p r t).andThen (fun s u => .ok s ((b, (if recB h 8 4 = 0 then 0 else recB h 0 8), recB h 8 4, recB h 0xC 4) :: u)))

/-- The first entry of greatest, of least version. -/
def newest (l : List (Nat × Nat × Nat × Nat)) : Option (Nat × Nat × Nat × Nat) :=
  l.foldl (fun m e => match m with | none => some e | some b => if e.2.1 > b.2.1 then some e else some b) none
def oldest (l : List (Nat × Nat × Nat × Nat)) : Option (Nat × Nat × Nat × Nat) :=
  l.foldl (fun m e => match m with | none => some e | some b => if e.2.1 < b.2.1 then some e else some b) none

/-- The buffer a publish takes: unpinned, of lowest version, not the current one (R558). -/
def pubChoice (l : List (Nat × Nat × Nat × Nat)) : Option Nat :=
  let cur := match newest l with | some e => if e.2.1 = 0 then none else some e.1 | none => none
  (oldest (l.filter (fun e => e.2.2.2 == 0 && some e.1 != cur))).map (·.1)

/-- The local part of a publish; none when no buffer is free. -/
def State.pubLocal (s : State) (x : PubRun) : Svc (Option (Nat × Nat)) :=
  let r := x.rcd.toNat
  let key := x.ctx * 2 ^ 48 + x.va
  (s.pubHeads x.ctx x.part r (upTo (pbNbuf r))).andThen (fun s l =>
    match pubChoice l with
    | none => .ok s none
    | some b =>
      let ver := mget 0 s.service.versions key + 1
      let h := pbBuf r b
      (s.svcSet x.ctx x.part (h + 8) 4 1).andThen (fun s _ =>
        (s.svcCopy svcUnit x.part x.ctx (recB r 0x10 8) x.ctx (h + 4096) (pbBytes r)).andThen (fun s _ =>
          (s.svcSet x.ctx x.part (h + 0x10) 8 s.mtime.toNat).andThen (fun s _ =>
            (s.svcPut svcUnit x.ctx x.part h (toLE 8 ver ++ toLE 4 2 ++ toLE 4 0)).andThen (fun s _ =>
              .ok { s with service := { s.service with versions := mset 0 s.service.versions key ver } } (some (b, ver)))))))

/-- Replace or remove a publish. -/
def State.putPub (s : State) (x : PubRun) : State :=
  { s with service := { s.service with pubs := mapWhere s.service.pubs (fun y => y.id == x.id) (fun _ => x) } }
def State.dropPub (s : State) (id : Nat) : State :=
  { s with service := { s.service with pubs := s.service.pubs.filter (fun y => y.id != id) } }

/-- A publish ends; the cadence whose phase it was shows its version and the members not reached (R567). -/
def State.pubEnd (s : State) (x : PubRun) (status : Nat) : State :=
  let s := (s.dropPub x.id).svcEnded x.owner status
  match x.owner with
  | .phase p i =>
    if status = 0 then s.updCadence p i (fun c => { c with lastVersion := x.ver, undelivered := x.bad.length }) else s
  | .cmd _ _ => s

/-- Give an engine the multicast of a stage: the header WRITING, the data, the header READY. -/
def State.pubCast (s : State) (x : PubRun) (e : Nat) (members : List Nat) : State :=
  let r := x.rcd.toNat
  let h := pbBuf r x.buf
  let head (state : Nat) : List Byte := toLE 8 x.ver ++ toLE 4 state ++ toLE 4 0 ++ toLE 8 s.mtime.toNat ++ toLE 40 0
  let lit := if x.stage = 1 then head 1 else if x.stage = 3 then head 2 else []
  let dst := pbRemote r x.buf + (if x.stage = 2 then 4096 else 0)
  let run : McastRun := ⟨recB r 0x28 2, dst, recB r 0x2C 1, members, x.bad, h + 4096, lit, if x.stage = 2 then pbBytes r else 64, recB r 0x38 8⟩
  let b : BulkState := ⟨.publish x.part x.id, x.part, x.ctx, [], 0, false, 0, [], [], [], none, false, 0, none, some run, false⟩
  ((s.putPub { x with engine := some e }).setBulk e (some b)).bulkGo e

/-- One step of a publish; none when it waits. -/
def State.pubStep (s : State) (x : PubRun) : Option State :=
  let r := x.rcd.toNat
  let hold (m : State × Word32) : Option State := some (m.1.putPub { x with held := some m.2 })
  let w : Waiter := .service x.part (64 + x.id)
  if x.held.isSome then none
  else if x.stage = 0 then
    match s.pubLocal x with
    | .ok s (some (b, v)) =>
      let x := { x with buf := b, ver := v, stage := 1 }
      some (if recB r 0x20 8 = 0 then s.pubEnd x cmOk else s.putPub x)
    | .ok _ none => none
    | .miss u c va acc e => hold (s.svcMiss x.part u c va acc e w)
    | .bad => some (s.pubEnd x cmDmaError)
  else
    match x.engine with
    | some e =>
      match s.bulkOf e with
      | some b =>
        if b.finished then
          let x := { x with bad := (match b.mcast with | some m => m.bad | none => x.bad), engine := none, stage := x.stage + 1 }
          let s := s.setBulk e none
          some (if x.stage > 3 then s.pubEnd x cmOk else s.putPub x)
        else none
      | none => some (s.putPub { x with engine := none })
    | none =>
      match s.freeBulk 0xFF with
      | none => none
      | some e =>
        match s.svcGet svcUnit x.ctx x.part (recB r 0x20 8) (2 * recB r 0x2A 2) with
        | .ok s bs => some (s.pubCast x e ((pieces 2 bs 65536).map (fun b => ofLE b % 16384)))
        | .miss u c va acc e => hold (s.svcMiss x.part u c va acc e w)
        | .bad => some (s.pubEnd x cmDmaError)

/-- Let the publishes go on, in order of their start. -/
def State.pubGo (s : State) (fuel : Nat) : State :=
  match fuel with
  | 0 => s
  | k + 1 =>
    let go (x : PubRun) : Option State :=
      if s.service.pubs.any (fun y => decide (y.id < x.id) && y.ctx == x.ctx && y.va == x.va) then none else s.pubStep x
    match s.service.pubs.findSome? go with
    | some t => t.pubGo k
    | none => s

/-- Start a publish for an owner. -/
def State.startPub (s : State) (o : SvcOwner) (p ctx va : Nat) (r : BitVec 512) : State :=
  let x : PubRun := ⟨s.service.nextPub, o, p, ctx, r, va, 0, 0, 0, [], none, none⟩
  { s with service := { s.service with pubs := s.service.pubs ++ [x], nextPub := s.service.nextPub + 1 } }

/-! ### The query service (R560, R561) -/

def Query.f (x : Query) (a n : Nat) : Nat := recB x.rcd.toNat a n
def Query.qbytes (x : Query) : Nat := x.f 4 4
def Query.rbytes (x : Query) : Nat := x.f 8 4
def Query.stg (x : Query) : Nat := x.f 0xC 2
def Query.maxBatch (x : Query) : Nat := x.f 0xE 2
def Query.slot (x : Query) (t : Nat) : Nat := x.f 0x18 8 + t % x.stg * (x.qbytes + 128)
def Query.ctrl (x : Query) : Nat := x.f 0x20 8
def Query.area (x : Query) : Nat := x.f 0x28 8

/-- A query record breaks R560. -/
def queryBad (r : Nat) : Bool :=
  let q := recB r 4 4
  let a := recB r 8 4
  decide (recB r 0 4 ≥ 2) || decide (q = 0) || decide (q > 65536) || decide (q % 128 ≠ 0) || decide (a = 0) || decide (a > 65536) || decide (a % 16 ≠ 0)
    || !stagingOk (recB r 0xC 2) || decide (recB r 0xE 2 = 0) || decide (recB r 0xE 2 > 4096) || decide (recB r 0x10 4 = 0)
    || decide (recB r 0x10 4 > 1000000) || decide (recB r 0x14 4 ≥ 2 ^ 17) || !vaOk (recB r 0x18 8) 1 || !vaOk (recB r 0x20 8) 64
    || !vaOk (recB r 0x28 8) 1 || !vaOk (recB r 0x30 8) 1 || !vaOk (recB r 0x38 8) 1

/-- The core that a query record's sig names. -/
def sigTarget (v : Nat) : CoreName := ⟨bit v 5, bits v 6 11⟩

/-- Close a batch: pin the version and write the batch header (R561); the pinned buffer, none where no version is READY. -/
def State.closeBatch (s : State) (p : Nat) (x : Query) : Svc (Option (Nat × Nat)) :=
  (s.svcNat x.ctx p (x.f 0x38 8) 64).andThen (fun s r =>
    (s.pubHeads x.ctx p r (upTo (min (pbNbuf r) 8))).andThen (fun s l =>
      match newest (l.filter (fun e => e.2.2.1 == 2)) with
      | none => .ok s none
      | some (b, ver, _, pins) =>
        let h := pbBuf r b
        (s.svcSet x.ctx p (h + 0xC) 4 ((pins + 1) % 2 ^ 32)).andThen (fun s _ =>
          (s.svcPut svcUnit x.ctx p x.area
            (toLE 8 x.batchNo ++ toLE 4 x.batch.length ++ toLE 4 0 ++ toLE 8 (h + 4096) ++ toLE 8 ver ++ toLE 8 0)).andThen (fun s _ =>
            .ok s (some (h, ver))))))

/-- The header of query k of the batch as a number. -/
def Query.head (x : Query) (k : Nat) : Nat := ofLE (nth (0, []) x.batch k).2

/-- A query's answered part: how many bytes go to its reply address with a status. -/
def Query.replyLen (x : Query) (status : Nat) : Nat := if status = 0 then x.rbytes else 0

/-- The trailer of an answer: version, status, low 48 bits of the client tag. -/
def Query.trailer (x : Query) (k status : Nat) : List Byte :=
  toLE 8 (match x.pinned with | some v => v.2 | none => 0) ++ toLE 2 status ++ toLE 6 (recB (x.head k) 0x20 8 % 2 ^ 48)

/-- The batch has been answered: the version is unpinned, the next batch may form, a stopping service is gone. -/
def State.batchDone (s : State) (p q : Nat) (x : Query) : Svc State :=
  let next (s : State) : State :=
    if x.stopping then s.setQuery p q none
    else s.setQuery p q (some { x with
      batch := [], batchNo := x.batchNo + 1, outstanding := false, pinned := none, answering := none, waiting := false })
  match x.pinned with
  | none => .ok s (next s)
  | some (h, _) => (s.svcNat x.ctx p (h + 0xC) 4).andThen (fun s n => (s.svcSet x.ctx p (h + 0xC) 4 (n - 1)).andThen (fun s _ => .ok s (next s)))

/-- One step of answering (R561): a local reply whole, a remote one fragment by fragment; none while one is outstanding. -/
def State.answerStep (s : State) (p q : Nat) (x : Query) (status k off : Nat) : Option State :=
  let w : Waiter := .service p (8 + q)
  let hold (m : State × Word32) : Option State := some (m.1.setQuery p q (some { x with waiting := true }))
  let go (s : State) (x : Query) : Option State := some (s.setQuery p q (some x))
  if x.waiting then none
  else if k ≥ x.batch.length then
    match s.batchDone p q x with
    | .ok _ s => some s
    | .miss u c va acc e => hold (s.svcMiss p u c va acc e w)
    | .bad => some (s.setQuery p q (if x.stopping then none else some { x with
        batch := [], batchNo := x.batchNo + 1, outstanding := false, pinned := none, answering := none }))
  else
    let h := x.head k
    let reply := recB h 0x10 8
    let rc := recB h 0x1A 1 % 64
    let n := x.replyLen status
    let from_ := x.f 0x30 8 + k * x.rbytes
    if bit (recB h 0x18 2) 14 then
      match ((if n = 0 then Svc.ok s () else s.svcCopy svcUnit p x.ctx from_ rc reply n).andThen (fun s _ =>
          s.svcPut svcUnit rc p (reply + x.rbytes) (x.trailer k status))) with
      | .ok s _ => go s { x with answering := some (status, k + 1, 0) }
      | .miss u c va acc e => hold (s.svcMiss p u c va acc e w)
      | .bad => go s { x with answering := some (status, k + 1, 0), replyFail := x.replyFail + 1 }
    else if !s.reqRoom then none
    else
      let rmod := recB h 0x18 2 % 16384
      let tail := decide (off ≥ n)
      let a := (if tail then reply + x.rbytes + (off - n) else reply + off) % 2 ^ 48
      let m := min (if tail then 16 - (off - n) else n - off) (256 - a % 256)
      let src : Svc (List Byte × Bool) :=
        if tail then .ok s (((x.trailer k status).drop (off - n)).take m, false)
        else
          let r := s.xlRun svcUnit x.ctx p (from_ + off) m .read
          match r.bad with
          | some (va, e) => .miss svcUnit x.ctx va .read e
          | none => let d := r.st.readSegs p r.segs; .ok d.st (d.data, d.poison)
      match src with
      | .ok s d =>
        let r := s.request p tPut rmod rc m a off d.1 d.2 [BitVec.ofNat 14 rmod] (.reply p q)
        go r.1 { x with answering := some (status, k, off + m), waiting := true }
      | .miss u c va acc e => hold (s.svcMiss p u c va acc e w)
      | .bad => none

/-- Let a query service answer its batch until it waits. -/
def State.answerGo (s : State) (p q fuel : Nat) : State :=
  match fuel with
  | 0 => s
  | k + 1 =>
    match s.query p q with
    | none => s
    | some x =>
      match x.answering with
      | none => s
      | some (st, i, off) =>
        match s.answerStep p q x st i off with
        | some t => t.answerGo p q k
        | none => s

/-- Answer a batch with a status from its first query on. -/
def State.answerFrom (s : State) (p q : Nat) (x : Query) (status : Nat) : State :=
  (s.setQuery p q (some { x with answering := some (status, 0, 0), waiting := false })).answerGo p q bulkFuel

/-- A batch closes (R561): it is staged and signalled; without a READY version it is answered NO_WEIGHTS. -/
def State.closeQuery (s : State) (p q : Nat) (x : Query) : State :=
  match s.closeBatch p x with
  | .ok s none => s.answerFrom p q { x with outstanding := true, pinned := none, waiting := false } 1
  | .ok s (some b) =>
    let sig := x.f 0x14 4
    let s := s.setQuery p q (some { x with outstanding := true, pinned := some b, waiting := false })
    let t := sigTarget sig
    if coreExists t then (s.takeSignal ⟨t, t, Fin.ofNat 32 sig, 1, Fin.ofNat 16 p, true⟩).1 else s
  | .miss u c va acc e =>
    (s.svcMiss p u c va acc e (.service p (8 + q))).1.setQuery p q (some { x with waiting := true })
  | .bad => s

/-- Take the next query of a queue into the batch being formed: its input goes to the batch area, its slot is freed (R551, R561); a
full batch closes. -/
def State.takeQuery (s : State) (p q : Nat) : State :=
  match s.query p q with
  | none => s
  | some x =>
    if x.outstanding || x.waiting || x.stopping || decide (x.batch.length ≥ x.maxBatch) then s
    else
      let k := x.batch.length
      let r := (s.svcNat x.ctx p (x.ctrl + 0x20) 8).andThen (fun s t =>
        (s.svcGet svcUnit x.ctx p (x.slot t) 128).andThen (fun s h =>
          if ofLE (h.take 8) = (t + 1) % 2 ^ 64 then
            (s.svcCopy svcUnit p x.ctx (x.slot t + 128) x.ctx (x.area + 128 + k * x.qbytes) x.qbytes).andThen (fun s _ =>
              (s.svcInc x.ctx p (x.ctrl + 0x28) 1).andThen (fun s _ =>
                (s.svcPut svcUnit x.ctx p (x.slot t) (toLE 128 0)).andThen (fun s _ =>
                  (s.svcSet x.ctx p (x.ctrl + 0x20) 8 ((t + 1) % 2 ^ 64)).andThen (fun s _ => .ok s (some (t, h))))))
          else .ok s none))
      match r with
      | .ok s (some e) =>
        let x := { x with batch := x.batch ++ [e] }
        if x.batch.length = x.maxBatch then s.closeQuery p q x else s.setQuery p q (some x)
      | .ok s none => s
      | .miss u c va acc e => (s.svcMiss p u c va acc e (.service p (8 + q))).1
      | .bad => s

/-- A remote reply's fragment has been answered; a failed one ends its query's answer as REPLY_FAIL (R561). -/
def State.replyDone (s : State) (p q : Nat) (good : Bool) : State :=
  match s.query p q with
  | none => s
  | some x =>
    match x.answering with
    | none => s
    | some (st, k, off) =>
      let ended := !good || decide (off ≥ x.replyLen st + 16)
      let x := { x with
        waiting := false, replyFail := if good then x.replyFail else x.replyFail + 1
        answering := some (if ended then (st, k + 1, 0) else (st, k, off)) }
      (s.setQuery p q (some x)).answerGo p q bulkFuel

/-! ### Keeping the service going -/

/-- Everything of a partition that can go on does. -/
def State.svcKick (s : State) (p : Nat) : State :=
  let s := s.pubGo bulkFuel
  let s := forEach (upTo 8) s (fun s i => ((s.pantryGo p i bulkFuel).intakeGo p i bulkFuel).pantryGo p i bulkFuel)
  s.pubGo bulkFuel

/-- Every partition's service goes on. -/
def State.svcKickAll (s : State) : State := forEach (upTo 16) s (fun s p => s.svcKick p)

/-- A record that a unit of the service's work waits on is settled: pantry work (0-7), queries (8-9), intakes (24-31), tickets
(32-39), publishes (64 and on). Work that is aborted ends with DMA_ERROR; a reply is REPLY_FAIL. -/
def State.svcSettle (s : State) (p k : Nat) (retry : Bool) : State :=
  if k < 8 then
    let s := s.updPantry p k (fun x => { x with held := none })
    if retry then s.svcKick p
    else
      match s.pantry p k with
      | some x =>
        match x.work with
        | w :: r => ((s.setPantry p k (some { x with work := r, request := none, answer := none })).svcEnded w.owner cmDmaError).svcKick p
        | [] => s
      | none => s
  else if k < 10 then
    let q := k - 8
    match s.query p q with
    | none => s
    | some x =>
      let x := { x with waiting := false }
      match x.answering with
      | some (st, i, _) =>
        if retry then (s.setQuery p q (some x)).answerGo p q bulkFuel
        else if i ≥ x.batch.length then (s.setQuery p q (some { x with pinned := none })).answerGo p q bulkFuel
        else (s.setQuery p q (some { x with answering := some (st, i + 1, 0), replyFail := x.replyFail + 1 })).answerGo p q bulkFuel
      | none => if retry && !x.outstanding && !x.batch.isEmpty then s.closeQuery p q x else s.setQuery p q (some x)
  else if 24 ≤ k ∧ k < 32 then
    let i := k - 24
    match s.pantry p i with
    | some x =>
      match x.intakes with
      | r :: _ =>
        if retry then (s.setIntake p i (some { r with held := none })).svcKick p
        else ((s.setIntake p i none).complete r.src r.cmd true cmDmaError 0).svcKick p
      | [] => s
    | none => s
  else if 32 ≤ k ∧ k < 40 then
    let i := k - 32
    let s := s.updPantry p i (fun x => { x with held := none })
    if retry then (s.takeTicket p i).svcKick p else s.svcKick p
  else
    match s.service.pubs.find? (fun x => x.id + 64 == k) with
    | some x => (if retry then s.putPub { x with held := none } else s.pubEnd x cmDmaError).svcKick p
    | none => s

end Sys2Proof.Machine
end

