-- ==== Sys2Proof/Machine/Pantry.lean ====
section
/-! DEFINITION. The PANTRY commands and the rows of the coupling service (R548-R565). -/

namespace Sys2Proof.Machine

/-- After a command, the service of its partition goes on. -/
def svcAfter (s : State) (src : CmdSrc) (r : Res) : Res :=
  match r with
  | .next t => .next (t.svcKick (s.srcPart src))
  | x => x

/-- A PANTRY command (R565): its op, its index below a limit, its other fields sound; a partition without weight is refused
(R543). -/
def State.pantryCmd (s : State) (src : CmdSrc) (c : Cmd) (k lim : Nat) (bad : Bool) (act : State → Nat → Nat → CmdDo) : Res :=
  let op := cmdB c 8 1
  svcAfter s src (s.runCmd src c (cmdOp c == 0x50 && (op == k || (k == 0 && decide (op > 7))))
    [(8, 2), (0xC, 4), (0x10, 8), (0x18, 8), (0x20, 4)] (fun s =>
      let p := s.srcPart src
      if op > 7 ∨ cmdB c 9 1 ≥ lim ∨ bad = true then .done s cmBadField 0
      else if s.svcWt p = 0 ∨ !s.ctxOk (cmdCtx c) p then .done s cmNotPermitted 0
      else act s p (cmdB c 9 1)))

/-- A failed access of a command itself: the command waits on the record. -/
def State.svcCmdMiss (s : State) (src : CmdSrc) (p : Nat) (u : UnitId) (ctx va : Nat) (acc : Access) (x : Xl) : CmdDo :=
  .hold (s.svcMiss p u ctx va acc x (.command (srcKey src))).1

/-- Address and count of a PANTRY command. -/
def panVa (c : Cmd) : Nat := cmdB c 0x10 8
def panN (c : Cmd) : Nat := cmdB c 0xC 4

/-- A pantry that does nothing now. -/
def Pantry.still (x : Pantry) : Bool := x.work.isEmpty && x.intakes.isEmpty && x.request.isNone && x.held.isNone

/-- PANTRY_CONFIG (R548, R549, R565); it waits while the pantry it replaces works. -/
def execPantryConfig (src : CmdSrc) (c : Cmd) (s : State) : Res :=
  s.pantryCmd src c 0 8 (!vaOk (panVa c) 64) (fun s p i =>
    if (s.pantry p i).any (fun x => !x.still) then .hold s
    else
      s.withRecord src c (panVa c) 64 (fun s bs =>
        let r := ofLE bs
        if pantryBad r then .done s cmBadField 0
        else
          let x : Pantry := ⟨BitVec.ofNat 512 r, panVa c, cmdCtx c, 0, 0, 0, [], none, none, [], none, []⟩
          match s.pantryClear p x.ctx x with
          | .ok s _ => .done (s.setPantry p i (some x)) cmOk 0
          | .miss u ctx va acc e => s.svcCmdMiss src p u ctx va acc e
          | .bad => .done s cmRecordFault 0))

/-- Give a configured pantry work for a command. -/
def State.giveWork (s : State) (src : CmdSrc) (c : Cmd) (p i : Nat) (k : SvcKind) (n a : Nat) : CmdDo :=
  match s.pantry p i with
  | none => .done s cmBadField 0
  | some x => .run (s.setPantry p i (some { x with work := x.work ++ [⟨.cmd src c, k, n, a, cmdCtx c⟩] }))

/-- PANTRY_RESET (R549, R555, R565). -/
def execPantryReset (src : CmdSrc) (c : Cmd) (s : State) : Res := s.pantryCmd src c 1 8 false (fun s p i => s.giveWork src c p i .reset 0 0)

/-- PANTRY_INTAKE (R550, R565). -/
def execPantryIntake (src : CmdSrc) (c : Cmd) (s : State) : Res :=
  s.pantryCmd src c 2 8 (!vaOk (panVa c) 1) (fun s p i =>
    match s.pantry p i with
    | none => .done s cmBadField 0
    | some x => .run (s.setPantry p i (some { x with intakes := x.intakes ++ [⟨src, c, panVa c, panN c, none, none⟩] })))

/-- A slot that a SELECT may name: for a placement any slot or the declining value, for a batch a filled one (R565). -/
def selectOk (x : Pantry) (kind j : Nat) : Bool :=
  if kind = 1 then decide (j < x.cap) || decide (j = 2 ^ 32 - 1) else x.filled.contains j

/-- PANTRY_SELECT (R554, R565). -/
def execPantrySelect (src : CmdSrc) (c : Cmd) (s : State) : Res :=
  s.pantryCmd src c 3 8 (!vaOk (panVa c) 1) (fun s p i =>
    match s.pantry p i with
    | none => .done s cmStale 0
    | some x =>
      match x.request, x.answer with
      | some (seq, kind, n), none =>
        if seq.toNat ≠ cmdB c 0x20 4 ∨ n ≠ panN c then .done s cmStale 0
        else
          s.withRecord src c (panVa c) (4 * n) (fun s bs =>
            let l := (pieces 4 bs 65536).map ofLE
            if l.all (selectOk x kind) then .done (s.setPantry p i (some { x with answer := some l })) cmOk 0
            else .done s cmStale 0)
      | _, _ => .done s cmStale 0)

/-- PANTRY_FEED (R556, R565). -/
def execPantryFeed (src : CmdSrc) (c : Cmd) (s : State) : Res :=
  s.pantryCmd src c 4 8 (decide (panN c = 0) || decide (panN c > 65535) || !vaOk (cmdB c 0x18 8) 1) (fun s p i =>
    s.giveWork src c p i .feed (panN c) (cmdB c 0x18 8))

/-- PANTRY_PUBLISH (R558, R565); its index names nothing. -/
def execPantryPublish (src : CmdSrc) (c : Cmd) (s : State) : Res :=
  s.pantryCmd src c 5 256 (!vaOk (panVa c) 1) (fun s p _ =>
    s.withRecord src c (panVa c) 64 (fun s bs =>
      if publishBad (ofLE bs) then .done s cmBadField 0
      else .run (s.startPub (.cmd src c) p (cmdCtx c) (panVa c) (BitVec.ofNat 512 (ofLE bs)))))

/-- PANTRY_QUERY (R560, R565): en 0 stops the service after its outstanding batch; a new record waits for that batch. -/
def execPantryQuery (src : CmdSrc) (c : Cmd) (s : State) : Res :=
  s.pantryCmd src c 6 2 (!vaOk (panVa c) 1) (fun s p q =>
    s.withRecord src c (panVa c) 64 (fun s bs =>
      let r := ofLE bs
      if queryBad r then .done s cmBadField 0
      else
        match s.query p q with
        | none =>
          if bit r 0 then
            .done (s.setQuery p q (some ⟨BitVec.ofNat 512 r, cmdCtx c, [], 1, false, none, false, none, false, 0⟩)) cmOk 0
          else .done s cmOk 0
        | some x =>
          if !bit r 0 then
            .done (s.setQuery p q (if x.batch.isEmpty then none else some { x with stopping := true })) cmOk 0
          else if x.batch.isEmpty && !x.waiting then
            .done (s.setQuery p q (some { x with rcd := BitVec.ofNat 512 r, ctx := cmdCtx c })) cmOk 0
          else .hold s))

/-- PANTRY_UNCONFIG (R565). -/
def execPantryUnconfig (src : CmdSrc) (c : Cmd) (s : State) : Res :=
  s.pantryCmd src c 7 8 false (fun s p i => s.giveWork src c p i .unconfig 0 0)

/-- PANTRY_TICKET_TAKE (R551, R554, R561): the next committed ticket of a pantry, or of a query service's queue. -/
def execPantryTicketTake (p : Fin 16) (i : Fin 10) (s : State) : Res :=
  when (decide (s.svcWt p.val ≠ 0)) (fun s =>
    let s := s.svcKick p.val
    if i.val ≥ 8 then s.takeQuery p.val (i.val - 8)
    else if (s.pantry p.val i.val).any (fun x => x.work.isEmpty) then (s.takeTicket p.val i.val).svcKick p.val
    else s) s

/-- Some later ticket of a queue of n slots stands committed; the slot of a ticket is given. -/
def State.laterCommitted (s : State) (ctx p t n : Nat) (slot : Nat → Nat) (k : Nat) : Svc Bool :=
  match k with
  | 0 => .ok s false
  | j + 1 =>
    let t' := t + (n - k)
    if t' = t then s.laterCommitted ctx p t n slot j
    else (s.svcNat ctx p (slot t') 8).andThen (fun s v => if v = t' + 1 then .ok s true else s.laterCommitted ctx p t n slot j)

/-- Skip the ticket that freed names, unless it is committed or no later one is (R552). -/
def State.skipTicket (s : State) (ctx p ctrl n : Nat) (slot : Nat → Nat) : Svc Unit :=
  (s.svcNat ctx p (ctrl + 0x20) 8).andThen (fun s t =>
    (s.svcNat ctx p (slot t) 8).andThen (fun s v =>
      if v = t + 1 then .ok s ()
      else (s.laterCommitted ctx p t n slot n).andThen (fun s later =>
        if !later then .ok s ()
        else (s.svcInc ctx p (ctrl + 0x30) 1).andThen (fun s _ =>
          (s.svcPut svcUnit ctx p (slot t) (toLE 128 0)).andThen (fun s _ => s.svcSet ctx p (ctrl + 0x20) 8 (t + 1))))))

/-- INTAKE_SKIP (R552, R560): its timeout has run out; a pantry's intake_to of 0 never skips. -/
def execIntakeSkip (p : Fin 16) (i : Fin 10) (s : State) : Res :=
  let go (r : Svc Unit) : Res :=
    match r with
    | .ok s _ => .next (s.svcKick p.val)
    | .miss u c va acc e => .next (s.svcMiss p.val u c va acc e (.service p.val (if i.val < 8 then 32 + i.val else i.val))).1
    | .bad => .next s
  if s.svcWt p.val = 0 then .next s
  else if i.val < 8 then
    match s.pantry p.val i.val with
    | some x => if x.skipTo = 0 ∨ x.request.isSome ∨ x.held.isSome then .next s else go (s.skipTicket x.ctx p.val x.ctrl x.stg x.stage)
    | none => .next s
  else
    match s.query p.val (i.val - 8) with
    | some x => go (s.skipTicket x.ctx p.val x.ctrl x.stg x.slot)
    | none => .next s

/-- QUERY_BATCH_TIMEOUT (R561): max_wait has run out on the batch being formed. -/
def execQueryBatchTimeout (p : Fin 16) (i : Fin 2) (s : State) : Res :=
  match s.query p.val i.val with
  | some x => when (!x.batch.isEmpty && !x.outstanding && !x.waiting) (fun s => (s.closeQuery p.val i.val x).svcKick p.val) s
  | none => .next s

/-- QUERY_DONE_READ (R561): the service reads done; the batch's number there starts its answers. -/
def execQueryDoneRead (p : Fin 16) (i : Fin 2) (s : State) : Res :=
  match s.query p.val i.val with
  | some x =>
    when (x.outstanding && x.answering.isNone) (fun s =>
      match s.svcNat x.ctx p.val (x.area + 0x20) 8 with
      | .ok s v => if v = x.batchNo then (s.answerFrom p.val i.val x 0).svcKick p.val else s
      | .miss u c va acc e => (s.svcMiss p.val u c va acc e (.service p.val (8 + i.val))).1
      | .bad => s) s
  | none => .next s

/-- QUERY_DONE_TIMEOUT (R561). -/
def execQueryDoneTimeout (p : Fin 16) (i : Fin 2) (s : State) : Res :=
  match s.query p.val i.val with
  | some x => when (x.outstanding && x.answering.isNone) (fun s => (s.answerFrom p.val i.val x 2).svcKick p.val) s
  | none => .next s

end Sys2Proof.Machine
end

