-- ==== Sys2Proof/Machine/Cadence.lean ====
section
/-! DEFINITION. The cadence engine (R562-R568). Its times are in half ticks of mtime, 20 ns: half a period is a whole number. -/

namespace Sys2Proof.Machine

/-- Half ticks of a microsecond; the time now. -/
def usHalf : Nat := 50
def State.nowHalf (s : State) : Nat := 2 * s.mtime.toNat

/-- Fields of a cadence record and of phase j of it (R562). -/
def cadF (r : List Byte) (a n : Nat) : Nat := ofLE ((r.drop a).take n)
def Cadence.f (c : Cadence) (a n : Nat) : Nat := cadF c.rcd a n
def Cadence.nphase (c : Cadence) : Nat := c.f 0 1
def Cadence.ph (c : Cadence) (j a n : Nat) : Nat := c.f (0x20 + 32 * j + a) n
/-- The nominal period in half ticks, and half of it. -/
def Cadence.period (c : Cadence) : Nat := c.f 4 4 * usHalf
def Cadence.floor (c : Cadence) : Nat := c.f 4 4 * (usHalf / 2)

/-- A phase of a record breaks R562. -/
def phaseBad (r : List Byte) (j : Nat) : Bool :=
  let v (a n : Nat) : Nat := cadF r (0x20 + 32 * j + a) n
  let k := v 0 1
  decide (k = 0) || decide (k > 4) || decide (v 1 1 ≥ 2) || decide (v 3 1 ≠ 0) || !vaOk (v 8 8) 1
    || (k == 3 && (decide (v 0x10 4 = 0) || decide (v 0x10 4 > 64)))
    || (k == 2 && (decide (v 0x14 4 = 0) || decide (v 0x14 4 > 65535) || !vaOk (v 0x18 8) 1))

/-- A cadence record breaks R562; its status block is 64 B of one line. -/
def cadenceBad (r : List Byte) : Bool :=
  decide (cadF r 0 1 = 0) || decide (cadF r 0 1 > 8) || decide (cadF r 1 3 ≠ 0) || decide (cadF r 4 4 < 100) || decide (cadF r 4 4 > 10000000)
    || !vaOk (cadF r 8 8) 64 || decide (cadF r 0x18 8 ≠ 0) || (upTo (cadF r 0 1)).any (phaseBad r)

/-- The code of a state in the status block (R567). -/
def CadSt.code (x : CadSt) : Nat :=
  match x with
  | .run => 0
  | .paused => 1
  | .waiting => 2
  | .stopped => 3

/-- Answers of a partition's query services that have failed. -/
def State.replyFails (s : State) (p : Nat) : Nat := (upTo 2).foldl (fun n q => n + (match s.query p q with | some x => x.replyFail | none => 0)) 0

/-- Write a cadence's status block (R567); a failed write leaves its record. -/
def State.cadStatus (s : State) (p i : Nat) : State :=
  match s.cadence p i with
  | none => s
  | some c =>
    let bs := toLE 8 c.k ++ toLE 8 (c.start / 2) ++ toLE 4 c.lastLen ++ toLE 4 (c.lag / usHalf) ++ toLE 4 c.overruns ++ toLE 4 c.skipped
      ++ toLE 1 c.st.code ++ toLE 1 c.failedPhase ++ toLE 2 c.undelivered ++ toLE 4 (s.replyFails p) ++ toLE 8 c.lastVersion ++ toLE 16 0
    (s.vWrite svcUnit c.ctx p (c.f 8 8) bs noCore none).st

/-- Post a CADENCE request (R566); it is the cadence's latest pending one. -/
def State.askCadence (s : State) (p i reason phase status : Nat) : State :=
  match s.cadence p i with
  | none => s
  | some c =>
    let r := s.postRequest p 9 (toLE 1 i ++ toLE 1 reason ++ toLE 1 phase ++ toLE 1 status ++ toLE 4 c.k ++ toLE 4 (c.lag / usHalf))
    r.1.setCadence p i (some { c with request := some r.2 })

/-- A cadence stops: its status block says so, and the STOP that waits completes. -/
def State.cadStop (s : State) (p i : Nat) : State :=
  match s.cadence p i with
  | none => s
  | some c =>
    let s := (s.setCadence p i (some { c with st := .stopped, inPeriod := false, request := none, stopReq := none })).cadStatus p i
    match c.stopReq with
    | some (src, cmd) => s.complete src cmd true cmOk 0
    | none => s

/-- A period ends now (R563, R564): overrun and the next start are settled, and the status block is written. -/
def State.cadPeriodEnd (s : State) (p i : Nat) : State :=
  match s.cadence p i with
  | none => s
  | some c =>
    let e := s.nowHalf
    let late := decide (e > c.nextB)
    let assisted := s.assist p 3
    let nextB := if late ∧ assisted = true then e else c.nextB
    let start := max (max e (c.start + c.floor)) nextB
    let lastOne := decide (c.f 0x10 8 ≠ 0) && decide (c.k + 1 ≥ c.f 0x10 8)
    let c1 := { c with
      lastLen := (start - c.start) / usHalf, lag := start - nextB, overruns := c.overruns + b2n late, inPeriod := false
      st := if lastOne then .stopped else c.st }
    let s := (s.setCadence p i (some c1)).cadStatus p i
    let s := if late && assisted && !lastOne then s.askCadence p i 1 c.phase 0 else s
    let s := s.updCadence p i (fun c => { c with k := c.k + 1, start := start, b := nextB, phase := 0 })
    if lastOne ∨ c.stopReq.isSome = true then s.cadStop p i else s

/-- The phase in hand has failed: the cadence waits for RESUME or STOP (R564). -/
def State.cadFailed (s : State) (p i : Nat) : State :=
  match s.cadence p i with
  | none => s
  | some c =>
    let s := (s.setCadence p i (some { c with st := .waiting, failedPhase := c.phase, lastLen := (s.nowHalf - c.start) / usHalf })).cadStatus p i
    let s := s.askCadence p i 2 c.phase (c.failed.getD 0)
    if c.stopReq.isSome then s.cadStop p i else s

/-- The pantry whose record stands at an address of a context. -/
def State.pantryAt (s : State) (p ctx va : Nat) : Option Nat :=
  (upTo 8).find? (fun i => match s.pantry p i with | some x => x.va == va && x.ctx == ctx | none => false)

/-- Tickets of a pantry that stand committed now. -/
def State.committed (s : State) (p : Nat) (x : Pantry) : Svc Nat :=
  (s.svcNat x.ctx p (x.ctrl + 0x20) 8).andThen (fun s t =>
    let rec go (s : State) (k : Nat) : Svc Nat :=
      match k with
      | 0 => .ok s 0
      | j + 1 => (s.svcNat x.ctx p (x.stage (t + j)) 8).andThen (fun s v => (go s j).andThen (fun s n => .ok s (n + b2n (v == t + j + 1))))
    go s x.stg)

/-- The beginning of the phase in hand (R562): what it waits for is in `goal`, its failure in `failed`. -/
def State.cadBegin (s : State) (p i : Nat) (c : Cadence) : State :=
  let j := c.phase
  let c := { c with failed := none, goal := 0 }
  let s := s.setCadence p i (some c)
  let fail (s : State) : State := s.setCadence p i (some { c with failed := some 0 })
  let hold (m : State × Word32) : State := m.1.setCadence p i (some { c with goal := 2 ^ 64 })
  let w : Waiter := .service p (16 + i)
  let k := c.ph j 0 1
  let arg := c.ph j 8 8
  if k = 1 then
    match s.pantryAt p c.ctx arg with
    | none => fail s
    | some q =>
      match s.pantry p q with
      | none => fail s
      | some x =>
        if c.ph j 0x10 4 ≠ 0 then s.setCadence p i (some { c with goal := x.taken + c.ph j 0x10 4 })
        else
          match s.committed p x with
          | .ok s n => s.setCadence p i (some { c with goal := x.taken + n })
          | .miss u cx va acc e => hold (s.svcMiss p u cx va acc e w)
          | .bad => fail s
  else if k = 2 then
    match s.pantryAt p c.ctx arg with
    | none => fail s
    | some q =>
      (s.updPantry p q (fun x => { x with work := x.work ++ [⟨.phase p i, .feed, c.ph j 0x14 4, c.ph j 0x18 8, c.ctx⟩] })).svcKick p
  else if k = 3 then
    let n := c.ph j 0x10 4
    match s.svcGet svcUnit c.ctx p arg (64 * n) with
    | .ok s bs =>
      let src : CmdSrc := .cadence (Fin.ofNat 16 p) (Fin.ofNat 4 i)
      let l := (pieces 64 bs 64).map (fun b => (⟨src, BitVec.ofNat 512 (ofLE b), false⟩ : OpenCmd))
      { s with host := { s.host with open_ := s.host.open_ ++ l } }
    | .miss u cx va acc e => hold (s.svcMiss p u cx va acc e w)
    | .bad => fail s
  else
    match s.svcGet svcUnit c.ctx p arg 64 with
    | .ok s bs =>
      if publishBad (ofLE bs) then fail s
      else (s.startPub (.phase p i) p c.ctx arg (BitVec.ofNat 512 (ofLE bs))).svcKick p
    | .miss u cx va acc e => hold (s.svcMiss p u cx va acc e w)
    | .bad => fail s

/-- Begin the next phase that is not skipped (R563); behind the last one the period ends. -/
def State.cadNext (s : State) (p i fuel : Nat) : State :=
  match fuel with
  | 0 => s
  | k + 1 =>
    match s.cadence p i with
    | none => s
    | some c =>
      let j := c.phase
      if j ≥ c.nphase then s.cadPeriodEnd p i
      else if decide (c.lag > 0) && bit (c.ph j 1 1) 0 && decide (mget 0 c.skips j < c.ph j 2 1) then
        (s.setCadence p i (some { c with
          phase := j + 1, skipped := c.skipped + 1, skips := mset 0 c.skips j (mget 0 c.skips j + 1) })).cadNext p i k
      else s.cadBegin p i { c with skips := mset 0 c.skips j 0 }

/-- CADENCE_PERIOD_START (R563): once its computed time has come; without a weight the cadence pauses instead (R564). -/
def execCadencePeriodStart (p : Fin 16) (i : Fin 4) (s : State) : Res :=
  let p := p.val
  let i := i.val
  match s.cadence p i with
  | none => .next s
  | some c =>
    when (c.st == .run && !c.inPeriod && decide (c.start ≤ s.nowHalf)) (fun s =>
      if s.svcWt p = 0 then (s.setCadence p i (some { c with st := .paused })).cadStatus p i
      else
        let n := match c.lengths with | l :: _ => l * usHalf | [] => c.period
        (s.setCadence p i (some { c with
          inPeriod := true, phase := 0, lag := c.start - c.b, nextB := c.b + n, lengths := c.lengths.drop 1 })).cadNext p i 9) s

/-- Whether what the phase in hand waits for has happened. -/
def State.phaseDone (s : State) (p i : Nat) (c : Cadence) : Bool :=
  let k := c.ph c.phase 0 1
  let arg := c.ph c.phase 8 8
  if c.failed.isSome && k != 3 then true
  else if k = 1 then
    match s.pantryAt p c.ctx arg with
    | some q => match s.pantry p q with | some x => decide (x.taken ≥ c.goal) | none => true
    | none => true
  else if c.goal ≠ 0 then false
  else if k = 2 then !(upTo 8).any (fun q => match s.pantry p q with | some x => x.work.any (fun w => w.owner == .phase p i) | none => false)
  else if k = 3 then (s.cmdsOf (.cadence (Fin.ofNat 16 p) (Fin.ofNat 4 i))).isEmpty
  else !s.service.pubs.any (fun x => x.owner == .phase p i)

/-- A phase of a cadence has ended (R562-R564): the cadence stops with its failure, its period ends, or the next phase begins. -/
def State.phaseOver (s : State) (p i : Nat) (c : Cadence) : State :=
  if c.failed.isSome then s.cadFailed p i
  else if c.phase + 1 ≥ c.nphase then (s.setCadence p i (some { c with phase := c.phase + 1 })).cadPeriodEnd p i
  else if c.stopReq.isSome then s.cadStop p i
  else if s.svcWt p = 0 then (s.setCadence p i (some { c with st := .paused, phase := c.phase + 1 })).cadStatus p i
  else (s.setCadence p i (some { c with phase := c.phase + 1 })).cadNext p i 9

/-- Let a cadence go on if the phase in hand has ended. -/
def State.cadGo (s : State) (p i : Nat) : State :=
  match s.cadence p i with
  | none => s
  | some c => if c.st == .run && c.inPeriod && s.phaseDone p i c then s.phaseOver p i c else s

/-- CADENCE_PHASE_END (R562-R564): the phase in hand has ended; the next one begins, or the period ends. -/
def execCadencePhaseEnd (p : Fin 16) (i : Fin 4) (s : State) : Res := .next ((s.svcKick p.val).cadGo p.val i.val)

/-- The weight of a partition has returned: its paused cadences go on, with b rebased to now (R564). -/
def State.svcResume (s : State) (p : Nat) : State :=
  forEach (upTo 4) s (fun s i =>
    match s.cadence p i with
    | none => s
    | some c =>
      if c.st ≠ .paused then s
      else
        let now := s.nowHalf
        if c.inPeriod then (s.setCadence p i (some { c with st := .run, b := now, nextB := now + c.period })).cadNext p i 9
        else s.setCadence p i (some { c with st := .run, b := now, start := max c.start now }))

/-- A record that a cadence's phase waits on is settled. -/
def State.cadSettle (s : State) (p i : Nat) (retry : Bool) : State :=
  match s.cadence p i with
  | none => s
  | some c => if retry then s.cadBegin p i c else s.setCadence p i (some { c with goal := 0, failed := some 0 })

/-! ### Commands (R565) -/

/-- A CADENCE command with its op; from a cadence it is refused with BAD_OPCODE (R562), in a partition without weight with
NOT_PERMITTED (R543). -/
def State.cadenceCmd (s : State) (src : CmdSrc) (c : Cmd) (k : Nat) (bad : Bool) (act : State → Nat → Nat → CmdDo) : Res :=
  let op := cmdB c 8 1
  s.runCmd src c (cmdOp c == 0x51 && (op == k || (k == 0 && decide (op > 3)))) [(8, 2), (0xC, 4), (0x10, 8), (0x18, 32)] (fun s =>
    let p := s.srcPart src
    match src with
    | .cadence _ _ => .done s cmBadOpcode 0
    | .ring _ =>
      if op > 3 ∨ cmdB c 9 1 ≥ 4 ∨ bad = true then .done s cmBadField 0
      else if s.svcWt p = 0 ∨ !s.ctxOk (cmdCtx c) p then .done s cmNotPermitted 0
      else act s p (cmdB c 9 1))

/-- CADENCE_START (R562, R565): s_0 is now; a cadence that has not stopped is not started again. -/
def execCadenceStart (src : CmdSrc) (c : Cmd) (s : State) : Res :=
  s.cadenceCmd src c 0 (!vaOk (cmdB c 0x10 8) 64) (fun s p i =>
    if (s.cadence p i).any (fun x => x.st != .stopped) then .done s cmBadField 0
    else
      s.withRecord src c (cmdB c 0x10 8) 288 (fun s bs =>
        if cadenceBad bs then .done s cmBadField 0
        else
          let now := s.nowHalf
          .done (s.setCadence p i (some ⟨bs, cmdCtx c, .run, 0, 0, false, now, now, now, 0, 0, 0, [], [], none, none, 0xFF, 0, none, 0, 0, 0⟩)) cmOk 0))

/-- CADENCE_STOP (R564, R565): at the next phase boundary; a cadence between its phases stops at once. -/
def execCadenceStop (src : CmdSrc) (c : Cmd) (s : State) : Res :=
  s.cadenceCmd src c 1 false (fun s p i =>
    match s.cadence p i with
    | none => .done s cmOk 0
    | some x =>
      if x.stopReq.isSome then .hold s
      else if x.st = .stopped then .done s cmOk 0
      else if x.st = .run ∧ x.inPeriod = true then .run (s.setCadence p i (some { x with stopReq := some (src, c) }))
      else .done (s.cadStop p i) cmOk 0)

/-- CADENCE_ADJUST (R564, R565): lengths up to the first zero, none below half a period. -/
def execCadenceAdjust (src : CmdSrc) (c : Cmd) (s : State) : Res :=
  s.cadenceCmd src c 2 false (fun s p i =>
    match s.cadence p i with
    | none => .done s cmStale 0
    | some x =>
      let l := ((upTo 8).map (fun j => cmdB c (0x18 + 4 * j) 4)).takeWhile (fun v => v != 0)
      if l.any (fun v => decide (2 * v < x.f 4 4)) then .done s cmBadField 0
      else if x.request ≠ some (BitVec.ofNat 32 (cmdB c 0xC 4)) then .done s cmStale 0
      else .done (s.setCadence p i (some { x with lengths := l, request := if x.st = .waiting then x.request else none })) cmOk 0)

/-- CADENCE_RESUME (R564, R565): b of the next period becomes the time now. -/
def execCadenceResume (src : CmdSrc) (c : Cmd) (s : State) : Res :=
  s.cadenceCmd src c 3 false (fun s p i =>
    match s.cadence p i with
    | none => .done s cmStale 0
    | some x =>
      if x.st ≠ .waiting ∨ x.request ≠ some (BitVec.ofNat 32 (cmdB c 0xC 4)) then .done s cmStale 0
      else
        let now := s.nowHalf
        .done (s.setCadence p i (some { x with
          st := .run, request := none, failed := none, inPeriod := false, k := x.k + 1, phase := 0, b := now
          start := max now (x.start + x.floor) })) cmOk 0)

/-! ### The partition's end, and its register -/

/-- The coupling service holds nothing more of a partition (R544). -/
def State.svcDrop (s : State) (p : Nat) : State :=
  let s := forEach (upTo 16) s (fun s e =>
    match s.bulkOf e with
    | some b => (match b.owner with | .publish q _ => if q = p then s.setBulk e none else s | .cmd _ _ => s)
    | none => s)
  let mine (r : OutReq) : Bool := match r.owner with | .reply q _ => q == p | _ => false
  let s := { s with fabric := { s.fabric with outstanding := s.fabric.outstanding.filter (fun r => !mine r) } }
  let s := s.dropWaiters (fun w => match w with | .service q _ => q == p | _ => false)
  let v := s.service
  { s with service := { v with
      pantries := v.pantries.filter (fun e => e.1 / 8 != p), queries := v.queries.filter (fun e => e.1 / 2 != p)
      cadences := v.cadences.filter (fun e => e.1 / 4 != p), pubs := v.pubs.filter (fun x => x.part != p) } }

/-- The value of PAN_SVCp (R568). -/
def State.panSvc (s : State) (p : Nat) : Word :=
  let bitsOf (n : Nat) (f : Nat → Bool) : Nat := (upTo n).foldl (fun v i => v + (if f i then 2 ^ i else 0)) 0
  let st (i : Nat) : Option CadSt := (s.cadence p i).map (·.st)
  let asks (i : Nat) : Nat := match s.pantry p i with | some x => b2n (x.request.isSome && x.answer.isNone) | none => 0
  let cads (i : Nat) : Nat := match s.cadence p i with | some c => b2n c.request.isSome | none => 0
  let n := (upTo 8).foldl (fun v i => v + asks i) 0 + (upTo 4).foldl (fun v i => v + cads i) 0
  BitVec.ofNat 64 (bitsOf 8 (fun i => (s.pantry p i).isSome) + 2 ^ 8 * bitsOf 2 (fun q => (s.query p q).isSome)
    + 2 ^ 10 * bitsOf 4 (fun i => st i == some .run || st i == some .paused)
    + 2 ^ 14 * b2n (decide (s.svcWt p = 0) && (upTo 4).any (fun i => st i == some .paused)) + 2 ^ 16 * min n 65535)

end Sys2Proof.Machine
end

