-- ==== Sys2Proof/Machine/Reduce.lean ====
section
/-! DEFINITION. The package reduction node (R439-R460, R481, R509). -/

namespace Sys2Proof.Machine

/-! ### The exact accumulator (R439-R443) -/

/-- Two elements added: integers added, flags joined. -/
def AccEl.plus (a b : AccEl) : AccEl := ⟨a.v + b.v, a.nan || b.nan, a.pinf || b.pinf, a.ninf || b.ninf, a.allnz && b.allnz⟩

/-- An input element as an accumulator element (R441). -/
def accOf (v : Val) : AccEl :=
  match v with
  | .nan => { nan := true, allnz := false }
  | .inf false => { pinf := true, allnz := false }
  | .inf true => { ninf := true, allnz := false }
  | .fin neg m e => { v := if m = 0 then 0 else signed neg (m <<< (e + 149).toNat), allnz := neg && m == 0 }

/-- A field of a partial sum as an accumulator element (R449). -/
def accOfField (w : Nat) (lsb p : Int) : AccEl :=
  let low : Int := -(2 ^ (32 * w - 1) : Nat)
  let k := (p - low).toNat
  if k ≤ 15 then ⟨0, bit k 0, bit k 1, bit k 2, bit k 3⟩
  else { v := p * (2 ^ (lsb + 149).toNat : Nat), allnz := p == 0 }

/-- The result of an element (R442, R443): its code, and whether it overflows or is not finite. -/
def AccEl.finish (el : AccEl) (count out : Nat) (nonsat : Bool) : Nat × Bool × Bool :=
  let f := (fmtF out).getD binary32
  let cv (v : Val) : ConvEl := convVal out .rne nonsat false v
  let isOdd (c : Nat) : Bool := match decodeEl out c 127 with | .fin _ _ _ => false | _ => true
  if el.nan || (el.pinf && el.ninf) then (nanCode f, false, true)
  else if el.pinf || el.ninf then
    let c := (cv (.inf el.ninf)).code
    (c, false, isOdd c)
  else if el.v = 0 then (withSign f (decide (count > 0) && el.allnz) 0, false, false)
  else
    let r := cv (.fin (decide (el.v < 0)) el.v.natAbs (-149))
    (r.code, r.fl.ovf, isOdd r.code)

/-! ### Records and rounds -/

/-- n bytes at offset a of a round's record (R444). -/
def RedRound.fld (r : RedRound) (a n : Nat) : Nat := recB r.rcd.toNat a n
def RedRound.ctl (r : RedRound) : Nat := r.fld 0 4
def RedRound.compat (r : RedRound) : Bool := bit r.ctl 12
def RedRound.fold (r : RedRound) : Bool := bit r.ctl 13
def RedRound.root (r : RedRound) : Bool := bit r.ctl 14
def RedRound.nonsat (r : RedRound) : Bool := bit r.ctl 15
def RedRound.inFmt (r : RedRound) : Nat := bits r.ctl 16 4
def RedRound.outFmt (r : RedRound) : Nat := bits r.ctl 20 4
def RedRound.len (r : RedRound) : Nat := r.fld 8 4
def RedRound.dl (r : RedRound) : Nat := r.fld 0xC 4
def RedRound.dst (r : RedRound) : Nat := r.fld 0x10 8
def RedRound.cnt (r : RedRound) : Nat := r.fld 0x18 8
def RedRound.children (r : RedRound) : Nat := r.fld 0x28 4
def RedRound.num (r : RedRound) : Nat := r.fld 0x2C 1
/-- Fragments of the vector, and the elements of one (R445). -/
def RedRound.count (r : RedRound) : Nat := cdiv r.len 64
def RedRound.nf (r : RedRound) (f : Nat) : Nat := min 64 (r.len - 64 * f)

/-- A fragment of a round; those below the base are complete. -/
def RedRound.frag (r : RedRound) (f : Nat) : Frag := if f < r.base then { st := .done } else mget {} r.frags f

/-- Replace a fragment. -/
def RedRound.putFrag (r : RedRound) (f : Nat) (x : Frag) : RedRound := { r with frags := mset {} r.frags f x }

/-- The configured reduction of an ID in a partition. -/
def State.redOf (s : State) (part id : Nat) : Option RedState := s.reds.find? (fun r => r.part == part && r.id == id)

/-- Replace a configured reduction. -/
def State.putRed (s : State) (r : RedState) : State := { s with reds := mapWhere s.reds (fun x => x.part == r.part && x.id == r.id) (fun _ => r) }

/-- Change the round that a reduction serves. -/
def State.updCur (s : State) (r : RedState) (f : RedRound → RedRound) : State :=
  match s.redOf r.part r.id with
  | some x => s.putRed { x with cur := x.cur.map f }
  | none => s

/-- The package reduction node as a unit (R668). -/
def redUnit : UnitId := .jservice 16

/-- Count in RED_LATE (R470). -/
def State.redLate (s : State) (lo len : Nat) : State := (s.addF ⟨redBase + 0x10, lo, len⟩ 1).putF ⟨redBase + 0x10, 56, 1⟩ 1
def State.lateCount (s : State) : State := s.redLate 0 24
def State.discCount (s : State) : State := s.redLate 24 16
def State.exclCount (s : State) : State := s.redLate 40 16

/-! ### Messages of a node (R448-R450) -/

/-- Send a reduction message; the destination module and the tag, which no rule gives, are free values (log entry 37). -/
def State.sendRed (s : State) (part type vc : Nat) (ports : List Nat) (a b c : Nat) (pl : List Byte) : State :=
  let h := mkHdr type (cdiv pl.length 16) (s.freshVal.toNat % 16384) s.modNum (s.jobOf part) (s.freshVal.toNat / 2 ^ 32 % 65536) 0 0 a b c
  s.tickFree.sendMsg ⟨part, vc, ports, toLE 32 h.toNat ++ slots pl⟩ false

/-- The uplink and its standby (R393). -/
def RedRound.upPorts (r : RedRound) : List Nat := [r.fld 5 1 % 32] ++ (if r.fld 6 1 % 32 = 31 then [] else [r.fld 6 1 % 32])

/-- The lowest set bit of a number that is not 0. -/
def lowBit (n fuel : Nat) : Nat :=
  match fuel with
  | 0 => 0
  | k + 1 => if n % 2 = 1 then 0 else 1 + lowBit (n / 2) k

/-- Whether an element is sent as a special field: a flag besides a zero's, or a zero that is all −0. -/
def AccEl.special (e : AccEl) : Bool := e.nan || e.pinf || e.ninf

/-- lsb and w for elements (R449): the lowest set bit among the finite non-zero ones, and the smallest w that holds every field. -/
def encShape (els : List AccEl) : Int × Nat :=
  let vs := els.filter (fun e => !e.special && e.v != 0)
  let tz := (vs.map (fun e => lowBit e.v.natAbs 320)).foldl min 288
  let lsb : Int := if vs.isEmpty then 0 else (tz : Int) - 149
  let ok (w : Nat) : Bool :=
    vs.all (fun e => let p := e.v / (2 ^ tz : Nat); decide (-(2 ^ (32 * w - 1) : Nat) + 15 < p) && decide (p < (2 ^ (32 * w - 1) : Nat)))
  let w := ((upTo 10).map (· + 1)).find? ok |>.getD 10
  (min lsb (171 - 32 * w), w)

/-- One element as a field of w words (R449). -/
def encField (lsb : Int) (w : Nat) (e : AccEl) : List Byte :=
  let p : Int := if e.special then -(2 ^ (32 * w - 1) : Nat) + (b2n e.nan + 2 * b2n e.pinf + 4 * b2n e.ninf + 8 * b2n e.allnz : Nat)
    else e.v / (2 ^ (lsb + 149).toNat : Nat)
  toLE (4 * w) (toBits p (32 * w))

/-- Most elements of a list that one message carries (R449). -/
def encFit (els : List AccEl) (n : Nat) : Nat :=
  match n with
  | 0 => 1
  | k + 1 => if (k + 1) * 4 * (encShape (els.take (k + 1))).2 ≤ 256 then k + 1 else encFit els k

/-- Send a fragment's partial sum up, in as many messages as it needs. -/
def State.sendSum (s : State) (part id : Nat) (r : RedRound) (f : Nat) (x : Frag) (els : List AccEl) (first fuel : Nat) : State :=
  match fuel with
  | 0 => s
  | k + 1 =>
    if els.isEmpty then s
    else
      let n := encFit els els.length
      let sh := encShape (els.take n)
      let a := id + r.num * 2 ^ 12 + r.inFmt * 2 ^ 20 + 2 ^ 24 + first * 2 ^ 25
      let b := f + x.count * 2 ^ 32
      let c := n * 2 ^ 17 + r.nf f * 2 ^ 24 + toBits sh.1 10 * 2 ^ 32 + (sh.2 - 1) * 2 ^ 42 + (x.status.toNat % 64) * 2 ^ 46
      let s := s.sendRed part tContrib 2 r.upPorts a b c ((els.take n).flatMap (encField sh.1 sh.2))
      s.sendSum part id r f x (els.drop n) (first + n) k

/-! ### Writing results (R446, R451, R456) -/

/-- Write a fragment's elements and its count entry; a fault holds it in WRITING. -/
def State.writeFrag (s : State) (red : RedState) (f : Nat) : State :=
  let hold (s : State) (rcd : Word32) : State :=
    s.updCur red (fun r => r.putFrag f { r.frag f with held := some rcd })
  match red.cur with
  | none => s
  | some r =>
    match (r.frag f).result with
    | none => s
    | some (count, status, bs) =>
      let w := some (Waiter.result red.part red.id f)
      let a := s.vWrite redUnit r.ctx red.part (r.dst + 64 * f * redSize r.outFmt) bs noCore w
      match a.o with
      | .held rcd _ => hold a.st rcd
      | .done _ _ =>
        let b := a.st.vWrite redUnit r.ctx red.part (r.cnt + 8 * f) (toLE 4 count ++ toLE 1 status.toNat ++ toLE 3 0) noCore w
        match b.o with
        | .held rcd _ => hold b.st rcd
        | .done _ _ => b.st

/-- A result is at hand: the fragment is in WRITING; a root sends it to the child ports that have contributed. -/
def State.startWrite (s : State) (part id f : Nat) (res : Nat × BitVec 8 × List Byte) : State :=
  match s.redOf part id with
  | none => s
  | some red =>
    let s := s.updCur red (fun r => r.putFrag f { r.frag f with st := .writing, result := some res })
    let s := match red.cur with
      | some r =>
        if r.root then forEach r.contributed s (fun s p =>
          s.sendRed part tResult 3 [p] (id + r.num * 2 ^ 12 + r.outFmt * 2 ^ 20) (f + res.1 * 2 ^ 32)
            (res.2.1.toNat + r.nf f * 2 ^ 8) res.2.2)
        else s
      | none => s
    match s.redOf part id with
    | some red => s.writeFrag red f
    | none => s

/-! ### Closing (R451, R453, R459) -/

/-- Every expected arrival of a fragment has been added (R451, R459, R481). -/
def RedRound.full (r : RedRound) (f : Nat) (x : Frag) : Bool :=
  let kids := (upTo 18).all (fun p => !bit r.children p || mget 0 x.children p == 2 ^ r.nf f - 1)
  let locs := if r.compat && r.root then r.locs.all (fun l => x.slots.any (fun t => t.1 == l.2.1))
    else (upTo r.locs.length).all (fun i => x.locals.contains i)
  kids && locs && r.engines.all (fun e => x.engines.contains e)

/-- Close a fragment: a root forms the result, another node sends its partial sum up. -/
def State.closeFrag (s : State) (part id f : Nat) (deadline : Bool) : State :=
  match s.redOf part id with
  | none => s
  | some red =>
    match red.cur with
    | none => s
    | some r =>
      let x := r.frag f
      let x := { x with status := if deadline then x.status ||| 1 else x.status, st := .closed }
      let els := (upTo (r.nf f)).map (fun i => mget {} x.els i)
      let s := s.updCur red (fun r => r.putFrag f x)
      if r.root then
        let z := els.map (fun e => e.finish x.count r.outFmt r.nonsat)
        let st := x.status ||| (if z.any (·.2.2) then 4 else 0) ||| (if z.any (·.2.1) then 8 else 0)
        s.startWrite part id f (x.count, st, packRun r.outFmt (z.map (·.1)))
      else
        let s := if r.compat then s else s.sendSum part id r f x els 0 64
        match x.result with
        | some res => s.startWrite part id f res
        | none => s

/-- Close a fragment that has everything it expects. -/
def State.settleFrag (s : State) (part id f : Nat) : State :=
  match s.redOf part id with
  | some red =>
    match red.cur with
    | some r => if (r.frag f).st = .opened ∧ r.full f (r.frag f) = true then s.closeFrag part id f false else s
    | none => s
  | none => s

/-- The fragments of a statistics round for which every engine has arrived close, as far as the window reaches (R452). -/
def State.settleStats (s : State) (part id : Nat) : State :=
  match s.redOf part id with
  | none => s
  | some red =>
    match red.cur with
    | none => s
    | some r =>
      if r.engines.isEmpty then s
      else forEach (upTo (min red.w (r.count - r.base))) s (fun s i =>
        let f := r.base + i
        match s.redOf part id with
        | none => s
        | some red =>
          match red.cur with
          | none => s
          | some r =>
            let x := r.frag f
            if r.engines.all (fun e => x.engines.contains e) && (x.st == .free || x.st == .opened) then
              (s.updCur red (fun r => r.putFrag f { x with st := .opened })).settleFrag part id f
            else s)

/-- Add elements with a count and status bits to a fragment, which opens if it is FREE. -/
def Frag.add (x : Frag) (first : Nat) (els : List AccEl) (count : Nat) (status : BitVec 8) : Frag :=
  { x with
    st := if x.st = .free then .opened else x.st
    els := els.zipIdx.foldl (fun m p => mset {} m (first + p.2) ((mget {} m (first + p.2)).plus p.1)) x.els
    count := x.count + count
    status := x.status ||| status }

/-- A late arrival (R454): counted; under fold it goes into the same fragment of the next round, if that is started there and not
closed; the answer says whether it was folded. -/
def State.lateArrival (s : State) (red : RedState) (r : RedRound) (f first : Nat) (els : List AccEl) (count : Nat) (status : BitVec 8) : State × Bool :=
  let s := s.lateCount
  match s.redOf red.part red.id with
  | none => (s, false)
  | some red =>
    match red.next with
    | some n =>
      let x := n.frag f
      if r.fold && (x.st == .free || x.st == .opened) then
        (s.putRed { red with next := some (n.putFrag f (x.add first els count (status ||| 2))) }, true)
      else (s, false)
    | none => (s, false)

/-! ### Local contributions (R445, R452, R456, R459) -/

/-- The fragments that may be outside FREE (R452). -/
def RedState.window (red : RedState) (r : RedRound) (f : Nat) : Bool := decide (r.base ≤ f) && decide (f < r.base + red.w) && decide (f < r.count)

/-- A local contribution with its elements, at a fragment still open. -/
def State.addLocal (s : State) (red : RedState) (r : RedRound) (f i : Nat) (els : List AccEl) : State :=
  let l := nth (0, 0, false) r.locs i
  let x := r.frag f
  if r.compat && r.root && x.slots.any (fun t => t.1 == l.2.1) then
    s.discCount.updCur red (fun r => r.putFrag f { x with locals := x.locals ++ [i] })
  else
    let bk : BitVec 8 := if r.compat && r.root && l.2.2 then 16 else 0
    let x := x.add 0 els 1 bk
    s.updCur red (fun r => r.putFrag f { x with locals := x.locals ++ [i], slots := if r.compat then x.slots ++ [(l.2.1, l.2.2)] else x.slots })

/-- Leave a local contribution out (R456). -/
def State.dropLocal (s : State) (red : RedState) (r : RedRound) (f i : Nat) : State :=
  let l := nth (0, 0, false) r.locs i
  let x := (r.frag f).add 0 [] 0 32
  let slots := if r.compat && r.root then x.slots ++ [(l.2.1, l.2.2)] else x.slots
  s.exclCount.updCur red (fun r => r.putFrag f { x with locals := x.locals ++ [i], slots := slots })

/-- Read local contribution i of a fragment, and add it; in compatibility mode a node that is not the root sends it up as it is. -/
def State.localRead (s : State) (red : RedState) (r : RedRound) (f i : Nat) : State :=
  let l := nth (0, 0, false) r.locs i
  let n := r.nf f
  let bytes := packedLen r.inFmt n
  let s := s.updCur red (fun r => let x := r.frag f; r.putFrag f (if x.st = .free then { x with st := .opened } else x))
  let a := s.vRead redUnit r.ctx red.part (l.1 + 64 * f * redSize r.inFmt) bytes .read (some (.contrib red.part red.id f i))
  match a.o with
  | .held _ _ => a.st
  | .done bs poison =>
    let s := a.st
    match s.redOf red.part red.id with
    | none => s
    | some red =>
      match red.cur with
      | none => s
      | some r =>
        let els := (unpackRun r.inFmt n bs).map (fun c => accOf (decodeEl r.inFmt c 127))
        let mark (s : State) : State := s.updCur red (fun r => let x := r.frag f; r.putFrag f { x with locals := x.locals ++ [i] })
        if (r.frag f).st ≠ .opened then
          if poison then mark s.exclCount else mark (s.lateArrival red r f 0 els 1 0).1
        else if poison then (s.dropLocal red r f i).settleFrag red.part red.id f
        else if r.compat && !r.root then
          let c := l.2.1 + b2n l.2.2 * 2 ^ 16 + n * 2 ^ 17 + n * 2 ^ 24
          let s := s.sendRed red.part tContrib 2 r.upPorts (red.id + r.num * 2 ^ 12 + r.inFmt * 2 ^ 20) (f + 2 ^ 32) c bs
          (mark s).settleFrag red.part red.id f
        else (s.addLocal red r f i els).settleFrag red.part red.id f

/-- A local contribution is still to be read: within the window, of a fragment that is not complete. -/
def RedState.canRead (red : RedState) (f i : Nat) : Bool :=
  match red.cur with
  | some r => red.window r f && decide (i < r.locs.length) && !(r.frag f).locals.contains i && (r.frag f).st != .done
  | none => false

/-- LOCAL_CONTRIB_READ (R451, R452, R456), of the lowest-numbered partition in which the ID awaits it. -/
def execLocalContribRead (id : BitVec 12) (frag : Nat) (i : Fin 64) (s : State) : Res :=
  .next (match (s.reds.filter (fun r => r.id == id.toNat && r.canRead frag i.val)) with
    | red :: _ => match red.cur with | some r => s.localRead red r frag i.val | none => s
    | [] => s)

/-! ### Deadlines (R453, R455) -/

/-- Fragments of a round still OPEN. -/
def RedRound.openFrags (r : RedRound) : List Nat := (r.frags.filter (fun e => e.2.st == .opened)).map (·.1)

/-- A fragment may expire. -/
def RedState.canExpire (red : RedState) (f : Nat) : Bool :=
  match red.cur with
  | some r => (r.frag f).st == .opened && !r.compat && r.dl != 0
  | none => false

/-- FRAGMENT_DEADLINE (R453, R455): the fragment closes; in host-assisted mode the deadline of the round is posted once instead. -/
def execFragmentDeadline (id : BitVec 12) (frag : Nat) (s : State) : Res :=
  .next (match (s.reds.filter (fun r => r.id == id.toNat && r.canExpire frag)) with
    | red :: _ =>
      match red.cur with
      | none => s
      | some r =>
        if s.getB ⟨cfgBase + 0x100 + 8 * red.part, 1, 1⟩ && !r.closeSeen then
          if r.posted then s
          else
            let e := s.postRequest red.part 4 (toLE 2 red.id ++ toLE 1 r.num ++ toLE 1 0 ++ toLE 4 r.openFrags.length)
            e.1.updCur red (fun r => { r with posted := true })
        else s.closeFrag red.part red.id frag true
    | [] => s)

/-! ### The end of fragments and rounds -/

/-- A round is over: the next one, if started, is served. -/
def State.endRound (s : State) (red : RedState) (num : Nat) : State :=
  match s.redOf red.part red.id with
  | some x => (s.putRed { x with cur := x.next, next := none, last := some (BitVec.ofNat 8 num) }).settleStats red.part red.id
  | none => s

/-- A round of an update job's statistics is over: what it gave (R481). -/
def State.statsDone (s : State) (job : Nat) (ok : Bool) (r : RedRound) : State :=
  { s with cellar := { s.cellar with jobs := mapWhere s.cellar.jobs (fun j => j.id == job) (fun j =>
      { j with roundDone := true, statsBad := j.statsBad || !ok || r.excluded, nonfinite := r.nonfinite, count := BitVec.ofNat 32 r.count0 }) } }

/-- A round is complete when every fragment has left WRITING (R451, R514). -/
def State.roundDone (s : State) (red : RedState) (r : RedRound) : State :=
  let s := s.endRound red r.num
  match r.owner with
  | .cmd src c => s.complete src c true cmOk r.nonzero
  | .update j => s.statsDone j true r

/-- Move the base of a round past its complete fragments. -/
def RedRound.advance (r : RedRound) (fuel : Nat) : RedRound :=
  match fuel with
  | 0 => r
  | k + 1 => if (mget {} r.frags r.base).st = .done then ({ r with frags := mdel r.frags r.base, base := r.base + 1 }).advance k else r

/-- RESULT_WRITE_ACK (R451): the writes of a fragment are acknowledged, and it is complete. -/
def execResultWriteAck (id : BitVec 12) (frag : Nat) (s : State) : Res :=
  let ready (red : RedState) : Bool :=
    match red.cur with
    | some r => (r.frag frag).st == .writing && (r.frag frag).held.isNone
    | none => false
  .next (match (s.reds.filter (fun r => r.id == id.toNat && ready r)) with
    | red :: _ =>
      match red.cur with
      | none => s
      | some r =>
        let x := r.frag frag
        let st := match x.result with | some z => z.2.1 | none => 0
        let cnt := match x.result with | some z => z.1 | none => 0
        let r := { r with
          nonzero := r.nonzero + b2n (st != 0), excluded := r.excluded || bit st.toNat 5, nonfinite := r.nonfinite || bit st.toNat 2
          count0 := if frag = 0 then cnt else r.count0 }
        let r := (r.putFrag frag { st := .done }).advance (red.w + 1)
        if r.base ≥ r.count then s.roundDone red r else (s.putRed { red with cur := some r }).settleStats red.part red.id
    | [] => s)

/-! ### Fault service (R456) -/

/-- A held local read is tried again, or left out. -/
def State.contribSettle (s : State) (part id f i : Nat) (retry : Bool) : State :=
  match s.redOf part id with
  | none => s
  | some red =>
    match red.cur with
    | none => s
    | some r =>
      if !red.canRead f i then s
      else if retry then s.localRead red r f i
      else if (r.frag f).st = .opened then (s.dropLocal red r f i).settleFrag part id f
      else s.exclCount.updCur red (fun r => let x := r.frag f; r.putFrag f { x with locals := x.locals ++ [i] })

/-- The writes of an ended round's fragments go on to their end (R509). -/
def State.writeEnding (s : State) (red : RedState) (f : Nat) : State :=
  forEach red.ending s (fun s r =>
    match (r.frag f).result with
    | some (count, status, bs) =>
      if (r.frag f).held.isNone then s
      else
        let a := s.vWrite redUnit r.ctx red.part (r.dst + 64 * f * redSize r.outFmt) bs noCore none
        (a.st.vWrite redUnit r.ctx red.part (r.cnt + 8 * f) (toLE 4 count ++ toLE 1 status.toNat ++ toLE 3 0) noCore none).st
    | none => s)

/-- A held result write is tried again; one that fails for good ends the round (R456). -/
def State.resultSettle (s : State) (part id f : Nat) (retry : Bool) : State :=
  let s := match s.redOf part (id + 4096) with | some gone => if retry then s.writeEnding gone f else s | none => s
  match s.redOf part id with
  | none => s
  | some red =>
    match red.cur with
    | none => if retry then s.writeEnding red f else s
    | some r =>
      if (r.frag f).held.isNone then (if retry then s.writeEnding red f else s)
      else if retry then
        let red := { red with cur := some (r.putFrag f { r.frag f with held := none }) }
        (s.putRed red).writeFrag red f
      else
        let s := (s.dropWaiters (fun w => match w with | .result p i _ => p == part && i == id | .contrib p i _ _ => p == part && i == id | _ => false)).endRound red r.num
        match r.owner with
        | .cmd src c => s.complete src c true 0x12 (r.nonzero + f * 2 ^ 32)
        | .update j => s.statsDone j false r

/-! ### REDUCE_CONTRIB and REDUCE_RESULT -/

/-- The number of the round after those that a reduction knows. -/
def RedState.nextNum (red : RedState) : Option Nat :=
  match red.next, red.cur, red.last with
  | some n, _, _ => some n.num
  | none, some r, _ => some ((r.num + 1) % 256)
  | none, none, some l => some ((l.toNat + 1) % 256)
  | none, none, none => none

/-- A contribution waits in its buffer: its fragment lies beyond the window, or its round is the next (R452, R454). -/
def State.contribWaits (s : State) (n : Nat) (h : Hdr) : Bool :=
  match s.jobPart n h with
  | none => false
  | some p =>
    match s.redOf p (rdId h) with
    | none => false
    | some red =>
      match red.cur with
      | some r => if r.num = rdRound h then decide (rdFrag h ≥ r.base + red.w) && decide (rdFrag h < r.count) else red.nextNum == some (rdRound h)
      | none => red.nextNum == some (rdRound h)

/-- The elements of a contribution's message. -/
def contribEls (h : Hdr) (pl : List Byte) : List AccEl :=
  if rdEnc h then (upTo (rdN h)).map (fun i => accOfField (rdW h) (rdLsb h) (rdField (rdW h) pl i))
  else (unpackRun (rdFmt h) (rdN h) pl).map (fun c => accOf (decodeEl (rdFmt h) c 127))

/-- A contribution that the current round takes from a child port. -/
def State.takeContrib (s : State) (n : Nat) (h : Hdr) (pl : List Byte) (red : RedState) (r : RedRound) : State :=
  let f := rdFrag h
  let first := rdFirst h
  let x := r.frag f
  let cover := (2 ^ rdN h - 1) * 2 ^ first
  let old := mget 0 x.children n
  let put (s : State) (x : Frag) : State :=
    (s.updCur red (fun r =>
      ({ r with contributed := if r.contributed.contains n then r.contributed else r.contributed ++ [n] } : RedRound).putFrag f
        { x with children := mset 0 x.children n (old ||| cover) })).settleFrag red.part red.id f
  if f ≥ r.count ∨ rdNf h ≠ r.nf f ∨ rdFmt h ≠ r.inFmt then s.msgViolate n vMalformed h
  else if x.st ≠ .free ∧ x.st ≠ .opened then
    let z := s.lateArrival red r f first (contribEls h pl) (if old = 0 then rdCount h else 0) (BitVec.ofNat 8 (rdStat h))
    if z.2 then z.1 else z.1.answer n h msRoundClosed [] false
  else if old &&& cover ≠ 0 then s.msgViolate n vRoundClosed h
  else if hPoison h then put s.exclCount (x.add first [] 0 32)
  else put s (x.add first (contribEls h pl) (if old = 0 then rdCount h else 0) (BitVec.ofNat 8 (rdStat h)))

/-- REDUCE_CONTRIB (R428, R448, R449, R451-R454, R456). -/
def execReduceContrib (p : Fin 18) (h : Hdr) (pl : List Byte) (s : State) : Res :=
  let n := p.val
  s.onMsg n h pl (hType h == tContrib && !hRsp h && (contribBad h pl || !s.contribWaits n h)) (fun s part =>
    match s.redOf part (rdId h) with
    | none => s.msgViolate n vUnknownType h
    | some red =>
      match red.cur with
      | none => s.answer n h msRoundClosed [] false
      | some r =>
        if !bit r.children n then s.msgViolate n vUnknownType h
        else if r.num ≠ rdRound h then s.answer n h msRoundClosed [] false
        else s.takeContrib n h pl red r)

/-- REDUCE_RESULT (R428, R450, R451): a result that comes before its fragment has closed is kept for it (log entry 39). -/
def execReduceResult (p : Fin 18) (h : Hdr) (pl : List Byte) (s : State) : Res :=
  let n := p.val
  s.onMsg n h pl (hType h == tResult && !hRsp h) (fun s part =>
    match s.redOf part (rdId h) with
    | none => s.msgViolate n vRoundClosed h
    | some red =>
      match red.cur with
      | none => s.msgViolate n vRoundClosed h
      | some r =>
        let f := rdFrag h
        let x := r.frag f
        let nf := bits (hC h) 8 7
        let res := (rdCount h, BitVec.ofNat 8 (hC h), pl.take (packedLen (rdFmt h) nf))
        if r.num ≠ rdRound h ∨ r.root = true ∨ f ≥ r.count then s.msgViolate n vRoundClosed h
        else if rdFmt h ≠ r.outFmt ∨ nf ≠ r.nf f then s.msgViolate n vMalformed h
        else if x.st = .closed then s.startWrite part red.id f res
        else if (x.st = .free ∨ x.st = .opened) ∧ x.result = none then
          s.updCur red (fun r => r.putFrag f { x with result := some res })
        else s.msgViolate n vRoundClosed h)

/-- A fragment may be reported hung. -/
def RedState.canHang (red : RedState) (f : Nat) : Bool :=
  match red.cur with
  | some r => r.compat && (r.frag f).st == .opened && !(r.frag f).hung
  | none => false

/-- REDUCTION_HANG (R460): raised once for a fragment, with a threshold set. -/
def execReductionHang (id : BitVec 12) (frag : Nat) (s : State) : Res :=
  .next (match (s.reds.filter (fun r => r.id == id.toNat && r.canHang frag)) with
    | red :: _ =>
      if s.getF ⟨redBase, 16, 16⟩ = 0 then s
      else (s.updCur red (fun r => r.putFrag frag { r.frag frag with hung := true })).raiseM 19
    | [] => s)

/-! ### REDJOB and REDCTL (R444, R447, R452, R455, R509) -/

/-- A record breaks R444 or R447, or (by w) names another window than the configured one. -/
def redBad (r : Nat) (w : Option Nat) (stats : Bool) : Bool :=
  let ctl := recB r 0 4
  let up := recB r 5 1
  let sb := recB r 6 1
  let win := recB r 7 1
  let kids := recB r 0x28 4
  let root := bit ctl 14
  decide (ctl ≥ 2 ^ 24) || decide (recB r 4 1 > 64) || (!root && decide (up > 17)) || decide (up ≥ 32) || (decide (sb > 17) && sb != 31)
    || decide (win < 4) || decide (win > 12)
    || decide (recB r 8 4 ≥ 2 ^ 28) || decide (recB r 8 4 = 0) || decide (recB r 0xC 4 ≥ 2 ^ 24)
    || decide (recB r 0x10 8 ≥ 2 ^ 48) || decide (recB r 0x18 8 ≥ 2 ^ 48) || decide (recB r 0x20 8 ≥ 2 ^ 48)
    || decide (kids ≥ 2 ^ 18) || decide (recB r 0x2C 4 ≥ 256) || decide (recB r 0x30 16 ≠ 0)
    || !redFmt (bits ctl 16 4) || !redFmt (bits ctl 20 4) || (!stats && recB r 4 1 == 0 && kids == 0)
    || (bit ctl 12 && recB r 0xC 4 != 0) || (!root && kids != 0)
    || (match w with | some x => x != 2 ^ win | none => false)

/-- A port of a reduction is not ACTIVE, or its partner lacks a cap (R447). -/
def State.redPortBad (s : State) (r : Nat) : Bool :=
  let ctl := recB r 0 4
  let ports := if bit ctl 14 then (upTo 18).filter (fun p => bit (recB r 0x28 4) p) else [recB r 5 1]
  ports.any (fun p => s.pst p != psActive || !bit (s.port p).caps.toNat 0 || (bit ctl 12 && !bit (s.port p).caps.toNat 3))

/-- The uplink that a record names is not bound to the partition. -/
def State.redUpUnbound (s : State) (part r : Nat) : Bool :=
  !bit (recB r 0 4) 14 && !bit (s.reg (portKey (recB r 5 1) + 0x10)).toNat part

/-- Entries reserved by configured reductions: reserved_n of RED_STAT. -/
def redReserved : RF := ⟨redBase + 8, 0, 13⟩

/-- A local contribution list entry: address, slot, backup. -/
def locOf (bs : List Byte) : Nat × Nat × Bool := let r := ofLE bs; (recB r 0 8, recB r 8 2, bit (recB r 0xA 1) 0)

/-- A list entry with a reserved bit set. -/
def locBad (bs : List Byte) : Bool := let r := ofLE bs; decide (recB r 0 8 ≥ 2 ^ 48) || decide (recB r 0xA 1 > 1) || decide (recB r 0xB 5 ≠ 0)

/-- Start a round: as the current one, or the next while one runs; a first one configures the node. -/
def State.startRound (s : State) (part id w : Nat) (r : RedRound) : State :=
  match s.redOf part id with
  | some red => s.putRed (if red.cur.isNone then { red with cur := some r } else { red with next := some r })
  | none =>
    let red : RedState := ⟨part, id, w, some r, none, none, []⟩
    ({ s with reds := s.reds ++ [red] }).addF redReserved w

/-- A new round of a record. -/
def newRound (owner : RedOwner) (ctx r : Nat) (locs : List (Nat × Nat × Bool)) (engines : List Nat) : RedRound :=
  ⟨owner, ctx, BitVec.ofNat 512 r, locs, engines, 0, [], 0, false, false, 0, false, false, []⟩

/-- REDJOB (R444, R447, R452, R509): it waits while its ID serves a round and has the next one started. -/
def execRedjob (src : CmdSrc) (c : Cmd) (s : State) : Res :=
  s.runCmd src c (cmdOp c == 0x21) [(8, 8)] (fun s =>
    let p := s.srcPart src
    if !s.ctxOk (cmdCtx c) p then .done s cmNotPermitted 0
    else
      s.withRecord src c (cmdB c 8 8) 64 (fun s bs =>
        let r := ofLE bs
        let id := recB r 0 4 % 4096
        let red := s.redOf p id
        let w := 2 ^ recB r 7 1
        if redBad r (red.map (·.w)) false then .done s cmBadField 0
        else if s.redUpUnbound p r then .done s cmNotPermitted 0
        else
          s.withRecord src c (recB r 0x20 8) (16 * recB r 4 1) (fun s bs =>
            let es := pieces 16 bs 64
            if es.any locBad then .done s cmBadField 0
            else if s.redPortBad r then .done s cmRedPort 0
            else if red = none ∧ s.getF redReserved + w > 4096 then .done s cmRedFull 0
            else if (match red with | some x => x.cur.isSome && x.next.isSome | none => false) then .hold s
            else .run (s.startRound p id w (newRound (.cmd src c) (cmdCtx c) r (es.map locOf) [])))))

/-- REDCTL_CLOSE (R455, R509). -/
def execRedctlClose (src : CmdSrc) (c : Cmd) (s : State) : Res :=
  s.runCmd src c (cmdOp c == 0x22 && cmdB c 0xA 1 != 1) [(8, 2), (0xA, 1), (0xB, 1)] (fun s =>
    let p := s.srcPart src
    let id := cmdB c 8 2
    if id ≥ 4096 ∨ cmdB c 0xA 1 > 1 then .done s cmBadField 0
    else
      match s.redOf p id with
      | none => .done s cmNotFound 0
      | some red =>
        match red.cur with
        | none => .done s cmNotFound 0
        | some r =>
          if r.num ≠ cmdB c 0xB 1 then .done s cmNotFound 0
          else
            let s := s.updCur red (fun r => { r with closeSeen := true })
            .done (forEach r.openFrags s (fun s f => s.closeFrag p id f true)) cmOk 0)

/-- A round is ended at once: only the writes under way go on. -/
def State.killRound (s : State) (r : RedRound) : State :=
  match r.owner with
  | .cmd src c => s.complete src c true cmEnded r.nonzero
  | .update j => s.statsDone j false r

/-- Unconfigure a reduction (R452, R509). -/
def State.unconfigRed (s : State) (red : RedState) : State :=
  let s := { s with reds := s.reds.filter (fun x => !(x.part == red.part && x.id == red.id)) }
  let s := s.dropWaiters (fun w => match w with | .contrib p i _ _ => p == red.part && i == red.id | _ => false)
  let s := s.putF redReserved (s.getF redReserved - red.w)
  let s := match red.cur with | some r => s.killRound r | none => s
  let s := match red.next with | some r => s.killRound r | none => s
  let held (r : RedRound) : RedRound := { r with frags := r.frags.filter (fun e => e.2.st == .writing && e.2.held.isSome) }
  let rest := red.ending ++ (match red.cur with | some r => if (held r).frags.isEmpty then [] else [held r] | none => [])
  let gone : RedState := ⟨red.part, red.id + 4096, red.w, none, none, none, rest⟩
  if rest.isEmpty then s else { s with reds := s.reds ++ [gone] }

/-- REDCTL_UNCONFIGURE (R452, R509). -/
def execRedctlUnconfigure (src : CmdSrc) (c : Cmd) (s : State) : Res :=
  s.runCmd src c (cmdOp c == 0x22 && cmdB c 0xA 1 == 1) [(8, 2), (0xA, 1), (0xB, 1)] (fun s =>
    let id := cmdB c 8 2
    if id ≥ 4096 then .done s cmBadField 0
    else
      match s.redOf (s.srcPart src) id with
      | none => .done s cmNotFound 0
      | some red => .done (s.unconfigRed red) cmOk 0)

end Sys2Proof.Machine
end

