-- ==== Sys2Proof/Machine/Cellar.lean ====
section
/-! DEFINITION. The cellar engines and the parameter update (R471-R494). -/

namespace Sys2Proof.Machine

/-! ### Records (R474-R476) -/

/-- Fields of the job record. -/
def UpdJob.f (j : UpdJob) (a n : Nat) : Nat := recB j.rcd.toNat a n
def UpdJob.statsEn (j : UpdJob) : Bool := bit (j.f 0 4) 0
def UpdJob.skipNf (j : UpdJob) : Bool := bit (j.f 0 4) 1
def UpdJob.cont (j : UpdJob) : Bool := bit (j.f 0 4) 2
def UpdJob.nent (j : UpdJob) : Nat := j.f 4 2
def UpdJob.prog (j : UpdJob) : Nat := j.f 0x38 8
/-- Address of element i of the statistics (R481). -/
def UpdJob.statVa (j : UpdJob) (i : Nat) : Nat := recB j.red.toNat 0x10 8 + 4 * i

/-- A layer-table entry as a number. -/
abbrev Entry := Nat

/-- Entry i of a job. -/
def UpdJob.entry (j : UpdJob) (i : Nat) : Entry := (nth 0 j.entries i).toNat

def entRule (e : Entry) : Nat := bits e 0 2
def entFrozen (e : Entry) : Bool := bit e 2
def entMen (e : Entry) : Bool := bit e 3
def entCustom (e : Entry) : Bool := bit e 4
def entCe (e : Entry) : Nat := recB e 1 1 % 16
def entHset (e : Entry) : Nat := recB e 2 1 % 64
def entFmt (e : Entry) : Nat := recB e 3 1 % 16
/-- The byte that describes copy A (k = 0) or B (k = 1). -/
def entCopy (e : Entry) (k : Nat) : Nat := recB e (4 + k) 1
def entStream (e : Entry) (k : Nat) : Nat := recB e 6 2 ^^^ (if k = 0 then 0 else 0x8000)
def entNr (e : Entry) : Nat := recB e 8 4
def entCols (e : Entry) : Nat := recB e 0xC 4
def entRows (e : Entry) : Nat := recB e 0x10 4
def entRow0 (e : Entry) : Nat := recB e 0x14 4
def entCstat (e : Entry) : Nat := recB e 0x18 4
def entRstat (e : Entry) : Nat := recB e 0x1C 4
/-- The eight-byte address at an offset of an entry. -/
def entVa (e : Entry) (o : Nat) : Nat := recB e o 8
def entGoff (e : Entry) : Nat := recB e 0x70 4
def entCbLd (e : Entry) : Nat := recB e 0x74 4

/-- The binary32 value of a code rounded once from an exact value. -/
def r32 (v : Val) : Val := f32 (rne32 v)

/-- A binary32 code is finite. -/
def fin32 (x : Nat) : Bool := match f32 x with | .fin _ _ _ => true | _ => false

/-- A whole number as a value. -/
def natVal (n : Nat) : Val := .fin false n 0

/-- One. -/
def one32 : Val := natVal 1

/-- The exact power of a finite value. -/
def valPow (v : Val) (t : Nat) : Val :=
  match v with
  | .fin neg m e => .fin (neg && t % 2 == 1) (m ^ t) (e * t)
  | x => x

/-- A hyper-parameter set with the constants of R475. -/
structure Hyper where
  lr : Val
  b1 : Val
  b2 : Val
  eps : Val
  eps1 : Val
  k : Val
  a1 : Val
  a2 : Val
  bc1 : Val
  bc2 : Val

/-- Hyper-parameter set i of a job with its constants, each the exact value rounded once (R475). -/
def UpdJob.hyper (j : UpdJob) (i : Nat) : Hyper :=
  let h := (nth 0 j.hsets i).toNat
  let v (a : Nat) : Val := f32 (recB h a 4)
  let t := j.f 8 4
  let less (x : Val) : Val := r32 (Val.add one32 x.opp)
  ⟨v 0, v 4, v 8, v 0xC, v 0x14, less (Val.mul (v 0) (v 0x10)), less (v 4), less (v 8), less (valPow (v 4) t), less (valPow (v 8) t)⟩

/-! ### Checks (R478) -/

def ujSkipped : Nat := 1
def ujStatsFail : Nat := 2
def ujXlate : Nat := 3
def ujPoison : Nat := 4
def ujPlacement : Nat := 5
def ujStopped : Nat := 6
def ujTable : Nat := 7

/-- The progress area's address is a legal one. -/
def progOk (r : Nat) : Bool := decide (recB r 0x38 8 < 2 ^ 48) && recB r 0x38 8 % 64 == 0

/-- The job record breaks a rule of R474. -/
def jobBad (r : Nat) : Bool :=
  let mx := recB r 0xC 4
  let gs := recB r 0x10 4
  decide (recB r 0 4 ≥ 8) || decide (recB r 4 2 = 0) || decide (recB r 4 2 > 4096) || decide (recB r 6 1 = 0) || decide (recB r 6 1 > 64)
    || decide (recB r 7 1 ≠ 0) || decide (recB r 8 4 = 0) || !fin32 mx || (f32 mx).neg && !(f32 mx).isZero
    || !fin32 gs || (f32 gs).isZero || decide (recB r 0x14 4 ≠ 0)
    || decide (recB r 0x18 8 ≥ 2 ^ 48) || decide (recB r 0x18 8 % 128 ≠ 0) || decide (recB r 0x20 8 ≥ 2 ^ 48) || decide (recB r 0x20 8 % 32 ≠ 0)
    || (bit (recB r 0 4) 0 && (decide (recB r 0x28 8 ≥ 2 ^ 48) || decide (recB r 0x28 8 % 64 ≠ 0))) || !progOk r
    || (!bit (recB r 0 4) 0 && !(f32 mx).isZero)

/-- A hyper-parameter set breaks a rule of R475. -/
def hsetBad (h : Nat) : Bool :=
  let v (i : Nat) : Nat := recB h (4 * i) 4
  !(upTo 6).all (fun i => fin32 (v i)) || (upTo 6).any (fun i => (f32 (v i)).neg && !(f32 (v i)).isZero)
    || !Val.lt (f32 (v 1)) one32 || !Val.lt (f32 (v 2)) one32 || decide (recB h 0x18 8 ≠ 0)

/-- The formats a copy may have (R478). -/
def copyFmts : List Nat := [0x0, 0x2, 0x3, 0x4, 0x5, 0x6, 0x7, 0x9, 0xA]

/-- A copy's byte breaks a rule. -/
def copyBad (b : Nat) : Bool :=
  bit b 7 || (bit b 4 && (!copyFmts.contains (b % 16) || (bit b 5 && bit b 6 && fmtMx (b % 16))))

/-- An entry breaks a rule of R476 or R478. -/
def State.entryBad (s : State) (r slen : Nat) (hsets : List (BitVec 256)) (part : Nat) (e : Entry) : Bool :=
  let nr := entNr e
  let b := entCopy e 1
  decide (recB e 0 1 ≥ 32) || decide (recB e 1 1 > 11) || !s.goodStacks.contains (recB e 1 1)
    || decide (recB e 2 1 ≥ recB r 6 1) || !([5, 9, 0xB].contains (recB e 3 1)) || copyBad (entCopy e 0) || copyBad b
    || decide (nr = 0) || decide (nr ≥ 2 ^ 24) || decide (entCols e = 0) || decide (entCols e ≥ 2 ^ 24)
    || decide (entRows e ≥ 2 ^ 24) || decide (entRow0 e ≥ 2 ^ 24) || decide (entCstat e ≥ 2 ^ 24) || decide (entRstat e ≥ 2 ^ 24)
    || [0x20, 0x28, 0x30, 0x38, 0x40, 0x48, 0x50, 0x58, 0x60, 0x68].any (fun o => decide (entVa e o ≥ 2 ^ 48))
    || decide (recB e 0x78 8 ≠ 0)
    || decide (entRow0 e + nr > entRows e) || decide (nr * entCols e > 2 ^ 32)
    || (bit b 4 && fmtMx (b % 16) && (entRow0 e % 32 != 0 || (nr % 32 != 0 && entRow0 e + nr != entRows e)))
    || (entRule e == 3 && (!bit (recB r 0 4) 0
        || !Val.lt (natVal 0) (f32 (recB (nth 0 hsets (entHset e)).toNat 0x14 4))
        || decide (entCstat e = 0) || decide (entRstat e = 0)
        || decide (entCstat e + entCols e > slen) || decide (entRstat e + nr > slen)))
    || (entCustom e && !s.getB ⟨cfgBase + 0x100 + 8 * part, 4, 1⟩)

/-- The statistics reduction record breaks a rule of R478 or R447. -/
def statsRedBad (x : Nat) (w : Option Nat) : Bool :=
  let ctl := recB x 0 4
  decide (bits ctl 16 4 ≠ 0xB) || decide (bits ctl 20 4 ≠ 0xB) || bit ctl 12 || bit ctl 13 || decide (recB x 0xC 4 ≠ 0)
    || decide (recB x 4 1 ≠ 0) || decide (recB x 0x20 8 ≠ 0) || decide (recB x 8 4 = 0) || decide (recB x 8 4 > 262144) || redBad x w true

/-! ### The progress area and a job's end (R490) -/

/-- Write at an address of a partition's context by the junction die; a failed write is lost with its record open. -/
def State.progWrite (s : State) (ctx part va : Nat) (bs : List Byte) : State := (s.vWrite (frontUnit part) ctx part va bs noCore none).st

/-- The progress area's bytes. -/
def progBytes (status pass flags engine : Nat) (count norm clip : Word32) (pos : Nat → Nat) (nf : Nat) : List Byte :=
  [BitVec.ofNat 8 status, BitVec.ofNat 8 pass, BitVec.ofNat 8 flags, BitVec.ofNat 8 engine]
    ++ toLE 4 count.toNat ++ toLE 4 norm.toNat ++ toLE 4 clip.toNat ++ (upTo 12).flatMap (fun i => toLE 8 (pos i))
    ++ toLE 4 (min nf (2 ^ 32 - 1)) ++ List.replicate 12 0

/-- The engines that have an entry in a job. -/
def UpdJob.engines (j : UpdJob) : List Nat := (upTo 12).filter (fun e => j.entries.any (fun x => entCe x.toNat == e))

/-- The first entry of an engine in a job, from an entry on. -/
def UpdJob.entryFrom (j : UpdJob) (e i : Nat) : Option Nat :=
  (upTo j.entries.length).find? (fun k => decide (i ≤ k) && entCe (j.entry k) == e)

/-- The position of an engine in the progress area (R490): none of an engine that has finished or has no entry. -/
def State.jobPos (s : State) (j : UpdJob) (e : Nat) : Nat :=
  if !j.engines.contains e || j.finished.contains e then 0
  else
    let c := s.ce (16 * e + j.part)
    let at_ : Nat × Nat :=
      if c.job = some j.id ∧ (c.phase = .pass2 ∨ c.phase = .pass1) then (c.entry, c.chunk)
      else (mfind j.starts e).getD ((j.entryFrom e 0).getD 0, 0)
    at_.1 % 4096 + 4096 + at_.2 % 2 ^ 32 * 2 ^ 16

/-- Write a job's progress area. -/
def State.writeProg (s : State) (j : UpdJob) (status : Nat) : State :=
  s.progWrite j.ctx j.part j.prog
    (progBytes status j.pass (b2n j.nonfinite + 2 * b2n j.custom) j.engine j.count j.norm j.clip (s.jobPos j) j.nfOut)

/-- A job by number. -/
def State.jobNo (s : State) (id : Nat) : Option UpdJob := s.cellar.jobs.find? (fun j => j.id == id)

/-- Replace a job. -/
def State.putJob (s : State) (j : UpdJob) : State :=
  { s with cellar := { s.cellar with jobs := mapWhere s.cellar.jobs (fun x => x.id == j.id) (fun _ => j) } }

/-- The code of a phase in CEL_STAT. -/
def CePhase.code (p : CePhase) : Nat :=
  match p with
  | .idle => 0
  | .clean => 1
  | .pass1 => 2
  | .stats => 3
  | .pass2 => 4

/-- The partition whose turn it is at an engine. -/
def State.turnOf (s : State) (e : Nat) : Nat := (mget (16, 0) s.cellar.turn e).1

/-- Show an engine in CEL_STAT (R493). -/
def State.showCe (s : State) (e : Nat) : State :=
  let p := s.turnOf e
  let c := if p < 16 then s.ce (16 * e + p) else {}
  let v := c.phase.code + (if c.job.isSome then p % 16 * 8 + b2n c.held.isSome * 128 + c.entry % 4096 * 256 + c.chunk % 2 ^ 32 * 2 ^ 20 else 0)
  s.setReg (celBase e) (BitVec.ofNat 64 v)

/-- Give an engine the next job of a partition that has work for it (R473): first its stack is cleaned (R484). -/
def State.startCe (s : State) (e p : Nat) : State :=
  if (s.ce (16 * e + p)).job.isSome then s
  else
    match s.cellar.jobs.find? (fun j => j.part == p && j.engines.contains e && !j.finished.contains e) with
    | none => s
    | some j => (s.setCe (16 * e + p) { job := some j.id, phase := .clean }).showCe e

/-- Free the engines that serve a job, and let the next jobs start. -/
def State.freeCes (s : State) (j : UpdJob) : State :=
  forEach j.engines s (fun s e =>
    let k := 16 * e + j.part
    let s := s.dropWaiters (fun w => match w with | .chunk x => x == k && (s.ce k).job == some j.id | _ => false)
    let s := if (s.ce k).job = some j.id then (s.setCe k {}).showCe e else s
    s.startCe e j.part)

/-- A job ends (R484, R487, R490): its progress area is written, its command completes, CEL_ERR counts a job not OK (R494). -/
def State.endJob (s : State) (j : UpdJob) (status : Nat) : State :=
  let s := s.writeProg j status
  let s := { s with cellar := { s.cellar with jobs := s.cellar.jobs.filter (fun x => x.id != j.id) } }
  let s := if status = 0 then s.complete j.src j.cmd true cmOk 0 else s.complete j.src j.cmd true cmUpdateFail status
  let s := if status = 0 then s
    else forEach j.engines s (fun s e =>
      let k := celBase e + 8
      ((((s.putF ⟨k, 0, 8⟩ status).putF ⟨k, 8, 4⟩ j.part).addF ⟨k, 16, 16⟩ 1).putB ⟨k, 32, 1⟩ true).countSet (e / 3) (11 + e % 3))
  s.freeCes j

/-! ### Statistics (R480, R481) -/

/-- Engines' partial sums at a fragment: elements added, one contribution each, the excluded bit of a stopped engine. -/
def Frag.addEngines (x : Frag) (es : List Nat) (els : List (Nat × AccEl)) (excl : Bool) : Frag :=
  { x with
    els := els.foldl (fun m p => mset {} m p.1 ((mget {} m p.1).plus p.2)) x.els
    count := x.count + es.length
    status := if excl then x.status ||| 32 else x.status
    engines := x.engines ++ es }

/-- An engine sends its partial sums for every fragment (R480); the engines without an entry send zeros with the first of them. -/
def State.statsPut (s : State) (j : UpdJob) (e : Nat) (sums : SMap AccEl) (excl : Bool) : State :=
  let id := recB j.red.toNat 0 4 % 4096
  let sent := sums.filter (fun p => p.2.v != 0 || p.2.nan || p.2.pinf || p.2.ninf)
  let upd (r : RedRound) : RedRound :=
    if r.owner ≠ .update j.id then r
    else
      let first := (r.frag 0).engines.isEmpty
      let es := e :: (if first then r.engines.filter (fun x => !j.engines.contains x) else [])
      (upTo r.count).foldl (fun r f =>
        let els := (sent.filter (fun p => p.1 / 64 == f)).map (fun p => (p.1 % 64, p.2))
        r.putFrag f ((r.frag f).addEngines es els excl)) r
  match s.redOf j.part id with
  | none => s
  | some red => (s.putRed { red with cur := red.cur.map upd, next := red.next.map upd }).settleStats j.part id

/-! ### Direct and other accesses of an engine (R471, R477) -/

/-- Bytes of a physical run at the controllers. -/
def State.ctlRun (s : State) (pa n fuel : Nat) : List Byte × Bool :=
  match fuel with
  | 0 => ([], false)
  | k + 1 =>
    if n = 0 then ([], false)
    else
      let m := min n (128 - pa % 128)
      let d := s.ctlRead (pa / 128)
      let r := s.ctlRun (pa + m) (n - m) k
      ((d.1.drop (pa % 128)).take m ++ r.1, d.2 || r.2)

/-- Write a physical run at the controllers. -/
def State.ctlPut (s : State) (pa : Nat) (bs : List Byte) (fuel : Nat) : State :=
  match fuel with
  | 0 => s
  | k + 1 =>
    if bs.isEmpty then s
    else
      let m := min bs.length (128 - pa % 128)
      (s.ctlWrite (pa / 128) (placeAt (pa % 128) (bs.take m)) (enRange (pa % 128) m) false).ctlPut (pa + m) (bs.drop m) k

/-- A cellar engine as a unit. -/
def ceUnit (e : Nat) : UnitId := .ce (Fin.ofNat 12 e)

/-- Read at an address that phase 1 has translated: directly, or through the home store rooms. -/
def State.ceRead (s : State) (e ctx part va n : Nat) (direct : Bool) : LineRes :=
  let r := s.xlRun (ceUnit e) ctx part va n .read
  if direct then
    let d := r.segs.foldl (fun a g => let x := r.st.ctlRun g.pa g.len (g.len / 128 + 2); (a.1 ++ x.1, a.2 || x.2)) (([] : List Byte), false)
    ⟨r.st, d.1, d.2⟩
  else r.st.readSegs part r.segs

/-- Write at an address that phase 1 has translated. -/
def State.ceWrite (s : State) (e ctx part va : Nat) (bs : List Byte) (direct : Bool) : State :=
  let r := s.xlRun (ceUnit e) ctx part va bs.length .write
  if direct then
    (r.segs.foldl (fun (a : State × List Byte) g => (a.1.ctlPut g.pa (a.2.take g.len) (g.len / 128 + 2), a.2.drop g.len)) (r.st, bs)).1
  else r.st.writeSegs part noCore r.segs bs

/-- What a chunk touches: address, bytes, whether it is written, whether it lies on the engine's stack. -/
structure Area where
  va : Nat
  len : Nat
  wr : Bool
  direct : Bool
  deriving DecidableEq, Repr

/-- The outcome of a chunk's phase 1 (R486, R487). -/
inductive Phase1 where
  | ok
  | held (id : Word32)
  | placement
  deriving DecidableEq, Repr

/-- Translate every page of a chunk, in the order of its areas. -/
def State.phase1 (s : State) (e ctx part : Nat) (w : Waiter) (l : List Area) : State × Phase1 :=
  match l with
  | [] => (s, .ok)
  | a :: rest =>
    let acc : Access := if a.wr then .write else .read
    let r := s.xlRun (ceUnit e) ctx part a.va a.len acc
    match r.bad with
    | some (va, x) => let f := r.st.openFault (ceUnit e) ctx part va acc x (some w); (f.1, .held f.2)
    | none =>
      let here (g : Seg) : Bool := !g.host && (match r.st.decodePa g.pa with | some pl => pl.stack == e | none => false)
      if a.direct && !r.segs.all here then (r.st, .placement) else r.st.phase1 e ctx part w rest

/-- Read the areas of a chunk in turn: their bytes, and whether one was poisoned. -/
def State.readAreas (s : State) (e ctx part : Nat) (l : List Area) : State × List (List Byte) × Bool :=
  match l with
  | [] => (s, [], false)
  | a :: rest =>
    if a.wr then s.readAreas e ctx part rest
    else
      let r := s.ceRead e ctx part a.va a.len a.direct
      let t := r.st.readAreas e ctx part rest
      (t.1, r.data :: t.2.1, r.poison || t.2.2)

/-! ### Gradients (R479) -/

/-- The rows of a chunk, and its columns: first, count. -/
structure Span where
  i0 : Nat
  m : Nat
  j0 : Nat
  n : Nat
  deriving DecidableEq, Repr

/-- Column blocks of an entry, and its element chunks (R485). -/
def colBlocks (x : Entry) : Nat := cdiv (entCols x) 64
def elChunks (x : Entry) : Nat := cdiv (entNr x) 32 * colBlocks x

/-- The elements of element chunk k. -/
def spanOf (x : Entry) (k : Nat) : Span :=
  let i0 := 32 * (k / colBlocks x)
  let j0 := 64 * (k % colBlocks x)
  ⟨i0, min 32 (entNr x - i0), j0, min 64 (entCols x - j0)⟩

/-- The rows of a chunk. -/
def Span.rows (p : Span) : List Nat := (upTo p.m).map (· + p.i0)

/-- The run of row i of a chunk in an array of w-byte elements. -/
def rowArea (x : Entry) (p : Span) (base w i : Nat) (wr : Bool) : Area := ⟨base + w * (i * entCols x + p.j0), w * p.n, wr, true⟩

/-- First count entry of row i of a chunk, and how many it needs. -/
def cntSpan (x : Entry) (p : Span) (i : Nat) : Nat × Nat :=
  let a := entGoff x + i * entCols x + p.j0
  (a / 64, (a + p.n - 1) / 64 - a / 64 + 1)

/-- The runs of a chunk's gradients and of their counts. -/
def gradAreas (x : Entry) (p : Span) : List Area :=
  let w := fmtBits (entFmt x) / 8
  p.rows.map (fun i => rowArea x p (entVa x 0x28) w i false)
    ++ (if entVa x 0x30 = 0 then [] else p.rows.map (fun i => let c := cntSpan x p i; ⟨entVa x 0x30 + 8 * c.1, 8 * c.2, false, false⟩))

/-- ĝ0 of the elements of row i from the bytes of its gradients and counts (R479). -/
def gradRow (x : Entry) (p : Span) (gscale : Val) (i : Nat) (g cnt : List Byte) : List Val :=
  (unpackRun (entFmt x) p.n g).zipIdx.map (fun z =>
    let k := (entGoff x + i * entCols x + p.j0 + z.2) / 64 - (cntSpan x p i).1
    let n := if entVa x 0x30 = 0 then 1 else ofLE ((cnt.drop (8 * k)).take 4)
    if n = 0 then natVal 0 else r32 (Val.div (Val.mul (decodeEl (entFmt x) z.1 127) gscale) (natVal n)))

/-- ĝ0 of a chunk, by row, from the bytes of its gradient areas. -/
def gradChunk (x : Entry) (p : Span) (gscale : Val) (bs : List (List Byte)) : List (List Val) :=
  p.rows.zipIdx.map (fun z => gradRow x p gscale z.1 (nth [] bs z.2) (nth [] bs (p.m + z.2)))

/-! ### Pass 1 (R480) -/

/-- The square of an element, truncated to a multiple of 2^-149, as an accumulator element. -/
def squareEl (v : Val) : AccEl :=
  match v with
  | .nan => { nan := true, allnz := false }
  | .inf _ => { pinf := true, allnz := false }
  | .fin _ m e =>
    if !Val.lt v.abs (natVal (2 ^ 64)) then { pinf := true, allnz := false }
    else
      let k : Int := 2 * e + 149
      { v := if k ≥ 0 then ((m * m) <<< k.toNat : Nat) else ((m * m) >>> (-k).toNat : Nat), allnz := false }

/-- Add an element to a sum. -/
def addSum (m : SMap AccEl) (i : Nat) (e : AccEl) : SMap AccEl := mset {} m i ((mget {} m i).plus e)

/-- The sums that a chunk feeds (R480): element 0 from entries that are not custom, and the columns and rows of FACTORED ones. -/
def addChunk (x : Entry) (p : Span) (sums : SMap AccEl) (gs : List (List Val)) : SMap AccEl :=
  gs.zipIdx.foldl (fun m row =>
    row.1.zipIdx.foldl (fun m z =>
      let e := squareEl z.1
      let m := if entCustom x then m else addSum m 0 e
      if entRule x = 3 then addSum (addSum m (entCstat x + p.j0 + z.2) e) (entRstat x + p.i0 + row.2) e else m) m) sums

/-! ### The rules (R482) -/

/-- A product and a sum, each rounded once; the fused form. -/
def mul32 (a b : Val) : Val := r32 (Val.mul a b)
def fma32 (a b c : Val) : Val := r32 (Val.add (Val.mul a b) c)

/-- sign() of R482. -/
def sign32 (v : Val) : Val := if v.isNan then .nan else if v.isZero then natVal 0 else .fin v.neg 1 0

/-- What an update gives: the new master weight, m and v. -/
structure Updated where
  w : Val
  m : Val
  v : Val

/-- The update of one element; rc is the rounded product of the row and column factors of a FACTORED entry. -/
def updateEl (rule : Nat) (men : Bool) (h : Hyper) (w m v gh rc : Val) : Updated :=
  let wk := mul32 w h.k
  let fin (u m v : Val) : Updated := ⟨fma32 h.lr.opp u wk, m, v⟩
  if rule = 0 then
    let m := fma32 h.b1 m gh
    fin m m v
  else if rule = 1 then
    let m := fma32 h.b1 m (mul32 h.a1 gh)
    let v := fma32 h.b2 v (mul32 h.a2 (mul32 gh gh))
    let den := r32 (Val.add (r32 (Val.sqrt (r32 (Val.div v h.bc2)))) h.eps)
    fin (r32 (Val.div (r32 (Val.div m h.bc1)) den)) m v
  else if rule = 2 then
    let u := sign32 (fma32 h.b1 m (mul32 h.a1 gh))
    fin u (fma32 h.b2 m (mul32 h.a2 gh)) v
  else
    let u := r32 (Val.div gh (r32 (Val.sqrt rc)))
    if men then
      let m := fma32 h.b1 m (mul32 h.a1 u)
      fin m m v
    else fin u m v

/-- The mean statistic of a row or column with eps1 added, as one exact value rounded once. -/
def meanStat (stat eps1 : Val) (n : Nat) : Val := r32 (Val.div (Val.add stat (Val.mul eps1 (natVal n))) (natVal n))

/-! ### Pass 2: the prologue of a FACTORED entry (R482, R485) -/

/-- Prologue chunks of one kind: 2,048 columns each. -/
def proChunks (x : Entry) : Nat := if entRule x = 3 then cdiv (entCols x) 2048 else 0

/-- Chunks of an entry in a pass: the Cv chunks, the Cn chunks, then the element chunks (log entry 41). -/
def entryChunks (x : Entry) (pass2 : Bool) : Nat := (if pass2 then 2 * proChunks x else 0) + elChunks x

/-- binary32 values of bytes. -/
def vals32 (bs : List Byte) (n : Nat) : List Val := (unpackRun 0xB n bs).map f32

/-- binary32 values as bytes. -/
def bytes32 (vs : List Val) : List Byte := vs.flatMap (fun v => toLE 4 (rne32 v))

/-- What a chunk gives when it may be performed: what it writes (address, bytes, direct), Cn values, and how many written master
weights are not finite. -/
structure ChunkOut where
  writes : List (Nat × List Byte × Bool)
  cn : List (Nat × Word32)
  nf : Nat

/-- The columns of prologue chunk k. -/
def proSpan (x : Entry) (k : Nat) : Nat × Nat := (2048 * k, min 2048 (entCols x - 2048 * k))

/-- A Cv chunk: its areas, and its effect from their bytes. -/
def cvAreas (j : UpdJob) (x : Entry) (k : Nat) : List Area :=
  let c := proSpan x k
  [⟨entVa x 0x40 + 4 * c.1, 4 * c.2, false, true⟩, ⟨j.statVa (entCstat x + c.1), 4 * c.2, false, false⟩,
   ⟨entVa x 0x40 + 4 * c.1, 4 * c.2, true, true⟩]
def cvChunk (h : Hyper) (x : Entry) (k : Nat) (bs : List (List Byte)) : ChunkOut :=
  let c := proSpan x k
  let cv := vals32 (nth [] bs 0) c.2
  let st := vals32 (nth [] bs 1) c.2
  let new := (cv.zip st).map (fun z => fma32 h.b2 z.1 (mul32 h.a2 (meanStat z.2 h.eps1 (entRows x))))
  ⟨[(entVa x 0x40 + 4 * c.1, bytes32 new, true)], [], 0⟩

/-- A Cn chunk: every Cv is read, summed exactly, and Cn of the chunk's columns formed. -/
def cnAreas (x : Entry) : List Area := [⟨entVa x 0x40, 4 * entCols x, false, true⟩]
def cnChunk (x : Entry) (k : Nat) (bs : List (List Byte)) : ChunkOut :=
  let cv := vals32 (nth [] bs 0) (entCols x)
  let sc := r32 (cv.foldl Val.add (natVal 0))
  let c := proSpan x k
  let part := (cv.drop c.1).take c.2
  ⟨[], part.zipIdx.map (fun z => (c.1 + z.2, BitVec.ofNat 32 (rne32 (Val.div (Val.mul z.1 (natVal (entCols x))) sc)))), 0⟩

/-! ### Pass 2: element chunks (R482, R483) -/

/-- The state arrays of an entry that hold one value an element: m, v. -/
def mBase (x : Entry) : Option Nat := if entRule x = 3 then (if entMen x then some (entVa x 0x68) else none) else some (entVa x 0x38)
def vBase (x : Entry) : Option Nat := if entRule x = 1 then some (entVa x 0x40) else none

/-- Bytes of a row of a copy, of its scales, and of its first j columns. -/
def copyRow (fmt cols : Nat) : Nat := packedLen fmt cols

/-- The writes of a copy for a chunk of new master weights (R483). -/
def copyWrites (j : UpdJob) (x : Entry) (p : Span) (k : Nat) (ws : List (List Val)) : List (Nat × List Byte × Bool) :=
  let b := entCopy x k
  let fmt := b % 16
  let rnd (i jj : Nat) : Rnd := if bit b 5 then srRnd (j.f 0x30 8) (entStream x k) (entRow0 x + i) jj false else .rne
  let el := entVa x (if k = 0 then 0x48 else 0x58)
  let sc := entVa x (if k = 0 then 0x50 else 0x60)
  let rowAt (i : Nat) : Nat := el + i * copyRow fmt (entCols x) + copyRow fmt p.j0
  if !bit b 4 then []
  else if k = 0 ∨ fmtMx fmt = false then
    (ws.zipIdx.map (fun z =>
      let i := p.i0 + z.2
      let c := convRun fmt (bit b 6) false (z.1.zipIdx.map (fun v => (v.1, rnd i (p.j0 + v.2))))
      [(rowAt i, packRun fmt c.codes, true)]
        ++ (if c.scales.isEmpty then [] else [(sc + i * cdiv (entCols x) 32 + p.j0 / 32, c.scales.map (BitVec.ofNat 8), true)]))).flatten
  else
    let cols := (upTo p.n).map (fun jj =>
      convRun fmt (bit b 6) false (ws.zipIdx.map (fun z => (nth (natVal 0) z.1 jj, rnd (p.i0 + z.2) (p.j0 + jj)))))
    (upTo p.m).map (fun i => (rowAt (p.i0 + i), packRun fmt (cols.map (fun c => nth 0 c.codes i)), true))
      ++ cols.zipIdx.map (fun z => (sc + (p.j0 + z.2) * entCbLd x + p.i0 / 32, z.1.scales.map (BitVec.ofNat 8), false))

/-- The areas a copy's writes cover, known before the weights are: the same runs. -/
def copyAreas (j : UpdJob) (x : Entry) (p : Span) (k : Nat) : List Area :=
  (copyWrites j x p k (List.replicate p.m (List.replicate p.n (natVal 0)))).map (fun w => ⟨w.1, w.2.1.length, true, w.2.2⟩)

/-- Whether an element chunk is the first of its row block. -/
def firstOfBlock (p : Span) : Bool := p.j0 == 0

/-- The areas of an element chunk of pass 2: inputs first, then what it writes. -/
def elAreas (j : UpdJob) (x : Entry) (p : Span) : List Area :=
  let arr (b : Option Nat) (wr : Bool) : List Area := match b with | some a => p.rows.map (fun i => rowArea x p a 4 i wr) | none => []
  let rv (wr : Bool) : Area := ⟨entVa x 0x38 + 4 * p.i0, 4 * p.m, wr, true⟩
  arr (some (entVa x 0x20)) false ++ arr (mBase x) false ++ arr (vBase x) false
    ++ (if entRule x = 3 then rv false :: (if firstOfBlock p then [⟨j.statVa (entRstat x + p.i0), 4 * p.m, false, false⟩] else []) else [])
    ++ gradAreas x p
    ++ arr (some (entVa x 0x20)) true ++ arr (mBase x) true ++ arr (vBase x) true
    ++ (if entRule x = 3 && firstOfBlock p then [rv true] else [])
    ++ copyAreas j x p 0 ++ copyAreas j x p 1

/-- Rows of binary32 values from the bytes of their runs. -/
def rows32 (p : Span) (bs : List (List Byte)) : List (List Val) := (bs.take p.m).map (fun b => vals32 b p.n)

/-- The effect of an element chunk of pass 2 from the bytes of its inputs. -/
def elChunk (j : UpdJob) (h : Hyper) (x : Entry) (p : Span) (cn : SMap Word32) (bs : List (List Byte)) : ChunkOut :=
  let ws := rows32 p bs
  let bs := bs.drop p.m
  let ms := match mBase x with | some _ => rows32 p bs | none => []
  let bs := match mBase x with | some _ => bs.drop p.m | none => bs
  let vs := match vBase x with | some _ => rows32 p bs | none => []
  let bs := match vBase x with | some _ => bs.drop p.m | none => bs
  let fac := entRule x == 3
  let rv0 := if fac then vals32 (nth [] bs 0) p.m else []
  let bs := if fac then bs.drop 1 else bs
  let rv := if fac && firstOfBlock p then
      (rv0.zip (vals32 (nth [] bs 0) p.m)).map (fun z => fma32 h.b2 z.1 (mul32 h.a2 (meanStat z.2 h.eps1 (entCols x))))
    else rv0
  let bs := if fac && firstOfBlock p then bs.drop 1 else bs
  let gs := gradChunk x p (f32 (j.f 0x10 4)) bs
  let clip := f32 j.clip.toNat
  let z0 := natVal 0
  let out := (upTo p.m).map (fun i => (upTo p.n).map (fun jj =>
    let get (l : List (List Val)) : Val := nth z0 (nth [] l i) jj
    let rc := if fac then mul32 (nth z0 rv i) (f32 (mget 0 cn (p.j0 + jj)).toNat) else z0
    updateEl (entRule x) (entMen x) h (get ws) (get ms) (get vs) (mul32 (get gs) clip) rc))
  let run (b : Option Nat) (f : Updated → Val) : List (Nat × List Byte × Bool) :=
    match b with
    | some a => out.zipIdx.map (fun z => ((rowArea x p a 4 (p.i0 + z.2) true).va, bytes32 (z.1.map f), true))
    | none => []
  let new := out.map (fun r => r.map (·.w))
  let writes := run (some (entVa x 0x20)) (·.w) ++ run (mBase x) (·.m) ++ run (vBase x) (·.v)
    ++ (if fac && firstOfBlock p then [(entVa x 0x38 + 4 * p.i0, bytes32 rv, true)] else [])
    ++ copyWrites j x p 0 new ++ copyWrites j x p 1 new
  let nf := (new.map (fun r => (r.filter (fun w => match w with | .fin _ _ _ => false | _ => true)).length)).sum
  ⟨writes, [], nf⟩

/-! ### Chunks in order (R484-R487) -/

/-- Whether an entry takes part in a pass. -/
def entryRuns (x : Entry) (pass2 : Bool) : Bool := !entFrozen x && !(pass2 && entCustom x)

/-- The first position from (i, k) on at which an engine has a chunk in a pass; fuel counts the entries. -/
def UpdJob.position (j : UpdJob) (e : Nat) (pass2 : Bool) (i k fuel : Nat) : Option (Nat × Nat) :=
  match fuel with
  | 0 => none
  | n + 1 =>
    if i ≥ j.entries.length then none
    else
      let x := j.entry i
      if entCe x = e ∧ entryRuns x pass2 = true ∧ k < entryChunks x pass2 then some (i, k) else j.position e pass2 (i + 1) 0 n

/-- An engine has done all its chunks of pass 2: the job completes with the last of its engines (R484). -/
def State.ceFinish (s : State) (k : Nat) (j : UpdJob) : State :=
  let e := k / 16
  let j := { j with finished := j.finished ++ [e] }
  let s := s.putJob j
  if j.engines.all (fun x => j.finished.contains x) then s.endJob { j with pass := 4 } 0
  else ((s.setCe k {}).showCe e).startCe e j.part

/-- Stand at the next chunk of the pass from a position on, or end the pass (R480, R484). -/
def State.ceSeek (s : State) (k : Nat) (j : UpdJob) (i c : Nat) : State :=
  let e := k / 16
  let x := s.ce k
  let p2 := x.phase == .pass2
  match j.position e p2 i c (j.entries.length + 1) with
  | some q => s.setCe k { x with entry := q.1, chunk := q.2 }
  | none =>
    if p2 then s.ceFinish k j
    else
      let s := s.setCe k { x with phase := .stats, sums := [] }
      let live := j.engines.any (fun z => z != e && !((s.ce (16 * z + j.part)).job == some j.id && (s.ce (16 * z + j.part)).phase == .stats))
      (s.putJob { j with pass := if live then j.pass else max j.pass 2 }).statsPut j e x.sums false

/-- Begin pass 2 at an engine, at its first chunk or where a continued job goes on (R489). -/
def State.cePass2 (s : State) (k : Nat) (j : UpdJob) : State :=
  let e := k / 16
  let go := (mfind j.starts e).getD (0, 0)
  let x := j.entry go.1
  let pc := proChunks x
  let again := pc > 0 && decide (go.2 > pc)
  let s := s.setCe k { s.ce k with phase := .pass2, cn := [], resume := if again then some (max go.2 (2 * pc)) else none }
  s.ceSeek k j go.1 (if again then pc else go.2)

/-- A chunk is done: the next one. -/
def State.ceNext (s : State) (k : Nat) (j : UpdJob) : State :=
  let x := s.ce k
  match x.resume with
  | some c =>
    if x.chunk + 1 = 2 * proChunks (j.entry x.entry) then
      (s.setCe k { x with resume := none }).ceSeek k j x.entry c
    else s.ceSeek k j x.entry (x.chunk + 1)
  | none => s.ceSeek k j x.entry (x.chunk + 1)

/-- A chunk stops its engine (R487): in pass 1 the partial sums go at once with the excluded bit; in pass 2 the job ends. -/
def State.ceStop (s : State) (k : Nat) (j : UpdJob) (status : Nat) : State :=
  let e := k / 16
  let x := s.ce k
  let j := if j.status = 0 then { j with status := status, engine := e } else j
  let s := s.putJob j
  if x.phase = .pass1 then ((s.setCe k { x with phase := .stats, sums := [], held := none }).statsPut j e x.sums true)
  else s.endJob j status

/-- What the chunk in hand touches. -/
def State.chunkAreas (s : State) (k : Nat) (j : UpdJob) : List Area :=
  let x := s.ce k
  let en := j.entry x.entry
  if x.phase = .pass1 then gradAreas en (spanOf en x.chunk)
  else
    let pc := proChunks en
    if x.chunk < pc then cvAreas j en x.chunk
    else if x.chunk < 2 * pc then cnAreas en
    else elAreas j en (spanOf en (x.chunk - 2 * pc))

/-- Perform the chunk in hand (R486): translate, read, compute and write; whole or not at all. -/
def State.doChunk (s : State) (k : Nat) (j : UpdJob) : State :=
  let e := k / 16
  let areas := s.chunkAreas k j
  let t := s.phase1 e j.ctx j.part (.chunk k) areas
  let s := t.1
  match t.2 with
  | .held id => s.setCe k { s.ce k with held := some id }
  | .placement => s.ceStop k j ujPlacement
  | .ok =>
    let r := s.readAreas e j.ctx j.part areas
    let s := r.1
    let bs := r.2.1
    let x := s.ce k
    let en := j.entry x.entry
    if r.2.2 then s.ceStop k j ujPoison
    else if x.phase = .pass1 then
      let p := spanOf en x.chunk
      (s.setCe k { x with sums := addChunk en p x.sums (gradChunk en p (f32 (j.f 0x10 4)) bs) }).ceNext k j
    else
      let pc := proChunks en
      let h := j.hyper (entHset en)
      let o := if x.chunk < pc then cvChunk h en x.chunk bs
        else if x.chunk < 2 * pc then cnChunk en (x.chunk - pc) bs
        else elChunk j h en (spanOf en (x.chunk - 2 * pc)) x.cn bs
      let s := forEach o.writes s (fun s w => s.ceWrite e j.ctx j.part w.1 w.2.1 w.2.2)
      let s := s.setCe k { x with cn := o.cn.foldl (fun m c => mset 0 m c.1 c.2) x.cn }
      let j := { j with nfOut := min (j.nfOut + o.nf) (2 ^ 32 - 1) }
      (s.putJob j).ceNext k j

/-! ### Cleaning and turns -/

/-- CLEAN_INV over every line of a stack in its die's store rooms (R277, R484). -/
def State.stackClean (s : State) (st : Nat) : State :=
  let mine (l : RoomLine) : Bool := match s.decodePa (128 * l.line) with | some p => p.stack == st | none => false
  forEach ((s.rooms.map (·.1)).filter (fun c => c / 120 == st / 3)) s (fun s c =>
    let hit := (s.room c).lines.filter mine
    forEach hit s (fun s l => s.rangeRoom .cleanInv l.line 1 c))

/-- The partitions with a job at an engine. -/
def State.ceParts (s : State) (e : Nat) : List Nat := (upTo 16).filter (fun p => (s.ce (16 * e + p)).job.isSome)

/-- Whose turn it is (R473, R543): the current partition until 16 µs × weight (400 ticks of 25 MHz) have passed, then the next one. -/
def State.ceTurn (s : State) (e : Nat) : State × Option Nat :=
  let t := mget (16, 0) s.cellar.turn e
  let ps := s.ceParts e
  let wgt := mget 0 s.cellar.weights (16 * e + t.1)
  if ps.contains t.1 && ((s.ce (16 * e + t.1)).held.isSome || decide ((s.mtime - t.2).toNat < 400 * wgt)) then (s, some t.1)
  else
    match ps.find? (fun p => decide (p > t.1)), ps with
    | some p, _ => ({ s with cellar := { s.cellar with turn := mset (16, 0) s.cellar.turn e (p, s.mtime) } }, some p)
    | none, p :: _ => ({ s with cellar := { s.cellar with turn := mset (16, 0) s.cellar.turn e (p, s.mtime) } }, some p)
    | none, [] => (s, none)

/-- The job an engine serves for a partition. -/
def State.ceJob (s : State) (k : Nat) : Option UpdJob := match (s.ce k).job with | some id => s.jobNo id | none => none

/-- CELLAR_CHUNK (R473, R484-R487): the engine's next chunk; the first one waits until the write-backs of its stack have landed. -/
def execCellarChunk (s : Fin 12) (st : State) : Res :=
  let e := s.val
  .next (
    let t := st.ceTurn e
    match t.2 with
    | none => st
    | some p =>
      let k := 16 * e + p
      let st := t.1
      match st.ceJob k with
      | none => st
      | some j =>
        let c := st.ce k
        (if c.held.isSome then st
        else
          match c.phase with
          | .clean =>
            let st := st.stackClean e
            if (st.memQ e).any (·.write) then st
            else if j.statsEn && !j.cont then
              let st := (st.setCe k { c with phase := .pass1 }).putJob { j with pass := max j.pass 1 }
              match st.jobNo j.id with | some j => st.ceSeek k j 0 0 | none => st
            else
              let j := { j with pass := 3 }
              (st.putJob j).cePass2 k j
          | .pass1 | .pass2 => st.doChunk k j
          | .idle | .stats => st).showCe e)

/-- A held chunk's fault record is settled (R487): it is tried again with the engine's next chunk, or its engine stops. -/
def State.chunkSettle (s : State) (k : Nat) (retry : Bool) : State :=
  match s.ceJob k with
  | none => s
  | some j =>
    if (s.ce k).held.isNone then s
    else
      let s := s.setCe k { s.ce k with held := none }
      (if retry then s else s.ceStop k j ujXlate).showCe (k / 16)

/-! ### The statistics round's end (R481, R491) -/

/-- Form the norm and the clip factor from S (R481). -/
def clipOf (maxNorm : Nat) (sum : Val) : Word32 × Word32 :=
  let norm := r32 (Val.sqrt sum)
  let mx := f32 maxNorm
  let isFin := match norm with | .fin _ _ _ => true | _ => false
  let c := if mx.isZero || !isFin || !Val.lt mx norm then one32 else r32 (Val.div mx norm)
  (BitVec.ofNat 32 (rne32 norm), BitVec.ofNat 32 (rne32 c))

/-- The round of an engine's job is complete: the job ends, or the engine goes on to pass 2. -/
def State.ceRound (s : State) (k : Nat) (j : UpdJob) : State :=
  let e := k / 16
  if j.statsBad then s.endJob j (if j.status ≠ 0 then j.status else ujStatsFail)
  else if j.nonfinite && j.skipNf then s.endJob j ujSkipped
  else
    let t := s.phase1 e j.ctx j.part (.chunk k) [⟨j.statVa 0, 4, false, false⟩]
    match t.2 with
    | .held id => t.1.setCe k { t.1.ce k with held := some id }
    | .placement => t.1
    | .ok =>
      let r := t.1.ceRead e j.ctx j.part (j.statVa 0) 4 false
      let s := r.st
      let fresh := decide (j.pass < 3)
      if r.poison then s.endJob { j with status := ujPoison, engine := e } ujPoison
      else
        let nc := clipOf (j.f 0xC 4) (f32 (ofLE r.data))
        let custom := j.entries.any (fun x => entCustom x.toNat)
        let j := if fresh then { j with pass := 3, norm := nc.1, clip := nc.2, custom := custom } else j
        let s := s.putJob j
        let s :=
          if fresh && custom then
            let sq := match j.src with | .ring r => r.val | .cadence _ _ => 0
            ((s.writeProg j 0).postRequest j.part 5 (toLE 2 sq ++ toLE 2 (cmdId j.cmd) ++ toLE 4 0 ++ toLE 8 j.prog)).1
          else s
        s.cePass2 k j

/-- CELLAR_STATS_ROUND_DONE (R481): of the lowest-numbered partition whose job waits at the engine for a round that is complete. -/
def execCellarStatsRoundDone (s : Fin 12) (st : State) : Res :=
  let e := s.val
  let ready (p : Nat) : Bool :=
    let c := st.ce (16 * e + p)
    c.phase == .stats && c.held.isNone && (match st.ceJob (16 * e + p) with | some j => j.roundDone | none => false)
  .next (match (upTo 16).find? ready with
    | none => st
    | some p => match st.ceJob (16 * e + p) with | some j => (st.ceRound (16 * e + p) j).showCe e | none => st)

/-! ### UPDJOB and UPDSTOP (R478, R488, R489) -/

/-- A refused job: its progress area records it, and it completes UPDATE_FAIL. -/
def State.jobRefused (s : State) (c : Cmd) (part r status : Nat) : CmdDo :=
  let s := if progOk r then s.progWrite (cmdCtx c) part (recB r 0x38 8) (progBytes status 0 0 0xFF 0 0 0 (fun _ => 0) 0) else s
  .done s cmUpdateFail status

/-- Start a checked job on its engines; prog is the progress area of a continued one. -/
def State.jobStart (s : State) (src : CmdSrc) (c : Cmd) (r red : Nat) (es hs : List (List Byte)) (prog : Nat) : State :=
  let p := s.srcPart src
  let id := s.cellar.nextJob
  let cont := bit (recB r 0 4) 2
  let pos (e : Nat) : Nat := recB prog (0x10 + 8 * e) 8
  let job : UpdJob :=
    { id := id, src := src, cmd := c, part := p, ctx := cmdCtx c, rcd := BitVec.ofNat 512 r, red := BitVec.ofNat 512 red
      entries := es.map (fun b => BitVec.ofNat 1024 (ofLE b)), hsets := hs.map (fun b => BitVec.ofNat 256 (ofLE b))
      roundDone := false, statsBad := false, nonfinite := cont && bit (recB prog 2 1) 0
      count := if cont then BitVec.ofNat 32 (recB prog 4 4) else 0
      norm := if cont then BitVec.ofNat 32 (recB prog 8 4) else 0
      clip := if cont then BitVec.ofNat 32 (recB prog 0xC 4) else 0x3F80_0000
      custom := cont && bit (recB prog 2 1) 1, status := 0, pass := 0, engine := 0xFF
      finished := if cont then (upTo 12).filter (fun e => !bit (pos e) 12) else []
      starts := if cont then ((upTo 12).filter (fun e => bit (pos e) 12)).map (fun e => (e, (bits (pos e) 0 12, bits (pos e) 16 32))) else []
      nfOut := if cont then recB prog 0x70 4 else 0 }
  let s := { s with cellar := { s.cellar with jobs := s.cellar.jobs ++ [job], nextJob := id + 1 } }
  let s :=
    if bit (recB r 0 4) 0 && !cont then
      s.startRound p (recB red 0 4 % 4096) (2 ^ recB red 7 1) (newRound (.update id) (cmdCtx c) red [] s.goodStacks)
    else s
  forEach (job.engines.filter (fun e => !job.finished.contains e)) s (fun s e => s.startCe e p)

/-- UPDJOB with its record, table and sets at hand. -/
def State.jobCheck (s : State) (src : CmdSrc) (c : Cmd) (r : Nat) (es hs : List (List Byte)) (red prog : Nat) : CmdDo :=
  let p := s.srcPart src
  let stats := bit (recB r 0 4) 0
  let cont := bit (recB r 0 4) 2
  let known := s.redOf p (recB red 0 4 % 4096)
  let hsets := hs.map (fun b => BitVec.ofNat 256 (ofLE b))
  let entries := es.map ofLE
  if entries.any (fun e => decide (recB e 1 1 < 12) && mget 0 s.cellar.weights (16 * recB e 1 1 + p) == 0) then .done s cmNotPermitted 0
  else if stats && !cont && s.redUpUnbound p red then .done s cmNotPermitted 0
  else if hsets.any (fun h => hsetBad h.toNat) || (stats && statsRedBad red (if cont then none else known.map (·.w)))
      || entries.any (s.entryBad r (recB red 8 4) hsets p)
      || (cont && !(recB prog 1 1 == 3 && [ujXlate, ujPoison, ujStopped].contains (recB prog 0 1))) then s.jobRefused c p r ujTable
  else if stats && !cont && (s.redPortBad red || (known.isNone && decide (s.getF redReserved + 2 ^ recB red 7 1 > 4096))) then
    s.jobRefused c p r ujStatsFail
  else if stats && !cont && (match known with | some x => x.cur.isSome && x.next.isSome | none => false) then .hold s
  else
    let s := s.jobStart src c r red es hs prog
    match s.cellar.jobs.getLast? with
    | some j =>
      if j.engines.all (fun e => j.finished.contains e) then
        let s := s.writeProg { j with pass := 4 } 0
        .done { s with cellar := { s.cellar with jobs := s.cellar.jobs.filter (fun x => x.id != j.id) } } cmOk 0
      else .run s
    | none => .run s

/-- UPDJOB (R474-R478, R484, R489). -/
def execUpdjob (src : CmdSrc) (c : Cmd) (s : State) : Res :=
  s.runCmd src c (cmdOp c == 0x23) [(8, 8)] (fun s =>
    let p := s.srcPart src
    if !s.ctxOk (cmdCtx c) p then .done s cmNotPermitted 0
    else
      s.withRecord src c (cmdB c 8 8) 64 (fun s bs =>
        let r := ofLE bs
        if jobBad r then s.jobRefused c p r ujTable
        else
          s.withRecord src c (recB r 0x18 8) (128 * recB r 4 2) (fun s tb =>
            s.withRecord src c (recB r 0x20 8) (32 * recB r 6 1) (fun s hb =>
              let es := pieces 128 tb 4096
              let hs := pieces 32 hb 64
              let withProg (s : State) (red : Nat) : CmdDo :=
                if bit (recB r 0 4) 2 then s.withRecord src c (recB r 0x38 8) 128 (fun s pb => s.jobCheck src c r es hs red (ofLE pb))
                else s.jobCheck src c r es hs red 0
              if bit (recB r 0 4) 0 then s.withRecord src c (recB r 0x28 8) 64 (fun s rb => withProg s (ofLE rb)) else withProg s 0))))

/-- Stop a job (R488): every engine stands at a chunk boundary; in pass 1 the sums go with the excluded bit. -/
def State.stopJob (s : State) (j : UpdJob) : State :=
  let s :=
    if !j.statsEn || j.cont then s
    else forEach (j.engines) s (fun s e =>
      let k := 16 * e + j.part
      let c := s.ce k
      if c.job = some j.id ∧ (c.phase = .stats ∨ c.phase = .pass2) then s
      else if j.pass ≥ 2 then s
      else s.statsPut j e (if c.job = some j.id then c.sums else []) true)
  match s.jobNo j.id with
  | some j => s.endJob { j with status := ujStopped } ujStopped
  | none => s

/-- Stop the jobs of a partition that have an entry on an engine of a set. -/
def State.stopJobsOn (s : State) (p : Nat) (es : List Nat) : State :=
  forEach (s.cellar.jobs.filter (fun j => j.part == p && es.any (fun e => j.engines.contains e && !j.finished.contains e))) s
    (fun s j => match s.jobNo j.id with | some j => s.stopJob j | none => s)

/-- UPDSTOP (R488, R512). -/
def execUpdstop (src : CmdSrc) (c : Cmd) (s : State) : Res :=
  s.runCmd src c (cmdOp c == 0x24) [(8, 2), (0xA, 2)] (fun s =>
    let p := s.srcPart src
    let hit (o : OpenCmd) : Bool := srcKey o.src == cmdB c 8 2 && s.srcPart o.src == p && cmdId o.cmd == cmdB c 0xA 2 && cmdOp o.cmd == 0x23
    match s.host.open_.find? hit with
    | none => .done s cmNotFound 0
    | some o =>
      if !o.started then .done (s.complete o.src o.cmd false cmUpdateFail ujStopped) cmOk 0
      else
        match s.cellar.jobs.find? (fun j => j.src == o.src && j.cmd == o.cmd) with
        | some j => .done (s.stopJob j) cmOk 0
        | none => .done s cmNotFound 0)

end Sys2Proof.Machine
end

