-- ==== Sys2Proof/Machine/HostCmds.lean ====
section
/-! DEFINITION. Ring commands that configure barriers, the fabric and ports, and invalidations (R304, R309, R330, R369, R370, R434, R509). -/

namespace Sys2Proof.Machine

/-! ### BARCFG (R369, R370) -/

/-- The participants that a bitmap of 300 bytes names: matrix cores, then vector cores. -/
def barBits (bs : List Byte) : List Nat := let m := ofLE bs; (upTo 2400).filter (fun i => bit m i)

/-- A barrier's round is open at a participant, live or saved, or at a node. -/
def State.barOpen (s : State) (part bid : Nat) : Bool :=
  match s.barCfg part bid with
  | none => false
  | some c =>
    c.cores.any (fun b =>
      let k := coreKey (bitCore b)
      let live := match mget none (s.syncOf k).bars bid with | some x => s.cellPart (k / 5) == part && !x.entries.isEmpty | none => false
      let kept := match s.savedSync (k / 5) part with
        | some x => (match mget none (mget {} x.sync (k % 5)).bars bid with | some y => !y.entries.isEmpty | none => false)
        | none => false
      live || kept)
    || c.nodes.any (fun h => match mget none s.sync.nodes (nodeKey part bid h) with | some e => e.counts.any (fun x => x.2 != 0) | none => false)

/-- Entries in use at the combining node of a half that serves an ID, but for one barrier's own (R371). -/
def State.nodeUse (s : State) (part bid h : Nat) : Nat :=
  (s.sync.nodes.filter (fun e => e.1 % 9 == h && e.1 / 9 % 16 == bid % 16 && e.1 / 9 != barKey part bid && e.2.isSome)).length

/-- Take a barrier's configuration away: its nodes, and its participants' state. -/
def State.barClear (s : State) (part bid : Nat) : State :=
  match s.barCfg part bid with
  | none => s
  | some c =>
    let s := { s with sync := { s.sync with
      cfgs := mdel s.sync.cfgs (barKey part bid)
      nodes := s.sync.nodes.filter (fun e => e.1 / 9 != barKey part bid) } }
    forEach c.cores s (fun s b =>
      let k := coreKey (bitCore b)
      let x := s.syncOf k
      let s := if s.cellPart (k / 5) = part then s.setSync k { x with bars := mdel x.bars bid } else s
      match s.savedSync (k / 5) part with
      | some z => let y := mget {} z.sync (k % 5); s.putSaved { z with sync := mset {} z.sync (k % 5) { y with bars := mdel y.bars bid } }
      | none => s)

/-- Configure a barrier: its nodes expect their children, and every generation starts at 0. -/
def State.barPut (s : State) (part bid : Nat) (c : BarCfg) : State :=
  let s := s.barClear part bid
  let s := { s with sync := { s.sync with cfgs := mset none s.sync.cfgs (barKey part bid) (some c) } }
  forEach c.nodes s (fun s h =>
    { s with sync := { s.sync with nodes := mset none s.sync.nodes (nodeKey part bid h) (some ⟨c.expects h, []⟩) } })

/-- A participant outside the scope, or a count of modules that the scope does not allow (R370). -/
def BarCfg.scopeBad (c : BarCfg) : Bool :=
  let halves := (c.cores.map bitHalf).eraseDups
  (c.scope == 0 && decide (halves.length > 1)) || (c.scope == 1 && decide ((halves.map (· / 2)).eraseDups.length > 1))
    || (if c.scope = 3 then decide (c.modules < 2) || decide (c.modules > 16384) else c.modules != 0)

/-- BARCFG (R369, R370). -/
def execBarcfg (src : CmdSrc) (c : Cmd) (s : State) : Res :=
  s.runCmd src c (cmdOp c == 0x20) [(8, 8)] (fun s =>
    let p := s.srcPart src
    if !s.ctxOk (cmdCtx c) p then .done s cmNotPermitted 0
    else
      s.withRecord src c (cmdB c 8 8) 64 (fun s bs =>
        let r := ofLE bs
        let ctl := recB r 0 4
        let bid := ctl % 1024
        if decide (ctl ≥ 2 ^ 14) || decide (recB r 8 8 ≥ 2 ^ 48) || decide (recB r 0x10 48 ≠ 0) then .done s cmBadField 0
        else if bit ctl 13 then
          (if s.barOpen p bid then .done s cmBarBusy 0 else .done (s.barClear p bid) cmOk 0)
        else
          s.withRecord src c (recB r 8 8) 300 (fun s bm =>
            let cfg : BarCfg := ⟨BitVec.ofNat 2 (ctl / 1024), bit ctl 12, recB r 4 4, barBits bm⟩
            if cfg.cores.isEmpty || cfg.cores.any (fun b => s.cellPart (coreCell (bitCore b)) != p) then .done s cmBarParticipant 0
            else if cfg.scopeBad then .done s cmBarScope 0
            else if cfg.nodes.any (fun h => decide (h < 8) && decide (s.nodeUse p bid h ≥ 128)) then .done s cmBarFull 0
            else if s.barOpen p bid then .done s cmBarBusy 0
            else .done (s.barPut p bid cfg) cmOk 0)))

/-! ### FABCFG (R427, R509) -/

/-- Send a node record on a named port; the module it goes to, which no rule gives, is a free value (log entry 37). -/
def State.sendNode (s : State) (port : Nat) (owner : ReqOwner) (rec_ : List Byte) : State :=
  let tag := s.freeTag s.fabric.nextTag 8192
  let dst := s.freshVal.toNat % 16384
  let h := mkHdr tMgmt 2 dst s.modNum 0 tag.toNat 0 0 1 0 0
  let r : OutReq := ⟨tag, [BitVec.ofNat 14 dst], 16, port, 6, h, rec_, owner, []⟩
  let s := s.tickFree
  let s := { s with fabric := { s.fabric with nextTag := tag + 1, outstanding := s.fabric.outstanding ++ [r] } }
  s.sendMsg ⟨16, 6, [port], toLE 32 h.toNat ++ rec_⟩ false

/-- FABCFG (R509, and R461 for reduction node records): every record of the list goes out; the command completes with the last answer. -/
def execFabcfg (src : CmdSrc) (c : Cmd) (s : State) : Res :=
  s.runCmd src c (cmdOp c == 0x40) [(8, 8), (0x10, 2), (0x12, 1)] (fun s =>
    let p := s.srcPart src
    let n := cmdB c 0x10 2
    let port := cmdB c 0x12 1
    if decide (n = 0) || decide (n > 64) || decide (port > 17) || decide (cmdB c 8 8 ≥ 2 ^ 48) then .done s cmBadField 0
    else if !s.ctxOk (cmdCtx c) p || !bit (s.reg (portKey port + 0x10)).toNat p then .done s cmNotPermitted 0
    else if s.fabric.outstanding.length + n > 8192 then .hold s
    else
      s.withRecord src c (cmdB c 8 8) (32 * n) (fun s bs =>
        .run (forEach ((pieces 32 bs 64).zipIdx) s (fun s z => s.sendNode port (.node src c z.2) z.1))))

/-- A node record has been answered, or not in time: one refused ends the command with its index, the last one accepted with OK. -/
def State.nodeDone (s : State) (r : OutReq) (src : CmdSrc) (c : Cmd) (i : Nat) (ok : Bool) : State :=
  let s := s.endReq r.tag
  let mine (x : OutReq) : Bool := match x.owner with | .node a b _ => a == src && b == c | _ => false
  if !ok then
    ({ s with fabric := { s.fabric with outstanding := s.fabric.outstanding.filter (fun x => !mine x) } }).complete src c true cmFabricRefused i
  else if s.fabric.outstanding.any mine then s
  else s.complete src c true cmOk 0

/-! ### PORTCTL (R404, R431, R434) -/

/-- A PORTCTL command for one action. -/
def State.portctl (s : State) (src : CmdSrc) (c : Cmd) (mine : Bool) (act : State → Nat → State) : Res :=
  s.runCmd src c (cmdOp c == 0x42 && mine) [(8, 1), (9, 1)] (fun s =>
    let n := cmdB c 8 1
    if n > 17 ∨ cmdB c 9 1 > 1 then .done s cmBadField 0
    else if !bit (s.reg (portKey n + 0x10)).toNat (s.srcPart src) then .done s cmNotPermitted 0
    else .done (act s n) cmOk 0)

/-- PORTCTL_UNQUARANTINE. -/
def execPortctlUnquarantine (src : CmdSrc) (c : Cmd) (s : State) : Res :=
  s.portctl src c (cmdB c 9 1 != 1) (fun s n => s.unquarantine n)

/-- PORTCTL_RETRAIN. -/
def execPortctlRetrain (src : CmdSrc) (c : Cmd) (s : State) : Res :=
  s.portctl src c (cmdB c 9 1 == 1) (fun s n => s.toRetrain n 5 0 true)

/-! ### Invalidation (R304, R309, R330) -/

/-- INVAL (R304, R509): it completes with its invalidation; an empty range at once. -/
def execInval (src : CmdSrc) (c : Cmd) (s : State) : Res :=
  s.runCmd src c (cmdOp c == 0x31) [(8, 1), (0x10, 8), (0x18, 8)] (fun s =>
    let p := s.srcPart src
    let scope := cmdB c 8 1
    let va := cmdB c 0x10 8
    let n := cmdB c 0x18 8
    if scope > 2 ∨ va ≥ 2 ^ 48 ∨ n ≥ 2 ^ 36 then .done s cmBadField 0
    else if scope ≠ 0 ∧ s.ctxOk (cmdCtx c) p = false then .done s cmNotPermitted 0
    else if scope = 2 ∧ n = 0 then .done s cmOk 0
    else
      let q : InvReq := ⟨if scope = 0 then none else some (cmdCtx c), if scope = 2 then some (va / 4096, n) else none, some p, some src, c⟩
      .run ((s.queueInv q).putF ⟨mmuBase + 8, 11, 1⟩ 1))

/-- The write of go to MMU_INV for one scope (R330). -/
def State.invGo (s : State) (scope : Nat) : State := (s.putF ⟨mmuBase + 8, 8, 2⟩ scope).mmuInvGo scope (mmuBase + 8) true

/-- INVALIDATE_ALL (R304, R330). -/
def execInvalidateAll (s : State) : Res := .next (s.invGo 0)
/-- INVALIDATE_CONTEXT (R304, R330). -/
def execInvalidateContext (s : State) : Res := .next (s.invGo 1)
/-- INVALIDATE_RANGE (R304, R330). -/
def execInvalidateRange (s : State) : Res := .next (s.invGo 2)

/-- Bind a granule to a partition; 16 leaves it unbound. -/
def State.bindGran (s : State) (g p : Nat) : State := { s with parts := { s.parts with granOf := mset 16 s.parts.granOf g p } }

/-- The granules that a MOVE_MEM names (R532). -/
def moveGrans (c : Cmd) : List Nat := (upTo (bits (cmdB c 0x10 8) 0 13)).map (fun i => bits (cmdB c 0xC 4) 0 13 + i)

/-- The end of a MOVE_MEM (R542): no translation of the old partition is left; the granules are released and bound. -/
def State.memFinish (s : State) (src : CmdSrc) (c : Cmd) : State :=
  let s := forEach (moveGrans c) s (fun s g => s.releaseGib g)
  (forEach (moveGrans c) s (fun s g => s.bindGran g (cmdB c 9 1))).complete src c true cmOk 0

/-- The oldest invalidation completes (R304): no unit holds a covered entry, and its requester is told. -/
def State.invDone (s : State) : State :=
  match s.mmu.invs with
  | [] => s
  | q :: rest =>
    let s := s.dropCached q
    let s := { s with mmu := { s.mmu with invs := rest } }
    let s := (s.putF ⟨mmuBase + 8, 11, 1⟩ (b2n !rest.isEmpty)).putF ⟨mmuBase + 8, 12, 1⟩ 1
    match q.src with
    | some src => if cmdOp q.cmd = 0x60 ∧ cmdB q.cmd 8 1 = 3 then s.memFinish src q.cmd else s.complete src q.cmd true cmOk 0
    | none => s

/-- INVALIDATION_COMPLETE (R304, R330). -/
def execInvalidationComplete (s : State) : Res := .next s.invDone

/-- ATS_INVALIDATE_REQUEST (R309): every covered entry goes, and the Invalidate Completion is returned. -/
def execAtsInvalidateRequest (pasid : Option (BitVec 20)) (page : Nat) (pages : Nat) (s : State) : Res :=
  let pas (x : BitVec 20) : Bool := match pasid with | some p => p == x | none => true
  let hit (a n : Nat) : Bool := decide (a < page + pages) && decide (page < a + n)
  let s := { s with mmu := { s.mmu with
    atc := s.mmu.atc.filter (fun a => !(pas a.pasid && hit a.page 1))
    tlb := s.mmu.tlb.filter (fun t => !(t.host && hit t.ppn t.pages && (match s.ctxEntry t.ctx with | some e => pas e.pasid | none => true))) } }
  .next (s.emit .invCompletion)

end Sys2Proof.Machine
end

