-- ==== Sys2Proof/Machine/Answers.lean ====
section
/-! DEFINITION. What the fabric's responses and their absence do to the module's requests (R424, R425, R428, R466). -/

namespace Sys2Proof.Machine

/-- One who was asked has performed a request. -/
def State.reqGood (s : State) (r : OutReq) (who : BitVec 14) (pl : List Byte) (poison : Bool) : State :=
  match r.owner with
  | .frag e off => (s.fragOk r who e off pl poison).bulkGo e
  | .node src c i => s.nodeDone r src c i true
  | .reply p q => (s.endReq r.tag).replyDone p q true

/-- One who was asked has not performed it. -/
def State.reqBad (s : State) (r : OutReq) (who : BitVec 14) : State :=
  match r.owner with
  | .frag e off => (s.fragFail r who e off).bulkGo e
  | .node src c i => s.nodeDone r src c i false
  | .reply p q => (s.endReq r.tag).replyDone p q false

/-- FABRIC_RESPONSE (R422, R424, R425, R428): a response to a contribution is not a violation and changes nothing. -/
def execFabricResponse (p : Fin 18) (h : Hdr) (pl : List Byte) (s : State) : Res :=
  s.onMsg p.val h pl (hRsp h) (fun s _ =>
    let who := BitVec.ofNat 14 (hSrc h)
    if hType h = tContrib then s
    else
      match s.reqOf (BitVec.ofNat 16 (hTag h)) with
      | none => s.msgViolate p.val vDupCompletion h
      | some r =>
        if !r.members.contains who then s.msgViolate p.val vDupCompletion h
        else if hStatus h = msRetry then s.setReq { r with retryOf := r.retryOf.erase who ++ [who] }
        else if hStatus h = msResume then (if r.retryOf.contains who then s.resend r who else s.msgViolate p.val vDupCompletion h)
        else (if hStatus h = msOk then s.reqGood r who pl (hPoison h) else s.reqBad r who).svcKickAll)

/-- TRANSACTION_TIMEOUT (R425, R466): a request's time has run out; with mcast_to 0 a multicast waits for every answer. -/
def execTransactionTimeout (tag : BitVec 16) (s : State) : Res :=
  .next (match s.reqOf tag with
    | none => s
    | some r =>
      if hType r.hdr = tMcast ∧ s.getF ⟨redBase, 0, 16⟩ = 0 then s
      else (forEach r.members s (fun s m => match s.reqOf tag with | some x => s.reqBad x m | none => s)).svcKickAll)

end Sys2Proof.Machine
end

