-- ==== Sys2Proof/Machine/Audit.lean ====
section
/-! DEFINITION. The audit log (R619, R630, R640, R641). -/

namespace Sys2Proof.Machine

/-- The attic controller's target code. -/
def attic : Nat := 16

/-- Whether a controller of the recovery chain has failed, by its target code. -/
def State.ctlFailed (s : State) (k : Nat) : Bool := mget false s.recovery.failed k

/-- Append a record to the log; a full log first loses its 1,024 oldest records. -/
def State.auditPut (s : State) (r : AuditRec) : State :=
  let old := s.mgmt.audit
  let old := if old.length ≥ 65536 then old.drop 1024 else old
  { s with mgmt := { s.mgmt with audit := old ++ [{ r with seq := s.mgmt.auditSeq }], auditSeq := s.mgmt.auditSeq + 1 } }

/-- Write an audit record: type, who, its fields. While the attic controller is failed, the deputy keeps it (R619). -/
def State.audit (s : State) (ty who : Nat) (data : List Nat) : State :=
  if s.ctlFailed attic then
    { s with recovery := { s.recovery with deferredAudit := s.recovery.deferredAudit ++ [⟨0, s.mgmt.boots, ty, 5, s.mtime, data⟩] } }
  else s.auditPut ⟨0, s.mgmt.boots, ty, who, s.mtime, data⟩

/-- The records that the deputy kept go to flash, with their count in a record of type 7 (R619, R641). -/
def State.auditRestore (s : State) : State :=
  let l := s.recovery.deferredAudit
  if l.isEmpty then s
  else
    let s := { s with recovery := { s.recovery with deferredAudit := [] } }
    (forEach l s (fun s r => s.auditPut r)).auditPut ⟨0, s.mgmt.boots, 7, 0, s.mtime, [l.length]⟩

end Sys2Proof.Machine
end

