-- ==== Sys2Proof/Machine/HostRings.lean ====
section
/-! DEFINITION. Rings, doorbells and the memory window of the host (R499-R506, R517, R518, R524, R537). -/

namespace Sys2Proof.Machine

/-! ### Doorbells (R504) -/

/-- Count an ignored doorbell: db_bad of FN_STAT (R525). -/
def State.dbBad (s : State) (f : Nat) : State := (s.addF ⟨fnPage f + 0x18, 16, 16⟩ 1).putF ⟨fnPage f + 0x18, 48, 1⟩ 1

/-- Count a failed BAR4 access: win_err of FN_STAT (R525). -/
def State.winErr (s : State) (f : Nat) : State := (s.addF ⟨fnPage f + 0x18, 32, 16⟩ 1).putF ⟨fnPage f + 0x18, 48, 1⟩ 1

/-- A doorbell acts: the ring is bound to the function's partition and is ACTIVE. -/
def State.dbOk (s : State) (f r : Nat) : Bool := s.fnOk f && s.ringPart r == f && s.getF (ringSt r) == 1

/-- A doorbell sets its ring's bit of IRQ_DBMAP (R582). -/
def State.dbMap (s : State) (r : Nat) : State := s.putF ⟨irqJBase + 0x2400 + 8 * (r / 64), r % 64, 1⟩ 1

/-- SQ_DOORBELL (R504, R582): idx becomes the tail; one that lies behind the previous tail from the reported head is counted. -/
def execSqDoorbell (f : Fin 16) (r : Fin 1024) (v : Word32) (s : State) : Res :=
  when (s.dbOk f.val r.val && s.getF (ringKind r.val) == 1) (fun s =>
    let s := s.dbMap r.val
    let n := s.ringSize r.val
    let idx := v.toNat % 65536
    let head := mget 0 s.host.sqHead r.val
    let dist (x : Nat) : Nat := (x + n - head % n) % n
    if idx ≥ n ∨ dist idx < dist (s.getF (ringHost r.val)) then s.dbBad f.val
    else
      let s := s.putF (ringHost r.val) idx
      { s with host := { s.host with dbMark := mset 0 s.host.dbMark r.val s.host.nextHeld } }) s

/-- CQ_DOORBELL (R504, R518, R582): idx is the host's head; arm sends the vector for an unread record, or with the next one. -/
def execCqDoorbell (f : Fin 16) (r : Fin 1024) (v : Word32) (s : State) : Res :=
  when (s.dbOk f.val r.val && (s.getF (ringKind r.val) == 2 || s.getF (ringKind r.val) == 3)) (fun s =>
    let s := s.dbMap r.val
    let n := s.ringSize r.val
    let idx := v.toNat % 65536
    if idx ≥ n then s.dbBad f.val
    else
      let s := s.putF (ringHost r.val) idx
      if !bit v.toNat 16 then s
      else if s.getF (ringMod r.val) ≠ idx then s.fireVec f.val (s.getF (ringVec r.val))
      else { s with host := { s.host with arm := mset false s.host.arm r.val true } }) s

/-! ### Fetch (R505, R506) -/

/-- COMMAND_FETCH (R505, R506): the next submitted entry arrives, or the fetch fails and the ring goes to ERROR. -/
def execCommandFetch (r : Fin 1024) (data : Option Cmd) (s : State) : Res :=
  let i := s.getF (ringMod r.val)
  let ahead := ((s.cmdsOf (.ring r)).filter (fun o => !o.started)).length
  when (s.ringActive r.val 1 && s.busOk (s.ringPart r.val) && decide (i ≠ s.getF (ringHost r.val)) && decide (ahead < 64)) (fun s =>
    match data with
    | some c =>
      let s := s.putF (ringMod r.val) ((i + 1) % s.ringSize r.val)
      { s with host := { s.host with open_ := s.host.open_ ++ [⟨.ring r, c, false⟩] } }
    | none =>
      let s := (s.putF (ringSt r.val) 2).putF (ringErr r.val) 2
      s.postEvent (s.ringPart r.val) 7 (toLE 2 r.val ++ toLE 1 2)) s

/-! ### Enable and disable (R502, R503) -/

/-- Whether an enabled SQ of a partition names a CQ. -/
def State.cqNamed (s : State) (r : Nat) : Bool :=
  (upTo 1024).any (fun q => s.ringPart q == s.ringPart r && s.getB (ringEn q) && s.getF (ringKind q) == 1 && s.getF (ringCq q) == r)

/-- Start a ring, or refuse its configuration (R503). -/
def State.ringStart (s : State) (r : Nat) : State :=
  let s := ((s.putF (ringEn r) 1).setReg (ringKey r + 0x10) 0).putF (ringPhase r) 1
  let s := { s with host := { s.host with sqHead := mset 0 s.host.sqHead r 0, arm := mset false s.host.arm r false } }
  let k := s.getF (ringKind r)
  let l := s.getF (ringLsize r)
  let q := s.getF (ringCq r)
  let bad := k = 0 ∨ l < 4 ∨ 16 < l ∨ (k = 1 ∧ ¬(s.ringActive q 2 = true ∧ s.ringPart q = s.ringPart r))
  if bad then (s.putF (ringSt r) 2).putF (ringErr r) 1 else (s.putF (ringSt r) 1).putF (ringErr r) 0

/-- Stop a ring: it is OFF, and fetches no further entries. -/
def State.ringStop (s : State) (r : Nat) : State := ((s.putF (ringEn r) 0).putF (ringSt r) 0).putF (ringErr r) 0

/-- A write of RING_CFG (R502, R503): fields are taken only while enable is 0. -/
def State.ringCfgWrite (s : State) (r : Nat) (v : Word) : State :=
  let en := bit v.toNat 2
  if s.getB (ringEn r) then (if en || (s.getF (ringKind r) == 2 && s.cqNamed r) then s else s.ringStop r)
  else
    let s := (((s.putF (ringKind r) (fld v 0 2)).putF (ringLsize r) (fld v 3 5)).putF (ringCq r) (fld v 8 10)).putF (ringVec r) (fld v 18 7)
    if en then s.ringStart r else s

/-- A ring's registers act for the function of its partition only (R498). -/
def State.ringMine (s : State) (f r : Nat) : Bool := s.fnOk f && s.ringPart r == f

/-- RING_ENABLE (R503). -/
def execRingEnable (f : Fin 16) (r : Fin 1024) (v : Word) (s : State) : Res :=
  when (s.ringMine f.val r.val && bit v.toNat 2) (fun s => s.ringCfgWrite r.val v) s

/-- RING_DISABLE (R503). -/
def execRingDisable (f : Fin 16) (r : Fin 1024) (v : Word) (s : State) : Res :=
  when (s.ringMine f.val r.val && !bit v.toNat 2) (fun s => s.ringCfgWrite r.val v) s

/-! ### Completion records (R517) -/

/-- COMPLETION_RECORD_WRITE (R514-R518): the oldest waiting record of a CQ, with the head its SQ then has. -/
def execCompletionRecordWrite (r : Fin 1024) (s : State) : Res :=
  .next (match mget [] s.host.waitRecs r.val with
    | [] => s
    | b :: rest =>
      if s.ringActive r.val 2 && s.ringRoom r.val && s.busOk (s.ringPart r.val) then
        let sq := ofLE ((b.drop 2).take 2) % 1024
        let head := s.getF (ringMod sq)
        let b := b.take 4 ++ toLE 2 head ++ b.drop 6
        let s := { s with host := { s.host with
          waitRecs := mset [] s.host.waitRecs r.val rest
          sqHead := mset 0 s.host.sqHead sq head } }
        s.putRecord r.val b
      else s)

/-! ### FN_POP (R524) -/

/-- A read of FN_POP: the oldest pending request is copied into slot seq mod 4, and the read returns what was taken. -/
def State.fnPop (s : State) (p : Nat) : State :=
  let e := s.evts p
  match e.popReqs with
  | [] => s.emit (.popData p (BitVec.ofNat 64 e.lastPop.toNat))
  | b :: rest =>
    let seq := ofLE ((b.drop 4).take 4)
    let ty := ofLE ((b.drop 1).take 1)
    let k := fnPage p + 0x200 + 0x40 * (seq % 4)
    let s := forEach (upTo 8) s (fun s w => s.setReg (k + 8 * w) (BitVec.ofNat 64 (ofLE ((b.drop (8 * w)).take 8))))
    let v := BitVec.ofNat 64 (seq + ty * 2 ^ 32 + 2 ^ 40 + min rest.length 127 * 2 ^ 41)
    ((s.setEvts p { e with popReqs := rest, lastPop := BitVec.ofNat 32 seq }).setReg (fnPage p + 0x100) v).emit (.popData p v)

/-- FN_POP. -/
def execFnPop (f : Fin 16) (s : State) : Res := when (s.fnOk f.val) (fun s => s.fnPop f.val) s

/-! ### The memory window (R499, R537) -/

/-- log2 of the BAR4 size of a function. -/
def State.barLog (s : State) (f : Nat) : Nat := if f = 0 then s.host.pfBar else s.host.vfBar

/-- Device virtual address (or, under PHYSWIN, physical address) of a window offset. -/
def State.winVa (s : State) (f off : Nat) : Nat :=
  let b := s.getF ⟨fnPage f + 0x10, 30, 18⟩ * 2 ^ 30
  let n := 2 ^ s.barLog f
  b / n * n + off % n

/-- Answer a BAR4 read: data, or (when it fails) Unsupported Request. -/
def State.barAnswer (s : State) (f : Nat) (isRead ok : Bool) (data : List Byte) (poison : Bool) : State :=
  let s := if ok then s else s.winErr f
  if isRead then s.emit (.completion f data poison (!ok)) else s

/-- What a BAR4 access gives: performed, failed, or waiting on a record. -/
inductive BarDo where
  | ok (s : State) (data : List Byte) (poison : Bool)
  | bad (s : State)
  | wait (s : State) (id : Word32) (va : Nat)
  deriving DecidableEq, Repr

/-- A host access through the window: data is some for a write. -/
def State.barTry (s : State) (f va : Nat) (data : Option (List Byte)) (len : Nat) : BarDo :=
  let u : UnitId := .host (Fin.ofNat 16 f)
  if !s.getB ⟨fnPage f + 0x10, 6, 1⟩ then .bad s
  else
    match (if f = 0 then s.parts.physwin else none) with
    | some p =>
      if !s.granulesOk p va len then .bad s
      else
        match data with
        | some bs => .ok (s.physWrite p noCore va bs) [] false
        | none => let r := s.physRead p va len; .ok r.st r.data r.poison
    | none =>
      let ctx := s.getF ⟨fnPage f + 0x10, 0, 6⟩
      let acc := if data.isSome then Access.write else .read
      let r := s.xlRun u ctx f va len acc
      match r.bad with
      | some (a, .fail cls l pte hst) =>
        if hst ∨ cls = 0 ∨ cls > 3 then .bad r.st
        else
          let o := r.st.openFault u ctx f a acc (.fail cls l pte hst) none
          .wait o.1 o.2 va
      | some _ => .bad r.st
      | none =>
        if r.segs.any (·.host) then .bad r.st
        else
          match data with
          | some bs => .ok (r.st.writeSegs f noCore r.segs bs) [] false
          | none => let d := r.st.readSegs f r.segs; .ok d.st d.data d.poison

/-- A BAR4 access arrives: performed, failed, or held for at most hold_us; a function holds at most 64 faulting writes. -/
def State.barAccess (s : State) (f va : Nat) (data : Option (List Byte)) (len : Nat) : State :=
  let isRead := data.isNone
  match s.barTry f va data len with
  | .ok s bs p => s.barAnswer f isRead true bs p
  | .bad s => s.barAnswer f isRead false [] false
  | .wait s id _ =>
    let full := !isRead && decide ((s.host.held.filter (fun h => h.fn == f && h.data.isSome)).length ≥ 64)
    if s.getF ⟨fnPage f + 8, 24, 8⟩ = 0 ∨ full = true then s.barAnswer f isRead false [] false
    else
      { s with host := { s.host with held := s.host.held ++ [⟨f, s.host.nextHeld, va, data, len, id⟩], nextHeld := s.host.nextHeld + 1 } }

/-- BAR4_READ (R499). -/
def execBar4Read (f : Fin 16) (off : Nat) (len : Nat) (s : State) : Res :=
  when (s.fnOk f.val && decide (0 < len) && decide (len ≤ 4096)) (fun s => s.barAccess f.val (s.winVa f.val off) none len) s

/-- BAR4_WRITE (R499, R500). -/
def execBar4Write (f : Fin 16) (off : Nat) (data : List Byte) (s : State) : Res :=
  when (s.fnOk f.val && decide (0 < data.length) && decide (data.length ≤ 4096)) (fun s =>
    s.barAccess f.val (s.winVa f.val off) (some data) data.length) s

/-- Take a held access off the list. -/
def State.unhold (s : State) (h : HeldBar) : State := { s with host := { s.host with held := s.host.held.erase h } }

/-- BAR4_HOLD_EXPIRY (R499): the access fails; its record runs on. -/
def execBar4HoldExpiry (f : Fin 16) (id : Nat) (s : State) : Res :=
  .next (match s.host.held.find? (fun h => h.fn == f.val && h.id == id) with
    | some h => (s.unhold h).barAnswer f.val h.data.isNone false [] false
    | none => s)

/-- A record that held BAR4 accesses wait on is settled: they are performed, or fail (R318, R499). -/
def State.barSettle (s : State) (rcd : Word32) (retry : Bool) : State :=
  forEach (s.host.held.filter (fun h => h.rcd == rcd)) s (fun s h =>
    let s := s.unhold h
    if retry then s.barAccess h.fn h.va h.data h.len else s.barAnswer h.fn h.data.isNone false [] false)

end Sys2Proof.Machine
end

