-- ==== Sys2Proof/Machine/Kernels.lean ====
section
/-! DEFINITION. Kernels: LAUNCH, KSTOP and KRESUME (R149, R360, R510-R512), and the saving and restoring of a cell (R325-R328). -/

namespace Sys2Proof.Machine

/-! ### Kernels -/

/-- Bytes of a kernel's launch record (R510). -/
def Kernel.rec_ (k : Kernel) (a n : Nat) : Nat := recB k.rcd.toNat a n

/-- The cells of a kernel. -/
def Kernel.cells (k : Kernel) : List Nat := (upTo 480).filter (fun c => bit k.rcd.toNat c)

/-- Whether matrix core i of each cell runs; whether the vector core does. -/
def Kernel.runs (k : Kernel) (i : Nat) : Bool := bit (k.rec_ 0x3C 1) i

/-- The matrix cores of a kernel. -/
def Kernel.mcs (k : Kernel) : List Nat := k.cells.flatMap (fun c => ((upTo 4).filter k.runs).map (fun i => 4 * c + i))

/-- The vector cores of a kernel. -/
def Kernel.vcs (k : Kernel) : List Nat := if k.runs 4 then k.cells else []

/-- A kernel by its number. -/
def State.kern (s : State) (id : Nat) : Option Kernel := s.host.kernels.find? (fun k => k.id == id && k.phase != .done)

/-- Change a kernel. -/
def State.updKern (s : State) (id : Nat) (f : Kernel → Kernel) : State :=
  { s with host := { s.host with kernels := mapWhere s.host.kernels (fun k => k.id == id) f } }

/-- A kernel is over: it leaves the list. -/
def State.dropKern (s : State) (id : Nat) : State :=
  { s with host := { s.host with kernels := s.host.kernels.filter (fun k => k.id != id) } }

/-! ### Starting and ending programs -/

/-- Start a matrix core (R149, R233, R360): storage stays, control state as R149 gives it, counters at zero. -/
def State.startMc (s : State) (n pc : Nat) (mem : Bool) (arg : Word) (ctx strict : Nat) : State :=
  let m := s.mc n
  let s := s.setMc n {
    scratch := m.scratch, badScratch := m.badScratch, tiles := m.tiles, badTiles := m.badTiles, tabFwd := m.tabFwd, tabDer := m.tabDer
    nextOp := m.nextOp, g := mset 0 [] 0 arg, launched := true, ctx := ctx }
  let s := (s.putF (mxcPc n) pc).putB (mxcSpace n) mem
  let s := (s.setReg (mxcBase n + 8) 1).setReg (mxcBase n + 0x18) 0
  let k := mcKey n
  let s := s.setSync k { s.syncOf k with cnt := [], pend := [], idle := false, want := none, stall := none }
  let s := (s.setReg (synKey k) (BitVec.ofNat 64 strict)).setReg (synKey k + 8) 0
  s.setKey (n / 4) (n % 4) ⟨0, 0, 0, 0⟩

/-- CSRs that a program's start leaves alone: those of M mode. -/
def keepsCsr (n : Nat) : Bool := decide (n / 256 = 3) || decide (n / 256 = 0xB)

/-- Start a vector core in U mode with its argument in a0 (R510); its other registers are zero (log entry 31). -/
def State.startVc (s : State) (c pc : Nat) (arg : Word) (ctx strict : Nat) : State :=
  let r := s.rv c
  let s := s.setRv c {
    pc := BitVec.ofNat 64 pc, x := mset 0 [] 10 arg, csr := r.csr.filter (fun e => keepsCsr e.1), mode := .user
    scratch := r.scratch, badScratch := r.badScratch, mtimecmp := r.mtimecmp, launched := true, ctx := ctx }
  let k := vcKey c
  let s := s.setSync k { s.syncOf k with cnt := [], pend := [], idle := false, want := none, stall := none }
  let s := (s.setReg (synKey k) (BitVec.ofNat 64 strict)).setReg (synKey k + 8) 0
  s.setKey c 4 ⟨0, 0, 0, 0⟩

/-- End a matrix core's program (R189): what is under way is abandoned, its descriptors complete ABORTED, the core is IDLE. -/
def State.endMc (s : State) (n : Nat) : State :=
  if !(s.mc n).launched || (s.mc n).ended then s
  else
    let s := s.abandonMc n
    let s := s.updMc n (fun m => { m with ended := true, ops := [], jobs := [], passes := [], lds := none, pcOut := false })
    let s := (s.putF (mxcSt n) 0).putF (mxcStopF n) 0
    let s := s.setSync (mcKey n) { s.syncOf (mcKey n) with want := none, stall := none, idle := false }
    s.dmaEndQueue (n / 4) (n % 4)

/-- End a vector core's program. -/
def State.endVc (s : State) (c : Nat) : State :=
  let s := s.dropWaiters (fun w => w == .vc c)
  let s := s.updRv c (fun r => { r with ended := r.launched, waiting := false, stopped := false, held := none, resv := none })
  let s := s.setSync (vcKey c) { s.syncOf (vcKey c) with want := none, stall := none, idle := false }
  s.dmaEndQueue c 4

/-! ### Stop, save and restore (R325-R328, R352) -/

/-- The saved context of a cell for a partition. -/
def State.savedOf (s : State) (c p : Nat) : Option SavedCtx := s.parts.saved.find? (fun x => x.cell == c && x.part == p)

/-- Remove a saved context. -/
def State.dropSaved (s : State) (c p : Nat) : State :=
  { s with parts := { s.parts with saved := s.parts.saved.filter (fun x => !(x.cell == c && x.part == p)) } }

/-- A saved context holds every unit it needs. -/
def SavedCtx.complete (x : SavedCtx) : Bool := x.need.all (fun u => x.done.contains u)

/-- Stop a cell for its partition and open the saving of the units named (R190, R247, R325, R357). -/
def State.stopCell (s : State) (c : Nat) (need : List Nat) : State :=
  let s := forEach ((upTo 4).filter (fun i => need.contains i)) s (fun s i => s.mxcStop (4 * c + i))
  let s := if need.contains 4 then s.updRv c (fun r => { r with stopped := true, resv := none }) else s
  let s := s.putF ⟨dmaBase c, 30, 1⟩ 1
  let s := s.dropSaved c (s.cellPart c)
  { s with parts := { s.parts with saved := s.parts.saved ++ [⟨c, s.cellPart c, false, need, [], {}, {}, [], [], []⟩] } }

/-- The registers of a cell's window that a unit's image holds: MXC and MXQ of a matrix core, SYN of the sync unit (R194, R236, R382). -/
def unitRegs (u : Nat) : List Nat :=
  if u < 4 then (upTo 5).map (fun i => 0x100 * u + 8 * i) ++ (upTo 32).map (fun i => 0x400 + 0x200 * u + 8 * i)
  else if u = 5 then (upTo 20).map (fun i => 0xE00 + 8 * i)
  else []

/-- The sync cores of a cell, by their number in it. -/
def State.syncImage (s : State) (c : Nat) : SMap SyncCore :=
  (upTo 5).foldl (fun m i => mset {} m i { s.syncOf (5 * c + i) with want := none, stall := none, idle := false }) []

/-- Copy unit u of a cell into the saved context (R327): the core is then SAVED. -/
def State.saveUnit (s : State) (c u : Nat) (x : SavedCtx) : State :=
  let s := if u < 4 then s.abandonMc (4 * c + u) else if u = 4 then s.dropWaiters (fun w => w == .vc c) else s.dmaAbandon c
  let regs := (unitRegs u).foldl (fun m o => mset 0 m o (s.reg (cellBase c + o))) x.regs
  let x := { x with done := x.done ++ [u], regs := regs }
  if u < 4 then (s.putSaved { x with mcs := mset {} x.mcs u (s.mc (4 * c + u)) }).putF (mxcSt (4 * c + u)) 5
  else if u = 4 then s.putSaved { x with vc := { s.rv c with held := none, resv := none, waiting := false } }
  else s.putSaved { x with dma := s.dmaOf c, sync := s.syncImage c }

/-- A unit may be saved: it has stopped. -/
def State.unitStopped (s : State) (c u : Nat) : Bool :=
  if u < 4 then s.getF (mxcSt (4 * c + u)) == 3 || (s.getF (mxcSt (4 * c + u)) == 4 && s.mxcSettled (4 * c + u))
  else if u = 4 then (s.rv c).stopped
  else s.getB ⟨dmaBase c, 30, 1⟩

/-- Scrub a cell (R539): its SRAM, registers, queues, counters and cached translations are gone; M-mode CSRs stay firmware's. -/
def State.scrubCell (s : State) (c : Nat) : State :=
  let s := forEach (upTo 4) s (fun s i => s.setMc (4 * c + i) {})
  let s := s.setRv c { csr := (s.rv c).csr.filter (fun e => keepsCsr e.1) }
  let s := s.setDma c {}
  let s := forEach (upTo 5) s (fun s i => s.setSync (5 * c + i) {})
  let s := s.resetRegs (fun k => decide (cellBase c ≤ k) && decide (k < cellBase c + 0x1000))
  let mine (w : Waiter) : Bool :=
    match w with
    | .tileOp m _ => m / 4 == c
    | .ldsOp m => m / 4 == c
    | .fetch m => m / 4 == c
    | .vc n => n == c
    | .dma n _ => n == c
    | _ => false
  let s := s.dropWaiters mine
  { s with mmu := { s.mmu with tlb := s.mmu.tlb.filter (fun t => t.unit != c) } }

/-- A cell reset (R606): the units as after a scrub. The cell's programs end; their kernel's record will say ENDED. -/
def State.cellResetNow (s : State) (c : Nat) : State :=
  let k? := s.host.kernels.find? (fun k => k.phase == .running && k.part == s.cellPart c && bit k.rcd.toNat c)
  match k? with
  | none => s.scrubCell c
  | some k =>
    let mcs := k.mcs.filter (fun n => n / 4 == c)
    let s := forEach mcs s (fun s n => s.endMc n)
    let s := if k.runs 4 then s.endVc c else s
    let s := s.scrubCell c
    let s := forEach mcs s (fun s n => s.updMc n (fun m => { m with launched := true, ended := true }))
    let s := if k.runs 4 then s.updRv c (fun r => { r with launched := true, ended := true }) else s
    s.updKern k.id (fun k => { k with cut := true })

/-- A save of a cell is in progress. -/
def State.saving (s : State) (c : Nat) : Bool := match s.savedOf c (s.cellPart c) with | some x => !x.complete | none => false

/-- Reset a cell, once no save of it is in progress (R608). -/
def State.cellReset (s : State) (c : Nat) : State :=
  if s.saving c then
    (if s.parts.resetWait.contains c then s else { s with parts := { s.parts with resetWait := s.parts.resetWait ++ [c] } })
  else s.cellResetNow c

/-- Perform the cell resets whose wait is over. -/
def State.drainResets (s : State) : State :=
  let go := s.parts.resetWait.filter (fun c => !s.saving c)
  let s := { s with parts := { s.parts with resetWait := s.parts.resetWait.filter (fun c => s.saving c) } }
  forEach go s (fun s c => s.cellResetNow c)

/-- Bind a cell to a partition; 16 leaves it unbound. -/
def State.bindCell (s : State) (c p : Nat) : State := { s with parts := { s.parts with cellOf := mset 16 s.parts.cellOf c p } }

/-- The cells that a MOVE_CELLS or DISCARD names (R532). -/
def moveCells (c : Cmd) : List Nat := (upTo (bits (cmdB c 0xC 4) 9 10)).map (fun i => bits (cmdB c 0xC 4) 0 9 + i)

/-- The bind point of a MOVE_CELLS, its cells being stopped and saved (R539-R541): slots, scrub, binding; launches of the old
partition that wait on a moved cell are refused. -/
def State.moveFinish (s : State) (src : CmdSrc) (cmd : Cmd) : State :=
  let p := cmdB cmd 9 1
  let q := cmdB cmd 0xA 1
  let l := moveCells cmd
  let slot (x : SavedCtx) : SavedCtx :=
    if !l.contains x.cell then x else if x.part = p then { x with pool := false } else if x.part = q then { x with pool := true } else x
  let s := { s with parts := { s.parts with saved := s.parts.saved.map slot } }
  let s := forEach l s (fun s c => (s.scrubCell c).bindCell c p)
  let late := s.host.kernels.filter (fun k => k.part == q && k.phase == .waiting && k.resumer.isNone && p != q && l.any (fun c => bit k.rcd.toNat c))
  let s := forEach late s (fun s k => (s.dropKern k.id).complete k.src k.cmd true cmNotPermitted 0)
  s.complete src cmd true cmOk 0

/-- The kernel that an uncompleted KSTOP of a partition stops on a cell; once every unit of its cells is saved, the KSTOP
completes; a MOVE_CELLS goes on with the last of its kernels. -/
def State.stopDone (s : State) (c : Nat) : State :=
  match s.host.kernels.find? (fun k => k.phase == .preempted && k.stopper.isSome && bit k.rcd.toNat c) with
  | none => s
  | some k =>
    if k.cells.all (fun c => match s.savedOf c k.part with | some x => x.complete | none => false) then
      match k.stopper with
      | some (src, cmd) =>
        let s := s.updKern k.id (fun k => { k with stopper := none })
        if cmdOp cmd ≠ 0x60 then s.complete src cmd true cmOk 0
        else if s.host.kernels.any (fun k => k.stopper == some (src, cmd)) then s
        else s.moveFinish src cmd
      | none => s
    else s

/-- Cell and number of a unit to save. -/
def saveUnitOf (u : SaveUnit) : Nat × Nat :=
  match u with
  | .mc n => (n.val / 4, n.val % 4)
  | .vc n => (n.val, 4)
  | .cellUnit c => (c.val, 5)

/-- CELL_SAVE_COMPLETE (R326, R327). -/
def execCellSaveComplete (u : SaveUnit) (s : State) : Res :=
  let c := (saveUnitOf u).1
  let n := (saveUnitOf u).2
  .next (match s.savedOf c (s.cellPart c) with
    | none => s
    | some x =>
      if x.need.contains n && !x.done.contains n && s.unitStopped c n then ((s.saveUnit c n x).stopDone c).drainResets else s)

/-- Put unit u of a saved context back into its cell (R328): a core is then in the state it was saved in. -/
def State.restoreUnit (s : State) (x : SavedCtx) (u : Nat) : State :=
  let c := x.cell
  let s := (unitRegs u).foldl (fun s o => s.setReg (cellBase c + o) (mget 0 x.regs o)) s
  if u < 4 then s.setMc (4 * c + u) (mget {} x.mcs u)
  else if u = 4 then s.setRv c x.vc
  else
    let s := s.setDma c x.dma
    forEach (upTo 5) s (fun s i => s.setSync (5 * c + i) (mget {} x.sync i))

/-- Let a restored or stopped cell run again: stops taken back, the engine going on (R193, R352). -/
def State.releaseCell (s : State) (c : Nat) : State :=
  let s := forEach (upTo 4) s (fun s i => if s.getB (mxcStopF (4 * c + i)) then s.mxcRelease (4 * c + i) else s)
  let s := s.updRv c (fun r => { r with stopped := false })
  s.putF ⟨dmaBase c, 30, 1⟩ 0

/-- CELL_RESTORE_COMPLETE (R328): a context that a KRESUME waits for returns to its cell; with the last one the kernel runs. -/
def execCellRestoreComplete (c : Fin 480) (s : State) : Res :=
  let p := s.cellPart c.val
  .next (match s.savedOf c.val p, s.host.kernels.find? (fun k => k.phase == .restoring && k.part == p && bit k.rcd.toNat c.val) with
    | some x, some k =>
      let s := forEach x.done s (fun s u => s.restoreUnit x u)
      let s := (s.dropSaved c.val p).releaseCell c.val
      if k.cells.any (fun d => (s.savedOf d p).isSome) then s
      else
        let s := s.updKern k.id (fun k => { k with phase := .running, resumer := none })
        match k.resumer with
        | some (src, cmd) => s.complete src cmd true cmOk 0
        | none => s
    | _, _ => s)

/-! ### LAUNCH (R510, R511) -/

/-- Whether a launch record breaks the table of R510. -/
def launchBad (r : Nat) : Bool :=
  let cores := recB r 0x3C 1
  let sp := recB r 0x3D 1
  let pc := recB r 0x40 8
  let vpc := recB r 0x48 8
  let ml := recB r 0x68 4
  let vl := recB r 0x6C 4
  decide (cores ≥ 32) || decide (sp ≥ 2) || decide (recB r 0x3E 2 ≠ 0) || decide (recB r 0x78 8 ≠ 0)
    || decide (r % 2 ^ 480 = 0) || decide (cores % 32 = 0)
    || decide (pc % 8 ≠ 0) || (if sp = 1 then decide (pc ≥ 2 ^ 48) else decide (pc > 0x7_FFF8))
    || (bit cores 4 && decide (2 ^ 48 ≤ vpc) && decide (vpc < 0xFFFF_FFFF_FFF8_0000))
    || decide (ml % 64 ≠ 0) || decide (ml > 524288) || decide (vl % 64 ≠ 0) || decide (vl > 524288)

/-- The cells that a launch record names. -/
def recCells (r : Nat) : List Nat := (upTo 480).filter (fun c => bit r c)

/-- LAUNCH: the record is checked, and the kernel waits at its start. -/
def execLaunch (src : CmdSrc) (c : Cmd) (s : State) : Res :=
  s.runCmd src c (cmdOp c == 1) [(8, 8)] (fun s =>
    let p := s.srcPart src
    let va := cmdB c 8 8
    if va % 64 ≠ 0 then .done s cmBadField 0
    else if !s.ctxOk (cmdCtx c) p then .done s cmNotPermitted 0
    else
      s.withRecord src c va 128 (fun s bs =>
        let r := ofLE bs
        if launchBad r then .done s cmBadField 0
        else if !(recCells r).all (fun d => s.cellPart d == p) then .done s cmNotPermitted 0
        else
          let k : Kernel := ⟨s.host.nextKernel, src, c, p, cmdCtx c, BitVec.ofNat 1024 r, .waiting, false, false, none, none⟩
          .run { s with host := { s.host with kernels := s.host.kernels ++ [k], nextKernel := s.host.nextKernel + 1 } }))

/-- Phases in which a kernel holds its cells. -/
def KernPhase.holds (p : KernPhase) : Bool := p == .running || p == .preempted || p == .preemptedUnstarted || p == .restoring

/-- Whether a kernel may start: its cells are bound, and no other kernel runs or is pre-empted on one of them. -/
def State.kernFree (s : State) (k : Kernel) : Bool :=
  k.cells.all (fun c => s.cellPart c == k.part)
    && !s.host.kernels.any (fun o => o.id != k.id && o.part == k.part && o.phase.holds
        && decide (o.rcd.toNat % 2 ^ 480 &&& k.rcd.toNat % 2 ^ 480 ≠ 0))

/-- Read an image of a kernel; none of zero length or address (R510). -/
def State.readImage (s : State) (k : Kernel) (va n : Nat) : AccRes :=
  if va = 0 ∨ n = 0 then ⟨s, .done [] false⟩
  else s.vRead (frontUnit k.part) k.ctx k.part va n .read (some (.command (2048 + k.id)))

/-- Start every core of a kernel (R511). -/
def State.startKernel (s : State) (k : Kernel) (mcImg vcImg : List Byte) : State :=
  let arg := BitVec.ofNat 64 (k.rec_ 0x50 8)
  let s := forEach k.cells s (fun s c => s.updRv c (fun r => { r with ctx := k.ctx }))
  let s := forEach k.mcs s (fun s n =>
    (s.scrWrite n 0 mcImg).startMc n (k.rec_ 0x40 8) (k.rec_ 0x3D 1 == 1) arg k.ctx (k.rec_ 0x58 4))
  let s := forEach k.vcs s (fun s c => (s.updRv c (fun r => r.scrPut 0 vcImg)).startVc c (k.rec_ 0x48 8) arg k.ctx (k.rec_ 0x5C 4))
  let s := s.updKern k.id (fun k => { k with phase := .running, resumer := none })
  match k.resumer with
  | some (src, cmd) => s.complete src cmd true cmOk 0
  | none => s

/-- The LAUNCH of a kernel completes, and the kernel is over; a KRESUME or KSTOP of it that still waits completes NOT_FOUND (R512). -/
def State.endKernel (s : State) (k : Kernel) (status result : Nat) : State :=
  let s := s.dropWaiters (fun w => w == .command (2048 + k.id))
  let s := (s.dropKern k.id).complete k.src k.cmd true status result
  let fin (s : State) (o : Option (CmdSrc × Cmd)) : State := match o with | some (a, b) => s.complete a b true cmNotFound 0 | none => s
  fin (fin s k.stopper) k.resumer

/-- KERNEL_START (R511): images, modes, cores; a failed image read completes the LAUNCH with RECORD_FAULT. -/
def execKernelStart (k : Nat) (s : State) : Res :=
  .next (match s.kern k with
    | none => s
    | some k =>
      if k.phase ≠ .waiting ∨ s.kernFree k = false then s
      else
        let a := s.readImage k (k.rec_ 0x60 8) (k.rec_ 0x68 4)
        match a.o with
        | .held _ _ => a.st
        | .done mi bad1 =>
          let b := a.st.readImage k (k.rec_ 0x70 8) (k.rec_ 0x6C 4)
          match b.o with
          | .held _ _ => b.st
          | .done vi bad2 => if bad1 || bad2 then b.st.endKernel k cmRecordFault 0 else b.st.startKernel k mi vi)

/-- Whether a program of a kernel is over: complete, or in a fault that firmware ends it for (R189, log entry 32). -/
def State.mcOver (s : State) (n : Nat) : Bool := (s.mc n).ended || s.getF (mxcSt n) == 4

/-- KERNEL_COMPLETE (R511): every named core has completed or is ended; the record carries the faults. -/
def execKernelComplete (k : Nat) (s : State) : Res :=
  .next (match s.kern k with
    | none => s
    | some k =>
      if k.phase = .running ∧ k.mcs.all (fun n => s.mcOver n) = true ∧ k.vcs.all (fun c => (s.rv c).ended) = true then
        let badMc := k.mcs.find? (fun n => s.getF (mxcSt n) == 4)
        let badVc := k.vcs.find? (fun c => (s.rv c).endCause.isSome)
        let code := match badMc with | some n => s.getF ⟨mxcBase n + 0x18, 0, 8⟩ | none => 0
        let cause := match badVc with | some c => ((s.rv c).endCause).getD 0xFF | none => 0xFF
        let first := match badMc, badVc with
          | some n, _ => n * 2 ^ 16
          | none, some c => c * 2 ^ 16 + 2 ^ 27
          | none, none => 0
        let s := forEach k.mcs s (fun s n => s.endMc n)
        let s := forEach k.vcs s (fun s c => if (s.rv c).endCause.isSome then s.dmaEndQueue c 4 else s)
        let err := match s.kern k.id with | some k => k.dmaErr | none => false
        let st := if k.cut then cmEnded else if badMc.isSome || badVc.isSome then cmKernelFault else if err then cmDmaError else cmOk
        s.endKernel k st (code + cause % 256 * 256 + first + b2n err * 2 ^ 28)
      else s)

/-! ### KSTOP and KRESUME (R512) -/

/-- The target of a KSTOP or KRESUME: the oldest open kernel of an SQ with an identifier. -/
def State.kernOf (s : State) (p sq id : Nat) : Option Kernel :=
  s.host.kernels.find? (fun k => k.part == p && decide (srcKey k.src = sq) && decide (cmdId k.cmd = id))

/-- A fetched LAUNCH that has not started. -/
def State.rawLaunch (s : State) (p sq id : Nat) : Option OpenCmd :=
  s.host.open_.find? (fun o => !o.started && decide (srcKey o.src = sq) && decide (cmdId o.cmd = id) && decide (cmdOp o.cmd = 1)
    && s.srcPart o.src == p)

/-- Fields of KSTOP and KRESUME. -/
def stopRef : List (Nat × Nat) := [(8, 2), (0xA, 2)]

/-- The units of a kernel's cells that a pre-emption saves. -/
def Kernel.needs (k : Kernel) : List Nat := (upTo 5).filter k.runs ++ [5]

/-- KSTOP_PREEMPT (R512): a running kernel's cells are stopped and saved; one that waits is held unstarted. -/
def execKstopPreempt (src : CmdSrc) (c : Cmd) (s : State) : Res :=
  let act := cmdB c 0xC 1
  s.runCmd src c (cmdOp c == 2 && act != 1) (stopRef ++ [(0xC, 1)]) (fun s =>
    let p := s.srcPart src
    if act > 1 then .done s cmBadField 0
    else
      match s.kernOf p (cmdB c 8 2) (cmdB c 0xA 2) with
      | none => if (s.rawLaunch p (cmdB c 8 2) (cmdB c 0xA 2)).isSome then .hold s else .done s cmNotFound 0
      | some k =>
        match k.phase with
        | .waiting => .done (s.updKern k.id (fun k => { k with phase := .preemptedUnstarted })) cmOk 0
        | .running =>
          let s := forEach k.cells s (fun s d => s.stopCell d k.needs)
          .run (s.updKern k.id (fun k => { k with phase := .preempted, stopper := some (src, c) }))
        | .preempted => if k.stopper.isSome then .hold s else .done s cmOk 0
        | .preemptedUnstarted => .done s cmOk 0
        | .restoring => .hold s
        | .done => .done s cmNotFound 0)

/-- End every program of a kernel, and its saved contexts. -/
def State.killKernel (s : State) (k : Kernel) : State :=
  if k.phase = .waiting ∨ k.phase = .preemptedUnstarted then s
  else
    let s := forEach k.cells s (fun s c => if s.cellPart c = k.part then s.releaseCell c else s)
    let s := forEach k.mcs s (fun s n => if s.cellPart (n / 4) = k.part then s.endMc n else s)
    let s := forEach k.vcs s (fun s c => if s.cellPart c = k.part then s.endVc c else s)
    forEach k.cells s (fun s c => s.dropSaved c k.part)

/-- KSTOP_END (R512): every program of the kernel ends, and its LAUNCH completes ENDED. -/
def execKstopEnd (src : CmdSrc) (c : Cmd) (s : State) : Res :=
  s.runCmd src c (cmdOp c == 2 && cmdB c 0xC 1 == 1) (stopRef ++ [(0xC, 1)]) (fun s =>
    let p := s.srcPart src
    match s.kernOf p (cmdB c 8 2) (cmdB c 0xA 2) with
    | some k =>
      let s := s.killKernel k
      let err := match s.kern k.id with | some k => k.dmaErr | none => false
      .done (s.endKernel k cmEnded (0xFF * 256 + b2n err * 2 ^ 28)) cmOk 0
    | none =>
      match s.rawLaunch p (cmdB c 8 2) (cmdB c 0xA 2) with
      | some o => .done (s.complete o.src o.cmd false cmEnded 0) cmOk 0
      | none => .done s cmNotFound 0)

/-- KRESUME (R512): the saved cells are restored; a kernel that never started waits at its start again. -/
def execKresume (src : CmdSrc) (c : Cmd) (s : State) : Res :=
  s.runCmd src c (cmdOp c == 3) stopRef (fun s =>
    let p := s.srcPart src
    match s.kernOf p (cmdB c 8 2) (cmdB c 0xA 2) with
    | none => if (s.rawLaunch p (cmdB c 8 2) (cmdB c 0xA 2)).isSome then .hold s else .done s cmNotFound 0
    | some k =>
      match k.phase with
      | .preempted =>
        if k.stopper.isSome ∨ k.cells.any (fun c => s.cellPart c != p) = true ∨ (mget [] s.recovery.stoppedKernels p).contains k.id = true then .hold s
        else .run (s.updKern k.id (fun k => { k with phase := .restoring, resumer := some (src, c) }))
      | .preemptedUnstarted => if k.cells.any (fun c => s.cellPart c != p) then .hold s else .run (s.updKern k.id (fun k => { k with phase := .waiting, resumer := some (src, c) }))
      | .restoring => .hold s
      | _ => .done s cmOk 0)

end Sys2Proof.Machine
end

