-- ==== Sys2Proof/Machine/Faults.lean ====
section
/-! DEFINITION. Fault service: queues, grow-range faults, ATS and PRI, retry, abort, timeout (R307, R308, R311-R319, R331). -/

namespace Sys2Proof.Machine

/-! ### Accesses that wait (R312, R317, R318) -/

/-- What the held access of a vector core becomes: an exception of its class (R318). -/
def vcCause (kind cls : Nat) : Nat :=
  let page := decide (cls ≤ 3) || decide (cls ≥ 9)
  if kind = 3 then (if page then excFetchPage else excFetchAccess)
  else if kind = 0 then (if page then excLoadPage else excLoadAccess)
  else if page then excStorePage else excStoreAccess

/-- The unit of a matrix core's MEM_FAULT for an operation: its tile requester or its mover. -/
def opUnit (k : TileOpKind) : Nat :=
  match k with
  | .tld | .tst => 4
  | .aspl | .afil => 3

/-- A waiting access translates again, or fails with a class. -/
def State.settleWaiter (s : State) (w : Waiter) (rcd : Word32) (retry : Bool) (cls : Nat) : State :=
  match w with
  | .tileOp n id =>
    (match (s.mc n).ops.find? (fun o => o.id == id && o.held.isSome) with
    | none => s
    | some o =>
      let s := s.updMc n (fun m => { m with ops := mapWhere m.ops (fun x => x.id == id) (fun x =>
        { x with held := none, arrived := if retry then [] else x.arrived }) })
      if retry then s else s.memFault n cls (opUnit o.kind) o.pc)
  | .ldsOp n =>
    (match (s.mc n).lds with
    | none => s
    | some l =>
      let s := s.updMc n (fun m => { m with lds := some { l with held := none } })
      if retry then s else s.memFault n cls 1 l.pc)
  | .fetch n =>
    if (s.mc n).fetchHeld.isNone then s
    else
      let s := s.updMc n (fun m => { m with fetchHeld := none })
      if retry then s else s.issueFault n 3 6 0
  | .vc n =>
    (match (s.rv n).held with
    | none => s
    | some h =>
      let s := s.updRv n (fun r => { r with held := none })
      if retry then s else s.exception n (vcCause h.2.1 cls) (BitVec.ofNat 64 h.2.2))
  | .dma c q => if retry then s.dmaRetry c q else s.dmaAbort c q cls
  | .bulk e => (if retry then s.bulkRetry e else s.bulkAbort e).svcKickAll
  | .chunk k => s.chunkSettle k retry
  | .fabric _ _ _ => s.fabricSettle rcd retry
  | .barWrite _ _ => s.barSettle rcd retry
  | .contrib part id f i => s.contribSettle part id f i retry
  | .result part id f => s.resultSettle part id f retry
  | .command k =>
    if retry then s
    else if k < 2048 then s.cmdReadFailed k
    else (match s.kern (k - 2048) with | some x => s.endKernel x cmRecordFault 0 | none => s)
  | .service p k => if 16 ≤ k ∧ k < 20 then s.cadSettle p (k - 16) retry else s.svcSettle p k retry

/-- A record leaves, and its waiting accesses go on. -/
def State.releaseRec (s : State) (f : FaultRec) (retry : Bool) (cls : Nat) : State :=
  let s := { s with mmu := { s.mmu with recs := s.mmu.recs.filter (fun r => r.id != f.id), prgs := s.mmu.prgs.erase f.id } }
  forEach f.waiters s (fun s w => s.settleWaiter w f.id retry cls)

/-- Retry a record (R317): counted in MMU_FLTSTAT. -/
def State.retryRec (s : State) (f : FaultRec) : State := (s.addF ⟨mmuBase + 0x20, 0, 32⟩ 1).releaseRec f true 0

/-- Abort a record with a class (R314, R317): counted, shown in MMU_FLTLAST, and told by an ABORT record unless the host aborts it. -/
def State.abortRec (s : State) (f : FaultRec) (cls : Nat) (tell : Bool) : State :=
  let f := { f with cls := cls }
  let bs := f.bytes
  let s := s.addF ⟨mmuBase + 0x20, 32, 16⟩ 1
  let s := forEach (upTo 4) s (fun s i => s.setReg (mmuBase + 0x28 + 8 * i) (BitVec.ofNat 64 (ofLE ((bs.drop (8 * i)).take 8))))
  let s := if tell then s.postEvent f.part 2 bs else s
  s.releaseRec f false cls

/-- Replace a record. -/
def State.putRec (s : State) (f : FaultRec) : State :=
  { s with mmu := { s.mmu with recs := mapWhere s.mmu.recs (fun r => r.id == f.id) (fun _ => f) } }

/-! ### Queues and modes (R313, R314) -/

/-- Records that a fault queue holds. -/
def State.queueUse (s : State) (q : Nat) : Nat := (s.mmu.recs.filter (fun r => r.queue == some q)).length

/-- Records a fault queue has room for: 64 at a half controller, 128 at SC7. -/
def queueCap (q : Nat) : Nat := if q < 8 then 64 else 128

/-- The page-fault service of a partition is host-assisted. -/
def State.faultAssist (s : State) (p : Nat) : Bool := s.getB ⟨cfgBase + 0x100 + 8 * p, 0, 1⟩

/-- A fault that firmware can serve from the pool (R314): NOT_PRESENT at level 0 in the grow range of a context that grows. -/
def State.growFault (s : State) (f : FaultRec) : Bool :=
  f.cls == clsNotPresent && f.level == 0 &&
    (match s.ctxEntry f.ctx with
      | some e => e.growEn && decide (e.growLo.toNat ≤ f.va / 65536) && decide (f.va / 65536 < e.growHi.toNat)
      | none => false)

/-- A page request for a denied host page may be sent (R308). -/
def State.sendPrg (s : State) (f : FaultRec) : State :=
  if f.pri || s.mmu.prgs.length ≥ 512 then s
  else
    match s.ctxEntry f.ctx with
    | none => s
    | some e =>
      let page := leafPpn f.pte.toNat + (f.va / 4096) % leafPages f.pte.toNat f.level
      let rd := f.acc == .read || f.acc == .atomic
      let s := (s.putRec { f with pri := true }).emit (.pageRequest e.pasid page rd (accWrites f.acc) (f.acc == .fetch))
      { s with mmu := { s.mmu with prgs := s.mmu.prgs ++ [f.id] } }

/-- FAULT_RECORD_QUEUED (R313, R314, R316): the record reaches its queue, unless that is full, and its service begins. -/
def execFaultRecordQueued (id : Word32) (s : State) : Res :=
  .next (match s.recOf id with
    | none => s
    | some f =>
      let q := unitQueue f.unit
      if f.cls = 0 ∨ f.queue.isSome ∨ f.posted ∨ s.queueUse q ≥ queueCap q then s
      else if f.cls = clsHostDenied then
        (if s.mmu.priFailed then s.abortRec f clsHostDenied true else (s.putRec { f with queue := some q }).sendPrg { f with queue := some q })
      else if f.cls ≥ 4 then s.abortRec f f.cls true
      else if s.faultAssist f.part then
        let f := { f with posted := true }
        ((s.putRec f).postRequest f.part 1 f.bytes).1
      else if s.growFault f then s.putRec { f with queue := some q }
      else s.abortRec f f.cls true)

/-! ### Grow-range faults (R315) -/

/-- The pool record's address, and the physical address of its entry i. -/
def CtxEntry.poolPa (e : CtxEntry) : Nat := bits e.pool.toNat 6 42 * 64

/-- The pool record is unusable (R315). -/
def State.poolBad (s : State) (e : CtxEntry) (r : Nat) : Bool :=
  let size := recB r 0x10 4
  !s.granulesOk e.part e.poolPa 64 || !(upTo 17).any (fun k => decide (4 ≤ k) && size == 2 ^ k) || decide (recB r 0x14 44 ≠ 0)
    || !s.granulesOk e.part e.poolPa (64 + 8 * size)

/-- Address of the level-0 PTE of a virtual address: follow the pointers of the levels above. -/
def State.pteAddr (s : State) (e : CtxEntry) (va ppn lvl : Nat) : Nat :=
  let a := ppn * 4096 + 8 * bits va (lvlShift lvl) 9
  match lvl with
  | 0 => a
  | l + 1 => s.pteAddr e va (bits (ofLE (s.physRead e.part a 8).data) 10 44) l

/-- Take pool entries until one names a page of the partition; fuel bounds the discards. -/
def State.growTake (s : State) (f : FaultRec) (e : CtxEntry) (fuel : Nat) : State :=
  match fuel with
  | 0 => s
  | k + 1 =>
    let d := s.physRead e.part e.poolPa 64
    let s := d.st
    let r := ofLE d.data
    if d.poison || s.poolBad e r then s.abortRec f clsNotPresent true
    else
      let head := recB r 0 8
      let size := recB r 0x10 4
      if head = recB r 8 8 then
        if mget false s.mmu.poolEmpty f.ctx then s
        else
          let s := { s with mmu := { s.mmu with poolEmpty := mset false s.mmu.poolEmpty f.ctx true } }
          (s.postEvent f.part 3 (toLE 1 f.ctx)).raiseM 17
      else
        let s := { s with mmu := { s.mmu with poolEmpty := mset false s.mmu.poolEmpty f.ctx false } }
        let en := s.physRead e.part (e.poolPa + 0x40 + 8 * (head % size)) 8
        let s := en.st
        let pa := bits (ofLE en.data) 16 32 * 65536
        let s := s.physWrite e.part noCore e.poolPa (toLE 8 (head + 1))
        if en.poison || !s.granulesOk e.part pa 65536 then (s.audit 6 0 [f.ctx, pa / 65536]).growTake f e k
        else
          let lo := pa / 65536 * 16
          let s := { s with hbm := { s.hbm with
            written := s.hbm.written.filter (fun x => !(decide (lo ≤ x.1) && decide (x.1 < lo + 16))) } }
          let a := s.pteAddr e (f.va / 65536 * 65536) e.root.toNat 3
          let pte := 2 ^ 63 + (pa / 4096 + 8) * 2 ^ 10 + 7
          let s := forEach (upTo 16) s (fun s i => s.physWrite e.part noCore (a + 8 * i) (toLE 8 pte))
          s.retryRec f

/-- GROW_FAULT_SERVICE (R315): firmware installs a pool page, and retries the record. -/
def execGrowFaultService (id : Word32) (s : State) : Res :=
  .next (match s.recOf id with
    | none => s
    | some f =>
      if f.queue.isSome && s.growFault f then
        (match s.ctxEntry f.ctx with | some e => s.growTake f e 65536 | none => s)
      else s)

/-! ### Timeout (R317) -/

/-- FAULT_TIMEOUT (R317): a record of a context with a fault timeout fails with class TIMEOUT. -/
def execFaultTimeout (id : Word32) (s : State) : Res :=
  .next (match s.recOf id with
    | none => s
    | some f =>
      match s.ctxEntry f.ctx with
      | some e => if e.timeout ≠ 0 ∧ f.cls ≠ 0 then s.abortRec f clsTimeout true else s
      | none => s)

/-! ### Host pages (R307, R308) -/

/-- ATS_TRANSLATION_COMPLETION (R307, R308). -/
def execAtsTranslationCompletion (id : Word32) (res : AtsOutcome) (s : State) : Res :=
  .next (match s.recOf id with
    | none => s
    | some f =>
      if f.cls ≠ 0 then s
      else
        match res with
        | .granted hpa r w x =>
          (match s.ctxEntry f.ctx with
          | none => s.putRec { f with cls := clsContext }
          | some e =>
            if permOk f.acc r w x then
              let page := leafPpn f.pte.toNat + (f.va / 4096) % leafPages f.pte.toNat f.level
              let old := s.mmu.atc.filter (fun a => !(a.pasid == e.pasid && a.page == page))
              let kept := old.drop (old.length + 1 - 4096)
              let grant : AtcEntry := ⟨e.pasid, page, hpa / 4096 * 4096, r, w, x⟩
              let s := { s with mmu := { s.mmu with atc := kept ++ [grant] } }
              s.releaseRec f true 0
            else s.putRec { f with cls := clsHostDenied })
        | .unsupported => s.putRec { f with cls := clsHostError }
        | .aborted => s.putRec { f with cls := clsHostError })

/-- Send the page requests that waited for an index. -/
def State.nextPrgs (s : State) : State :=
  forEach (s.mmu.recs.filter (fun r => r.cls == clsHostDenied && r.queue.isSome && !r.pri)) s (fun s r =>
    match s.recOf r.id with | some f => s.sendPrg f | none => s)

/-- PRG_RESPONSE (R308). -/
def execPrgResponse (id : Word32) (code : PrgCode) (s : State) : Res :=
  .next (match s.recOf id with
    | none => s
    | some f =>
      if !s.mmu.prgs.contains id then s
      else
        match code with
        | .success => (s.retryRec f).nextPrgs
        | .invalid => (s.abortRec f clsHostDenied true).nextPrgs
        | .failure =>
          let s := ({ s with mmu := { s.mmu with priFailed := true } }).abortRec f clsHostDenied true
          forEach (s.mmu.recs.filter (fun r => r.cls == clsHostDenied && r.queue.isSome && !r.pri)) s (fun s r =>
            match s.recOf r.id with | some f => s.abortRec f clsHostDenied true | none => s))

/-! ### Resolutions and walks -/

/-- PAGE_WALK (R298, R307, R311): a translation whose failure opens a record. -/
def execPageWalk (u : UnitId) (ctx : Fin 64) (part : Fin 16) (va : Nat) (acc : Access) (s : State) : Res :=
  let r := s.translate u ctx.val part.val va acc
  .next (match r.x with
    | .dev _ => r.st
    | .host _ => r.st
    | x => (r.st.openFault u ctx.val part.val va acc x none).1)

/-- An FLTRES command for one action (R316, R317): a record not open is STALE; one of another partition is not open to it. -/
def State.fltres (s : State) (src : CmdSrc) (c : Cmd) (mine : Bool) (act : State → FaultRec → State) : Res :=
  s.runCmd src c (cmdOp c == 0x30 && mine) [(8, 4), (0xC, 1)] (fun s =>
    if cmdB c 0xC 1 > 1 then .done s cmBadField 0
    else
      match s.recOf (BitVec.ofNat 32 (cmdB c 8 4)) with
      | some f =>
        if f.cls ≠ 0 ∧ f.part = s.srcPart src then .done (act s f) cmOk 0
        else .done (s.addF ⟨mmuBase + 0x20, 48, 16⟩ 1) cmStale 0
      | none => .done (s.addF ⟨mmuBase + 0x20, 48, 16⟩ 1) cmStale 0)

/-- FLTRES_RETRY (R317). -/
def execFltresRetry (src : CmdSrc) (c : Cmd) (s : State) : Res := s.fltres src c (cmdB c 0xC 1 != 1) (fun s f => s.retryRec f)

/-- FLTRES_ABORT (R317): the accesses fail with the record's class; the host's own abort is not reported again. -/
def execFltresAbort (src : CmdSrc) (c : Cmd) (s : State) : Res := s.fltres src c (cmdB c 0xC 1 == 1) (fun s f => s.abortRec f f.cls false)

end Sys2Proof.Machine
end

