-- ==== Sys2Proof/Machine/PartOp.lean ====
section
/-! DEFINITION. The partition operations (R528-R547). -/

namespace Sys2Proof.Machine

/-! ### Refusals (R531-R533) -/

/-- The partition in which a partition exists (R529): bit exists of CFG_PSTATp. -/
def existsF (p : Nat) : RF := ⟨cfgBase + 0x180 + 8 * p, 0, 1⟩
def State.partExists (s : State) (p : Nat) : Bool := decide (p < 16) && s.getB (existsF p)

/-- A refusal: status, reason, unit and its kind. -/
structure Refuse where
  status : Nat
  reason : Nat
  unit : Nat
  kind : Nat
  deriving DecidableEq, Repr

/-- Its result (R533). -/
def Refuse.result (r : Refuse) : Nat := r.reason + r.unit * 2 ^ 8 + r.kind * 2 ^ 24

/-- A refusal where a condition holds. -/
def refuseIf (b : Bool) (reason unit kind : Nat) : List Refuse :=
  if b then [⟨if reason = 1 ∨ reason = 8 then cmBadField else cmNotPermitted, reason, unit, kind⟩] else []

/-- A refusal for the lowest unit of a list that meets a test. -/
def refuseUnit (l : List Nat) (f : Nat → Bool) (reason kind : Nat) : List Refuse :=
  match l.find? f with
  | some u => refuseIf true reason u kind
  | none => []

/-- The refusal reported: BAD_FIELD before NOT_PERMITTED, then the lowest reason (R533). -/
def worstOf (l : List Refuse) : Option Refuse :=
  match l.filter (fun r => r.status == cmBadField) with
  | r :: t => some (t.foldl (fun a b => if b.reason < a.reason then b else a) r)
  | [] =>
    match l with
    | r :: t => some (t.foldl (fun a b => if b.reason < a.reason then b else a) r)
    | [] => none

/-- Fields of a PARTOP (R531). -/
def poOp (c : Cmd) : Nat := cmdB c 8 1
def poP (c : Cmd) : Nat := cmdB c 9 1
def poQ (c : Cmd) : Nat := cmdB c 0xA 1
def poArg (c : Cmd) : Nat := cmdB c 0xC 4
def poArg2 (c : Cmd) : Nat := cmdB c 0x10 8

/-- A partition or, in a MOVE, none at all. -/
def partNo (x : Nat) (move : Bool) : Bool := decide (x < 16) || (move && x == 16)

/-- The fields that an op does not use are zero: which of p, q and flags it uses, the bits of arg and arg2 it uses, the entry. -/
def poClean (c : Cmd) (p q move fl entry : Bool) (argBits arg2Bits : Nat) : Bool :=
  decide (cmdB c 1 1 < 4) && decide (cmdCtx c < 64) && decide (cmdB c 5 3 = 0)
    && (if p then partNo (poP c) move else poP c == 0) && (if q then partNo (poQ c) move else poQ c == 0)
    && decide (cmdB c 0xB 1 < (if fl then 2 else 1)) && decide (poArg c < 2 ^ argBits) && decide (poArg2 c < 2 ^ arg2Bits)
    && decide (cmdB c 0x18 8 = 0) && (entry || decide (cmdB c 0x20 32 = 0))

/-- Whether a PARTOP is under way: one at a time, across the module (R530). -/
def State.partopBusy (s : State) : Bool := s.host.open_.any (fun o => o.started && cmdOp o.cmd == 0x60)

/-- A PARTOP of one op: refused from a cadence (R562), from a VF, and for the reasons found; else it acts. -/
def State.partop (s : State) (src : CmdSrc) (c : Cmd) (k : Nat) (clean : Bool) (refusals : List Refuse) (act : State → CmdDo) : Res :=
  when (cmdOp c == 0x60 && (poOp c == k || (k == 0 && decide (poOp c > 13))) && s.cmdReady src c && !s.partopBusy) (fun s =>
    match src with
    | .cadence _ _ => s.complete src c false cmBadOpcode 0
    | .ring r =>
      match worstOf (refuseIf (!clean || decide (poOp c > 13)) 1 0 0 ++ refusals) with
      | some x =>
        if s.ringPart r.val ≠ 0 ∧ x.status ≠ cmBadField then s.complete src c false cmNotPermitted 0
        else s.complete src c false x.status x.result
      | none =>
        if s.ringPart r.val ≠ 0 then s.complete src c false cmNotPermitted 0
        else
          match act s with
          | .done s st x => s.complete src c false st x
          | .hold s => s
          | .run s => s.markStarted src c) s

/-- Refusals of a partition that does not exist; 16 names none. -/
def State.absent (s : State) (l : List Nat) : List Refuse := refuseUnit l (fun p => p != 16 && !s.partExists p) 3 8

/-- The lower of two partitions first. -/
def both (p q : Nat) : List Nat := if p ≤ q then [p, q] else [q, p]

/-- Write CFG_ASSISTp. -/
def State.setAssist (s : State) (p v : Nat) : State := s.putF ⟨cfgBase + 0x100 + 8 * p, 0, 9⟩ v

/-! ### CREATE, ASSIST, PHYSWIN, SCOPE, WAYMASK, PORTS -/

/-- The partition whose enabled job entry holds a job number. -/
def State.jobHolder (s : State) (job p : Nat) : Nat → Bool :=
  fun x => x != p && s.getB ⟨chnBase + 0x80 + 8 * x, 16, 1⟩ && s.jobOf x == job

/-- CREATE (R532, R546). -/
def execCreate (src : CmdSrc) (c : Cmd) (s : State) : Res :=
  let p := poP c
  let job := bits (poArg c) 0 16
  s.partop src c 0 (poClean c true false false false false 25 0)
    (refuseIf (s.partExists p) 3 p 8 ++ refuseUnit (upTo 16) (s.jobHolder job p) 9 8) (fun s =>
      let s := (s.putB (existsF p) true).setEvts p {}
      let s := (s.putF ⟨chnBase + 0x80 + 8 * p, 0, 16⟩ job).putF ⟨chnBase + 0x80 + 8 * p, 16, 1⟩ 1
      .done (s.setAssist p (bits (poArg c) 16 9)) cmOk 0)

/-- ASSIST (R547). -/
def execAssist (src : CmdSrc) (c : Cmd) (s : State) : Res :=
  s.partop src c 11 (poClean c true false false false false 9 0) (s.absent [poP c]) (fun s => .done (s.setAssist (poP c) (poArg c)) cmOk 0)

/-- PHYSWIN (R537). -/
def execPhyswin (src : CmdSrc) (c : Cmd) (s : State) : Res :=
  let p := poP c
  s.partop src c 12 (poClean c true false false false false 1 0) (s.absent [p]) (fun s =>
    let w := if poArg c = 1 then some p else if s.parts.physwin = some p then none else s.parts.physwin
    .done { s with parts := { s.parts with physwin := w } } cmOk 0)

/-- The granules of a band: as many as usable stacks. -/
def State.bandGrans (s : State) (b : Nat) : List Nat := (upTo s.goodStacks.length).map (fun i => b * s.goodStacks.length + i)

/-- SCOPE (R270, R532). -/
def execScope (src : CmdSrc) (c : Cmd) (s : State) : Res :=
  let b := bits (poArg c) 0 6
  s.partop src c 10 (poClean c false false false false false 7 0 && decide (b < 47))
    (refuseIf ((s.bandGrans b).any (fun g => s.granPart g != 16)) 6 b 7) (fun s =>
      .done { s with hbm := { s.hbm with dieLocal := mset false s.hbm.dieLocal b (bit (poArg c) 6) } } cmOk 0)

/-- WAYMASK (R278, R532): of every store room of the module. -/
def execWaymask (src : CmdSrc) (c : Cmd) (s : State) : Res :=
  s.partop src c 9 (poClean c true false false false false 16 0) (s.absent [poP c]) (fun s =>
    .done (forEach (upTo 4) s (fun s d => s.putF ⟨srmBase d + 0x100 + 8 * poP c, 0, 16⟩ (poArg c))) cmOk 0)

/-- Bind a port to a partition, or take the binding away. -/
def State.bindPort (s : State) (n p : Nat) (on : Bool) : State := s.putF ⟨portKey n + 0x10, p, 1⟩ (b2n on)

/-- PORTS (R396, R543). -/
def execPorts (src : CmdSrc) (c : Cmd) (s : State) : Res :=
  s.partop src c 5 (poClean c true false false false false 18 1) (s.absent [poP c]) (fun s =>
    .done (forEach ((upTo 18).filter (fun n => bit (poArg c) n)) s (fun s n => s.bindPort n (poP c) (poArg2 c == 1))) cmOk 0)

/-! ### SHARE (R543) -/

/-- The weights of an engine for the partitions other than one, summed. -/
def State.otherWeights (s : State) (e p : Nat) : Nat :=
  (upTo 16).foldl (fun n x => if x = p then n else n + mget 0 s.cellar.weights (16 * e + x)) 0
def State.otherSvc (s : State) (p : Nat) : Nat := (upTo 16).foldl (fun n x => if x = p then n else n + s.svcWt x) 0

/-- Give a partition a weight at an engine; one of 0 stops its jobs there (R488). -/
def State.setWeight (s : State) (e p w : Nat) : State :=
  let s := { s with cellar := { s.cellar with weights := mset 0 s.cellar.weights (16 * e + p) w } }
  if w = 0 then s.stopJobsOn p [e] else s

/-- Give a partition a weight at the coupling service; its paused cadences go on when the weight returns (R564). -/
def State.setSvcWeight (s : State) (p w : Nat) : State :=
  let old := s.svcWt p
  let s := { s with parts := { s.parts with svcWeight := mset 0 s.parts.svcWeight p w } }
  if old = 0 ∧ w ≠ 0 then s.svcResume p else s

/-- SHARE (R543). -/
def execShare (src : CmdSrc) (c : Cmd) (s : State) : Res :=
  let p := poP c
  let svc := bit (poArg c) 12
  let w := poArg2 c
  let es := (upTo 12).filter (fun e => bit (poArg c) e)
  s.partop src c 8 (poClean c true false false false false 13 7 && decide (w ≤ 64) && !(svc && decide (poArg c % 4096 ≠ 0)))
    (s.absent [p] ++ (if svc then refuseIf (decide (s.otherSvc p + w > 64)) 8 0 0 else refuseUnit es (fun e => decide (s.otherWeights e p + w > 64)) 8 6))
    (fun s => .done (if svc then s.setSvcWeight p w else forEach es s (fun s e => s.setWeight e p w)) cmOk 0)

/-! ### SET_CTX, CLEAR_CTX (R294, R536) -/

/-- The context entry that 32 bytes give. -/
def entryOf (r : Nat) : CtxEntry :=
  ⟨bit r 0, bits r 1 4, bit r 5, bit r 6, BitVec.ofNat 20 (recB r 4 4), BitVec.ofNat 44 (recB r 8 8), BitVec.ofNat 32 (recB r 0x10 4),
   BitVec.ofNat 32 (recB r 0x14 4), BitVec.ofNat 64 (recB r 0x18 8 % 2 ^ 48), BitVec.ofNat 16 (recB r 0x1E 2)⟩

/-- An entry sets no reserved bit. -/
def entryOk (r : Nat) : Bool :=
  decide (recB r 0 4 < 2 ^ 7) && decide (recB r 4 4 < 2 ^ 20) && decide (recB r 8 8 < 2 ^ 44) && decide (recB r 0x18 8 % 64 = 0)

/-- A context valid for a partition other than one. -/
def State.ctxOther (s : State) (n p : Nat) : Bool := match s.ctxEntry n with | some e => e.part != p | none => false

/-- Set an entry of the context table. -/
def State.putCtx (s : State) (n : Nat) (e : Option CtxEntry) : State := { s with mmu := { s.mmu with ctxs := mset none s.mmu.ctxs n e } }

/-- SET_CTX (R532). -/
def execSetCtx (src : CmdSrc) (c : Cmd) (s : State) : Res :=
  let n := poArg c
  let r := cmdB c 0x20 32
  s.partop src c 6 (poClean c true false false false true 6 0 && entryOk r && decide ((entryOf r).part = poP c))
    (s.absent [poP c] ++ refuseIf (s.ctxOther n (poP c)) 2 n 5) (fun s => .done (s.putCtx n (some (entryOf r))) cmOk 0)

/-- Open work that names a context (R536): a kernel, copy, reduction or update job, an enabled window, an open fabric transaction. -/
def State.ctxBusy (s : State) (n : Nat) : Bool :=
  s.host.kernels.any (fun k => k.ctx == n)
    || (upTo 16).any (fun e => match s.bulkOf e with | some b => b.ctx == n | none => false)
    || s.reds.any (fun r => (match r.cur with | some x => x.ctx == n | none => false) || (match r.next with | some x => x.ctx == n | none => false)
        || r.ending.any (fun x => x.ctx == n))
    || s.cellar.jobs.any (fun j => j.ctx == n)
    || (upTo 16).any (fun f => s.getB ⟨fnPage f + 0x10, 6, 1⟩ && s.getF ⟨fnPage f + 0x10, 0, 6⟩ == n && s.ctxOk n f)
    || s.fabric.kept.any (fun k => hCtx k.hdr == n)

/-- CLEAR_CTX (R532, R536): the entry is invalid at once; the command completes with its invalidation. -/
def execClearCtx (src : CmdSrc) (c : Cmd) (s : State) : Res :=
  let n := poArg c
  s.partop src c 7 (poClean c false true false false false 6 0)
    (s.absent [poQ c] ++ refuseIf (s.ctxOther n (poQ c)) 2 n 5 ++ refuseIf ((s.ctxEntry n).isSome && s.ctxBusy n) 7 n 5) (fun s =>
      .run ((s.putCtx n none).queueInv ⟨some n, none, none, some src, c⟩))

/-! ### MOVE_RINGS, MOVE_MEM -/

/-- Bind a ring to a partition; 16 leaves it unbound. -/
def State.bindRing (s : State) (r p : Nat) : State := { s with parts := { s.parts with ringOf := msetF ringHome s.parts.ringOf r p } }

/-- MOVE_RINGS (R543). -/
def execMoveRings (src : CmdSrc) (c : Cmd) (s : State) : Res :=
  let first := bits (poArg c) 0 10
  let n := bits (poArg c) 10 11
  let l := (upTo n).map (fun i => first + i)
  s.partop src c 4 (poClean c true true true false false 21 0 && decide (0 < n) && decide (first + n ≤ 1024))
    (s.absent (both (poP c) (poQ c)) ++ refuseUnit l (fun r => s.ringPart r != poQ c) 2 3 ++ refuseUnit l (fun r => s.getF (ringSt r) != 0) 5 3)
    (fun s => .done (forEach l s (fun s r => s.bindRing r (poP c))) cmOk 0)

/-- MOVE_MEM (R542): the granules are unbound at once; release and binding follow the invalidation of the old partition's contexts. -/
def execMoveMem (src : CmdSrc) (c : Cmd) (s : State) : Res :=
  let l := moveGrans c
  let lim := 47 * s.goodStacks.length
  s.partop src c 3 (poClean c true true true false false 13 13 && !l.isEmpty && decide (poArg c + poArg2 c ≤ lim))
    (s.absent (both (poP c) (poQ c)) ++ refuseUnit l (fun g => s.granPart g != poQ c) 2 2) (fun s =>
      let s := forEach l s (fun s g => s.bindGran g 16)
      if poQ c = 16 then
        let s := forEach l s (fun s g => s.releaseGib g)
        .done (forEach l s (fun s g => s.bindGran g (poP c))) cmOk 0
      else .run (s.queueInv ⟨none, none, some (poQ c), some src, c⟩))

/-! ### MOVE_CELLS, DISCARD -/

/-- A kernel has a cell of a list. -/
def Kernel.onAny (k : Kernel) (l : List Nat) : Bool := l.any (fun c => bit k.rcd.toNat c)

/-- Pool slots that a move of cells from q needs (R540), and those in use; 480 there are. -/
def State.poolNeed (s : State) (l : List Nat) (q : Nat) : Nat :=
  (l.filter (fun c =>
    s.host.kernels.any (fun k => k.part == q && k.phase == .running && bit k.rcd.toNat c)
      || (match s.savedOf c q with | some x => !x.pool | none => false))).length
def State.poolUsed (s : State) : Nat := (s.parts.saved.filter (fun x => x.pool)).length

/-- End a kernel as by KSTOP END (R512). -/
def State.endKern (s : State) (k : Kernel) : State :=
  let s := s.killKernel k
  let err := match s.kern k.id with | some k => k.dmaErr | none => false
  s.endKernel k cmEnded (0xFF * 256 + b2n err * 2 ^ 28)

/-- The fields of a range of cells. -/
def cellRangeOk (c : Cmd) : Bool :=
  let n := bits (poArg c) 9 10
  decide (0 < n) && decide (bits (poArg c) 0 9 + n ≤ 480)

/-- A started MOVE_CELLS that waits for no kernel goes on. -/
def moveReady (r : Res) (src : CmdSrc) (c : Cmd) : Res :=
  match r with
  | .next s =>
    .next (if cmdOp c == 0x60 && poOp c == 2 && s.host.open_.contains ⟨src, c, true⟩ && !s.host.kernels.any (fun k => k.stopper == some (src, c))
      then s.moveFinish src c else s)
  | x => x

/-- MOVE_CELLS (R539-R541): kernels on the cells are ended, or stopped and saved; the move goes on when the last is saved. A
kernel that is being stopped or restored is waited for. -/
def execMoveCells (src : CmdSrc) (c : Cmd) (s : State) : Res :=
  let l := moveCells c
  let q := poQ c
  let end_ := bit (cmdB c 0xB 1) 0
  let short (x : Nat) : Bool := decide (s.poolUsed + s.poolNeed (l.filter (fun y => decide (y ≤ x))) q > 480)
  moveReady (s.partop src c 2 (poClean c true true true true false 19 0 && cellRangeOk c)
    (s.absent (both (poP c) q) ++ refuseUnit l (fun x => s.cellPart x != q) 2 1 ++ refuseUnit (if end_ then [] else l) short 4 1) (fun s =>
      let ks := s.host.kernels.filter (fun k => k.part == q && k.onAny l)
      if end_ then .run (forEach (ks.filter (fun k => k.phase.holds)) s (fun s k => s.endKern k))
      else if ks.any (fun k => k.stopper.isSome || k.phase == .restoring) then .hold s
      else
        .run (forEach (ks.filter (fun k => k.phase == .running)) s (fun s k =>
          (forEach k.cells s (fun s d => s.stopCell d k.needs)).updKern k.id (fun k => { k with phase := .preempted, stopper := some (src, c) }))))) src c

/-- DISCARD (R532): saved contexts go, and the kernels they belong to end. -/
def execDiscard (src : CmdSrc) (c : Cmd) (s : State) : Res :=
  let l := moveCells c
  let q := poQ c
  s.partop src c 13 (poClean c false true false false false 19 0 && cellRangeOk c) (s.absent [q]) (fun s =>
    let gone := s.host.kernels.filter (fun k => k.part == q && k.phase.holds && l.any (fun d => bit k.rcd.toNat d && (s.savedOf d q).isSome))
    let s := forEach gone s (fun s k => s.endKern k)
    .done (forEach l s (fun s d => s.dropSaved d q)) cmOk 0)

/-! ### DESTROY (R544) -/

/-- End every copy and multicast of a partition: its command completes ABORTED. -/
def State.abortBulk (s : State) (p : Nat) : State :=
  let s := forEach (upTo 16) s (fun s e =>
    match s.bulkOf e with
    | some b => if b.part = p then s.bulkComplete e b stAborted b.index b.off else s
    | none => s)
  s.bulkDrop p

/-- Open commands of a partition end, but for one. -/
def State.endCommands (s : State) (p : Nat) (but : CmdSrc × Cmd) : State :=
  forEach (s.host.open_.filter (fun o => s.srcPart o.src == p && !(o.src == but.1 && o.cmd == but.2))) s
    (fun s o => s.complete o.src o.cmd o.started cmEnded 0)

/-- Steps 1 and 2: kernels, saved contexts, copies, update jobs and the coupling service's work; fault records, requests, events. -/
def State.destroyWork (s : State) (p : Nat) : State :=
  let s := forEach (s.host.kernels.filter (fun k => k.part == p)) s (fun s k => s.endKern k)
  let s := { s with parts := { s.parts with saved := s.parts.saved.filter (fun x => x.part != p) } }
  let s := s.abortBulk p
  let s := forEach s.cellar.jobs s (fun s j => if j.part = p then (match s.jobNo j.id with | some j => s.stopJob j | none => s) else s)
  let s := s.svcDrop p
  let s := forEach s.mmu.recs s (fun s f => if f.part = p then (match s.recOf f.id with | some f => s.abortRec f f.cls false | none => s) else s)
  s.setEvts p {}

/-- Step 3: reductions and barriers; what is left of the partition's commands ends. -/
def State.destroySync (s : State) (p : Nat) (me : CmdSrc × Cmd) : State :=
  let s := forEach s.reds s (fun s r => if r.part = p ∧ r.id < 4096 then s.unconfigRed r else s)
  let s := { s with reds := s.reds.filter (fun r => r.part != p) }
  let s := s.endCommands p me
  forEach (upTo 1024) s (fun s b => s.barClear p b)

/-- Step 4: cells, granules and rings. -/
def State.destroyUnits (s : State) (p : Nat) : State :=
  let s := forEach ((upTo 480).filter (fun c => s.cellPart c == p)) s (fun s c => (s.scrubCell c).bindCell c 16)
  let gs := s.parts.granOf.filterMap (fun e => if e.2 = p then some e.1 else none)
  let s := forEach gs s (fun s g => s.bindGran g 16)
  let s := s.dropCached ⟨none, none, some p, none, 0⟩
  let s := forEach gs s (fun s g => s.releaseGib g)
  forEach ((upTo 1024).filter (fun r => s.ringPart r == p && !(p == 0 && decide (r < 16)))) s (fun s r => (s.ringStop r).bindRing r 16)

/-- Steps 5 and 6: ports, shares, contexts, job entry, physical window. -/
def State.destroyRest (s : State) (p : Nat) : State :=
  let s := forEach (upTo 18) s (fun s n => s.bindPort n p false)
  let s := { s with cellar := { s.cellar with weights := s.cellar.weights.filter (fun e => e.1 % 16 != p) } }
  let s := { s with parts := { s.parts with
    svcWeight := mdel s.parts.svcWeight p, physwin := if s.parts.physwin = some p then none else s.parts.physwin } }
  let s := forEach (upTo 64) s (fun s n => if s.ctxOk n p then s.putCtx n none else s)
  (s.setReg (chnBase + 0x80 + 8 * p) 0).putB (existsF p) false

/-- DESTROY's steps, in order. -/
def State.destroySteps (s : State) (p : Nat) (me : CmdSrc × Cmd) : State := (((s.destroyWork p).destroySync p me).destroyUnits p).destroyRest p

/-- DESTROY (R544). -/
def execDestroy (src : CmdSrc) (c : Cmd) (s : State) : Res :=
  s.partop src c 1 (poClean c true false false false false 0 0) (s.absent [poP c]) (fun s => .done (s.destroySteps (poP c) (src, c)) cmOk 0)

end Sys2Proof.Machine
end

