-- ==== Sys2Proof/Machine/Sensor.lean ====
section
/-! DEFINITION. The PLDM sensors (R628, R629) and the causes of FAULT_N (R30-R34). -/

namespace Sys2Proof.Machine

/-- Effective ceiling E in W: eff of PWR_STAT. -/
def effF : RF := ⟨pwrBase + 0x10, 0, 16⟩

/-- The upper thresholds of a sensor, in hundredths of its unit (R628). -/
def State.thresholds (s : State) (n : Nat) : List Nat :=
  if n = 1 then [590000, 605000]
  else if n = 2 then [909000, 1045000]
  else if n = 3 then [s.getF effF * 100, s.getF effF * 115]
  else if n = 4 then [s.getF effF * 100]
  else if n = 5 then [40000, 42500, 44000]
  else if n = 6 then [6500, 7000, 7500]
  else if 7 ≤ n ∧ n ≤ 11 then [9500, 10000, 11500]
  else if 12 ≤ n ∧ n ≤ 23 then [8500, 9000, 10500]
  else []

/-- The sensors of R628. -/
def isSensor (n : Nat) : Bool := decide (1 ≤ n) && decide (n ≤ 24)
def isStateSensor (n : Nat) : Bool := n == 30 || n == 31

/-- The reading of a sensor as an integer. -/
def State.reading (s : State) (n : Nat) : Int := sext (mget 0 s.mgmt.sensors n) 32

/-- What a sensor reports: the number of thresholds its reading has passed (log entry 46), or the state of a state sensor. -/
def State.sensorLevel (s : State) (n : Nat) : Nat :=
  if isStateSensor n then (s.reading n).toNat
  else ((s.thresholds n).filter (fun t => decide ((t : Int) < 100 * s.reading n))).length

/-- 100 ms of slow-clock cycles. -/
def sensorGap : Nat := 2500000

/-- Send a sensorEvent to the registered receiver: at once in the asynchronous modes, kept for the poll in the polled one (R628). -/
def State.tellSensor (s : State) (n lvl : Nat) : State :=
  match s.mgmt.receiver with
  | none => s
  | some (b, _, mode) =>
    if mode = 2 then { s with mgmt := { s.mgmt with polled := s.mgmt.polled ++ [[n, lvl, mget 0 s.mgmt.sensors n]] } }
    else if mode = 0 then s
    else
      let s := s.emit (.sensorEvent n (mget 0 s.mgmt.sensors n))
      if b == .i3c then s.emit .inBandInterrupt else s

/-- Report a sensor whose state has changed, at most once in 100 ms (R629). -/
def State.checkSensor (s : State) (n : Nat) : State :=
  let lvl := s.sensorLevel n
  let early := match mget none s.mgmt.toldAt n with | some t => decide ((s.mtime - t).toNat < sensorGap) | none => false
  if lvl = mget 0 s.mgmt.told n ∨ early = true ∨ s.ctlFailed attic = true then s
  else
    let s := s.tellSensor n lvl
    { s with mgmt := { s.mgmt with told := mset 0 s.mgmt.told n lvl, toldAt := mset none s.mgmt.toldAt n (some s.mtime) } }

/-- A new reading of a sensor. -/
def State.sense (s : State) (n : Nat) (v : Int) : State :=
  ({ s with mgmt := { s.mgmt with sensors := mset 0 s.mgmt.sensors n (toBits v 32) } }).checkSensor n

/-! ### FAULT_N (R32, R34) -/

/-- Causes by their bit of MGT_FAULT (R643). -/
def fcOvp : Nat := 0
def fcUvp : Nat := 1
def fcRail : Nat := 2
def fcTherm : Nat := 3
def fcLeak : Nat := 4
def fcJhang : Nat := 5

/-- Assert FAULT_N for a cause: recorded in the audit log and in MGT_FAULT. -/
def State.faultCause (s : State) (c : Nat) : State :=
  let s := { s with power := { s.power with faultN := true, causes := s.power.causes ||| (1#6 <<< c) } }
  let s := s.putF ⟨mgtBase + 0x20, c, 1⟩ 1
  s.audit 3 0 [c]

/-- Units of J keep their registers when the compute dies lose power: the rest are the die and cell windows. -/
def isDieKey (k : Nat) : Bool := decide (0x40_0000 ≤ k) && decide (k < 0x400_0000)

/-- The state of the compute dies and the stacks is gone (R30), and with it the open guards of the dies' blocks (R658). -/
def State.dropDies (s : State) : State :=
  let s := s.resetRegs isDieKey
  let s := { s with mcs := [], rvs := s.rvs.filter (fun e => decide (488 ≤ e.1)), rooms := [], dma := [], mesh := {} }
  let s := { s with hbm := { s.hbm with cells := [], written := [], poison := [], memQ := [], fills := [] } }
  let s := { s with sync := { s.sync with cores := [], signals := [], answers := [] }, cellar := { s.cellar with engines := [] } }
  { s with
    mmu := { s.mmu with tlb := s.mmu.tlb.filter (fun t => decide (488 ≤ t.unit)) }, guards := s.guards.filter (fun g => !isDieKey g.2) }

/-- Power is removed from the compute dies and HBM, and PWRGD goes low (R30, R31). -/
def State.railsOff (s : State) : State :=
  let s := s.dropDies
  { s with power := { s.power with rails := false, pwrgd := false } }

/-- A shutdown for a cause: FAULT_N no later than PWRGD (R33). -/
def State.shutdown (s : State) (c : Nat) : State := (s.faultCause c).railsOff

end Sys2Proof.Machine
end

