-- ==== Sys2Proof/Machine/Power.lean ====
section
/-! DEFINITION. The power manager: ceiling, budgets, lending, calibration, thermal steps, shares (R588-R605), and the power input,
its pins and clocks (R26-R41). Clocks are counted in steps of 12.5 MHz: 64 is 0.80 GHz, 160 is 2.00 GHz. -/

namespace Sys2Proof.Machine

/-! ### Registers -/

def ceilF : RF := ⟨pwrBase, 0, 16⟩
def capF : RF := ⟨pwrBase + 8, 0, 16⟩
def fgF : RF := ⟨pwrBase + 0x10, 16, 12⟩
def limitF : RF := ⟨pwrBase + 0x10, 28, 3⟩
def stepF : RF := ⟨pwrBase + 0x10, 31, 2⟩
def lendingF : RF := ⟨pwrBase + 0x10, 33, 1⟩
def pinF : RF := ⟨pwrBase + 0x18, 32, 16⟩
def limiterF : RF := ⟨pwrBase + 0x30, 0, 16⟩
def calfbF : RF := ⟨pwrBase + 0x30, 16, 16⟩
def pwrEvF : RF := ⟨pwrBase + 0x30, 32, 1⟩

/-- Lowest and highest clock of a cell (R596). -/
def minStep : Nat := 64
def maxStep : Nat := 160

/-- Clock of a cell and of a half's mesh (in MHz, by 2d + h). -/
def State.cellStep (s : State) (c : Nat) : Nat := mget 64 s.power.cellClk c
def State.setStep (s : State) (c n : Nat) : State := { s with power := { s.power with cellClk := mset 64 s.power.cellClk c n } }
def State.meshMhz (s : State) (h : Nat) : Nat := mget 1600 s.power.meshClk h
def State.setMesh (s : State) (h n : Nat) : State := { s with power := { s.power with meshClk := mset 1600 s.power.meshClk h n } }

/-- f_g as a step, read from PWR_STAT. -/
def State.fg (s : State) : Nat := s.getF fgF * 2 / 25

/-! ### Calibration records (R598, R599) -/

/-- The factory's record of a cell (log entry 45). -/
def factoryRec (c : Nat) : CalRecord :=
  let r := Config.factoryCal c
  ⟨BitVec.ofNat 8 (recB r 0 1), BitVec.ofNat 8 (recB r 1 1), BitVec.ofNat 32 (recB r 4 4), BitVec.ofNat 32 (recB r 8 4),
   (upTo 26).map (fun i => BitVec.ofNat 16 (recB r (0xC + 2 * i) 2))⟩

/-- The record of a cell. -/
def State.calRec (s : State) (c : Nat) : CalRecord := (mget none s.power.cal c).getD (factoryRec c)

/-- A binary32 quantity of a record, in units of 2^-149. -/
def fix32 (x : Word32) : Int :=
  match f32 x.toNat with
  | .fin neg m e => signed neg m * ((2 ^ (e + 149).toNat : Nat) : Int)
  | _ => (Config.calSpecial x.toNat : Int)

/-- The unit of budgets: one watt is 2^149 * 80 * 256 of them. -/
def watt : Int := ((2 ^ 149 * 20480 : Nat) : Int)

/-- The draw that a record predicts at a clock and an activity in 1/256 (R594). -/
def recDraw (r : CalRecord) (n act : Nat) : Int := fix32 r.pIdle * 20480 + fix32 r.kDyn * ((n * act : Nat) : Int)

/-- Whether a cell is on the default table; the highest clock that its table allows above f_g (R598, R599). -/
def State.onDefault (s : State) (c : Nat) : Bool := mget false s.power.dflt c
def State.tableCap (s : State) (c : Nat) : Nat :=
  if s.onDefault c then min s.fg 148
  else max s.fg (min maxStep ((nth 0 (s.calRec c).fmax (Config.droopClass c % 26)).toNat * 2 / 25))

/-- The draw predicted for a cell at a clock: at full activity on the default table. -/
def State.predict (s : State) (c n act : Nat) : Int := recDraw (s.calRec c) n (if s.onDefault c then 256 else act)

/-- Guaranteed budget at a clock (R591). -/
def State.budget (s : State) (c n : Nat) : Int := recDraw (s.calRec c) n 256

/-- The cells of a partition. -/
def State.cellsOf (s : State) (p : Nat) : List Nat := s.parts.cellOf.filterMap (fun e => if e.2 = p then some e.1 else none)

/-- The bound cells. -/
def State.boundCells (s : State) : List Nat := s.parts.cellOf.map (fun e => e.1)

/-- Sum of budgets. -/
def State.budgets (s : State) (l : List Nat) (n : Nat) : Int := l.foldl (fun a c => a + s.budget c n) 0

/-- f_g at a ceiling (R592): the highest step at which the budgets of all 480 cells fit E less the rated allowances of 1,600 W; at
least 1.85 GHz at 4,000 W; 0.80 GHz where none fits. -/
def State.fgAt (s : State) (e : Nat) : Nat :=
  let l := upTo 480
  let idle := l.foldl (fun a c => a + fix32 (s.calRec c).pIdle * 20480) 0
  let per := l.foldl (fun a c => a + fix32 (s.calRec c).kDyn * 256) 0
  let fits := (upTo 97).filter (fun i => decide (idle + per * ((minStep + i : Nat) : Int) ≤ watt * ((e : Int) - 1600)))
  let n := minStep + fits.foldl max 0
  if e = 4000 then max n 148 else n

/-! ### The effective ceiling (R589) -/

/-- E and the limit that sets it (R589, R605). -/
def State.effective (s : State) : Nat × Nat :=
  let c := s.getF ceilF
  let k := s.getF capF
  let best : Nat × Nat := if k < c then (k, 1) else (c, 0)
  let best := match s.power.lowBand with
    | some v => let w := v.toNat * 909 / 1000; if w < best.1 then (w, 2) else best
    | none => best
  if s.power.revFlow ∧ 2000 < best.1 then (2000, 3) else best

/-- Eighths of a watt, rounded down and never below zero. -/
def eighths (x : Int) : Nat := (x * 8 / watt).toNat

/-- The thermal step on a die (R601). -/
def State.dieStep (s : State) (d : Nat) : Nat := max (mget 0 s.power.steps d) s.power.coolStep

/-- The clock cap of a step. -/
def stepCap (fg n : Nat) : Nat := if n = 0 then maxStep else if n = 1 then fg else if n = 2 then 112 else minStep

/-- The share of a partition in hardware mode (R602): its guaranteed budgets and what it borrows. -/
def State.hwShare (s : State) (p : Nat) : Nat :=
  eighths ((s.cellsOf p).foldl (fun a c => a + s.budget c (max s.fg (s.cellStep c))) 0)

/-- The share that its guaranteed budgets come to at f_g, under the thermal caps. -/
def State.fairShare (s : State) (p : Nat) : Nat :=
  eighths ((s.cellsOf p).foldl (fun a c => a + s.budget c (min s.fg (stepCap s.fg (s.dieStep (c / 120))))) 0)

/-- The share in force of a partition in host-assisted mode: 0 stands for none applied. -/
def State.shareOf (s : State) (p : Nat) : Nat :=
  let x := mget 0 s.power.share p
  if x = 0 then s.hwShare p else x - 1

/-- Power-cap decisions of a partition are host-assisted (R546). -/
def State.powerAssist (s : State) (p : Nat) : Bool := s.partExists p && s.getB ⟨cfgBase + 0x100 + 8 * p, 7, 1⟩

/-- Post a POWER request before a partition's share is lowered (R602). -/
def State.askPower (s : State) (reason p present : Nat) : State :=
  let prop := s.fairShare p
  if prop ≥ present then s
  else
    let r := s.postRequest p 11 ([BitVec.ofNat 8 reason, 0, 0, 0] ++ toLE 4 present ++ toLE 4 prop ++ toLE 4 (8 * s.getF effF))
    { r.1 with power := { r.1.power with reqs := mset none r.1.power.reqs p (some ⟨r.2, prop⟩) } }

/-- The host-assisted partitions with the shares they have. -/
def State.assistShares (s : State) : List (Nat × Nat) := ((upTo 16).filter s.powerAssist).map (fun p => (p, s.shareOf p))

/-- Recompute E; f_g follows a change, and so do the shares: a fall asks the host-assisted partitions first (R592, R602). -/
def State.updE (s : State) : State :=
  let e := s.effective
  let old := s.getF effF
  let s := s.putF limitF e.2
  if e.1 = old then s
  else
    let shares := s.assistShares
    let s := s.putF effF e.1
    let s := s.putF fgF (s.fgAt e.1 * 25 / 2)
    let s := s.sense 24 e.1
    if e.1 < old then forEach shares s (fun s x => s.askPower (if e.2 ≤ 1 then 1 else e.2) x.1 x.2)
    else { s with power := { s.power with share := [] } }

/-! ### Limiter (R590) -/

/-- A limiter action: counted, with its event. -/
def State.limiter (s : State) : State := ((s.addF limiterF 1).putF pwrEvF 1).raiseM 10

/-- Every cell at 0.80 GHz. -/
def State.allSlow (s : State) : State := { s with power := { s.power with cellClk := [], throttled := true } }

/-- POWER_SAMPLE (R590): input telemetry; the throttle after two samples in a row above 1.15 E; the 0.99 and 0.98 marks of lending. -/
def execPowerSample (x : InputSample) (s : State) : Res :=
  let v := x.vin.toNat + x.iin.toNat * 2 ^ 16 + x.pin.toNat * 2 ^ 32 + x.pmean.toNat * 2 ^ 48
  let s := s.setReg (pwrBase + 0x18) (BitVec.ofNat 64 v)
  let s := if s.power.lowBand.isSome then ({ s with power := { s.power with lowBand := some x.vin } }).updE else s
  let e := s.getF effF
  let exceeds := decide (x.pin.toNat * 100 > 115 * e)
  let s := if exceeds && s.power.overLast then s.allSlow.limiter else s
  let s := { s with power := { s.power with overLast := exceeds } }
  let s :=
    if x.pmean.toNat * 100 > 99 * e then
      if s.power.noLend then s else ({ s with power := { s.power with noLend := true } }).limiter
    else if x.pmean.toNat * 100 < 98 * e then { s with power := { s.power with noLend := false } }
    else s
  .next ((((s.sense 1 x.vin.toNat).sense 2 x.iin.toNat).sense 3 x.pin.toNat).sense 4 x.pmean.toNat)

/-- SUSTAINED_OVERDRAW (R590): one step down for the cells above their guaranteed clock, else for every cell. -/
def execSustainedOverdraw (s : State) : Res :=
  let above := s.boundCells.filter (fun c => decide (s.cellStep c > s.fg))
  let l := if above.isEmpty then upTo 480 else above
  .next (forEach l s (fun s c => s.setStep c (max minStep (s.cellStep c - 1)))).limiter

/-! ### Mesh clocks (R597) -/

/-- Set the mesh clock of every half. -/
def State.meshClocks (s : State) : State :=
  forEach (upTo 8) s (fun s h =>
    let bound := (upTo 60).any (fun i => s.cellPart (60 * h + i) != 16)
    s.setMesh h (if !bound then 800 else if s.dieStep (h / 2) = 3 then 1200 else 1600))

/-! ### The control step (R594, R595, R599) -/

/-- Every core of a cell is reported idle. -/
def State.cellIdle (s : State) (c : Nat) : Bool := (upTo 5).all (fun i => (s.syncOf (5 * c + i)).idle)

/-- The guard of R599: a record is applied only up to 1.25 times its load. -/
def State.calGuard (s : State) (c act : Nat) : State :=
  if s.onDefault c ∨ 4 * act ≤ 5 * (s.calRec c).load.toNat then s
  else
    let s := { s with power := { s.power with dflt := mset false s.power.dflt c true, recal := mset false s.power.recal c true } }
    let s := (s.addF calfbF 1).putF pwrEvF 1
    (s.putF ⟨pwrBase + 0x38, 0, 9⟩ c).raiseM 11

/-- Whether a cell's budget is lent. -/
def State.isLent (s : State) (c : Nat) : Bool := mget false s.power.lent c
def State.setLent (s : State) (c : Nat) (b : Bool) : State := { s with power := { s.power with lent := mset false s.power.lent c b } }

/-- The clock a partition's cells are held to: f_g, or less where its host accepted a smaller share (R603). -/
def State.shareStep (s : State) (p : Nat) : Nat :=
  let x := mget 0 s.power.share p
  if x = 0 ∨ s.powerAssist p = false then s.fg
  else
    let l := s.cellsOf p
    let ok := (upTo 97).filter (fun i => decide (minStep + i ≤ s.fg) && decide (eighths (s.budgets l (minStep + i)) ≤ x - 1))
    minStep + ok.foldl max 0

/-- The cap of a cell under the thermal steps. -/
def State.heatCap (s : State) (c : Nat) : Nat := stepCap s.fg (s.dieStep (c / 120))

/-- Whether a POWER request of a cell's partition is open: its share is not lowered yet (R602, R603). -/
def State.shareHeld (s : State) (c : Nat) : Bool := s.powerAssist (s.cellPart c) && (mget none s.power.reqs (s.cellPart c)).isSome

/-- The bound cells that take part in the pool. -/
def State.poolCells (s : State) : List Nat := s.boundCells.filter (fun c => !s.shareHeld c)

/-- What the pool has left (R594): budgets lent, less what cells draw above f_g. -/
def State.poolLeft (s : State) (act : Nat → Nat) : Int :=
  s.poolCells.foldl (fun a c =>
    if s.isLent c then a + (s.budget c s.fg - s.budget c minStep)
    else if s.cellStep c > s.fg then a - (s.predict c (s.cellStep c) (act c) - s.predict c s.fg (act c))
    else a) 0

/-- Lower borrowers, highest clock first, until the pool is no longer overdrawn (R595). -/
def State.recall (s : State) (act : Nat → Nat) : State :=
  let levels := (upTo 97).map (fun i => maxStep - i)
  (forEach levels (s, s.poolLeft act) (fun x n =>
    forEach (x.1.poolCells.filter (fun c => decide (x.1.cellStep c = n) && decide (n > x.1.fg))) x (fun x c =>
      if x.2 ≥ 0 then x
      else (x.1.setStep c (n - 1), x.2 + (x.1.predict c n (act c) - x.1.predict c (n - 1) (act c)))))).1

/-- Raise one running cell as far as the pool covers its extra draw, in whole steps. -/
def State.lendTo (x : State × Int) (act : Nat → Nat) (c : Nat) : State × Int :=
  let s := x.1
  let n := s.cellStep c
  let top := s.tableCap c
  let each := s.predict c (n + 1) (act c) - s.predict c n (act c)
  let most := top - n
  let k := if each ≤ 0 then most else min most (x.2 / each).toNat
  if n ≥ s.fg ∧ k > 0 ∧ x.2 ≥ 0 then
    (let s := s.setStep c (n + k)
     { s with power := { s.power with rotor := (c + 1) % 480 } }, x.2 - each * (k : Int))
  else x

/-- Lend the pool to the running cells, from where the last step left off (R594). -/
def State.lend (s : State) (act : Nat → Nat) (hot : Nat → Bool) : State :=
  let l := s.poolCells
  let order := l.filter (fun c => decide (s.power.rotor ≤ c)) ++ l.filter (fun c => decide (c < s.power.rotor))
  let can (c : Nat) : Bool := !s.cellIdle c && s.dieStep (c / 120) == 0 && !hot (c / 120) && s.shareStep (s.cellPart c) == s.fg
  (forEach (order.filter can) (s, s.poolLeft act) (fun x c => State.lendTo x act c)).1

/-- A running cell's way back to its guaranteed clock: one step at a time after a throttle, else at once; a cell just woken waits
for the recall (R590, R595). -/
def State.toGuaranteed (s : State) (c : Nat) (ramp : Bool) : State :=
  let want := min (s.shareStep (s.cellPart c)) (s.heatCap c)
  let n := s.cellStep c
  if n < want then s.setStep c (if ramp then n + 1 else want) else s

/-- A running cell's upper bound: its thermal cap, its table, and what its partition's share allows; while a POWER request of its
partition is open, its share is not lowered (R603). -/
def State.clip (s : State) (c : Nat) : State :=
  let p := s.cellPart c
  let top := min (s.heatCap c) (if s.shareHeld c then maxStep else if s.shareStep p < s.fg then s.shareStep p else s.tableCap c)
  if s.cellStep c > top then s.setStep c (max minStep top) else s

/-- The step's clock work: idle cells lend, woken ones are recalled for, running ones return to f_g, then the pool is lent. -/
def State.clockStep (s : State) (act : Nat → Nat) (hot : Nat → Bool) : State :=
  let cells := s.boundCells
  let idle := cells.filter s.cellIdle
  let run := cells.filter (fun c => !s.cellIdle c)
  let woken := run.filter s.isLent
  let exceeds := decide (s.getF pinF > s.getF effF)
  let s := forEach idle s (fun s c => (s.setStep c minStep).setLent c (s.isLent c || !s.power.noLend))
  let s := forEach woken s (fun s c => s.setLent c false)
  let s := forEach run s (fun s c => s.clip c)
  let s := s.recall act
  let ready := run.filter (fun c => !woken.contains c)
  let s := if exceeds then s else forEach ready s (fun s c => s.toGuaranteed c s.power.throttled)
  let back := run.all (fun c => decide (s.cellStep c ≥ min (s.shareStep (s.cellPart c)) (s.heatCap c)))
  let ramping := s.power.throttled && !back
  let s := if back then { s with power := { s.power with throttled := false } } else s
  let s := forEach (run.filter (fun c => hot (c / 120))) s (fun s c => s.setStep c (max minStep (s.cellStep c - 1)))
  if exceeds ∨ ramping = true ∨ s.power.noLend = true then s else s.lend act hot

/-- Cells that are not bound: 0.80 GHz, no budget. -/
def State.dropUnbound (s : State) : State :=
  { s with power := { s.power with
    cellClk := s.power.cellClk.filter (fun e => s.cellPart e.1 != 16), lent := s.power.lent.filter (fun e => s.cellPart e.1 != 16) } }

/-- Die and temperature telemetry of a control step (R605). -/
def State.telemetry (s : State) (x : ControlSample) : State :=
  let pd := (upTo 4).foldl (fun n d => n + (nth 0 x.pdie d).toNat * 2 ^ (12 * d)) 0
  let s := s.setReg (pwrBase + 0x20) (BitVec.ofNat 64 (pd + x.pj.toNat * 2 ^ 48))
  let hottest := x.tdies.foldl (fun m t => max m t.toNat) 0
  let hbm := (upTo 12).foldl (fun m k => max m (s.getF ⟨hbmBase k, 11, 8⟩)) 0
  let s := s.setReg (pwrBase + 0x28) (BitVec.ofNat 64 (x.inlet.toNat + x.outlet.toNat * 2 ^ 8 + hottest * 2 ^ 16 + hbm * 2 ^ 24))
  let s := (s.sense 5 (10 * sext x.inlet.toNat 8)).sense 6 (sext x.outlet.toNat 8)
  (forEach (upTo 4) s (fun s d => s.sense (7 + d) (nth 0 x.tdies d).toNat)).sense 11 x.tj.toNat

/-- POWER_CONTROL_STEP (R593-R599). -/
def execPowerControlStep (x : ControlSample) (s : State) : Res :=
  let act (c : Nat) : Nat := (mget 0 x.activity c).toNat
  let hot (d : Nat) : Bool := decide ((nth 0 x.pdie d).toNat > 760)
  let s := s.telemetry x
  let s := s.meshClocks.dropUnbound
  let s := forEach s.boundCells s (fun s c => s.calGuard c (act c))
  let s := s.clockStep act hot
  .next (s.putB lendingF (s.power.lent.any (fun e => e.2)))

/-! ### Calibration (R598, R600) -/

/-- Install a cell's record; the cell leaves the default table. -/
def State.installCal (s : State) (c : Nat) (r : CalRecord) : State :=
  { s with power := { s.power with
    cal := mset none s.power.cal c (some r), dflt := mset false s.power.dflt c false, recal := mset false s.power.recal c false } }

/-- RECALIBRATION_COMPLETE (R600): the record of a recalibration that was scheduled. -/
def execRecalibrationComplete (c : Fin 480) (rec : CalRecord) (s : State) : Res :=
  when (mget false s.power.recal c.val) (fun s => s.installCal c.val rec) s

/-- CALIBRATION_RETAKE (R598): a cell on the default table stays on it until its recalibration ends. -/
def execCalibrationRetake (c : Fin 480) (rec : CalRecord) (s : State) : Res :=
  when (!mget false s.power.recal c.val) (fun s => s.installCal c.val rec) s

/-! ### Thermal steps (R601) -/

/-- The highest step in force; its state sensor. -/
def State.topStep (s : State) : Nat := (upTo 4).foldl (fun m d => max m (s.dieStep d)) 0

/-- The steps have changed: the event, PWR_STAT, clocks and meshes, and the shares the caps lower. -/
def State.stepsChanged (s : State) (shares : List (Nat × Nat)) (entry : Bool) : State :=
  let s := (s.putF stepF s.topStep).raiseM 2
  let s := (s.sense 30 s.topStep).meshClocks
  let s := forEach s.boundCells s (fun s c => if s.cellStep c > s.heatCap c then s.setStep c (s.heatCap c) else s)
  if entry then forEach shares s (fun s x => s.askPower 4 x.1 x.2) else s

/-- The die of a scope; the coolant has none. -/
def scopeDie (x : ThermalScope) : Option Nat :=
  match x with
  | .die d => some d.val
  | .hbm k => some (k.val / 3)
  | .coolant => none

/-- The step in force in a scope; set it. -/
def State.scopeStep (s : State) (x : ThermalScope) : Nat :=
  match scopeDie x with
  | some d => mget 0 s.power.steps d
  | none => s.power.coolStep
def State.setScope (s : State) (x : ThermalScope) (n : Nat) : State :=
  match scopeDie x with
  | some d => { s with power := { s.power with steps := mset 0 s.power.steps d n } }
  | none => { s with power := { s.power with coolStep := n } }

/-- THERMAL_STEP_ENTRY (R601): the highest step wins. -/
def execThermalStepEntry (sc : ThermalScope) (step : Fin 4) (s : State) : Res :=
  when (decide (s.scopeStep sc < step.val)) (fun s => (s.setScope sc step.val).stepsChanged s.assistShares true) s

/-- THERMAL_STEP_EXIT (R601): one step at a time. -/
def execThermalStepExit (sc : ThermalScope) (s : State) : Res :=
  when (decide (0 < s.scopeStep sc)) (fun s => (s.setScope sc (s.scopeStep sc - 1)).stepsChanged [] false) s

/-- THERMAL_TRIP (R601): thermal shutdown, with the thermal event. -/
def execThermalTrip (_sc : ThermalScope) (s : State) : Res :=
  when s.power.rails (fun s => ((s.raiseM 2).sense 30 4).shutdown fcTherm) s

/-! ### Shares (R602, R603) -/

/-- Apply a share; the request is answered. -/
def State.applyShare (s : State) (p x : Nat) : State :=
  { s with power := { s.power with share := mset 0 s.power.share p (x + 1), reqs := mset none s.power.reqs p none } }

/-- An answer to the latest POWER request of a partition. -/
def State.powerAnswer (s : State) (p seq share : Nat) : State :=
  match mget none s.power.reqs p with
  | some r => if r.seq.toNat = seq then s.applyShare p (min share r.proposed) else s
  | none => s

/-- POWER_ANSWER_TIMEOUT (R603). -/
def execPowerAnswerTimeout (p : Fin 16) (s : State) : Res :=
  .next (match mget none s.power.reqs p.val with
    | some r => s.applyShare p.val r.proposed
    | none => s)

/-- HBM_TEMP_READ (R266, R291). -/
def execHbmTempRead (k : Fin 12) (t : BitVec 8) (s : State) : Res :=
  when (!s.dieDown (k.val / 3)) (fun s => (s.putF ⟨hbmBase k.val, 11, 8⟩ t.toNat).sense (12 + k.val) t.toNat) s

/-! ### The power input, its rails, leaks and flow (R29-R34, R41) -/

/-- INPUT_UNDERVOLTAGE_SHUTDOWN (R30). -/
def execInputUndervoltageShutdown (s : State) : Res := .next (s.shutdown fcUvp)

/-- INPUT_OVERVOLTAGE_SHUTDOWN (R30). -/
def execInputOvervoltageShutdown (s : State) : Res := .next (s.shutdown fcOvp)

/-- INPUT_LOW_BAND_ENTRY (R29): raised once on entry. -/
def execInputLowBandEntry (vin : BitVec 16) (s : State) : Res :=
  when s.power.lowBand.isNone (fun s => ({ s with power := { s.power with lowBand := some vin } }.raiseM 3).updE) s

/-- INPUT_LOW_BAND_EXIT (R29): the new voltage stands in the next sample. -/
def execInputLowBandExit (_vin : BitVec 16) (s : State) : Res :=
  when s.power.lowBand.isSome (fun s => ({ s with power := { s.power with lowBand := none } }.raiseM 3).updE) s

/-- LEAK_DETECTED (R15, R32). -/
def execLeakDetected (s : State) : Res := .next (((s.faultCause fcLeak).raiseM 0).sense 31 1)

/-- RAIL_OUT_OF_REGULATION (R31, R32): of a powered rail. -/
def execRailOutOfRegulation (s : State) : Res :=
  when (s.power.rails || s.power.jrails) (fun s =>
    let s := (s.faultCause fcRail).raiseM 4
    { s with power := { s.power with pwrgd := false } }) s

/-- REVERSED_FLOW_DETECT (R41): the cap stands until the next cold power-on. -/
def execReversedFlowDetect (s : State) : Res :=
  .next ({ s with power := { s.power with revFlow := true } }.raiseM 1).updE

/-- COMMANDED_POWER_DOWN (R33): PWRGD goes low without FAULT_N. -/
def execCommandedPowerDown (s : State) : Res := .next s.railsOff

/-- FAB_REFCLK_LOSS (R38, R407): every port not in DISABLED enters DETECT; one event. -/
def execFabRefclkLoss (s : State) : Res :=
  let s := forEach (upTo 18) s (fun s n => if s.pst n = psDisabled then s else s.toDetect n)
  .next ({ s with power := { s.power with fabClk := false } }.raiseM 5)

/-- SLOW_CLOCK_SWITCH_TO_REF (R37): logged as an event. -/
def execSlowClockSwitchToRef (s : State) : Res :=
  when (!s.power.slowRef) (fun s => { s with power := { s.power with slowRef := true } }.raiseM 6) s

/-- SLOW_CLOCK_SWITCH_TO_OSC (R37): logged as an event. -/
def execSlowClockSwitchToOsc (s : State) : Res :=
  when s.power.slowRef (fun s => { s with power := { s.power with slowRef := false } }.raiseM 6) s

end Sys2Proof.Machine
end

