-- ==== Sys2Proof/Machine/Boot.lean ====
section
/-! DEFINITION. Firmware images and their check (R611-R613, R631-R632), the counted settings (R637-R639), and the boot. -/

namespace Sys2Proof.Machine

/-! ### Images (R630-R632). Components count from 1 -/

/-- The image that a slot holds from manufacture, by its key (log entry 48). -/
def shipped (k : Nat) : Image := ⟨true, BitVec.ofNat 8 (k % 5 + 1), 0, 0, true, true, true⟩

/-- The image of a component in a region. -/
def State.image (s : State) (region comp : Nat) : Image := mgetF shipped s.mgmt.images (region * 5 + comp - 1)
def State.setImage (s : State) (region comp : Nat) (i : Image) : State :=
  { s with mgmt := { s.mgmt with images := msetF shipped s.mgmt.images (region * 5 + comp - 1) i } }

/-- The region that is a component's slot A (R632). -/
def State.slotA (s : State) (comp : Nat) : Nat := mget 0 s.mgmt.slotA comp

/-- Security version in force. -/
def svnF : RF := ⟨mgtBase + 0x10, 0, 7⟩

/-- The check of R631: 0 when it passes, else the failed check as R641 numbers it. -/
def imageFail (svn comp : Nat) (i : Image) : Nat :=
  if !i.magicOk || decide (i.comp.toNat ≠ comp) then 1
  else if !i.keyOk then 2
  else if !i.sigOk then 3
  else if !i.digestOk then 4
  else if i.svn.toNat < svn then 5
  else 0

/-- The image that booted for a component, while one has. -/
def bootDefault (c : Nat) : Option Image := some (shipped (c - 1))
def State.booted (s : State) (comp : Nat) : Option Image := mgetF bootDefault s.mgmt.bootImage comp
def State.setBooted (s : State) (comp region : Nat) (i : Option Image) : State :=
  { s with mgmt := { s.mgmt with bootImage := msetF bootDefault s.mgmt.bootImage comp i, bootRegion := mset 0 s.mgmt.bootRegion comp region } }

/-- Verify a component from slot A, then from slot B; a failure is recorded (R611, R612). Whether one passed. -/
def State.bootComp (s : State) (comp : Nat) : State × Bool :=
  let svn := s.getF svnF
  let a := s.slotA comp
  let b := 1 - a
  let fa := imageFail svn comp (s.image a comp)
  if fa = 0 then (s.setBooted comp a (some (s.image a comp)), true)
  else
    let s := s.audit 4 0 [comp, a, fa]
    let fb := imageFail svn comp (s.image b comp)
    if fb = 0 then (s.setBooted comp b (some (s.image b comp)), true) else (s.audit 4 0 [comp, b, fb], false)

/-- Boot outcome in RST_CAUSE. -/
def bootFailF : RF := ⟨rstJBase, 3, 1⟩
def bootImageF : RF := ⟨rstJBase, 4, 3⟩
def causeF : RF := ⟨rstJBase, 0, 3⟩
def warmF : RF := ⟨rstJBase, 8, 16⟩

/-- The boot chain (R611, R612): it stops at the first component of which both slots fail. -/
def State.bootChain (s : State) : State :=
  let comps := [1, 2, 3, 4, 5]
  let s := forEach comps s (fun s c => s.setBooted c 0 none)
  let s := { s with mgmt := { s.mgmt with bootOk := true } }
  forEach comps s (fun s c =>
    if !s.mgmt.bootOk then s
    else
      let r := s.bootComp c
      if r.2 then r.1
      else
        let s := (r.1.putF bootFailF 1).putF bootImageF c
        { s with mgmt := { s.mgmt with bootOk := false } })

/-- The boot ROM stays in ROM recovery (R612). -/
def State.romRecovery (s : State) : Bool := s.getB bootFailF && s.getF bootImageF == 1

/-- Boot is complete when the chain has passed and every stack is trained, absent or marked bad (R609); with no usable stack there
is no firmware region, and it is not. -/
def State.finishBoot (s : State) : State :=
  if s.mgmt.bootOk && s.power.rails && !s.goodStacks.isEmpty && (upTo 12).all (fun k => s.getF (hbmStF k) != 0) then
    { s with mgmt := { s.mgmt with ready := true } }
  else s

/-! ### Counted settings (R637-R639): 1 ceiling, 2 module number, 3 security version, 4 bad stacks -/

/-- The value in force of a setting: that of the highest slot burned. -/
def State.settingNow (s : State) (n : Nat) : Nat :=
  if n = 1 then (s.mgmt.ceilSlots.getLast?).getD 4000
  else if n = 2 then (s.mgmt.modSlots.getLast?).getD 0
  else if n = 3 then s.mgmt.svnSlots
  else s.mgmt.badMask.toNat

/-- Slots left of a setting. -/
def State.slotsLeft (s : State) (n : Nat) : Nat :=
  if n = 1 then 8 - s.mgmt.ceilSlots.length
  else if n = 2 then 8 - s.mgmt.modSlots.length
  else if n = 3 then 64 - s.mgmt.svnSlots
  else ((upTo 12).filter (fun k => !s.mgmt.badMask.getLsbD k)).length

/-- Burn the next slot of a setting. -/
def State.burn (s : State) (n v : Nat) : State :=
  if n = 1 then { s with mgmt := { s.mgmt with ceilSlots := s.mgmt.ceilSlots ++ [v] } }
  else if n = 2 then { s with mgmt := { s.mgmt with modSlots := s.mgmt.modSlots ++ [v] } }
  else if n = 3 then { s with mgmt := { s.mgmt with svnSlots := v } }
  else { s with mgmt := { s.mgmt with badMask := BitVec.ofNat 12 v } }

/-- Load the registers of the settings from OTP (R643). -/
def State.loadSettings (s : State) : State :=
  let s := (s.putF ceilF (s.settingNow 1)).putF ⟨pwrBase, 16, 4⟩ (s.slotsLeft 1)
  let s := ((s.putF ⟨mgtBase + 8, 0, 14⟩ (s.settingNow 2)).putB ⟨mgtBase + 8, 14, 1⟩ (!s.mgmt.modSlots.isEmpty)).putF ⟨mgtBase + 8, 15, 4⟩ (s.slotsLeft 2)
  let s := (s.putF svnF (s.settingNow 3)).putF ⟨mgtBase + 0x10, 7, 7⟩ (s.slotsLeft 3)
  s.putF ⟨mgtBase + 0x18, 0, 12⟩ (s.settingNow 4)

/-- Put the written module number in force (R390, R607). -/
def State.numberNow (s : State) : State :=
  (s.putF ⟨chnBase, 0, 14⟩ (s.settingNow 2)).putB ⟨chnBase, 14, 1⟩ (!s.mgmt.modSlots.isEmpty)

/-- A burn that a power loss or reset cuts short (R639): the old value stays, or the new one is in force with its slot used and a
RECONCILED record; which of them is a free value. -/
def State.settleBurn (s : State) : State :=
  match s.mgmt.cwrite with
  | none => s
  | some w =>
    let burned := w.result == 1 && bit s.freshVal.toNat 0
    let s := s.tickFree
    let s := { s with mgmt := { s.mgmt with cwrite := none } }
    if burned then
      let old := s.settingNow w.setting
      let s := s.burn w.setting w.value
      s.audit 2 0 [w.setting, 1, old, w.value, s.slotsLeft w.setting]
    else s

/-! ### Cold power-on (R606, R609) -/

/-- An update ends without activation (R634): the slot-B region of a component that was passed and not verified fails its check. -/
def State.endUpdate (s : State) : State :=
  match s.mgmt.session with
  | none => s
  | some u =>
    let s := forEach (u.passed.filter (fun c => !u.verified.contains c)) s (fun s c =>
      let r := if s.romRecovery then s.slotA c else 1 - s.slotA c
      s.setImage r c { s.image r c with digestOk := false })
    { s with mgmt := { s.mgmt with session := none } }

/-- What management keeps in OTP and flash. -/
def State.keptMgmt (s : State) : MgmtState :=
  { images := s.mgmt.images, slotA := s.mgmt.slotA, cfgSeq := s.mgmt.cfgSeq, audit := s.mgmt.audit, auditSeq := s.mgmt.auditSeq
    boots := s.mgmt.boots, ceilSlots := s.mgmt.ceilSlots, modSlots := s.mgmt.modSlots, svnSlots := s.mgmt.svnSlots
    badMask := s.mgmt.badMask }

/-- Every unit at its reset value; what is not of the machine's units goes on. -/
def State.bare (s : State) : State :=
  { State.reset with pending := s.pending, freeCtr := s.freeCtr, out := s.out, mgmt := s.keptMgmt }

/-- Marks of bad stacks in force since a cold power-on; a marked stack is never trained (R267). -/
def State.markBad (s : State) : State :=
  let s := s.putF ⟨mgtBase + 0x18, 12, 12⟩ (s.settingNow 4)
  forEach ((upTo 12).filter (fun k => s.mgmt.badMask.getLsbD k)) s (fun s k => s.putF (hbmStF k) 3)

/-- COLD_POWER_ON: every unit; the straps are sampled, the settings loaded, the images verified; the compute dies' rails only then. -/
def execColdPowerOn (straps : BitVec 5) (mgmtClk : Bool) (s : State) : Res :=
  let s := s.settleBurn.endUpdate
  let perst := s.power.perst
  let fab := s.power.fabClk
  let s := s.bare
  let s := { s with mgmt := { s.mgmt with boots := s.mgmt.boots + 1 } }
  let s := { s with power := { straps := straps, perst := perst, fabClk := fab, slowRef := mgmtClk } }
  let s := if mgmtClk then s.raiseM 6 else s
  let s := (s.loadSettings.numberNow).bootChain
  let s := { s with power := { s.power with rails := s.mgmt.bootOk, pwrgd := s.mgmt.bootOk } }
  .next (if s.mgmt.bootOk then s.markBad else s).updE

/-- HBM_TRAINING_COMPLETE (R267): 8.0 Gb/s, else 6.4 Gb/s, else the stack is absent, which is an event. -/
def execHbmTrainingComplete (k : Fin 12) (ok80 ok64 : Bool) (repaired : BitVec 8) (s : State) : Res :=
  when (s.power.rails && s.getF (hbmStF k.val) == 0) (fun s =>
    let s := s.putF ⟨hbmBase k.val, 3, 8⟩ repaired.toNat
    let s :=
      if ok80 then s.putF (hbmStF k.val) 1
      else if ok64 then (s.putF (hbmStF k.val) 1).putF ⟨hbmBase k.val, 2, 1⟩ 1
      else (s.putF (hbmStF k.val) 2).raiseM 8
    s.finishBoot) s

/-! ### Module warm reset (R606, R607) -/

/-- The registers that a warm reset keeps: those of HBM training, the active bad marks, the count of warm resets. -/
def State.keptRegs (s : State) : SMap Word :=
  let m : SMap Word := (upTo 12).foldl (fun m k => msetF regReset m (hbmBase k) (s.reg (hbmBase k))) []
  let m := msetF regReset m (mgtBase + 0x18) (s.reg (mgtBase + 0x18))
  let r := setFld 0 8 16 (s.getF warmF)
  msetF regReset m rstJBase r

/-- Whether liquid is at the leak trace, or a rail out of regulation: causes a reset does not end (R34). -/
def State.lasting (s : State) : List Nat :=
  (if mget 0 s.mgmt.sensors 31 = 1 then [fcLeak] else []) ++ (if s.power.rails && !s.power.pwrgd then [fcRail] else [])

/-- A module warm reset with its cause. -/
def State.warmReset (s : State) (cause : Nat) (straps : BitVec 5) : State :=
  let s := s.settleBurn.endUpdate
  let old := s
  let s := { s.bare with
    regs := old.keptRegs, regsSlow := old.keptRegs, hbm := { cells := old.hbm.cells, poison := old.hbm.poison } }
  let s := { s with power := {
    rails := old.power.rails, jrails := old.power.jrails, dieOff := old.power.dieOff, pwrgd := old.power.pwrgd
    slowRef := old.power.slowRef, fabClk := old.power.fabClk, perst := old.power.perst, straps := straps
    lowBand := old.power.lowBand, revFlow := old.power.revFlow } }
  let s := { s with mgmt := { s.mgmt with sensors := old.mgmt.sensors.filter (fun e => e.1 == 31) } }
  let s := (s.addF warmF 1).putF causeF cause
  let s := s.putF ⟨mgtBase + 0x20, 0, 6⟩ old.power.causes.toNat
  let s := forEach old.lasting s (fun s c => s.faultCause c)
  (s.loadSettings.numberNow).bootChain.finishBoot.updE

/-- MOD_RST_N_ASSERT (R24, R606). -/
def execModRstNAssert (straps : BitVec 5) (s : State) : Res := .next (s.warmReset 1 straps)

/-! ### Function level and link resets (R526, R606) -/

/-- A bulk engine's work for a ring of a partition. -/
def BulkState.ringOf (b : BulkState) (p : Nat) : Bool :=
  b.part == p && (match b.owner with | .cmd (.ring _) _ => true | _ => false)

/-- Whether a command came from a ring. -/
def fromRing (src : CmdSrc) : Bool := match src with | .ring _ => true | .cadence _ _ => false

/-- Kernels, copies and update jobs that a partition's rings started end. -/
def State.flrWork (s : State) (p : Nat) : State :=
  let s := forEach (s.host.kernels.filter (fun k => k.part == p && fromRing k.src)) s (fun s k => s.endKern k)
  let s := forEach (upTo 16) s (fun s e =>
    match s.bulkOf e with
    | some b =>
      if b.ringOf p then
        let s := (s.dropWaiters (fun w => w == .bulk e)).setBulk e none
        let mine (r : OutReq) : Bool := match r.owner with | .frag x _ => x == e | _ => false
        { s with fabric := { s.fabric with outstanding := s.fabric.outstanding.filter (fun r => !mine r) } }
      else s
    | none => s)
  forEach s.cellar.jobs s (fun s j =>
    if j.part = p ∧ fromRing j.src = true then (match s.jobNo j.id with | some j => s.stopJob j | none => s) else s)

/-- Fault records, requests and events of a partition; its commands and records are forgotten. -/
def State.flrQueues (s : State) (p : Nat) : State :=
  let s := forEach s.mmu.recs s (fun s f => if f.part = p then (match s.recOf f.id with | some f => s.abortRec f f.cls false | none => s) else s)
  let s := s.setEvts p { s.evts p with buffer := [], popReqs := [], dropped := 0 }
  let open_ := s.host.open_.filter (fun o => !(fromRing o.src && s.srcPart o.src == p))
  let recs := s.host.waitRecs.filter (fun e => s.ringPart e.1 != p)
  { s with host := { s.host with open_ := open_, waitRecs := recs, held := s.host.held.filter (fun h => h.fn != p) } }

/-- Rings of a partition off; its function page, ring registers with it, at reset values; its vectors with nothing pending. -/
def State.flrPage (s : State) (p : Nat) : State :=
  let rings := (upTo 1024).filter (fun r => s.ringPart r == p)
  let s := forEach rings s (fun s r => s.ringStop r)
  let s := s.resetRegs (fun k => decide (0x2000_0000 ≤ k) && rings.contains ((k - 0x2000_0000) / 0x20))
  let s := s.resetRegs (fun k => decide (fnPage p ≤ k) && decide (k < fnPage p + 0x1_0000))
  let mine (e : Nat × Bool) : Bool := e.1 / 128 == p
  { s with host := { s.host with
    vecBusy := s.host.vecBusy.filter (fun e => !mine e), vecPend := s.host.vecPend.filter (fun e => !mine e)
    arm := s.host.arm.filter (fun e => !rings.contains e.1), dbMark := s.host.dbMark.filter (fun e => !rings.contains e.1)
    sqHead := s.host.sqHead.filter (fun e => !rings.contains e.1) } }

/-- The steps of R526 for a partition. -/
def State.flrSteps (s : State) (p : Nat) : State := ((s.flrWork p).flrQueues p).flrPage p

/-- FLR (R526): of the PF, it applies to partition 0 and to every VF, and closes the PF's guards (R658). -/
def execFlr (f : Fin 16) (s : State) : Res :=
  when (s.fnOk f.val) (fun s =>
    let l := if f.val = 0 then upTo (s.host.numVfs + 1) else [f.val]
    let s := forEach l s (fun s p => s.flrSteps p)
    let s := if f.val = 0 then { s with guards := s.guards.filter (fun g => g.1 != .pf) } else s
    s.raiseM 13) s

/-- A PCIe link reset (R606): configuration space, NumVFs, the steps of R526 for every partition. -/
def State.linkReset (s : State) : State :=
  let s := forEach (upTo 16) s (fun s p => s.flrSteps p)
  { s with
    host := { s.host with numVfs := 0, linkUp := false, linkRate := 0, linkWidth := 0, busMaster := [], pfBar := 36, vfBar := 36 }
    mmu := { s.mmu with priFailed := false } }

/-- PERST_N_ASSERT (R606). -/
def execPerstNAssert (s : State) : Res :=
  let s := { s with power := { s.power with perst := true } }
  .next s.linkReset

/-- PERST_N_DEASSERT (R36, R610): the endpoint looks for PCIE_REFCLK and may train. -/
def execPerstNDeassert (refclkOk : Bool) (s : State) : Res :=
  .next { s with power := { s.power with perst := false }, host := { s.host with srisMode := !refclkOk } }

/-- PCIE_HOT_RESET: a Hot Reset or Link Disable (R606). -/
def execPcieHotReset (s : State) : Res := .next s.linkReset

/-- PCIE_LINK_STATE_CHANGE (R581): the link's state, with its event; a link held in reset does not come up. -/
def execPcieLinkStateChange (up : Bool) (rate width : Fin 8) (s : State) : Res :=
  when (!up || (!s.power.perst && s.power.jrails)) (fun s =>
    { s with host := { s.host with linkUp := up, linkRate := if up then rate.val else 0, linkWidth := if up then width.val else 0 } }.raiseM 12) s

/-- NUMVFS_WRITE (R496): a value above 15 is ignored. -/
def execNumvfsWrite (n : BitVec 16) (s : State) : Res :=
  when (decide (n.toNat ≤ 15)) (fun s => { s with host := { s.host with numVfs := n.toNat } }) s

/-- CONFIGURATION_WRITE (R308, R497, R527): re-enabling the Page Request Interface, Bus Master Enable, a BAR4 size. -/
def execConfigurationWrite (f : Fin 16) (w : CfgWrite) (s : State) : Res :=
  when (s.fnOk f.val) (fun s =>
    match w with
    | .priEnable => { s with mmu := { s.mmu with priFailed := false } }
    | .busMaster b => { s with host := { s.host with busMaster := mset false s.host.busMaster f.val b } }
    | .barSize n =>
      if n.val < 30 ∨ 40 < n.val then s
      else if f.val = 0 then { s with host := { s.host with pfBar := n.val } }
      else { s with host := { s.host with vfBar := n.val } }) s

/-! ### Cell and partition resets (R606, R608) -/

/-- A partition reset: the steps of R526, its cells reset, its saved contexts dropped. -/
def State.partReset (s : State) (p : Nat) : State :=
  let s := s.flrSteps p
  let s := { s with parts := { s.parts with saved := s.parts.saved.filter (fun x => x.part != p) } }
  forEach (s.cellsOf p) s (fun s c => s.cellReset c)

/-- A requested partition reset (R608): of a partition that exists, in the serial order of the partition operations. -/
def State.askPartReset (s : State) (p : Nat) : State :=
  if !s.partExists p then s
  else if s.partopBusy then { s with parts := { s.parts with partWait := s.parts.partWait ++ [p] } }
  else s.partReset p

/-- Perform the partition resets whose wait is over. -/
def State.drainParts (s : State) : State :=
  if s.partopBusy then s
  else
    let l := s.parts.partWait
    let s := { s with parts := { s.parts with partWait := [] } }
    forEach l s (fun s p => if s.partExists p then s.partReset p else s)

end Sys2Proof.Machine
end

