-- ==== Sys2Proof/Machine/Irq.lean ====
section
/-! DEFINITION. The interrupt controllers (R569-R587). -/

namespace Sys2Proof.Machine

/-- Base of a controller's registers; the number of its sources. -/
def irqBase (ctl : Nat) : Nat := if ctl < 4 then irqDBase ctl else irqJBase
def irqSrcs (ctl : Nat) : Nat := if ctl < 4 then 256 else if ctl = 4 then 512 else 0

/-- Fields of a source and of its group (R586, R587). -/
def irqEn (ctl src : Nat) : RF := ⟨irqBase ctl + 8 * (src / 16), src % 16, 1⟩
def irqTgt (ctl src : Nat) : RF := ⟨irqBase ctl + (if ctl < 4 then 0x800 else 0x1000) + 8 * src, 8, 5⟩
def irqHold (ctl g : Nat) : RF := ⟨irqBase ctl + 0x100 + 8 * g, 0, 16⟩

/-- Whether a fault queue holds a record. -/
def State.queueFull (s : State) (q : Nat) : Bool := s.mmu.recs.any (fun f => f.queue == some q)

/-- The flags of a source, as they stand in their register (R579-R582). -/
def State.srcFlags (s : State) (ctl src : Nat) : Nat :=
  let mbit (i : Nat) : Nat := s.getF ⟨irqJBase + 0x2000, i, 1⟩
  if ctl < 4 then
    let dbit (i : Nat) : Nat := s.getF ⟨irqDBase ctl + 0x1000, i, 1⟩
    if src < 8 then dbit src
    else if src = 8 then s.getF ⟨srmBase ctl, 4, 1⟩
    else if src < 11 then dbit (src - 1)
    else if src < 14 then s.getF ⟨celBase (3 * ctl + (src - 11)) + 8, 32, 1⟩
    else if src < 16 then b2n (s.queueFull (2 * ctl + (src - 14)))
    else if src < 136 then s.getF ⟨irqDBase ctl + 0x2000 + 0x20 * (src - 16), 0, 11⟩
    else 0
  else if ctl = 4 then
    if src = 16 then b2n (s.queueFull 15)
    else if src = 18 then s.getF ⟨mmuBase + 8, 12, 1⟩
    else if src = 20 then s.getF ⟨redBase + 0x10, 56, 1⟩
    else if src < 20 then mbit src
    else if 32 ≤ src ∧ src < 50 then s.getF ⟨irqJBase + 0x2100 + 0x10 * (src - 32), 0, 5⟩
    else if 64 ≤ src ∧ src < 80 then
      b2n ((upTo 1024).any (fun r => s.ringPart r == src - 64 && s.getB ⟨irqJBase + 0x2400 + 8 * (r / 64), r % 64, 1⟩))
    else if 112 ≤ src ∧ src < 116 then mbit (src - 92)
    else if 116 ≤ src ∧ src < 125 then mbit (src - 92)
    else 0
  else 0

/-- The line of a source: the OR of its flags (R570). -/
def State.rawLine (s : State) (ctl src : Nat) : Bool := decide (s.srcFlags ctl src ≠ 0)

/-- Whether some target holds a source as taken. -/
def State.srcTaken (s : State) (ctl src : Nat) : Bool := (upTo 17).any (fun t => mget none s.irq.taken t == some (ctl, src))

/-- A source is pending (R574). -/
def State.srcPending (s : State) (ctl src : Nat) : Bool :=
  decide (src < irqSrcs ctl) && mget false s.irq.line (512 * ctl + src) && s.getB (irqEn ctl src) && !s.srcTaken ctl src

/-- A controller's selection for a target: its lowest pending source routed there whose group is not in hold-off. -/
def State.ctlSelect (s : State) (ctl t : Nat) : Option Nat :=
  (upTo (irqSrcs ctl)).find? (fun n =>
    s.srcPending ctl n && s.getF (irqTgt ctl n) == t && !mget false s.irq.holdoff (32 * ctl + n / 16))

/-- The selection shown to a target: the lowest source over the controllers, the lower controller where they agree (R574, R575). -/
def State.irqTop (s : State) (t : Nat) : Option (Nat × Nat) :=
  if (mget none s.irq.taken t).isSome then none
  else (upTo 5).foldl (fun b c =>
    match s.ctlSelect c t, b with
    | some n, some (x, m) => if n < m then some (c, n) else some (x, m)
    | some n, none => some (c, n)
    | none, b => b) none

/-- IRQ_FLAG_SET (R570): a unit sets a flag whose event this model does not otherwise show. -/
def execIrqFlagSet (fl : IrqFlag) (s : State) : Res :=
  .next (match fl with
    | .dstat d b => s.raiseD d.val b.val
    | .cstat c b => s.raiseC c.val b.val
    | .mstat b => if mstatBit b.val then s.raiseM b.val else s
    | .pstat p b => s.raiseP p.val b.val)

/-- IRQ_FILTER_PASS (R573): the line of a source has held its level long enough. -/
def execIrqFilterPass (ctl : Fin 5) (src : Fin 512) (s : State) : Res :=
  when (decide (src.val < irqSrcs ctl.val)) (fun s =>
    { s with irq := { s.irq with line := mset false s.irq.line (512 * ctl.val + src.val) (s.rawLine ctl.val src.val) } }) s

/-- Post a ROUTED record of a source to a partition that routes its events to the host (R585). -/
def State.postRouted (s : State) (p ctl src cell : Nat) : State :=
  if p < 16 ∧ s.getB ⟨cfgBase + 0x100 + 8 * p, 8, 1⟩ = true then
    s.postEvent p 13 (toLE 1 ctl ++ toLE 1 0 ++ toLE 2 src ++ toLE 4 (s.srcFlags ctl src) ++ toLE 2 cell ++ toLE 2 0
      ++ toLE 4 (mget 0 s.irq.routed (512 * ctl + src)))
  else s

/-- Firmware's ROUTED records at a take: of a cell, of a port for each partition bound to it, of a cellar engine's last job. -/
def State.routedTake (s : State) (ctl src : Nat) : State :=
  let route (p : Nat) : Bool := s.getB ⟨cfgBase + 0x100 + 8 * p, 8, 1⟩
  let ps : List Nat × Nat :=
    if ctl < 4 ∧ 16 ≤ src ∧ src < 136 then ([s.cellPart (120 * ctl + (src - 16))], 120 * ctl + (src - 16))
    else if ctl < 4 ∧ 11 ≤ src ∧ src < 14 then ([s.getF ⟨celBase (3 * ctl + (src - 11)) + 8, 8, 4⟩], 0xFFFF)
    else if ctl = 4 ∧ 32 ≤ src ∧ src < 50 then ((upTo 16).filter (fun p => bit (s.reg (portKey (src - 32) + 0x10)).toNat p), 0xFFFF)
    else ([], 0xFFFF)
  let ps : List Nat × Nat := (ps.1.filter (fun p => decide (p < 16) && route p), ps.2)
  if ps.1.isEmpty then s
  else
    let s := forEach ps.1 s (fun s p => s.postRouted p ctl src ps.2)
    { s with irq := { s.irq with routed := mdel s.irq.routed (512 * ctl + src) } }

/-- A write of IRQ_TAKEt (R575-R577): a pending source routed to a target that holds none becomes taken, and its group's hold-off
starts. -/
def State.irqTake (s : State) (t ctl src : Nat) : State :=
  if (mget none s.irq.taken t).isNone && s.srcPending ctl src && s.getF (irqTgt ctl src) == t then
    let g := src / 16
    let held := decide (s.getF (irqHold ctl g) ≠ 0)
    let s := { s with irq := { s.irq with
      taken := mset none s.irq.taken t (some (ctl, src))
      holdoff := if held then mset false s.irq.holdoff (32 * ctl + g) true else s.irq.holdoff } }
    s.routedTake ctl src
  else s

/-- IRQ_TAKE (R575-R577). -/
def execIrqTake (t : Fin 17) (ctl : BitVec 3) (src : BitVec 9) (s : State) : Res := .next (s.irqTake t.val ctl.toNat src.toNat)

/-- A write of IRQ_DONEt (R575, R577). -/
def State.irqDone (s : State) (t ctl src : Nat) : State :=
  if mget none s.irq.taken t = some (ctl, src) then { s with irq := { s.irq with taken := mset none s.irq.taken t none } } else s

/-- IRQ_DONE (R575, R577). -/
def execIrqDone (t : Fin 17) (ctl : BitVec 3) (src : BitVec 9) (s : State) : Res := .next (s.irqDone t.val ctl.toNat src.toNat)

/-- IRQ_HOLDOFF_EXPIRY (R576). -/
def execIrqHoldoffExpiry (ctl : Fin 5) (g : Fin 32) (s : State) : Res :=
  .next { s with irq := { s.irq with holdoff := mset false s.irq.holdoff (32 * ctl.val + g.val) false } }

/-- The value of IRQ_TOPt (R587). -/
def State.topWord (s : State) (t : Nat) : Word :=
  let held := b2n (mget none s.irq.taken t).isSome * 2 ^ 13
  match s.irqTop t with
  | some (c, n) => BitVec.ofNat 64 (c + n * 8 + 2 ^ 12 + held)
  | none => BitVec.ofNat 64 held

/-- The value of IRQ_PENDg of a controller (R586). -/
def State.pendWord (s : State) (ctl g : Nat) : Word :=
  let sum (f : Nat → Bool) : Nat := (upTo 16).foldl (fun v i => v + (if f (16 * g + i) then 2 ^ i else 0)) 0
  BitVec.ofNat 64 (sum (s.srcPending ctl) + 2 ^ 16 * sum (s.srcTaken ctl))

end Sys2Proof.Machine
end

