-- ==== Sys2Proof/Machine/Recovery.lean ====
section
/-! DEFINITION. The watchdogs and the recovery chain (R614-R622). Controllers are named by their target codes. -/

namespace Sys2Proof.Machine

/-! ### Who owns a failed controller's duties (R617, R619) -/

/-- The first of a list of controllers that has not failed. -/
def State.firstLive (s : State) (l : List Nat) : Option Nat := l.find? (fun k => !s.ctlFailed k)

/-- The deputy: the first live half controller. -/
def State.deputy (s : State) : Option Nat := s.firstLive (upTo 8)

/-- Who uses the trapdoors: SC7, else the attic controller, else the deputy (R616, R619). -/
def State.trapdoor (s : State) : Option Nat := if !s.ctlFailed 15 then some 15 else if !s.ctlFailed attic then some attic else s.deputy

/-- The new owner of a failed controller's duties. A group of service cores is served by the lowest live one (log entry 49). -/
def State.ownerFor (s : State) (k : Nat) : Option Nat :=
  if k < 8 then (if !s.ctlFailed (k ^^^ 1) then some (k ^^^ 1) else s.trapdoor)
  else if k < 12 then s.firstLive [8, 9, 10, 11]
  else if k < 15 then s.firstLive [12, 13, 14]
  else if k = 15 then (if !s.ctlFailed attic then some attic else s.deputy)
  else s.deputy

/-- The owner in force; none while the controller works, or nobody has taken over. -/
def State.ownerOf (s : State) (k : Nat) : Option Nat := mget none s.recovery.owner k
def State.setOwner (s : State) (k : Nat) (o : Option Nat) : State :=
  { s with recovery := { s.recovery with owner := mset none s.recovery.owner k o } }
def State.setFailed (s : State) (k : Nat) (b : Bool) : State :=
  { s with recovery := { s.recovery with failed := mset false s.recovery.failed k b } }

/-! ### Targets (R615) -/

/-- The rewritten sources of a controller. -/
def State.movedOf (s : State) (k : Nat) : List MovedTgt := mget [] s.recovery.moved k
def State.setMoved (s : State) (k : Nat) (l : List MovedTgt) : State :=
  { s with recovery := { s.recovery with moved := mset [] s.recovery.moved k l } }

/-- Route a source to a target; one that goes to a failed controller follows its owner. -/
def State.routeTo (s : State) (ctl src code : Nat) : State :=
  match s.ctlFailed code, s.ownerOf code with
  | true, some o => (s.putF (irqTgt ctl src) o).setMoved code (s.movedOf code ++ [⟨ctl, src, code⟩])
  | _, _ => s.putF (irqTgt ctl src) code

/-- Every source of every controller. -/
def allSources : List (Nat × Nat) := (upTo 5).flatMap (fun c => (upTo (irqSrcs c)).map (fun n => (c, n)))

/-- The failed controller, other than k, whose moved sources hold a source. -/
def State.movedFrom (s : State) (k ctl src : Nat) : Option Nat :=
  (upTo 17).find? (fun j => j != k && (s.movedOf j).any (fun m => m.ctl == ctl && m.src == src))

/-- Rewrite the targets of a failed controller to its new owner; sources that it served for another failed controller go to that
one's owner. A source it had taken is pending again. -/
def State.rewrite (s : State) (k o : Nat) : State :=
  let mine := allSources.filter (fun x => s.getF (irqTgt x.1 x.2) == k)
  let s := forEach mine s (fun s x =>
    match s.movedFrom k x.1 x.2 with
    | some j => s.putF (irqTgt x.1 x.2) ((s.ownerOf j).getD o)
    | none => (s.putF (irqTgt x.1 x.2) o).setMoved k (s.movedOf k ++ [⟨x.1, x.2, k⟩]))
  { s with irq := { s.irq with taken := mset none s.irq.taken k none } }

/-- Write the original targets back. -/
def State.restoreTargets (s : State) (k : Nat) : State :=
  let l := s.movedOf k
  let s := s.setMoved k []
  forEach l s (fun s m => s.routeTo m.ctl m.src m.old)

/-! ### Registers (R623, R624) -/

/-- The restarts of a controller in the current hour. -/
def State.hourRestarts (s : State) (k : Nat) : List Word :=
  (mget [] s.recovery.restarts k).filter (fun t => decide ((s.mtime - t).toNat < 3600 * tickS))

/-- RST_DSTAT of each die and RST_RECOV. -/
def State.recovRegs (s : State) : State :=
  let cnt (k : Nat) : Nat := min 3 (s.hourRestarts k).length
  let s := forEach (upTo 4) s (fun s d =>
    let own (k : Nat) : Nat := (s.ownerOf k).getD k
    s.setReg (rstDBase d + 0x10)
      (BitVec.ofNat 64 (own (2 * d) + own (2 * d + 1) * 2 ^ 5 + cnt (2 * d) * 2 ^ 10 + cnt (2 * d + 1) * 2 ^ 12)))
  let sc := (upTo 8).foldl (fun v n => v + b2n (s.ctlFailed (8 + n)) * 2 ^ (5 + n) + cnt (8 + n) * 2 ^ (16 + 2 * n)) 0
  let jh := s.getF ⟨rstJBase + 0x18, 15, 1⟩
  s.setReg (rstJBase + 0x18) (BitVec.ofNat 64 ((s.ownerOf attic).getD 31 + sc + cnt attic * 2 ^ 13 + jh * 2 ^ 15))

/-! ### Restarts (R618) -/

/-- Whether a controller may be restarted: at most three times in any hour. -/
def State.mayRestart (s : State) (k : Nat) : Bool := decide ((s.hourRestarts k).length < 3)

/-- Restart a controller: it is reset, its guards close (R658), and its restart is recorded (R641). -/
def State.restart (s : State) (k : Nat) : State :=
  let s := { s with recovery := { s.recovery with
    restarts := mset [] s.recovery.restarts k (s.hourRestarts k ++ [s.mtime])
    restarting := mset false s.recovery.restarting k true } }
  let s := { s with guards := s.guards.filter (fun g => match g.1 with | .fw c => c.val != k | _ => true) }
  let s := if k < 16 then s.setRv (480 + k) {} else s
  (s.audit 8 0 [k, (s.ownerOf k).getD 31]).recovRegs

/-! ### Partitions during recovery (R622) -/

/-- The dies that a failure affects. -/
def affectedDies (k : Nat) : List Nat :=
  if k < 8 then [k / 2] else if 12 ≤ k ∧ k < 15 then [] else [0, 1, 2, 3]

/-- Recovery of a partition is host-assisted (R546). -/
def State.recovAssist (s : State) (p : Nat) : Bool := s.partExists p && s.getB ⟨cfgBase + 0x100 + 8 * p, 2, 1⟩

/-- Pre-empt a running kernel as KSTOP PREEMPT does. -/
def State.preemptKern (s : State) (k : Kernel) : State :=
  let s := forEach k.cells s (fun s d => s.stopCell d k.needs)
  s.updKern k.id (fun k => { k with phase := .preempted })

/-- Stop a host-assisted partition's kernels on the affected dies and post its RECOVERY request. -/
def State.askRecovery (s : State) (k o p : Nat) : State :=
  let dies := affectedDies k
  let on (c : Nat) : Bool := dies.contains (c / 120)
  if !(s.cellsOf p).any on then s
  else
    let ks := s.host.kernels.filter (fun x => x.part == p && x.phase == .running && x.cells.any on)
    let s := forEach ks s (fun s x => s.preemptKern x)
    let fail := if k < 8 then (if s.ctlFailed (k ^^^ 1) then 2 else 1) else if k = attic then 4 else 3
    let die := if k < 8 then k / 2 else 0xFF
    let r := s.postRequest p 12 ([BitVec.ofNat 8 fail, BitVec.ofNat 8 die, BitVec.ofNat 8 k, BitVec.ofNat 8 o]
      ++ toLE 4 ks.length ++ toLE 8 (mget 0 s.recovery.flagTime k).toNat)
    let s := r.1
    { s with recovery := { s.recovery with
      reqs := mset none s.recovery.reqs p (some r.2)
      stoppedKernels := mset [] s.recovery.stoppedKernels p (mget [] s.recovery.stoppedKernels p ++ ks.map (fun x => x.id)) } }

/-! ### Heartbeats, takeover, restart -/

/-- Set the flag of a silent controller (R614). -/
def State.hbFlag (s : State) (k : Nat) : State :=
  if k < 8 then
    let s := s.raiseD (k / 2) (8 + k % 2)
    if s.ctlFailed (k ^^^ 1) then s.raiseM (20 + k / 2) else s
  else if k < 16 then s.raiseM (25 + (k - 8))
  else s.raiseM 24

/-- HEARTBEAT_LOST (R614): the controller is failed until it is restored. -/
def execHeartbeatLost (k : Ctlr) (s : State) : Res :=
  when (!s.ctlFailed k.val) (fun s =>
    let s := (s.hbFlag k.val).setFailed k.val true
    let s := { s with recovery := { s.recovery with flagTime := mset 0 s.recovery.flagTime k.val s.mtime } }
    s.recovRegs) s

/-- The duties of controllers that a failed one owned pass on with its own. -/
def State.passOn (s : State) (k : Nat) : State :=
  forEach (upTo 17) s (fun s j => if j ≠ k ∧ s.ownerOf j = some k then s.setOwner j (s.ownerFor j) else s)

/-- A takeover (R615, R617, R622): targets, the partitions' requests, the restart. -/
def State.takeOver (s : State) (k o : Nat) : State :=
  let s := ((s.setOwner k (some o)).passOn k).rewrite k o
  let s := s.audit 8 0 [k, o]
  let s := forEach ((upTo 16).filter s.recovAssist) s (fun s p => s.askRecovery k o p)
  if s.mayRestart k then s.restart k else s.recovRegs

/-- CONTROLLER_TAKEOVER (R617): by the owner of the table, if one lives; once taken over, a controller neither restarting nor given
up is restarted as soon as the hour allows. -/
def execControllerTakeover (k : Ctlr) (s : State) : Res :=
  when (s.ctlFailed k.val) (fun s =>
    match s.ownerOf k.val, s.ownerFor k.val with
    | none, some o => s.takeOver k.val o
    | none, none => s
    | some _, _ =>
      if !mget false s.recovery.restarting k.val && !mget false s.recovery.dead k.val && s.mayRestart k.val then s.restart k.val else s) s

/-- A restarted controller is restored: its targets and duties return; the deputy's records go to flash with the attic controller. -/
def State.restored (s : State) (k : Nat) : State :=
  let s := s.setFailed k false
  let s := { s with recovery := { s.recovery with restarting := mset false s.recovery.restarting k false } }
  let s := (s.setOwner k none).restoreTargets k
  let s := if k = attic then s.auditRestore else s
  s.recovRegs

/-- HEARTBEAT (R614, R618): any write restarts the timer; a restarted controller is restored by it. -/
def execHeartbeat (k : Ctlr) (s : State) : Res :=
  when (s.ctlFailed k.val && mget false s.recovery.restarting k.val) (fun s => s.restored k.val) s

/-- RESTART_TIMEOUT (R618): the restart has failed; after the third in an hour the controller stays failed. -/
def execRestartTimeout (k : Ctlr) (s : State) : Res :=
  when (s.ctlFailed k.val && mget false s.recovery.restarting k.val) (fun s =>
    let s := { s with recovery := { s.recovery with restarting := mset false s.recovery.restarting k.val false } }
    if s.mayRestart k.val then s.restart k.val
    else { s with recovery := { s.recovery with dead := mset false s.recovery.dead k.val true } }) s

/-- JUNCTION_HANG (R620): FAULT_N is asserted and jhang set. -/
def execJunctionHang (s : State) : Res := .next ((s.faultCause fcJhang).putF ⟨rstJBase + 0x18, 15, 1⟩ 1)

/-! ### Answers (R622) -/

/-- The kernels that a recovery has stopped for a partition, and still are. -/
def State.recovKernels (s : State) (p : Nat) : List Kernel :=
  s.host.kernels.filter (fun k => k.part == p && (mget [] s.recovery.stoppedKernels p).contains k.id && k.phase == .preempted && k.stopper.isNone)

/-- The request of a partition is answered. -/
def State.recovDone (s : State) (p : Nat) : State :=
  { s with recovery := { s.recovery with reqs := mset none s.recovery.reqs p none, stoppedKernels := mset [] s.recovery.stoppedKernels p [] } }

/-- An answer to the latest pending RECOVERY request: 0 RESUME, 1 END, 2 RESET; another seq or action is ignored. -/
def State.recovAnswer (s : State) (p seq action : Nat) : State :=
  match mget none s.recovery.reqs p with
  | none => s
  | some q =>
    if q.toNat ≠ seq ∨ action > 2 then s
    else
      let ks := s.recovKernels p
      let s := s.recovDone p
      if action = 0 then forEach ks s (fun s k => s.updKern k.id (fun k => { k with phase := .restoring }))
      else if action = 1 then forEach ks s (fun s k => s.endKern k)
      else s.askPartReset p

end Sys2Proof.Machine
end

