-- ==== Sys2Proof/Machine/Mgmt.lean ====
section
/-! DEFINITION. Management: MCTP, PLDM, firmware update, SPDM (R22, R625-R636). An answer leaves as `Output.mgmt` with the number of
its request and its fields, the outcome first (log entry 50). -/

namespace Sys2Proof.Machine

/-! ### Answers -/

/-- Outcomes of a request. -/
def mgOk : Nat := 0
def mgUnsupported : Nat := 1
def mgIncompatible : Nat := 3
def mgInUpdate : Nat := 4
def mgInvalid : Nat := 5
def mgUnexpected : Nat := 6

/-- Whether messages of a binding reach the module: an address on I3C, a trained link for PCIe. -/
def State.bindingUp (s : State) (b : Binding) : Bool :=
  match b with
  | .i3c => s.mgmt.address.isSome
  | .vdm | .doe => s.host.linkUp

def bindingNo (b : Binding) : Nat := match b with | .i3c => 0 | .vdm => 1 | .doe => 2

/-- The writer of an audit record by binding (R640). -/
def bindingWho (b : Binding) : Nat := 2 + bindingNo b

/-- The endpoint ID of a binding; 0 while it has none. -/
def State.eid (s : State) (b : Binding) : Nat := (mget 0 s.mgmt.eids (bindingNo b)).toNat

/-- Answer a request; over I3C with an In-Band Interrupt (R625). -/
def State.mgReply (s : State) (b : Binding) (kind : Nat) (data : List Nat) : State :=
  let s := s.emit (.mgmt b kind data)
  if b == .i3c then s.emit .inBandInterrupt else s

/-- A message is received: source 14 is raised. It is answered unless the attic controller has failed (R619, R627), or its boot ROM
answers only what it serves over I3C (R612). -/
def State.message (s : State) (b : Binding) (inRom : Bool) (f : State → State) : Res :=
  when (s.bindingUp b) (fun s =>
    let s := s.raiseM 14
    if s.ctlFailed attic || (s.romRecovery && !(inRom && b == .i3c)) then s else f s) s

/-- A message that needs an endpoint ID (R625); the DOE mailbox carries none of them. -/
def State.mctp (s : State) (b : Binding) (inRom : Bool) (f : State → State) : Res :=
  s.message b inRom (fun s => if b == .doe || s.eid b == 0 then s else f s)

/-! ### MCTP control (R22, R625, R626) -/

/-- ENTDAA (R22): the dynamic address, with the provisioned ID's slot bits. -/
def execEntdaa (addr : BitVec 7) (s : State) : Res :=
  when s.mgmt.address.isNone (fun s =>
    { s with mgmt := { s.mgmt with address := some addr } }.emit (.mgmt .i3c 1 [s.power.straps.toNat])) s

/-- SET_ENDPOINT_ID; 0 and 255 are no IDs (log entry 50). -/
def execSetEndpointId (b : Binding) (eid : BitVec 8) (s : State) : Res :=
  s.message b true (fun s =>
    if b == .doe then s
    else if eid = 0 ∨ eid = 255 then s.mgReply b 2 [mgInvalid]
    else { s with mgmt := { s.mgmt with eids := mset 0 s.mgmt.eids (bindingNo b) eid } }.mgReply b 2 [mgOk, eid.toNat])

/-- GET_ENDPOINT_ID. -/
def execGetEndpointId (b : Binding) (s : State) : Res :=
  s.message b true (fun s => if b == .doe then s else s.mgReply b 3 [mgOk, s.eid b])

/-- GET_ENDPOINT_UUID. -/
def execGetEndpointUuid (b : Binding) (s : State) : Res := s.mctp b true (fun s => s.mgReply b 4 [mgOk, Config.uuid])

/-- The supported message types (R626). -/
def mctpTypes : List Nat := [0, 1, 5]

/-- GET_MCTP_VERSION_SUPPORT: the version numbers are not stated, so free values. -/
def execGetMctpVersionSupport (b : Binding) (type : BitVec 8) (s : State) : Res :=
  s.mctp b true (fun s =>
    if mctpTypes.contains type.toNat || type == 0xFF then (s.mgReply b 5 [mgOk, s.freshVal.toNat]).tickFree
    else s.mgReply b 5 [mgUnsupported])

/-- GET_MESSAGE_TYPE_SUPPORT. -/
def execGetMessageTypeSupport (b : Binding) (s : State) : Res := s.mctp b true (fun s => s.mgReply b 6 (mgOk :: mctpTypes))

/-! ### PLDM: reset and monitoring (R627-R629) -/

/-- PLDM_RESET_REQUEST: carried out once its response has been sent. -/
def execPldmResetRequest (b : Binding) (straps : BitVec 5) (s : State) : Res :=
  s.mctp b false (fun s => (s.mgReply b 7 [mgOk]).warmReset 2 straps)

/-- GET_SENSOR_READING. -/
def execGetSensorReading (b : Binding) (sensor : BitVec 16) (s : State) : Res :=
  s.mctp b false (fun s =>
    let n := sensor.toNat
    if isSensor n then s.mgReply b 8 [mgOk, mget 0 s.mgmt.sensors n, s.sensorLevel n] else s.mgReply b 8 [mgInvalid])

/-- GET_STATE_SENSOR_READINGS. -/
def execGetStateSensorReadings (b : Binding) (sensor : BitVec 16) (s : State) : Res :=
  s.mctp b false (fun s =>
    let n := sensor.toNat
    if isStateSensor n then s.mgReply b 9 [mgOk, s.sensorLevel n] else s.mgReply b 9 [mgInvalid])

/-- SET_EVENT_RECEIVER: mode 0 none, 2 polled, others asynchronous. -/
def execSetEventReceiver (b : Binding) (eid : BitVec 8) (mode : BitVec 2) (s : State) : Res :=
  s.mctp b false (fun s => { s with mgmt := { s.mgmt with receiver := some (b, eid, mode) } }.mgReply b 10 [mgOk])

/-- PLATFORM_EVENT_MESSAGE: a poll takes the oldest event kept. -/
def execPlatformEventMessage (b : Binding) (s : State) : Res :=
  s.mctp b false (fun s =>
    match s.mgmt.polled with
    | [] => s.mgReply b 11 [mgOk]
    | e :: r => { s with mgmt := { s.mgmt with polled := r } }.mgReply b 11 (mgOk :: e))

/-! ### Firmware update (R633, R634) -/

/-- The update in progress of a binding. -/
def State.sessionOf (s : State) (b : Binding) : Option UpdateSession := s.mgmt.session.filter (fun u => u.binding == b)
def State.setSession (s : State) (u : Option UpdateSession) : State := { s with mgmt := { s.mgmt with session := u } }

/-- REQUEST_UPDATE: one update agent at a time. -/
def execRequestUpdate (b : Binding) (s : State) : Res :=
  s.mctp b true (fun s =>
    if s.mgmt.session.isSome then s.mgReply b 12 [mgInUpdate] else (s.setSession (some ⟨b, [], []⟩)).mgReply b 12 [mgOk])

/-- Whether a component may be updated: its security version is not below the one in force; ROM recovery takes the attic image only. -/
def State.compatible (s : State) (c : CompEntry) : Bool :=
  decide (s.getF svnF ≤ c.svn.toNat) && (!s.romRecovery || c.comp.val == 0)

/-- PASS_COMPONENT_TABLE. -/
def execPassComponentTable (b : Binding) (comps : List CompEntry) (s : State) : Res :=
  s.mctp b true (fun s =>
    match s.sessionOf b with
    | none => s.mgReply b 13 [mgInvalid]
    | some u =>
      let good := (comps.filter s.compatible).map (fun c => c.comp.val + 1)
      let s := s.setSession (some { u with passed := u.passed ++ good.filter (fun c => !u.passed.contains c) })
      s.mgReply b 13 (mgOk :: comps.map (fun c => if s.compatible c then mgOk else mgIncompatible)))

/-- FIRMWARE_COMPONENT_WRITE: into the slot-B region, in ROM recovery into slot A; then verified, with its record. -/
def execFirmwareComponentWrite (b : Binding) (comp : Fin 5) (img : Image) (s : State) : Res :=
  s.mctp b true (fun s =>
    let c := comp.val + 1
    match s.sessionOf b with
    | none => s.mgReply b 14 [mgInvalid]
    | some u =>
      if !u.passed.contains c then s.mgReply b 14 [mgInvalid]
      else
        let s := s.setImage (if s.romRecovery then s.slotA c else 1 - s.slotA c) c img
        let bad := imageFail (s.getF svnF) c img
        let v := u.verified.filter (fun x => x != c)
        let s := s.setSession (some { u with verified := if bad = 0 then v ++ [c] else v })
        let s := s.audit 5 (bindingWho b) [c, if bad = 0 then 1 else 2, img.version.toNat, img.svn.toNat]
        s.mgReply b 14 [mgOk, bad])

/-- ACTIVATE_FIRMWARE: each verified component's written region becomes its slot A; a reset is needed. -/
def execActivateFirmware (b : Binding) (s : State) : Res :=
  s.mctp b true (fun s =>
    match s.sessionOf b with
    | none => s.mgReply b 15 [mgInvalid]
    | some u =>
      let rom := s.romRecovery
      let s := forEach u.verified s (fun s c =>
        let r := if rom then s.slotA c else 1 - s.slotA c
        let i := s.image r c
        let s := { s with mgmt := { s.mgmt with slotA := mset 0 s.mgmt.slotA c r } }
        s.audit 5 (bindingWho b) [c, 3, i.version.toNat, i.svn.toNat])
      let s := { s with mgmt := { s.mgmt with cfgSeq := (s.mgmt.cfgSeq + 1) % 2 ^ 32 } }
      (s.setSession none).mgReply b 15 [mgOk, 1])

/-- CANCEL_UPDATE (R634): the boot configuration is unchanged. -/
def execCancelUpdate (b : Binding) (s : State) : Res :=
  s.mctp b true (fun s =>
    match s.sessionOf b with
    | none => s.mgReply b 16 [mgInvalid]
    | some u =>
      let s := s.endUpdate
      let s := forEach u.passed s (fun s c =>
        let i := s.image (1 - s.slotA c) c
        s.audit 5 (bindingWho b) [c, 4, i.version.toNat, i.svn.toNat])
      s.mgReply b 16 [mgOk])

/-! ### SPDM (R635, R636) -/

/-- The connection state of a responder. -/
def State.spdm (s : State) (b : Binding) : SpdmStage := mget .start s.mgmt.spdm (bindingNo b)
def State.setSpdm (s : State) (b : Binding) (x : SpdmStage) : State :=
  { s with mgmt := { s.mgmt with spdm := mset .start s.mgmt.spdm (bindingNo b) x } }

/-- An SPDM request: over MCTP with an endpoint ID, or through the DOE mailbox. -/
def State.spdmReq (s : State) (b : Binding) (f : State → State) : Res :=
  s.message b false (fun s => if b != .doe && s.eid b == 0 then s else f s)

/-- A request that needs negotiated algorithms. -/
def State.spdmNeg (s : State) (b : Binding) (kind : Nat) (f : State → State) : Res :=
  s.spdmReq b (fun s => if s.spdm b = .negotiated then f s else s.mgReply b kind [mgUnexpected])

/-- GET_VERSION: SPDM 1.2; it starts the connection anew. -/
def execGetVersion (b : Binding) (s : State) : Res := s.spdmReq b (fun s => (s.setSpdm b .version).mgReply b 17 [mgOk, 0x12])

/-- GET_CAPABILITIES: CERT, CHAL and signed MEAS. -/
def execGetCapabilities (b : Binding) (s : State) : Res :=
  s.spdmReq b (fun s =>
    if s.spdm b = .start then s.mgReply b 18 [mgUnexpected] else (s.setSpdm b .capabilities).mgReply b 18 [mgOk, 1, 1, 2])

/-- NEGOTIATE_ALGORITHMS: ECDSA with NIST P-384, and SHA-384, only. -/
def execNegotiateAlgorithms (b : Binding) (ecdsa384 sha384 : Bool) (s : State) : Res :=
  s.spdmReq b (fun s =>
    if s.spdm b ≠ .capabilities then s.mgReply b 19 [mgUnexpected]
    else if ecdsa384 && sha384 then (s.setSpdm b .negotiated).mgReply b 19 [mgOk]
    else s.mgReply b 19 [mgUnsupported])

/-- The certificate chain of slot 0 and its digest. -/
def certChain : List Nat := (upTo Config.certLen).map Config.certByte
def chainDigest : Nat := Config.sha384 certChain

/-- GET_DIGESTS: slot 0 only. -/
def execGetDigests (b : Binding) (s : State) : Res := s.spdmNeg b 20 (fun s => s.mgReply b 20 [mgOk, 1, chainDigest])

/-- GET_CERTIFICATE: a part of slot 0's chain, with what is left of it. -/
def execGetCertificate (b : Binding) (slot : Fin 8) (off len : BitVec 16) (s : State) : Res :=
  s.spdmNeg b 21 (fun s =>
    if slot.val ≠ 0 ∨ off.toNat > Config.certLen then s.mgReply b 21 [mgInvalid]
    else
      let part := (certChain.drop off.toNat).take len.toNat
      s.mgReply b 21 ([mgOk, part.length, Config.certLen - off.toNat - part.length] ++ part))

/-- CHALLENGE: the chain's digest, the responder's nonce, a signature with the device key over the exchange. -/
def execChallenge (b : Binding) (slot : Fin 8) (nonce : BitVec 256) (s : State) : Res :=
  s.spdmNeg b 22 (fun s =>
    if slot.val ≠ 0 then s.mgReply b 22 [mgInvalid]
    else
      let n := s.freshVal.toNat
      (s.mgReply b 22 [mgOk, chainDigest, n, Config.deviceSign (Config.sha384 [nonce.toNat, n, chainDigest])]).tickFree)

/-- A measurement (R636); none where the component has not booted. -/
def State.measurement (s : State) (i : Nat) : Option Nat :=
  if i = 1 then some Config.romDigest
  else if 2 ≤ i ∧ i ≤ 6 then (s.booted (i - 1)).map (fun m => Config.sha384 [m.comp.toNat, m.svn.toNat, m.version.toNat])
  else if i = 7 then
    some (Config.sha384 [s.settingNow 1, s.modNum, s.settingNow 3, s.getF ⟨mgtBase + 0x18, 12, 12⟩])
  else none

/-- GET_MEASUREMENTS: their number (index 0), one of them, or all (255); signed when asked. -/
def execGetMeasurements (b : Binding) (index : BitVec 8) (sign : Bool) (nonce : BitVec 256) (s : State) : Res :=
  s.spdmNeg b 23 (fun s =>
    let l : List Nat := if index = 255 then (upTo 7).map (fun i => i + 1) else [index.toNat]
    let ms := l.filterMap s.measurement
    if index ≠ 0 ∧ ms.isEmpty = true then s.mgReply b 23 [mgInvalid]
    else
      let body := if index = 0 then [7] else ms
      if sign then
        let n := s.freshVal.toNat
        (s.mgReply b 23 ([mgOk] ++ body ++ [n, Config.deviceSign (Config.sha384 (body ++ [nonce.toNat, n]))])).tickFree
      else s.mgReply b 23 (mgOk :: body))

end Sys2Proof.Machine
end

