-- ==== Sys2Proof/Machine/Regs.lean ====
section
/-! DEFINITION. Register writes (R644-R659): who reaches what, guards, what each register's write does; the slow-clock edge (R650). -/

namespace Sys2Proof.Machine

/-! ### Where an access lands (R498, R644) -/

/-- The key of an offset of a function's page: a ring's registers stand apart. -/
def pageKey (f off : Nat) : Nat := if off ≥ 0x8000 then ringKey ((off - 0x8000) / 0x20) + off % 0x20 else fnPage f + off

/-- The function whose page an access uses. -/
def pageFn (rq : Requester) : Nat := match rq with | .vf n => n.val | _ => 0

/-- The register an access reaches: a VF reaches its own page only, and only while it exists. -/
def State.regKey (s : State) (rq : Requester) (off : Nat) : Option Nat :=
  match rq with
  | .vf n => if n.val = 0 ∨ s.fnOk n.val = false ∨ off ≥ 0x1_0000 then none else some (pageKey n.val off)
  | _ => some (if off < 0x1_0000 then pageKey 0 off else off)

/-- The compute die whose block a key lies in. -/
def keyDie (k : Nat) : Option Nat :=
  if k ≥ 0x1000_0000 then none
  else if k ≥ 0x100_0000 then (if (k - 0x100_0000) / 0x1000 < 480 then some ((k - 0x100_0000) / 0x1000 / 120) else none)
  else if 0x40_0000 ≤ k ∧ k < 0x44_0000 then some ((k - 0x40_0000) / 0x1_0000)
  else none

/-! ### Who writes (R653) -/

/-- What the PF writes beside its own page. -/
def pfMay (k : Nat) : Bool :=
  match blockOf k with
  | (.fn f, _) => f == 0
  | (.ring _, _) => true
  | (.cfg, o) => o == 0xFF0 || o == 0x10
  | (.pwr, o) => [0xFF0, 0, 8, 0x30].contains o || (decide (0x100 ≤ o) && decide (o < 0x180))
  | (.mmu, o) => [8, 0x10, 0x18].contains o
  | (.chn, o) => [0xFF0, 8, 0x10].contains o || (decide (0x1000 ≤ o) && [0, 0x18, 0x20].contains (o % 0x100))
  | (.red, o) => o == 0 || o == 0x10
  | (.mgt, o) => [0xFF0, 8, 0x10, 0x18, 0x20, 0x28].contains o
  | (.rstJ, o) => [0xFF0, 8, 0x10].contains o || (decide (0x200 ≤ o) && decide (o < 0x280))
  | (.irqJ, o) => decide (0x4000 ≤ o)
  | (.mxq _, o) => o == 0x100
  | _ => false

/-- What the PF alone writes. -/
def pfAlone (k : Nat) : Bool :=
  match blockOf k with
  | (.pwr, o) => o == 0 || (decide (0x100 ≤ o) && decide (o < 0x180))
  | (.mgt, o) => [8, 0x10, 0x18].contains o
  | (.rstJ, o) => o == 0x10 || (decide (0x200 ≤ o) && decide (o < 0x280))
  | (.irqJ, o) => decide (0x4000 ≤ o)
  | _ => false

/-- Whether a requester may write a register. -/
def mayWrite (rq : Requester) (k : Nat) : Bool :=
  match rq with
  | .pf => pfMay k
  | .vf _ => true
  | .fw _ => !pfAlone k

/-! ### Guards (R654-R659) -/

/-- The group that a register belongs to, by its block's base, and its key. -/
def groupOf (k : Nat) : Option (Nat × Nat) :=
  match blockOf k with
  | (.cfg, _) => some (cfgBase, 0x5A3C)
  | (.pwr, _) => some (pwrBase, 0xC3A5)
  | (.mmu, _) => some (mmuBase, 0x6B71)
  | (.chn, _) => some (chnBase, 0x9E4D)
  | (.srm d, _) => some (srmBase d, 0x27D8)
  | (.cel e, _) => some (celBase e, 0xB316)
  | (.rstD d, _) => some (rstDBase d, 0xE1F2)
  | (.rstJ, _) => some (rstJBase, 0xE1F2)
  | (.mgt, _) => some (mgtBase, 0x4C8B)
  | _ => none

/-- Whether a requester's guard of a group is open; open or close it. -/
def State.guardOpen (s : State) (rq : Requester) (g : Nat) : Bool := s.guards.contains (rq, g)
def State.openGuard (s : State) (rq : Requester) (g : Nat) : State :=
  if s.guardOpen rq g then s else { s with guards := s.guards ++ [(rq, g)] }
def State.closeGuard (s : State) (rq : Requester) (g : Nat) : State := { s with guards := s.guards.filter (fun x => x != (rq, g)) }

/-- A write of UNLOCK: the key opens the writer's guard, any other value closes it and is counted (R655, R657). -/
def State.unlock (s : State) (rq : Requester) (off g key v : Nat) : State :=
  if v % 2 ^ 16 = key then s.openGuard rq g else (s.closeGuard rq g).badKey off (isPf rq)

/-! ### Counted writes (R638, R659) -/

/-- Whether every slot of every component holds a verified image of at least a security version. -/
def State.slotsAt (s : State) (v : Nat) : Bool :=
  [1, 2, 3, 4, 5].all (fun c => [0, 1].all (fun r => imageFail (max v (s.getF svnF)) c (s.image r c) == 0))

/-- A mask leaves every compute die an unmarked stack. -/
def diesLeft (mask : Nat) : Bool := (upTo 4).all (fun d => (upTo 3).any (fun c => !bit mask (3 * d + c)))

/-- The result of a counted write (R638): the range first, then whether it changes anything, slots, conditions (log entry 52). -/
def State.cwResult (s : State) (n v : Nat) : Nat :=
  let old := s.settingNow n
  let range :=
    if n = 1 then decide (1000 ≤ v) && decide (v ≤ 4000)
    else if n = 2 then decide (v < 16384)
    else if n = 3 then decide (old ≤ v) && decide (v ≤ 64)
    else decide (v < 4096) && decide (v ||| old = v)
  if s.ctlFailed attic then 6
  else if !range then 4
  else if v = old ∧ (n = 2 → s.mgmt.modSlots ≠ []) then 2
  else if s.slotsLeft n = 0 then 3
  else if n = 3 ∧ (s.slotsAt v = false ∨ s.mgmt.session.isSome = true) then 5
  else if n = 4 ∧ diesLeft v = false then 5
  else 1

/-- Status of counted writes: MGT_CSTAT. -/
def csBusyF : RF := ⟨mgtBase, 0, 1⟩
def csResultF : RF := ⟨mgtBase, 1, 3⟩
def csSettingF : RF := ⟨mgtBase, 4, 3⟩

/-- A counted write: ignored while one is carried out; one that is not accepted ends at once. -/
def State.countedWrite (s : State) (n v : Nat) : State :=
  if s.mgmt.cwrite.isSome then s
  else
    let r := s.cwResult n v
    let s := s.putF csSettingF n
    if r = 1 then ({ s with mgmt := { s.mgmt with cwrite := some ⟨n, v, 1⟩ } }).putF csBusyF 1 else s.putF csResultF r

/-- OTP_BURN_COMPLETE (R637-R639): the slot is burned, the setting in force where it takes effect at once. -/
def execOtpBurnComplete (s : State) : Res :=
  .next (match s.mgmt.cwrite with
    | none => s
    | some w =>
      let old := s.settingNow w.setting
      let s := { s with mgmt := { s.mgmt with cwrite := none } }
      let s := (s.burn w.setting w.value).loadSettings
      let s := (s.putF csBusyF 0).putF csResultF 1
      let s := s.audit 1 1 [w.setting, 1, old, w.value, s.slotsLeft w.setting]
      (s.raiseM 9).updE)

/-! ### W1C clears -/

/-- The counts that a clear of a flag clears with it: flag bit, first bit and length of the counts. -/
def clearsWith (k : Nat) : Option (Nat × Nat × Nat) :=
  match blockOf k with
  | (.fn _, 0x18) => some (48, 16, 32)
  | (.pwr, 0x30) => some (32, 0, 32)
  | (.cfg, 0x10) => some (56, 0, 32)
  | (.red, 0x10) => some (56, 0, 56)
  | (.dma _, 8) => some (48, 32, 16)
  | (.syn _, 0x108) => some (32, 0, 32)
  | (.cel _, 8) => some (32, 16, 16)
  | (.chn, o) =>
    if o < 0x1000 then none
    else if o % 0x100 = 0x18 then some (48, 0, 48)
    else if o % 0x100 = 0x20 then some (35, 0, 16)
    else none
  | _ => none

/-- Clear the flags of a register that a write sets (R652), with their counts. -/
def State.clearFlags (s : State) (k : Nat) (w1 : Word) : State :=
  let s := s.setReg k (s.reg k &&& ~~~ w1)
  match clearsWith k with
  | some (b, lo, len) => if bit w1.toNat b then s.setReg k (s.reg k &&& ~~~ maskW lo len) else s
  | none => s

/-! ### What writes do -/

/-- A controller's heartbeat (R614, R618): any write restarts its timer; a restarted controller is restored. -/
def State.beat (s : State) (k : Nat) : State :=
  if s.ctlFailed k && mget false s.recovery.restarting k then s.restored k else s

/-- A write of a port's control register (R401, R404, R431, R434). -/
def State.pctlWrite (s : State) (n : Nat) (new wv : Word) (isOpen : Bool) : State :=
  let k := portKey n
  let was := s.getB (pctlEnable n)
  let s := s.setReg k (new &&& ~~~ maskW 6 1)
  let on := s.getB (pctlEnable n)
  let s := if on && s.pst n == psDisabled then s.toDetect n else if was && !on then s.toDisabled n else s
  let s := if bit wv.toNat 5 then s.toRetrain n 5 0 true else s
  if isOpen && bit wv.toNat 6 then s.unquarantine n else s

/-- A write of an interrupt source's configuration (R587): filt 0 and reserved targets are left; a target that has failed follows
its owner (R615). -/
def State.srcWrite (s : State) (ctl n k : Nat) (new : Word) : State :=
  let filt := fld new 0 8
  let tgt := fld new 8 5
  let s := if filt = 0 then s else s.putF ⟨k, 0, 8⟩ filt
  if tgt > 17 then s else if tgt = s.getF (irqTgt ctl n) then s else s.routeTo ctl n tgt

/-- Writes in the interrupt block of a controller; `plain` is the state with the value stored. -/
def State.irqWrite (s : State) (ctl o k : Nat) (new wv : Word) (plain : State) : State :=
  let srcBase := if ctl < 4 then 0x800 else 0x1000
  if srcBase ≤ o ∧ o < srcBase + 8 * irqSrcs ctl then s.srcWrite ctl ((o - srcBase) / 8) k new
  else if ctl = 4 ∧ 0x3000 ≤ o ∧ o < 0x3220 then
    let t := (o - 0x3000) / 0x20
    let c := fld wv 0 3
    let n := fld wv 3 9
    if o % 0x20 = 8 then s.irqTake t c n else if o % 0x20 = 0x10 then s.irqDone t c n else s
  else plain

/-- Writes in the RST block of the junction die. -/
def State.rstJWrite (s : State) (o : Nat) (new : Word) (isOpen : Bool) (straps : BitVec 5) (plain : State) : State :=
  if 0x100 ≤ o ∧ o < 0x140 then s.beat (8 + (o - 0x100) / 8)
  else if o = 0x140 then s.beat attic
  else if !isOpen then s
  else if o = 8 then (if bit new.toNat 0 then s.warmReset 3 straps else s)
  else if o = 0x10 then
    let s := s.setReg (rstJBase + 0x10) (new &&& maskW 0 4)
    if bit new.toNat 4 then s.askPartReset (fld new 0 4) else s
  else if 0x200 ≤ o ∧ o < 0x280 then plain.recovAnswer ((o - 0x200) / 8) (fld new 0 32) (fld new 32 2)
  else plain

/-- Writes in the RST block of a die. -/
def State.rstDWrite (s : State) (d o : Nat) (new : Word) (isOpen : Bool) : State :=
  if o = 0 then s.beat (2 * d)
  else if o = 8 then s.beat (2 * d + 1)
  else if o = 0x18 ∧ isOpen = true then
    let c := fld new 0 7
    let s := s.setReg (rstDBase d + 0x18) (new &&& maskW 0 7)
    if bit new.toNat 7 ∧ c < 120 then s.cellReset (120 * d + c) else s
  else s

/-- Writes in the PWR block. -/
def State.pwrWrite (s : State) (o : Nat) (new wv : Word) (isOpen : Bool) (plain : State) : State :=
  if o = 0 then (if isOpen then s.countedWrite 1 (fld wv 0 16) else s)
  else if o = 8 then (if isOpen && decide (1000 ≤ fld new 0 16) && decide (fld new 0 16 ≤ 4000) then plain.updE else s)
  else if 0x100 ≤ o ∧ o < 0x180 ∧ isOpen = true then plain.powerAnswer ((o - 0x100) / 8) (fld new 0 32) (fld new 32 32)
  else plain

/-- Writes in the MGT block. -/
def State.mgtWrite (s : State) (o : Nat) (wv : Word) (isOpen : Bool) (plain : State) : State :=
  if o = 8 then (if isOpen then s.countedWrite 2 (fld wv 0 14) else s)
  else if o = 0x10 then (if isOpen then s.countedWrite 3 (fld wv 0 7) else s)
  else if o = 0x18 then (if isOpen then s.countedWrite 4 (fld wv 0 12) else s)
  else plain

/-- A write of CHN_JOBp (R395): a second enabled entry of one job leaves it unchanged. -/
def State.jobWrite (s : State) (p : Nat) (new : Word) (plain : State) : State :=
  if bit new.toNat 16 && (upTo 16).any (s.jobHolder (fld new 0 16) p) then s else plain

/-- A write of MXC_CTL (R189, R193). -/
def State.mxcWrite (s : State) (n : Nat) (new wv : Word) : State :=
  let was := s.getF (mxcStopF n)
  let s := s.putF ⟨mxcBase n, 0, 1⟩ (fld new 0 1)
  let now := fld new 1 1
  let s := if was = 0 ∧ now = 1 then s.mxcStop n else if was = 1 ∧ now = 0 then s.mxcRelease n else s
  if bit wv.toNat 2 then s.mxcResume n else s

/-- A write in a function page: a vector's mask cleared sends its pending message (R584). -/
def State.fnWrite (f o : Nat) (plain : State) : State :=
  if 0x2000 ≤ o ∧ o < 0x2800 ∧ o % 16 = 8 then
    let m := 128 * f + (o - 0x2000) / 16
    if plain.vecMasked m then plain else plain.flushVec m
  else plain

/-- A write that its register takes: fields of `pm` from the value, flags of `w1` cleared, then what the register does. `wv` is the
value with the bits that the access writes. -/
def State.takeWrite (s : State) (rq : Requester) (off k : Nat) (wv wm : Word) (isOpen : Bool) (straps : BitVec 5) : State :=
  let pm := wm &&& (accMask k (fun a => a == .rw) ||| (if isOpen then accMask k (fun a => a == .kw) else 0))
  let new := mergeW (s.reg k) wv pm
  let w1 := wv &&& wm &&& accMask k (fun a => a == .w1c)
  let plain := if w1 = 0 then s.setReg k new else (s.setReg k new).clearFlags k w1
  match blockOf k with
  | (.ring r, o) =>
    if s.ringPart r ≠ pageFn rq then s
    else if o = 8 then s.ringCfgWrite r new
    else if o = 0 then (if s.getB (ringEn r) then s else plain)
    else plain
  | (.fn f, o) => State.fnWrite f o plain
  | (.pwr, o) => s.pwrWrite o new wv isOpen plain
  | (.mmu, o) => if o = 8 ∧ bit (wv &&& wm).toNat 10 = true then plain.mmuInvGo (fld new 8 2) off (isPf rq) else plain
  | (.mgt, o) => s.mgtWrite o wv isOpen plain
  | (.rstJ, o) => s.rstJWrite o new isOpen straps plain
  | (.rstD d, o) => s.rstDWrite d o new isOpen
  | (.chn, o) =>
    if 0x80 ≤ o ∧ o < 0x100 then s.jobWrite ((o - 0x80) / 8) new plain
    else if 0x1000 ≤ o ∧ o < 0x2200 ∧ o % 0x100 = 0 then s.pctlWrite ((o - 0x1000) / 0x100) new (wv &&& wm) isOpen
    else plain
  | (.irqJ, o) => s.irqWrite 4 o k new (wv &&& wm) plain
  | (.irqD d, o) => s.irqWrite d o k new (wv &&& wm) plain
  | (.srm d, o) =>
    if o = 0 ∧ isOpen = true ∧ bit (wv &&& wm).toNat 2 = true then
      let s := plain.putF ⟨srmBase d, 2, 1⟩ 0
      match fld new 0 2 with
      | 0 => s.srmStart d .clean
      | 1 => s.srmStart d .cleanInv
      | 2 => s.srmStart d .drop
      | _ => s.refuse off (isPf rq)
    else plain
  | (.mxc n, o) => if o = 0 then s.mxcWrite n new (wv &&& wm) else plain
  | (.mxq n, o) => if o = 0x100 then s.clearQnt n (fld (wv &&& wm) 0 8) else plain
  | _ => plain

/-- Note a requester's write: its reads of that register wait for the next slow-clock edge (R651). -/
def State.noteWrite (s : State) (rq : Requester) (k : Nat) : State :=
  if s.recentW.contains (rq, k) then s else { s with recentW := s.recentW ++ [(rq, k)] }

/-- A register write (R644-R659): of 8 bytes, or of 4, which change the fields that lie wholly within their half. -/
def State.regWrite (s : State) (rq : Requester) (off size : Nat) (v : Word) (straps : BitVec 5) : State :=
  match s.regKey rq off with
  | none => s
  | some k0 =>
    let k := k0 / 8 * 8
    let s := s.noteWrite rq k
    let isUnlock := (groupOf k).isSome && k % 0x1000 == 0xFF0
    let isOpen := match groupOf k with | some g => s.guardOpen rq g.1 | none => false
    let s := match groupOf k with | some g => if isUnlock then s else s.closeGuard rq g.1 | none => s
    let good := (size == 8 && off % 8 == 0) || (size == 4 && off % 4 == 0)
    let down := match keyDie k with | some d => s.dieDown d | none => false
    if !good || down then s.refuse off (isPf rq)
    else if (regFields k).isEmpty then s
    else if !mayWrite rq k then s.refuse off (isPf rq)
    else
      let hi := size == 4 && off % 8 == 4
      let half : Word := if size = 8 then BitVec.allOnes 64 else if hi then maskW 32 32 else maskW 0 32
      let wm := if size = 8 then half else half &&& ~~~ spanMask k
      let wv := if hi then v <<< 32 else v
      match groupOf k, isUnlock with
      | some g, true => if hi then s else s.unlock rq off g.1 g.2 (fld v 0 16)
      | _, _ =>
        let s := if !isOpen && accMask k (fun a => a == .kw || a == .cw) != 0 then s.refuse off (isPf rq) else s
        s.takeWrite rq off k wv wm isOpen straps

/-! ### The rows -/

/-- REGISTER_WRITE. -/
def execRegisterWrite (rq : Requester) (off : Fin 67108864) (size : Fin 16) (v : Word) (s : State) : Res :=
  .next (s.regWrite rq off.val size.val v s.power.straps)

/-- UNLOCK_WRITE (R655-R657): of an UNLOCK register. -/
def execUnlockWrite (rq : Requester) (off : Fin 67108864) (v : Word) (s : State) : Res :=
  when ((groupOf off.val).isSome && off.val % 0x1000 == 0xFF0) (fun s => s.regWrite rq off.val 8 v s.power.straps) s

/-- CHN_JOB_WRITE (R395). -/
def execChnJobWrite (rq : Requester) (p : Fin 16) (v : Word) (s : State) : Res :=
  .next (s.regWrite rq (chnBase + 0x80 + 8 * p.val) 8 v s.power.straps)

/-- W1C_CLEAR (R652): of a register with flags that a write of 1 clears. -/
def execW1cClear (rq : Requester) (off : Fin 67108864) (v : Word) (s : State) : Res :=
  when (match s.regKey rq off.val with | some k => accMask k (fun a => a == .w1c) != 0 | none => false)
    (fun s => s.regWrite rq off.val 8 v s.power.straps) s

/-- PWR_CAP_WRITE (R589, R604). -/
def execPwrCapWrite (rq : Requester) (v : Word) (s : State) : Res := .next (s.regWrite rq (pwrBase + 8) 8 v s.power.straps)

/-- PWR_CEIL_WRITE (R588). -/
def execPwrCeilWrite (rq : Requester) (v : Word) (s : State) : Res := .next (s.regWrite rq pwrBase 8 v s.power.straps)

/-- PWR_ANS_WRITE (R603). -/
def execPwrAnsWrite (rq : Requester) (p : Fin 16) (v : Word) (s : State) : Res :=
  .next (s.regWrite rq (pwrBase + 0x100 + 8 * p.val) 8 v s.power.straps)

/-- MGT_MODNUM_WRITE (R637). -/
def execMgtModnumWrite (rq : Requester) (v : Word) (s : State) : Res := .next (s.regWrite rq (mgtBase + 8) 8 v s.power.straps)

/-- MGT_SVN_WRITE (R637, R638). -/
def execMgtSvnWrite (rq : Requester) (v : Word) (s : State) : Res := .next (s.regWrite rq (mgtBase + 0x10) 8 v s.power.straps)

/-- MGT_BADSTK_WRITE (R637). -/
def execMgtBadstkWrite (rq : Requester) (v : Word) (s : State) : Res := .next (s.regWrite rq (mgtBase + 0x18) 8 v s.power.straps)

/-- CELL_RESET (R606, R608): a write of RST_CELL. -/
def execCellReset (rq : Requester) (d : Fin 4) (v : Word) (s : State) : Res :=
  .next (s.regWrite rq (rstDBase d.val + 0x18) 8 v s.power.straps)

/-- WARM_RESET_WRITE (R606): a write of RST_CTL; the straps are sampled again. -/
def execWarmResetWrite (rq : Requester) (v : Word) (straps : BitVec 5) (s : State) : Res :=
  .next (s.regWrite rq (rstJBase + 8) 8 v straps)

/-- PARTITION_RESET (R606, R608): a write of RST_PART. -/
def execPartitionReset (rq : Requester) (v : Word) (s : State) : Res := .next (s.regWrite rq (rstJBase + 0x10) 8 v s.power.straps)

/-- RECOVERY_RESUME (R622): a write of RST_ANSp with action RESUME. -/
def execRecoveryResume (rq : Requester) (p : Fin 16) (v : Word) (s : State) : Res :=
  when (fld v 32 2 == 0) (fun s => s.regWrite rq (rstJBase + 0x200 + 8 * p.val) 8 v s.power.straps) s

/-- RECOVERY_END (R622): with action END. -/
def execRecoveryEnd (rq : Requester) (p : Fin 16) (v : Word) (s : State) : Res :=
  when (fld v 32 2 == 1) (fun s => s.regWrite rq (rstJBase + 0x200 + 8 * p.val) 8 v s.power.straps) s

/-- RECOVERY_RESET (R622): with action RESET. -/
def execRecoveryReset (rq : Requester) (p : Fin 16) (v : Word) (s : State) : Res :=
  when (fld v 32 2 == 2) (fun s => s.regWrite rq (rstJBase + 0x200 + 8 * p.val) 8 v s.power.straps) s

/-! ### The slow-clock edge (R246, R649, R650) -/

/-- Status fields that show what other parts of the state hold, brought into their registers. -/
def State.showUnits (s : State) : State :=
  let s := forEach (upTo 5) s (fun s c => forEach (upTo (irqSrcs c / 16)) s (fun s g => s.setReg (irqBase c + 0x200 + 8 * g) (s.pendWord c g)))
  let s := forEach (upTo 17) s (fun s t => s.setReg (irqJBase + 0x3000 + 0x20 * t) (s.topWord t))
  forEach (upTo 480) s (fun s c =>
    let occ := (upTo 6).foldl (fun v q => v + min 31 (s.dmaQ c q).length * 2 ^ (5 * q)) 0
    let held := (upTo 6).any (fun q => (s.dmaQ c q).any (fun d => match d.phase with | .held _ => true | _ => false))
    (s.putF ⟨dmaBase c, 0, 30⟩ occ).putB ⟨dmaBase c, 31, 1⟩ held)

/-- The busy bits of a matrix core (R194). -/
def State.showMxc (s : State) : State :=
  forEach (upTo 1920) s (fun s n =>
    let m := s.mc n
    let mover := m.ops.any (fun o => o.kind == .aspl || o.kind == .afil)
    let req := m.ops.any (fun o => o.kind == .tld || o.kind == .tst)
    s.putF ⟨mxcBase n + 8, 4, 4⟩ (b2n (!m.passes.isEmpty || !m.jobs.isEmpty || m.lds.isSome) + 4 * b2n mover + 8 * b2n req))

/-- The status of partitions and functions (R525, R546, R568). -/
def State.showParts (s : State) : State :=
  forEach (upTo 16) s (fun s p =>
    let cells := (s.cellsOf p).length
    let grans := (s.parts.granOf.filter (fun e => e.2 == p)).length
    let rings := ((upTo 1024).filter (fun r => s.ringPart r == p)).length
    let k := cfgBase + 0x180 + 8 * p
    let s := ((s.putF ⟨k, 1, 9⟩ cells).putF ⟨k, 10, 10⟩ grans).putF ⟨k, 20, 11⟩ rings
    let s := s.putB ⟨fnPage p + 0x18, 0, 1⟩ s.mgmt.ready
    let s := s.putB ⟨fnPage p + 0x18, 1, 1⟩ (decide (0 < cells + grans + rings))
    s.setReg (panBase + 8 * p) (s.panSvc p))

/-- Entries of the reduction tables outside FREE (R469). -/
def State.redInUse (s : State) : Nat :=
  let open_ (r : RedRound) : Nat := (r.frags.filter (fun e => e.2.st != .free && e.2.st != .done)).length
  s.reds.foldl (fun n r =>
    n + (match r.cur with | some x => open_ x | none => 0) + (match r.next with | some x => open_ x | none => 0)
      + r.ending.foldl (fun n x => n + open_ x) 0) 0

/-- CRC-32C of bytes: reflected polynomial 0x82F63B78, ones before and after (log entry 53). -/
def crc32cBit (c : Nat) (_i : Nat) : Nat := if c % 2 = 1 then c / 2 ^^^ 0x82F63B78 else c / 2
def crc32cByte (c : Nat) (b : Byte) : Nat := (upTo 8).foldl crc32cBit (c ^^^ b.toNat)
def crc32c (bs : List Byte) : Nat := bs.foldl crc32cByte 0xFFFF_FFFF ^^^ 0xFFFF_FFFF

/-- The 64 bytes of an audit record (R640); its data fields stand four bytes each, in their order (log entry 53). -/
def auditBytes (r : AuditRec) : List Byte :=
  let body := toLE 8 r.seq ++ toLE 4 r.boot ++ toLE 2 r.type ++ toLE 2 r.who ++ toLE 8 r.time.toNat
    ++ (upTo 9).flatMap (fun i => toLE 4 (nth 0 r.data i))
  body ++ toLE 4 (crc32c body)

/-- Word w of an audit record. -/
def auditWord (r : AuditRec) (w : Nat) : Word := BitVec.ofNat 64 (ofLE (((auditBytes r).drop (8 * w)).take 8))

/-- The record that MGT_LOGIDX selects; zero when it is not held (R642). -/
def State.showLog (s : State) : State :=
  let r := s.mgmt.audit.find? (fun r => decide (r.seq = (s.reg (mgtBase + 0x28)).toNat))
  forEach (upTo 8) s (fun s w => s.setReg (mgtBase + 0x30 + 8 * w) (match r with | some r => auditWord r w | none => 0))

/-- A change of a CFG_REGERR or MMU field needs no mirror: those registers hold their own fields. -/
def State.showRest (s : State) : State := (s.putF ⟨redBase + 8, 16, 13⟩ s.redInUse).recovRegs

/-- SLOW_CLOCK_EDGE (R246, R650): mtime counts; every slow-domain copy is taken anew; waits that nothing else ends are looked at. -/
def execSlowClockEdge (s : State) : Res :=
  let s := { s with mtime := s.mtime + 1 }
  let s := s.drainResets.drainParts
  let s := s.showUnits.showMxc
  let s := s.showParts.showLog
  let s := s.showRest
  .next { s with regsSlow := s.regs, recentW := [] }

end Sys2Proof.Machine
end

