-- ==== Sys2Proof/Machine/RvInt.lean ====
section
/-! DEFINITION. RISC-V integer instructions of R242 (RV64I, M, Zba, Zbb) and the expansion of compressed ones; the standards' text is presumed (log entry 27). -/

namespace Sys2Proof.Machine

/-! ### Fields of an instruction word -/

def iRd (w : Nat) : Nat := bits w 7 5
def iF3 (w : Nat) : Nat := bits w 12 3
def iRs1 (w : Nat) : Nat := bits w 15 5
def iRs2 (w : Nat) : Nat := bits w 20 5
def iF7 (w : Nat) : Nat := bits w 25 7
def immI (w : Nat) : Int := sext (bits w 20 12) 12
def immS (w : Nat) : Int := sext (bits w 25 7 * 32 + bits w 7 5) 12
def immB (w : Nat) : Int := sext (bits w 31 1 * 4096 + bits w 7 1 * 2048 + bits w 25 6 * 32 + bits w 8 4 * 2) 13
def immU (w : Nat) : Int := sext (bits w 12 20 * 4096) 32
def immJ (w : Nat) : Int := sext (bits w 31 1 * 2 ^ 20 + bits w 12 8 * 4096 + bits w 20 1 * 2048 + bits w 21 10 * 2) 21

/-- An integer as a 64-bit word. -/
def wordOf (x : Int) : Word := BitVec.ofNat 64 (toBits x 64)

/-- The low 32 bits, sign-extended to 64. -/
def sx32 (x : Nat) : Nat := toBits (sext x 32) 64

/-! ### Words of the base formats -/

def mkI (imm rs1 f3 rd op : Nat) : Nat := imm % 4096 * 2 ^ 20 + rs1 * 2 ^ 15 + f3 * 4096 + rd * 128 + op
def mkS (imm rs2 rs1 f3 op : Nat) : Nat := imm / 32 % 128 * 2 ^ 25 + rs2 * 2 ^ 20 + rs1 * 2 ^ 15 + f3 * 4096 + imm % 32 * 128 + op
def mkR (f7 rs2 rs1 f3 rd op : Nat) : Nat := f7 * 2 ^ 25 + rs2 * 2 ^ 20 + rs1 * 2 ^ 15 + f3 * 4096 + rd * 128 + op
def mkB (imm rs2 rs1 f3 : Nat) : Nat :=
  bits imm 12 1 * 2 ^ 31 + bits imm 5 6 * 2 ^ 25 + rs2 * 2 ^ 20 + rs1 * 2 ^ 15 + f3 * 4096 + bits imm 1 4 * 256 + bits imm 11 1 * 128 + 0x63
def mkJ (imm rd : Nat) : Nat :=
  bits imm 20 1 * 2 ^ 31 + bits imm 1 10 * 2 ^ 21 + bits imm 11 1 * 2 ^ 20 + bits imm 12 8 * 4096 + rd * 128 + 0x6F

/-! ### Compressed instructions -/

/-- Quadrant 0. -/
def expandC0 (h : Nat) : Option Nat :=
  let rd := 8 + bits h 2 3
  let rs := 8 + bits h 7 3
  let d := bits h 10 3 * 8 + bits h 5 2 * 64
  let w := bits h 10 3 * 8 + bits h 6 1 * 4 + bits h 5 1 * 64
  match bits h 13 3 with
  | 0 =>
    let imm := bits h 11 2 * 16 + bits h 7 4 * 64 + bits h 6 1 * 4 + bits h 5 1 * 8
    if imm = 0 then none else some (mkI imm 2 0 rd 0x13)
  | 1 => some (mkI d rs 3 rd 0x07)
  | 2 => some (mkI w rs 2 rd 0x03)
  | 3 => some (mkI d rs 3 rd 0x03)
  | 5 => some (mkS d rd rs 3 0x27)
  | 6 => some (mkS w rd rs 2 0x23)
  | 7 => some (mkS d rd rs 3 0x23)
  | _ => none

/-- Quadrant 1. -/
def expandC1 (h : Nat) : Option Nat :=
  let rd := bits h 7 5
  let rs := 8 + bits h 7 3
  let rs2 := 8 + bits h 2 3
  let imm := toBits (sext (bits h 12 1 * 32 + bits h 2 5) 6) 32
  let sh := bits h 12 1 * 32 + bits h 2 5
  match bits h 13 3 with
  | 0 => some (mkI imm rd 0 rd 0x13)
  | 1 => if rd = 0 then none else some (mkI imm rd 0 rd 0x1B)
  | 2 => some (mkI imm 0 0 rd 0x13)
  | 3 =>
    if sh = 0 then none
    else if rd = 2 then
      let x := bits h 12 1 * 512 + bits h 6 1 * 16 + bits h 5 1 * 64 + bits h 3 2 * 128 + bits h 2 1 * 32
      some (mkI (toBits (sext x 10) 12) 2 0 2 0x13)
    else some (imm % 2 ^ 20 * 4096 + rd * 128 + 0x37)
  | 4 =>
    (match bits h 10 2 with
    | 0 => some (mkI sh rs 5 rs 0x13)
    | 1 => some (mkI (0x400 + sh) rs 5 rs 0x13)
    | 2 => some (mkI imm rs 7 rs 0x13)
    | _ =>
      match bits h 12 1, bits h 5 2 with
      | 0, 0 => some (mkR 0x20 rs2 rs 0 rs 0x33)
      | 0, 1 => some (mkR 0 rs2 rs 4 rs 0x33)
      | 0, 2 => some (mkR 0 rs2 rs 6 rs 0x33)
      | 0, _ => some (mkR 0 rs2 rs 7 rs 0x33)
      | _, 0 => some (mkR 0x20 rs2 rs 0 rs 0x3B)
      | _, 1 => some (mkR 0 rs2 rs 0 rs 0x3B)
      | _, _ => none)
  | 5 =>
    let x := bits h 12 1 * 2048 + bits h 11 1 * 16 + bits h 9 2 * 256 + bits h 8 1 * 1024 + bits h 7 1 * 64 + bits h 6 1 * 128
      + bits h 3 3 * 2 + bits h 2 1 * 32
    some (mkJ (toBits (sext x 12) 21) 0)
  | f =>
    let x := bits h 12 1 * 256 + bits h 10 2 * 8 + bits h 5 2 * 64 + bits h 3 2 * 2 + bits h 2 1 * 32
    some (mkB (toBits (sext x 9) 13) 0 rs (f - 6))

/-- Quadrant 2. -/
def expandC2 (h : Nat) : Option Nat :=
  let rd := bits h 7 5
  let rs2 := bits h 2 5
  let d := bits h 12 1 * 32 + bits h 5 2 * 8 + bits h 2 3 * 64
  let w := bits h 12 1 * 32 + bits h 4 3 * 4 + bits h 2 2 * 64
  let ds := bits h 10 3 * 8 + bits h 7 3 * 64
  let ws := bits h 9 4 * 4 + bits h 7 2 * 64
  match bits h 13 3 with
  | 0 => some (mkI (bits h 12 1 * 32 + rs2) rd 1 rd 0x13)
  | 1 => some (mkI d 2 3 rd 0x07)
  | 2 => if rd = 0 then none else some (mkI w 2 2 rd 0x03)
  | 3 => if rd = 0 then none else some (mkI d 2 3 rd 0x03)
  | 4 =>
    if bits h 12 1 = 0 then
      if rs2 = 0 then (if rd = 0 then none else some (mkI 0 rd 0 0 0x67)) else some (mkR 0 rs2 0 0 rd 0x33)
    else if rs2 = 0 then (if rd = 0 then some 0x0010_0073 else some (mkI 0 rd 0 1 0x67))
    else some (mkR 0 rs2 rd 0 rd 0x33)
  | 5 => some (mkS ds rs2 2 3 0x27)
  | 6 => some (mkS ws rs2 2 2 0x23)
  | _ => some (mkS ds rs2 2 3 0x23)

/-- The 32-bit instruction of a compressed one; none where reserved. -/
def expandC (h : Nat) : Option Nat :=
  match h % 4 with
  | 0 => expandC0 h
  | 1 => expandC1 h
  | _ => expandC2 h

/-! ### Arithmetic -/

/-- Quotient and remainder with the standard's results for a zero divisor; an overflow wraps. -/
def divS (w a b : Nat) : Nat := if b = 0 then 2 ^ w - 1 else toBits ((sext a w).tdiv (sext b w)) w
def divU (w a b : Nat) : Nat := if b = 0 then 2 ^ w - 1 else a / b
def remS (w a b : Nat) : Nat := if b = 0 then a else toBits ((sext a w).tmod (sext b w)) w
def remU (a b : Nat) : Nat := if b = 0 then a else a % b

/-- Shifts of a w-bit number. -/
def shl (w a n : Nat) : Nat := (a <<< n) % 2 ^ w
def sra (w a n : Nat) : Nat := toBits (sext a w / ((2 ^ n : Nat) : Int)) w
def rotL (w a n : Nat) : Nat := let n := n % w; ((a <<< n) ||| (a >>> (w - n))) % 2 ^ w
def rotR (w a n : Nat) : Nat := rotL w a (w - n % w)

/-- All w bits inverted. -/
def inv (w a : Nat) : Nat := 2 ^ w - 1 - a % 2 ^ w

/-- Counts of zeros at the top and the bottom, and of ones. -/
def clz (w a : Nat) : Nat := if a = 0 then w else w - 1 - Nat.log2 a
def ctz (w a : Nat) : Nat := ((upTo w).find? (bit a)).getD w
def cpop (w a : Nat) : Nat := ((upTo w).filter (bit a)).length

/-- The value of each byte replaced. -/
def mapBytes (f : Nat → Nat) (a : Nat) : Nat := (upTo 8).foldl (fun x i => x + f (bits a (8 * i) 8) * 2 ^ (8 * i)) 0

/-- The bytes in reverse order. -/
def rev8 (a : Nat) : Nat := (upTo 8).foldl (fun x i => x + bits a (8 * i) 8 * 2 ^ (56 - 8 * i)) 0

/-- OP: register-register operations on 64 bits; b names Zba and Zbb as present. -/
def aluOp (zb : Bool) (f7 f3 a b : Nat) : Option Nat :=
  match f7, f3 with
  | 0x00, 0 => some ((a + b) % 2 ^ 64)
  | 0x20, 0 => some (toBits ((a : Int) - b) 64)
  | 0x00, 1 => some (shl 64 a (b % 64))
  | 0x00, 2 => some (b2n (decide (sext a 64 < sext b 64)))
  | 0x00, 3 => some (b2n (decide (a < b)))
  | 0x00, 4 => some (a ^^^ b)
  | 0x00, 5 => some (a >>> (b % 64))
  | 0x20, 5 => some (sra 64 a (b % 64))
  | 0x00, 6 => some (a ||| b)
  | 0x00, 7 => some (a &&& b)
  | 0x01, 0 => some (a * b % 2 ^ 64)
  | 0x01, 1 => some (toBits (sext a 64 * sext b 64 / ((2 ^ 64 : Nat) : Int)) 64)
  | 0x01, 2 => some (toBits (sext a 64 * (b : Int) / ((2 ^ 64 : Nat) : Int)) 64)
  | 0x01, 3 => some (a * b / 2 ^ 64)
  | 0x01, 4 => some (divS 64 a b)
  | 0x01, 5 => some (divU 64 a b)
  | 0x01, 6 => some (remS 64 a b)
  | 0x01, 7 => some (remU a b)
  | 0x20, 4 => if zb then some (inv 64 (a ^^^ b)) else none
  | 0x20, 6 => if zb then some (a ||| inv 64 b) else none
  | 0x20, 7 => if zb then some (a &&& inv 64 b) else none
  | 0x10, 2 => if zb then some ((a * 2 + b) % 2 ^ 64) else none
  | 0x10, 4 => if zb then some ((a * 4 + b) % 2 ^ 64) else none
  | 0x10, 6 => if zb then some ((a * 8 + b) % 2 ^ 64) else none
  | 0x30, 1 => if zb then some (rotL 64 a (b % 64)) else none
  | 0x30, 5 => if zb then some (rotR 64 a (b % 64)) else none
  | 0x05, 4 => if zb then some (if sext a 64 < sext b 64 then a else b) else none
  | 0x05, 5 => if zb then some (min a b) else none
  | 0x05, 6 => if zb then some (if sext a 64 < sext b 64 then b else a) else none
  | 0x05, 7 => if zb then some (max a b) else none
  | _, _ => none

/-- OP-32: operations on the low 32 bits, the result sign-extended; the .UW forms of Zba use them zero-extended. -/
def aluOpW (zb : Bool) (f7 f3 rs2 a b : Nat) : Option Nat :=
  let x : Nat := a % 2 ^ 32
  let y : Nat := b % 2 ^ 32
  match f7, f3 with
  | 0x00, 0 => some (sx32 (x + y))
  | 0x20, 0 => some (sx32 (x + (2 ^ 32 - y)))
  | 0x00, 1 => some (sx32 (x <<< (y % 32)))
  | 0x00, 5 => some (sx32 (x >>> (y % 32)))
  | 0x20, 5 => some (sx32 (sra 32 x (y % 32)))
  | 0x01, 0 => some (sx32 (x * y))
  | 0x01, 4 => some (sx32 (divS 32 x y))
  | 0x01, 5 => some (sx32 (divU 32 x y))
  | 0x01, 6 => some (sx32 (remS 32 x y))
  | 0x01, 7 => some (sx32 (remU x y))
  | 0x04, 0 => if zb then some ((x + b) % 2 ^ 64) else none
  | 0x10, 2 => if zb then some ((x * 2 + b) % 2 ^ 64) else none
  | 0x10, 4 => if zb then some ((x * 4 + b) % 2 ^ 64) else none
  | 0x10, 6 => if zb then some ((x * 8 + b) % 2 ^ 64) else none
  | 0x04, 4 => if zb && rs2 == 0 then some (a % 2 ^ 16) else none
  | 0x30, 1 => if zb then some (sx32 (rotL 32 x (y % 32))) else none
  | 0x30, 5 => if zb then some (sx32 (rotR 32 x (y % 32))) else none
  | _, _ => none

/-- OP-IMM. -/
def aluImm (zb : Bool) (w a : Nat) : Option Nat :=
  let i := toBits (immI w) 64
  let sh := bits w 20 6
  let hi := bits w 26 6
  match iF3 w with
  | 0 => some ((a + i) % 2 ^ 64)
  | 2 => some (b2n (decide (sext a 64 < immI w)))
  | 3 => some (b2n (decide (a < i)))
  | 4 => some (a ^^^ i)
  | 6 => some (a ||| i)
  | 7 => some (a &&& i)
  | 1 =>
    if hi = 0 then some (shl 64 a sh)
    else if !zb then none
    else
      (match bits w 20 12 with
      | 0x600 => some (clz 64 a)
      | 0x601 => some (ctz 64 a)
      | 0x602 => some (cpop 64 a)
      | 0x604 => some (toBits (sext a 8) 64)
      | 0x605 => some (toBits (sext a 16) 64)
      | _ => none)
  | _ =>
    if hi = 0 then some (a >>> sh)
    else if hi = 0x10 then some (sra 64 a sh)
    else if !zb then none
    else if hi = 0x18 then some (rotR 64 a sh)
    else if bits w 20 12 = 0x287 then some (mapBytes (fun b => if b = 0 then 0 else 255) a)
    else if bits w 20 12 = 0x6B8 then some (rev8 a)
    else none

/-- OP-IMM-32. -/
def aluImmW (zb : Bool) (w a : Nat) : Option Nat :=
  let x : Nat := a % 2 ^ 32
  let sh := bits w 20 5
  match iF3 w with
  | 0 => some (sx32 (toBits ((x : Int) + immI w) 32))
  | 1 =>
    if iF7 w = 0 then some (sx32 (x <<< sh))
    else if !zb then none
    else if bits w 26 6 = 2 then some (shl 64 x (bits w 20 6))
    else
      (match bits w 20 12 with
      | 0x600 => some (clz 32 x)
      | 0x601 => some (ctz 32 x)
      | 0x602 => some (cpop 32 x)
      | _ => none)
  | 5 =>
    if iF7 w = 0 then some (sx32 (x >>> sh))
    else if iF7 w = 0x20 then some (sx32 (sra 32 x sh))
    else if zb && iF7 w == 0x30 then some (sx32 (rotR 32 x sh))
    else none
  | _ => none

/-- Whether a branch is taken; none where the encoding is reserved. -/
def branchTaken (f3 a b : Nat) : Option Bool :=
  match f3 with
  | 0 => some (a == b)
  | 1 => some (a != b)
  | 4 => some (decide (sext a 64 < sext b 64))
  | 5 => some (!decide (sext a 64 < sext b 64))
  | 6 => some (decide (a < b))
  | 7 => some (!decide (a < b))
  | _ => none

/-- Write an integer result and go on. -/
def State.rvDone (s : State) (k len rd : Nat) (x : Option Nat) : Option State :=
  x.map (fun v => (s.setXr k rd (BitVec.ofNat 64 v)).retire k len)

/-- The integer instructions of one opcode that reach no memory; none where the opcode is another or the encoding is reserved. -/
def State.rvInt (s : State) (k w len : Nat) : Option State :=
  let zb := isVcKey k
  let a := (s.xr k (iRs1 w)).toNat
  let b := (s.xr k (iRs2 w)).toNat
  let pc := (s.rv k).pc
  let link (s : State) : State := s.setXr k (iRd w) (pc + BitVec.ofNat 64 len)
  match bits w 0 7 with
  | 0x13 => s.rvDone k len (iRd w) (aluImm zb w a)
  | 0x1B => s.rvDone k len (iRd w) (aluImmW zb w a)
  | 0x33 => s.rvDone k len (iRd w) (aluOp zb (iF7 w) (iF3 w) a b)
  | 0x3B => s.rvDone k len (iRd w) (aluOpW zb (iF7 w) (iF3 w) (iRs2 w) a b)
  | 0x37 => s.rvDone k len (iRd w) (some (toBits (immU w) 64))
  | 0x17 => s.rvDone k len (iRd w) (some (pc + wordOf (immU w)).toNat)
  | 0x6F => some ((link s).jump k (pc + wordOf (immJ w)))
  | 0x67 => if iF3 w = 0 then some ((link s).jump k (BitVec.ofNat 64 a + wordOf (immI w))) else none
  | 0x63 =>
    (branchTaken (iF3 w) a b).map (fun t => if t then s.jump k (pc + wordOf (immB w)) else s.retire k len)
  | _ => none

end Sys2Proof.Machine
end

