-- ==== Sys2Proof/Machine/RvFp.lean ====
section
/-! DEFINITION. RISC-V floating point: F and D of every core, Zfh of the vector cores (R242, R112); IEEE 754 and the standards' text are presumed (log entry 27). -/

namespace Sys2Proof.Machine

/-! ### Operations with flags -/

/-- A result code with the flags it raises. -/
structure FR where
  code : Nat
  fl : Nat
  deriving DecidableEq, Repr

/-- Flags of two steps together. -/
def FR.also (r : FR) (fl : Nat) : FR := { r with fl := r.fl ||| fl }

/-- Width in bits of a format. -/
def fWidth (f : FFmt) : Nat := 1 + f.eb + f.mb

/-- A signalling NaN. -/
def isSnan (f : FFmt) (c : Nat) : Bool := decide (c % 2 ^ (f.eb + f.mb) > infMag f) && !bit c (f.mb - 1)

/-- A NaN. -/
def isNanC (f : FFmt) (c : Nat) : Bool := decide (c % 2 ^ (f.eb + f.mb) > infMag f)

/-- NV for a signalling NaN among the operands. -/
def snanFl (f : FFmt) (cs : List Nat) : Nat := if cs.any (isSnan f) then ffNV else 0

/-- A value rounded to fewer mantissa bits but without an end of range: whether it is tiny after rounding. -/
def tinyAfter (f : FFmt) (rnd : Rnd) (neg : Bool) (m : Nat) (e : Int) : Bool :=
  let d := f.mb + 8
  decide ((roundMag { f with bias := f.bias + d } rnd neg m e).1 < (d + 1) * 2 ^ f.mb)

/-- Round a value: overflow, underflow (tininess after rounding) and inexact are flagged. -/
def fRound (f : FFmt) (rnd : Rnd) (v : Val) : FR :=
  match v with
  | .fin neg m e =>
    let r := roundMag f rnd neg m e
    if r.1 > maxMag f then ⟨(encodeF f rnd v).1, ffOF ||| ffNX⟩
    else
      ⟨withSign f neg r.1, if r.2 then ffNX ||| (if m ≠ 0 ∧ tinyAfter f rnd neg m e = true then ffUF else 0) else 0⟩
  | v => ⟨(encodeF f rnd v).1, 0⟩

/-- Round to odd: truncate, and set the last bit where inexact (vfncvt.rod). -/
def fRoundOdd (f : FFmt) (v : Val) : FR :=
  let r := fRound f .rtz v
  if r.fl &&& ffNX ≠ 0 then { r with code := r.code ||| 1 } else r

/-- A value that comes out of NaN-free operands as NaN is invalid. -/
def nvIf (b : Bool) : Nat := if b then ffNV else 0

/-- a + b. -/
def fAdd (f : FFmt) (rnd : Rnd) (a b : Nat) : FR :=
  let x := decodeF f a
  let y := decodeF f b
  let v := Val.addRnd rnd x y
  (fRound f rnd v).also (snanFl f [a, b] ||| nvIf (v.isNan && !x.isNan && !y.isNan))

/-- The code with the opposite sign. -/
def fNeg (f : FFmt) (a : Nat) : Nat := a ^^^ 2 ^ (f.eb + f.mb)

/-- a - b; a NaN operand keeps what it is. -/
def fSub (f : FFmt) (rnd : Rnd) (a b : Nat) : FR := fAdd f rnd a (fNeg f b)

/-- a × b. -/
def fMul (f : FFmt) (rnd : Rnd) (a b : Nat) : FR :=
  let x := decodeF f a
  let y := decodeF f b
  let v := Val.mul x y
  (fRound f rnd v).also (snanFl f [a, b] ||| nvIf (v.isNan && !x.isNan && !y.isNan))

/-- a / b. -/
def fDiv (f : FFmt) (rnd : Rnd) (a b : Nat) : FR :=
  let x := decodeF f a
  let y := decodeF f b
  let v := Val.div x y
  let dz := v.isInf && !x.isInf && y.isZero
  (fRound f rnd v).also (snanFl f [a, b] ||| nvIf (v.isNan && !x.isNan && !y.isNan) ||| (if dz then ffDZ else 0))

/-- The square root. -/
def fSqrt (f : FFmt) (rnd : Rnd) (a : Nat) : FR :=
  let x := decodeF f a
  let v := Val.sqrt x
  (fRound f rnd v).also (snanFl f [a] ||| nvIf (v.isNan && !x.isNan))

/-- ±(a × b) ± c, rounded once; infinity times zero is invalid even beside a quiet NaN. -/
def fFma (f : FFmt) (rnd : Rnd) (np nc : Bool) (a b c : Nat) : FR :=
  let x := decodeF f a
  let y := decodeF f b
  let p := Val.mul x y
  let p := if np then p.opp else p
  let z := decodeF f c
  let z := if nc then z.opp else z
  let v := Val.addRnd rnd p z
  let bad := (p.isNan && !x.isNan && !y.isNan) || (v.isNan && !p.isNan && !z.isNan)
  (fRound f rnd v).also (snanFl f [a, b, c] ||| nvIf bad)

/-- The lesser or the greater; -0 lies below +0, and one NaN gives way to the number. -/
def fMinMax (f : FFmt) (mx : Bool) (a b : Nat) : FR :=
  let x := decodeF f a
  let y := decodeF f b
  let less := Val.lt x y || (x.isZero && y.isZero && x.neg && !y.neg)
  let code :=
    if x.isNan && y.isNan then nanCode f
    else if x.isNan then b
    else if y.isNan then a
    else if less == mx then b else a
  ⟨code, snanFl f [a, b]⟩

/-- a = b (quiet), a < b, a ≤ b (signalling). -/
def fEq (f : FFmt) (a b : Nat) : FR := ⟨b2n (Val.eqv (decodeF f a) (decodeF f b)), snanFl f [a, b]⟩
def fLt (f : FFmt) (a b : Nat) : FR := ⟨b2n (Val.lt (decodeF f a) (decodeF f b)), nvIf (isNanC f a || isNanC f b)⟩
def fLe (f : FFmt) (a b : Nat) : FR :=
  let x := decodeF f a
  let y := decodeF f b
  ⟨b2n (Val.lt x y || Val.eqv x y), nvIf (isNanC f a || isNanC f b)⟩

/-- The class of a code, as a mask of ten bits. -/
def fClass (f : FFmt) (a : Nat) : Nat :=
  let neg := bit a (f.eb + f.mb)
  let mag := a % 2 ^ (f.eb + f.mb)
  let i :=
    if mag > infMag f then (if isSnan f a then 8 else 9)
    else if mag = infMag f then (if neg then 0 else 7)
    else if mag = 0 then (if neg then 3 else 4)
    else if mag < 2 ^ f.mb then (if neg then 2 else 5)
    else if neg then 1 else 6
  2 ^ i

/-- Sign injection: 0 the sign of b, 1 its opposite, 2 both signs' exclusive or. -/
def fSgnj (f : FFmt) (k a b : Nat) : Nat :=
  let sa := bit a (f.eb + f.mb)
  let sb := bit b (f.eb + f.mb)
  let sg := if k = 0 then sb else if k = 1 then !sb else sa != sb
  withSign f sg (a % 2 ^ (f.eb + f.mb))

/-- To an integer of w bits: out of range, infinite and NaN are invalid and give the nearest bound (NaN the upper one). -/
def fToInt (f : FFmt) (rnd : Rnd) (w : Nat) (sg : Bool) (a : Nat) : FR :=
  let hi : Int := if sg then ((2 ^ (w - 1) : Nat) : Int) - 1 else ((2 ^ w : Nat) : Int) - 1
  let lo : Int := if sg then -((2 ^ (w - 1) : Nat) : Int) else 0
  match decodeF f a with
  | .nan => ⟨toBits hi w, ffNV⟩
  | .inf neg => ⟨toBits (if neg then lo else hi) w, ffNV⟩
  | .fin neg m e =>
    let x := (Val.fin neg m e).toInt rnd
    if x > hi then ⟨toBits hi w, ffNV⟩
    else if x < lo then ⟨toBits lo w, ffNV⟩
    else ⟨toBits x w, if Val.eqv (.fin neg m e) (.fin (decide (x < 0)) x.natAbs 0) then 0 else ffNX⟩

/-- From an integer. -/
def fOfInt (f : FFmt) (rnd : Rnd) (x : Int) : FR := fRound f rnd (.fin (decide (x < 0)) x.natAbs 0)

/-- Between formats. -/
def fConv (g f : FFmt) (rnd : Rnd) (a : Nat) : FR := (fRound f rnd (decodeF g a)).also (snanFl g [a])

/-! ### Seven-bit estimates of the V extension -/

/-- Entry i of the reciprocal table. -/
def recTab (i : Nat) : Nat := (2 * (128 * (255 - 2 * i)) + (257 + 2 * i)) / (2 * (257 + 2 * i))

/-- Entry i of the reciprocal square root table; its upper half is for odd exponents. -/
def rsqrtTab (i : Nat) : Nat := (isqrt (262144 * 128 / ((129 + 2 * (i % 64)) * (if i < 64 then 2 else 1))) - 255) / 2

/-- A subnormal's mantissa shifted until it has its leading one, which falls away; the exponent goes down with it. -/
def normSub (f : FFmt) (sig : Nat) : Nat × Int :=
  let lz := f.mb - 1 - Nat.log2 sig
  ((sig <<< (lz + 1)) % 2 ^ f.mb, -(lz : Int))

/-- vfrec7. -/
def fRec7 (f : FFmt) (rnd : Rnd) (a : Nat) : FR :=
  let neg := bit a (f.eb + f.mb)
  let mag := a % 2 ^ (f.eb + f.mb)
  if mag > infMag f then ⟨nanCode f, snanFl f [a]⟩
  else if mag = infMag f then ⟨withSign f neg 0, 0⟩
  else if mag = 0 then ⟨withSign f neg (infMag f), ffDZ⟩
  else
    let n : Nat × Int := if mag < 2 ^ f.mb then normSub f mag else (mag % 2 ^ f.mb, ((mag / 2 ^ f.mb : Nat) : Int))
    if n.2 < -1 then ⟨withSign f neg (if overflowToMax rnd neg then maxMag f else infMag f), ffOF ||| ffNX⟩
    else
      let sig := recTab (n.1 / 2 ^ (f.mb - 7)) * 2 ^ (f.mb - 7)
      let e : Int := 2 * (f.bias : Int) - 1 - n.2
      let m := if e = 0 then sig / 2 + 2 ^ (f.mb - 1) else if e < 0 then (sig / 2 + 2 ^ (f.mb - 1)) / 2 else sig
      ⟨withSign f neg ((max e 0).toNat * 2 ^ f.mb + m), 0⟩

/-- vfrsqrt7. -/
def fRsqrt7 (f : FFmt) (a : Nat) : FR :=
  let neg := bit a (f.eb + f.mb)
  let mag := a % 2 ^ (f.eb + f.mb)
  if mag > infMag f then ⟨nanCode f, snanFl f [a]⟩
  else if mag = 0 then ⟨withSign f neg (infMag f), ffDZ⟩
  else if neg then ⟨nanCode f, ffNV⟩
  else if mag = infMag f then ⟨0, 0⟩
  else
    let n : Nat × Int := if mag < 2 ^ f.mb then normSub f mag else (mag % 2 ^ f.mb, ((mag / 2 ^ f.mb : Nat) : Int))
    let odd := n.2 % 2 = 1
    let i := (if odd then 64 else 0) + n.1 / 2 ^ (f.mb - 6)
    let e : Int := (3 * (f.bias : Int) - 1 - n.2) / 2
    ⟨e.toNat * 2 ^ f.mb + rsqrtTab i * 2 ^ (f.mb - 7), 0⟩

/-! ### The f registers -/

/-- Register i as it is held. -/
def State.frRaw (s : State) (k i : Nat) : Nat := (mget 0 (s.rv k).f i).toNat

/-- Register i in a format: a narrower value that is not boxed reads as the canonical NaN. -/
def State.fr (s : State) (k : Nat) (f : FFmt) (i : Nat) : Nat :=
  let x := s.frRaw k i
  let n := fWidth f
  if x >>> n = 2 ^ (64 - n) - 1 then x % 2 ^ n else nanCode f

/-- Write register i, boxed; the state is Dirty. -/
def State.setFr (s : State) (k : Nat) (f : FFmt) (i c : Nat) : State :=
  let n := fWidth f
  let x := (2 ^ (64 - n) - 1) * 2 ^ n + c % 2 ^ n
  (s.updRv k (fun r => { r with f := mset 0 r.f i (BitVec.ofNat 64 x) })).fsDirty k

/-- The format of a fmt field: 0 binary32, 1 binary64, 2 binary16 on a vector core. -/
def fmtField (vc : Bool) (n : Nat) : Option FFmt :=
  match n with
  | 0 => some binary32
  | 1 => some binary64
  | 2 => if vc then some binary16 else none
  | _ => none

/-- A rounding mode by number. -/
def rndOf (n : Nat) : Option Rnd :=
  match n with
  | 0 => some .rne
  | 1 => some .rtz
  | 2 => some .rdn
  | 3 => some .rup
  | 4 => some .rmm
  | _ => none

/-- frm, where it names a mode. -/
def State.frm (s : State) (k : Nat) : Option Rnd := rndOf (fld (s.csr k 3) 5 3)

/-- The rounding mode of an rm field: 7 takes frm. -/
def State.rmOf (s : State) (k rm : Nat) : Option Rnd := if rm = 7 then s.frm k else rndOf rm

/-- Write a floating-point result with its flags and go on. -/
def State.fpDone (s : State) (k len rd : Nat) (f : FFmt) (r : FR) : State := ((s.setFr k f rd r.code).setFflags k r.fl).retire k len

/-- Write an integer result of a floating-point instruction with its flags and go on. -/
def State.fpInt (s : State) (k len rd x fl : Nat) : State := ((s.setXr k rd (BitVec.ofNat 64 x)).setFflags k fl).retire k len

/-- Sign-extend a w-bit integer result to 64 bits. -/
def sxTo64 (w x : Nat) : Nat := toBits (sext x w) 64

/-! ### The opcodes -/

/-- FMADD, FMSUB, FNMSUB, FNMADD. -/
def State.rvFma (s : State) (k w len : Nat) : Option State :=
  match fmtField (isVcKey k) (bits w 25 2), s.rmOf k (iF3 w) with
  | some f, some rnd =>
    let op := bits w 2 2
    let np := op ≥ 2
    let nc := op = 1 ∨ op = 3
    some (s.fpDone k len (iRd w) f (fFma f rnd np nc (s.fr k f (iRs1 w)) (s.fr k f (iRs2 w)) (s.fr k f (bits w 27 5))))
  | _, _ => none

/-- Conversions between floating point and integers: rs2 names the integer, 0 W, 1 WU, 2 L, 3 LU. -/
def State.rvFcvtInt (s : State) (k w len : Nat) (f : FFmt) (toI : Bool) (rnd : Rnd) : Option State :=
  let n := iRs2 w
  if n > 3 then none
  else
    let wd := if n < 2 then 32 else 64
    let sg := n % 2 == 0
    if toI then
      let r := fToInt f rnd wd sg (s.fr k f (iRs1 w))
      some (s.fpInt k len (iRd w) (sxTo64 wd r.code) r.fl)
    else
      let x := (s.xr k (iRs1 w)).toNat % 2 ^ wd
      some (s.fpDone k len (iRd w) f (fOfInt f rnd (if sg then sext x wd else (x : Int))))

/-- OP-FP. -/
def State.rvOpFp (s : State) (k w len : Nat) : Option State :=
  let vc := isVcKey k
  match fmtField vc (bits w 25 2) with
  | none => none
  | some f =>
    let rd := iRd w
    let f3 := iF3 w
    let rs2 := iRs2 w
    let a := s.fr k f (iRs1 w)
    let b := s.fr k f rs2
    let rnd := s.rmOf k f3
    match bits w 27 5 with
    | 0x00 => rnd.map (fun r => s.fpDone k len rd f (fAdd f r a b))
    | 0x01 => rnd.map (fun r => s.fpDone k len rd f (fSub f r a b))
    | 0x02 => rnd.map (fun r => s.fpDone k len rd f (fMul f r a b))
    | 0x03 => rnd.map (fun r => s.fpDone k len rd f (fDiv f r a b))
    | 0x0B => if rs2 = 0 then rnd.map (fun r => s.fpDone k len rd f (fSqrt f r a)) else none
    | 0x04 => if f3 < 3 then some (s.fpDone k len rd f ⟨fSgnj f f3 a b, 0⟩) else none
    | 0x05 => if f3 < 2 then some (s.fpDone k len rd f (fMinMax f (f3 == 1) a b)) else none
    | 0x08 =>
      (match fmtField vc rs2, rnd with
      | some g, some r => if g = f then none else some (s.fpDone k len rd f (fConv g f r (s.fr k g (iRs1 w))))
      | _, _ => none)
    | 0x14 =>
      if f3 > 2 then none
      else
        let r := if f3 = 0 then fLe f a b else if f3 = 1 then fLt f a b else fEq f a b
        some (s.fpInt k len rd r.code r.fl)
    | 0x18 => rnd.bind (fun r => s.rvFcvtInt k w len f true r)
    | 0x1A => rnd.bind (fun r => s.rvFcvtInt k w len f false r)
    | 0x1C =>
      if rs2 ≠ 0 then none
      else if f3 = 0 then some (s.fpInt k len rd (sxTo64 (fWidth f) (s.frRaw k (iRs1 w))) 0)
      else if f3 = 1 then some (s.fpInt k len rd (fClass f a) 0)
      else none
    | 0x1E => if rs2 = 0 ∧ f3 = 0 then some (s.fpDone k len rd f ⟨(s.xr k (iRs1 w)).toNat, 0⟩) else none
    | _ => none

/-- The floating-point instructions that reach no memory; none where F is off, or the encoding reserved or not implemented. -/
def State.rvFp (s : State) (k w len : Nat) : Option State :=
  if !s.fsOn k then none
  else
    match bits w 0 7 with
    | 0x43 => s.rvFma k w len
    | 0x47 => s.rvFma k w len
    | 0x4B => s.rvFma k w len
    | 0x4F => s.rvFma k w len
    | 0x53 => s.rvOpFp k w len
    | _ => none

end Sys2Proof.Machine
end

