-- ==== Sys2Proof/Machine/RvMem.lean ====
section
/-! DEFINITION. Memory as the RISC-V cores see it (R243-R245, R253, R254, R282, R644-R651): scratch, register window, device and host memory; loads, stores, atomics. -/

namespace Sys2Proof.Machine

/-! ### Register reads (R645, R649, R651) -/

/-- What a read of a register returns, by its fields' access codes. -/
def State.regValue (s : State) (rq : Requester) (k : Nat) : Word :=
  let now := s.reg k &&& accMask k (fun a => a == .rw || a == .kw || a == .ro || a == .cw)
  let slow := s.slowReg k &&& accMask k (fun a => a == .rc || a == .w1c)
  match groupOf k with
  | some g => if k % 0x1000 = 0xFF0 then (if s.guardOpen rq g.1 then maskW 16 1 else 0) else now ||| slow
  | none => now ||| slow

/-- A register read of `size` bytes at an offset: of 8 or 4 aligned bytes, else zero; the register space is read whole by firmware. -/
def State.regRead (s : State) (rq : Requester) (off size : Nat) : State × Nat :=
  let good := (size == 8 && off % 8 == 0) || (size == 4 && off % 4 == 0)
  match s.regKey rq off with
  | none => (s, 0)
  | some k0 =>
    let k := k0 / 8 * 8
    let down := match keyDie k with | some d => s.dieDown d | none => false
    if !good || down then (s, 0)
    else if off < 0x1_0000 ∧ off / 8 * 8 = 0x100 then
      if size = 8 then let s := s.fnPop (pageFn rq); (s, (s.reg (fnPage (pageFn rq) + 0x100)).toNat) else (s, 0)
    else
      let v := s.regValue rq k
      (s, if size = 8 then v.toNat else fld v (8 * (off % 8)) 32)

/-! ### Outcomes -/

/-- What an access gives: the bytes as a number, a trap, or a wait (a fault record holds it, or a register's copy is awaited). -/
inductive MOut where
  | val (x : Nat)
  | trap (cause : Nat) (tval : Nat)
  | wait
  deriving DecidableEq, Repr

/-- An access fault, of the kind of the access. -/
def accFault (acc : Access) : Nat :=
  match acc with
  | .read => excLoadAccess
  | .fetch => excFetchAccess
  | _ => excStoreAccess

/-- A page fault, of the kind of the access. -/
def pageFault (acc : Access) : Nat :=
  match acc with
  | .read => excLoadPage
  | .fetch => excFetchPage
  | _ => excStorePage

/-- Kind of an access that a fault record holds. -/
def heldKind (acc : Access) : Nat :=
  match acc with
  | .read => 0
  | .fetch => 3
  | _ => 1

/-- Whether an access runs in M mode: under MPRV a load or store takes the mode of MPP. -/
def State.effMode (s : State) (k : Nat) (acc : Access) : Mode :=
  let st := s.csr k csrMstatus
  if acc ≠ .fetch ∧ (s.rv k).mode = .machine ∧ fld st 17 1 = 1 then modeOf (fld st 11 2) else (s.rv k).mode

/-! ### Vector cores (R253) -/

/-- Where the register window and vector scratch of a vector core begin. -/
def winBase : Nat := 0xFFFF_FFFF_FFF7_F000
def scrBase : Nat := 0xFFFF_FFFF_FFF8_0000

/-- The piece of an access that lies in one region: its length. -/
def pieceLen (a n : Nat) : Nat :=
  match [2 ^ 48, winBase, scrBase, 2 ^ 64].find? (fun b => decide (a < b) && decide (b < a + n)) with
  | some b => b - a
  | none => n

/-- The requester that a core's firmware is; a cell window holds no guarded group, so that every vector core may share one. -/
def fwOf (k : Nat) : Requester := if k < 480 then .fw 0 else .fw (Fin.ofNat 17 (k - 480))

/-- A register access by firmware: a read of a register just written waits (R651). -/
def State.regAccess (s : State) (k off n : Nat) (acc : Access) (x : Nat) : State × MOut :=
  let rq := fwOf k
  match acc with
  | .read =>
    let recent := match s.regKey rq off with | some key => s.recentW.contains (rq, key / 8 * 8) | none => false
    if recent then (s, .wait) else let r := s.regRead rq off n; (r.1, .val r.2)
  | _ => (s.regWrite rq off n (BitVec.ofNat 64 x) s.power.straps, .val 0)

/-- A piece of a load or store of a vector core. -/
def State.vcPiece (s : State) (k a n : Nat) (acc : Access) (x : Nat) : State × MOut :=
  let r := s.rv k
  if a ≥ scrBase then
    let o := a - scrBase
    if acc = .write then (s.updRv k (fun r => r.scrPut o (toLE n x)), .val 0)
    else if anyBad r.badScratch o n then (s, .trap (accFault acc) a)
    else (s, .val (ofLE (r.scrRead o n)))
  else if a ≥ winBase then
    if s.effMode k acc ≠ .machine ∨ acc = .fetch then (s, .trap (accFault acc) a)
    else s.regAccess k (cellBase k + (a - winBase)) n acc x
  else if a ≥ 2 ^ 48 then (s, .trap (accFault acc) a)
  else
    let part := s.cellPart k
    let u := UnitId.vc (Fin.ofNat 480 k)
    let z :=
      if acc = .write then s.vWrite u r.ctx part a (toLE n x) k (some (.vc (Fin.ofNat 480 k)))
      else s.vRead u r.ctx part a n acc (some (.vc (Fin.ofNat 480 k)))
    match z.o with
    | .done bs poison => if poison then (z.st, .trap (accFault acc) a) else (z.st, .val (ofLE bs))
    | .held id va => (z.st.updRv k (fun r => { r with held := some (id, heldKind acc, va) }), .wait)

/-! ### Half controllers and service cores: Sv48, PMP, physical map (R242) -/

/-- The PMP entry that matches an access first: its configuration byte, and whether it holds every byte. -/
def State.pmpFind (s : State) (k pa n : Nat) : Option (Nat × Bool) :=
  let cfgOf (i : Nat) : Nat := fld (s.csr k (0x3A0 + 2 * (i / 8))) (8 * (i % 8)) 8
  let top (i : Nat) : Nat := 4 * (s.csr k (0x3B0 + i)).toNat
  let range (i : Nat) : Nat × Nat :=
    let c := bits (cfgOf i) 3 2
    let ad := (s.csr k (0x3B0 + i)).toNat
    if c = 1 then (if i = 0 then 0 else top (i - 1), top i)
    else if c = 2 then (4 * ad, 4 * ad + 4)
    else if c = 3 then
      let t := ctz 64 (inv 64 ad)
      (ad / 2 ^ (t + 1) * 2 ^ (t + 1) * 4, ad / 2 ^ (t + 1) * 2 ^ (t + 1) * 4 + 2 ^ (t + 3))
    else (0, 0)
  ((upTo 16).find? (fun i => let r := range i; decide (r.1 < pa + n) && decide (pa < r.2))).map (fun i =>
    let r := range i
    (cfgOf i, decide (r.1 ≤ pa) && decide (pa + n ≤ r.2)))

/-- Whether PMP lets an access pass; without a match only M mode does. -/
def State.pmpOk (s : State) (k pa n : Nat) (acc : Access) (m : Mode) : Bool :=
  match s.pmpFind k pa n with
  | none => m == .machine
  | some (c, whole) => whole && ((m == .machine && !bit c 7) || permOk acc (bit c 0) (bit c 1) (bit c 2))

/-- Read or write a place of the device physical map by firmware: memory, registers (R644), junction-die SRAM, timers. -/
def State.fwPiece (s : State) (k pa n : Nat) (acc : Access) (va x : Nat) : State × MOut :=
  if (s.decodePa pa).isSome && !(s.paOk pa && s.paOk (pa + n - 1)) then (s, .trap (accFault acc) va)
  else if (s.decodePa pa).isSome then
    if acc = .write then (s.physWrite 0 k pa (toLE n x), .val 0)
    else
      let r := s.physRead 0 pa n
      if r.poison then (r.st, .trap (accFault acc) va) else (r.st, .val (ofLE r.data))
  else if 0xF0_0000_0000 ≤ pa ∧ pa < 0xF0_0400_0000 ∧ acc ≠ .fetch then s.regAccess k (pa - 0xF0_0000_0000) n acc x
  else if Config.jsramBase ≤ pa ∧ pa + n ≤ Config.jsramBase + 2 ^ 26 then
    let o := pa - Config.jsramBase
    if acc = .write then ({ s with jsram := writeLE s.jsram o n x, jsramBad := clearBad s.jsramBad o n }, .val 0)
    else if anyBad s.jsramBad o n then (s, .trap (accFault acc) va)
    else (s, .val (readLE s.jsram o n))
  else
    match (upTo 496).find? (fun c => Config.mtimecmpAddr c == pa), (upTo 496).find? (fun c => Config.msipAddr c == pa) with
    | some c, _ =>
      if acc = .write then ((s.updRv c (fun r => { r with mtimecmp := BitVec.ofNat 64 x })).setMip c 7 (decide (x ≤ s.mtime.toNat)), .val 0)
      else (s, .val (s.rv c).mtimecmp.toNat)
    | none, some c =>
      if acc = .write then (s.setMip c 3 (bit x 0), .val 0) else (s, .val (fld (s.csr c 0x344) 3 1))
    | none, none => (s, .trap (accFault acc) va)

/-- The answer of an Sv48 walk: a physical address and the bytes left in its page, or a trap. -/
inductive SvOut where
  | pa (a : Nat)
  | trap (cause : Nat)
  deriving DecidableEq, Repr

/-- Whether a leaf's permissions serve an access from a mode, under SUM and MXR. -/
def svPerm (pte st : Nat) (acc : Access) (m : Mode) : Bool :=
  let u := bit pte 4
  let okU := if m = .user then u else !u || (bit st 18 && acc != .fetch)
  okU && permOk acc (bit pte 1 || (bit st 19 && bit pte 3)) (bit pte 2) (bit pte 3)

/-- Walk the Sv48 tables from level lvl; PTE reads pass PMP in S mode. Clear A or D bits are a page fault. -/
def State.svWalk (s : State) (k va ppn lvl : Nat) (acc : Access) (m : Mode) : State × SvOut :=
  let a := ppn * 4096 + 8 * bits va (lvlShift lvl) 9
  if !s.pmpOk k a 8 .read .supervisor then (s, .trap (accFault acc))
  else
    let r := s.fwPiece k a 8 .read va 0
    match r.2 with
    | .val pte =>
      let x := bits pte 1 3
      let bad := !bit pte 0 || (!bit pte 1 && bit pte 2) || decide (bits pte 54 9 ≠ 0) || (bit pte 63 && !(lvl == 0 && bits pte 10 4 == 8))
      if bad then (r.1, .trap (pageFault acc))
      else if x = 0 then
        match lvl with
        | 0 => (r.1, .trap (pageFault acc))
        | l + 1 =>
          if bit pte 4 || bit pte 6 || bit pte 7 then (r.1, .trap (pageFault acc)) else r.1.svWalk k va (bits pte 10 44) l acc m
      else
        let p := bits pte 10 44
        if !svPerm pte (s.csr k csrMstatus).toNat acc m || !bit pte 6 || (accWrites acc && !bit pte 7) || decide (p % 2 ^ (9 * lvl) ≠ 0) then
          (r.1, .trap (pageFault acc))
        else
          let sz := if bit pte 63 then 16 else lvlShift lvl
          (r.1, .pa (p * 4096 / 2 ^ sz * 2 ^ sz + va % 2 ^ sz))
    | _ => (r.1, .trap (accFault acc))
termination_by structural lvl

/-- The physical address of an access of a half controller or service core. -/
def State.svXlate (s : State) (k va : Nat) (acc : Access) : State × SvOut :=
  let m := s.effMode k acc
  let satp := s.csr k 0x180
  if m = .machine ∨ fld satp 60 4 ≠ 9 then (s, if va < 2 ^ 56 then .pa va else .trap (accFault acc))
  else if toBits (sext va 48) 64 ≠ va then (s, .trap (pageFault acc))
  else s.svWalk k va (fld satp 0 44) 3 acc m

/-- A piece within one page of a load or store of a half controller or service core. -/
def State.cpPiece (s : State) (k a n : Nat) (acc : Access) (x : Nat) : State × MOut :=
  let r := s.svXlate k a acc
  match r.2 with
  | .trap c => (r.1, .trap c a)
  | .pa pa => if r.1.pmpOk k pa n acc (s.effMode k acc) then r.1.fwPiece k pa n acc a x else (r.1, .trap (accFault acc) a)

/-! ### Accesses of any length up to 8 bytes -/

/-- An access of n bytes, in pieces where it leaves a region or (on a half controller or service core) a page; fuel bounds them. -/
def State.rvAccessF (s : State) (k a n : Nat) (acc : Access) (x fuel : Nat) : State × MOut :=
  match fuel with
  | 0 => (s, .val 0)
  | j + 1 =>
    let m := if isVcKey k then pieceLen a n else min n (4096 - a % 4096)
    let r := if isVcKey k then s.vcPiece k a m acc (x % 2 ^ (8 * m)) else s.cpPiece k a m acc (x % 2 ^ (8 * m))
    if m = n then r
    else
      match r.2 with
      | .val v =>
        let t := r.1.rvAccessF k ((a + m) % 2 ^ 64) (n - m) acc (x / 2 ^ (8 * m)) j
        (t.1, match t.2 with | .val y => .val (v + y * 2 ^ (8 * m)) | o => o)
      | o => (r.1, o)

/-- An access of n bytes at an effective address: misaligned ones are performed as several (R245). -/
def State.rvAccess (s : State) (k a n : Nat) (acc : Access) (x : Nat) : State × MOut := s.rvAccessF k (a % 2 ^ 64) n acc x 4

/-- Go on with the bytes of an access; a trap is taken, and a wait leaves the instruction to run again. -/
def State.rvThen (s : State) (k a n : Nat) (acc : Access) (x : Nat) (go : State → Nat → State) : State :=
  let r := s.rvAccess k a n acc x
  match r.2 with
  | .val v => go r.1 v
  | .trap c t => r.1.exception k c (BitVec.ofNat 64 t)
  | .wait => r.1.updRv k (fun z => { z with waiting := true })

/-! ### Scalar loads and stores -/

/-- Effective address. -/
def State.ea (s : State) (k r : Nat) (imm : Int) : Nat := (s.xr k r + wordOf imm).toNat

/-- LOAD. -/
def State.rvLoad (s : State) (k w len : Nat) : Option State :=
  let f3 := iF3 w
  let n := 2 ^ (f3 % 4)
  let sg := f3 < 4
  if f3 = 7 then none
  else
    some (s.rvThen k (s.ea k (iRs1 w) (immI w)) n .read 0 (fun s v =>
      (s.setXr k (iRd w) (BitVec.ofNat 64 (if sg then sxTo64 (8 * n) v else v))).retire k len))

/-- STORE. -/
def State.rvStore (s : State) (k w len : Nat) : Option State :=
  let f3 := iF3 w
  if f3 > 3 then none
  else
    some (s.rvThen k (s.ea k (iRs1 w) (immS w)) (2 ^ f3) .write (s.xr k (iRs2 w)).toNat (fun s _ => s.retire k len))

/-- The format of a scalar floating-point load or store. -/
def fpMemFmt (vc : Bool) (f3 : Nat) : Option FFmt :=
  match f3 with
  | 1 => if vc then some binary16 else none
  | 2 => some binary32
  | 3 => some binary64
  | _ => none

/-- FLH, FLW, FLD. -/
def State.rvFpLoad (s : State) (k w len : Nat) : Option State :=
  if !s.fsOn k then none
  else
    (fpMemFmt (isVcKey k) (iF3 w)).map (fun f =>
      s.rvThen k (s.ea k (iRs1 w) (immI w)) (fWidth f / 8) .read 0 (fun s v => (s.setFr k f (iRd w) v).retire k len))

/-- FSH, FSW, FSD. -/
def State.rvFpStore (s : State) (k w len : Nat) : Option State :=
  if !s.fsOn k then none
  else
    (fpMemFmt (isVcKey k) (iF3 w)).map (fun f =>
      s.rvThen k (s.ea k (iRs1 w) (immS w)) (fWidth f / 8) .write (s.frRaw k (iRs2 w)) (fun s _ => s.retire k len))

/-! ### Atomics (R245) -/

/-- The operation of an AMO encoding. -/
def amoOf (f5 rs2 : Nat) : Option AmoOp :=
  match f5 with
  | 0x02 => if rs2 = 0 then some .lr else none
  | 0x03 => some .sc
  | 0x01 => some .swap
  | 0x00 => some .add
  | 0x04 => some .xor
  | 0x0C => some .and
  | 0x08 => some .or
  | 0x10 => some .min
  | 0x14 => some .max
  | 0x18 => some .minu
  | 0x1C => some .maxu
  | _ => none

/-- An atomic performed in vector scratch: the old value (for SC 0 or 1), or poison. -/
def State.amoScratch (s : State) (k o : Nat) (op : AmoOp) (w x : Nat) : AmoRes :=
  let r := s.rv k
  let n := w / 8
  let old := ofLE (r.scrRead o n)
  let x := x % 2 ^ w
  let bad := anyBad r.badScratch o n
  if op = .sc then
    let good := decide (r.resv = some (o / 128)) && r.resvScratch
    let s1 := s.setRv k { r with resv := none }
    if bad then ⟨s1, 0, true⟩
    else if good then ⟨s1.updRv k (fun r => r.scrPut o (toLE n x)), 0, false⟩
    else ⟨s1, 1, false⟩
  else if bad then ⟨s, 0, true⟩
  else if op = .lr then ⟨s.setRv k { r with resv := some (o / 128), resvScratch := true }, old, false⟩
  else ⟨s.updRv k (fun r => r.scrPut o (toLE n (amoVal op w old x))), old, false⟩

/-- The kind of fault an atomic takes: a load's for LR, else a store's. -/
def amoAcc (op : AmoOp) : Access := if op = .lr then .read else .atomic

/-- An atomic of a vector core, aligned. -/
def State.vcAmo (s : State) (k a : Nat) (op : AmoOp) (w x : Nat) : State × MOut :=
  let cause := accFault (amoAcc op)
  let fin (r : AmoRes) : State × MOut := if r.poison then (r.st, .trap cause a) else (r.st, .val r.old)
  if a ≥ scrBase then fin (s.amoScratch k (a - scrBase) op w x)
  else if a ≥ 2 ^ 48 then (s, .trap cause a)
  else
    let u := UnitId.vc (Fin.ofNat 480 k)
    let ctx := (s.rv k).ctx
    let part := s.cellPart k
    let r := s.xlRun u ctx part a (w / 8) .atomic
    match r.bad, r.segs with
    | some (va, f), _ =>
      let z := r.st.openFault u ctx part va .atomic f (some (.vc (Fin.ofNat 480 k)))
      (z.1.updRv k (fun v => { v with held := some (z.2, heldKind (amoAcc op), va) }), .wait)
    | none, g :: _ => if g.host then (r.st, .trap (pageFault (amoAcc op)) a) else fin (r.st.amoAt k part op w g.pa x)
    | none, [] => (r.st, .trap cause a)

/-- An atomic of a half controller or service core, aligned: device memory only. -/
def State.cpAmo (s : State) (k a : Nat) (op : AmoOp) (w x : Nat) : State × MOut :=
  let acc := amoAcc op
  let r := s.svXlate k a acc
  match r.2 with
  | .trap c => (r.1, .trap c a)
  | .pa pa =>
    let s := r.1
    if s.pmpOk k pa (w / 8) acc (s.effMode k acc) && s.paOk pa && (s.decodePa pa).isSome then
      let z := s.amoAt k 0 op w pa x
      if z.poison then (z.st, .trap (accFault acc) a) else (z.st, .val z.old)
    else (s, .trap (accFault acc) a)

/-- AMO, LR, SC: a misaligned one takes an address-misaligned exception (R245). -/
def State.rvAmo (s : State) (k w len : Nat) : Option State :=
  let f3 := iF3 w
  match amoOf (bits w 27 5) (iRs2 w) with
  | none => none
  | some op =>
    if f3 ≠ 2 ∧ f3 ≠ 3 then none
    else
      let n := 2 ^ f3
      let a := (s.xr k (iRs1 w)).toNat
      if a % n ≠ 0 then some (s.exception k (if op = .lr then excLoadMisaligned else excStoreMisaligned) (BitVec.ofNat 64 a))
      else
        let x := (s.xr k (iRs2 w)).toNat
        let r := if isVcKey k then s.vcAmo k a op (8 * n) x else s.cpAmo k a op (8 * n) x
        some (match r.2 with
          | .val v =>
            let v := if op = .sc then v else sxTo64 (8 * n) v
            (r.1.setXr k (iRd w) (BitVec.ofNat 64 v)).retire k len
          | .trap c t => r.1.exception k c (BitVec.ofNat 64 t)
          | .wait => r.1.updRv k (fun z => { z with waiting := true }))

/-- The scalar instructions that reach memory. -/
def State.rvMem (s : State) (k w len : Nat) : Option State :=
  match bits w 0 7 with
  | 0x03 => s.rvLoad k w len
  | 0x23 => s.rvStore k w len
  | 0x07 => s.rvFpLoad k w len
  | 0x27 => s.rvFpStore k w len
  | 0x2F => s.rvAmo k w len
  | _ => none

end Sys2Proof.Machine
end

