-- ==== Sys2Proof/Machine/RvCsr.lean ====
section
/-! DEFINITION. Control and status registers and system instructions of the RISC-V cores (R242-R249): Zicsr, traps and returns, fences; the standards' text is presumed (log entry 27). -/

namespace Sys2Proof.Machine

/-! ### Which bits a CSR has -/

/-- Writable bits of mstatus, and those that sstatus shows. -/
def mstatusMask (vc : Bool) : Word := if vc then 0x0022_7E88 else 0x007E_79AA
def sstatusMask : Word := 0x000C_6122

/-- Interrupt bits of mie and mip; those of mip that software writes. -/
def intMask (vc : Bool) : Word := if vc then 0x888 else 0xAAA
def mipWrite (vc : Bool) : Word := if vc then 0 else 0x222

/-- misa. -/
def misaOf (vc : Bool) : Nat := 2 * 2 ^ 62 + 0x0010_112D + (if vc then 2 ^ 21 else 2 ^ 18)

/-- The plain CSRs of M mode and of S mode, with the bits that hold what is written. -/
def plainMask (vc : Bool) (n : Nat) : Option Word :=
  let all : Word := BitVec.allOnes 64
  match n with
  | 0x304 => some (intMask vc)
  | 0x305 => some (~~~ 2#64)
  | 0x306 => some 7
  | 0x30A => some 1
  | 0x320 => some 5
  | 0x340 => some all
  | 0x341 => some (~~~ 1#64)
  | 0x342 => some all
  | 0x343 => some all
  | 0xB00 => some all
  | 0xB02 => some all
  | _ =>
    if vc then none
    else
      match n with
      | 0x302 => some 0xB3FF
      | 0x303 => some 0x222
      | 0x105 => some (~~~ 2#64)
      | 0x106 => some 7
      | 0x10A => some 1
      | 0x140 => some all
      | 0x141 => some (~~~ 1#64)
      | 0x142 => some all
      | 0x143 => some all
      | _ => none

/-- Performance counters and event selectors, all read-only zero. -/
def isHpm (n : Nat) : Bool := (decide (0xB03 ≤ n) && decide (n ≤ 0xB1F)) || (decide (0x323 ≤ n) && decide (n ≤ 0x33F))

/-- PMP registers of a core that has PMP. -/
def isPmpAddr (vc : Bool) (n : Nat) : Bool := !vc && decide (0x3B0 ≤ n) && decide (n ≤ 0x3BF)
def isPmpCfg (vc : Bool) (n : Nat) : Bool := !vc && (n == 0x3A0 || n == 0x3A2)

/-! ### Reads -/

/-- mstatus with the fields that only read: UXL, SXL and SD. -/
def State.mstatusRead (s : State) (k : Nat) : Word :=
  let vc := isVcKey k
  let st := s.csr k csrMstatus &&& mstatusMask vc
  let sd := decide (fld st 13 2 = 3) || decide (fld st 9 2 = 3)
  st ||| BitVec.ofNat 64 (2 * 2 ^ 32 + (if vc then 0 else 2 * 2 ^ 34) + b2n sd * 2 ^ 63)

/-- The cycle count: cycle timing is left out, so that a running count is a free value (log entry 14). -/
def State.cycleRead (s : State) (k : Nat) : State × Word :=
  if bit (s.csr k 0x320).toNat 0 then (s, s.csr k 0xB00) else (s.tickFree, s.freshVal)

/-- A counter read below M mode must be enabled in mcounteren, and in U mode of a core with S mode in scounteren too. -/
def State.counterOn (s : State) (k i : Nat) : Bool :=
  let m := (s.rv k).mode
  m == .machine || (bit (s.csr k 0x306).toNat i && (isVcKey k || m == .supervisor || bit (s.csr k 0x106).toNat i))

/-- Read a user-level CSR. -/
def State.csrReadU (s : State) (k n : Nat) : Option (State × Word) :=
  let fp (v : Word) := if s.fsOn k then some (s, v) else none
  let ve (v : Word) := if s.vsOn k then some (s, v) else none
  match n with
  | 0x001 => fp (BitVec.ofNat 64 (fld (s.csr k 3) 0 5))
  | 0x002 => fp (BitVec.ofNat 64 (fld (s.csr k 3) 5 3))
  | 0x003 => fp (BitVec.ofNat 64 (fld (s.csr k 3) 0 8))
  | 0x008 => ve (s.csr k 8)
  | 0x009 => ve (BitVec.ofNat 64 (fld (s.csr k 0xF) 0 1))
  | 0x00A => ve (BitVec.ofNat 64 (fld (s.csr k 0xF) 1 2))
  | 0x00F => ve (BitVec.ofNat 64 (fld (s.csr k 0xF) 0 3))
  | 0xC20 => ve (s.csr k 0xC20)
  | 0xC21 => ve (s.csr k 0xC21)
  | 0xC22 => ve 512
  | 0xC00 => if s.counterOn k 0 then some (s.cycleRead k) else none
  | 0xC01 => if s.counterOn k 1 then some (s, s.mtime) else none
  | 0xC02 => if s.counterOn k 2 then some (s, s.csr k 0xB02) else none
  | _ => if 0xC03 ≤ n ∧ n ≤ 0xC1F ∧ s.counterOn k (n - 0xC00) = true then some (s, 0) else none

/-- Read a CSR; none where it does not exist or may not be read. -/
def State.csrRead (s : State) (k n : Nat) : Option (State × Word) :=
  let vc := isVcKey k
  if bits n 8 2 > modeNo (s.rv k).mode then none
  else if n < 0x100 ∨ 0xC00 ≤ n ∧ n < 0xD00 then s.csrReadU k n
  else if n = 0x300 then some (s, s.mstatusRead k)
  else if n = 0x301 then some (s, BitVec.ofNat 64 (misaOf vc))
  else if n = 0x344 then some (s, s.csr k 0x344 &&& intMask vc)
  else if n = 0xB00 then some (s.cycleRead k)
  else if 0xF11 ≤ n ∧ n ≤ 0xF15 then some (s, BitVec.ofNat 64 (Config.idCsr n k))
  else if isHpm n then some (s, 0)
  else if isPmpAddr vc n || isPmpCfg vc n then some (s, s.csr k n)
  else if (plainMask vc n).isSome then some (s, s.csr k n)
  else if vc then none
  else if n = 0x100 then some (s, s.mstatusRead k &&& (sstatusMask ||| 0x8000_0003_0000_0000))
  else if n = 0x104 then some (s, s.csr k 0x304 &&& s.csr k 0x303)
  else if n = 0x144 then some (s, s.csr k 0x344 &&& s.csr k 0x303)
  else if n = 0x180 then
    if (s.rv k).mode = .supervisor ∧ fld (s.csr k csrMstatus) 20 1 = 1 then none else some (s, s.csr k 0x180)
  else none

/-! ### Writes -/

/-- Write mstatus: a mode that MPP cannot hold leaves it. -/
def State.mstatusWrite (s : State) (k : Nat) (v mask : Word) : State :=
  let old := s.csr k csrMstatus
  let new := mergeW old v mask
  let mpp := fld new 11 2
  let bad := mpp == 2 || (isVcKey k && mpp == 1)
  s.setCsr k csrMstatus (if bad then setFld new 11 2 (fld old 11 2) else new)

/-- Write eight PMP configuration bytes: locked ones and W without R stay. -/
def pmpCfgMerge (old v : Word) : Word :=
  BitVec.ofNat 64 ((upTo 8).foldl (fun x i =>
    let o := fld old (8 * i) 8
    let n := fld v (8 * i) 8 &&& 0x9F
    x + (if bit o 7 || (bit n 1 && !bit n 0) then o else n) * 2 ^ (8 * i)) 0)

/-- Whether PMP address register i is locked. -/
def State.pmpLocked (s : State) (k i : Nat) : Bool :=
  let cfg (j : Nat) : Nat := fld (s.csr k (0x3A0 + 2 * (j / 8))) (8 * (j % 8)) 8
  bit (cfg i) 7 || (decide (i < 15) && bit (cfg (i + 1)) 7 && bits (cfg (i + 1)) 3 2 == 1)

/-- Write a CSR that exists; fields that cannot hold the value keep theirs. -/
def State.csrWrite (s : State) (k n : Nat) (v : Word) : State :=
  let vc := isVcKey k
  let fc := s.csr k 3
  let vcs := s.csr k 0xF
  match n with
  | 0x001 => (s.setCsr k 3 (setFld fc 0 5 v.toNat)).fsDirty k
  | 0x002 => (s.setCsr k 3 (setFld fc 5 3 v.toNat)).fsDirty k
  | 0x003 => (s.setCsr k 3 (v &&& 0xFF)).fsDirty k
  | 0x008 => (s.setCsr k 8 (v &&& 0xFFF)).vsDirty k
  | 0x009 => (s.setCsr k 0xF (setFld vcs 0 1 v.toNat)).vsDirty k
  | 0x00A => (s.setCsr k 0xF (setFld vcs 1 2 v.toNat)).vsDirty k
  | 0x00F => (s.setCsr k 0xF (v &&& 7)).vsDirty k
  | 0x300 => s.mstatusWrite k v (mstatusMask vc)
  | 0x100 => s.mstatusWrite k v sstatusMask
  | 0x104 => s.setCsr k 0x304 (mergeW (s.csr k 0x304) v (s.csr k 0x303))
  | 0x144 => s.setCsr k 0x344 (mergeW (s.csr k 0x344) v (s.csr k 0x303 &&& 2))
  | 0x344 => s.setCsr k 0x344 (mergeW (s.csr k 0x344) v (mipWrite vc))
  | 0x180 => if fld v 60 4 = 0 ∨ fld v 60 4 = 9 then s.setCsr k 0x180 v else s
  | _ =>
    if isPmpCfg vc n then s.setCsr k n (pmpCfgMerge (s.csr k n) v)
    else if isPmpAddr vc n then (if s.pmpLocked k (n - 0x3B0) then s else s.setCsr k n (v &&& maskW 0 54))
    else
      match plainMask vc n with
      | some m => s.setCsr k n (mergeW (s.csr k n) v m)
      | none => s

/-- CSRRW, CSRRS, CSRRC and their immediate forms; a write of instret stands for the next instruction. -/
def State.rvCsr (s : State) (k w len : Nat) : Option State :=
  let n := bits w 20 12
  let f3 := iF3 w
  let src : Word := if f3 ≥ 4 then BitVec.ofNat 64 (iRs1 w) else s.xr k (iRs1 w)
  let writes := f3 % 4 == 1 || iRs1 w != 0
  if writes && bits n 10 2 == 3 then none
  else
    match s.csrRead k n with
    | none => none
    | some (t, old) =>
      let t := if f3 % 4 = 1 ∧ iRd w = 0 then s else t
      let new := if f3 % 4 = 1 then src else if f3 % 4 = 2 then old ||| src else old &&& ~~~ src
      let t := (t.setXr k (iRd w) old).retire k len
      some (if writes then t.csrWrite k n new else t)

/-! ### Returns, waits and fences -/

/-- MRET: interrupts as before the trap, the mode of MPP, the pc of mepc. -/
def State.rvMret (s : State) (k : Nat) : Option State :=
  if (s.rv k).mode ≠ .machine then none
  else
    let st := s.csr k csrMstatus
    let mpp := fld st 11 2
    let st := setFld (setFld (setFld st 3 1 (fld st 7 1)) 7 1 1) 11 2 0
    let st := if mpp = 3 then st else setFld st 17 1 0
    some (((s.setCsr k csrMstatus st).jump k (s.csr k 0x341)).updRv k (fun r => { r with mode := modeOf mpp }))

/-- SRET. -/
def State.rvSret (s : State) (k : Nat) : Option State :=
  let m := (s.rv k).mode
  let st := s.csr k csrMstatus
  if isVcKey k || m == .user || (m == .supervisor && fld st 22 1 == 1) then none
  else
    let spp := fld st 8 1
    let st := setFld (setFld (setFld (setFld st 1 1 (fld st 5 1)) 5 1 1) 8 1 0) 17 1 0
    some (((s.setCsr k csrMstatus st).jump k (s.csr k 0x141)).updRv k (fun r => { r with mode := modeOf spp }))

/-- SFENCE.VMA: the model caches no Sv48 translation, so that the fence only goes on. -/
def State.rvSfence (s : State) (k len : Nat) : Option State :=
  let m := (s.rv k).mode
  if isVcKey k || m == .user || (m == .supervisor && fld (s.csr k csrMstatus) 20 1 == 1) then none else some (s.retire k len)

/-- WFI: the standards let the wait end at once; below M mode TW makes it illegal (log entry 58). -/
def State.rvWfi (s : State) (k len : Nat) : Option State :=
  if (s.rv k).mode ≠ .machine ∧ fld (s.csr k csrMstatus) 21 1 = 1 then none else some (s.retire k len)

/-- ECALL's cause by mode. -/
def ecallCause (m : Mode) : Nat := 8 + modeNo m

/-- SYSTEM. -/
def State.rvSystem (s : State) (k w len : Nat) : Option State :=
  let f3 := iF3 w
  if f3 = 4 then none
  else if f3 ≠ 0 then s.rvCsr k w len
  else if w = 0x0000_0073 then some (s.exception k (ecallCause (s.rv k).mode) 0)
  else if w = 0x0010_0073 then some (s.exception k excBreakpoint (s.rv k).pc)
  else if w = 0x3020_0073 then s.rvMret k
  else if w = 0x1020_0073 then s.rvSret k
  else if w = 0x1050_0073 then s.rvWfi k len
  else if iF7 w = 9 ∧ iRd w = 0 then s.rvSfence k len
  else none

/-- MISC-MEM: FENCE and FENCE.I only go on, since every access is performed when its instruction is (log entries 14, 54). -/
def State.rvFence (s : State) (k w len : Nat) : Option State := if iF3 w < 2 then some (s.retire k len) else none

end Sys2Proof.Machine
end

