-- ==== Sys2Proof/Machine/RvVec.lean ====
section
/-! DEFINITION. The V extension on the vector cores, part 1: configuration, integer, fixed-point, mask and permutation instructions (R243, VLEN 4,096, ELEN 64); the standard's text is presumed (log entry 27). -/

namespace Sys2Proof.Machine

/-! ### Configuration -/

/-- Whether a vtype is one that VLEN 4,096 and ELEN 64 support. -/
def vtypeOk (t : Word) : Bool :=
  decide (t.toNat < 256) && lmul8 t != 0 && decide (fld t 3 3 ≤ 3) && decide (sewOf t ≤ 8 * lmul8 t)

/-- vl for an AVL: the AVL up to VLMAX, VLMAX from twice VLMAX on, and between them a value in the standard's range (log entry 56). -/
def vlFor (avl vlmax : Nat) : Nat :=
  if avl ≤ vlmax then avl
  else if avl ≥ 2 * vlmax then vlmax
  else max (cdiv avl 2) (min vlmax (Config.vlChoice avl vlmax))

/-- Set vtype and vl; an unsupported vtype sets vill with vl zero. -/
def State.setVtype (s : State) (k : Nat) (t : Word) (avl : Option Nat) : State :=
  let vlmax := vlmaxOf (lmul8 t) (sewOf t)
  let old := s.vtype k
  let same := !vill old && vlmaxOf (lmul8 old) (sewOf old) == vlmax
  let n := match avl with | some a => some (vlFor a vlmax) | none => if same then some (s.vl k) else none
  match vtypeOk t, n with
  | true, some n => (s.setCsr k 0xC21 t).setCsr k 0xC20 (BitVec.ofNat 64 n)
  | _, _ => (s.setCsr k 0xC21 (maskW 63 1)).setCsr k 0xC20 0

/-- VSETVLI, VSETIVLI, VSETVL. -/
def State.rvVset (s : State) (k w len : Nat) : Option State :=
  let rd := iRd w
  let rs1 := iRs1 w
  let avlR : Option Nat := if rs1 ≠ 0 then some (s.xr k rs1).toNat else if rd ≠ 0 then some (2 ^ 64 - 1) else none
  let go (t : Word) (avl : Option Nat) : State :=
    let s := (s.setVtype k t avl).endVec k
    (s.setXr k rd (BitVec.ofNat 64 (s.vl k))).retire k len
  if bit w 31 = false then some (go (BitVec.ofNat 64 (bits w 20 11)) avlR)
  else if bits w 30 2 = 3 then some (go (BitVec.ofNat 64 (bits w 20 10)) (some rs1))
  else if iF7 w = 0x40 then some (go (s.xr k (iRs2 w)) avlR)
  else none

/-! ### Register groups -/

/-- A destination group may overlap a source group: of equal widths, or at the end that the standard allows. -/
def ovOk (vd dm8 dw vs sm8 sw : Nat) : Bool :=
  !meets vd (groupRegs dm8) vs (groupRegs sm8) || dw == sw
    || (decide (dw < sw) && vd == vs)
    || (decide (sw < dw) && decide (8 ≤ sm8) && vs == vd + groupRegs dm8 - groupRegs sm8)

/-- A masked instruction does not write v0, its mask. -/
def maskOk (vm : Bool) (vd : Nat) : Bool := vm || vd != 0

/-- A mask register as destination: it may overlap a source group in its lowest register only. -/
def mdOk (vd vs m8 : Nat) : Bool := vd == vs || !meets vd 1 vs (groupRegs m8)

/-- Whether an EMUL in eighths is one that exists. -/
def emulOk (m8 : Nat) : Bool := decide (1 ≤ m8) && decide (m8 ≤ 64)

/-- Write elements: f gives each one's value from the register file before the instruction. -/
def putEls (r : RvState) (vd w : Nat) (es : List Nat) (f : Nat → Nat) : RvState := forEach es r (fun r' i => r'.setVEl vd w i (f i))

/-- An instruction's end: the agnostic elements of its destination, then vstart and the pc. -/
def State.vDone (s : State) (k len vd w m8 : Nat) (vm : Bool) : State :=
  ((s.agnostic k vd w m8 (s.vl k) vm false).endVec k).retire k len

/-- An instruction that writes elements of w bits. -/
def State.vMap (s : State) (k len vd w m8 : Nat) (vm : Bool) (f : Nat → Nat) : State :=
  let es := s.vElems k vm
  (s.updRv k (fun r => putEls r vd w es f)).vDone k len vd w m8 vm

/-- Mask bits past vl, and masked off under vma, hold free values (log entry 57). -/
def State.maskTail (s : State) (k vd : Nat) (vm : Bool) : State :=
  let n := s.vl k
  let vst := s.vstart k
  if vst ≥ n then s
  else
    let r0 := s.rv k
    let ma := !vm && bit (s.vtype k).toNat 7
    let es := (upTo 4096).filter (fun i => decide (n ≤ i) || (ma && decide (vst ≤ i) && decide (i < n) && !r0.vBit 0 i))
    let c := s.freeCtr
    let s := s.updRv k (fun r => forEach es r (fun r i => r.setVBit vd i (bit (Config.freeWord (c + i)).toNat 0)))
    { s with freeCtr := c + 4096 }

/-- An instruction that writes mask bits. -/
def State.vMapMask (s : State) (k len vd : Nat) (vm : Bool) (f : Nat → Bool) : State :=
  let es := s.vElems k vm
  let s := s.updRv k (fun r => forEach es r (fun r' i => r'.setVBit vd i (f i)))
  ((s.maskTail k vd vm).endVec k).retire k len

/-! ### Operands -/

/-- What stands in for vs1: a group, or one value for every element. -/
inductive VSrc where
  | vec (v : Nat)
  | val (x : Int)
  deriving DecidableEq, Repr

/-- Element i of the second operand, as w bits. -/
def VSrc.el (o : VSrc) (r : RvState) (w i : Nat) : Nat :=
  match o with
  | .vec v => r.vEl v w i
  | .val x => toBits x w

/-- The registers of a second operand are a legal group. -/
def VSrc.ok (o : VSrc) (m8 : Nat) : Bool :=
  match o with
  | .vec v => groupOk v m8
  | .val _ => true

/-- The second operand's overlap with a destination is legal. -/
def VSrc.ov (o : VSrc) (vd dm8 dw sm8 sw : Nat) : Bool :=
  match o with
  | .vec v => ovOk vd dm8 dw v sm8 sw
  | .val _ => true

/-- A mask destination's overlap with the second operand is legal. -/
def VSrc.md (o : VSrc) (vd m8 : Nat) : Bool :=
  match o with
  | .vec v => mdOk vd v m8
  | .val _ => true

/-- The second operand of an instruction by its form: register group, scalar, or immediate (unsigned where `u`). -/
def State.vSrc (s : State) (k w : Nat) (u : Bool) : VSrc :=
  match iF3 w with
  | 3 => .val (if u then (iRs1 w : Int) else sext (iRs1 w) 5)
  | 4 => .val (sext (s.xr k (iRs1 w)).toNat 64)
  | 6 => .val (sext (s.xr k (iRs1 w)).toNat 64)
  | _ => .vec (iRs1 w)

/-! ### Integer arithmetic -/

/-- Low n bits of a shift amount for w-bit elements. -/
def shAmt (w b : Nat) : Nat := b % w

/-- The rounding increment for a right shift by d under vxrm. -/
def vxInc (rm v d : Nat) : Nat :=
  if d = 0 then 0
  else
    match rm with
    | 0 => bits v (d - 1) 1
    | 1 => if bit v (d - 1) && (bits v 0 (d - 1) != 0 || bit v d) then 1 else 0
    | 2 => 0
    | _ => if !bit v d && bits v 0 d != 0 then 1 else 0

/-- A right shift with rounding: of a natural number, and of an integer. -/
def rShiftU (rm v d : Nat) : Nat := v >>> d + vxInc rm v d
def rShiftS (rm : Nat) (x : Int) (d : Nat) : Int := x / ((2 ^ d : Nat) : Int) + (vxInc rm (toBits x 192) d : Int)

/-- Clamp to w bits, with the mark of saturation. -/
def satU (w : Nat) (x : Int) : Nat × Bool :=
  if x < 0 then (0, true) else if x ≥ ((2 ^ w : Nat) : Int) then (2 ^ w - 1, true) else (x.toNat, false)
def satS (w : Nat) (x : Int) : Nat × Bool :=
  let hi : Int := ((2 ^ (w - 1) : Nat) : Int) - 1
  if x > hi then (toBits hi w, true) else if x < -hi - 1 then (toBits (-hi - 1) w, true) else (toBits x w, false)

/-- Single-width operations of OPIVV, OPIVX and OPIVI: a is vs2's element, b the second operand's. -/
def iviOp (f6 w a b : Nat) : Option Nat :=
  match f6 with
  | 0x00 => some ((a + b) % 2 ^ w)
  | 0x02 => some (toBits ((a : Int) - b) w)
  | 0x03 => some (toBits ((b : Int) - a) w)
  | 0x04 => some (min a b)
  | 0x05 => some (if sext a w < sext b w then a else b)
  | 0x06 => some (max a b)
  | 0x07 => some (if sext a w < sext b w then b else a)
  | 0x09 => some (a &&& b)
  | 0x0A => some (a ||| b)
  | 0x0B => some (a ^^^ b)
  | 0x25 => some (shl w a (shAmt w b))
  | 0x28 => some (a >>> shAmt w b)
  | 0x29 => some (sra w a (shAmt w b))
  | _ => none

/-- Fixed-point operations of OPIV with their saturation mark. -/
def fixOp (rm f6 w a b : Nat) : Option (Nat × Bool) :=
  match f6 with
  | 0x20 => some (satU w ((a : Int) + b))
  | 0x21 => some (satS w (sext a w + sext b w))
  | 0x22 => some (satU w ((a : Int) - b))
  | 0x23 => some (satS w (sext a w - sext b w))
  | 0x27 => some (satS w (rShiftS rm (sext a w * sext b w) (w - 1)))
  | 0x2A => some (rShiftU rm a (shAmt w b) % 2 ^ w, false)
  | 0x2B => some (toBits (rShiftS rm (sext a w) (shAmt w b)) w, false)
  | _ => none

/-- Single-width operations of OPMVV and OPMVX, d being vd's element. -/
def mviOp (rm f6 w d a b : Nat) : Option Nat :=
  let p (x y : Int) : Nat := toBits (x * y / ((2 ^ w : Nat) : Int)) w
  match f6 with
  | 0x08 => some (rShiftU rm (a + b) 1 % 2 ^ w)
  | 0x09 => some (toBits (rShiftS rm (sext a w + sext b w) 1) w)
  | 0x0A => some (toBits (rShiftS rm ((a : Int) - b) 1) w)
  | 0x0B => some (toBits (rShiftS rm (sext a w - sext b w) 1) w)
  | 0x20 => some (divU w a b)
  | 0x21 => some (divS w a b)
  | 0x22 => some (remU a b)
  | 0x23 => some (remS w a b)
  | 0x24 => some (p a b)
  | 0x25 => some (a * b % 2 ^ w)
  | 0x26 => some (p (sext a w) b)
  | 0x27 => some (p (sext a w) (sext b w))
  | 0x29 => some ((b * d + a) % 2 ^ w)
  | 0x2B => some (toBits ((a : Int) - (b * d : Nat)) w)
  | 0x2D => some ((b * a + d) % 2 ^ w)
  | 0x2F => some (toBits ((d : Int) - (b * a : Nat)) w)
  | _ => none

/-- Widening operations of OPMVV and OPMVX: a of w bits (2w in the .W forms), b of w bits, d and the result of 2w bits. -/
def widOp (f6 w d a b : Nat) : Option Nat :=
  let z (x : Int) : Option Nat := some (toBits x (2 * w))
  match f6 with
  | 0x30 => z ((a : Int) + b)
  | 0x31 => z (sext a w + sext b w)
  | 0x32 => z ((a : Int) - b)
  | 0x33 => z (sext a w - sext b w)
  | 0x34 => z ((a : Int) + b)
  | 0x35 => z ((a : Int) + sext b w)
  | 0x36 => z ((a : Int) - b)
  | 0x37 => z ((a : Int) - sext b w)
  | 0x38 => z ((a : Int) * b)
  | 0x3A => z (sext a w * (b : Int))
  | 0x3B => z (sext a w * sext b w)
  | 0x3C => z ((a : Int) * b + d)
  | 0x3D => z (sext a w * sext b w + d)
  | 0x3E => z (sext a w * (b : Int) + d)
  | 0x3F => z ((a : Int) * sext b w + d)
  | _ => none

/-- Comparisons of OPIV. -/
def cmpOp (f6 w a b : Nat) : Option Bool :=
  match f6 with
  | 0x18 => some (a == b)
  | 0x19 => some (a != b)
  | 0x1A => some (decide (a < b))
  | 0x1B => some (decide (sext a w < sext b w))
  | 0x1C => some (decide (a ≤ b))
  | 0x1D => some (decide (sext a w ≤ sext b w))
  | 0x1E => some (decide (b < a))
  | 0x1F => some (decide (sext b w < sext a w))
  | _ => none

/-- The forms that an OPIV function admits: V, X, I. -/
def ivForms (f6 : Nat) : List Nat :=
  if [0x00, 0x09, 0x0A, 0x0B, 0x0C, 0x10, 0x11, 0x17, 0x18, 0x19, 0x1C, 0x1D, 0x20, 0x21, 0x25, 0x28, 0x29, 0x2A, 0x2B, 0x2C, 0x2D,
      0x2E, 0x2F].contains f6 then [0, 4, 3]
  else if [0x02, 0x04, 0x05, 0x06, 0x07, 0x12, 0x13, 0x1A, 0x1B, 0x22, 0x23].contains f6 then [0, 4]
  else if [0x03, 0x0F, 0x1E, 0x1F].contains f6 then [4, 3]
  else if f6 = 0x0E ∨ f6 = 0x27 then [0, 4, 3]
  else if f6 = 0x30 ∨ f6 = 0x31 then [0]
  else []

/-- vxrm. -/
def State.vxrm (s : State) (k : Nat) : Nat := fld (s.csr k 0xF) 1 2

/-- Set vxsat where an element saturated. -/
def State.setVxsat (s : State) (k : Nat) (b : Bool) : State := if b then s.setCsr k 0xF (s.csr k 0xF ||| 1#64) else s

/-! ### The instruction's context -/

/-- The fields of a vector arithmetic instruction under the current vtype. -/
structure VCtx where
  vm : Bool
  vd : Nat
  vs2 : Nat
  f3 : Nat
  f6 : Nat
  w : Nat
  m8 : Nat
  deriving DecidableEq, Repr

/-- The context of a word. -/
def State.vCtx (s : State) (k i : Nat) : VCtx :=
  ⟨bit i 25, iRd i, iRs2 i, iF3 i, bits i 26 6, sewOf (s.vtype k), lmul8 (s.vtype k)⟩

/-- Single-width result under a mask: the groups are legal. -/
def VCtx.ok1 (c : VCtx) (o : VSrc) : Bool := groupOk c.vd c.m8 && groupOk c.vs2 c.m8 && o.ok c.m8 && maskOk c.vm c.vd

/-! ### OPIVV, OPIVX, OPIVI -/

/-- Add and subtract with carry, and their carries out. -/
def State.vCarry (s : State) (k len : Nat) (c : VCtx) (o : VSrc) : Option State :=
  let r := s.rv k
  let ci (i : Nat) : Int := if c.vm then 0 else b2n (r.vBit 0 i)
  let a (i : Nat) : Int := r.vEl c.vs2 c.w i
  let b (i : Nat) : Int := o.el r c.w i
  let okm := groupOk c.vs2 c.m8 && o.ok c.m8 && mdOk c.vd c.vs2 c.m8 && o.md c.vd c.m8
  match c.f6 with
  | 0x10 => if c.vm || !c.ok1 o then none else some (s.vMap k len c.vd c.w c.m8 true (fun i => toBits (a i + b i + ci i) c.w))
  | 0x12 => if c.vm || !c.ok1 o then none else some (s.vMap k len c.vd c.w c.m8 true (fun i => toBits (a i - b i - ci i) c.w))
  | 0x11 => if !okm then none else some (s.vMapMask k len c.vd true (fun i => decide (a i + b i + ci i ≥ ((2 ^ c.w : Nat) : Int))))
  | _ => if !okm then none else some (s.vMapMask k len c.vd true (fun i => decide (a i - b i - ci i < 0)))

/-- vmerge and vmv.v. -/
def State.vMerge (s : State) (k len : Nat) (c : VCtx) (o : VSrc) : Option State :=
  let r := s.rv k
  if c.vm then
    if c.vs2 ≠ 0 ∨ groupOk c.vd c.m8 = false ∨ o.ok c.m8 = false then none
    else some (s.vMap k len c.vd c.w c.m8 true (fun i => o.el r c.w i))
  else if !c.ok1 o then none
  else some (s.vMap k len c.vd c.w c.m8 true (fun i => if r.vBit 0 i then o.el r c.w i else r.vEl c.vs2 c.w i))

/-- vslideup and vslidedown by a scalar or an immediate. -/
def State.vSlide (s : State) (k len : Nat) (c : VCtx) (n : Nat) : Option State :=
  let r := s.rv k
  let vlmax := vlmaxOf c.m8 c.w
  if !groupOk c.vd c.m8 || !groupOk c.vs2 c.m8 || !maskOk c.vm c.vd then none
  else if c.f6 = 0x0E then
    if c.vd = c.vs2 then none
    else
      let es := (s.vElems k c.vm).filter (fun i => decide (n ≤ i))
      let t := s.updRv k (fun z => putEls z c.vd c.w es (fun i => r.vEl c.vs2 c.w (i - n)))
      let t := if s.vstart k ≥ s.vl k then t else t.agnosticFrom k c.vd c.w c.m8 (max (s.vstart k) n) (s.vl k) c.vm false
      some ((t.endVec k).retire k len)
  else some (s.vMap k len c.vd c.w c.m8 c.vm (fun i => if i + n < vlmax then r.vEl c.vs2 c.w (i + n) else 0))

/-- vrgather with indices of iw bits, in a group of im8 eighths. -/
def State.vGather (s : State) (k len : Nat) (c : VCtx) (o : VSrc) (iw im8 : Nat) : Option State :=
  let r := s.rv k
  let vlmax := vlmaxOf c.m8 c.w
  let clear := match o with | .vec v => !meets c.vd (groupRegs c.m8) v (groupRegs im8) | .val _ => true
  if !groupOk c.vd c.m8 || !groupOk c.vs2 c.m8 || !emulOk im8 || !o.ok im8 || !maskOk c.vm c.vd || c.vd == c.vs2 || !clear then none
  else
    some (s.vMap k len c.vd c.w c.m8 c.vm (fun i =>
      let j := match o with | .vec v => r.vEl v iw i | .val x => toBits x 64
      if j < vlmax then r.vEl c.vs2 c.w j else 0))

/-- Narrowing shifts and clips: vs2 has elements of 2w bits. -/
def State.vNarrow (s : State) (k len : Nat) (c : VCtx) (o : VSrc) : Option State :=
  let r := s.rv k
  let w2 := 2 * c.w
  let rm := s.vxrm k
  let okk := decide (c.w ≤ 32) && emulOk (2 * c.m8) && groupOk c.vd c.m8 && groupOk c.vs2 (2 * c.m8) && o.ok c.m8 && maskOk c.vm c.vd
    && ovOk c.vd c.m8 c.w c.vs2 (2 * c.m8) w2
  let sh (i : Nat) : Nat := o.el r c.w i % w2
  let f (i : Nat) : Nat × Bool :=
    let a := r.vEl c.vs2 w2 i
    match c.f6 with
    | 0x2C => ((a >>> sh i) % 2 ^ c.w, false)
    | 0x2D => (sra w2 a (sh i) % 2 ^ c.w, false)
    | 0x2E => satU c.w (rShiftU rm a (sh i) : Nat)
    | _ => satS c.w (rShiftS rm (sext a w2) (sh i))
  if !okk then none
  else
    let es := s.vElems k c.vm
    some ((s.setVxsat k (es.any (fun i => (f i).2))).vMap k len c.vd c.w c.m8 c.vm (fun i => (f i).1))

/-- vmv1r to vmv8r: whole registers, from vstart on. -/
def State.vMoveWhole (s : State) (k len i : Nat) (c : VCtx) : Option State :=
  let n := iRs1 i + 1
  if !c.vm || !(n == 1 || n == 2 || n == 4 || n == 8) || c.vd % n != 0 || c.vs2 % n != 0 then none
  else
    let r := s.rv k
    let es := (upTo (n * 4096 / c.w)).filter (fun j => decide (s.vstart k ≤ j))
    some (((s.updRv k (fun z => putEls z c.vd c.w es (fun j => r.vEl c.vs2 c.w j))).endVec k).retire k len)

/-! ### Reductions -/

/-- A reduction into element 0 of vd; without elements vd is left. -/
def State.vReduce (s : State) (k len vd w : Nat) (x : State → Nat) : State :=
  let s := if s.vl k = 0 then s
    else
      let s := s.updRv k (fun r => r.setVEl vd w 0 (x s))
      s.agnostic k vd w 8 1 true false
  (s.endVec k).retire k len

/-- Integer reductions of w-bit results: f6 of OPMVV. -/
def redOp (f6 w a b : Nat) : Nat :=
  match f6 with
  | 0x00 => (a + b) % 2 ^ w
  | 0x01 => a &&& b
  | 0x02 => a ||| b
  | 0x03 => a ^^^ b
  | 0x04 => min a b
  | 0x05 => if sext a w < sext b w then a else b
  | 0x06 => max a b
  | _ => if sext a w < sext b w then b else a

/-- vredsum to vredmax. -/
def State.vRedInt (s : State) (k len vs1 : Nat) (c : VCtx) : Option State :=
  if s.vstart k ≠ 0 ∨ groupOk c.vs2 c.m8 = false then none
  else
    let r := s.rv k
    some (s.vReduce k len c.vd c.w (fun _ => (s.vElems k c.vm).foldl (fun a i => redOp c.f6 c.w a (r.vEl c.vs2 c.w i)) (r.vEl vs1 c.w 0)))

/-- vwredsumu and vwredsum. -/
def State.vRedWide (s : State) (k len vs1 : Nat) (c : VCtx) : Option State :=
  if s.vstart k ≠ 0 ∨ groupOk c.vs2 c.m8 = false ∨ c.w > 32 then none
  else
    let r := s.rv k
    let w2 := 2 * c.w
    let e (i : Nat) : Nat := let x := r.vEl c.vs2 c.w i; if c.f6 = 0x30 then x else toBits (sext x c.w) w2
    some (s.vReduce k len c.vd w2 (fun _ => (s.vElems k c.vm).foldl (fun a i => (a + e i) % 2 ^ w2) (r.vEl vs1 w2 0)))

/-! ### OPIV as a whole -/

/-- The OPIV instructions that write single-width elements, saturate or compare. -/
def State.vIvPlain (s : State) (k len : Nat) (c : VCtx) (o : VSrc) : Option State :=
  let r := s.rv k
  let rm := s.vxrm k
  let a (i : Nat) : Nat := r.vEl c.vs2 c.w i
  let b (i : Nat) : Nat := o.el r c.w i
  if (iviOp c.f6 c.w 0 0).isSome then
    if !c.ok1 o then none else some (s.vMap k len c.vd c.w c.m8 c.vm (fun i => (iviOp c.f6 c.w (a i) (b i)).getD 0))
  else if (fixOp rm c.f6 c.w 0 0).isSome then
    if !c.ok1 o then none
    else
      let f (i : Nat) : Nat × Bool := (fixOp rm c.f6 c.w (a i) (b i)).getD (0, false)
      some ((s.setVxsat k ((s.vElems k c.vm).any (fun i => (f i).2))).vMap k len c.vd c.w c.m8 c.vm (fun i => (f i).1))
  else if (cmpOp c.f6 c.w 0 0).isSome then
    if !groupOk c.vs2 c.m8 || !o.ok c.m8 || !mdOk c.vd c.vs2 c.m8 || !o.md c.vd c.m8 then none
    else some (s.vMapMask k len c.vd c.vm (fun i => (cmpOp c.f6 c.w (a i) (b i)).getD false))
  else none

/-- OPIVV, OPIVX, OPIVI. -/
def State.rvOpIv (s : State) (k i len : Nat) : Option State :=
  let c := s.vCtx k i
  let uImm := [0x0C, 0x0E, 0x0F, 0x25, 0x28, 0x29, 0x2A, 0x2B, 0x2C, 0x2D, 0x2E, 0x2F].contains c.f6
  let o := s.vSrc k i uImm
  let x : Nat := match o with | .val v => toBits v 64 | .vec _ => 0
  if !(ivForms c.f6).contains c.f3 then none
  else if c.f6 = 0x27 ∧ c.f3 = 3 then s.vMoveWhole k len i c
  else if vill (s.vtype k) then none
  else
    match c.f6 with
    | 0x0C => s.vGather k len c o c.w c.m8
    | 0x0E => if c.f3 = 0 then s.vGather k len c o 16 (16 * c.m8 / c.w) else s.vSlide k len c x
    | 0x0F => s.vSlide k len c x
    | 0x10 => s.vCarry k len c o
    | 0x11 => s.vCarry k len c o
    | 0x12 => s.vCarry k len c o
    | 0x13 => s.vCarry k len c o
    | 0x17 => s.vMerge k len c o
    | 0x2C => s.vNarrow k len c o
    | 0x2D => s.vNarrow k len c o
    | 0x2E => s.vNarrow k len c o
    | 0x2F => s.vNarrow k len c o
    | 0x30 => s.vRedWide k len (iRs1 i) c
    | 0x31 => s.vRedWide k len (iRs1 i) c
    | _ => s.vIvPlain k len c o

/-! ### OPMVV, OPMVX -/

/-- Moves between element 0 and an x register; vcpop and vfirst. -/
def State.vScalarOut (s : State) (k i len : Nat) (c : VCtx) : Option State :=
  let r := s.rv k
  let on := (s.vElems k c.vm).filter (fun j => r.vBit c.vs2 j)
  let out (x : Nat) : Option State := some (((s.endVec k).setXr k c.vd (BitVec.ofNat 64 x)).retire k len)
  match iRs1 i with
  | 0x00 => if c.vm then out (sxTo64 c.w (r.vEl c.vs2 c.w 0)) else none
  | 0x10 => if s.vstart k = 0 then out on.length else none
  | 0x11 => if s.vstart k = 0 then out (match on with | j :: _ => j | [] => 2 ^ 64 - 1) else none
  | _ => none

/-- vmv.s.x: element 0, unless vstart has reached vl. -/
def State.vScalarIn (s : State) (k len vd w x : Nat) : State :=
  let s := if s.vstart k < s.vl k then (s.updRv k (fun r => r.setVEl vd w 0 x)).agnostic k vd w 8 1 true false else s
  (s.endVec k).retire k len

/-- vzext and vsext: the sources are an eighth, a quarter or a half as wide. -/
def State.vExt (s : State) (k i len : Nat) (c : VCtx) : Option State :=
  let n := iRs1 i
  let d := if n / 2 = 1 then 8 else if n / 2 = 2 then 4 else 2
  let sw := c.w / d
  let sm := c.m8 / d
  if n < 2 ∨ n > 7 then none
  else if sw < 8 || c.m8 % d != 0 || !emulOk sm || !groupOk c.vd c.m8 || !groupOk c.vs2 sm || !maskOk c.vm c.vd
      || !ovOk c.vd c.m8 c.w c.vs2 sm sw then none
  else
    let r := s.rv k
    some (s.vMap k len c.vd c.w c.m8 c.vm (fun j =>
      let x := r.vEl c.vs2 sw j
      if n % 2 = 1 then toBits (sext x sw) c.w else x))

/-- vmsbf, vmsof, vmsif, viota, vid. -/
def State.vMaskUnary (s : State) (k i len : Nat) (c : VCtx) : Option State :=
  let r := s.rv k
  let es := s.vElems k c.vm
  let first : Nat := match es.filter (fun j => r.vBit c.vs2 j) with | j :: _ => j | [] => 1000000
  let setOk := s.vstart k == 0 && c.vd != c.vs2 && maskOk c.vm c.vd
  match iRs1 i with
  | 1 => if setOk then some (s.vMapMask k len c.vd c.vm (fun j => decide (j < first))) else none
  | 2 => if setOk then some (s.vMapMask k len c.vd c.vm (fun j => decide (j = first))) else none
  | 3 => if setOk then some (s.vMapMask k len c.vd c.vm (fun j => decide (j ≤ first))) else none
  | 0x10 =>
    if s.vstart k != 0 || !groupOk c.vd c.m8 || !maskOk c.vm c.vd || meets c.vd (groupRegs c.m8) c.vs2 1 then none
    else
      let cnt (j : Nat) : Nat := (es.filter (fun x => decide (x < j) && r.vBit c.vs2 x)).length
      some (s.vMap k len c.vd c.w c.m8 c.vm cnt)
  | 0x11 =>
    if c.vs2 ≠ 0 ∨ groupOk c.vd c.m8 = false ∨ maskOk c.vm c.vd = false then none
    else some (s.vMap k len c.vd c.w c.m8 c.vm (fun j => j))
  | _ => none

/-- vcompress: the elements that the mask vs1 selects, packed from element 0; the rest is tail. -/
def State.vCompress (s : State) (k i len : Nat) (c : VCtx) : Option State :=
  let vs1 := iRs1 i
  if s.vstart k != 0 || !c.vm || !groupOk c.vd c.m8 || !groupOk c.vs2 c.m8 || c.vd == c.vs2 || meets c.vd (groupRegs c.m8) vs1 1 then none
  else
    let r := s.rv k
    let sel := (upTo (s.vl k)).filter (fun j => r.vBit vs1 j)
    let s := if s.vl k = 0 then s
      else
        let s := s.updRv k (fun z => forEach sel.zipIdx z (fun z p => z.setVEl c.vd c.w p.2 (r.vEl c.vs2 c.w p.1)))
        s.agnosticFrom k c.vd c.w c.m8 0 sel.length true false
    some ((s.endVec k).retire k len)

/-- Logic on mask registers. -/
def maskLogic (f6 : Nat) (a b : Bool) : Bool :=
  match f6 with
  | 0x18 => a && !b
  | 0x19 => a && b
  | 0x1A => a || b
  | 0x1B => a != b
  | 0x1C => a || !b
  | 0x1D => !(a && b)
  | 0x1E => !(a || b)
  | _ => a == b

/-- vslide1up and vslide1down: the scalar enters at the free end. -/
def State.vSlide1 (s : State) (k len : Nat) (c : VCtx) (up : Bool) (x : Nat) : Option State :=
  let r := s.rv k
  let vlmax := vlmaxOf c.m8 c.w
  let n := s.vl k
  if !groupOk c.vd c.m8 || !groupOk c.vs2 c.m8 || !maskOk c.vm c.vd || (up && c.vd == c.vs2) then none
  else
    some (s.vMap k len c.vd c.w c.m8 c.vm (fun i =>
      if up then (if i = 0 then x else r.vEl c.vs2 c.w (i - 1))
      else if i + 1 = n then x
      else if i + 1 < vlmax then r.vEl c.vs2 c.w (i + 1) else 0))

/-- Widening operations. -/
def State.vWiden (s : State) (k len : Nat) (c : VCtx) (o : VSrc) : Option State :=
  let r := s.rv k
  let w2 := 2 * c.w
  let m2 := 2 * c.m8
  let wide := decide (0x34 ≤ c.f6) && decide (c.f6 ≤ 0x37)
  let aw := if wide then w2 else c.w
  let am := if wide then m2 else c.m8
  if c.w > 32 || !emulOk m2 || !groupOk c.vd m2 || !groupOk c.vs2 am || !o.ok c.m8 || !maskOk c.vm c.vd
      || !ovOk c.vd m2 w2 c.vs2 am aw || !o.ov c.vd m2 w2 c.m8 c.w || (c.f6 == 0x3E && c.f3 == 2) || (widOp c.f6 c.w 0 0 0).isNone then none
  else
    some (s.vMap k len c.vd w2 m2 c.vm (fun i => (widOp c.f6 c.w (r.vEl c.vd w2 i) (r.vEl c.vs2 aw i) (o.el r c.w i)).getD 0))

/-- Single-width operations of OPMV. -/
def State.vMvPlain (s : State) (k len : Nat) (c : VCtx) (o : VSrc) : Option State :=
  let r := s.rv k
  let rm := s.vxrm k
  if (mviOp rm c.f6 c.w 0 0 0).isNone || !c.ok1 o then none
  else some (s.vMap k len c.vd c.w c.m8 c.vm (fun i => (mviOp rm c.f6 c.w (r.vEl c.vd c.w i) (r.vEl c.vs2 c.w i) (o.el r c.w i)).getD 0))

/-- OPMVV, OPMVX. -/
def State.rvOpMv (s : State) (k i len : Nat) : Option State :=
  let c := s.vCtx k i
  let o := s.vSrc k i false
  let vv := c.f3 == 2
  let x := (s.xr k (iRs1 i)).toNat
  if vill (s.vtype k) then none
  else if c.f6 < 8 then (if vv then s.vRedInt k len (iRs1 i) c else none)
  else if c.f6 ≥ 0x30 then s.vWiden k len c o
  else
    match c.f6 with
    | 0x0E => if vv then none else s.vSlide1 k len c true x
    | 0x0F => if vv then none else s.vSlide1 k len c false x
    | 0x10 =>
      if vv then s.vScalarOut k i len c
      else if c.vs2 = 0 ∧ c.vm = true then some (s.vScalarIn k len c.vd c.w x) else none
    | 0x12 => if vv then s.vExt k i len c else none
    | 0x14 => if vv then s.vMaskUnary k i len c else none
    | 0x17 => if vv then s.vCompress k i len c else none
    | f6 =>
      if 0x18 ≤ f6 ∧ f6 ≤ 0x1F then
        if vv && c.vm then
          let r := s.rv k
          some (s.vMapMask k len c.vd true (fun j => maskLogic f6 (r.vBit c.vs2 j) (r.vBit (iRs1 i) j)))
        else none
      else s.vMvPlain k len c o

end Sys2Proof.Machine
end

