-- ==== Sys2Proof/Machine/RvVecFp.lean ====
section
/-! DEFINITION. The V extension on the vector cores, part 2: floating-point instructions at SEW 16, 32 and 64 (R243, R251); the standard's text is presumed (log entry 27). -/

namespace Sys2Proof.Machine

/-- The floating-point format of an element width. -/
def fmtOfW (w : Nat) : Option FFmt :=
  match w with
  | 16 => some binary16
  | 32 => some binary32
  | 64 => some binary64
  | _ => none

/-- Write elements with flags. -/
def State.vMapF (s : State) (k len vd w m8 : Nat) (vm : Bool) (f : Nat → FR) : State :=
  let fl := (s.vElems k vm).foldl (fun z i => z ||| (f i).fl) 0
  (s.setFflags k fl).vMap k len vd w m8 vm (fun i => (f i).code)

/-- Write mask bits with flags. -/
def State.vMapMaskF (s : State) (k len vd : Nat) (vm : Bool) (f : Nat → FR) : State :=
  let fl := (s.vElems k vm).foldl (fun z i => z ||| (f i).fl) 0
  (s.setFflags k fl).vMapMask k len vd vm (fun i => (f i).code == 1)

/-- Single-width operations: a is vs2's element, b the second operand's, d vd's. -/
def fvOp (f : FFmt) (rnd : Rnd) (f6 d a b : Nat) : Option FR :=
  match f6 with
  | 0x00 => some (fAdd f rnd a b)
  | 0x02 => some (fSub f rnd a b)
  | 0x27 => some (fSub f rnd b a)
  | 0x04 => some (fMinMax f false a b)
  | 0x06 => some (fMinMax f true a b)
  | 0x08 => some ⟨fSgnj f 0 a b, 0⟩
  | 0x09 => some ⟨fSgnj f 1 a b, 0⟩
  | 0x0A => some ⟨fSgnj f 2 a b, 0⟩
  | 0x20 => some (fDiv f rnd a b)
  | 0x21 => some (fDiv f rnd b a)
  | 0x24 => some (fMul f rnd a b)
  | 0x28 => some (fFma f rnd false false b d a)
  | 0x29 => some (fFma f rnd true true b d a)
  | 0x2A => some (fFma f rnd false true b d a)
  | 0x2B => some (fFma f rnd true false b d a)
  | 0x2C => some (fFma f rnd false false b a d)
  | 0x2D => some (fFma f rnd true true b a d)
  | 0x2E => some (fFma f rnd false true b a d)
  | 0x2F => some (fFma f rnd true false b a d)
  | _ => none

/-- Comparisons. -/
def fvCmp (f : FFmt) (f6 a b : Nat) : Option FR :=
  match f6 with
  | 0x18 => some (fEq f a b)
  | 0x19 => some (fLe f a b)
  | 0x1B => some (fLt f a b)
  | 0x1C => some ⟨1 - (fEq f a b).code, (fEq f a b).fl⟩
  | 0x1D => some (fLt f b a)
  | 0x1F => some (fLe f b a)
  | _ => none

/-- Functions that only the form with a scalar has, and those that only the form with a vector has. -/
def fvForms (f6 : Nat) (vv : Bool) : Bool :=
  if [0x0E, 0x0F, 0x17, 0x1D, 0x1F, 0x21, 0x27].contains f6 then !vv
  else if [0x01, 0x03, 0x05, 0x07, 0x12, 0x13, 0x31, 0x33].contains f6 then vv
  else true

/-- Widening operations on values already widened exactly: the result has 2w bits. -/
def fwOp (g : FFmt) (rnd : Rnd) (f6 d a b : Nat) : Option FR :=
  match f6 with
  | 0x30 => some (fAdd g rnd a b)
  | 0x32 => some (fSub g rnd a b)
  | 0x34 => some (fAdd g rnd a b)
  | 0x36 => some (fSub g rnd a b)
  | 0x38 => some (fMul g rnd a b)
  | 0x3C => some (fFma g rnd false false b a d)
  | 0x3D => some (fFma g rnd true true b a d)
  | 0x3E => some (fFma g rnd false true b a d)
  | 0x3F => some (fFma g rnd true false b a d)
  | _ => none

/-! ### Reductions (R251) -/

/-- One level of the tree: positions 2i and 2i + 1 together. -/
def pairUp (f : Nat → Nat → FR) (xs : List FR) : List FR :=
  match xs with
  | a :: b :: r => ((f a.code b.code).also (a.fl ||| b.fl)) :: pairUp f r
  | r => r

/-- The tree over a list, its length a power of two. -/
def treeUp (f : Nat → Nat → FR) (xs : List FR) (fuel : Nat) : FR :=
  match fuel with
  | 0 => xs.headD ⟨0, 0⟩
  | n + 1 => if xs.length ≤ 1 then xs.headD ⟨0, 0⟩ else treeUp f (pairUp f xs) n

/-- The least power of two that is at least n. -/
def pow2Up (n : Nat) : Nat := if n ≤ 1 then 1 else 2 ^ (Nat.log2 (n - 1) + 1)

/-- An unordered sum: inactive and tail positions are −0, the scalar is added last (R251). -/
def treeSum (g : FFmt) (rnd : Rnd) (xs : List FR) (sc : Nat) : FR :=
  let add := fAdd g rnd
  let nz : FR := ⟨withSign g true 0, 0⟩
  let xs := xs ++ List.replicate (pow2Up xs.length - xs.length) nz
  let t := treeUp add xs 13
  (add t.code sc).also t.fl

/-- The minimum or maximum in the same tree; positions that hold no active element are left out (log entry 59). -/
def redMinMax (g : FFmt) (mx : Bool) (xs : List Nat) (sc : Nat) : FR :=
  match xs with
  | [] => ⟨sc, 0⟩
  | x :: r =>
    let t := r.foldl (fun (a : FR) y => (fMinMax g mx a.code y).also a.fl) ⟨x, 0⟩
    (fMinMax g mx t.code sc).also t.fl

/-- An ordered sum, from the scalar through the active elements. -/
def orderedSum (g : FFmt) (rnd : Rnd) (xs : List FR) (sc : Nat) : FR :=
  xs.foldl (fun a x => (fAdd g rnd a.code x.code).also (a.fl ||| x.fl)) ⟨sc, 0⟩

/-- The floating-point reductions of results of format g; sources of format f are widened where they differ. -/
def State.vRedFp (s : State) (k len vs1 : Nat) (c : VCtx) (f g : FFmt) (rnd : Rnd) : Option State :=
  if s.vstart k ≠ 0 ∨ groupOk c.vs2 c.m8 = false then none
  else
    let r := s.rv k
    let w := fWidth g
    let sc := r.vEl vs1 w 0
    let raw (i : Nat) : Nat := r.vEl c.vs2 c.w i
    let el (i : Nat) : FR := if f = g then ⟨raw i, 0⟩ else fConv f g .rne (raw i)
    let es := s.vElems k c.vm
    let x : FR :=
      if c.f6 = 0x05 ∨ c.f6 = 0x07 then redMinMax g (c.f6 == 0x07) (es.map raw) sc
      else if c.f6 = 0x01 ∨ c.f6 = 0x31 then
        treeSum g rnd ((upTo (s.vl k)).map (fun i => if r.active c.vm i then el i else ⟨withSign g true 0, 0⟩)) sc
      else orderedSum g rnd (es.map el) sc
    let s := if s.vl k = 0 then s else s.setFflags k x.fl
    some (s.vReduce k len c.vd w (fun _ => x.code))

/-! ### Conversions -/

/-- One conversion of a VFUNARY0 code between an a of sw bits and a result of dw bits. -/
def fvCvt (rnd : Rnd) (n sw dw a : Nat) : Option FR :=
  let k := n % 8
  match fmtOfW sw, fmtOfW dw with
  | fs, fd =>
    if k = 0 then fs.map (fun f => fToInt f rnd dw false a)
    else if k = 1 then fs.map (fun f => fToInt f rnd dw true a)
    else if k = 2 then fd.map (fun f => fOfInt f rnd a)
    else if k = 3 then fd.map (fun f => fOfInt f rnd (sext a sw))
    else if k = 6 then fs.map (fun f => fToInt f .rtz dw false a)
    else if k = 7 then fs.map (fun f => fToInt f .rtz dw true a)
    else
      match fs, fd with
      | some f, some g =>
        if n = 0x0C ∨ n = 0x14 then some (fConv f g rnd a)
        else if n = 0x15 then some ((fRoundOdd g (decodeF f a)).also (snanFl f [a]))
        else none
      | _, _ => none

/-- vfcvt, vfwcvt, vfncvt. -/
def State.vCvt (s : State) (k i len : Nat) (c : VCtx) (rnd : Rnd) : Option State :=
  let n := iRs1 i
  let r := s.rv k
  let sw := if n < 0x10 then c.w else 2 * c.w
  let dw := if 8 ≤ n ∧ n < 0x10 then 2 * c.w else c.w
  let sm := if n < 0x10 then c.m8 else 2 * c.m8
  let dm := if 8 ≤ n ∧ n < 0x10 then 2 * c.m8 else c.m8
  if n ≥ 0x18 || sw > 64 || dw > 64 || !emulOk sm || !emulOk dm || !groupOk c.vd dm || !groupOk c.vs2 sm || !maskOk c.vm c.vd
      || !ovOk c.vd dm dw c.vs2 sm sw || (fvCvt rnd n sw dw 0).isNone then none
  else some (s.vMapF k len c.vd dw dm c.vm (fun j => (fvCvt rnd n sw dw (r.vEl c.vs2 sw j)).getD ⟨0, 0⟩))

/-- vfsqrt, vfrsqrt7, vfrec7, vfclass. -/
def State.vFpUnary (s : State) (k i len : Nat) (c : VCtx) (f : FFmt) (rnd : Rnd) : Option State :=
  let r := s.rv k
  let g : Option (Nat → FR) :=
    match iRs1 i with
    | 0x00 => some (fSqrt f rnd)
    | 0x04 => some (fRsqrt7 f)
    | 0x05 => some (fRec7 f rnd)
    | 0x10 => some (fun a => ⟨fClass f a, 0⟩)
    | _ => none
  match g with
  | none => none
  | some g =>
    if !groupOk c.vd c.m8 || !groupOk c.vs2 c.m8 || !maskOk c.vm c.vd then none
    else some (s.vMapF k len c.vd c.w c.m8 c.vm (fun j => g (r.vEl c.vs2 c.w j)))

/-! ### OPFVV, OPFVF -/

/-- Widening floating-point operations. -/
def State.vFpWiden (s : State) (k len : Nat) (c : VCtx) (o : VSrc) (f : FFmt) (rnd : Rnd) : Option State :=
  let r := s.rv k
  let w2 := 2 * c.w
  let m2 := 2 * c.m8
  let wide := c.f6 == 0x34 || c.f6 == 0x36
  let aw := if wide then w2 else c.w
  let am := if wide then m2 else c.m8
  match fmtOfW w2 with
  | none => none
  | some g =>
    if !emulOk m2 || !groupOk c.vd m2 || !groupOk c.vs2 am || !o.ok c.m8 || !maskOk c.vm c.vd || !ovOk c.vd m2 w2 c.vs2 am aw
        || !o.ov c.vd m2 w2 c.m8 c.w || (fwOp g rnd c.f6 0 0 0).isNone then none
    else
      some (s.vMapF k len c.vd w2 m2 c.vm (fun i =>
        let a : FR := if wide then ⟨r.vEl c.vs2 w2 i, 0⟩ else fConv f g .rne (r.vEl c.vs2 c.w i)
        let b : FR := fConv f g .rne (o.el r c.w i)
        ((fwOp g rnd c.f6 (r.vEl c.vd w2 i) a.code b.code).getD ⟨0, 0⟩).also (a.fl ||| b.fl)))

/-- Moves between element 0 and an f register. -/
def State.vFpMove (s : State) (k i len : Nat) (c : VCtx) (f : FFmt) (x : Nat) : Option State :=
  if !c.vm then none
  else if c.f3 = 1 then
    if iRs1 i = 0 then some (((s.setFr k f c.vd ((s.rv k).vEl c.vs2 c.w 0)).endVec k).retire k len) else none
  else if c.vs2 = 0 then some (s.vScalarIn k len c.vd c.w x)
  else none

/-- The single-width operations and comparisons, the merge, and the slides that take an f register. -/
def State.vFpPlain (s : State) (k len : Nat) (c : VCtx) (o : VSrc) (f : FFmt) (rnd : Rnd) (x : Nat) : Option State :=
  let r := s.rv k
  let a (i : Nat) : Nat := r.vEl c.vs2 c.w i
  let b (i : Nat) : Nat := o.el r c.w i
  if c.f6 = 0x0E then s.vSlide1 k len c true x
  else if c.f6 = 0x0F then s.vSlide1 k len c false x
  else if c.f6 = 0x17 then s.vMerge k len c o
  else if (fvOp f rnd c.f6 0 0 0).isSome then
    if !c.ok1 o then none else some (s.vMapF k len c.vd c.w c.m8 c.vm (fun i => (fvOp f rnd c.f6 (r.vEl c.vd c.w i) (a i) (b i)).getD ⟨0, 0⟩))
  else if (fvCmp f c.f6 0 0).isSome then
    if !groupOk c.vs2 c.m8 || !o.ok c.m8 || !mdOk c.vd c.vs2 c.m8 || !o.md c.vd c.m8 then none
    else some (s.vMapMaskF k len c.vd c.vm (fun i => (fvCmp f c.f6 (a i) (b i)).getD ⟨0, 0⟩))
  else none

/-- OPFVV, OPFVF: frm must name a rounding mode. -/
def State.rvOpFv (s : State) (k i len : Nat) : Option State :=
  let c := s.vCtx k i
  let vv := c.f3 == 1
  if vill (s.vtype k) || !s.fsOn k || !fvForms c.f6 vv then none
  else
    match s.frm k with
    | none => none
    | some rnd =>
      if c.f6 = 0x12 then s.vCvt k i len c rnd
      else
        match fmtOfW c.w with
        | none => none
        | some f =>
          let x := s.fr k f (iRs1 i)
          let o : VSrc := if vv then .vec (iRs1 i) else .val x
          match c.f6 with
          | 0x01 => s.vRedFp k len (iRs1 i) c f f rnd
          | 0x03 => s.vRedFp k len (iRs1 i) c f f rnd
          | 0x05 => s.vRedFp k len (iRs1 i) c f f rnd
          | 0x07 => s.vRedFp k len (iRs1 i) c f f rnd
          | 0x31 => (fmtOfW (2 * c.w)).bind (fun g => s.vRedFp k len (iRs1 i) c f g rnd)
          | 0x33 => (fmtOfW (2 * c.w)).bind (fun g => s.vRedFp k len (iRs1 i) c f g rnd)
          | 0x10 => s.vFpMove k i len c f x
          | 0x13 => s.vFpUnary k i len c f rnd
          | _ => if c.f6 ≥ 0x30 then s.vFpWiden k len c o f rnd else s.vFpPlain k len c o f rnd x

end Sys2Proof.Machine
end

