-- ==== Sys2Proof/Machine/RvVecMem.lean ====
section
/-! DEFINITION. The V extension on the vector cores, part 3: loads and stores (R243, R245, R248, R320); the standard's text is presumed (log entry 27). -/

namespace Sys2Proof.Machine

/-- One memory operation of an element: the register group of its field, the element index, its address. -/
structure VAcc where
  reg : Nat
  idx : Nat
  addr : Nat
  deriving DecidableEq, Repr

/-- The outcome of a run of element operations: the state, and the element with the access that stopped it. -/
structure VRun where
  st : State
  bad : Option (Nat × MOut)
  deriving DecidableEq, Repr

/-- Perform element operations in order, stopping at the first that traps or waits. -/
def State.vAccRun (s : State) (k w : Nat) (store : Bool) (l : List VAcc) : VRun :=
  match l with
  | [] => ⟨s, none⟩
  | a :: rest =>
    let n := w / 8
    let z := s.rvAccess k a.addr n (if store then .write else .read) (if store then (s.rv k).vEl a.reg w a.idx else 0)
    match z.2 with
    | .val v =>
      let s := if store then z.1 else z.1.updRv k (fun r => r.setVEl a.reg w a.idx v)
      s.vAccRun k w store rest
    | o => ⟨z.1, some (a.idx, o)⟩

/-- The same for a whole load or store: a trap or wait leaves vstart at its element; else `fin` ends the instruction. -/
def State.vMemRun (s : State) (k w : Nat) (store : Bool) (l : List VAcc) (fin : State → State) : State :=
  let r := s.vAccRun k w store l
  match r.bad with
  | none => fin r.st
  | some (i, o) =>
    let s := (r.st.setCsr k 8 (BitVec.ofNat 64 i)).vsDirty k
    match o with
    | .trap c t => s.exception k c (BitVec.ofNat 64 t)
    | _ => s.updRv k (fun z => { z with waiting := true })

/-- Whether the bytes of an access are readable now, without a trap or a wait, for a fault-only-first load past element 0. -/
def State.canRead (s : State) (k a n : Nat) : Bool :=
  let a := a % 2 ^ 64
  let m := pieceLen a n
  let one (a n : Nat) : Bool :=
    if a ≥ scrBase then !anyBad (s.rv k).badScratch (a - scrBase) n
    else if a ≥ winBase then s.effMode k .read == .machine
    else if a ≥ 2 ^ 48 then false
    else (s.tryRead (.vc (Fin.ofNat 480 k)) (s.rv k).ctx (s.cellPart k) a n).2.1.isSome
  one a m && (m == n || one ((a + m) % 2 ^ 64) (n - m))

/-- Element width of a width field. -/
def vWidth (f3 : Nat) : Option Nat :=
  match f3 with
  | 0 => some 8
  | 5 => some 16
  | 6 => some 32
  | 7 => some 64
  | _ => none

/-- The accesses of segments: for each active element, its fields in order. -/
def segAccs (es : List Nat) (nf vd regs : Nat) (addr : Nat → Nat) (step : Nat) : List VAcc :=
  es.flatMap (fun i => (upTo nf).map (fun f => ⟨vd + f * regs, i, (addr i + f * step) % 2 ^ 64⟩))

/-- The end of a load: the agnostic elements of every field's group. -/
def State.vLoadDone (s : State) (k len nf vd w m8 : Nat) (vm : Bool) : State :=
  let s := forEach (upTo nf) s (fun s f => s.agnostic k (vd + f * groupRegs m8) w m8 (s.vl k) vm false)
  (s.endVec k).retire k len

/-- The end of a store. -/
def State.vStoreDone (s : State) (k len : Nat) : State := (s.endVec k).retire k len

/-- Unit-stride, strided and fault-only-first accesses: elements of w bits in groups of e8 eighths, at base + i × stride. -/
def State.vStrided (s : State) (k len i w e8 stride : Nat) (store ff : Bool) : Option State :=
  let nf := bits i 29 3 + 1
  let vm := bit i 25
  let vd := iRd i
  let regs := groupRegs e8
  let base := (s.xr k (iRs1 i)).toNat
  if !emulOk e8 || nf * regs > 8 || vd % regs != 0 || vd + nf * regs > 32 || (!store && !maskOk vm vd) then none
  else
    let addr (j : Nat) : Nat := (base + j * stride) % 2 ^ 64
    let es := s.vElems k vm
    let stop := if ff then (es.filter (fun j => decide (0 < j))).find? (fun j =>
        !(upTo nf).all (fun f => s.canRead k (addr j + f * (w / 8)) (w / 8))) else none
    let es := match stop with | some j => es.filter (fun x => decide (x < j)) | none => es
    some (s.vMemRun k w store (segAccs es nf vd regs addr (w / 8)) (fun s =>
      let s := match stop with | some j => s.setCsr k 0xC20 (BitVec.ofNat 64 j) | none => s
      if store then s.vStoreDone k len else s.vLoadDone k len nf vd w e8 vm))

/-- Indexed accesses: the data has SEW and LMUL, the indices iw bits; unsigned byte offsets. -/
def State.vIndexed (s : State) (k len i iw : Nat) (store : Bool) : Option State :=
  let t := s.vtype k
  let w := sewOf t
  let m8 := lmul8 t
  let i8 := iw * m8 / w
  let nf := bits i 29 3 + 1
  let vm := bit i 25
  let vd := iRd i
  let vs2 := iRs2 i
  let regs := groupRegs m8
  let base := (s.xr k (iRs1 i)).toNat
  let clash := if nf = 1 then !ovOk vd m8 w vs2 i8 iw else meets vd (nf * regs) vs2 (groupRegs i8)
  if !emulOk i8 || nf * regs > 8 || vd % regs != 0 || vd + nf * regs > 32 || !groupOk vs2 i8
      || (!store && (!maskOk vm vd || clash)) then none
  else
    let r := s.rv k
    let addr (j : Nat) : Nat := (base + r.vEl vs2 iw j) % 2 ^ 64
    some (s.vMemRun k w store (segAccs (s.vElems k vm) nf vd regs addr (w / 8)) (fun s =>
      if store then s.vStoreDone k len else s.vLoadDone k len nf vd w m8 vm))

/-- Whole-register accesses: every element from vstart on, whatever vtype and vl say. -/
def State.vWholeMem (s : State) (k len i w : Nat) (store : Bool) : Option State :=
  let n := bits i 29 3 + 1
  let vd := iRd i
  let base := (s.xr k (iRs1 i)).toNat
  if !bit i 25 || !(n == 1 || n == 2 || n == 4 || n == 8) || vd % n != 0 || (store && w != 8) then none
  else
    let es := (upTo (n * 4096 / w)).filter (fun j => decide (s.vstart k ≤ j))
    some (s.vMemRun k w store (segAccs es 1 vd 1 (fun j => (base + j * (w / 8)) % 2 ^ 64) 0) (fun s => s.vStoreDone k len))

/-- vlm and vsm: ⌈vl / 8⌉ bytes; the tail of a loaded mask is agnostic. -/
def State.vMaskMem (s : State) (k len i : Nat) (store : Bool) : Option State :=
  let vd := iRd i
  let base := (s.xr k (iRs1 i)).toNat
  if !bit i 25 || bits i 29 3 != 0 || vill (s.vtype k) then none
  else
    let n := cdiv (s.vl k) 8
    let es := (upTo n).filter (fun j => decide (s.vstart k ≤ j))
    some (s.vMemRun k 8 store (segAccs es 1 vd 1 (fun j => (base + j) % 2 ^ 64) 0) (fun s =>
      let s := if store then s else s.agnostic k vd 8 8 n true true
      s.vStoreDone k len))

/-- Vector loads (LOAD-FP) and stores (STORE-FP). -/
def State.rvVecMem (s : State) (k i len : Nat) (store : Bool) : Option State :=
  let t := s.vtype k
  match vWidth (iF3 i) with
  | none => none
  | some w =>
    if bit i 28 then none
    else
      let e8 := w * lmul8 t / sewOf t
      match bits i 26 2, iRs2 i with
      | 0, 0x08 => s.vWholeMem k len i w store
      | 0, 0x0B => if w = 8 then s.vMaskMem k len i store else none
      | 0, 0x00 => if vill t then none else s.vStrided k len i w e8 ((bits i 29 3 + 1) * (w / 8)) store false
      | 0, 0x10 => if vill t || store then none else s.vStrided k len i w e8 ((bits i 29 3 + 1) * (w / 8)) store true
      | 0, _ => none
      | 2, rs2 => if vill t then none else s.vStrided k len i w e8 (s.xr k rs2).toNat store false
      | _, _ => if vill t then none else s.vIndexed k len i w store

/-- The vector instructions; none where V is off, or the encoding is reserved or illegal under vtype. -/
def State.rvVec (s : State) (k w len : Nat) : Option State :=
  if !s.vsOn k then none
  else
    match bits w 0 7 with
    | 0x07 => s.rvVecMem k w len false
    | 0x27 => s.rvVecMem k w len true
    | _ =>
      match iF3 w with
      | 7 => s.rvVset k w len
      | 1 => s.rvOpFv k w len
      | 5 => s.rvOpFv k w len
      | 2 => s.rvOpMv k w len
      | 6 => s.rvOpMv k w len
      | _ => s.rvOpIv k w len

end Sys2Proof.Machine
end

