-- ==== Sys2Proof/Machine/Riscv.lean ====
section
/-! DEFINITION. RISCV_INSTRUCTION (R242-R253): the fetch, and the instruction of any extension of the core's profile. -/

namespace Sys2Proof.Machine

/-- Go on with a fetched instruction: a word that no implemented extension defines, or that its mode may not execute, is illegal. -/
def State.rvDecode (s : State) (k w len raw : Nat) : State :=
  let r : Option State :=
    match bits w 0 7 with
    | 0x0F => s.rvFence k w len
    | 0x73 => s.rvSystem k w len
    | 0x57 => s.rvVec k w len
    | 0x03 => s.rvMem k w len
    | 0x23 => s.rvMem k w len
    | 0x2F => s.rvMem k w len
    | 0x07 => if isVcKey k && (vWidth (iF3 w)).isSome then s.rvVec k w len else s.rvMem k w len
    | 0x27 => if isVcKey k && (vWidth (iF3 w)).isSome then s.rvVec k w len else s.rvMem k w len
    | 0x43 => s.rvFp k w len
    | 0x47 => s.rvFp k w len
    | 0x4B => s.rvFp k w len
    | 0x4F => s.rvFp k w len
    | 0x53 => s.rvFp k w len
    | _ => s.rvInt k w len
  match r with
  | some t => t
  | none => s.illegal k raw

/-- Execute one instruction, expanding a compressed one; longer encodings are not implemented. -/
def State.rvExec (s : State) (k raw : Nat) : State :=
  if raw % 4 ≠ 3 then
    match expandC (raw % 2 ^ 16) with
    | some w => s.rvDecode k w 2 (raw % 2 ^ 16)
    | none => s.illegal k (raw % 2 ^ 16)
  else if raw % 32 = 31 then s.illegal k raw
  else s.rvDecode k raw 4 raw

/-- The custom instruction of a vector core that a word encodes (R262), performed; none where it encodes none of them. -/
def State.rvCustom (s : State) (vc : Fin 480) (w : Nat) : Option Res :=
  let rd : BitVec 5 := BitVec.ofNat 5 (iRd w)
  let rs1 : BitVec 5 := BitVec.ofNat 5 (iRs1 w)
  let rs2 : BitVec 5 := BitVec.ofNat 5 (iRs2 w)
  let sn : Fin 32 := Fin.ofNat 32 (iRs2 w)
  let hi := bits w 26 6
  let vm := bit w 25
  let fmt : BitVec 4 := BitVec.ofNat 4 (iRs1 w)
  let z2 := iRs2 w == 0
  let z1 := iRs1 w == 0
  let zd := iRd w == 0
  let sel (c : Bool) (r : Res) : Option Res := if c then some r else none
  if bits w 0 7 = opC0 then
    match iF3 w, hi with
    | 0, 0 => sel z2 (execXtVl vc vm rs1 rd s)
    | 0, 1 => some (execXtVls vc vm rs2 rs1 rd s)
    | 1, 0 => sel z2 (execXtVs vc vm rs1 rd s)
    | 1, 1 => some (execXtVss vc vm rs2 rs1 rd s)
    | 2, 0 => sel (vm && decide (iRs1 w < 16)) (execXtVunp vc rs2 fmt rd s)
    | 3, 0 => sel (vm && decide (iRs1 w < 16)) (execXtVpk vc false rs2 fmt rd s)
    | 3, 1 => sel (vm && decide (iRs1 w < 16)) (execXtVpk vc true rs2 fmt rd s)
    | 4, 0 => sel (!vm && z2 && z1 && zd) (execXtFence vc s)
    | _, _ => none
  else
    match iF3 w, hi with
    | 0, 0 => sel (!vm && zd) (execXsAdd vc sn rs1 s)
    | 1, 0 => sel (!vm && zd) (execXsWait vc sn rs1 s)
    | 2, 0 => sel (!vm) (execXsTry vc sn rs1 rd s)
    | 3, 0 => sel (!vm && z1) (execXsRd vc sn rd s)
    | 4, 0 => sel (!vm && zd) (execXsSig vc rs2 rs1 s)
    | 5, 0 => sel (!vm && zd) (execXsBar vc sn rs1 s)
    | 6, 0 => sel (!vm && z2 && zd) (execXdQ vc rs1 s)
    | 6, 1 => sel (vm && z1 && zd) (execXdQv vc rs2 s)
    | 7, 0 => sel (!vm && z2) (execXdTq vc rs1 rd s)
    | 7, 1 => sel (vm && z1) (execXdTqv vc rs2 rd s)
    | _, _ => none

/-- Fetch: a vector core reads its pc's bytes as R252 and R253 place them; a half controller or service core translates its pc. -/
def State.rvFetch (s : State) (k len : Nat) : State × MOut :=
  let pc := (s.rv k).pc.toNat
  if isVcKey k then s.rvAccess k pc len .fetch 0
  else
    let r := s.svXlate k pc .fetch
    match r.2 with
    | .trap c => (r.1, .trap c pc)
    | .pa pa => if r.1.pmpOk k pa len .fetch (s.rv k).mode then (r.1, .val 0) else (r.1, .trap excFetchAccess pc)

/-- RISCV_INSTRUCTION (R243, R252): the word is the one that the instruction cache delivers (log entry 54). -/
def execRiscvInstruction (core : RvCore) (w : Word32) (s : State) : Res :=
  let k := rvKey core
  let raw := w.toNat
  if !s.rvRun k then .next s
  else
    let f := s.rvFetch k (if raw % 4 = 3 then 4 else 2)
    match f.2 with
    | .trap c t => .next (f.1.exception k c (BitVec.ofNat 64 t))
    | .wait => .next f.1
    | .val _ =>
      match core with
      | .vc n =>
        if bits raw 0 7 = opC0 ∨ bits raw 0 7 = opC1 then (f.1.rvCustom n raw).getD (.next (f.1.illegal k raw))
        else .next (f.1.rvExec k raw)
      | _ => .next (f.1.rvExec k raw)

end Sys2Proof.Machine
end

