-- ==== Sys2Proof/Machine/StoreRoom.lean ====
section
/-! DEFINITION. The commands of the store rooms and the HBM controllers (R266-R292). -/

namespace Sys2Proof.Machine

/-- Whether an earlier request to a line still waits at its controller or for its store room. -/
def State.linePending (s : State) (line : Nat) : Bool :=
  let st := (s.lineHome line).1.stack
  (s.memQ st).any (fun r => r.line == line) || (mget [] s.hbm.fills st).any (fun f => f.req.line == line)

/-- A request arrives at its line's home store room: a hit is performed, a miss goes to the controller (R274, R275, R278). -/
def State.roomArrive (s : State) (q : RoomReq) : State :=
  let h := s.homeOf q.line
  let mask := s.wayMask (h / 120) q.part.val
  let s := if q.kind = .write then s.breakResv q.line noCore else s
  match (s.room h).find q.line with
  | some l =>
    if q.kind = .write then (s.putLine (mergeLine l q.data q.enables)).touch q.line l.way
    else (s.touch q.line l.way).answerMem q l.data l.poison
  | none =>
    if q.kind = .write && !s.linePending q.line && decide (mask = 0) then
      s.toCtl ⟨q.line, h, true, q.enables, q.data, false, none, false⟩
    else if q.kind = .write && !s.linePending q.line && decide (q.enables = fullEn) then
      s.install q.part.val ⟨q.line, 0, q.data, true, false⟩
    else s.toCtl ⟨q.line, h, false, 0, [], false, some q, true⟩

/-- STORE_ROOM_ACCESS (R275). -/
def execStoreRoomAccess (q : RoomReq) (s : State) : Res := when (s.lineOk q.line) (fun s => s.roomArrive q) s

/-- STORE_ROOM_AMO (R245): aligned, on a line of memory; the old value (for SC its outcome) is answered. -/
def execStoreRoomAmo (core : RvCore) (part : Fin 16) (op : AmoOp) (wide : Bool) (pa : Nat) (x : Word) (s : State) : Res :=
  when (s.lineOk (pa / 128) && decide (pa % (if wide then 8 else 4) = 0)) (fun s =>
    let r := s.amoAt (rvKey core) part.val op (if wide then 64 else 32) pa x.toNat
    r.st.emit (.memData part.val (pa / 128) (toLE 8 r.old) r.poison)) s

/-- STORE_ROOM_FILL (R274): the oldest line a controller has returned is installed. -/
def execStoreRoomFill (st : Fin 12) (s : State) : Res := .next (s.fillOne st.val)

/-- WORK_COUNTER_CLAIM (R219): the answer is the first ticket, 0 for no duplicate or 1 for DUPLICATE. -/
def execWorkCounterClaim (who : Option CoreName) (part : Fin 16) (pa : Nat) (n : Word) (s : State) : Res :=
  when (s.lineOk (pa / 128) && decide (pa % 32 = 0)) (fun s =>
    let r := s.wcClaim part.val pa n.toNat who
    r.st.emit (.memData part.val (pa / 128) (toLE 8 r.ticket ++ toLE 1 (b2n r.dup)) r.poison)) s

/-- WORK_COUNTER_PRESENT (R222). -/
def execWorkCounterPresent (who : Option CoreName) (part : Fin 16) (pa : Nat) (t : Word) (s : State) : Res :=
  when (s.lineOk (pa / 128) && decide (pa % 32 = 0)) (fun s =>
    let r := s.wcPresent part.val pa t.toNat who
    r.st.emit (.memData part.val (pa / 128) (toLE 8 r.ticket ++ toLE 1 (b2n r.dup)) r.poison)) s

/-- HBM_REQUEST (R268): the controller serves its oldest request. -/
def execHbmRequest (st : Fin 12) (s : State) : Res := .next (s.ctlServe st.val)

/-- An uncorrectable error at a stack-local address: counted, its address kept, the line poisoned, the event raised (R283). -/
def State.badLine (st : Nat) (s : State) (a : Nat) : State :=
  let s := s.addF ⟨hbmBase st + 8, 32, 16⟩ 1
  let s := s.putF ⟨hbmBase st + 0x10, 0, 36⟩ (a / 128 * 128)
  let s := { s with hbm := { s.hbm with poison := mset false s.hbm.poison (st * 2 ^ 29 + a % 2 ^ 36 / 128) true } }
  s.raiseD (st / 3) (st % 3)

/-- HBM_SCRUB (R283): corrections are counted, and every uncorrectable line is poisoned and reported. -/
def execHbmScrub (st : Fin 12) (corrected : BitVec 32) (bad : List Nat) (s : State) : Res :=
  when (s.getF (hbmStF st.val) == 1) (fun s =>
    forEach bad (s.addF ⟨hbmBase st.val + 8, 0, 32⟩ corrected.toNat) (State.badLine st.val)) s

/-- STACK_DEGRADING_EVENT (R283): possible once more than 10,000 corrections are counted. -/
def execStackDegradingEvent (st : Fin 12) (s : State) : Res :=
  when (decide (s.getF ⟨hbmBase st.val + 8, 0, 32⟩ > 10000)) (fun s => s.raiseD (st.val / 3) (3 + st.val % 3)) s

/-- A double-bit error in a store-room line: a clean line is dropped, a dirty one poisoned (R280). -/
def State.roomUe (s : State) (c line : Nat) : State :=
  let r := s.room c
  match r.find line with
  | none => s
  | some l =>
    if l.dirty then s.setRoom c { r with lines := mapWhere r.lines (fun x => x.line == line) (fun x => { x with poison := true }) }
    else s.setRoom c { r with lines := r.lines.filter (fun x => x.line != line) }

/-- SRAM_UNCORRECTABLE_ERROR (R280): the data that holds the error is poisoned (a clean store-room line is dropped instead),
and the event of the die is raised (R579, R581). -/
def execSramUncorrectableError (loc : SramLoc) (s : State) : Res :=
  .next (match loc with
    | .roomLine c line => (s.roomUe c.val line).raiseD (c.val / 120) 6
    | .scratch mc w => (s.updMc mc.val (fun m => { m with badScratch := mset false m.badScratch w.val true })).raiseD (mc.val / 480) 6
    | .tile mc w => (s.updMc mc.val (fun m => { m with badTiles := mset false m.badTiles w.val true })).raiseD (mc.val / 480) 6
    | .acc mc w => (s.updMc mc.val (fun m => { m with badAcc := mset false m.badAcc w.val true })).raiseD (mc.val / 480) 6
    | .vscratch vc w => (s.updRv vc.val (fun m => { m with badScratch := mset false m.badScratch w.val true })).raiseD (vc.val / 120) 6
    | .junction w => { s with jsramBad := mset false s.jsramBad w.val true }.raiseM 7)

/-- CLEAN (R277, R292). -/
def execClean (d : Fin 4) (s : State) : Res := .next (s.srmStart d.val .clean)

/-- CLEAN_INV (R277, R292). -/
def execCleanInv (d : Fin 4) (s : State) : Res := .next (s.srmStart d.val .cleanInv)

/-- DROP (R277, R292). -/
def execDrop (d : Fin 4) (s : State) : Res := .next (s.srmStart d.val .drop)

/-- Whether a write-back of one of a die's stacks still waits at its controller. -/
def State.writesWait (s : State) (d : Nat) : Bool := (upTo 3).any (fun c => (s.memQ (3 * d + c)).any (·.write))

/-- SRM_RANGE_DONE (R292): once the write-backs have landed, busy clears and done is set. -/
def execSrmRangeDone (d : Fin 4) (s : State) : Res :=
  when (s.getB ⟨srmBase d.val, 3, 1⟩ && !s.writesWait d.val) (fun s =>
    (s.putF ⟨srmBase d.val, 3, 1⟩ 0).putF ⟨srmBase d.val, 4, 1⟩ 1) s

end Sys2Proof.Machine
end

