-- ==== Sys2Proof/Machine/Dispatch.lean ====
section
/-! DEFINITION. The effect of each command: one arm for each row of the table, one meaning for each arm. -/

namespace Sys2Proof.Machine

/-- The effect of a command on everything but the queue. -/
def exec (i : Instr) (s : State) : Host.Outcome State Fault Refusal :=
  match i with
  | .coldPowerOn straps mgmtClk => Sys2Proof.Machine.execColdPowerOn straps mgmtClk s
  | .hbmTrainingComplete stk ok80 ok64 repaired => Sys2Proof.Machine.execHbmTrainingComplete stk ok80 ok64 repaired s
  | .inputUndervoltageShutdown => Sys2Proof.Machine.execInputUndervoltageShutdown s
  | .inputOvervoltageShutdown => Sys2Proof.Machine.execInputOvervoltageShutdown s
  | .inputLowBandEntry vin => Sys2Proof.Machine.execInputLowBandEntry vin s
  | .inputLowBandExit vin => Sys2Proof.Machine.execInputLowBandExit vin s
  | .leakDetected => Sys2Proof.Machine.execLeakDetected s
  | .railOutOfRegulation => Sys2Proof.Machine.execRailOutOfRegulation s
  | .reversedFlowDetect => Sys2Proof.Machine.execReversedFlowDetect s
  | .fabRefclkLoss => Sys2Proof.Machine.execFabRefclkLoss s
  | .slowClockSwitchToRef => Sys2Proof.Machine.execSlowClockSwitchToRef s
  | .slowClockSwitchToOsc => Sys2Proof.Machine.execSlowClockSwitchToOsc s
  | .modRstNAssert straps => Sys2Proof.Machine.execModRstNAssert straps s
  | .perstNAssert => Sys2Proof.Machine.execPerstNAssert s
  | .perstNDeassert refclkOk => Sys2Proof.Machine.execPerstNDeassert refclkOk s
  | .pcieHotReset => Sys2Proof.Machine.execPcieHotReset s
  | .flr f => Sys2Proof.Machine.execFlr f s
  | .numvfsWrite n => Sys2Proof.Machine.execNumvfsWrite n s
  | .meshFlitForward r out respPlane => Sys2Proof.Machine.execMeshFlitForward r out respPlane s
  | .meshCreditReturn r out vc => Sys2Proof.Machine.execMeshCreditReturn r out vc s
  | .gatewayAccept g p => Sys2Proof.Machine.execGatewayAccept g p s
  | .cellDownConsume c p => Sys2Proof.Machine.execCellDownConsume c p s
  | .mcastReplicationEntry r inp => Sys2Proof.Machine.execMcastReplicationEntry r inp s
  | .mcastBranchTake r branch => Sys2Proof.Machine.execMcastBranchTake r branch s
  | .nop mc f => Sys2Proof.Machine.execNop mc f s
  | .halt mc f => Sys2Proof.Machine.execHalt mc f s
  | .programComplete mc => Sys2Proof.Machine.execProgramComplete mc s
  | .jmp mc f => Sys2Proof.Machine.execJmp mc f s
  | .setl mc f => Sys2Proof.Machine.execSetl mc f s
  | .bloop mc f => Sys2Proof.Machine.execBloop mc f s
  | .psync mc f => Sys2Proof.Machine.execPsync mc f s
  | .fclr mc f => Sys2Proof.Machine.execFclr mc f s
  | .gli mc f => Sys2Proof.Machine.execGli mc f s
  | .gadd mc f => Sys2Proof.Machine.execGadd mc f s
  | .glds mc f => Sys2Proof.Machine.execGlds mc f s
  | .org mc f => Sys2Proof.Machine.execOrg mc f s
  | .srset mc f => Sys2Proof.Machine.execSrset mc f s
  | .tcfg mc f => Sys2Proof.Machine.execTcfg mc f s
  | .ttbl mc f => Sys2Proof.Machine.execTtbl mc f s
  | .tld mc f => Sys2Proof.Machine.execTld mc f s
  | .tst mc f => Sys2Proof.Machine.execTst mc f s
  | .tileRowArrival mc op row => Sys2Proof.Machine.execTileRowArrival mc op row s
  | .tileWriteAck mc op => Sys2Proof.Machine.execTileWriteAck mc op s
  | .dmaq mc f => Sys2Proof.Machine.execDmaq mc f s
  | .aclr mc f => Sys2Proof.Machine.execAclr mc f s
  | .ard mc f => Sys2Proof.Machine.execArd mc f s
  | .awr mc f => Sys2Proof.Machine.execAwr mc f s
  | .aspl mc f => Sys2Proof.Machine.execAspl mc f s
  | .afil mc f => Sys2Proof.Machine.execAfil mc f s
  | .accStarvationGuard mc => Sys2Proof.Machine.execAccStarvationGuard mc s
  | .mma mc f => Sys2Proof.Machine.execMma mc f s
  | .arrayPassStart mc => Sys2Proof.Machine.execArrayPassStart mc s
  | .arrayPassComplete mc => Sys2Proof.Machine.execArrayPassComplete mc s
  | .lds mc f => Sys2Proof.Machine.execLds mc f s
  | .ldsSpill mc => Sys2Proof.Machine.execLdsSpill mc s
  | .ldsDrain mc => Sys2Proof.Machine.execLdsDrain mc s
  | .tew mc f => Sys2Proof.Machine.execTew mc f s
  | .tact mc f => Sys2Proof.Machine.execTact mc f s
  | .tder mc f => Sys2Proof.Machine.execTder mc f s
  | .tqnt mc f => Sys2Proof.Machine.execTqnt mc f s
  | .tmsk mc f => Sys2Proof.Machine.execTmsk mc f s
  | .sadd mc f => Sys2Proof.Machine.execSadd mc f s
  | .swait mc f => Sys2Proof.Machine.execSwait mc f s
  | .ssig mc f => Sys2Proof.Machine.execSsig mc f s
  | .sbar mc f => Sys2Proof.Machine.execSbar mc f s
  | .mxcStop mc => Sys2Proof.Machine.execMxcStop mc s
  | .mxcStopped mc => Sys2Proof.Machine.execMxcStopped mc s
  | .mxcStopRelease mc => Sys2Proof.Machine.execMxcStopRelease mc s
  | .mxcResume mc => Sys2Proof.Machine.execMxcResume mc s
  | .mxqClr mc mask => Sys2Proof.Machine.execMxqClr mc mask s
  | .xtVl vc vm rs1 vd => Sys2Proof.Machine.execXtVl vc vm rs1 vd s
  | .xtVls vc vm rs2 rs1 vd => Sys2Proof.Machine.execXtVls vc vm rs2 rs1 vd s
  | .xtVs vc vm rs1 vs3 => Sys2Proof.Machine.execXtVs vc vm rs1 vs3 s
  | .xtVss vc vm rs2 rs1 vs3 => Sys2Proof.Machine.execXtVss vc vm rs2 rs1 vs3 s
  | .xtVunp vc vs2 fmt vd => Sys2Proof.Machine.execXtVunp vc vs2 fmt vd s
  | .xtVpk vc ovf vs2 fmt vd => Sys2Proof.Machine.execXtVpk vc ovf vs2 fmt vd s
  | .xtFence vc => Sys2Proof.Machine.execXtFence vc s
  | .xsAdd vc sn rs1 => Sys2Proof.Machine.execXsAdd vc sn rs1 s
  | .xsWait vc sn rs1 => Sys2Proof.Machine.execXsWait vc sn rs1 s
  | .xsTry vc sn rs1 rd => Sys2Proof.Machine.execXsTry vc sn rs1 rd s
  | .xsRd vc sn rd => Sys2Proof.Machine.execXsRd vc sn rd s
  | .xsSig vc rs2 rs1 => Sys2Proof.Machine.execXsSig vc rs2 rs1 s
  | .xsBar vc sn rs1 => Sys2Proof.Machine.execXsBar vc sn rs1 s
  | .xdQ vc rs1 => Sys2Proof.Machine.execXdQ vc rs1 s
  | .xdQv vc vs2 => Sys2Proof.Machine.execXdQv vc vs2 s
  | .xdTq vc rs1 rd => Sys2Proof.Machine.execXdTq vc rs1 rd s
  | .xdTqv vc vs2 rd => Sys2Proof.Machine.execXdTqv vc vs2 rd s
  | .riscvInstruction core w => Sys2Proof.Machine.execRiscvInstruction core w s
  | .vcInterruptTake vc => Sys2Proof.Machine.execVcInterruptTake vc s
  | .mtimeCompare core => Sys2Proof.Machine.execMtimeCompare core s
  | .reservationTimeout core => Sys2Proof.Machine.execReservationTimeout core s
  | .storeRoomAccess q => Sys2Proof.Machine.execStoreRoomAccess q s
  | .storeRoomAmo core part op wide pa x => Sys2Proof.Machine.execStoreRoomAmo core part op wide pa x s
  | .storeRoomFill stk => Sys2Proof.Machine.execStoreRoomFill stk s
  | .workCounterClaim who part pa n => Sys2Proof.Machine.execWorkCounterClaim who part pa n s
  | .workCounterPresent who part pa t => Sys2Proof.Machine.execWorkCounterPresent who part pa t s
  | .hbmRequest stk => Sys2Proof.Machine.execHbmRequest stk s
  | .hbmScrub stk corrected bad => Sys2Proof.Machine.execHbmScrub stk corrected bad s
  | .stackDegradingEvent stk => Sys2Proof.Machine.execStackDegradingEvent stk s
  | .sramUncorrectableError loc => Sys2Proof.Machine.execSramUncorrectableError loc s
  | .hbmTempRead stk t => Sys2Proof.Machine.execHbmTempRead stk t s
  | .clean d => Sys2Proof.Machine.execClean d s
  | .cleanInv d => Sys2Proof.Machine.execCleanInv d s
  | .drop d => Sys2Proof.Machine.execDrop d s
  | .srmRangeDone d => Sys2Proof.Machine.execSrmRangeDone d s
  | .pageWalk u ctx part va acc => Sys2Proof.Machine.execPageWalk u ctx part va acc s
  | .faultRecordQueued id => Sys2Proof.Machine.execFaultRecordQueued id s
  | .growFaultService id => Sys2Proof.Machine.execGrowFaultService id s
  | .faultTimeout id => Sys2Proof.Machine.execFaultTimeout id s
  | .atsTranslationCompletion id res => Sys2Proof.Machine.execAtsTranslationCompletion id res s
  | .prgResponse id code => Sys2Proof.Machine.execPrgResponse id code s
  | .atsInvalidateRequest pasid page pages => Sys2Proof.Machine.execAtsInvalidateRequest pasid page pages s
  | .invalidateAll => Sys2Proof.Machine.execInvalidateAll s
  | .invalidateContext => Sys2Proof.Machine.execInvalidateContext s
  | .invalidateRange => Sys2Proof.Machine.execInvalidateRange s
  | .invalidationComplete => Sys2Proof.Machine.execInvalidationComplete s
  | .cellSaveComplete u => Sys2Proof.Machine.execCellSaveComplete u s
  | .cellRestoreComplete c => Sys2Proof.Machine.execCellRestoreComplete c s
  | .dmaCopy c q => Sys2Proof.Machine.execDmaCopy c q s
  | .dmaPanel c q => Sys2Proof.Machine.execDmaPanel c q s
  | .dmaImage c q => Sys2Proof.Machine.execDmaImage c q s
  | .dmaFetchAdd c q => Sys2Proof.Machine.execDmaFetchAdd c q s
  | .dmaClaim c q => Sys2Proof.Machine.execDmaClaim c q s
  | .dmaPresent c q => Sys2Proof.Machine.execDmaPresent c q s
  | .dmaMaskload c q => Sys2Proof.Machine.execDmaMaskload c q s
  | .dmaKey c q => Sys2Proof.Machine.execDmaKey c q s
  | .dmaLineResponse c q => Sys2Proof.Machine.execDmaLineResponse c q s
  | .signalReceive g => Sys2Proof.Machine.execSignalReceive g s
  | .signalCompletion c targetDown => Sys2Proof.Machine.execSignalCompletion c targetDown s
  | .barrierNodeArrival node part bid gen => Sys2Proof.Machine.execBarrierNodeArrival node part bid gen s
  | .barrierReleaseApply core part bid gen => Sys2Proof.Machine.execBarrierReleaseApply core part bid gen s
  | .idleReport core => Sys2Proof.Machine.execIdleReport core s
  | .syncHang core bid => Sys2Proof.Machine.execSyncHang core bid s
  | .portEnable p => Sys2Proof.Machine.execPortEnable p s
  | .portDisable p => Sys2Proof.Machine.execPortDisable p s
  | .portSignalDetect p => Sys2Proof.Machine.execPortSignalDetect p s
  | .portTuneDone p tuned => Sys2Proof.Machine.execPortTuneDone p tuned s
  | .portAlignDone p aligned reversed => Sys2Proof.Machine.execPortAlignDone p aligned reversed s
  | .portStateTimeout p => Sys2Proof.Machine.execPortStateTimeout p s
  | .portTuneBackoff p => Sys2Proof.Machine.execPortTuneBackoff p s
  | .configFlit p bytes => Sys2Proof.Machine.execConfigFlit p bytes s
  | .configResendTimer p => Sys2Proof.Machine.execConfigResendTimer p s
  | .laneLockLost p lane => Sys2Proof.Machine.execLaneLockLost p lane s
  | .laneErrorThreshold p lane count => Sys2Proof.Machine.execLaneErrorThreshold p lane count s
  | .portRetrain p => Sys2Proof.Machine.execPortRetrain p s
  | .portUnquarantine p => Sys2Proof.Machine.execPortUnquarantine p s
  | .degradedRetrainTimer p => Sys2Proof.Machine.execDegradedRetrainTimer p s
  | .quarantineReleaseTimer p => Sys2Proof.Machine.execQuarantineReleaseTimer p s
  | .rateLimitExpiry p vc => Sys2Proof.Machine.execRateLimitExpiry p vc s
  | .dataFlit p bytes => Sys2Proof.Machine.execDataFlit p bytes s
  | .idleFlit p bytes => Sys2Proof.Machine.execIdleFlit p bytes s
  | .creditFlit p bytes => Sys2Proof.Machine.execCreditFlit p bytes s
  | .retrainFlit p bytes => Sys2Proof.Machine.execRetrainFlit p bytes s
  | .quarantineFlit p bytes => Sys2Proof.Machine.execQuarantineFlit p bytes s
  | .flitTransmit p => Sys2Proof.Machine.execFlitTransmit p s
  | .replayTimeout p => Sys2Proof.Machine.execReplayTimeout p s
  | .creditFlitTimer p => Sys2Proof.Machine.execCreditFlitTimer p s
  | .put p h pl => Sys2Proof.Machine.execPut p h pl s
  | .get p h pl => Sys2Proof.Machine.execGet p h pl s
  | .atomic p h pl => Sys2Proof.Machine.execAtomic p h pl s
  | .reduceContrib p h pl => Sys2Proof.Machine.execReduceContrib p h pl s
  | .reduceResult p h pl => Sys2Proof.Machine.execReduceResult p h pl s
  | .barrierArrive p h pl => Sys2Proof.Machine.execBarrierArrive p h pl s
  | .barrierRelease p h pl => Sys2Proof.Machine.execBarrierRelease p h pl s
  | .mcast p h pl => Sys2Proof.Machine.execMcast p h pl s
  | .probe p h pl => Sys2Proof.Machine.execProbe p h pl s
  | .nodeCfg p h pl => Sys2Proof.Machine.execNodeCfg p h pl s
  | .portStat p h pl => Sys2Proof.Machine.execPortStat p h pl s
  | .fabricResponse p h pl => Sys2Proof.Machine.execFabricResponse p h pl s
  | .xlateRetryResend tag => Sys2Proof.Machine.execXlateRetryResend tag s
  | .transactionTimeout tag => Sys2Proof.Machine.execTransactionTimeout tag s
  | .localContribRead id frag idx => Sys2Proof.Machine.execLocalContribRead id frag idx s
  | .fragmentDeadline id frag => Sys2Proof.Machine.execFragmentDeadline id frag s
  | .resultWriteAck id frag => Sys2Proof.Machine.execResultWriteAck id frag s
  | .reductionHang id frag => Sys2Proof.Machine.execReductionHang id frag s
  | .mcastTargetCompletion c q target ok => Sys2Proof.Machine.execMcastTargetCompletion c q target ok s
  | .mcastTimeout c q target => Sys2Proof.Machine.execMcastTimeout c q target s
  | .cellarChunk stk => Sys2Proof.Machine.execCellarChunk stk s
  | .cellarStatsRoundDone stk => Sys2Proof.Machine.execCellarStatsRoundDone stk s
  | .sqDoorbell f r v => Sys2Proof.Machine.execSqDoorbell f r v s
  | .cqDoorbell f r v => Sys2Proof.Machine.execCqDoorbell f r v s
  | .commandFetch r data => Sys2Proof.Machine.execCommandFetch r data s
  | .ringEnable f r v => Sys2Proof.Machine.execRingEnable f r v s
  | .ringDisable f r v => Sys2Proof.Machine.execRingDisable f r v s
  | .completionRecordWrite r => Sys2Proof.Machine.execCompletionRecordWrite r s
  | .eventRecordWrite p => Sys2Proof.Machine.execEventRecordWrite p s
  | .fnPop f => Sys2Proof.Machine.execFnPop f s
  | .bar4Read f off len => Sys2Proof.Machine.execBar4Read f off len s
  | .bar4Write f off data => Sys2Proof.Machine.execBar4Write f off data s
  | .bar4HoldExpiry f id => Sys2Proof.Machine.execBar4HoldExpiry f id s
  | .msixModerationExpiry m => Sys2Proof.Machine.execMsixModerationExpiry m s
  | .msixUnmask m => Sys2Proof.Machine.execMsixUnmask m s
  | .ringNop src c => Sys2Proof.Machine.execRingNop src c s
  | .launch src c => Sys2Proof.Machine.execLaunch src c s
  | .kernelStart k => Sys2Proof.Machine.execKernelStart k s
  | .kernelComplete k => Sys2Proof.Machine.execKernelComplete k s
  | .kstopPreempt src c => Sys2Proof.Machine.execKstopPreempt src c s
  | .kstopEnd src c => Sys2Proof.Machine.execKstopEnd src c s
  | .kresume src c => Sys2Proof.Machine.execKresume src c s
  | .copy src c => Sys2Proof.Machine.execCopy src c s
  | .barcfg src c => Sys2Proof.Machine.execBarcfg src c s
  | .redjob src c => Sys2Proof.Machine.execRedjob src c s
  | .redctlClose src c => Sys2Proof.Machine.execRedctlClose src c s
  | .redctlUnconfigure src c => Sys2Proof.Machine.execRedctlUnconfigure src c s
  | .updjob src c => Sys2Proof.Machine.execUpdjob src c s
  | .updstop src c => Sys2Proof.Machine.execUpdstop src c s
  | .fltresRetry src c => Sys2Proof.Machine.execFltresRetry src c s
  | .fltresAbort src c => Sys2Proof.Machine.execFltresAbort src c s
  | .inval src c => Sys2Proof.Machine.execInval src c s
  | .fabcfg src c => Sys2Proof.Machine.execFabcfg src c s
  | .fmcast src c => Sys2Proof.Machine.execFmcast src c s
  | .portctlUnquarantine src c => Sys2Proof.Machine.execPortctlUnquarantine src c s
  | .portctlRetrain src c => Sys2Proof.Machine.execPortctlRetrain src c s
  | .pantryConfig src c => Sys2Proof.Machine.execPantryConfig src c s
  | .pantryReset src c => Sys2Proof.Machine.execPantryReset src c s
  | .pantryIntake src c => Sys2Proof.Machine.execPantryIntake src c s
  | .pantrySelect src c => Sys2Proof.Machine.execPantrySelect src c s
  | .pantryFeed src c => Sys2Proof.Machine.execPantryFeed src c s
  | .pantryPublish src c => Sys2Proof.Machine.execPantryPublish src c s
  | .pantryQuery src c => Sys2Proof.Machine.execPantryQuery src c s
  | .pantryUnconfig src c => Sys2Proof.Machine.execPantryUnconfig src c s
  | .cadenceStart src c => Sys2Proof.Machine.execCadenceStart src c s
  | .cadenceStop src c => Sys2Proof.Machine.execCadenceStop src c s
  | .cadenceAdjust src c => Sys2Proof.Machine.execCadenceAdjust src c s
  | .cadenceResume src c => Sys2Proof.Machine.execCadenceResume src c s
  | .create src c => Sys2Proof.Machine.execCreate src c s
  | .destroy src c => Sys2Proof.Machine.execDestroy src c s
  | .moveCells src c => Sys2Proof.Machine.execMoveCells src c s
  | .moveMem src c => Sys2Proof.Machine.execMoveMem src c s
  | .moveRings src c => Sys2Proof.Machine.execMoveRings src c s
  | .ports src c => Sys2Proof.Machine.execPorts src c s
  | .setCtx src c => Sys2Proof.Machine.execSetCtx src c s
  | .clearCtx src c => Sys2Proof.Machine.execClearCtx src c s
  | .share src c => Sys2Proof.Machine.execShare src c s
  | .waymask src c => Sys2Proof.Machine.execWaymask src c s
  | .scope src c => Sys2Proof.Machine.execScope src c s
  | .assist src c => Sys2Proof.Machine.execAssist src c s
  | .physwin src c => Sys2Proof.Machine.execPhyswin src c s
  | .discard src c => Sys2Proof.Machine.execDiscard src c s
  | .pantryTicketTake p idx => Sys2Proof.Machine.execPantryTicketTake p idx s
  | .intakeSkip p idx => Sys2Proof.Machine.execIntakeSkip p idx s
  | .queryBatchTimeout p idx => Sys2Proof.Machine.execQueryBatchTimeout p idx s
  | .queryDoneRead p idx => Sys2Proof.Machine.execQueryDoneRead p idx s
  | .queryDoneTimeout p idx => Sys2Proof.Machine.execQueryDoneTimeout p idx s
  | .cadencePeriodStart p idx => Sys2Proof.Machine.execCadencePeriodStart p idx s
  | .cadencePhaseEnd p idx => Sys2Proof.Machine.execCadencePhaseEnd p idx s
  | .irqFlagSet fl => Sys2Proof.Machine.execIrqFlagSet fl s
  | .irqFilterPass ctl src => Sys2Proof.Machine.execIrqFilterPass ctl src s
  | .irqTake t ctl src => Sys2Proof.Machine.execIrqTake t ctl src s
  | .irqDone t ctl src => Sys2Proof.Machine.execIrqDone t ctl src s
  | .irqHoldoffExpiry ctl g => Sys2Proof.Machine.execIrqHoldoffExpiry ctl g s
  | .powerSample x => Sys2Proof.Machine.execPowerSample x s
  | .sustainedOverdraw => Sys2Proof.Machine.execSustainedOverdraw s
  | .powerControlStep x => Sys2Proof.Machine.execPowerControlStep x s
  | .recalibrationComplete c rec => Sys2Proof.Machine.execRecalibrationComplete c rec s
  | .calibrationRetake c rec => Sys2Proof.Machine.execCalibrationRetake c rec s
  | .thermalStepEntry sc step => Sys2Proof.Machine.execThermalStepEntry sc step s
  | .thermalStepExit sc => Sys2Proof.Machine.execThermalStepExit sc s
  | .thermalTrip sc => Sys2Proof.Machine.execThermalTrip sc s
  | .powerAnswerTimeout p => Sys2Proof.Machine.execPowerAnswerTimeout p s
  | .pwrAnsWrite rq p v => Sys2Proof.Machine.execPwrAnsWrite rq p v s
  | .pwrCapWrite rq v => Sys2Proof.Machine.execPwrCapWrite rq v s
  | .pwrCeilWrite rq v => Sys2Proof.Machine.execPwrCeilWrite rq v s
  | .mgtModnumWrite rq v => Sys2Proof.Machine.execMgtModnumWrite rq v s
  | .mgtSvnWrite rq v => Sys2Proof.Machine.execMgtSvnWrite rq v s
  | .mgtBadstkWrite rq v => Sys2Proof.Machine.execMgtBadstkWrite rq v s
  | .otpBurnComplete => Sys2Proof.Machine.execOtpBurnComplete s
  | .cellReset rq d v => Sys2Proof.Machine.execCellReset rq d v s
  | .warmResetWrite rq v straps => Sys2Proof.Machine.execWarmResetWrite rq v straps s
  | .partitionReset rq v => Sys2Proof.Machine.execPartitionReset rq v s
  | .recoveryResume rq p v => Sys2Proof.Machine.execRecoveryResume rq p v s
  | .recoveryEnd rq p v => Sys2Proof.Machine.execRecoveryEnd rq p v s
  | .recoveryReset rq p v => Sys2Proof.Machine.execRecoveryReset rq p v s
  | .heartbeat k => Sys2Proof.Machine.execHeartbeat k s
  | .heartbeatLost k => Sys2Proof.Machine.execHeartbeatLost k s
  | .controllerTakeover k => Sys2Proof.Machine.execControllerTakeover k s
  | .restartTimeout k => Sys2Proof.Machine.execRestartTimeout k s
  | .junctionHang => Sys2Proof.Machine.execJunctionHang s
  | .entdaa addr => Sys2Proof.Machine.execEntdaa addr s
  | .setEndpointId b eid => Sys2Proof.Machine.execSetEndpointId b eid s
  | .getEndpointId b => Sys2Proof.Machine.execGetEndpointId b s
  | .getEndpointUuid b => Sys2Proof.Machine.execGetEndpointUuid b s
  | .getMctpVersionSupport b type => Sys2Proof.Machine.execGetMctpVersionSupport b type s
  | .getMessageTypeSupport b => Sys2Proof.Machine.execGetMessageTypeSupport b s
  | .pldmResetRequest b straps => Sys2Proof.Machine.execPldmResetRequest b straps s
  | .getSensorReading b sensor => Sys2Proof.Machine.execGetSensorReading b sensor s
  | .getStateSensorReadings b sensor => Sys2Proof.Machine.execGetStateSensorReadings b sensor s
  | .setEventReceiver b eid mode => Sys2Proof.Machine.execSetEventReceiver b eid mode s
  | .platformEventMessage b => Sys2Proof.Machine.execPlatformEventMessage b s
  | .requestUpdate b => Sys2Proof.Machine.execRequestUpdate b s
  | .passComponentTable b comps => Sys2Proof.Machine.execPassComponentTable b comps s
  | .firmwareComponentWrite b comp img => Sys2Proof.Machine.execFirmwareComponentWrite b comp img s
  | .activateFirmware b => Sys2Proof.Machine.execActivateFirmware b s
  | .getVersion b => Sys2Proof.Machine.execGetVersion b s
  | .getCapabilities b => Sys2Proof.Machine.execGetCapabilities b s
  | .negotiateAlgorithms b ecdsa384 sha384 => Sys2Proof.Machine.execNegotiateAlgorithms b ecdsa384 sha384 s
  | .getDigests b => Sys2Proof.Machine.execGetDigests b s
  | .getCertificate b slot off len => Sys2Proof.Machine.execGetCertificate b slot off len s
  | .challenge b slot nonce => Sys2Proof.Machine.execChallenge b slot nonce s
  | .getMeasurements b index sign nonce => Sys2Proof.Machine.execGetMeasurements b index sign nonce s
  | .unlockWrite rq off v => Sys2Proof.Machine.execUnlockWrite rq off v s
  | .chnJobWrite rq p v => Sys2Proof.Machine.execChnJobWrite rq p v s
  | .w1cClear rq off v => Sys2Proof.Machine.execW1cClear rq off v s
  | .registerWrite rq off size v => Sys2Proof.Machine.execRegisterWrite rq off size v s
  | .commandedPowerDown => Sys2Proof.Machine.execCommandedPowerDown s
  | .illegalOpcode mc w => Sys2Proof.Machine.execIllegalOpcode mc w s
  | .fetchFault mc => Sys2Proof.Machine.execFetchFault mc s
  | .configurationWrite f w => Sys2Proof.Machine.execConfigurationWrite f w s
  | .pcieLinkStateChange up rate width => Sys2Proof.Machine.execPcieLinkStateChange up rate width s
  | .cancelUpdate b => Sys2Proof.Machine.execCancelUpdate b s
  | .slowClockEdge => Sys2Proof.Machine.execSlowClockEdge s

end Sys2Proof.Machine
end

