-- ==== Sys2Proof/Safety.lean ====
section
/-! DEFINITION. What a sound state of the module is, and the words in which the statements say what a command leaves as it was. -/

namespace Sys2Proof.Machine

/-! ### Sound states -/

/-- The memories of a matrix core keep their canonical form. -/
def McState.memWf (m : McState) : Bool := Memory.wf m.scratch && Memory.wf m.tiles && Memory.wf m.tabFwd && Memory.wf m.tabDer

/-- The memories of a RISC-V core keep their canonical form. -/
def RvState.memWf (r : RvState) : Bool := Memory.wf r.scratch && Memory.wf r.v

/-- The memories of a saved cell context keep their canonical form. -/
def SavedCtx.memWf (x : SavedCtx) : Bool := x.mcs.all (fun e => e.2.memWf) && x.vc.memWf

/-- Every memory of bytes of the module, those of saved contexts with them, is in its canonical form. -/
def State.memWf (s : State) : Bool :=
  Memory.wf s.hbm.cells && Memory.wf s.jsram && s.mcs.all (fun e => e.2.memWf) && s.rvs.all (fun e => e.2.memWf)
    && s.parts.saved.all (fun x => x.memWf)

/-! ### Frames -/

/-- The registers whose keys the list does not name read as they did. -/
def OtherRegs (keys : List Nat) (s t : State) : Prop := ∀ k, k ∉ keys → t.reg k = s.reg k

/-- Nothing but matrix core n and the registers named differs: every other core, every memory, every unit is as it was. -/
def OnlyMatrix (n : Nat) (keys : List Nat) (s t : State) : Prop :=
  t = { s with regs := t.regs, mcs := t.mcs } ∧ OtherRegs keys s t ∧ ∀ j, j ≠ n → t.mc j = s.mc j

/-- An address is outside the space that a matrix program runs from (R147). -/
def outOfSpace (s : State) (n : Nat) (a : Int) : Bool := decide (a < 0) || decide ((s.pcLimit n : Int) ≤ a)

/-- Core n stands in RUN at the next address; the other fields of MXC_STAT and MXC_PC are as they were. -/
def AtNext (n : Nat) (next : Int) (s t : State) : Prop :=
  t.reg (mxcBase n + 8) = setFld (s.reg (mxcBase n + 8)) 0 3 1 ∧
  t.reg (mxcBase n + 0x10) = setFld (s.reg (mxcBase n + 0x10)) 0 48 (toBits next 48)

/-- An instruction of core n has issued and left the core as m, at the next address, and nothing else has changed. -/
def Issued (n : Nat) (next : Int) (m : McState) (s t : State) : Prop :=
  OnlyMatrix n [mxcBase n + 8, mxcBase n + 0x10] s t ∧ AtNext n next s t ∧ t.mc n = { m with pcOut := outOfSpace s n next }

/-- The registers in which a status flag and its counter stand. -/
def FlagHome.keys (h : FlagHome) : List Nat := [h.key, h.cntKey]

/-- Core n has refused an instruction at issue: FAULT with the code, operand and unit in MXC_FAULT, the instruction's address in
MXC_FPC, the cell's fault flag raised, and nothing else changed (R189). -/
def FaultedAtIssue (n code operand unit : Nat) (s t : State) : Prop :=
  t = { s with regs := t.regs, irq := t.irq } ∧
  OtherRegs ([mxcBase n + 8, mxcBase n + 0x18, mxcBase n + 0x20] ++ (cstatHome (n / 4) (n % 4)).keys) s t ∧
  t.reg (mxcBase n + 8) = setFld (s.reg (mxcBase n + 8)) 0 3 4 ∧
  t.reg (mxcBase n + 0x18) = BitVec.ofNat 64 (code + 256 * operand + 4096 * unit) ∧
  t.getF ⟨mxcBase n + 0x20, 0, 48⟩ = s.getF (mxcPc n) ∧
  t.getF ⟨(cstatHome (n / 4) (n % 4)).key, n % 4, 1⟩ = 1 ∧
  t.irq = { s.irq with routed := t.irq.routed }

/-- An instruction of core n with results has issued: the sticky flags of MXC_STAT that it raised are set and no flag is cleared, the
core is as m, and nothing but the core, MXC_STAT and MXC_PC has changed (R111, R194). -/
def IssuedFlags (n : Nat) (next : Int) (m : McState) (fl : AFlags) (s t : State) : Prop :=
  OnlyMatrix n [mxcBase n + 8, mxcBase n + 0x10] s t ∧
  t.getF (mxcSt n) = 1 ∧
  t.getB ⟨mxcBase n + 8, 8, 1⟩ = (fl.inv || s.getB ⟨mxcBase n + 8, 8, 1⟩) ∧
  t.getB ⟨mxcBase n + 8, 9, 1⟩ = (fl.ovf || s.getB ⟨mxcBase n + 8, 9, 1⟩) ∧
  t.getB ⟨mxcBase n + 8, 10, 1⟩ = (fl.unf || s.getB ⟨mxcBase n + 8, 10, 1⟩) ∧
  t.getF ⟨mxcBase n + 8, 3, 5⟩ = s.getF ⟨mxcBase n + 8, 3, 5⟩ ∧
  t.getF ⟨mxcBase n + 8, 11, 53⟩ = s.getF ⟨mxcBase n + 8, 11, 53⟩ ∧
  t.reg (mxcBase n + 0x10) = setFld (s.reg (mxcBase n + 0x10)) 0 48 (toBits next 48) ∧
  t.mc n = { m with pcOut := outOfSpace s n next }

/-- Nothing but RISC-V core k differs. -/
def OnlyRiscv (k : Nat) (s t : State) : Prop := t = { s with rvs := t.rvs } ∧ ∀ j, j ≠ k → t.rv j = s.rv j

/-- An instruction of len bytes of core k has completed and left the core's registers as r: the pc has moved on, nothing waits, the
count of instructions has moved on unless mcountinhibit stops it, and no CSR but those named differs. -/
def Retired (k len : Nat) (csrs : List Nat) (r : RvState) (s t : State) : Prop :=
  t.rv k = { r with pc := (s.rv k).pc + BitVec.ofNat 64 len, waiting := false, csr := (t.rv k).csr } ∧
  t.csr k 0xB02 = (if bit (s.csr k 0x320).toNat 2 then s.csr k 0xB02 else s.csr k 0xB02 + 1) ∧
  ∀ c, c ≠ 0xB02 → c ∉ csrs → t.csr k c = s.csr k c

/-- Core k has taken a trap into M mode: the return address, the cause and the value are saved, interrupts are off with their enable
kept in MPIE and the mode in MPP, the reservation is lost, and the pc is at the target. -/
def TrappedToM (k : Nat) (cause tval pc : Word) (s t : State) : Prop :=
  OnlyRiscv k s t ∧ (t.rv k).mode = .machine ∧ (t.rv k).pc = pc ∧ (t.rv k).resv = none ∧
  t.csr k 0x341 = (s.rv k).pc ∧ t.csr k 0x342 = cause ∧ t.csr k 0x343 = tval ∧
  t.csr k 0x300 = setFld (setFld (setFld (s.csr k 0x300) 7 1 (fld (s.csr k 0x300) 3 1)) 3 1 0) 11 2 (modeNo (s.rv k).mode) ∧
  (∀ c, c ∉ [0x300, 0x341, 0x342, 0x343] → t.csr k c = s.csr k c) ∧
  (t.rv k).x = (s.rv k).x ∧ (t.rv k).f = (s.rv k).f ∧ (t.rv k).v = (s.rv k).v ∧ (t.rv k).scratch = (s.rv k).scratch

/-- Nothing but the registers named differs. -/
def OnlyRegs (keys : List Nat) (s t : State) : Prop := t = { s with regs := t.regs } ∧ OtherRegs keys s t

/-- Nothing differs but the registers named, the flag of h, which is set, its counter, and the count of its source's sets (R570). -/
def OnlyRaised (keys : List Nat) (h : FlagHome) (s t : State) : Prop :=
  t = { s with regs := t.regs, irq := { s.irq with routed := t.irq.routed } } ∧ OtherRegs (keys ++ h.keys) s t ∧
  t.getB ⟨h.key, h.bitNo, 1⟩ = true

/-- Nothing but the store rooms, the stacks, reservations and what leaves at the boundary differs. -/
def OnlyMemory (s t : State) : Prop := t = { s with rooms := t.rooms, hbm := t.hbm, rvs := t.rvs, out := t.out }

/-- The record f has left, and every access that waited on it has gone on, to translate again or to fail with a class (R312, R317). -/
def RecordClosed (f : FaultRec) (retry : Bool) (cls : Nat) (s t : State) : Prop :=
  t = forEach f.waiters { s with mmu := { s.mmu with recs := s.mmu.recs.filter (fun r => r.id != f.id), prgs := s.mmu.prgs.erase f.id } }
    (fun s w => s.settleWaiter w f.id retry cls)

/-- An abort of the record f with a class is counted and shown in MMU_FLTLAST, and its ABORT record stands in the partition's buffer,
if that has room; nothing else has changed (R314, R331). -/
def AbortTold (f : FaultRec) (cls : Nat) (s t : State) : Prop :=
  t = { s with regs := t.regs, host := { s.host with events := t.host.events } } ∧
  OtherRegs [mmuBase + 0x20, mmuBase + 0x28, mmuBase + 0x30, mmuBase + 0x38, mmuBase + 0x40] s t ∧
  t.getF ⟨mmuBase + 0x20, 32, 16⟩ = satAdd (s.getF ⟨mmuBase + 0x20, 32, 16⟩) 1 16 ∧
  (∀ i, i < 4 → t.reg (mmuBase + 0x28 + 8 * i) = BitVec.ofNat 64 (ofLE ((({ f with cls := cls } : FaultRec).bytes.drop (8 * i)).take 8))) ∧
  (∀ p, p ≠ f.part → t.evts p = s.evts p) ∧
  (f.part < 16 → (s.evts f.part).buffer.length < 1024 →
    (t.evts f.part).buffer = (s.evts f.part).buffer ++
      [eventBytes 2 (s.evts f.part).seq.toNat s.mtime ({ f with cls := cls } : FaultRec).bytes])

/-- Row by row movement of queue q of cell c: descriptor i has done one more row, with a status and poison met; descriptors that are
complete leave the queue in enqueue order (R347, R348). -/
def RowDone (c q i code : Nat) (poison : Bool) (s t : State) : Prop :=
  t = (s.updDesc c q i (fun x => { x with
    rowsDone := x.rowsDone + 1
    status := BitVec.ofNat 8 (lowStatus (lowStatus x.status.toNat code) (if poison then stPoison else 0)) })).dmaSettle c q

/-- Nothing differs but what a cell DMA engine reaches: queues, memory, scratches, translations, signals, its error record. -/
def OnlyDma (s t : State) : Prop :=
  t = { s with
    freeCtr := t.freeCtr, out := t.out, regs := t.regs, mcs := t.mcs, rvs := t.rvs, rooms := t.rooms, hbm := t.hbm, mmu := t.mmu
    dma := t.dma, sync := t.sync, mesh := t.mesh, host := { s.host with kernels := t.host.kernels }
    irq := { s.irq with routed := t.irq.routed } }

/-- Nothing differs but port n and the registers named. -/
def OnlyPort (n : Nat) (keys : List Nat) (s t : State) : Prop :=
  t = { s with regs := t.regs, ports := t.ports } ∧ OtherRegs keys s t ∧ ∀ m, m ≠ n → t.port m = s.port m

/-- Port n stands in DETECT with no lane active and its link-layer state discarded; its counters and flag tell of it when it came from a
trained state; nothing else has changed (R401, R436, R583). -/
def InDetect (n : Nat) (s t : State) : Prop :=
  t = { s with regs := t.regs, ports := t.ports, irq := { s.irq with routed := t.irq.routed } } ∧
  OtherRegs ([portKey n + 8] ++ (if trained (s.pst n) then [portKey n + 0x18] ++ (pstatHome n 3).keys else [])) s t ∧
  t.reg (portKey n + 8) = setFld (setFld (setFld (setFld (s.reg (portKey n + 8)) 4 2 3) 6 4 0) 0 4 1) 11 1 0 ∧
  t.port n = { (s.port n).drop with sub := 0, backoff := false, lost := 0, record := none, agreed := none } ∧
  (trained (s.pst n) = true → t.getB ⟨(pstatHome n 3).key, 3, 1⟩ = true) ∧
  ∀ m, m ≠ n → t.port m = s.port m

/-- Port n has gone from ACTIVE to RETRAIN for a cause, leaving lanes out of its next offer and keeping its retry state; the cause is told
to the partner or not; the counter and the flag of retrains tell of it; nothing else has changed (R404, R405, R411, R436, R583). -/
def InRetrain (n cause : Nat) (lanes : BitVec 4) (tell : Bool) (s t : State) : Prop :=
  t = { s with
    regs := t.regs, ports := t.ports, irq := { s.irq with routed := t.irq.routed }
    out := s.out ++ (if tell then [.linkFlit n (mkFlit 2 (toLE 1 3 ++ toLE 1 cause))] else []) } ∧
  OtherRegs ([portKey n + 8, portKey n + 0x18] ++ (pstatHome n 2).keys) s t ∧
  t.reg (portKey n + 8) = setFld (setFld (setFld (s.reg (portKey n + 8)) 4 2 3) 6 4 0) 0 4 6 ∧
  t.getF ⟨portKey n + 0x18, 32, 8⟩ = satAdd (s.getF ⟨portKey n + 0x18, 32, 8⟩) 1 8 ∧
  t.getB ⟨(pstatHome n 2).key, 2, 1⟩ = true ∧
  t.port n = { s.port n with
    sub := 2, kept := true, lost := lanes, record := none, ctrl := [], cause := cause, backoff := false
    pmd := (t.port n).pmd, maxWidth := (t.port n).maxWidth, backupCap := (t.port n).backupCap } ∧
  ∀ m, m ≠ n → t.port m = s.port m

/-- A message of a type stands at the front of its buffer, or comes as it is on an ACTIVE port, breaks no rule of its port, and has been
taken out of the buffer, which leaves u (R395, R419, R428). -/
abbrev MsgTaken (n type : Nat) (h : BitVec 256) (pl : List Byte) (s u : State) : Prop :=
  hType h = type ∧ hRsp h = false ∧ (s.port n).behind (toLE 32 h.toNat ++ pl) = false ∧
  (((s.port n).frontVc (toLE 32 h.toNat ++ pl)).isSome = true ∨ s.pst n = 5) ∧
  u = (match (s.port n).frontVc (toLE 32 h.toNat ++ pl) with | some v => s.updPort n (fun p => p.popMsg v) | none => s) ∧
  u.msgCheck n h pl ((s.port n).frontVc (toLE 32 h.toNat ++ pl)) = none

/-- A message is answered on its port with a status and a payload; nothing but the port's queues, and what is delivered inside the module,
differs (R421, R422). -/
def Answered (n : Nat) (h : BitVec 256) (status : Nat) (pl : List Byte) (poison : Bool) (s t : State) : Prop :=
  t = s.answer n h status pl poison ∧ t = { s with ports := t.ports, out := t.out } ∧
  ((s.numbered && hSrc h == s.modNum) = false → t.out = s.out ∧ (∀ m, m ≠ n → t.port m = s.port m) ∧
    t.port n = { s.port n with txq := mset [] (s.port n).txq 1 (mget [] (s.port n).txq 1 ++
      [(if hType h = 10 then 16 else s.portPart n, toLE 32 (mkHdr (hType h + 16 + 32 * b2n poison) (pl.length / 16) (hSrc h) s.modNum
        (hJob h) (hTag h) status (hCtx h) (hA h) 0 (hC h)).toNat ++ pl)]) })

/-- A command of an opcode may start now, and every bit and byte that it does not use is zero (R507, R508). -/
abbrev CmdReady (src : CmdSrc) (c : Cmd) (op : Nat) (used : List (Nat × Nat)) (s : State) : Prop :=
  cmdOp c = op ∧ s.cmdReady src c = true ∧ cmdClean c used = true

/-- A PARTOP that may start now: of a ring of the PF's partition, its fields clean, no other under way (R530, R531). -/
abbrev PartopReady (r : Fin 1024) (c : Cmd) (op : Nat) (clean : Bool) (s : State) : Prop :=
  cmdOp c = 0x60 ∧ poOp c = op ∧ s.cmdReady (.ring r) c = true ∧ s.partopBusy = false ∧ s.ringPart r.val = 0 ∧ clean = true

/-- A command completes with a status and a result: it is open no more; of a ring, its record waits for its CQ unless it is quiet and OK,
and nothing else has changed since u (R508, R514). -/
def Completes (src : CmdSrc) (c : Cmd) (started : Bool) (status result : Nat) (u t : State) : Prop :=
  t = u.complete src c started status result ∧
  ∀ r, src = .ring r →
    t = { u with host := { u.host with open_ := u.host.open_.erase ⟨src, c, started⟩, waitRecs := t.host.waitRecs } } ∧
    (cmdQuiet c = true → status = 0 → t.host.waitRecs = u.host.waitRecs) ∧
    (cmdQuiet c = false ∨ status ≠ 0 → mget [] t.host.waitRecs (u.getF (ringCq r.val)) =
      mget [] u.host.waitRecs (u.getF (ringCq r.val)) ++ [recordBytes r.val status (cmdId c) result])

/-- A command has started and goes on from u; nothing else has changed. -/
def Starts (src : CmdSrc) (c : Cmd) (u t : State) : Prop :=
  t = u.markStarted src c ∧ t = { u with host := { u.host with open_ := t.host.open_ } }

/-- A PANTRY command of an op and index may start now, its partition p holding a weight and its context (R543, R565). -/
abbrev PantryReady (src : CmdSrc) (c : Cmd) (op i p : Nat) (s : State) : Prop :=
  CmdReady src c 0x50 [(8, 2), (0xC, 4), (0x10, 8), (0x18, 8), (0x20, 4)] s ∧ cmdB c 8 1 = op ∧ cmdB c 9 1 = i ∧ s.srcPart src = p ∧
  s.svcWt p ≠ 0 ∧ s.ctxOk (cmdCtx c) p = true

/-- A CADENCE command of an op and index may start now, from a ring of partition p, which holds a weight and its context (R543, R562). -/
abbrev CadenceReady (r : Fin 1024) (c : Cmd) (op i p : Nat) (s : State) : Prop :=
  CmdReady (.ring r) c 0x51 [(8, 2), (0xC, 4), (0x10, 8), (0x18, 32)] s ∧ cmdB c 8 1 = op ∧ cmdB c 9 1 = i ∧ i < 4 ∧ s.ringPart r.val = p ∧
  s.svcWt p ≠ 0 ∧ s.ctxOk (cmdCtx c) p = true

/-- A requester whose guard of a group stands open accesses the register k: the guard closes, and nothing else differs in u but what its
reads of k wait for (R649, R655). -/
abbrev Keyed (rq : Requester) (k g : Nat) (s u : State) : Prop := s.guardOpen rq g = true ∧ u = (s.noteWrite rq k).closeGuard rq g

/-- A management message reaches the module and is answered: its binding is up, and either the attic controller works or its boot ROM
serves the message over I3C (R612, R619, R625); u is the state once it has been received. -/
abbrev Served (b : Binding) (rom : Bool) (s u : State) : Prop :=
  s.bindingUp b = true ∧ u = s.raiseM 14 ∧ u.ctlFailed attic = false ∧ (u.romRecovery = false ∨ (rom = true ∧ b = .i3c))

/-- A message over MCTP of an endpoint that has its ID is answered. -/
abbrev ServedMctp (b : Binding) (rom : Bool) (s u : State) : Prop := Served b rom s u ∧ b ≠ .doe ∧ u.eid b ≠ 0

/-- An SPDM request is answered. -/
abbrev ServedSpdm (b : Binding) (s u : State) : Prop := Served b false s u ∧ (b = .doe ∨ u.eid b ≠ 0)

/-- The answer of a kind leaves with its fields, over I3C with an In-Band Interrupt (R625); nothing else has changed since u. -/
def Replies (b : Binding) (kind : Nat) (data : List Nat) (u t : State) : Prop :=
  t = { u with out := u.out ++ [.mgmt b kind data] ++ (if b == .i3c then [.inBandInterrupt] else []) }

end Sys2Proof.Machine
end

