-- ==== Sys2Proof/Certificates/Slice0/Obligations.lean ====
section
/-! DEFINITION. The statements about the machine, from the spec's numbered rules. -/

open Sys2Proof Sys2Proof.Machine

/-! ### Matrix cores: issue, control and keys (R146-R163) -/

/-- R160, R162: NOP, HALT, JMP, SETL, BLOOP and PSYNC complete, each with its own effect on the core and no other. R163: GLI, GADD, GLDS, ORG
and SRSET complete with the value the rule gives the register or the key, and change nothing else. -/
def Obligations.MatrixControlAndKeysComplete : Prop :=
  (∀ (mc : Fin 1920) (f : BitVec 56) (s : State), s.mcRun mc.val = true →
    (f = 0 → ∃ t, exec (.nop mc f) s = .next t ∧ Issued mc.val (s.pcAt mc.val + 8) (s.mc mc.val) s t) ∧
    (f = 0 → ∃ t, exec (.halt mc f) s = .next t ∧
      Issued mc.val (s.pcAt mc.val + 8) { s.mc mc.val with halted := true } s t) ∧
    (rsvd f [(31, 0)] = false → ∃ t, exec (.jmp mc f) s = .next t ∧
      Issued mc.val (s.pcAt mc.val + 8 * fs f 31 0) (s.mc mc.val) s t) ∧
    (rsvd f [(55, 54), (31, 0)] = false → ∃ t, exec (.setl mc f) s = .next t ∧
      Issued mc.val (s.pcAt mc.val + 8) { s.mc mc.val with loops := (t.mc mc.val).loops } s t ∧
      ∀ l, mget 0 (t.mc mc.val).loops l = if l = fb f 55 54 then BitVec.ofNat 32 (fb f 31 0) else mget 0 (s.mc mc.val).loops l) ∧
    (rsvd f [(55, 54), (31, 0)] = false → ∃ t, exec (.bloop mc f) s = .next t ∧
      Issued mc.val (s.pcAt mc.val + (if (mget 0 (s.mc mc.val).loops (fb f 55 54)).toNat ≤ 1 then 8 else 8 * fs f 31 0))
        { s.mc mc.val with loops := (t.mc mc.val).loops } s t ∧
      ∀ l, (mget 0 (t.mc mc.val).loops l).toNat =
        if l = fb f 55 54 then (mget 0 (s.mc mc.val).loops l).toNat - 1 else (mget 0 (s.mc mc.val).loops l).toNat) ∧
    (f = 0 → (s.mc mc.val).quiet = true → ∃ t, exec (.psync mc f) s = .next t ∧
      Issued mc.val (s.pcAt mc.val + 8) (s.mc mc.val) s t)) ∧
  (∀ (mc : Fin 1920) (f : BitVec 56) (s : State), s.mcRun mc.val = true →
    (rsvd f [(55, 53), (47, 0)] = false → ∃ t, exec (.gli mc f) s = .next t ∧
      Issued mc.val (s.pcAt mc.val + 8) { s.mc mc.val with g := (t.mc mc.val).g } s t ∧
      ∀ r, t.gReg mc.val r = if r = fb f 55 53 then BitVec.ofNat 64 (fb f 47 0) else s.gReg mc.val r) ∧
    (rsvd f [(55, 53), (31, 0)] = false → ∃ t, exec (.gadd mc f) s = .next t ∧
      Issued mc.val (s.pcAt mc.val + 8) { s.mc mc.val with g := (t.mc mc.val).g } s t ∧
      ∀ r, t.gReg mc.val r = if r = fb f 55 53 then s.gReg mc.val r + BitVec.ofInt 64 (fs f 31 0) else s.gReg mc.val r) ∧
    (rsvd f [(55, 53), (15, 0)] = false → ∃ t, exec (.glds mc f) s = .next t ∧
      Issued mc.val (s.pcAt mc.val + 8) { s.mc mc.val with g := (t.mc mc.val).g } s t ∧
      ∀ r, t.gReg mc.val r = if r = fb f 55 53 then BitVec.ofNat 64 (ofLE ((s.mc mc.val).scrRead (8 * fb f 15 0) 8)) else s.gReg mc.val r) ∧
    (rsvd f [(55, 53)] = false → ∃ t, exec (.org mc f) s = .next t ∧
      Issued mc.val (s.pcAt mc.val + 8) { s.mc mc.val with
        orgRow := (s.gReg mc.val (fb f 55 53)).extractLsb' 32 32, orgCol := (s.gReg mc.val (fb f 55 53)).extractLsb' 0 32 } s t) ∧
    (rsvd f [(55, 53), (52, 37), (36, 36)] = false → ∃ t, exec (.srset mc f) s = .next t ∧
      Issued mc.val (s.pcAt mc.val + 8) { s.mc mc.val with
        seed := s.gReg mc.val (fb f 55 53), stream := f.extractLsb' 37 16, swapKey := f.getLsbD 36 } s t))

/-- R146: at issue, an opcode the map does not list is refused with ILLEGAL_OPCODE, and an instruction with a reserved bit set with
ILLEGAL_ENCODING: nothing of it issues, and the core stands in FAULT with the code in MXC_FAULT. R147: a fetch outside the program's space
is FETCH_FAULT at issue, naming the program fetch. R162, R196: FCLR clears the arithmetic flags its mask selects and no other; a halted
program whose work is complete and acknowledged ends and leaves the core idle. -/
def Obligations.MatrixFaultsFlagsAndEnd : Prop :=
  (∀ (mc : Fin 1920) (w : Word) (f : BitVec 56) (s : State), s.mcRun mc.val = true →
    (opcodeOk (fld w 56 8) = false → ∃ t, exec (.illegalOpcode mc w) s = .next t ∧ FaultedAtIssue mc.val 1 0 0 s t) ∧
    (f ≠ 0 → ∃ t, exec (.nop mc f) s = .next t ∧ FaultedAtIssue mc.val 2 0 0 s t) ∧
    (f ≠ 0 → ∃ t, exec (.halt mc f) s = .next t ∧ FaultedAtIssue mc.val 2 0 0 s t) ∧
    (rsvd f [(31, 0)] = true → ∃ t, exec (.jmp mc f) s = .next t ∧ FaultedAtIssue mc.val 2 0 0 s t) ∧
    (rsvd f [(55, 53), (47, 0)] = true → ∃ t, exec (.gli mc f) s = .next t ∧ FaultedAtIssue mc.val 2 0 0 s t) ∧
    (rsvd f [(55, 44)] = true → ∃ t, exec (.lds mc f) s = .next t ∧ FaultedAtIssue mc.val 2 0 1 s t)) ∧
  (∀ (mc : Fin 1920) (s : State), s.mcLive mc.val = true → (s.mc mc.val).pcOut = true →
    ∃ t, exec (.fetchFault mc) s = .next t ∧ FaultedAtIssue mc.val 3 6 0 s t) ∧
  (∀ (mc : Fin 1920) (f : BitVec 56) (s : State),
    (s.mcRun mc.val = true → rsvd f [(2, 0)] = false → (s.mc mc.val).arrayQuiet = true → (s.mc mc.val).moverFree = true →
      ∃ t, exec (.fclr mc f) s = .next t ∧ OnlyMatrix mc.val [mxcBase mc.val + 8, mxcBase mc.val + 0x10] s t ∧
        t.mc mc.val = { s.mc mc.val with pcOut := outOfSpace s mc.val (s.pcAt mc.val + 8) } ∧
        t.getF (mxcSt mc.val) = 1 ∧ t.getF (mxcPc mc.val) = toBits (s.pcAt mc.val + 8) 48 ∧
        (∀ i, i < 3 → t.getF ⟨mxcBase mc.val + 8, 8 + i, 1⟩ = if fbit f i then 0 else s.getF ⟨mxcBase mc.val + 8, 8 + i, 1⟩) ∧
        (∀ lo len, 3 ≤ lo ∧ lo + len ≤ 8 ∨ 11 ≤ lo → t.getF ⟨mxcBase mc.val + 8, lo, len⟩ = s.getF ⟨mxcBase mc.val + 8, lo, len⟩) ∧
        (∀ lo len, 48 ≤ lo → t.getF ⟨mxcBase mc.val + 0x10, lo, len⟩ = s.getF ⟨mxcBase mc.val + 0x10, lo, len⟩)) ∧
    ((s.mc mc.val).launched = true → (s.mc mc.val).halted = true → (s.mc mc.val).ended = false → s.drained mc.val = true →
      s.getF (mxcSt mc.val) = 1 ∨ s.getF (mxcSt mc.val) = 2 → s.getB (mxcStopF mc.val) = false →
      ∃ t, exec (.programComplete mc) s = .next t ∧ OnlyMatrix mc.val [mxcBase mc.val + 8] s t ∧
        t.reg (mxcBase mc.val + 8) = setFld (s.reg (mxcBase mc.val + 8)) 0 3 0 ∧ t.mc mc.val = { s.mc mc.val with ended := true }))

/-! ### Matrix cores: tile configuration, tables, flags, completion (R152-R155, R162, R183, R196) -/

/-- R155: TCFG waits while an earlier read or write of its register is not done; it changes only the configuration of its register; a refused
one, for a reserved field or a check of the table, leaves every configuration and every byte as it was. -/
def Obligations.TileConfigurationChangesOnlyItself : Prop :=
  ∀ (mc : Fin 1920) (f : BitVec 56) (s : State), s.mcRun mc.val = true →
    (rsvd f [(55, 25)] = true ∨ (tcfgOf f).layout = 3 ∨ (tcfgOf f).bgrp = 3 →
      ∃ t, exec (.tcfg mc f) s = .next t ∧ FaultedAtIssue mc.val 2 0 0 s t) ∧
    (rsvd f [(55, 25)] = false → (tcfgOf f).layout ≠ 3 → (tcfgOf f).bgrp ≠ 3 →
      ((s.mc mc.val).tileWr (fb f 55 52) = false → exec (.tcfg mc f) s = .next s) ∧
      ((s.mc mc.val).tileWr (fb f 55 52) = true →
        (tcfgCheck (tcfgOf f) = none → ∃ t, exec (.tcfg mc f) s = .next t ∧
          Issued mc.val (s.pcAt mc.val + 8) { s.mc mc.val with cfg := (t.mc mc.val).cfg } s t ∧
          ∀ r, (t.mc mc.val).cfgOf r = if r = fb f 55 52 then some (tcfgOf f) else (s.mc mc.val).cfgOf r) ∧
        (∀ code op, tcfgCheck (tcfgOf f) = some (code, op) → ∃ t, exec (.tcfg mc f) s = .next t ∧
          FaultedAtIssue mc.val code op 0 s t)))

/-- R183: TTBL writes bytes 0 to 3,135 of Ta into the table it selects and leaves the other table; a refused image is TABLE_IMAGE at issue and
changes no table. R166: DMAQ places the 64 B of its descriptor, as they stand at issue, at the end of the core's queue, and goes on; while
the queue is full it does not issue and the core waits. R184, R375, R376: a participant that has no barrier ahead of it enters: an entry of
its next generation names the counter that counts the release, and the core goes on. -/
def Obligations.TablesDescriptorsAndBarrierEntries : Prop :=
  (∀ (mc : Fin 1920) (f : BitVec 56) (s : State) (c : TileCfg), s.mcRun mc.val = true → rsvd f [(55, 52), (51, 51)] = false →
    (s.mc mc.val).tileRd (fb f 55 52) = true → (s.mc mc.val).cfgOf (fb f 55 52) = some c → c.isRow = true → 3136 ≤ c.rows * c.rs →
    (tableOk ((s.mc mc.val).tileBytes (fb f 55 52) 0 3136) = true → ∃ t, exec (.ttbl mc f) s = .next t ∧
      Issued mc.val (s.pcAt mc.val + 8) { s.mc mc.val with tabFwd := (t.mc mc.val).tabFwd, tabDer := (t.mc mc.val).tabDer } s t ∧
      (fbit f 51 = false → readBytes (t.mc mc.val).tabFwd 0 3136 = (s.mc mc.val).tileBytes (fb f 55 52) 0 3136 ∧
        (t.mc mc.val).tabDer = (s.mc mc.val).tabDer) ∧
      (fbit f 51 = true → readBytes (t.mc mc.val).tabDer 0 3136 = (s.mc mc.val).tileBytes (fb f 55 52) 0 3136 ∧
        (t.mc mc.val).tabFwd = (s.mc mc.val).tabFwd)) ∧
    (tableOk ((s.mc mc.val).tileBytes (fb f 55 52) 0 3136) = false → ∃ t, exec (.ttbl mc f) s = .next t ∧
      FaultedAtIssue mc.val 0x30 1 2 s t)) ∧
  (∀ (mc : Fin 1920) (f : BitVec 56) (s : State) (w : BitVec 512), s.mcRun mc.val = true → rsvd f [(55, 43)] = false →
    w = BitVec.ofNat 512 (ofLE ((s.mc mc.val).scrRead (64 * fb f 55 43) 64)) →
    (s.dmaRoom (mc.val / 4) (mc.val % 4) = true → ∃ t, exec (.dmaq mc f) s = .next t ∧
      t = ((s.putF (mxcSt mc.val) 1).dmaEnqueue (mc.val / 4) (mc.val % 4) w).goTo mc.val (s.pcAt mc.val + 8)) ∧
    (s.dmaRoom (mc.val / 4) (mc.val % 4) = false → ∃ t, exec (.dmaq mc f) s = .next t ∧
      OnlyMatrix mc.val [mxcBase mc.val + 8] s t ∧ t.mc mc.val = s.mc mc.val ∧
      t.reg (mxcBase mc.val + 8) = setFld (s.reg (mxcBase mc.val + 8)) 0 3 2)) ∧
  (∀ (mc : Fin 1920) (f : BitVec 56) (s t0 : State), s.mcRun mc.val = true → rsvd f [(55, 46), (45, 41)] = false → s.drained mc.val = true →
    s.pendOn (mcKey mc.val) (fb f 45 41) = false →
    (s.barEnter ⟨false, mc.val⟩ (s.cellPart (mc.val / 4)) (fb f 55 46) (fb f 45 41)) = .entered t0 →
    ∃ t, exec (.sbar mc f) s = .next t ∧
      t = { s with regs := t.regs, mcs := t.mcs, sync := t.sync } ∧
      OtherRegs [mxcBase mc.val + 8, mxcBase mc.val + 0x10] s t ∧ AtNext mc.val (s.pcAt mc.val + 8) s t ∧
      (t.syncOf (mcKey mc.val)).bars = (t0.syncOf (mcKey mc.val)).bars ∧ t.sync.arrivals = t0.sync.arrivals)

/-! ### Matrix cores: accumulators (R133-R135, R175-R177) -/

/-- R134, R175, R177: ACLR zero-marks and tags its tiles and no other; ASPL and AFIL hand their operation, with the base the rule gives, to the
mover. R176: ARD converts each window row of its accumulator tile into the register, row by row, and with clr set zero-marks the tile; AWR
widens the window into the tile, sets its tag. Each sets the flags its conversions raise. -/
def Obligations.AccumulatorInstructionsComplete : Prop :=
  (∀ (mc : Fin 1920) (f : BitVec 56) (s : State), s.mcRun mc.val = true → (s.mc mc.val).moverFree = true →
    (rsvd f [(55, 50), (49, 44), (43, 43)] = false → fb f 55 50 + fb f 49 44 + 1 ≤ 64 →
      (s.mc mc.val).accFree (fb f 55 50) (fb f 49 44 + 1) = true →
      ∃ t, exec (.aclr mc f) s = .next t ∧
        Issued mc.val (s.pcAt mc.val + 8)
          { s.mc mc.val with zero := (t.mc mc.val).zero, tag := (t.mc mc.val).tag, guard := false } s t ∧
        ∀ a, (fb f 55 50 ≤ a ∧ a < fb f 55 50 + fb f 49 44 + 1 →
            (t.mc mc.val).intTag a = fbit f 43 ∧ ∀ i j, i < 32 → (t.mc mc.val).accAt a i j = 0) ∧
          (a < fb f 55 50 ∨ fb f 55 50 + fb f 49 44 + 1 ≤ a →
            (t.mc mc.val).intTag a = (s.mc mc.val).intTag a ∧
            ∀ i j, i < 32 → (t.mc mc.val).accAt a i j = (s.mc mc.val).accAt a i j)) ∧
    (rsvd f [(55, 50), (49, 47), (46, 44), (43, 20)] = false → fb f 55 50 + fb f 49 47 + 1 ≤ 64 →
      (s.mc mc.val).accFree (fb f 55 50) (fb f 49 47 + 1) = true →
      ∃ t o, exec (.aspl mc f) s = .next t ∧
        Issued mc.val (s.pcAt mc.val + 8)
          { s.mc mc.val with ops := (s.mc mc.val).ops ++ [o], nextOp := (s.mc mc.val).nextOp + 1, guard := false } s t ∧
        o.id = (s.mc mc.val).nextOp ∧ o.kind = .aspl ∧ o.reg = fb f 55 50 ∧ o.rows = fb f 49 47 + 1 ∧ o.done = 0 ∧
        o.base = (s.gReg mc.val (fb f 46 44) + BitVec.ofInt 64 (fs f 43 20)).toNat ∧ o.stride = 4096 ∧ o.rowBytes = 4096 ∧
        o.data = (upTo (fb f 49 47 + 1)).flatMap (fun i => (s.mc mc.val).accImage (fb f 55 50 + i))) ∧
    (rsvd f [(55, 50), (49, 47), (46, 44), (43, 20), (19, 19)] = false → fb f 55 50 + fb f 49 47 + 1 ≤ 64 →
      (s.mc mc.val).accFree (fb f 55 50) (fb f 49 47 + 1) = true →
      ∃ t o, exec (.afil mc f) s = .next t ∧
        Issued mc.val (s.pcAt mc.val + 8)
          { s.mc mc.val with ops := (s.mc mc.val).ops ++ [o], nextOp := (s.mc mc.val).nextOp + 1 } s t ∧
        o.id = (s.mc mc.val).nextOp ∧ o.kind = .afil ∧ o.reg = fb f 55 50 ∧ o.rows = fb f 49 47 + 1 ∧ o.done = 0 ∧
        o.base = (s.gReg mc.val (fb f 46 44) + BitVec.ofInt 64 (fs f 43 20)).toNat ∧ o.stride = 4096 ∧ o.tag = fbit f 19)) ∧
  (∀ (mc : Fin 1920) (f : BitVec 56) (s : State) (c : TileCfg), s.mcRun mc.val = true → (s.mc mc.val).moverFree = true →
    (s.mc mc.val).cfgOf (fb f 55 52) = some c → (s.mc mc.val).accFree (fb f 51 46) 1 = true →
    (rsvd f [(55, 52), (51, 46), (45, 45), (44, 43), (42, 42), (41, 41), (40, 40), (39, 39)] = false →
      (s.mc mc.val).tileWr (fb f 55 52) = true →
      ardCheck (some c) ((s.mc mc.val).intTag (fb f 51 46)) (fbit f 42) (fb f 45 45) (fb f 44 43) = none →
      ∃ t r, exec (.ard mc f) s = .next t ∧
        r = (upTo 32).foldl (fun (z : MoveRes) i =>
          ⟨(z.m.ardRow (fb f 55 52) (fb f 51 46) c (fb f 45 45) (fb f 44 43) i (fbit f 42) (fbit f 41) (fbit f 40)).m,
           z.fl.or (z.m.ardRow (fb f 55 52) (fb f 51 46) c (fb f 45 45) (fb f 44 43) i (fbit f 42) (fbit f 41) (fbit f 40)).fl⟩)
          ⟨s.mc mc.val, {}⟩ ∧
        IssuedFlags mc.val (s.pcAt mc.val + 8)
          { (if fbit f 39 then r.m.clearAcc (fb f 51 46) (r.m.intTag (fb f 51 46)) else r.m) with guard := false } r.fl s t) ∧
    (rsvd f [(55, 52), (51, 46), (45, 45), (44, 43), (42, 42)] = false →
      (s.mc mc.val).tileRd (fb f 55 52) = true → awrCheck (some c) (fbit f 42) (fb f 45 45) (fb f 44 43) = none →
      ∃ t fl, exec (.awr mc f) s = .next t ∧
        IssuedFlags mc.val (s.pcAt mc.val + 8)
          { s.mc mc.val with acc := (t.mc mc.val).acc, zero := (t.mc mc.val).zero, tag := (t.mc mc.val).tag,
                             badAcc := (t.mc mc.val).badAcc, guard := false } fl s t ∧
        (t.mc mc.val).intTag (fb f 51 46) = fbit f 42 ∧
        ∀ a, a ≠ fb f 51 46 → (t.mc mc.val).intTag a = (s.mc mc.val).intTag a ∧
          ∀ i j, i < 32 → j < 32 → (t.mc mc.val).accAt a i j = (s.mc mc.val).accAt a i j))

/-- R135, R168, R171, R173: MMA queues its passes and, with init 1, zero-marks and tags its tiles; a pass starts with the operands of the oldest
matrix product that has one left, and the pass completed is written back; the guard stands while the array works. -/
def Obligations.MatrixProductsComplete : Prop :=
  ∀ (mc : Fin 1920) (f : BitVec 56) (s : State), 
    (∀ j : MmaJob, s.mcRun mc.val = true →
      rsvd f [(55, 42), (41, 36), (35, 35), (34, 34), (33, 33), (32, 32), (31, 28), (27, 24), (23, 20)] = false →
      j = ⟨s.reg (mxcBase mc.val + 0x10) &&& maskW 0 48, (s.mc mc.val).scrNat (32 * fb f 55 42) 64, fb f 41 36, fbit f 35, fbit f 33,
        if fbit f 32 then some (fb f 31 28) else none, fb f 27 24, fb f 23 20, 0, 0⟩ →
      (s.mc mc.val).lds = none → (s.mc mc.val).jobs = [] → (s.mc mc.val).ops = [] →
      (s.mc mc.val).mmaCheck j (fbit f 34) (decide (32 * fb f 55 42 + 64 ≤ scratchSize)) = none →
      ∃ t, exec (.mma mc f) s = .next t ∧
        Issued mc.val (s.pcAt mc.val + 8)
          { s.mc mc.val with jobs := [j], zero := (t.mc mc.val).zero, tag := (t.mc mc.val).tag } s t ∧
        (fbit f 34 = false → (t.mc mc.val).zero = (s.mc mc.val).zero ∧ (t.mc mc.val).tag = (s.mc mc.val).tag) ∧
        (fbit f 34 = true → ∀ a, j.abase ≤ a → a < j.abase + j.tiles →
          (t.mc mc.val).intTag a = fmtInt j.fmtA ∧ ∀ i k, i < 32 → (t.mc mc.val).accAt a i k = 0)) ∧
    (∀ (j : MmaJob) (l : List MmaJob), s.arrayGoes mc.val = true → (s.mc mc.val).guard = false → (s.mc mc.val).jobs = j :: l →
      j.begun < j.total → (s.mc mc.val).passes = [] →
      ∃ t, exec (.arrayPassStart mc) s = .next t ∧ OnlyMatrix mc.val [] s t ∧
        t.mc mc.val = { s.mc mc.val with
          passes := [(s.mc mc.val).mmaPass j], jobs := (t.mc mc.val).jobs } ∧
        (t.mc mc.val).jobs.head? = some { j with begun := j.begun + 1 }) ∧
    (∀ (p : ArrayPass) (l : List ArrayPass) (j : MmaJob) (js : List MmaJob), (s.mc mc.val).passes = p :: l → p.lds = false →
      (s.mc mc.val).jobs = j :: js →
      ∃ t, exec (.arrayPassComplete mc) s = .next t ∧ OnlyMatrix mc.val [mxcBase mc.val + 8] s t ∧
        t.mc mc.val = { ((s.mc mc.val).runPass p).m with
          passes := l, jobs := if j.ended + 1 = j.total then js else { j with ended := j.ended + 1 } :: js } ∧
        t.getF (mxcSt mc.val) = s.getF (mxcSt mc.val)) ∧
    ((s.mc mc.val).arrayQuiet = false → ∃ t, exec (.accStarvationGuard mc) s = .next t ∧ OnlyMatrix mc.val [] s t ∧
      t.mc mc.val = { s.mc mc.val with guard := true })

/-! ### Matrix cores: loop descriptors (R200, R208, R210, R213-R215) -/

/-- R200, R213, R214: LDS copies its descriptor at issue; a descriptor that breaks a check is LDS_DESCRIPTOR, one that overcommits under STRICT
is ACC_OVERCOMMIT, and neither changes the core. R210, R215: an output tile that is not resident takes a free group, zero-marked at its
first pass; a tile that has drained is zero-marked and free. The bytes of a drain area are free values (log entry 24). -/
def Obligations.LoopDescriptorsComplete : Prop :=
  (∀ (mc : Fin 1920) (f : BitVec 56) (s : State) (l : LdsState), s.mcRun mc.val = true → rsvd f [(55, 44)] = false →
    l = ldsStart (s.reg (mxcBase mc.val + 0x10) &&& maskW 0 48) (ofLE ((s.mc mc.val).scrRead (128 * fb f 55 44) 128))
      (s.mc mc.val).maskLoads (s.mc mc.val).mask →
    (s.mc mc.val).arrayQuiet = true → (s.mc mc.val).accFree l.base l.cnt = true →
    (l.valid = true → s.getB (mxcStrict mc.val) = false ∨ l.live ≤ l.cnt → ∃ t, exec (.lds mc f) s = .next t ∧
      Issued mc.val (s.pcAt mc.val + 8) { s.mc mc.val with lds := some l } s t) ∧
    (l.valid = false → ∃ t, exec (.lds mc f) s = .next t ∧ FaultedAtIssue mc.val 0x41 0 1 s t) ∧
    (l.valid = true → s.getB (mxcStrict mc.val) = true → l.cnt < l.live → ∃ t, exec (.lds mc f) s = .next t ∧
      FaultedAtIssue mc.val 0x40 0 1 s t)) ∧
  (∀ (mc : Fin 1920) (s : State) (l : LdsState), s.arrayGoes mc.val = true → (s.mc mc.val).lds = some l → l.held = none →
    (∀ mi ni k, l.active = true → l.needs = some (mi, ni) → l.slotFor (s.mc mc.val).passes mi ni = .free k →
      l.spilled.contains (mi, ni) = false → l.cInit = false →
      ∃ t, exec (.ldsSpill mc) s = .next t ∧ OnlyMatrix mc.val [] s t ∧
        t.mc mc.val = { s.mc mc.val with
          zero := (t.mc mc.val).zero, tag := (t.mc mc.val).tag, guard := false,
          lds := some { l with groups := l.groups ++ [⟨k, mi, ni, false, l.clock⟩], clock := l.clock + 1 } } ∧
        ∀ a, l.tileOf k ≤ a → a < l.tileOf k + l.u →
          (t.mc mc.val).intTag a = l.int ∧ ∀ i j, i < 32 → (t.mc mc.val).accAt a i j = 0) ∧
    (∀ g, l.groups.find? (·.draining) = some g → l.keepC = true → l.active = true →
      ∃ t, exec (.ldsDrain mc) s = .next t ∧ OnlyMatrix mc.val [] s t ∧
        t.mc mc.val = { s.mc mc.val with lds := some { l with groups := l.groups.filter (fun h => h != g) } }) ∧
    (∀ g, l.groups.find? (·.draining) = some g → l.keepC = false → l.gmask = false →
      (((s.liftGuard mc.val).freeDrain mc.val l).drainRows mc.val l g (l.cRows g.mi g.ni).zipIdx).2 = true →
      ∃ t, exec (.ldsDrain mc) s = .next t ∧
        t = { s with freeCtr := t.freeCtr, out := t.out, regs := t.regs, mcs := t.mcs, rvs := t.rvs, rooms := t.rooms, hbm := t.hbm, mmu := t.mmu } ∧
        (∀ a, l.tileOf g.slot ≤ a → a < l.tileOf g.slot + l.u → ∀ i j, i < 32 → (t.mc mc.val).accAt a i j = 0) ∧
        ∀ m, (t.mc mc.val).lds = some m → g ∉ m.groups))

/-! ### Matrix cores: tile movement (R164-R166, R177, R321, R322) -/

/-- R164, R165: TLD and TST hand their rows, with the base, stride and row size the rule gives, to the requester; TST reads its bytes at issue.
Only the forms that move to and from memory are stated here. R165, R322: a row of a TLD that memory answers stands in its register; a row of
a TST whose write is done counts as done. -/
def Obligations.TileMovesComplete : Prop :=
  (∀ (mc : Fin 1920) (f : BitVec 56) (s : State) (c : TileCfg), s.mcRun mc.val = true → rsvd f moveFields = false →
    (s.mc mc.val).cfgOf (fb f 55 52) = some c → fbit f 4 = false → (fbit f 3 = true → c.bgrp ≠ 0) →
    (fbit f 2 = false → (s.mc mc.val).tileWr (fb f 55 52) = true →
      ∃ t o, exec (.tld mc f) s = .next t ∧
        Issued mc.val (s.pcAt mc.val + 8)
          { s.mc mc.val with ops := (s.mc mc.val).ops ++ [o], nextOp := (s.mc mc.val).nextOp + 1 } s t ∧
        o.id = (s.mc mc.val).nextOp ∧ o.kind = .tld ∧ o.reg = fb f 55 52 ∧ o.scratch = false ∧ o.done = 0 ∧
        o.base = (s.gReg mc.val (fb f 51 49) + BitVec.ofInt 64 (fs f 28 5)).toNat ∧
        o.stride = (if fb f 48 29 = 0 then c.rs else fb f 48 29) ∧
        (fbit f 3 = false → o.rows = c.rows ∧ o.rowBytes = c.rs) ∧
        (fbit f 3 = true → c.bgrp = 1 → o.rows = c.rows ∧ o.rowBytes = c.cols / 32) ∧
        (fbit f 3 = true → c.bgrp = 2 → o.rows = c.rows / 32 ∧ o.rowBytes = c.cols)) ∧
    ((s.mc mc.val).tileRd (fb f 55 52) = true →
      ∃ t o, exec (.tst mc f) s = .next t ∧
        Issued mc.val (s.pcAt mc.val + 8)
          { s.mc mc.val with ops := (s.mc mc.val).ops ++ [o], nextOp := (s.mc mc.val).nextOp + 1 } s t ∧
        o.id = (s.mc mc.val).nextOp ∧ o.kind = .tst ∧ o.reg = fb f 55 52 ∧ o.scratch = false ∧ o.done = 0 ∧
        o.base = (s.gReg mc.val (fb f 51 49) + BitVec.ofInt 64 (fs f 28 5)).toNat ∧
        o.stride = (if fb f 48 29 = 0 then c.rs else fb f 48 29) ∧ o.mask.isSome = fbit f 2 ∧
        o.data = (s.mc mc.val).tileBytes (fb f 55 52) o.img (o.rows * o.rowBytes) ∧
        (fbit f 3 = false → o.rows = c.rows ∧ o.rowBytes = c.rs ∧ o.img = 0) ∧
        (fbit f 3 = true → c.bgrp = 1 → o.rows = c.rows ∧ o.rowBytes = c.cols / 32 ∧ o.img = c.rows * c.rs) ∧
        (fbit f 3 = true → c.bgrp = 2 → o.rows = c.rows / 32 ∧ o.rowBytes = c.cols ∧ o.img = c.rows * c.rs))) ∧
  (∀ (mc : Fin 1920) (id : Nat) (s : State) (o : TileOp), s.mcWorks mc.val = true → (s.mc mc.val).opOf id = some o → o.scratch = false →
    (∀ row bs, o.kind = .tld → o.done ≤ row → row < o.rows → (s.mc mc.val).rowFree o (o.rowAt row) = true →
      (s.vRead (mcUnit mc.val) (s.mc mc.val).ctx (s.mcPart mc.val) (o.rowAt row) o.rowBytes .read (some (.tileOp mc.val o.id))).o
        = .done bs false →
      ∃ t x, x = s.vRead (mcUnit mc.val) (s.mc mc.val).ctx (s.mcPart mc.val) (o.rowAt row) o.rowBytes .read (some (.tileOp mc.val o.id)) ∧
        exec (.tileRowArrival mc id row) s = .next t ∧ OnlyMatrix mc.val [] x.st t ∧
        t.mc mc.val = { x.st.mc mc.val with tiles := (t.mc mc.val).tiles, badTiles := (t.mc mc.val).badTiles, ops := (t.mc mc.val).ops } ∧
        (∀ i, i < bs.length → mget 0 (t.mc mc.val).tiles (4096 * o.reg + (o.img + row * o.rowBytes) + i) = bs.getD i 0) ∧
        ∀ a, a < 4096 * o.reg + (o.img + row * o.rowBytes) ∨ 4096 * o.reg + (o.img + row * o.rowBytes) + bs.length ≤ a →
          mget 0 (t.mc mc.val).tiles a = mget 0 (x.st.mc mc.val).tiles a) ∧
    (∀ d p, o.kind = .tst → o.held = none → o.mask = none → o.bad = [] → (s.mc mc.val).rowFree o (o.rowAt o.done) = true →
      (s.vWriteKept (mcUnit mc.val) (s.mc mc.val).ctx (s.mcPart mc.val) (o.rowAt o.done)
        ((o.data.drop (o.done * o.rowBytes)).take o.rowBytes)
        (keptRuns (o.rowAt o.done) (List.replicate ((o.data.drop (o.done * o.rowBytes)).take o.rowBytes).length true) 0) noCore
        (some (.tileOp mc.val o.id))).o = .done d p →
      ∃ t x, x = s.vWriteKept (mcUnit mc.val) (s.mc mc.val).ctx (s.mcPart mc.val) (o.rowAt o.done)
          ((o.data.drop (o.done * o.rowBytes)).take o.rowBytes)
          (keptRuns (o.rowAt o.done) (List.replicate ((o.data.drop (o.done * o.rowBytes)).take o.rowBytes).length true) 0) noCore
          (some (.tileOp mc.val o.id)) ∧
        exec (.tileWriteAck mc id) s = .next t ∧ OnlyMatrix mc.val [] x.st t ∧
        t.mc mc.val = { x.st.mc mc.val with ops :=
          (if o.done + 1 = o.rows then (x.st.mc mc.val).ops.filter (fun y => y.id != o.id)
          else mapWhere (x.st.mc mc.val).ops (fun y => y.id == o.id) (fun y => { y with done := y.done + 1 })) }))

/-! ### Matrix cores: row threads (R178-R182, R225, R234) -/

/-- R178, R179, R181, R182: TEW, TACT, TDER and TMSK complete with each element of Td the conversion of the operation's result, the flags their
operands and conversions raise, and no other change. R182, R234: TQNT completes with the conversion of Ta to Td's format, and adds to its
overflow counter the elements it converted, those not finite and those that saturated. -/
def Obligations.RowThreadsAndQuantiseComplete : Prop :=
  (∀ (mc : Fin 1920) (f : BitVec 56) (s : State) (d a : TileCfg), s.mcRun mc.val = true →
    (s.mc mc.val).cfgOf (fb f 55 52) = some d → (s.mc mc.val).cfgOf (fb f 51 48) = some a →
    (s.mc mc.val).tileWr (fb f 55 52) = true → (s.mc mc.val).tileRd (fb f 51 48) = true →
    (∀ ga gd r, rsvd f [(55, 52), (51, 48), (43, 40), (39, 39), (38, 38), (37, 37)] = false → 6 ≤ fb f 43 40 → fb f 43 40 ≤ 9 →
      rowCheck [⟨some d, 1, false⟩, ⟨some a, 2, true⟩] (some d) (some a) none false true (fbit f 39) = none →
      ga = (s.mc mc.val).grid (fb f 51 48) a (fbit f 37) → gd = Grid.one ⟨0, {}⟩ →
      r = (s.mc mc.val).emit (fb f 55 52) d (fbit f 39) (fbit f 38) (fbit f 37) (fun i j => tewOp (fb f 43 40) (ga.at i j).x 0 0) →
      ∃ t, exec (.tew mc f) s = .next t ∧ IssuedFlags mc.val (s.pcAt mc.val + 8) r.m (r.fl.or ga.fl) s t) ∧
    (∀ b ga gb gd r, rsvd f [(55, 52), (51, 48), (47, 44), (43, 40), (39, 39), (38, 38), (37, 37)] = false → fb f 43 40 ≤ 5 →
      (s.mc mc.val).cfgOf (fb f 47 44) = some b → (s.mc mc.val).tileRd (fb f 47 44) = true →
      rowCheck [⟨some d, 1, fb f 43 40 == 5⟩, ⟨some a, 2, true⟩, ⟨some b, 3, true⟩] (some d) (some a) (some b) false true (fbit f 39) = none →
      ga = (s.mc mc.val).grid (fb f 51 48) a (fbit f 37) → gb = (s.mc mc.val).grid (fb f 47 44) b (fbit f 37) →
      gd = (if fb f 43 40 = 5 then (s.mc mc.val).grid (fb f 55 52) d (fbit f 37) else Grid.one ⟨0, {}⟩) →
      r = (s.mc mc.val).emit (fb f 55 52) d (fbit f 39) (fbit f 38) (fbit f 37)
        (fun i j => tewOp (fb f 43 40) (ga.at i j).x (gb.at i j).x (gd.at i j).x) →
      ∃ t, exec (.tew mc f) s = .next t ∧
        IssuedFlags mc.val (s.pcAt mc.val + 8) r.m (((r.fl.or ga.fl).or gb.fl).or gd.fl) s t) ∧
    (∀ ga r, rsvd f [(55, 52), (51, 48), (39, 39), (38, 38), (37, 37)] = false →
      rowCheck [⟨some d, 1, false⟩, ⟨some a, 2, true⟩] (some d) (some a) none false false (fbit f 39) = none →
      ga = (s.mc mc.val).grid (fb f 51 48) a (fbit f 37) →
      r = (s.mc mc.val).emit (fb f 55 52) d (fbit f 39) (fbit f 38) (fbit f 37)
        (fun i j => tableEval ((s.mc mc.val).table false) (ga.at i j).x) →
      ∃ t, exec (.tact mc f) s = .next t ∧ IssuedFlags mc.val (s.pcAt mc.val + 8) r.m (r.fl.or ga.fl) s t) ∧
    (∀ b ga gb r, rsvd f [(55, 52), (51, 48), (47, 44), (39, 39), (38, 38), (37, 37)] = false →
      (s.mc mc.val).cfgOf (fb f 47 44) = some b → (s.mc mc.val).tileRd (fb f 47 44) = true →
      rowCheck [⟨some d, 1, false⟩, ⟨some a, 2, true⟩, ⟨some b, 3, true⟩] (some d) (some a) (some b) false false (fbit f 39) = none →
      ga = (s.mc mc.val).grid (fb f 51 48) a (fbit f 37) → gb = (s.mc mc.val).grid (fb f 47 44) b (fbit f 37) →
      r = (s.mc mc.val).emit (fb f 55 52) d (fbit f 39) (fbit f 38) (fbit f 37)
        (fun i j => tderEl ((s.mc mc.val).table true) (ga.at i j).x (gb.at i j).x) →
      ∃ t, exec (.tder mc f) s = .next t ∧ IssuedFlags mc.val (s.pcAt mc.val + 8) r.m ((r.fl.or ga.fl).or gb.fl) s t) ∧
    (∀ ga r, rsvd f [(55, 52), (51, 48), (43, 42), (41, 41), (40, 40), (31, 0)] = false → fb f 43 42 < 2 →
      rowCheck [⟨some d, 1, false⟩, ⟨some a, 2, true⟩] (some d) (some a) none false false false = none →
      ga = (s.mc mc.val).grid (fb f 51 48) a false →
      r = (s.mc mc.val).emit (fb f 55 52) d false (fbit f 40) false
        (fun i j => if tmskMasked (fb f 43 42) (fs f 31 0) (sext (s.mc mc.val).orgRow.toNat 32 + i) (sext (s.mc mc.val).orgCol.toNat 32 + j) 0
          then ⟨if fbit f 41 then 0xFF800000 else 0, {}⟩ else ⟨(ga.at i j).x, {}⟩) →
      ∃ t, exec (.tmsk mc f) s = .next t ∧ IssuedFlags mc.val (s.pcAt mc.val + 8) r.m (r.fl.or ga.fl) s t)) ∧
  (∀ (mc : Fin 1920) (f : BitVec 56) (s : State) (d a : TileCfg) (ga : Grid) (r : RowsRes), s.mcRun mc.val = true →
    (s.mc mc.val).cfgOf (fb f 55 52) = some d → (s.mc mc.val).cfgOf (fb f 51 48) = some a →
    (s.mc mc.val).tileWr (fb f 55 52) = true → (s.mc mc.val).tileRd (fb f 51 48) = true →
    rsvd f [(55, 52), (51, 48), (43, 41), (39, 39), (38, 38), (37, 37)] = false →
    rowCheck [⟨some d, 1, false⟩, ⟨some a, 2, true⟩] (some d) (some a) none true false (fbit f 39) = none →
    ga = (s.mc mc.val).grid (fb f 51 48) a (fbit f 37) →
    r = (s.mc mc.val).emit (fb f 55 52) d (fbit f 39) (fbit f 38) (fbit f 37) (fun i j => ⟨(ga.at i j).x, {}⟩) →
    ∃ t, exec (.tqnt mc f) s = .next t ∧
      OnlyMatrix mc.val ([mxcBase mc.val + 8, mxcBase mc.val + 0x10] ++
        [mxqBase mc.val + 0x20 * fb f 43 41, mxqBase mc.val + 0x20 * fb f 43 41 + 8, mxqBase mc.val + 0x20 * fb f 43 41 + 0x10]) s t ∧
      t.mc mc.val = { r.m with pcOut := outOfSpace s mc.val (s.pcAt mc.val + 8) } ∧
      t.getF (mxcSt mc.val) = 1 ∧ t.getF (mxcPc mc.val) = toBits (s.pcAt mc.val + 8) 48 ∧
      t.getF ⟨mxqBase mc.val + 0x20 * fb f 43 41, 0, 32⟩ =
        min (s.getF ⟨mxqBase mc.val + 0x20 * fb f 43 41, 0, 32⟩ + r.sats) (2 ^ 32 - 1) ∧
      t.getF ⟨mxqBase mc.val + 0x20 * fb f 43 41, 32, 32⟩ =
        min (s.getF ⟨mxqBase mc.val + 0x20 * fb f 43 41, 32, 32⟩ +
          (((upTo a.rows).flatMap (fun i => (upTo a.cols).map (fun j => (ga.at i j).x))).filter
            (fun x => (f32 x).isNan || (f32 x).isInf)).length) (2 ^ 32 - 1) ∧
      t.getF ⟨mxqBase mc.val + 0x20 * fb f 43 41 + 8, 0, 48⟩ =
        (s.getF ⟨mxqBase mc.val + 0x20 * fb f 43 41 + 8, 0, 48⟩ + a.rows * a.cols) % 2 ^ 48 ∧
      t.getF ⟨mxqBase mc.val + 0x20 * fb f 43 41 + 0x10, 12, 4⟩ = d.code)

/-! ### Matrix cores: sync instructions and the control of issue (R184, R189, R190, R193, R241, R362) -/

/-- R184, R362: SADD and SWAIT add to and subtract from the own counter they name, SSIG hands its signal on, and each goes on to the next
instruction; SWAIT below its value waits; SSIG to a core outside the partition is SYNC_TARGET. R189, R190, R193, R241: a stop is asked for
and taken back, a core whose array has settled stops, a core in FAULT resumes with MXC_FAULT cleared, and MXQ_CLR clears the counters its
mask selects. -/
def Obligations.MatrixSyncStopAndResume : Prop :=
  (∀ (mc : Fin 1920) (f : BitVec 56) (s : State), s.mcRun mc.val = true →
    (rsvd f [(55, 51), (15, 0)] = false → s.pendOn (mcKey mc.val) (fb f 55 51) = false →
      (s.drained mc.val = true → 0 ≤ ((s.syncOf (mcKey mc.val)).val (fb f 55 51) : Int) + fs f 15 0 →
        ((s.syncOf (mcKey mc.val)).val (fb f 55 51) : Int) + fs f 15 0 ≤ 65535 →
        ∃ t, exec (.sadd mc f) s = .next t ∧
          t = { s with regs := t.regs, mcs := t.mcs, sync := t.sync } ∧
          OtherRegs [mxcBase mc.val + 8, mxcBase mc.val + 0x10] s t ∧ (∀ j, j ≠ mc.val → t.mc j = s.mc j) ∧ AtNext mc.val (s.pcAt mc.val + 8) s t ∧
          t.mc mc.val = { s.mc mc.val with pcOut := outOfSpace s mc.val (s.pcAt mc.val + 8) } ∧
          (∀ j, j ≠ mcKey mc.val → t.syncOf j = s.syncOf j) ∧
          ∀ i, ((t.syncOf (mcKey mc.val)).val i : Int) =
            if i = fb f 55 51 then ((s.syncOf (mcKey mc.val)).val i : Int) + fs f 15 0 else (s.syncOf (mcKey mc.val)).val i) ∧
      (fb f 15 0 ≤ (s.syncOf (mcKey mc.val)).val (fb f 55 51) →
        ∃ t, exec (.swait mc f) s = .next t ∧
          t = { s with regs := t.regs, mcs := t.mcs, sync := t.sync } ∧
          OtherRegs [mxcBase mc.val + 8, mxcBase mc.val + 0x10] s t ∧ (∀ j, j ≠ mc.val → t.mc j = s.mc j) ∧ AtNext mc.val (s.pcAt mc.val + 8) s t ∧
          t.mc mc.val = { s.mc mc.val with pcOut := outOfSpace s mc.val (s.pcAt mc.val + 8) } ∧
          (∀ j, j ≠ mcKey mc.val → t.syncOf j = s.syncOf j) ∧
          ∀ i, (t.syncOf (mcKey mc.val)).val i =
            if i = fb f 55 51 then (s.syncOf (mcKey mc.val)).val i - fb f 15 0 else (s.syncOf (mcKey mc.val)).val i) ∧
      ((s.syncOf (mcKey mc.val)).val (fb f 55 51) < fb f 15 0 →
        ∃ t, exec (.swait mc f) s = .next t ∧
          t = { s with regs := t.regs, sync := t.sync } ∧ OtherRegs [mxcBase mc.val + 8] s t ∧ t.getF (mxcSt mc.val) = 2 ∧
          ∀ j i, (t.syncOf j).val i = (s.syncOf j).val i)) ∧
    (rsvd f [(55, 51), (50, 50), (49, 39), (15, 0)] = false → s.drained mc.val = true →
      ∀ target, target = ⟨fbit f 50, fb f 49 39⟩ → 
      (s.inPartition target (s.cellPart (mc.val / 4)) = false → target ≠ ⟨false, mc.val⟩ →
        ∃ t, exec (.ssig mc f) s = .next t ∧ FaultedAtIssue mc.val 0x51 0 0 s t) ∧
      (s.inPartition target (s.cellPart (mc.val / 4)) = true →
      (target = ⟨false, mc.val⟩ → s.pendOn (mcKey mc.val) (fb f 55 51) = false) →
      ∃ t, exec (.ssig mc f) s = .next t ∧
        t = { s with regs := t.regs, mcs := t.mcs, sync := t.sync, mesh := t.mesh } ∧
        OtherRegs [mxcBase mc.val + 8, mxcBase mc.val + 0x10] s t ∧ AtNext mc.val (s.pcAt mc.val + 8) s t ∧
        t.sync.signals = s.sync.signals ++ [⟨⟨false, mc.val⟩, target, Fin.ofNat 32 (fb f 55 51), BitVec.ofNat 16 (fb f 15 0),
          Fin.ofNat 16 (s.cellPart (mc.val / 4)), false⟩] ∧
        ∀ j i, (t.syncOf j).val i = (s.syncOf j).val i))) ∧
  (∀ (mc : Fin 1920) (mask : BitVec 8) (s : State),
    (∃ t, exec (.mxcStop mc) s = .next t ∧ t = { s with regs := t.regs } ∧
      ∀ k, t.reg k = if k = mxcBase mc.val then setFld (s.reg k) 1 1 1 else s.reg k) ∧
    (s.getB (mxcStopF mc.val) = true → s.getF (mxcSt mc.val) < 3 → (s.mc mc.val).passes = [] →
      ∃ t, exec (.mxcStopped mc) s = .next t ∧ t = { s with regs := t.regs, mcs := t.mcs, mmu := t.mmu, sync := t.sync } ∧
        OtherRegs [mxcBase mc.val + 8] s t ∧ t.reg (mxcBase mc.val + 8) = setFld (s.reg (mxcBase mc.val + 8)) 0 3 3 ∧
        (∀ j, j ≠ mc.val → t.mc j = s.mc j) ∧
        t.mc mc.val = { s.mc mc.val with ops := (t.mc mc.val).ops, lds := (t.mc mc.val).lds, fetchHeld := none } ∧
        t.mmu = { s.mmu with recs := t.mmu.recs } ∧ ∀ j i, (t.syncOf j).val i = (s.syncOf j).val i) ∧
    (∃ t, exec (.mxcStopRelease mc) s = .next t ∧ t = { s with regs := t.regs } ∧ OtherRegs [mxcBase mc.val, mxcBase mc.val + 8] s t ∧
      t.reg (mxcBase mc.val) = setFld (s.reg (mxcBase mc.val)) 1 1 0 ∧
      t.getF (mxcSt mc.val) = (if s.getF (mxcSt mc.val) = 3 then (if (s.mc mc.val).launched ∧ (s.mc mc.val).ended = false then 1 else 0)
        else s.getF (mxcSt mc.val))) ∧
    (s.getF (mxcSt mc.val) = 4 → ∃ t, exec (.mxcResume mc) s = .next t ∧ t = { s with regs := t.regs } ∧
      OtherRegs [mxcBase mc.val + 8, mxcBase mc.val + 0x18] s t ∧ t.reg (mxcBase mc.val + 0x18) = 0 ∧
      t.reg (mxcBase mc.val + 8) = setFld (s.reg (mxcBase mc.val + 8)) 0 3 1) ∧
    (s.getF (mxcSt mc.val) ≠ 4 → exec (.mxcResume mc) s = .next s) ∧
    (∃ t, exec (.mxqClr mc mask) s = .next t ∧ t = { s with regs := t.regs } ∧
      (∀ k, (∀ i j, i < 8 → j < 3 → k ≠ mxqBase mc.val + 0x20 * i + 8 * j) → t.reg k = s.reg k) ∧
      ∀ k, k < 8 → (mask.getLsbD k = true → t.reg (mxqBase mc.val + 0x20 * k) = 0 ∧ t.reg (mxqBase mc.val + 0x20 * k + 8) = 0 ∧
          t.getF ⟨mxqBase mc.val + 0x20 * k + 0x10, 0, 9⟩ = 0x100 ∧ t.getF ⟨mxqBase mc.val + 0x20 * k + 0x10, 12, 4⟩ = 0 ∧
          t.getF ⟨mxqBase mc.val + 0x20 * k + 0x10, 24, 1⟩ = 0) ∧
        (mask.getLsbD k = false → ∀ j, j < 3 → t.reg (mxqBase mc.val + 0x20 * k + 8 * j) = s.reg (mxqBase mc.val + 0x20 * k + 8 * j))))

/-! ### Vector cores: Xiftile (R255-R259) -/

/-- R255, R256: XT.VL and XT.VLS load their active elements from the tile space of the core's cell, leave the masked ones under the undisturbed
policies and every other vector register, and go on. R255, R256: XT.VS and XT.VSS store their active elements into the tile space of the
core's cell, byte by byte, change no other byte of it, no tag and no configuration; XT.FENCE goes on. R249, R255: an Xiftile access in which
a byte lies outside its space raises XT_ACCESS with the address of the first such byte, and changes no tile, no accumulator and no vector
register. -/
def Obligations.TileSpaceAccessesComplete : Prop :=
  (∀ (vc : Fin 480) (vm : Bool) (rs2 rs1 vd : BitVec 5) (s : State), s.rvRun vc.val = true → s.vsOn vc.val = true →
    vill (s.vtype vc.val) = false → groupOk vd.toNat (lmul8 (s.vtype vc.val)) = true → (vm = false → vd ≠ 0) →
    (∀ stride c, c = Instr.xtVl vc vm rs1 vd ∧ stride = sewOf (s.vtype vc.val) / 8 ∨
        c = Instr.xtVls vc vm rs2 rs1 vd ∧ stride = (s.xr vc.val rs2.toNat).toNat →
      (∀ i ∈ s.vElems vc.val vm, ∀ a ∈ tsaOf (s.xr vc.val rs1.toNat).toNat stride (sewOf (s.vtype vc.val)) i,
        tsaOk (s.xr vc.val rs1.toNat).toNat a = true) →
      ∃ t, exec c s = .next t ∧ t = { s with freeCtr := t.freeCtr, rvs := t.rvs } ∧ (∀ j, j ≠ vc.val → t.rv j = s.rv j) ∧
        Retired vc.val 4 [0x008, 0x300] { s.rv vc.val with v := (t.rv vc.val).v } s t ∧ t.csr vc.val 0x008 = 0 ∧
        (∀ i, i ∈ s.vElems vc.val vm → (t.rv vc.val).vEl vd.toNat (sewOf (s.vtype vc.val)) i =
          ofLE ((tsaOf (s.xr vc.val rs1.toNat).toNat stride (sewOf (s.vtype vc.val)) i).map (s.tsByte vc.val))) ∧
        (∀ i, bit (s.vtype vc.val).toNat 6 = false → bit (s.vtype vc.val).toNat 7 = false → i ∉ s.vElems vc.val vm →
          (t.rv vc.val).vEl vd.toNat (sewOf (s.vtype vc.val)) i = (s.rv vc.val).vEl vd.toNat (sewOf (s.vtype vc.val)) i))) ∧
  (∀ (vc : Fin 480) (vm : Bool) (rs2 rs1 vs3 : BitVec 5) (s : State), s.rvRun vc.val = true → 
    (s.vsOn vc.val = true → vill (s.vtype vc.val) = false → groupOk vs3.toNat (lmul8 (s.vtype vc.val)) = true →
      ∀ stride c, c = Instr.xtVs vc vm rs1 vs3 ∧ stride = sewOf (s.vtype vc.val) / 8 ∨
        c = Instr.xtVss vc vm rs2 rs1 vs3 ∧ stride = (s.xr vc.val rs2.toNat).toNat →
      (∀ i ∈ s.vElems vc.val vm, ∀ a ∈ tsaOf (s.xr vc.val rs1.toNat).toNat stride (sewOf (s.vtype vc.val)) i,
        tsaOk (s.xr vc.val rs1.toNat).toNat a = true) →
      ((s.vElems vc.val vm).flatMap (tsaOf (s.xr vc.val rs1.toNat).toNat stride (sewOf (s.vtype vc.val)))).Nodup →
      ∃ t, exec c s = .next t ∧ t = { s with freeCtr := t.freeCtr, mcs := t.mcs, rvs := t.rvs } ∧
        (∀ j, j ≠ vc.val → t.rv j = s.rv j) ∧ Retired vc.val 4 [0x008, 0x300] (s.rv vc.val) s t ∧
        (∀ j, j / 4 ≠ vc.val → t.mc j = s.mc j) ∧
        (∀ j, (t.mc j).tag = (s.mc j).tag ∧ (t.mc j).cfg = (s.mc j).cfg) ∧
        (∀ i b a, i ∈ s.vElems vc.val vm → (tsaOf (s.xr vc.val rs1.toNat).toNat stride (sewOf (s.vtype vc.val)) i)[b]? = some a →
          t.tsByte vc.val a = BitVec.ofNat 8 (bits ((s.rv vc.val).vEl vs3.toNat (sewOf (s.vtype vc.val)) i) (8 * b) 8)) ∧
        (∀ a, tsaOk a a = true →
          a ∉ (s.vElems vc.val vm).flatMap (tsaOf (s.xr vc.val rs1.toNat).toNat stride (sewOf (s.vtype vc.val))) →
          t.tsByte vc.val a = s.tsByte vc.val a)) ∧
    (∃ t, exec (.xtFence vc) s = .next t ∧ OnlyRiscv vc.val s t ∧ Retired vc.val 4 [] (s.rv vc.val) s t)) ∧
  (∀ (vc : Fin 480) (vm : Bool) (rs2 rs1 v : BitVec 5) (a : Nat) (s : State), s.rvRun vc.val = true → s.vsOn vc.val = true →
    vill (s.vtype vc.val) = false → groupOk v.toNat (lmul8 (s.vtype vc.val)) = true → (vm = false → v ≠ 0) →
    ∀ stride c, (c = Instr.xtVl vc vm rs1 v ∨ c = Instr.xtVs vc vm rs1 v) ∧ stride = sewOf (s.vtype vc.val) / 8 ∨
        (c = Instr.xtVls vc vm rs2 rs1 v ∨ c = Instr.xtVss vc vm rs2 rs1 v) ∧ stride = (s.xr vc.val rs2.toNat).toNat →
      ((s.vElems vc.val vm).flatMap (tsaOf (s.xr vc.val rs1.toNat).toNat stride (sewOf (s.vtype vc.val)))).find?
        (fun a => !tsaOk (s.xr vc.val rs1.toNat).toNat a) = some a →
      ∃ t, exec c s = .next t ∧ TrappedToM vc.val 24 (BitVec.ofNat 64 a) (s.csr vc.val 0x305 &&& ~~~ 3#64) s t)

/-- R258, R259: XT.VUNP writes the decoded elements 0 to vl - 1 of the packed run; XT.VPK writes the packed run of the converted elements and
zero in the rest of its group. R260, R249: XD.Q, XD.QV, XD.TQ and XD.TQV enqueue the 64 B of their descriptor while the queue has room and
go on; with the queue full XD.TQ and XD.TQV answer 0 and enqueue nothing; an address outside vector scratch or not 64-byte aligned is
XD_ADDR. -/
def Obligations.VectorPackAndDescriptorsComplete : Prop :=
  (∀ (vc : Fin 480) (vs2 vd : BitVec 5) (fmt : BitVec 4) (s : State), s.rvRun vc.val = true → s.vsOn vc.val = true →
    vill (s.vtype vc.val) = false → sewOf (s.vtype vc.val) = 32 →
    groupOk vs2.toNat (lmul8 (s.vtype vc.val)) = true → groupOk vd.toNat (lmul8 (s.vtype vc.val)) = true →
    (fmt.toNat ≤ 5 ∨ fmt.toNat = 8 ∨ fmt.toNat = 9 ∨ fmt.toNat = 0xA ∨ fmt.toNat = 0xE →
      overlaps vs2.toNat vd.toNat (lmul8 (s.vtype vc.val)) = false →
      ∃ t, exec (.xtVunp vc vs2 fmt vd) s = .next t ∧ OnlyRiscv vc.val s t ∧
        Retired vc.val 4 [0x008, 0x300] { s.rv vc.val with v := (t.rv vc.val).v } s t ∧
        ∀ i x, (unpackRun fmt.toNat (s.vl vc.val) ((s.rv vc.val).vBytes vs2.toNat (packedLen fmt.toNat (s.vl vc.val))))[i]? = some x →
          (t.rv vc.val).vEl vd.toNat 32 i = unpEl fmt.toNat x % 2 ^ 32) ∧
    (∀ ovf xs run, fmt.toNat = 0 ∨ fmt.toNat = 2 ∨ fmt.toNat = 3 ∨ fmt.toNat = 4 ∨ fmt.toNat = 5 ∨ fmt.toNat = 9 ∨ fmt.toNat = 0xA →
      (fmt.toNat ≤ 3 → ovf = false) →
      xs = (upTo (s.vl vc.val)).map (fun i => f32 ((s.rv vc.val).vEl vs2.toNat 32 i)) →
      (fmt.toNat ≤ 3 → xs.any Val.isNan = false) →
      run = packRun fmt.toNat (xs.map (fun x => (convVal fmt.toNat .rne ovf false x).code)) →
      run.length ≤ 512 * groupRegs (lmul8 (s.vtype vc.val)) →
      ∃ t, exec (.xtVpk vc ovf vs2 fmt vd) s = .next t ∧ OnlyRiscv vc.val s t ∧
        Retired vc.val 4 [0x003, 0x008, 0x300] { s.rv vc.val with v := (t.rv vc.val).v } s t ∧
        (t.rv vc.val).vBytes vd.toNat (512 * groupRegs (lmul8 (s.vtype vc.val))) =
          run ++ List.replicate (512 * groupRegs (lmul8 (s.vtype vc.val)) - run.length) 0)) ∧
  (∀ (vc : Fin 480) (vs2 rs1 rd : BitVec 5) (s : State) (o : Nat), s.rvRun vc.val = true →
    (s.dmaRoom vc.val 4 = true → vscrOff (s.xr vc.val rs1.toNat) = some o → o % 64 = 0 →
      (∃ t, exec (.xdQ vc rs1) s = .next t ∧ t = (s.dmaEnqueue vc.val 4 (BitVec.ofNat 512 (ofLE ((s.rv vc.val).scrRead o 64)))).retire vc.val 4) ∧
      (∃ t, exec (.xdTq vc rs1 rd) s = .next t ∧
        t = ((s.dmaEnqueue vc.val 4 (BitVec.ofNat 512 (ofLE ((s.rv vc.val).scrRead o 64)))).setXr vc.val rd.toNat 1).retire vc.val 4)) ∧
    (s.dmaRoom vc.val 4 = true → s.vsOn vc.val = true →
      (∃ t, exec (.xdQv vc vs2) s = .next t ∧
        t = (s.dmaEnqueue vc.val 4 (BitVec.ofNat 512 (ofLE ((s.rv vc.val).vBytes vs2.toNat 64)))).retire vc.val 4) ∧
      (∃ t, exec (.xdTqv vc vs2 rd) s = .next t ∧
        t = ((s.dmaEnqueue vc.val 4 (BitVec.ofNat 512 (ofLE ((s.rv vc.val).vBytes vs2.toNat 64)))).setXr vc.val rd.toNat 1).retire vc.val 4)) ∧
    (s.dmaRoom vc.val 4 = false → s.vsOn vc.val = true →
      ∃ t, exec (.xdTqv vc vs2 rd) s = .next t ∧ OnlyRiscv vc.val s t ∧
        Retired vc.val 4 [] { s.rv vc.val with x := (t.rv vc.val).x } s t ∧
        ∀ i, t.xr vc.val i = if i = 0 then 0 else if i = rd.toNat then 0 else s.xr vc.val i) ∧
    (vscrOff (s.xr vc.val rs1.toNat) = none ∨ vscrOff (s.xr vc.val rs1.toNat) = some o ∧ o % 64 ≠ 0 →
      ∃ t, exec (.xdQ vc rs1) s = .next t ∧
        TrappedToM vc.val 27 (s.xr vc.val rs1.toNat) (s.csr vc.val 0x305 &&& ~~~ 3#64) s t))

/-! ### Vector cores: Xifsync and Xifdma (R260, R261, R363) -/

/-- R260: XS.ADD, XS.WAIT, XS.TRY and XS.RD act on the own counter as the table says, write rd, and go on. R260, R261, R365: XS.SIG hands its
signal on, XS.BAR enters its barrier, and the core goes on. -/
def Obligations.VectorSyncInstructionsComplete : Prop :=
  (∀ (vc : Fin 480) (sn : Fin 32) (rs1 rd : BitVec 5) (s : State) (v : Nat), s.rvRun vc.val = true →
    s.pendOn (vcKey vc.val) sn.val = false → v = (s.syncOf (vcKey vc.val)).val sn.val →
    (s.vcDrained vc.val = true → 0 ≤ (v : Int) + sext (s.xr vc.val rs1.toNat).toNat 16 →
      (v : Int) + sext (s.xr vc.val rs1.toNat).toNat 16 ≤ 65535 →
      ∃ t, exec (.xsAdd vc sn rs1) s = .next t ∧ t = { s with regs := t.regs, rvs := t.rvs, sync := t.sync } ∧ OtherRegs [] s t ∧
        (∀ j, j ≠ vc.val → t.rv j = s.rv j) ∧ Retired vc.val 4 [] (s.rv vc.val) s t ∧
        (∀ j, j ≠ vcKey vc.val → t.syncOf j = s.syncOf j) ∧
        ∀ i, ((t.syncOf (vcKey vc.val)).val i : Int) =
          if i = sn.val then (v : Int) + sext (s.xr vc.val rs1.toNat).toNat 16 else (s.syncOf (vcKey vc.val)).val i) ∧
    (fld (s.xr vc.val rs1.toNat) 0 16 ≤ v →
      ∃ t, exec (.xsWait vc sn rs1) s = .next t ∧ t = { s with rvs := t.rvs, sync := t.sync } ∧
        (∀ j, j ≠ vc.val → t.rv j = s.rv j) ∧ Retired vc.val 4 [] (s.rv vc.val) s t ∧
        ∀ i, (t.syncOf (vcKey vc.val)).val i =
          if i = sn.val then v - fld (s.xr vc.val rs1.toNat) 0 16 else (s.syncOf (vcKey vc.val)).val i) ∧
    (fld (s.xr vc.val rs1.toNat) 0 16 ≤ v →
      ∃ t, exec (.xsTry vc sn rs1 rd) s = .next t ∧ t = { s with rvs := t.rvs, sync := t.sync } ∧
        (∀ j, j ≠ vc.val → t.rv j = s.rv j) ∧ Retired vc.val 4 [] { s.rv vc.val with x := (t.rv vc.val).x } s t ∧
        (∀ i, t.xr vc.val i = if i = 0 then 0 else if i = rd.toNat then 1 else s.xr vc.val i) ∧
        ∀ i, (t.syncOf (vcKey vc.val)).val i =
          if i = sn.val then v - fld (s.xr vc.val rs1.toNat) 0 16 else (s.syncOf (vcKey vc.val)).val i) ∧
    (v < fld (s.xr vc.val rs1.toNat) 0 16 →
      ∃ t, exec (.xsTry vc sn rs1 rd) s = .next t ∧ OnlyRiscv vc.val s t ∧
        Retired vc.val 4 [] { s.rv vc.val with x := (t.rv vc.val).x } s t ∧
        ∀ i, t.xr vc.val i = if i = 0 then 0 else if i = rd.toNat then 0 else s.xr vc.val i) ∧
    (v < fld (s.xr vc.val rs1.toNat) 0 16 →
      ∃ t, exec (.xsWait vc sn rs1) s = .next t ∧ t = { s with rvs := t.rvs, sync := t.sync } ∧ (∀ j, j ≠ vc.val → t.rv j = s.rv j) ∧
        t.rv vc.val = { s.rv vc.val with waiting := true } ∧ ∀ j i, (t.syncOf j).val i = (s.syncOf j).val i) ∧
    (∃ t, exec (.xsRd vc sn rd) s = .next t ∧ t = { s with rvs := t.rvs, sync := t.sync } ∧
      (∀ j, j ≠ vc.val → t.rv j = s.rv j) ∧ Retired vc.val 4 [] { s.rv vc.val with x := (t.rv vc.val).x } s t ∧
      (∀ j i, (t.syncOf j).val i = (s.syncOf j).val i) ∧
      ∀ i, t.xr vc.val i = if i = 0 then 0 else if i = rd.toNat then
        BitVec.ofNat 64 (v + b2n (bit (s.reg (synKey (vcKey vc.val) + 8)).toNat sn.val) * 65536) else s.xr vc.val i)) ∧
  (∀ (vc : Fin 480) (sn : Fin 32) (rs2 rs1 : BitVec 5) (s : State) (w : Nat), s.rvRun vc.val = true → s.vcDrained vc.val = true →
    w = (s.xr vc.val rs1.toNat).toNat →
    (∀ target, w < 2 ^ 17 → target = ⟨bit w 5, bits w 6 11⟩ → s.inPartition target (s.cellPart vc.val) = true → target ≠ ⟨true, vc.val⟩ →
      ∃ t, exec (.xsSig vc rs2 rs1) s = .next t ∧ t = { s with rvs := t.rvs, sync := t.sync, mesh := t.mesh } ∧
        (∀ j, j ≠ vc.val → t.rv j = s.rv j) ∧ Retired vc.val 4 [] (s.rv vc.val) s t ∧
        t.sync.signals = s.sync.signals ++ [⟨⟨true, vc.val⟩, target, Fin.ofNat 32 w, BitVec.ofNat 16 (fld (s.xr vc.val rs2.toNat) 0 16),
          Fin.ofNat 16 (s.cellPart vc.val), false⟩]) ∧
    (∀ target, w < 2 ^ 17 → target = ⟨bit w 5, bits w 6 11⟩ → s.inPartition target (s.cellPart vc.val) = false → target ≠ ⟨true, vc.val⟩ →
      ∃ t, exec (.xsSig vc rs2 rs1) s = .next t ∧ TrappedToM vc.val 25 (BitVec.ofNat 64 w) (s.csr vc.val 0x305 &&& ~~~ 3#64) s t) ∧
    (∀ t0, w < 1024 → s.pendOn (vcKey vc.val) sn.val = false →
      s.barEnter ⟨true, vc.val⟩ (s.cellPart vc.val) w sn.val = .entered t0 →
      ∃ t, exec (.xsBar vc sn rs1) s = .next t ∧ t = { s with rvs := t.rvs, sync := t.sync } ∧
        (∀ j, j ≠ vc.val → t.rv j = s.rv j) ∧ Retired vc.val 4 [] (s.rv vc.val) s t ∧
        (t.syncOf (vcKey vc.val)).bars = (t0.syncOf (vcKey vc.val)).bars ∧ t.sync.arrivals = t0.sync.arrivals))

/-! ### RISC-V cores (R242-R249) -/

/-- R242 (log entry 27: the text of the RISC-V standards is presumed): an instruction whose fetch succeeds executes. ADDI, ADD, LUI, JAL and BEQ
write the register and reach the address that the standard gives from the state that the fetch leaves; MRET returns. R318, R511 (log entry
28): in U mode of a vector core's running kernel an environment call traps to M mode and ends the kernel's program with no cause, an illegal
word traps with its bits in mtval and ends it with its cause. R245, R246, R247: a vector core takes a pending and enabled interrupt in M
mode, with its wait given up; the timer interrupt is pending once mtime has reached mtimecmp; a reservation that times out is lost. That an
environment call completes the kernel's program is the model's reading (log entry 28). -/
def Obligations.RiscvInstructionsTrapsAndInterrupts : Prop :=
  (∀ (core : RvCore) (w : Word32) (s u : State) (x : Nat), s.rvRun (rvKey core) = true →
    s.rvFetch (rvKey core) 4 = (u, .val x) →
    (bits w.toNat 0 7 = 0x13 → iF3 w.toNat = 0 → ∃ t, exec (.riscvInstruction core w) s = .next t ∧ OnlyRiscv (rvKey core) u t ∧
      Retired (rvKey core) 4 [] { u.rv (rvKey core) with x := (t.rv (rvKey core)).x } u t ∧
      ∀ i, t.xr (rvKey core) i = if i = 0 then 0 else if i = iRd w.toNat then
        u.xr (rvKey core) (iRs1 w.toNat) + BitVec.ofInt 64 (sext (bits w.toNat 20 12) 12) else u.xr (rvKey core) i) ∧
    (bits w.toNat 0 7 = 0x33 → iF3 w.toNat = 0 → iF7 w.toNat = 0 → ∃ t, exec (.riscvInstruction core w) s = .next t ∧
      OnlyRiscv (rvKey core) u t ∧ Retired (rvKey core) 4 [] { u.rv (rvKey core) with x := (t.rv (rvKey core)).x } u t ∧
      ∀ i, t.xr (rvKey core) i = if i = 0 then 0 else if i = iRd w.toNat then
        u.xr (rvKey core) (iRs1 w.toNat) + u.xr (rvKey core) (iRs2 w.toNat) else u.xr (rvKey core) i) ∧
    (bits w.toNat 0 7 = 0x37 → ∃ t, exec (.riscvInstruction core w) s = .next t ∧ OnlyRiscv (rvKey core) u t ∧
      Retired (rvKey core) 4 [] { u.rv (rvKey core) with x := (t.rv (rvKey core)).x } u t ∧
      ∀ i, t.xr (rvKey core) i = if i = 0 then 0 else if i = iRd w.toNat then
        BitVec.ofInt 64 (sext (bits w.toNat 12 20 * 4096) 32) else u.xr (rvKey core) i) ∧
    (bits w.toNat 0 7 = 0x6F → ∃ t, exec (.riscvInstruction core w) s = .next t ∧ OnlyRiscv (rvKey core) u t ∧
      (t.rv (rvKey core)).pc = ((u.rv (rvKey core)).pc + BitVec.ofInt 64 (immJ w.toNat)) &&& ~~~ 1#64 ∧
      (∀ c, c ≠ 0xB02 → t.csr (rvKey core) c = u.csr (rvKey core) c) ∧
      ∀ i, t.xr (rvKey core) i = if i = 0 then 0 else if i = iRd w.toNat then (u.rv (rvKey core)).pc + 4 else u.xr (rvKey core) i) ∧
    (bits w.toNat 0 7 = 0x63 → iF3 w.toNat = 0 → ∃ t, exec (.riscvInstruction core w) s = .next t ∧ OnlyRiscv (rvKey core) u t ∧
      (t.rv (rvKey core)).x = (u.rv (rvKey core)).x ∧ (∀ c, c ≠ 0xB02 → t.csr (rvKey core) c = u.csr (rvKey core) c) ∧
      (t.rv (rvKey core)).pc =
        if u.xr (rvKey core) (iRs1 w.toNat) = u.xr (rvKey core) (iRs2 w.toNat)
        then ((u.rv (rvKey core)).pc + BitVec.ofInt 64 (immB w.toNat)) &&& ~~~ 1#64 else (u.rv (rvKey core)).pc + 4) ∧
    (w = 0x30200073 → (u.rv (rvKey core)).mode = .machine → ∃ t, exec (.riscvInstruction core w) s = .next t ∧ OnlyRiscv (rvKey core) u t ∧
      (t.rv (rvKey core)).x = (u.rv (rvKey core)).x ∧
      (∀ c, c ≠ 0xB02 → c ≠ 0x300 → t.csr (rvKey core) c = u.csr (rvKey core) c) ∧
      (t.rv (rvKey core)).pc = u.csr (rvKey core) 0x341 &&& ~~~ 1#64 ∧ (t.rv (rvKey core)).mode = modeOf (fld (u.csr (rvKey core) 0x300) 11 2))) ∧
  (∀ (vc : Fin 480) (w : Word32) (s u : State) (x : Nat), s.rvRun vc.val = true →
    s.rvFetch vc.val 4 = (u, .val x) → u.rvRun vc.val = true → (u.rv vc.val).mode = .user →
    (w = 0x00000073 → ∃ t, exec (.riscvInstruction (.vc vc) w) s = .next t ∧
      TrappedToM vc.val 8 0 (u.csr vc.val 0x305 &&& ~~~ 3#64) u t ∧ (t.rv vc.val).ended = true ∧ (t.rv vc.val).endCause = none) ∧
    (w = 0x30200073 → ∃ t, exec (.riscvInstruction (.vc vc) w) s = .next t ∧
      TrappedToM vc.val 2 0x30200073 (u.csr vc.val 0x305 &&& ~~~ 3#64) u t ∧ (t.rv vc.val).ended = true ∧ (t.rv vc.val).endCause = some 2)) ∧
  (∀ (vc : Fin 480) (core : RvCore) (i : Nat) (s : State),
    (s.pendingInt vc.val = some i → (s.rv vc.val).stopped = false → ∃ t, exec (.vcInterruptTake vc) s = .next t ∧
      t = { s with rvs := t.rvs, mmu := t.mmu, sync := t.sync } ∧ (t.rv vc.val).mode = .machine ∧ (t.rv vc.val).waiting = false ∧
      (t.rv vc.val).resv = none ∧ t.csr vc.val 0x341 = (s.rv vc.val).pc ∧ t.csr vc.val 0x342 = BitVec.ofNat 64 (i + 2 ^ 63) ∧
      (t.rv vc.val).pc = tvecTarget (s.csr vc.val 0x305) i true ∧ fld (t.csr vc.val 0x300) 3 1 = 0 ∧
      fld (t.csr vc.val 0x300) 7 1 = fld (s.csr vc.val 0x300) 3 1 ∧
      (∀ j, j ≠ vc.val → t.rv j = s.rv j) ∧ ∀ j n, (t.syncOf j).val n = (s.syncOf j).val n) ∧
    ((s.rv (rvKey core)).mtimecmp ≤ s.mtime → ∃ t, exec (.mtimeCompare core) s = .next t ∧ OnlyRiscv (rvKey core) s t ∧
      t.rv (rvKey core) = { s.rv (rvKey core) with csr := (t.rv (rvKey core)).csr } ∧ bit (t.csr (rvKey core) 0x344).toNat 7 = true ∧
      ∀ c, c ≠ 0x344 → t.csr (rvKey core) c = s.csr (rvKey core) c) ∧
    (∃ t, exec (.reservationTimeout core) s = .next t ∧ OnlyRiscv (rvKey core) s t ∧
      t.rv (rvKey core) = { s.rv (rvKey core) with resv := none }))

/-! ### Store rooms, controllers and stacks (R218-R222, R245, R266-R292) -/

/-- R275, R281: at a store room that holds the line, a read is answered with its bytes and poison and changes no line; a write merges its
enabled bytes, makes the line dirty, clears its poison if it writes all of it, and ends other agents' reservations of the line. R268, R274,
R275, R278: a miss asks the line's controller for it, a write into no allowed way goes to the controller, a write of a whole line is
installed dirty; the data that comes back is installed and answers the request that waited for it. The order of accesses is that of the
queue (log entry 19). -/
def Obligations.StoreRoomsServeAndFill : Prop :=
  (∀ (q : RoomReq) (s : State) (l : RoomLine) (h : Nat), s.lineOk q.line = true → h = s.homeOf q.line →
    (s.room h).find q.line = some l →
    (q.kind ≠ .write → ∃ t, exec (.storeRoomAccess q) s = .next t ∧
      t = { s with rooms := t.rooms, out := s.out ++ [.memData q.part.val q.line l.data l.poison] } ∧
      ∀ c, (t.room c).lines = (s.room c).lines) ∧
    (q.kind = .write → ∃ t, exec (.storeRoomAccess q) s = .next t ∧ t = { s with rooms := t.rooms, rvs := t.rvs } ∧
      (∀ c, c ≠ h → t.room c = s.room c) ∧
      (t.room h).lines = mapWhere (s.room h).lines (fun x => x.line == q.line) (fun _ =>
        { l with data := mergeFrom l.data q.data q.enables 0, dirty := true, poison := l.poison && decide (q.enables ≠ fullEn) }) ∧
      ∀ k, k ≠ noCore → t.rv k = { s.rv k with resv :=
        (if (s.rv k).resv = some q.line ∧ (s.rv k).resvScratch = false then none else (s.rv k).resv) })) ∧
  ((∀ (q : RoomReq) (s : State) (h st : Nat), s.lineOk q.line = true → h = s.homeOf q.line → st = (s.lineHome q.line).1.stack →
    (s.room h).find q.line = none →
    (q.kind ≠ .write → ∃ t, exec (.storeRoomAccess q) s = .next t ∧
      t = { s with hbm := { s.hbm with memQ := t.hbm.memQ } } ∧
      t.memQ st = s.memQ st ++ [⟨q.line, h, false, 0, [], false, some q, true⟩] ∧ ∀ k, k ≠ st → t.memQ k = s.memQ k) ∧
    (q.kind = .write → s.linePending q.line = false → s.wayMask (h / 120) q.part.val = 0 →
      ∃ t, exec (.storeRoomAccess q) s = .next t ∧ t = { s with rvs := t.rvs, hbm := { s.hbm with memQ := t.hbm.memQ } } ∧
      t.memQ st = s.memQ st ++ [⟨q.line, h, true, q.enables, q.data, false, none, false⟩] ∧ ∀ k, k ≠ st → t.memQ k = s.memQ k) ∧
    (q.kind = .write → s.linePending q.line = false → s.wayMask (h / 120) q.part.val ≠ 0 → q.enables = fullEn →
      ∃ t w, exec (.storeRoomAccess q) s = .next t ∧
      t = { s with rvs := t.rvs, rooms := t.rooms, hbm := { s.hbm with memQ := t.hbm.memQ } } ∧
      (t.room h).find q.line = some ⟨q.line, w, q.data, true, false⟩ ∧ ∀ c, c ≠ h → t.room c = s.room c)) ∧
  (∀ (st : Fin 12) (s : State) (f : FillData) (rest : List FillData) (q : RoomReq), mget [] s.hbm.fills st.val = f :: rest →
    f.req.want = some q → q.line = f.req.line → q.kind ≠ .write → s.wayMask (s.homeOf q.line / 120) q.part.val ≠ 0 →
    (s.room (s.homeOf q.line)).find q.line = none →
    ∃ t w, exec (.storeRoomFill st) s = .next t ∧
      t = { s with rooms := t.rooms, hbm := { s.hbm with memQ := t.hbm.memQ, fills := t.hbm.fills },
                   out := s.out ++ [.memData q.part.val q.line f.data f.poison] } ∧
      mget [] t.hbm.fills st.val = rest ∧ (∀ k, k ≠ st.val → mget [] t.hbm.fills k = mget [] s.hbm.fills k) ∧
      (t.room (s.homeOf q.line)).find q.line = some ⟨q.line, w, f.data, false, f.poison⟩ ∧
      ∀ c, c ≠ s.homeOf q.line → t.room c = s.room c))

/-- R268, R281, R285: a controller serves its oldest request. A read hands the store room the stack's bytes and poison, or zeros of a granule
part that is fresh; a write puts its enabled bytes into the stack, where the granule part is not fresh, and no other byte. R219, R222, R245:
an atomic at a home answers the old value and stores what its operation makes of it; a CLAIM without a ledger answers the next ticket and
moves the counter on; a PRESENT without a ledger only answers its ticket. Poison stops each of them. -/
def Obligations.ControllersAndAtomicsComplete : Prop :=
  (∀ (st : Fin 12) (s : State) (r : MemReq) (rest : List MemReq) (a : Nat), s.memQ st.val = r :: rest →
    a = (s.lineHome r.line).2 →
    (r.write = false → ∃ t, exec (.hbmRequest st) s = .next t ∧
      t = { s with hbm := { s.hbm with memQ := t.hbm.memQ, fills := t.hbm.fills } } ∧ t.memQ st.val = rest ∧
      (∀ k, k ≠ st.val → t.memQ k = s.memQ k ∧ mget [] t.hbm.fills k = mget [] s.hbm.fills k) ∧
      mget [] t.hbm.fills st.val = mget [] s.hbm.fills st.val ++
        [⟨r, if s.isFresh r.line then zeroLine else readBytes s.hbm.cells (128 * a) 128,
          !s.isFresh r.line && mget false s.hbm.poison a⟩]) ∧
    (r.write = true → r.data.length = 128 → s.isFresh r.line = false → ∃ t, exec (.hbmRequest st) s = .next t ∧
      t = { s with hbm := { s.hbm with memQ := t.hbm.memQ, cells := t.hbm.cells, poison := t.hbm.poison } } ∧
      t.memQ st.val = rest ∧ (∀ k, k ≠ st.val → t.memQ k = s.memQ k) ∧
      (∀ i, i < 128 → mget 0 t.hbm.cells (128 * a + i) =
        if r.enables.getLsbD i then r.data.getD i 0 else mget 0 s.hbm.cells (128 * a + i)) ∧
      (∀ b, b < 128 * a ∨ 128 * a + 128 ≤ b → mget 0 t.hbm.cells b = mget 0 s.hbm.cells b) ∧
      mget false t.hbm.poison a = (if r.enables = fullEn then r.poison else r.poison || mget false s.hbm.poison a) ∧
      ∀ k, k ≠ a → mget false t.hbm.poison k = mget false s.hbm.poison k)) ∧
  (∀ (s : State) (part : Fin 16) (pa : Nat), s.lineOk (pa / 128) = true →
    (∀ core op wide x w n r, w = (if wide then 64 else 32) → n = w / 8 → r = s.physRead part.val pa n → pa % n = 0 → op ≠ .lr → op ≠ .sc →
      (r.poison = false → ∃ t, exec (.storeRoomAmo core part op wide pa x) s = .next t ∧ OnlyMemory s t ∧
        t = (r.st.physWrite part.val (rvKey core) pa (toLE n (amoVal op w (ofLE r.data) (x.toNat % 2 ^ w)))).emit
          (.memData part.val (pa / 128) (toLE 8 (ofLE r.data)) false)) ∧
      (r.poison = true → ∃ t, exec (.storeRoomAmo core part op wide pa x) s = .next t ∧ OnlyMemory s t ∧
        t = r.st.emit (.memData part.val (pa / 128) (toLE 8 0) true))) ∧
    (∀ core wide x w n r, w = (if wide then 64 else 32) → n = w / 8 → r = s.physRead part.val pa n → pa % n = 0 → r.poison = false →
      (∃ t, exec (.storeRoomAmo core part .lr wide pa x) s = .next t ∧ OnlyMemory s t ∧
        t = (r.st.setRv (rvKey core) { r.st.rv (rvKey core) with resv := some (pa / 128), resvScratch := false }).emit
          (.memData part.val (pa / 128) (toLE 8 (ofLE r.data)) false)) ∧
      ((r.st.rv (rvKey core)).resv = some (pa / 128) → (r.st.rv (rvKey core)).resvScratch = false →
        ∃ t, exec (.storeRoomAmo core part .sc wide pa x) s = .next t ∧ OnlyMemory s t ∧
        t = ((r.st.setRv (rvKey core) { r.st.rv (rvKey core) with resv := none }).physWrite part.val (rvKey core) pa
          (toLE n (x.toNat % 2 ^ w))).emit (.memData part.val (pa / 128) (toLE 8 0) false)) ∧
      ((r.st.rv (rvKey core)).resv ≠ some (pa / 128) → ∃ t, exec (.storeRoomAmo core part .sc wide pa x) s = .next t ∧ OnlyMemory s t ∧
        t = (r.st.setRv (rvKey core) { r.st.rv (rvKey core) with resv := none }).emit
          (.memData part.val (pa / 128) (toLE 8 1) false))) ∧
    (∀ who r (n : Word), pa % 32 = 0 → r = s.physRead part.val pa 32 → r.poison = false →
      (who = none ∨ ledgerOn (ofLE r.data) = false) →
      (∃ t, exec (.workCounterClaim who part pa n) s = .next t ∧ OnlyMemory s t ∧
        t = (r.st.physWrite part.val noCore pa (toLE 8 ((recB (ofLE r.data) 0 8 + n.toNat) % 2 ^ 64))).emit
          (.memData part.val (pa / 128) (toLE 8 (recB (ofLE r.data) 0 8) ++ [0]) false)) ∧
      (∃ t, exec (.workCounterPresent who part pa n) s = .next t ∧ OnlyMemory s t ∧
        t = r.st.emit (.memData part.val (pa / 128) (toLE 8 n.toNat ++ [0]) false))) ∧
    (∀ who r (n : Word), pa % 32 = 0 → r = s.physRead part.val pa 32 → r.poison = true →
      (∃ t, exec (.workCounterClaim who part pa n) s = .next t ∧ OnlyMemory s t ∧
        t = r.st.emit (.memData part.val (pa / 128) (toLE 8 (recB (ofLE r.data) 0 8) ++ [0]) true)) ∧
      (∃ t, exec (.workCounterPresent who part pa n) s = .next t ∧ OnlyMemory s t ∧
        t = r.st.emit (.memData part.val (pa / 128) (toLE 8 n.toNat ++ [0]) true))))

/-- R266, R277, R280, R283, R291, R292: memory errors are counted, poisoned and flagged; CLEAN, CLEAN_INV and DROP act on the lines of the range
at the die's store rooms, write dirty ones back unless dropped, and are busy until the write-backs have landed. -/
def Obligations.MemoryErrorsAndRangesComplete : Prop :=
  (∀ (st : Fin 12) (n : BitVec 32) (s : State), s.getF (hbmStF st.val) = 1 →
    (∃ t, exec (.hbmScrub st n []) s = .next t ∧ OnlyRegs [hbmBase st.val + 8] s t ∧
      t.getF ⟨hbmBase st.val + 8, 0, 32⟩ = satAdd (s.getF ⟨hbmBase st.val + 8, 0, 32⟩) n.toNat 32 ∧
      t.getF ⟨hbmBase st.val + 8, 32, 32⟩ = s.getF ⟨hbmBase st.val + 8, 32, 32⟩) ∧
    ∀ a, a < 2 ^ 36 → ∃ t, exec (.hbmScrub st n [a]) s = .next t ∧
      t = { s with regs := t.regs, irq := { s.irq with routed := t.irq.routed }, hbm := { s.hbm with poison := t.hbm.poison } } ∧
      OtherRegs ([hbmBase st.val + 8, hbmBase st.val + 0x10] ++ (dstatHome (st.val / 3) (st.val % 3)).keys) s t ∧
      t.getF ⟨hbmBase st.val + 8, 32, 16⟩ = satAdd (s.getF ⟨hbmBase st.val + 8, 32, 16⟩) 1 16 ∧
      t.getF ⟨hbmBase st.val + 0x10, 0, 36⟩ = a / 128 * 128 ∧ t.getB ⟨irqDBase (st.val / 3) + 0x1000, st.val % 3, 1⟩ = true ∧
      mget false t.hbm.poison (st.val * 2 ^ 29 + a / 128) = true ∧
      ∀ k, k ≠ st.val * 2 ^ 29 + a / 128 → mget false t.hbm.poison k = mget false s.hbm.poison k) ∧
  (∀ (st : Fin 12) (s : State), 10000 < s.getF ⟨hbmBase st.val + 8, 0, 32⟩ → ∃ t, exec (.stackDegradingEvent st) s = .next t ∧
    OnlyRaised [] (dstatHome (st.val / 3) (3 + st.val % 3)) s t) ∧
  (∀ (mc : Fin 1920) (w : Fin 65536) (s : State), ∃ t, exec (.sramUncorrectableError (.scratch mc w)) s = .next t ∧
    t = { s with regs := t.regs, irq := { s.irq with routed := t.irq.routed }, mcs := t.mcs } ∧
    OtherRegs (dstatHome (mc.val / 480) 6).keys s t ∧ t.getB ⟨irqDBase (mc.val / 480) + 0x1000, 6, 1⟩ = true ∧
    (∀ j, j ≠ mc.val → t.mc j = s.mc j) ∧
    t.mc mc.val = { s.mc mc.val with badScratch := mset false (s.mc mc.val).badScratch w.val true }) ∧
  (∀ (w : Fin 8388608) (s : State), ∃ t, exec (.sramUncorrectableError (.junction w)) s = .next t ∧
    t = { s with regs := t.regs, irq := { s.irq with routed := t.irq.routed }, jsramBad := mset false s.jsramBad w.val true } ∧
    OtherRegs (mstatHome 7).keys s t ∧ t.getB ⟨irqJBase + 0x2000, 7, 1⟩ = true) ∧
  (∀ (k : Fin 12) (x : BitVec 8) (s : State), s.dieDown (k.val / 3) = false → ∃ t, exec (.hbmTempRead k x) s = .next t ∧
    t = (s.putF ⟨hbmBase k.val, 11, 8⟩ x.toNat).sense (12 + k.val) x.toNat ∧ t = { s with regs := t.regs, mgmt := t.mgmt, out := t.out } ∧
    t.getF ⟨hbmBase k.val, 11, 8⟩ = x.toNat) ∧
  (∀ (d : Fin 4) (s : State) (first count : Nat), s.getF ⟨srmBase d.val, 3, 1⟩ ≠ 1 → first = fld (s.reg (srmBase d.val + 8)) 7 41 →
    count = fld (s.reg (srmBase d.val + 0x10)) 7 34 →
    (∃ t, exec (.clean d) s = .next t ∧
      t = { s with regs := t.regs, rooms := t.rooms, hbm := { s.hbm with memQ := t.hbm.memQ } } ∧ OtherRegs [srmBase d.val] s t ∧
      t.reg (srmBase d.val) = setFld (s.reg (srmBase d.val)) 3 1 1 ∧
      ∀ c, (t.room c).lines = if c / 120 = d.val
        then mapWhere (s.room c).lines (fun l => inRange first count l.line) (fun l => { l with dirty := false }) else (s.room c).lines) ∧
    (∃ t, exec (.cleanInv d) s = .next t ∧
      t = { s with regs := t.regs, rooms := t.rooms, hbm := { s.hbm with memQ := t.hbm.memQ } } ∧ OtherRegs [srmBase d.val] s t ∧
      t.reg (srmBase d.val) = setFld (s.reg (srmBase d.val)) 3 1 1 ∧
      ∀ c, (t.room c).lines = if c / 120 = d.val
        then (s.room c).lines.filter (fun l => !inRange first count l.line) else (s.room c).lines) ∧
    (∃ t, exec (.drop d) s = .next t ∧ t = { s with regs := t.regs, rooms := t.rooms } ∧ OtherRegs [srmBase d.val] s t ∧
      t.reg (srmBase d.val) = setFld (s.reg (srmBase d.val)) 3 1 1 ∧
      ∀ c, (t.room c).lines = if c / 120 = d.val
        then (s.room c).lines.filter (fun l => !inRange first count l.line) else (s.room c).lines)) ∧
  (∀ (d : Fin 4) (s : State), s.getB ⟨srmBase d.val, 3, 1⟩ = true → s.writesWait d.val = false →
    ∃ t, exec (.srmRangeDone d) s = .next t ∧ OnlyRegs [srmBase d.val] s t ∧
      t.reg (srmBase d.val) = setFld (setFld (s.reg (srmBase d.val)) 3 1 0) 4 1 1)

/-! ### Translation, fault service and saves (R293-R331) -/

/-- R311, R312: a walk whose translation fails opens a record with the class, the access and the unit, or leaves the records as they are where
the page has one open; a walk that succeeds opens none. R313-R317: a record in its place is served. A host-page denial sends a Page Request;
classes 4 to 11 are aborted, and in hardware mode every fault of classes 1 to 3 outside the grow range; in host-assisted mode those go to
the host. A timeout fails with TIMEOUT. R315: firmware takes the pool's entry at head, moves head on, makes the 64 KiB page fresh, writes
the sixteen PTEs of its Svnapot group with V, R, W and N set and PPN[3:0] of 0b1000, and retries the record; a pool that is empty raises its
event once; an unusable pool or one that reads poisoned aborts the record. -/
def Obligations.WalksAndFaultServiceComplete : Prop :=
  (∀ (u : UnitId) (ctx : Fin 64) (part : Fin 16) (va : Nat) (acc : Access) (s : State) (r : XlRes),
    r = s.translate u ctx.val part.val va acc →
    (∀ pa, r.x = .dev pa → ∃ t, exec (.pageWalk u ctx part va acc) s = .next t ∧ t = r.st ∧ t.mmu.recs = s.mmu.recs) ∧
    (∀ cls lvl pte hst, r.x = .fail cls lvl pte hst →
      (s.openRec ctx.val (va / 4096) = none → ∃ t, exec (.pageWalk u ctx part va acc) s = .next t ∧
        t = { r.st with mmu := { r.st.mmu with
          recs := s.mmu.recs ++ [⟨s.mmu.nextId, va, u, ctx.val, part.val, cls, acc, hst, lvl, BitVec.ofNat 64 pte, [], none, false, false⟩]
          nextId := s.mmu.nextId + 1 } }) ∧
      (∀ f, s.openRec ctx.val (va / 4096) = some f → ∃ t, exec (.pageWalk u ctx part va acc) s = .next t ∧ t = r.st ∧
        t.mmu.recs = s.mmu.recs)) ∧
    (2 ^ 48 ≤ va → r.x = .fail clsAddress 0 0 false ∧ r.st = s) ∧
    (va < 2 ^ 48 → s.ctxOk ctx.val part.val = false → r.x = .fail clsContext 0 0 false ∧ r.st = s)) ∧
  (∀ (id : Word32) (s : State) (f : FaultRec), s.recOf id = some f →
    (f.cls ≠ 0 → f.queue = none → f.posted = false → s.queueUse (unitQueue f.unit) < queueCap (unitQueue f.unit) →
      (f.cls = clsHostDenied → s.mmu.priFailed = false → s.mmu.prgs.length < 512 → f.pri = false →
        ∀ e, s.ctxEntry f.ctx = some e → ∃ t o, exec (.faultRecordQueued id) s = .next t ∧
          t = { s with out := s.out ++ [o], mmu := { s.mmu with recs := t.mmu.recs, prgs := s.mmu.prgs ++ [f.id] } } ∧
          t.mmu.recs = mapWhere s.mmu.recs (fun r => r.id == f.id) (fun _ => { f with queue := some (unitQueue f.unit), pri := true }) ∧
          o = .pageRequest e.pasid (leafPpn f.pte.toNat + f.va / 4096 % leafPages f.pte.toNat f.level)
            (f.acc == .read || f.acc == .atomic) (accWrites f.acc) (f.acc == .fetch)) ∧
      (4 ≤ f.cls → f.cls ≠ clsHostDenied → ∃ t u, exec (.faultRecordQueued id) s = .next t ∧ AbortTold f f.cls s u ∧
        RecordClosed f false f.cls u t) ∧
      (f.cls < 4 → s.faultAssist f.part = true → f.part < 16 → ∃ t, exec (.faultRecordQueued id) s = .next t ∧
        t = { s with mmu := { s.mmu with recs := t.mmu.recs }, host := { s.host with events := t.host.events } } ∧
        t.mmu.recs = mapWhere s.mmu.recs (fun r => r.id == f.id) (fun _ => { f with posted := true }) ∧
        ((t.evts f.part).buffer ++ (t.evts f.part).popReqs).length = ((s.evts f.part).buffer ++ (s.evts f.part).popReqs).length + 1 ∧
        (t.evts f.part).seq = nextSeq (s.evts f.part).seq ∧ ∀ p, p ≠ f.part → t.evts p = s.evts p) ∧
      (f.cls < 4 → s.faultAssist f.part = false → s.growFault f = true → ∃ t, exec (.faultRecordQueued id) s = .next t ∧
        t = { s with mmu := { s.mmu with recs := t.mmu.recs } } ∧
        t.mmu.recs = mapWhere s.mmu.recs (fun r => r.id == f.id) (fun _ => { f with queue := some (unitQueue f.unit) })) ∧
      (f.cls < 4 → s.faultAssist f.part = false → s.growFault f = false → ∃ t u, exec (.faultRecordQueued id) s = .next t ∧
        AbortTold f f.cls s u ∧ RecordClosed f false f.cls u t)) ∧
    (∀ e, s.ctxEntry f.ctx = some e → e.timeout ≠ 0 → f.cls ≠ 0 → ∃ t u, exec (.faultTimeout id) s = .next t ∧
      AbortTold f clsTimeout s u ∧ RecordClosed { f with cls := clsTimeout } false clsTimeout u t)) ∧
  (∀ (id : Word32) (s : State) (f : FaultRec) (e : CtxEntry) (d : LineRes) (r : Nat), s.recOf id = some f → f.queue.isSome = true →
    s.growFault f = true → s.ctxEntry f.ctx = some e → d = s.physRead e.part e.poolPa 64 → r = ofLE d.data →
    (d.poison = true ∨ d.st.poolBad e r = true → ∃ t u, exec (.growFaultService id) s = .next t ∧ AbortTold f clsNotPresent d.st u ∧
      RecordClosed { f with cls := clsNotPresent } false clsNotPresent u t) ∧
    (d.poison = false → d.st.poolBad e r = false → recB r 0 8 = recB r 8 8 →
      (mget false s.mmu.poolEmpty f.ctx = true → exec (.growFaultService id) s = .next d.st) ∧
      (mget false s.mmu.poolEmpty f.ctx = false → ∃ t, exec (.growFaultService id) s = .next t ∧
        mget false t.mmu.poolEmpty f.ctx = true ∧ t.getB ⟨irqJBase + 0x2000, 17, 1⟩ = true ∧ t.mmu.recs = s.mmu.recs ∧
        t = { d.st with regs := t.regs, irq := { d.st.irq with routed := t.irq.routed },
                        mmu := { d.st.mmu with poolEmpty := t.mmu.poolEmpty }, host := { d.st.host with events := t.host.events } })) ∧
    (∀ en pa w g x s1, d.poison = false → d.st.poolBad e r = false → recB r 0 8 ≠ recB r 8 8 →
      s1 = { d.st with mmu := { d.st.mmu with poolEmpty := mset false d.st.mmu.poolEmpty f.ctx false } } →
      en = s1.physRead e.part (e.poolPa + 0x40 + 8 * (recB r 0 8 % recB r 0x10 4)) 8 → en.poison = false →
      pa = bits (ofLE en.data) 16 32 * 65536 → w = en.st.physWrite e.part noCore e.poolPa (toLE 8 (recB r 0 8 + 1)) →
      w.granulesOk e.part pa 65536 = true →
      g = { w with hbm := { w.hbm with
          written := w.hbm.written.filter (fun y => !(decide (pa / 65536 * 16 ≤ y.1) && decide (y.1 < pa / 65536 * 16 + 16))) } } →
      x = forEach (upTo 16) g (fun s i => s.physWrite e.part noCore (g.pteAddr e (f.va / 65536 * 65536) e.root.toNat 3 + 8 * i)
        (toLE 8 (2 ^ 63 + (pa / 4096 + 8) * 2 ^ 10 + 7))) →
      ∃ t, exec (.growFaultService id) s = .next t ∧ RecordClosed f true 0 (x.addF ⟨mmuBase + 0x20, 0, 32⟩ 1) t))

/-- R307-R309: an ATS completion that grants what the access needs is kept and releases the record, one that denies it leaves HOST_DENIED,
another HOST_ERROR; a PRG success retries, an invalid request fails, a failure stops Page Requests until the host enables them; an ATS
invalidation removes what it covers and is answered. R304, R330: the three scopes of MMU_INV queue an invalidation and set busy, a range of
length 0 completes at once; a completion leaves no cached translation that it covers, clears busy with the last one and sets done. -/
def Obligations.HostPagesAndInvalidationsComplete : Prop :=
  ((∀ (id : Word32) (s : State) (f : FaultRec), s.recOf id = some f → f.cls = 0 →
    (∀ hpa r w x e, s.ctxEntry f.ctx = some e → permOk f.acc r w x = true →
      ∃ t u, exec (.atsTranslationCompletion id (.granted hpa r w x)) s = .next t ∧ RecordClosed f true 0 u t ∧
        u = { s with mmu := { s.mmu with atc := u.mmu.atc } } ∧
        (⟨e.pasid, leafPpn f.pte.toNat + f.va / 4096 % leafPages f.pte.toNat f.level, hpa / 4096 * 4096, r, w, x⟩ : AtcEntry) ∈ u.mmu.atc) ∧
    (∀ hpa r w x e, s.ctxEntry f.ctx = some e → permOk f.acc r w x = false →
      ∃ t, exec (.atsTranslationCompletion id (.granted hpa r w x)) s = .next t ∧
        t = { s with mmu := { s.mmu with recs := mapWhere s.mmu.recs (fun y => y.id == f.id) (fun _ => { f with cls := 9 }) } }) ∧
    (∀ res, res = .unsupported ∨ res = .aborted → ∃ t, exec (.atsTranslationCompletion id res) s = .next t ∧
      t = { s with mmu := { s.mmu with recs := mapWhere s.mmu.recs (fun y => y.id == f.id) (fun _ => { f with cls := 10 }) } })) ∧
  (∀ (id : Word32) (s : State) (f : FaultRec), s.recOf id = some f → s.mmu.prgs.contains id = true →
    (∃ t u, exec (.prgResponse id .success) s = .next t ∧ RecordClosed f true 0 (s.addF ⟨mmuBase + 0x20, 0, 32⟩ 1) u ∧ t = u.nextPrgs) ∧
    (∃ t u v, exec (.prgResponse id .invalid) s = .next t ∧ AbortTold f 9 s u ∧ RecordClosed { f with cls := 9 } false 9 u v ∧
      t = v.nextPrgs) ∧
    (∃ t u v, exec (.prgResponse id .failure) s = .next t ∧ AbortTold f 9 { s with mmu := { s.mmu with priFailed := true } } u ∧
      RecordClosed { f with cls := 9 } false 9 u v ∧ t = forEach (v.mmu.recs.filter (fun r => r.cls == 9 && r.queue.isSome && !r.pri)) v
        (fun s r => match s.recOf r.id with | some f => s.abortRec f 9 true | none => s))) ∧
  (∀ (pasid : Option (BitVec 20)) (page pages : Nat) (s : State), ∃ t, exec (.atsInvalidateRequest pasid page pages) s = .next t ∧
    t = { s with out := s.out ++ [.invCompletion], mmu := { s.mmu with atc := t.mmu.atc, tlb := t.mmu.tlb } } ∧
    (∀ a, a ∈ t.mmu.atc → a ∈ s.mmu.atc ∧ ¬((∀ p, pasid = some p → p = a.pasid) ∧ page ≤ a.page ∧ a.page < page + pages)) ∧
    (∀ a, a ∈ t.mmu.tlb → a ∈ s.mmu.tlb) ∧
    (pasid = none → ∀ a, a ∈ t.mmu.tlb → a.host = true → a.ppn + a.pages ≤ page ∨ page + pages ≤ a.ppn))) ∧
  ((∀ s : State,
    (∃ t, exec .invalidateAll s = .next t ∧ t = { s with regs := t.regs, mmu := { s.mmu with invs := s.mmu.invs ++ [⟨none, none, none, none, 0⟩] } } ∧
      OtherRegs [mmuBase + 8] s t ∧ t.reg (mmuBase + 8) = setFld (setFld (s.reg (mmuBase + 8)) 8 2 0) 11 1 1) ∧
    (∃ t, exec .invalidateContext s = .next t ∧ t = { s with regs := t.regs, mmu := { s.mmu with invs :=
        s.mmu.invs ++ [⟨some (s.getF ⟨mmuBase + 8, 0, 6⟩), none, none, none, 0⟩] } } ∧
      OtherRegs [mmuBase + 8] s t ∧ t.reg (mmuBase + 8) = setFld (setFld (s.reg (mmuBase + 8)) 8 2 1) 11 1 1) ∧
    (s.getF ⟨mmuBase + 0x18, 0, 36⟩ = 0 → ∃ t, exec .invalidateRange s = .next t ∧ OnlyRegs [mmuBase + 8] s t ∧
      t.reg (mmuBase + 8) = setFld (setFld (s.reg (mmuBase + 8)) 8 2 2) 12 1 1) ∧
    (s.getF ⟨mmuBase + 0x18, 0, 36⟩ ≠ 0 → ∃ t, exec .invalidateRange s = .next t ∧
      t = { s with regs := t.regs, mmu := { s.mmu with invs := s.mmu.invs ++ [⟨some (s.getF ⟨mmuBase + 8, 0, 6⟩),
        some (s.getF ⟨mmuBase + 0x10, 12, 36⟩, s.getF ⟨mmuBase + 0x18, 0, 36⟩), none, none, 0⟩] } } ∧
      OtherRegs [mmuBase + 8] s t ∧ t.reg (mmuBase + 8) = setFld (setFld (s.reg (mmuBase + 8)) 8 2 2) 11 1 1)) ∧
  (∀ (s : State) (q : InvReq) (rest : List InvReq), s.mmu.invs = q :: rest → q.src = none →
    ∃ t, exec .invalidationComplete s = .next t ∧
      t = { s with regs := t.regs, mmu := { s.mmu with invs := rest, tlb := t.mmu.tlb, atc := t.mmu.atc } } ∧
      OtherRegs [mmuBase + 8] s t ∧
      t.reg (mmuBase + 8) = setFld (setFld (s.reg (mmuBase + 8)) 11 1 (if rest = [] then 0 else 1)) 12 1 1 ∧
      t.mmu.tlb = s.mmu.tlb.filter (fun e => !s.invCovers q e.ctx e.page e.pages) ∧ ∀ a, a ∈ t.mmu.atc → a ∈ s.mmu.atc))

/-- R326-R328: a stopped unit of a cell that is being saved is copied into the saved context; when it is a matrix core, its state becomes SAVED.
A cell whose context a KRESUME waits for gets every saved unit back, and runs again. Saved contexts are structures of the model (log entry
26). -/
def Obligations.SavesAndRestoresComplete : Prop :=
  (∀ (n : Fin 1920) (s : State) (x : SavedCtx), s.savedOf (n.val / 4) (s.cellPart (n.val / 4)) = some x →
    x.need.contains (n.val % 4) = true → x.done.contains (n.val % 4) = false → s.unitStopped (n.val / 4) (n.val % 4) = true →
    ∃ t, exec (.cellSaveComplete (.mc n)) s = .next t ∧ t = ((s.saveUnit (n.val / 4) (n.val % 4) x).stopDone (n.val / 4)).drainResets ∧
      (s.saveUnit (n.val / 4) (n.val % 4) x).getF (mxcSt n.val) = 5) ∧
  (∀ (n : Fin 480) (s : State) (x : SavedCtx), s.savedOf n.val (s.cellPart n.val) = some x → x.need.contains 4 = true →
    x.done.contains 4 = false → (s.rv n.val).stopped = true →
    ∃ (t u : State), exec (.cellSaveComplete (.vc n)) s = .next t ∧ t = (u.stopDone n.val).drainResets ∧
      u = { s with mmu := u.mmu, parts := { s.parts with saved := u.parts.saved } } ∧
      u.savedOf n.val (s.cellPart n.val) = some { x with
        done := x.done ++ [4], regs := (u.savedOf n.val (s.cellPart n.val)).elim [] (·.regs), vc := { s.rv n.val with held := none, resv := none, waiting := false } } ∧
      ∀ r, r ∈ u.mmu.recs → Waiter.vc n.val ∉ r.waiters) ∧
  (∀ (n : Fin 480) (s : State) (x : SavedCtx), s.savedOf n.val (s.cellPart n.val) = some x → x.need.contains 5 = true →
    x.done.contains 5 = false → s.getB ⟨dmaBase n.val, 30, 1⟩ = true →
    ∃ t, exec (.cellSaveComplete (.cellUnit n)) s = .next t ∧ t = ((s.saveUnit n.val 5 x).stopDone n.val).drainResets) ∧
  (∀ (c : Fin 480) (s : State) (x : SavedCtx) (k : Kernel), s.savedOf c.val (s.cellPart c.val) = some x →
    s.host.kernels.find? (fun k => k.phase == .restoring && k.part == s.cellPart c.val && bit k.rcd.toNat c.val) = some k →
    k.resumer = none →
    (k.cells.any (fun d => ((((forEach x.done s (fun s u => s.restoreUnit x u)).dropSaved c.val (s.cellPart c.val)).releaseCell c.val).savedOf d
      (s.cellPart c.val)).isSome) = false) →
    ∃ t u, exec (.cellRestoreComplete c) s = .next t ∧
      u = ((forEach x.done s (fun s u => s.restoreUnit x u)).dropSaved c.val (s.cellPart c.val)).releaseCell c.val ∧
      t = { u with host := { u.host with
          kernels := mapWhere u.host.kernels (fun y => y.id == k.id) (fun y => { y with phase := .running, resumer := none }) } } ∧
      t.savedOf c.val (s.cellPart c.val) = none)

/-! ### Cell DMA engines (R332-R358, R463, R464) -/

/-- R338, R351: the lines of a row of the queue's next descriptor return. A held access holds the descriptor at its row; else the row's bytes go
to their destination and one more row is done. An engine that is stopped moves nothing. R338, R339, R341-R343: COPY, PANEL and IMAGE move
the rows that their descriptor has left. A plain COPY of one row puts its len0 source bytes, with their poison, at its destination; a PANEL
or IMAGE of one plane puts the object built from the plane at its destination. R463, R464: a multicast target that completes OK has taken
its copies and is delivered; another, or one that times out, is undelivered; with mcast_to 0 no target times out. A completion after the
timeout delivers the held copies and is discarded. -/
def Obligations.DescriptorMovesComplete : Prop :=
  (∀ (c : Fin 480) (q : Fin 6) (s : State),
    (∀ i t s1 r, s.dmaReady c.val q.val = some (i, t) → s1 = s.updDesc c.val q.val i (fun x => { x with phase := .moving }) →
      r = s1.descRow (s.mover c.val q.val) c.val q.val (descOf t.d) t.rowsDone →
      (∀ id, r.held = some id → ∃ u, exec (.dmaLineResponse c q) s = .next u ∧ OnlyDma s u ∧
        u = r.st.updDesc c.val q.val i (fun x => { x with phase := .held id })) ∧
      (∀ w, r.held = none → r.code = 0 → (descOf t.d).mcast = false →
        w = r.st.putOuts (s.mover c.val q.val) c.val q.val i (descOf t.d) r.outs → w.2 = none →
        ∃ u, exec (.dmaLineResponse c q) s = .next u ∧ OnlyDma s u ∧ RowDone c.val q.val i 0 r.poison w.1 u)) ∧
    (s.getB ⟨dmaBase c.val, 30, 1⟩ = true → exec (.dmaLineResponse c q) s = .next s ∧ exec (.dmaCopy c q) s = .next s ∧
      exec (.dmaPanel c q) s = .next s ∧ exec (.dmaImage c q) s = .next s ∧ exec (.dmaKey c q) s = .next s ∧
      exec (.dmaFetchAdd c q) s = .next s ∧ exec (.dmaClaim c q) s = .next s ∧ exec (.dmaPresent c q) s = .next s ∧
      exec (.dmaMaskload c q) s = .next s)) ∧
  (∀ (c : Fin 480) (q : Fin 6) (s : State) (i : Nat) (t : DescState) (d : Desc) (s1 : State) (x : Mover),
    s.dmaReady c.val q.val = some (i, t) → d = descOf t.d → x = s.mover c.val q.val →
    s1 = s.updDesc c.val q.val i (fun x => { x with phase := .moving }) → d.mcast = false →
    (d.kind = 0 → ∃ u, exec (.dmaCopy c q) s = .next u ∧ u = s.dmaRows c.val q.val t.d (d.n1 * d.n2 - t.rowsDone) ∧ OnlyDma s u) ∧
    (∀ g, d.kind = 0 → d.n1 * d.n2 = t.rowsDone + 1 → d.gather = false → d.scatter = false → d.trans = false → d.zpad = false →
      d.conv = false → d.dstSp ≠ 0 → 1 ≤ d.n1 → 1 ≤ d.n2 →
      g = s1.spGet x d.srcSp d.srcMc (d.src + (t.rowsDone / d.n1 : Nat) * d.s2 + (t.rowsDone % d.n1 : Nat) * d.s1) d.len → g.held = none →
      ∃ u, exec (.dmaCopy c q) s = .next u ∧ OnlyDma s u ∧ RowDone c.val q.val i 0 (g.bs.any (·.2)) (g.st.scratchPut c.val d.dstSp d.dstMc
        (toBits (d.dst + (t.rowsDone / d.n1 : Nat) * d.d2 + (t.rowsDone % d.n1 : Nat) * d.d1) 64) g.bs) u) ∧
    (∀ r o, d.kind = 1 → d.n2 = t.rowsDone + 1 → d.dstSp ≠ 0 → r = s1.operandPlane x d t.rowsDone → r.held = none → r.outs = [o] →
      ∃ u, exec (.dmaPanel c q) s = .next u ∧ OnlyDma s u ∧ o.1 = d.dst + (t.rowsDone : Nat) * d.d2 ∧
        RowDone c.val q.val i 0 r.poison (r.st.scratchPut c.val d.dstSp d.dstMc (toBits o.1 64) o.2) u) ∧
    (∀ r o, d.kind = 2 → d.n2 = t.rowsDone + 1 → d.dstSp ≠ 0 → r = s1.operandPlane x d t.rowsDone → r.held = none → r.outs = [o] →
      ∃ u, exec (.dmaImage c q) s = .next u ∧ OnlyDma s u ∧ o.1 = d.dst + (t.rowsDone : Nat) * d.d2 ∧
        RowDone c.val q.val i 0 r.poison (r.st.scratchPut c.val d.dstSp d.dstMc (toBits o.1 64) o.2) u)) ∧
  (∀ (c : Fin 480) (q : Fin 6) (target : Fin 480) (s : State),
    (∀ i t, s.waitsFor c.val q.val target.val = some i → (s.dmaQ c.val q.val)[i]? = some t →
      (s.cellDown target.val = false → ∃ u, exec (.mcastTargetCompletion c q target true) s = .next u ∧ OnlyDma s u ∧
        u = ((s.takeCopies target.val t.copies).updDesc c.val q.val i
          (fun x => { x with targets := mput x.targets target.val .delivered })).dmaSettle c.val q.val) ∧
      (∃ u, exec (.mcastTargetCompletion c q target false) s = .next u ∧ OnlyDma s u ∧
        u = (s.updDesc c.val q.val i (fun x => { x with targets := mput x.targets target.val .undelivered })).dmaSettle c.val q.val) ∧
      (s.getF ⟨redBase, 0, 16⟩ ≠ 0 → ∃ u, exec (.mcastTimeout c q target) s = .next u ∧ OnlyDma s u ∧
        u = (s.updDesc c.val q.val i (fun x => { x with targets := mput x.targets target.val .undelivered })).dmaSettle c.val q.val) ∧
      (s.getF ⟨redBase, 0, 16⟩ = 0 → exec (.mcastTimeout c q target) s = .next s)) ∧
    (∀ e, s.waitsFor c.val q.val target.val = none →
      (s.dmaOf c.val).late.find? (fun e => e.1 == q.val && e.2.1 == target.val) = some e → s.cellDown target.val = false →
      ∃ u, exec (.mcastTargetCompletion c q target true) s = .next u ∧ OnlyDma s u ∧
        (u.dmaOf c.val).queues = (s.dmaOf c.val).queues ∧ (u.dmaOf c.val).late = (s.dmaOf c.val).late.erase e ∧
        u = forEach e.2.2 (s.setDma c.val { s.dmaOf c.val with late := (s.dmaOf c.val).late.erase e })
          (fun s m => s.scratchPut target.val m.space m.mc m.off m.data)))

/-- R231, R232, R344: the atomic kinds perform their one operation at the source's home and put the 8 B they return at a scratch destination;
MASKLOAD puts its record's mask, or discard-all for a poisoned or refused one, in force; KEY sets the queue's key state. -/
def Obligations.AtomicMaskloadKeyComplete : Prop :=
  ∀ (c : Fin 480) (q : Fin 6) (s : State) (i : Nat) (t : DescState) (d : Desc) (s1 : State) (x : Mover),
    s.dmaReady c.val q.val = some (i, t) → d = descOf t.d → x = s.mover c.val q.val → t.rowsDone = 0 → d.mcast = false →
    s1 = s.updDesc c.val q.val i (fun x => { x with phase := .moving }) →
    (∀ (y : RunRes) g rest a, d.kind = 3 → d.aop = 0 → d.dstSp ≠ 0 → y = s1.xlRun x.u x.ctx x.part d.src 8 .atomic → y.bad = none →
      y.segs = g :: rest → g.host = false → a = y.st.amoAt noCore x.part .add 64 g.pa d.aux →
      ∃ u, exec (.dmaFetchAdd c q) s = .next u ∧ OnlyDma s u ∧ RowDone c.val q.val i 0 a.poison
        (a.st.scratchPut c.val d.dstSp d.dstMc (toBits d.dst 64)
          ((toLE 8 (ofLE (y.st.physRead x.part g.pa 8).data)).map (fun b => (b, a.poison)))) u) ∧
    (∀ (y : RunRes) g rest, d.kind = 3 → d.dstSp ≠ 0 → y = s1.xlRun x.u x.ctx x.part d.src 32 .atomic → y.bad = none →
      y.segs = g :: rest → g.host = false →
      (∀ a, d.aop = 1 → a = y.st.wcClaim x.part g.pa d.aux (queueCore c.val q.val) →
        ∃ u, exec (.dmaClaim c q) s = .next u ∧ OnlyDma s u ∧ RowDone c.val q.val i (if a.dup then stDuplicate else 0) a.poison
          (a.st.scratchPut c.val d.dstSp d.dstMc (toBits d.dst 64) ((toLE 8 a.ticket).map (fun b => (b, a.poison)))) u) ∧
      (∀ a, d.aop = 2 → a = y.st.wcPresent x.part g.pa d.aux (queueCore c.val q.val) →
        ∃ u, exec (.dmaPresent c q) s = .next u ∧ OnlyDma s u ∧ RowDone c.val q.val i (if a.dup then stDuplicate else 0) a.poison
          (a.st.scratchPut c.val d.dstSp d.dstMc (toBits d.dst 64) ((toLE 8 a.ticket).map (fun b => (b, a.poison)))) u)) ∧
    (∀ g, d.kind = 4 → g = s1.spGet x 0 0 d.src 128 → g.held = none →
      (∀ k, g.bs.any (·.2) = false → maskOfRecord (g.bs.map (·.1)) = some k → ∃ u, exec (.dmaMaskload c q) s = .next u ∧ OnlyDma s u ∧
        RowDone c.val q.val i 0 false (g.st.updMc (4 * c.val + q.val) (fun m => m.maskDone k)) u) ∧
      (g.bs.any (·.2) = false → maskOfRecord (g.bs.map (·.1)) = none → ∃ u, exec (.dmaMaskload c q) s = .next u ∧ OnlyDma s u ∧
        RowDone c.val q.val i stMaskRefused false (g.st.updMc (4 * c.val + q.val) (fun m => m.maskDone .discardAll)) u) ∧
      (g.bs.any (·.2) = true → ∃ u, exec (.dmaMaskload c q) s = .next u ∧ OnlyDma s u ∧
        RowDone c.val q.val i 0 true (g.st.updMc (4 * c.val + q.val) (fun m => m.maskDone .discardAll)) u)) ∧
    (d.kind = 5 → ∃ u, exec (.dmaKey c q) s = .next u ∧ OnlyDma s u ∧
      u.dmaKey c.val q.val = ⟨BitVec.ofNat 64 d.aux, BitVec.ofNat 16 (toBits d.s2 16), BitVec.ofNat 32 (toBits d.s1 32),
        BitVec.ofNat 32 (toBits d.d1 32)⟩ ∧
      (∀ k, k ≠ q.val → u.dmaKey c.val k = s.dmaKey c.val k) ∧ ∀ b k, b ≠ c.val → u.dmaOf b = s.dmaOf b ∧ u.dmaKey b k = s.dmaKey b k)

/-! ### Synchronisation counters and barriers (R359-R383) -/

/-- R362, R366, R367: the sync unit of the target adds the oldest signal of its source to the counter, live, and answers OK; a sum past 65,535
saturates and sets the sticky flag, and with the counter strict it is a pending error with its event. A signal to a cell of another
partition, or to a cell that is down, changes no counter and is answered TARGET_DOWN, which its sender counts as lost. R371-R373: a node
counts an arrival until its children have all arrived; the last one clears the count and goes on to the parent, or, at the root, a release
leaves for every participant. -/
def Obligations.SignalsAndBarrierNodesComplete : Prop :=
  ((∀ (g : Signal) (s : State) (cell k v : Nat), s.signalFirst g = true → cell = coreCell g.target → k = coreKey g.target →
    v = (s.syncOf k).val g.sn.val + g.value.toNat → s.cellDown cell = false → s.savedSync cell g.stamp.val = none →
    s.cellPart cell = g.stamp.val →
    (v ≤ 65535 → ∃ t, exec (.signalReceive g) s = .next t ∧ t = { s with regs := t.regs, sync := t.sync } ∧
      (∀ key, t.reg key = s.reg key) ∧ t.sync = { s.sync with
        cores := t.sync.cores, signals := s.sync.signals.erase g, answers := s.sync.answers ++ [(coreCell g.sender, false)] } ∧
      (∀ j, j ≠ k → t.syncOf j = s.syncOf j) ∧
      t.syncOf k = { s.syncOf k with cnt := mset 0 (s.syncOf k).cnt g.sn.val (BitVec.ofNat 16 v), idle := (t.syncOf k).idle }) ∧
    (65535 < v → (s.reg (synKey k)).getLsbD g.sn.val = false → ∃ t, exec (.signalReceive g) s = .next t ∧
      t = { s with regs := t.regs, sync := t.sync } ∧ OtherRegs [synKey k + 8] s t ∧
      t.reg (synKey k + 8) = s.reg (synKey k + 8) ||| (1#64 <<< g.sn.val) ∧ (∀ j, j ≠ k → t.syncOf j = s.syncOf j) ∧
      t.syncOf k = { s.syncOf k with cnt := mset 0 (s.syncOf k).cnt g.sn.val 0xFFFF, idle := (t.syncOf k).idle }) ∧
    (65535 < v → (s.reg (synKey k)).getLsbD g.sn.val = true → cell < 480 → ∃ t, exec (.signalReceive g) s = .next t ∧
      t = { s with regs := t.regs, sync := t.sync, irq := { s.irq with routed := t.irq.routed } } ∧
      OtherRegs ([synKey k + 8, synKey k + 0x10] ++ (cstatHome cell 6).keys) s t ∧
      t.getB ⟨(cstatHome cell 6).key, 6, 1⟩ = true ∧ (t.syncOf k).val g.sn.val = 65535 ∧
      (t.syncOf k).pend.contains g.sn.val = true ∧ ∀ j, j ≠ k → t.syncOf j = s.syncOf j)) ∧
  (∀ (g : Signal) (s : State), s.signalFirst g = true → s.cellDown (coreCell g.target) = true →
    ∃ t, exec (.signalReceive g) s = .next t ∧ t = { s with sync := { s.sync with
      signals := s.sync.signals.erase g, answers := s.sync.answers ++ [(coreCell g.sender, true)] } }) ∧
  (∀ (g : Signal) (s : State) (cell : Nat), s.signalFirst g = true → cell = coreCell g.target → s.cellDown cell = false →
    s.savedSync cell g.stamp.val = none → s.cellPart cell ≠ g.stamp.val →
    ∃ t, exec (.signalReceive g) s = .next t ∧
      t = { s with regs := t.regs, irq := { s.irq with routed := t.irq.routed }, sync := { s.sync with
        signals := s.sync.signals.erase g, answers := s.sync.answers ++ [(coreCell g.sender, true)] } } ∧
      OtherRegs ([synBase cell + 0x108] ++ (cstatHome cell 7).keys) s t) ∧
  (∀ (c : Fin 480) (s : State), s.sync.answers.contains (c.val, false) = true → ∃ t, exec (.signalCompletion c false) s = .next t ∧
    t = { s with sync := { s.sync with answers := s.sync.answers.erase (c.val, false) } }) ∧
  (∀ (c : Fin 480) (s : State), s.sync.answers.contains (c.val, true) = true → ∃ t, exec (.signalCompletion c true) s = .next t ∧
    t = { s with regs := t.regs, irq := { s.irq with routed := t.irq.routed },
                 sync := { s.sync with answers := s.sync.answers.erase (c.val, true) } } ∧
    OtherRegs ([synBase c.val + 0x108] ++ (cstatHome c.val 7).keys) s t ∧
    t.getF ⟨synBase c.val + 0x108, 0, 16⟩ = satAdd (s.getF ⟨synBase c.val + 0x108, 0, 16⟩) 1 16 ∧
    t.getB ⟨(cstatHome c.val 7).key, 7, 1⟩ = true)) ∧
  (∀ (node : BarNode) (part : Fin 16) (bid : BitVec 10) (gen : BitVec 2) (s : State) (cfg : BarCfg) (e : NodeEntry) (n key : Nat),
    s.sync.arrivals.contains (node, part.val, bid, gen) = true → s.barCfg part.val bid.toNat = some cfg →
    key = nodeKey part.val bid.toNat (nodeNo node) → mget none s.sync.nodes key = some e → n = mget 0 e.counts gen.toNat + 1 →
    (n < e.expected → ∃ t, exec (.barrierNodeArrival node part bid gen) s = .next t ∧ t = { s with sync := { s.sync with
      arrivals := s.sync.arrivals.erase (node, part.val, bid, gen)
      nodes := mset none s.sync.nodes key (some { e with counts := mset 0 e.counts gen.toNat n }) } }) ∧
    (e.expected ≤ n → ∀ up, parentOf cfg.scope (nodeNo node) = some up →
      ∃ t, exec (.barrierNodeArrival node part bid gen) s = .next t ∧ t = { s with sync := { s.sync with
        arrivals := s.sync.arrivals.erase (node, part.val, bid, gen) ++ [(nodeOf up, part.val, bid, gen)]
        nodes := mset none s.sync.nodes key (some { e with counts := mset 0 e.counts gen.toNat 0 }) } }) ∧
    (e.expected ≤ n → parentOf cfg.scope (nodeNo node) = none → cfg.scope ≠ 3 →
      ∃ t, exec (.barrierNodeArrival node part bid gen) s = .next t ∧ t = { s with sync := { s.sync with
        arrivals := s.sync.arrivals.erase (node, part.val, bid, gen)
        nodes := mset none s.sync.nodes key (some { e with counts := mset 0 e.counts gen.toNat 0 })
        releases := s.sync.releases ++ cfg.cores.map (fun b => (coreKey (bitCore b), part.val, bid, gen)) } }))

/-- R375, R378, R380: a release of an open entry closes it and adds 1 to the counter that it named, and ends the core's stall on the barrier; a
core that waits is reported idle; a core whose oldest round has hung raises its event once for that round. -/
def Obligations.ReleasesIdleReportsAndHangs : Prop :=
  (∀ (core : CoreName) (part : Fin 16) (bid : BitVec 10) (gen : BitVec 2) (s : State) (k : Nat) (b : BarPart) (e : BitVec 2 × Nat),
    k = coreKey core → s.releaseFirst k part.val bid gen = true → s.savedSync (k / 5) part.val = none → s.cellPart (k / 5) = part.val →
    mget none (s.syncOf k).bars bid.toNat = some b → b.entries.find? (fun e => e.1 == gen) = some e →
    (s.syncOf k).val e.2 < 65535 →
    ∃ t, exec (.barrierReleaseApply core part bid gen) s = .next t ∧ t = { s with regs := t.regs, sync := { s.sync with
        releases := s.sync.releases.erase (k, part.val, bid, gen), cores := t.sync.cores } } ∧ (∀ key, t.reg key = s.reg key) ∧
      (∀ j, j ≠ k → t.syncOf j = s.syncOf j) ∧
      t.syncOf k = { s.syncOf k with
        cnt := mset 0 (s.syncOf k).cnt e.2 (BitVec.ofNat 16 ((s.syncOf k).val e.2 + 1))
        bars := mset none (s.syncOf k).bars bid.toNat (some { b with entries := b.entries.erase e })
        hung := (s.syncOf k).hung.filter (fun h => h != (bid.toNat, gen))
        stall := (if (s.syncOf k).stall = some bid.toNat then none else (s.syncOf k).stall), idle := (t.syncOf k).idle }) ∧
  (∀ (core : CoreName) (s : State), coreExists core = true → s.coreWaits core = true →
    s.getF ⟨synBase (coreCell core) + 0x100, 0, 16⟩ ≠ 0 → ∃ t, exec (.idleReport core) s = .next t ∧
      t = { s with sync := { s.sync with cores := t.sync.cores } } ∧ (∀ j, j ≠ coreKey core → t.syncOf j = s.syncOf j) ∧
      t.syncOf (coreKey core) = { s.syncOf (coreKey core) with idle := true }) ∧
  (∀ (core : CoreName) (bid : BitVec 10) (s : State) (g : BitVec 2) (k : Nat), k = coreKey core → s.openRound core bid.toNat = some g →
    s.getF ⟨synBase (coreCell core) + 0x100, 16, 16⟩ ≠ 0 →
    ((s.syncOf k).hung.contains (bid.toNat, g) = false → ∃ t, exec (.syncHang core bid) s = .next t ∧
      t = { s with regs := t.regs, irq := { s.irq with routed := t.irq.routed }, sync := { s.sync with cores := t.sync.cores } } ∧
      OtherRegs (cstatHome (coreCell core) 8).keys s t ∧ t.getB ⟨(cstatHome (coreCell core) 8).key, 8, 1⟩ = true ∧
      (∀ j, j ≠ k → t.syncOf j = s.syncOf j) ∧ t.syncOf k = { s.syncOf k with hung := (s.syncOf k).hung ++ [(bid.toNat, g)] }) ∧
    ((s.syncOf k).hung.contains (bid.toNat, g) = true → exec (.syncHang core bid) s = .next s))

/-! ### Chonen ports: training, flits and timers (R397-R418, R428-R438) -/

/-- R401, R402, R404: a port that is enabled leaves DISABLED for DETECT, and DISABLED comes back from every state; a signal brings TUNE, a tuned
lane ALIGN, an aligned lane CONFIG with the port's record to send; no tuned lane backs off; a step that fails or times out, and a back-off
that ends, bring DETECT. Training steps within RETRAIN are held as log entry 33 says; a signal implies FAB_REFCLK (log entry 47). -/
def Obligations.PortTrainingSteps : Prop :=
  ∀ (p : Fin 18) (s : State),
    (s.pst p.val = 0 → ∃ t, exec (.portEnable p) s = .next t ∧ InDetect p.val (s.putF (pctlEnable p.val) 1) t) ∧
    (s.pst p.val ≠ 0 → ∃ t, exec (.portEnable p) s = .next t ∧ OnlyRegs [portKey p.val] s t ∧
      t.reg (portKey p.val) = setFld (s.reg (portKey p.val)) 0 1 1) ∧
    (∃ t, exec (.portDisable p) s = .next t ∧ OnlyPort p.val [portKey p.val, portKey p.val + 8] s t ∧ t.pst p.val = 0 ∧
      t.reg (portKey p.val) = setFld (s.reg (portKey p.val)) 0 1 0 ∧ t.getF (pstLanes p.val) = 0 ∧
      t.port p.val = { (s.port p.val).drop with sub := 0, backoff := false, lost := 0, record := none, agreed := none }) ∧
    (s.pst p.val = 1 → ∃ t, exec (.portSignalDetect p) s = .next t ∧
      t = { s with regs := t.regs, ports := t.ports, power := { s.power with fabClk := true } } ∧ OtherRegs [portKey p.val + 8] s t ∧
      t.reg (portKey p.val + 8) = setFld (s.reg (portKey p.val + 8)) 0 4 2 ∧ (∀ m, m ≠ p.val → t.port m = s.port m) ∧
      t.port p.val = { s.port p.val with
        pmd := BitVec.ofNat 2 (s.getF (pctlPmd p.val)), maxWidth := BitVec.ofNat 2 (s.getF (pctlWidth p.val))
        backupCap := s.getB (pctlBackup p.val) }) ∧
    (∀ b : BitVec 4, s.pst p.val = 2 → (s.port p.val).backoff = false →
      (b ≠ 0 → ∃ t, exec (.portTuneDone p b) s = .next t ∧ OnlyPort p.val [portKey p.val + 8] s t ∧
        t.reg (portKey p.val + 8) = setFld (s.reg (portKey p.val + 8)) 0 4 3 ∧ t.port p.val = { s.port p.val with tuned := b }) ∧
      (b = 0 → ∃ t, exec (.portTuneDone p b) s = .next t ∧ OnlyPort p.val [] s t ∧
        t.port p.val = { s.port p.val with tuned := 0, backoff := true })) ∧
    (∀ (a : BitVec 4) (rev : Bool), s.pst p.val = 3 →
      (a &&& (s.port p.val).tuned ≠ 0 → ∃ t, exec (.portAlignDone p a rev) s = .next t ∧ OnlyPort p.val [portKey p.val + 8] s t ∧
        t.reg (portKey p.val + 8) = setFld (setFld (s.reg (portKey p.val + 8)) 10 1 (b2n rev)) 0 4 4 ∧
        t.port p.val = { s.port p.val with aligned := a &&& (s.port p.val).tuned, record := none, ctrl := [1] }) ∧
      (a &&& (s.port p.val).tuned = 0 → ∃ t, exec (.portAlignDone p a rev) s = .next t ∧ InDetect p.val s t)) ∧
    ((s.pst p.val = 2 ∧ (s.port p.val).backoff = false) ∨ s.pst p.val = 3 ∨ s.pst p.val = 4 ∨ s.pst p.val = 6 →
      ∃ t, exec (.portStateTimeout p) s = .next t ∧ InDetect p.val s t) ∧
    (s.pst p.val = 2 → (s.port p.val).backoff = true → ∃ t, exec (.portTuneBackoff p) s = .next t ∧ InDetect p.val s t)

/-- R404, R406, R408, R414, R417, R429, R431, R438: an ACTIVE port retrains when a lane is lost or above its error threshold, when commanded,
and while it is degraded at ever longer intervals; a quarantine is released to DETECT, by the timer at most three times in an hour; the last
limited channel clears the sign; a replay starts at the oldest flit; the timers queue their flits. -/
def Obligations.PortTimersAndRetrains : Prop :=
  ∀ (p : Fin 18) (s : State),
    (∀ lane : Fin 4, s.pst p.val = 5 → bit (s.getF (pstLanes p.val)) lane.val = true →
      (∃ t, exec (.laneLockLost p lane) s = .next t ∧ InRetrain p.val 1 (BitVec.ofNat 4 (2 ^ lane.val)) true s t) ∧
      (∀ n : BitVec 16, s.getF (pctlLaneTh p.val) < n.toNat → ∃ t, exec (.laneErrorThreshold p lane n) s = .next t ∧
        InRetrain p.val 2 (BitVec.ofNat 4 (2 ^ lane.val)) true (s.putF ⟨portKey p.val + 0x28, 16 * lane.val, 16⟩ n.toNat) t)) ∧
    (∀ (lane : Fin 4) (n : BitVec 16), n.toNat ≤ s.getF (pctlLaneTh p.val) → ∃ t, exec (.laneErrorThreshold p lane n) s = .next t ∧
      OnlyRegs [portKey p.val + 0x28] s t ∧ t.getF ⟨portKey p.val + 0x28, 16 * lane.val, 16⟩ = n.toNat) ∧
    (s.pst p.val = 5 → ∃ t, exec (.portRetrain p) s = .next t ∧ InRetrain p.val 5 0 true s t) ∧
    (s.pst p.val ≠ 5 → exec (.portRetrain p) s = .next s) ∧
    (s.pst p.val = 5 → s.getB (pstDegraded p.val) = true → s.linkAssist p.val = false →
      ∃ t, exec (.degradedRetrainTimer p) s = .next t ∧
        InRetrain p.val 5 0 true (s.setPort p.val { s.port p.val with degWait := min 3600 (2 * (s.port p.val).degWait) }) t) ∧
    (s.pst p.val = 7 → s.linkAssist p.val = false → (∃ t, exec (.portUnquarantine p) s = .next t ∧ InDetect p.val s t) ∧
      ((s.recent (s.port p.val).releases (3600 * tickS)).length < 3 → ∃ t, exec (.quarantineReleaseTimer p) s = .next t ∧
        InDetect p.val (s.setPort p.val { s.port p.val with
          releases := s.recent (s.port p.val).releases (3600 * tickS) ++ [s.mtime] }) t) ∧
      (3 ≤ (s.recent (s.port p.val).releases (3600 * tickS)).length → exec (.quarantineReleaseTimer p) s = .next s)) ∧
    (∀ v : Fin 8, mget false (s.port p.val).limited v.val = true → ∃ t, exec (.rateLimitExpiry p v) s = .next t ∧
      OnlyPort p.val [portKey p.val + 0x20] s t ∧ mget false (t.port p.val).limited v.val = false ∧
      (∀ w, w ≠ v.val → mget false (t.port p.val).limited w = mget false (s.port p.val).limited w) ∧
      t.getB ⟨portKey p.val + 0x20, 34, 1⟩ = (t.port p.val).limited.any (·.2)) ∧
    (∀ f rest, s.pst p.val = 5 → (s.port p.val).retry = f :: rest → (s.port p.val).oldest ≠ some f.seq →
      ∃ t, exec (.replayTimeout p) s = .next t ∧ OnlyPort p.val [portKey p.val + 0x18] s t ∧
        t.getF ⟨portKey p.val + 0x18, 16, 16⟩ = satAdd (s.getF ⟨portKey p.val + 0x18, 16, 16⟩) 1 16 ∧
        t.port p.val = { s.port p.val with
          replay := f :: rest, replayAck := some (f.seq - 1), oldest := some f.seq, sameOldest := 1 }) ∧
    (s.pst p.val = 5 → ∃ t, exec (.creditFlitTimer p) s = .next t ∧ OnlyPort p.val [] s t ∧
      t.port p.val = { s.port p.val with ctrl := (s.port p.val).ctrl ++ [2] }) ∧
    (s.pst p.val = 4 → ∃ t, exec (.configResendTimer p) s = .next t ∧ OnlyPort p.val [] s t ∧
      t.port p.val = { s.port p.val with ctrl := (s.port p.val).ctrl ++ [1] })

/-- R402-R404, R410-R413, R417: a good flit of its kind acts, a bad one is counted and asked for again. A DATA flit with the next sequence
number is taken into its channel's buffer; an IDLE flit gives credits and the acknowledgement; a CREDIT flit moves each return count
forward; a RETRAIN flit retrains without telling the partner; a QUARANTINE flit changes nothing; a CONFIG flit leaves its record. R401,
R409, R412, R417: in a flit time an ACTIVE port sends its oldest control flit, else the next flit of a replay, else an IDLE flit when no
channel has data and credit; a port in CONFIG sends its record, one in QUARANTINED says so, one in a state before CONFIG sends nothing. What
waits for a port has first been routed. Which channel sends is a free value (log entry 34). -/
def Obligations.FlitsAreReceivedAndSent : Prop :=
  (∀ (p : Fin 18) (bs : List Byte) (s : State) (h : Nat) (pay : List Byte), h = flitHdr bs → pay = flitPay bs →
    (s.pst p.val = 5 → flitGood bs = false → ∀ c, c ∈ [Instr.dataFlit p bs, .idleFlit p bs, .creditFlit p bs, .retrainFlit p bs,
        .quarantineFlit p bs, .configFlit p bs] → ∃ t, exec c s = .next t ∧ OnlyPort p.val [portKey p.val + 0x18] s t ∧
      t.getF ⟨portKey p.val + 0x18, 0, 16⟩ = satAdd (s.getF ⟨portKey p.val + 0x18, 0, 16⟩) 1 16 ∧
      t.port p.val = { s.port p.val with
        gapSeen := true, nakSent := true, sendNak := (s.port p.val).sendNak || !(s.port p.val).nakSent }) ∧
    (flitGood bs = true → s.pst p.val = 5 →
      (∀ v ack x, bits h 0 3 = 0 → v = bits h 3 3 → v ≠ 7 → BitVec.ofNat 12 (bits h 6 12) = (s.port p.val).expect →
        mget 0 (s.port p.val).rxFlits v < nth 0 advCredits v → ack = BitVec.ofNat 12 (bits h 18 12) →
        x = ({ s.port p.val with expect := (s.port p.val).expect + 1, nakSent := false, gapSeen := false } : PortState).takeCredits h →
        (x.takeSlots v pay).2 = false →
        ∃ t, exec (.dataFlit p bs) s = .next t ∧ t = (s.setPort p.val (x.takeSlots v pay).1).takeAck p.val ack (bit h 30)) ∧
      (bits h 0 3 = 1 → ∃ t, exec (.idleFlit p bs) s = .next t ∧
        t = (s.setPort p.val ((s.port p.val).takeCredits h)).takeAck p.val (BitVec.ofNat 12 (bits h 18 12)) (bit h 30)) ∧
      (bits h 0 3 = 2 → ofLE (pay.take 1) = 2 → zeroBytes pay 1 8 = true → zeroBytes pay 24 240 = true →
        ∃ t, exec (.creditFlit p bs) s = .next t ∧ OnlyPort p.val [] s t ∧
          t.port p.val = { s.port p.val with ret := (t.port p.val).ret } ∧
          ∀ v w, v < 8 → w = BitVec.ofNat 16 (ofLE ((pay.drop (8 + 2 * v)).take 2)) →
            mget 0 (t.port p.val).ret v = (if 0 < (w - mget 0 (s.port p.val).ret v).toNat ∧
              (w - mget 0 (s.port p.val).ret v).toNat < 2 ^ 15 then w else mget 0 (s.port p.val).ret v)) ∧
      (bits h 0 3 = 2 → ofLE (pay.take 1) = 3 → zeroBytes pay 2 240 = true → ∃ t, exec (.retrainFlit p bs) s = .next t ∧
        InRetrain p.val (ofLE ((pay.drop 1).take 1)) 0 false s t) ∧
      (bits h 0 3 = 2 → ofLE (pay.take 1) = 4 → zeroBytes pay 2 240 = true → exec (.quarantineFlit p bs) s = .next s)) ∧
    (flitGood bs = true → s.pst p.val = 4 → bits h 0 3 = 2 → ofLE (pay.take 1) = 1 →
      (zeroBytes pay 0x19 0x1A && zeroBytes pay 0x1C 0x20 && zeroBytes pay 0x40 240) = true →
      ((pay.drop 32).take 32 ≠ (s.setPort p.val { s.port p.val with record := some (BitVec.ofNat 256 (ofLE (pay.take 32))) }).ownRecord p.val →
        ∃ t, exec (.configFlit p bs) s = .next t ∧ OnlyPort p.val [] s t ∧
          t.port p.val = { s.port p.val with record := some (BitVec.ofNat 256 (ofLE (pay.take 32))) }) ∧
      ((pay.drop 32).take 32 = (s.setPort p.val { s.port p.val with record := some (BitVec.ofNat 256 (ofLE (pay.take 32))) }).ownRecord p.val →
        ∀ i, (upTo 7).find? (fun i => bit ((s.port p.val).offer &&& ofLE ((pay.drop 6).take 1)) i) = some i →
        ∃ t, exec (.configFlit p bs) s = .next t ∧ t.pst p.val = 5 ∧ t.getF (pstWidth p.val) = setWidth i ∧
          t.getF (pstLanes p.val) = (nth 0 laneSets i).toNat ∧
          t = { s with regs := t.regs, ports := t.ports, irq := { s.irq with routed := t.irq.routed },
                       host := { s.host with events := t.host.events } } ∧ ∀ m, m ≠ p.val → t.port m = s.port m))) ∧
  (∀ (p : Fin 18) (s u : State), u = forEach s.fabric.toRoute { s with fabric := { s.fabric with toRoute := [] } } (fun s m => s.sendMsg m true) →
    (∀ k rest, u.pst p.val = 5 → (u.port p.val).ctrl = k :: rest → ∃ t, exec (.flitTransmit p) s = .next t ∧
      t = (u.setPort p.val { u.port p.val with ctrl := rest, owed := if k = 2 then [] else (u.port p.val).owed }).emit
        (.linkFlit p.val (mkFlit 2 (u.ctrlRecord p.val k)))) ∧
    (∀ f rest h, u.pst p.val = 5 → (u.port p.val).ctrl = [] → (u.port p.val).replay = f :: rest →
      h = ({ u.port p.val with
        replay := rest, replayAck := if rest.isEmpty then none else (u.port p.val).replayAck } : PortState).hdrFields →
      ∃ t, exec (.flitTransmit p) s = .next t ∧
        t = (u.setPort p.val h.2).emit (.linkFlit p.val (mkFlit (f.vc * 8 + f.seq.toNat * 64 + h.1) f.pay))) ∧
    (u.pst p.val = 5 → (u.port p.val).ctrl = [] → (u.port p.val).replay = [] →
      (∀ v, v < 7 → (u.port p.val).hasData v = false ∨ (u.port p.val).credit v = false) → ∃ t, exec (.flitTransmit p) s = .next t ∧
        t = (u.setPort p.val (u.port p.val).hdrFields.2).emit (.linkFlit p.val (mkFlit (1 + (u.port p.val).hdrFields.1) []))) ∧
    (∀ k rest, u.pst p.val = 4 → (u.port p.val).ctrl = k :: rest → ∃ t, exec (.flitTransmit p) s = .next t ∧
      t = (u.setPort p.val { u.port p.val with ctrl := rest }).emit (.linkFlit p.val (mkFlit 2 (u.ctrlRecord p.val k)))) ∧
    (u.pst p.val = 7 → ∃ t, exec (.flitTransmit p) s = .next t ∧
      t = u.emit (.linkFlit p.val (mkFlit 2 (toLE 1 4 ++ toLE 1 (s.getF ⟨portKey p.val + 0x20, 16, 4⟩))))) ∧
    (u.pst p.val < 4 → exec (.flitTransmit p) s = .next u))

/-! ### Fabric messages (R390-R396, R419-R428) -/

/-- R421, R423, R424: a PUT or an MCAST copy writes its bytes at its address in its context and is answered OK, a GET is answered with the bytes
read, an ATOMIC with what its operation at the home returns; one that faults is answered XLATE_RETRY and kept while there is room. R372,
R395, R427, R428: a PROBE is answered with the module's number, port and state, PORT_STAT with the port's four registers, NODE_CFG with
UNSUPPORTED; a BARRIER-RELEASE releases every participant of a domain barrier; a BARRIER-ARRIVE is a violation of class 2 that is logged and
not answered. A message command acts on the oldest message (log entry 36). -/
def Obligations.RequestMessagesComplete : Prop :=
  (∀ (p : Fin 18) (h : BitVec 256) (pl : List Byte) (s u : State) (part : Nat), part = (u.jobPart p.val h).getD 16 →
    (∀ w : AccRes, w = u.vWrite (.port p) (hCtx h) part (hBb h) (pl.take (hBytes h)) noCore (some (msgWaiter p.val h)) →
      (∀ d b, w.o = .done d b → hPoison h = false →
        (MsgTaken p.val 1 h pl s u → ∃ t, exec (.put p h pl) s = .next t ∧ Answered p.val h 0 [] false w.st t) ∧
        (MsgTaken p.val 8 h pl s u → ∃ t, exec (.mcast p h pl) s = .next t ∧ Answered p.val h 0 [] false w.st t)) ∧
      (∀ id a, w.o = .held id a → MsgTaken p.val 1 h pl s u → ∃ t v, exec (.put p h pl) s = .next t ∧
        Answered p.val h 1 [] false w.st v ∧ (w.st.fabric.kept.length < 1024 →
          t = { v with fabric := { v.fabric with kept := v.fabric.kept ++ [⟨p.val, h, id⟩] } }) ∧
        (1024 ≤ w.st.fabric.kept.length → t = v))) ∧
    (∀ (r : AccRes) bs b, MsgTaken p.val 2 h pl s u →
      r = u.vRead (.port p) (hCtx h) part (hBb h) (hBytes h) .read (some (msgWaiter p.val h)) → r.o = .done bs b →
      ∃ t, exec (.get p h pl) s = .next t ∧ Answered p.val h 0 (slots bs) b r.st t) ∧
    (∀ (x : RunRes) g rest (a : AmoRes) op, MsgTaken p.val 3 h pl s u → x = u.xlRun (.port p) (hCtx h) part (hBb h) 8 .atomic →
      x.bad = none → x.segs = g :: rest → g.host = false → (hA h % 8 = 0 ∧ op = .add) ∨ (hA h % 8 = 3 ∧ op = .swap) →
      a = x.st.amoAt noCore part op 64 g.pa (ofLE (pl.take 8)) → ∃ t, exec (.atomic p h pl) s = .next t ∧
        Answered p.val h 0 (toLE 16 (ofLE (x.st.physRead part g.pa 8).data)) a.poison a.st t) ∧
    (∀ (x : RunRes) g rest (r : LineRes), MsgTaken p.val 3 h pl s u → x = u.xlRun (.port p) (hCtx h) part (hBb h) 8 .atomic →
      x.bad = none → x.segs = g :: rest → g.host = false → hA h % 8 = 4 → r = x.st.physRead part g.pa 8 → r.poison = false →
      ∃ t, exec (.atomic p h pl) s = .next t ∧ Answered p.val h 0 (toLE 16 (ofLE r.data)) false
        (if ofLE r.data = ofLE (pl.drop 8) then r.st.physWrite part noCore g.pa (toLE 8 (ofLE (pl.take 8))) else r.st) t)) ∧
  (∀ (p : Fin 18) (h : BitVec 256) (pl : List Byte) (s u : State),
    (MsgTaken p.val 10 h pl s u → hA h = 0 → ∃ t, exec (.probe p h pl) s = .next t ∧ Answered p.val h 0
      (toLE 16 (u.modNum + b2n u.numbered * 2 ^ 14 + p.val * 2 ^ 15 + u.pst p.val * 2 ^ 23)) false u t) ∧
    (MsgTaken p.val 10 h pl s u → 2 < hA h % 256 → ∃ t, exec (.probe p h pl) s = .next t ∧ Answered p.val h 4 [] false u t) ∧
    (MsgTaken p.val 10 h pl s u → hA h % 256 = 1 → ∃ t, exec (.nodeCfg p h pl) s = .next t ∧ Answered p.val h 4 [] false u t) ∧
    (MsgTaken p.val 10 h pl s u → hA h % 256 = 2 → ∃ t, exec (.portStat p h pl) s = .next t ∧ Answered p.val h 0
      (toLE 8 (u.reg (portKey p.val + 8)).toNat ++ toLE 8 (u.reg (portKey p.val + 0x18)).toNat ++
        toLE 8 (u.reg (portKey p.val + 0x20)).toNat ++ toLE 8 (u.reg (portKey p.val + 0x28)).toNat) false u t) ∧
    (∀ cfg part, MsgTaken p.val 7 h pl s u → part = (u.jobPart p.val h).getD 16 → u.barCfg part (hA h % 1024) = some cfg → cfg.scope = 3 →
      ∃ t, exec (.barrierRelease p h pl) s = .next t ∧ t = { u with sync := { u.sync with 
          releases := u.sync.releases ++ cfg.cores.map (fun b => (coreKey (bitCore b), part, BitVec.ofNat 10 (hA h), BitVec.ofNat 2 (hA h / 1024))) } }) ∧
    (MsgTaken p.val 6 h pl s u → ∃ t, exec (.barrierArrive p h pl) s = .next t ∧
      t = { u with regs := t.regs, ports := t.ports, irq := { u.irq with routed := t.irq.routed },
                   host := { u.host with events := t.host.events } } ∧
      t.getF ⟨portKey p.val + 0x20, 16, 4⟩ = 2 ∧ t.getF ⟨portKey p.val + 0x20, 20, 14⟩ = hSrc h ∧
      t.getB ⟨(pstatHome p.val 4).key, 4, 1⟩ = true ∧ ∀ m, m ≠ p.val → t.port m = u.port m))

/-- R422, R424, R425: a response of a member that was asked: XLATE_RETRY leaves the request outstanding, RESUME sends it again, OK and any other
status end the member's part, and the service that waited goes on; a response nobody waits for is a DUP_COMPLETION. One millisecond after
XLATE_RETRY every member still silent is asked again; a request whose time has run out fails for every member left. -/
def Obligations.ResponsesAndTimeoutsComplete : Prop :=
  (∀ (p : Fin 18) (h : BitVec 256) (pl : List Byte) (s u : State) (r : OutReq) (who : BitVec 14) (c : Instr),
    c = .fabricResponse p h pl → who = BitVec.ofNat 14 (hSrc h) → hRsp h = true → hType h ≠ 4 →
    (s.port p.val).behind (toLE 32 h.toNat ++ pl) = false →
    (((s.port p.val).frontVc (toLE 32 h.toNat ++ pl)).isSome = true ∨ s.pst p.val = 5) →
    u = (match (s.port p.val).frontVc (toLE 32 h.toNat ++ pl) with | some v => s.updPort p.val (fun p => p.popMsg v) | none => s) →
    u.msgCheck p.val h pl ((s.port p.val).frontVc (toLE 32 h.toNat ++ pl)) = none →
    (u.reqOf (BitVec.ofNat 16 (hTag h)) = some r → r.members.contains who = true →
      (hStatus h = 1 → ∃ t, exec c s = .next t ∧ t = { u with fabric := { u.fabric with
        outstanding := mapWhere u.fabric.outstanding (fun x => x.tag == r.tag) (fun _ => { r with retryOf := r.retryOf.erase who ++ [who] }) } }) ∧
      (hStatus h = 10 → r.retryOf.contains who = true → ∃ t, exec c s = .next t ∧ t = u.resend r who ∧
        t = { u with ports := t.ports, out := t.out, fabric := t.fabric }) ∧
      (hStatus h = 0 → ∃ t, exec c s = .next t ∧ t = (u.reqGood r who pl (hPoison h)).svcKickAll) ∧
      (hStatus h ∉ [0, 1, 10] → ∃ t, exec c s = .next t ∧ t = (u.reqBad r who).svcKickAll)) ∧
    (u.reqOf (BitVec.ofNat 16 (hTag h)) = none → ∃ t, exec c s = .next t ∧
      t = { u with regs := t.regs, ports := t.ports, irq := { u.irq with routed := t.irq.routed },
                   host := { u.host with events := t.host.events } } ∧ t.getF ⟨portKey p.val + 0x20, 16, 4⟩ = 7)) ∧
  (∀ (tag : BitVec 16) (s : State) (r : OutReq), s.reqOf tag = some r →
    (∃ t, exec (.xlateRetryResend tag) s = .next t ∧ t = { s with ports := t.ports, out := t.out, fabric := t.fabric } ∧
      t = forEach r.retryOf s (fun s m => match s.reqOf tag with | some r => s.resend r m | none => s)) ∧
    (hType r.hdr ≠ 8 ∨ s.getF ⟨redBase, 0, 16⟩ ≠ 0 → ∃ t, exec (.transactionTimeout tag) s = .next t ∧
      t = (forEach r.members s (fun s m => match s.reqOf tag with | some x => s.reqBad x m | none => s)).svcKickAll) ∧
    (hType r.hdr = 8 → s.getF ⟨redBase, 0, 16⟩ = 0 → exec (.transactionTimeout tag) s = .next s))

/-! ### Reduction at the package node (R439-R460) -/

/-- R448, R449, R451, R454: a contribution to a fragment not yet closed adds its elements, its count and its status bits, and the fragment
closes when it is complete; one for a round that is not served is answered ROUND_CLOSED. A result for a closed fragment starts its writes,
and one that comes early is kept for it. R451-R456, R460: a local contribution is read at its address and added, left out when it is
poisoned, and held while its read faults; a deadline closes the fragment with its status bit, or in host-assisted mode posts one request for
the round; an acknowledged write makes the fragment done; a fragment that hangs in compatibility mode raises the reduction-hang event once.
Keeping an early result is the model's reading (log entry 39). -/
def Obligations.ReductionsComplete : Prop :=
  (∀ (p : Fin 18) (h : BitVec 256) (pl : List Byte) (s u : State) (part : Nat) (red : RedState) (r : RedRound) (x : Frag),
    part = (u.jobPart p.val h).getD 16 → u.redOf part (rdId h) = some red → red.cur = some r → x = r.frag (rdFrag h) →
    (MsgTaken p.val 4 h pl s u → s.contribWaits p.val h = false → bit r.children p.val = true →
      (r.num = rdRound h → rdFrag h < r.count → rdNf h = r.nf (rdFrag h) → rdFmt h = r.inFmt → (x.st = .free ∨ x.st = .opened) →
        mget 0 x.children p.val &&& ((2 ^ rdN h - 1) * 2 ^ rdFirst h) = 0 → hPoison h = false →
        ∃ t, exec (.reduceContrib p h pl) s = .next t ∧
          t = (u.updCur red (fun r =>
            ({ r with contributed := (if r.contributed.contains p.val then r.contributed else r.contributed ++ [p.val]) } : RedRound).putFrag
              (rdFrag h) { x.add (rdFirst h) (contribEls h pl) (if mget 0 x.children p.val = 0 then rdCount h else 0) (BitVec.ofNat 8 (rdStat h))
                with children := mset 0 x.children p.val (mget 0 x.children p.val ||| (2 ^ rdN h - 1) * 2 ^ rdFirst h) })).settleFrag
            red.part red.id (rdFrag h)) ∧
      (r.num ≠ rdRound h → ∃ t, exec (.reduceContrib p h pl) s = .next t ∧ Answered p.val h 7 [] false u t)) ∧
    (∀ res, MsgTaken p.val 5 h pl s u → r.num = rdRound h → r.root = false → rdFrag h < r.count → rdFmt h = r.outFmt →
      bits (hC h) 8 7 = r.nf (rdFrag h) →
      res = (rdCount h, BitVec.ofNat 8 (hC h), pl.take (packedLen (rdFmt h) (r.nf (rdFrag h)))) →
      (x.st = .closed → ∃ t, exec (.reduceResult p h pl) s = .next t ∧ t = u.startWrite part red.id (rdFrag h) res) ∧
      ((x.st = .free ∨ x.st = .opened) → x.result = none → ∃ t, exec (.reduceResult p h pl) s = .next t ∧
        t = u.updCur red (fun r => r.putFrag (rdFrag h) { x with result := some res }) ∧ t = { u with reds := t.reds }))) ∧
  ((∀ (id : BitVec 12) (f : Nat) (i : Fin 64) (s : State) (red : RedState) (rest : List RedState) (r : RedRound) (s1 : State) (a : AccRes),
    s.reds.filter (fun r => r.id == id.toNat && r.canRead f i.val) = red :: rest → red.cur = some r →
    s1 = s.updCur red (fun r => r.putFrag f (if (r.frag f).st = .free then { r.frag f with st := .opened } else r.frag f)) →
    a = s1.vRead redUnit r.ctx red.part ((nth (0, 0, false) r.locs i.val).1 + 64 * f * redSize r.inFmt) (packedLen r.inFmt (r.nf f)) .read
      (some (.contrib red.part red.id f i.val)) →
    (∀ rcd v, a.o = .held rcd v → ∃ t, exec (.localContribRead id f i) s = .next t ∧ t = a.st) ∧
    (∀ bs red2 r2, a.o = .done bs false → a.st.redOf red.part red.id = some red2 → red2.cur = some r2 → (r2.frag f).st = .opened →
      r2.compat = false → ∃ t, exec (.localContribRead id f i) s = .next t ∧
        t = (a.st.updCur red2 (fun z => z.putFrag f { (r2.frag f).add 0
          ((unpackRun r2.inFmt (r.nf f) bs).map (fun c => accOf (decodeEl r2.inFmt c 127))) 1 0 with
            locals := (r2.frag f).locals ++ [i.val] })).settleFrag red2.part red2.id f) ∧
    (∀ bs red2 r2, a.o = .done bs true → a.st.redOf red.part red.id = some red2 → red2.cur = some r2 → (r2.frag f).st = .opened →
      ∃ t, exec (.localContribRead id f i) s = .next t ∧ t = (a.st.dropLocal red2 r2 f i.val).settleFrag red2.part red2.id f)) ∧
  (∀ (id : BitVec 12) (f : Nat) (s : State) (red : RedState) (rest : List RedState) (r : RedRound),
    s.reds.filter (fun r => r.id == id.toNat && r.canExpire f) = red :: rest → red.cur = some r →
    (s.getB ⟨cfgBase + 0x100 + 8 * red.part, 1, 1⟩ = false ∨ r.closeSeen = true → ∃ t, exec (.fragmentDeadline id f) s = .next t ∧
      t = s.closeFrag red.part red.id f true) ∧
    (s.getB ⟨cfgBase + 0x100 + 8 * red.part, 1, 1⟩ = true → r.closeSeen = false → r.posted = true →
      exec (.fragmentDeadline id f) s = .next s) ∧
    (s.getB ⟨cfgBase + 0x100 + 8 * red.part, 1, 1⟩ = true → r.closeSeen = false → r.posted = false → red.part < 16 →
      ∃ t, exec (.fragmentDeadline id f) s = .next t ∧
        t = { s with reds := t.reds, host := { s.host with events := t.host.events } } ∧
        (t.evts red.part).seq = nextSeq (s.evts red.part).seq ∧
        ((t.evts red.part).buffer ++ (t.evts red.part).popReqs).length = ((s.evts red.part).buffer ++ (s.evts red.part).popReqs).length + 1)) ∧
  (∀ (id : BitVec 12) (f : Nat) (s : State) (red : RedState) (rest : List RedState) (r n : RedRound),
    s.reds.filter (fun r => r.id == id.toNat && (match r.cur with
      | some r => (r.frag f).st == .writing && (r.frag f).held.isNone | none => false)) = red :: rest → red.cur = some r →
    (∀ c st bs, (r.frag f).result = some (c, st, bs) →
      n = (({ r with
        nonzero := r.nonzero + (if st = 0 then 0 else 1), excluded := r.excluded || bit st.toNat 5
        nonfinite := r.nonfinite || bit st.toNat 2, count0 := (if f = 0 then c else r.count0) } : RedRound).putFrag f { st := .done }).advance
          (red.w + 1) →
      n.base < n.count → ∃ t, exec (.resultWriteAck id f) s = .next t ∧
        t = (s.putRed { red with cur := some n }).settleStats red.part red.id)) ∧
  (∀ (id : BitVec 12) (f : Nat) (s : State) (red : RedState) (rest : List RedState),
    s.reds.filter (fun r => r.id == id.toNat && r.canHang f) = red :: rest →
    (s.getF ⟨redBase, 16, 16⟩ ≠ 0 → ∃ t, exec (.reductionHang id f) s = .next t ∧
      t = { s with regs := t.regs, reds := t.reds, irq := { s.irq with routed := t.irq.routed } } ∧
      OtherRegs (mstatHome 19).keys s t ∧ t.getB ⟨irqJBase + 0x2000, 19, 1⟩ = true ∧
      t.reds = (s.updCur red (fun r => r.putFrag f { r.frag f with hung := true })).reds) ∧
    (s.getF ⟨redBase, 16, 16⟩ = 0 → exec (.reductionHang id f) s = .next s)))

/-! ### Power input, pins, clocks and resets of the module (R23-R41, R606-R612) -/

/-- R606, R609, R611, R612, with nothing half done (no burn, no update): after a cold power-on every unit is at its reset value, the straps are
sampled, stacks marked bad are marked, and the compute rails are on and PWRGD released exactly when the boot chain has passed, as it does
when every image of slot A passes its check; a warm reset keeps rails, PWRGD and the stacks' bytes, counts itself with its cause. R267: a
stack that trains at 8.0 or at 6.4 Gb/s is usable, at full rate or reduced; one that trains at neither is absent, with its event; the
repairs are told; nothing else changes but that the module may be ready. The shipped images and what a warm reset keeps follow log entries
48 and 63. -/
def Obligations.ModuleResetsAndTrainingComplete : Prop :=
  (∀ s : State, s.mgmt.cwrite = none → s.mgmt.session = none →
    (∀ straps clk, ∃ t, exec (.coldPowerOn straps clk) s = .next t ∧ t.pending = s.pending ∧ t.mcs = [] ∧ t.rvs = [] ∧ t.rooms = [] ∧
      t.hbm = {} ∧ t.mmu = {} ∧ t.dma = [] ∧ t.sync = {} ∧ t.mesh = {} ∧ t.ports = [] ∧ t.fabric = {} ∧ t.reds = [] ∧ t.cellar = {} ∧
      t.parts = {} ∧ t.service = {} ∧ t.jsram = [] ∧ t.guards = [] ∧ t.power.straps = straps ∧ t.power.slowRef = clk ∧
      t.power.faultN = false ∧ t.power.revFlow = false ∧ t.power.rails = t.mgmt.bootOk ∧ t.power.pwrgd = t.mgmt.bootOk ∧
      t.mgmt.boots = s.mgmt.boots + 1 ∧ t.mgmt.images = s.mgmt.images ∧ t.mgmt.ceilSlots = s.mgmt.ceilSlots ∧
      ((∀ c, c ∈ [1, 2, 3, 4, 5] → imageFail (s.mgmt.svnSlots % 128) c (s.image (s.slotA c) c) = 0) → t.mgmt.bootOk = true) ∧
      (t.mgmt.bootOk = true → ∀ k : Fin 12, t.getF (hbmStF k.val) = if s.mgmt.badMask.getLsbD k.val then 3 else 0)) ∧
    (∀ straps, ∃ t, exec (.modRstNAssert straps) s = .next t ∧ t.pending = s.pending ∧ t.mcs = [] ∧ t.rvs = [] ∧ t.rooms = [] ∧
      t.hbm = { cells := s.hbm.cells, poison := s.hbm.poison } ∧ t.mmu = {} ∧ t.dma = [] ∧ t.sync = {} ∧ t.mesh = {} ∧ t.ports = [] ∧
      t.fabric = {} ∧ t.reds = [] ∧ t.cellar = {} ∧ t.parts = {} ∧ t.service = {} ∧ t.jsram = [] ∧ t.guards = [] ∧
      t.power.rails = s.power.rails ∧ t.power.pwrgd = s.power.pwrgd ∧ t.power.straps = straps ∧
      t.getF warmF = satAdd (s.getF warmF) 1 16 ∧ t.getF causeF = 1 ∧
      (s.lasting = [] → t.power.faultN = false) ∧ (s.lasting ≠ [] → t.power.faultN = true) ∧
      ∀ k : Fin 12, t.getF (hbmStF k.val) = s.getF (hbmStF k.val))) ∧
  (∀ (k : Fin 12) (ok80 ok64 : Bool) (r : BitVec 8) (s : State), s.power.rails = true → s.getF (hbmStF k.val) = 0 →
    ∃ t, exec (.hbmTrainingComplete k ok80 ok64 r) s = .next t ∧
      t = { s with regs := t.regs, irq := { s.irq with routed := t.irq.routed }, mgmt := { s.mgmt with ready := t.mgmt.ready } } ∧
      OtherRegs (hbmBase k.val :: (if ok80 || ok64 then [] else (mstatHome 8).keys)) s t ∧
      t.getF (hbmStF k.val) = (if ok80 || ok64 then 1 else 2) ∧ t.getF ⟨hbmBase k.val, 3, 8⟩ = r.toNat ∧
      (ok80 = false → ok64 = true → t.getB ⟨hbmBase k.val, 2, 1⟩ = true) ∧
      (ok80 = false → ok64 = false → t.getB ⟨irqJBase + 0x2000, 8, 1⟩ = true))

/-- R29-R34, R37, R38, R41: an input shutdown asserts FAULT_N with its cause, removes the compute rails and PWRGD, and what the dies and the
stacks held is gone; the low band, a leak, a rail, a reversed flow, the loss of the fabric clock and the slow-clock switches each have their
state and their event; a commanded power-down does not assert FAULT_N. Readings of the model: log entry 62. -/
def Obligations.PowerInputEventsComplete : Prop :=
  ∀ s : State,
    (∀ c n, (c, n) ∈ [(Instr.inputUndervoltageShutdown, 1), (.inputOvervoltageShutdown, 0)] → ∃ t, exec c s = .next t ∧
      t.power = { s.power with faultN := true, causes := s.power.causes ||| (1#6 <<< n), rails := false, pwrgd := false } ∧
      t.mcs = [] ∧ t.rooms = [] ∧ t.dma = [] ∧ t.mesh = {} ∧ t.hbm.cells = [] ∧ t.hbm.written = [] ∧ t.hbm.memQ = [] ∧
      t.host = s.host ∧ t.parts = s.parts ∧ t.ports = s.ports ∧ t.jsram = s.jsram ∧ t.fabric = s.fabric ∧ t.out = s.out ∧
      ∀ k, t.reg k = if isDieKey k then regReset k
        else if k = mgtBase + 0x20 then setFld (s.reg (mgtBase + 0x20)) n 1 1 else s.reg k) ∧
    (∃ t, exec .commandedPowerDown s = .next t ∧ t.power = { s.power with rails := false, pwrgd := false } ∧ t.mcs = [] ∧
      t.rooms = [] ∧ t.hbm.cells = [] ∧ t.host = s.host ∧ t.parts = s.parts ∧ t.ports = s.ports ∧ t.mgmt = s.mgmt ∧ t.out = s.out ∧
      ∀ k, t.reg k = if isDieKey k then regReset k else s.reg k) ∧
    (∀ v, s.power.lowBand = none → ∃ t, exec (.inputLowBandEntry v) s = .next t ∧ t.power.lowBand = some v ∧
      t.getB ⟨irqJBase + 0x2000, 3, 1⟩ = true ∧ t.getF effF = t.effective.1 ∧
      t = { s with regs := t.regs, irq := { s.irq with routed := t.irq.routed }, power := t.power, mgmt := t.mgmt, out := t.out,
                   host := { s.host with events := t.host.events } }) ∧
    (∀ v, s.power.lowBand ≠ none → ∃ t, exec (.inputLowBandExit v) s = .next t ∧ t.power.lowBand = none ∧
      t.getB ⟨irqJBase + 0x2000, 3, 1⟩ = true ∧ t.getF effF = t.effective.1 ∧
      t = { s with regs := t.regs, irq := { s.irq with routed := t.irq.routed }, power := t.power, mgmt := t.mgmt, out := t.out,
                   host := { s.host with events := t.host.events } }) ∧
    (∃ t, exec .leakDetected s = .next t ∧ t.power = { s.power with faultN := true, causes := s.power.causes ||| (1#6 <<< 4) } ∧
      t.getB ⟨irqJBase + 0x2000, 0, 1⟩ = true ∧ t.getB ⟨mgtBase + 0x20, 4, 1⟩ = true ∧
      OtherRegs ((mgtBase + 0x20) :: (mstatHome 0).keys) s t ∧
      t = { s with regs := t.regs, irq := { s.irq with routed := t.irq.routed }, power := t.power, mgmt := t.mgmt,
                   recovery := { s.recovery with deferredAudit := t.recovery.deferredAudit }, out := t.out }) ∧
    (s.power.rails = true ∨ s.power.jrails = true → ∃ t, exec .railOutOfRegulation s = .next t ∧
      t.power = { s.power with faultN := true, causes := s.power.causes ||| (1#6 <<< 2), pwrgd := false } ∧
      t.getB ⟨irqJBase + 0x2000, 4, 1⟩ = true ∧ OtherRegs ((mgtBase + 0x20) :: (mstatHome 4).keys) s t ∧
      t = { s with regs := t.regs, irq := { s.irq with routed := t.irq.routed }, power := t.power, mgmt := t.mgmt,
                   recovery := { s.recovery with deferredAudit := t.recovery.deferredAudit } }) ∧
    (∃ t, exec .reversedFlowDetect s = .next t ∧ t.power.revFlow = true ∧ t.getB ⟨irqJBase + 0x2000, 1, 1⟩ = true ∧
      t.getF effF = t.effective.1 ∧ t.getF effF ≤ 2000 ∧
      t = { s with regs := t.regs, irq := { s.irq with routed := t.irq.routed }, power := t.power, mgmt := t.mgmt, out := t.out,
                   host := { s.host with events := t.host.events } }) ∧
    (∃ t, exec .fabRefclkLoss s = .next t ∧ t.power = { s.power with fabClk := false } ∧ t.getB ⟨irqJBase + 0x2000, 5, 1⟩ = true ∧
      (∀ n, n < 18 → s.pst n ≠ 0 → t.pst n = 1 ∧ t.getF (pstLanes n) = 0) ∧ (∀ n, n < 18 → s.pst n = 0 → t.pst n = 0 ∧ t.port n = s.port n) ∧
      t = { s with regs := t.regs, irq := { s.irq with routed := t.irq.routed }, power := t.power, ports := t.ports }) ∧
    (s.power.slowRef = false → ∃ t, exec .slowClockSwitchToRef s = .next t ∧ t.getB ⟨irqJBase + 0x2000, 6, 1⟩ = true ∧
      t = { s with regs := t.regs, irq := { s.irq with routed := t.irq.routed }, power := { s.power with slowRef := true } } ∧
      OtherRegs (mstatHome 6).keys s t) ∧
    (s.power.slowRef = true → ∃ t, exec .slowClockSwitchToOsc s = .next t ∧ t.getB ⟨irqJBase + 0x2000, 6, 1⟩ = true ∧
      t = { s with regs := t.regs, irq := { s.irq with routed := t.irq.routed }, power := { s.power with slowRef := false } } ∧
      OtherRegs (mstatHome 6).keys s t)

/-- R36, R308, R496, R497, R526, R581, R606: PERST_N and a hot reset take the link down, NumVFs to 0 and the functions' state with them; the
deassertion finds the reference clock or not; a function level reset empties the partition's events and rings and leaves its bindings;
NumVFs takes a value up to 15 only; the configuration writes and the link's changes of state set what they name. What an FLR keeps follows
log entry 64. -/
def Obligations.PcieEventsComplete : Prop :=
  ∀ s : State,
    (∃ t, exec .perstNAssert s = .next t ∧ t.power = { s.power with perst := true } ∧ t.host.linkUp = false ∧ t.host.numVfs = 0 ∧
      t.host.busMaster = [] ∧ t.mmu.priFailed = false ∧ t.parts.cellOf = s.parts.cellOf ∧ t.parts.ringOf = s.parts.ringOf ∧
      t = ({ s with power := { s.power with perst := true } } : State).linkReset) ∧
    (∃ t, exec .pcieHotReset s = .next t ∧ t.power = s.power ∧ t.host.linkUp = false ∧ t.host.numVfs = 0 ∧ t.host.busMaster = [] ∧
      t.mmu.priFailed = false ∧ t.parts.cellOf = s.parts.cellOf ∧ t.parts.ringOf = s.parts.ringOf ∧ t = s.linkReset) ∧
    (∀ b, ∃ t, exec (.perstNDeassert b) s = .next t ∧
      t = { s with power := { s.power with perst := false }, host := { s.host with srisMode := !b } }) ∧
    (∀ f : Fin 16, s.fnOk f.val = true → f.val ≠ 0 → ∃ t, exec (.flr f) s = .next t ∧ t = (s.flrSteps f.val).raiseM 13 ∧
      t.getB ⟨irqJBase + 0x2000, 13, 1⟩ = true ∧ (t.evts f.val).buffer = [] ∧ (t.evts f.val).popReqs = [] ∧
      (∀ k, fnPage f.val ≤ k → k < fnPage f.val + 0x1_0000 → t.reg k = regReset k) ∧
      (∀ r : Fin 1024, s.ringPart r.val = f.val → t.getF (ringEn r.val) = 0) ∧
      t.parts.cellOf = s.parts.cellOf ∧ t.parts.granOf = s.parts.granOf ∧ t.parts.ringOf = s.parts.ringOf ∧ t.mmu.ctxs = s.mmu.ctxs ∧
      t.guards = s.guards ∧ t.power = s.power) ∧
    (∃ t u, exec (.flr 0) s = .next t ∧ u = forEach (upTo (s.host.numVfs + 1)) s (fun s p => s.flrSteps p) ∧
      t = ({ u with guards := u.guards.filter (fun g => g.1 != .pf) } : State).raiseM 13 ∧ ∀ g, (Requester.pf, g) ∉ t.guards) ∧
    (∀ n : BitVec 16, (n.toNat ≤ 15 → ∃ t, exec (.numvfsWrite n) s = .next t ∧ t = { s with host := { s.host with numVfs := n.toNat } }) ∧
      (15 < n.toNat → exec (.numvfsWrite n) s = .next s)) ∧
    (∀ f : Fin 16, s.fnOk f.val = true →
      (∃ t, exec (.configurationWrite f .priEnable) s = .next t ∧ t = { s with mmu := { s.mmu with priFailed := false } }) ∧
      (∀ b, ∃ t, exec (.configurationWrite f (.busMaster b)) s = .next t ∧
        t = { s with host := { s.host with busMaster := mset false s.host.busMaster f.val b } }) ∧
      (∀ n : Fin 64, 30 ≤ n.val → n.val ≤ 40 → ∃ t, exec (.configurationWrite f (.barSize n)) s = .next t ∧
        t = { s with host := { s.host with
          pfBar := (if f.val = 0 then n.val else s.host.pfBar), vfBar := (if f.val = 0 then s.host.vfBar else n.val) } })) ∧
    (∀ up rate width, up = false ∨ (s.power.perst = false ∧ s.power.jrails = true) →
      ∃ t, exec (.pcieLinkStateChange up rate width) s = .next t ∧ t.getB ⟨irqJBase + 0x2000, 12, 1⟩ = true ∧
        t = { s with regs := t.regs, irq := { s.irq with routed := t.irq.routed }, host := { s.host with
          linkUp := up, linkRate := (if up then rate.val else 0), linkWidth := (if up then width.val else 0) } } ∧
        OtherRegs (mstatHome 12).keys s t)

/-! ### The on-die network (R44-R73) -/

/-- R46, R61-R63, R71, R72: a forward moves the flit that the arbiters choose from its input buffer to what stands behind the output and uses a
credit; a credit return frees one; a gateway takes a whole packet with its channel changed for the die; a down cell's packet is consumed, a
completion answering it TARGET_DOWN; a multicast enters the replication buffer whole and leaves with its last branch. -/
def Obligations.MeshOperationsComplete : Prop :=
  ∀ s : State,
    (∀ (r : RouterId) (out : MeshDir) (plane : Bool) (i j v : Nat) (f : Flit) (rest : List Flit), v = (if plane then 6 else 0) + i →
      rrPick (if plane then 4 else 6) (mget 0 s.mesh.rrVc ((rtNo r * 6 + dirNo out) * 2 + b2n plane))
        (fun i => s.meshReady (rtNo r) out ((if plane then 6 else 0) + i)) = some i →
      s.meshInput (rtNo r) out v = some j → s.meshBuf (rtNo r) (nth .cell allDirs j) v = f :: rest →
      ∃ t, exec (.meshFlitForward r out plane) s = .next t ∧ t = { s with mesh := t.mesh } ∧
        mget none t.mesh.locks (bufKey (rtNo r) out v) = (if f.last then none else some j) ∧
        mget 0 t.mesh.rrIn (bufKey (rtNo r) out v) = j ∧
        (∀ q inp seam, linkOf (rtNo r) out = .router q inp seam → (q, inp) ≠ (rtNo r, nth .cell allDirs j) →
          t.meshBuf (rtNo r) (nth .cell allDirs j) v = rest ∧ t.meshBuf q inp v = s.meshBuf q inp v ++ [f] ∧
          t.meshUsed (rtNo r) out v = s.meshUsed (rtNo r) out v + 1) ∧
        (linkOf (rtNo r) out = .endpoint → f.last = true → t.mesh.arrived = s.mesh.arrived ++ [(endpointOf (rtNo r) out, f.pkt)])) ∧
    (∀ (r : RouterId) (out : MeshDir) (vc : MeshVc) (k : Nat), k = bufKey (rtNo r) out (vcNo vc) → 0 < mget 0 s.mesh.owed k →
      ∃ t, exec (.meshCreditReturn r out vc) s = .next t ∧ t = { s with mesh := { s.mesh with
        owed := mset 0 s.mesh.owed k (mget 0 s.mesh.owed k - 1), used := mset 0 s.mesh.used k (mget 0 s.mesh.used k - 1) } }) ∧
    (∀ (g : GatewayId) (p : MeshPacket) (v : Nat), v = vcNo (entryVc p) → 1 ≤ p.flits → p.flits ≤ 4 →
      (mget [] s.mesh.gates (gateKey (gateFrom g).1 (gateFrom g).2)).contains p = true →
      (s.meshBuf (gateAt g).1 (gateAt g).2 v).length + p.flits ≤ nth 0 [0, 16, 0, 32, 32, 4, 0, 32, 32, 4] v →
      dstDie p = some ((gateAt g).1 / 120) →
      ∃ t, exec (.gatewayAccept g p) s = .next t ∧ t = { s with mesh := t.mesh } ∧
        t.meshBuf (gateAt g).1 (gateAt g).2 v = s.meshBuf (gateAt g).1 (gateAt g).2 v ++ flitsOf { p with vc := entryVc p } ∧
        mget [] t.mesh.gates (gateKey (gateFrom g).1 (gateFrom g).2) =
          (mget [] s.mesh.gates (gateKey (gateFrom g).1 (gateFrom g).2)).erase p) ∧
    (∀ (c : Fin 480) (p : MeshPacket), s.cellDown c.val = true → s.mesh.arrived.contains (c.val, p) = true →
      ∃ t, exec (.cellDownConsume c p) s = .next t ∧ t = { s with mesh := { s.mesh with
        arrived := s.mesh.arrived.erase (c.val, p)
        answers := (if p.expects then s.mesh.answers ++ [(p.id, 1)] else s.mesh.answers) } }) ∧
    (∀ (r : RouterId) (inp : MeshDir) (p : MeshPacket), headPacket (s.meshBuf (rtNo r) inp 1) = some p →
      (replFlits (mget [] s.mesh.repl (rtNo r)) + p.flits ≤ 32 → branchesAt (rtNo r) inp p ≠ [] →
        ∃ t, exec (.mcastReplicationEntry r inp) s = .next t ∧
          t = { s with mesh := { s.mesh with bufs := t.mesh.bufs, owed := t.mesh.owed, repl := t.mesh.repl } } ∧
          t.meshBuf (rtNo r) inp 1 = (s.meshBuf (rtNo r) inp 1).drop p.flits ∧
          mget [] t.mesh.repl (rtNo r) = mget [] s.mesh.repl (rtNo r) ++ [⟨p, branchesAt (rtNo r) inp p⟩]) ∧
      (32 < replFlits (mget [] s.mesh.repl (rtNo r)) + p.flits → exec (.mcastReplicationEntry r inp) s = .next s)) ∧
    (∀ (r : RouterId) (b : MeshDir) (p : MeshPacket) (l : List ReplEntry), takeBranch b (mget [] s.mesh.repl (rtNo r)) = (some p, l) →
      (s.meshCredit (rtNo r) b 1 p.flits = true → ∃ t, exec (.mcastBranchTake r b) s = .next t ∧ t = { s with mesh := t.mesh } ∧
        t = ({ s with mesh := { s.mesh with repl := mset [] s.mesh.repl (rtNo r) l } } : State).meshSend (rtNo r) b 1 (flitsOf p) ∧
        mget [] t.mesh.repl (rtNo r) = l) ∧
      (s.meshCredit (rtNo r) b 1 p.flits = false → exec (.mcastBranchTake r b) s = .next s))

/-! ### Cellar engines (R471-R494) -/

/-- R473, R475, R480-R487, R490: the engine whose turn is a partition's performs that job's next chunk whole (the sums of pass 1, the values of
pass 2) and moves on; a page that is not there holds the chunk with nothing written; an area off the engine's stack ends the job PLACEMENT;
a complete round gives the norm and the clip factor and starts pass 2. Readings of the model: log entries 40 to 43. -/
def Obligations.CellarEnginesComplete : Prop :=
  ∀ (e : Fin 12) (s u : State) (p k : Nat) (j : UpdJob), k = 16 * e.val + p →
    (s.ceTurn e.val = (u, some p) → u.ceJob k = some j → (u.ce k).held = none →
      (∀ w v bs, u.phase1 e.val j.ctx j.part (.chunk k) (u.chunkAreas k j) = (w, .ok) →
        w.readAreas e.val j.ctx j.part (u.chunkAreas k j) = (v, bs, false) →
        (u.ce k).phase = .pass1 → (v.ce k).phase = .pass1 → (v.ce k).resume = none →
        ∀ (q : Nat × Nat) (en : Entry) (sp : Span), en = j.entry (v.ce k).entry → sp = spanOf en (v.ce k).chunk →
          j.position e.val false (v.ce k).entry ((v.ce k).chunk + 1) (j.entries.length + 1) = some q →
          ∃ t, exec (.cellarChunk e) s = .next t ∧ t = { v with regs := t.regs, cellar := t.cellar } ∧ OtherRegs [celBase e.val] v t ∧
            t.ce k = { v.ce k with
              entry := q.1, chunk := q.2, sums := addChunk en sp (v.ce k).sums (gradChunk en sp (f32 (j.f 0x10 4)) bs) } ∧
            (∀ i, i ≠ k → t.ce i = v.ce i) ∧ t.cellar.jobs = v.cellar.jobs) ∧
      (∀ w id, u.phase1 e.val j.ctx j.part (.chunk k) (u.chunkAreas k j) = (w, .held id) → (u.ce k).phase = .pass1 ∨ (u.ce k).phase = .pass2 →
        ∃ t, exec (.cellarChunk e) s = .next t ∧ (t.ce k).held = some id ∧ t = { w with regs := t.regs, cellar := t.cellar } ∧
          OtherRegs [celBase e.val] w t ∧ t.cellar.jobs = w.cellar.jobs)) ∧
    ((upTo 16).find? (fun q => (s.ce (16 * e.val + q)).phase == .stats && (s.ce (16 * e.val + q)).held.isNone &&
        (match s.ceJob (16 * e.val + q) with | some x => x.roundDone | none => false)) = some p → s.ceJob k = some j → j.statsBad = false →
      (j.nonfinite && j.skipNf) = false → j.pass < 3 → j.entries.any (fun x => entCustom x.toNat) = false →
      ∀ (w : State) (r : LineRes) (j' : UpdJob), s.phase1 e.val j.ctx j.part (.chunk k) [⟨j.statVa 0, 4, false, false⟩] = (w, .ok) →
        r = w.ceRead e.val j.ctx j.part (j.statVa 0) 4 false → r.poison = false →
        j' = { j with pass := 3, custom := false, norm := (clipOf (j.f 0xC 4) (f32 (ofLE r.data))).1, clip := (clipOf (j.f 0xC 4) (f32 (ofLE r.data))).2 } →
        ∃ t, exec (.cellarStatsRoundDone e) s = .next t ∧ t = ((r.st.putJob j').cePass2 k j').showCe e.val) ∧
    (∀ mx sum n, BitVec.ofNat 32 (rne32 (r32 (Val.sqrt sum))) = n → (f32 mx).isZero = true → clipOf mx sum = (n, 0x3F80_0000))

/-! ### Host rings, events and vectors (R496-R526, R584) -/

/-- R503, R504, R505, R518, R525, R582: an in-range doorbell of an ACTIVE ring moves the host's index and sets the ring's bit of IRQ_DBMAP, a
bad one is counted; an arm with an unread record sends the vector at once; a fetched entry joins the open commands and moves the module's
index, a failed fetch puts the ring into ERROR with its event; enable starts a ring whose configuration is legal and refuses the others,
disable stops it. -/
def Obligations.RingsAndDoorbells : Prop :=
  ∀ (f : Fin 16) (r : Fin 1024) (s : State),
    (∀ (v : Word32) (d : Nat → Nat), s.dbOk f.val r.val = true →
      d = (fun x => (x + s.ringSize r.val - mget 0 s.host.sqHead r.val % s.ringSize r.val) % s.ringSize r.val) →
      (s.getF (ringKind r.val) = 1 → v.toNat % 65536 < s.ringSize r.val → d (s.getF (ringHost r.val)) ≤ d (v.toNat % 65536) →
        ∃ t, exec (.sqDoorbell f r v) s = .next t ∧ t.getF (ringHost r.val) = v.toNat % 65536 ∧
          t.getB ⟨irqJBase + 0x2400 + 8 * (r.val / 64), r.val % 64, 1⟩ = true ∧
          OtherRegs [ringKey r.val + 0x10, irqJBase + 0x2400 + 8 * (r.val / 64)] s t ∧ t.getF (ringMod r.val) = s.getF (ringMod r.val) ∧
          t = { s with regs := t.regs, host := { s.host with dbMark := mset 0 s.host.dbMark r.val s.host.nextHeld } }) ∧
      (s.getF (ringKind r.val) = 1 → s.ringSize r.val ≤ v.toNat % 65536 ∨ d (v.toNat % 65536) < d (s.getF (ringHost r.val)) →
        ∃ t, exec (.sqDoorbell f r v) s = .next t ∧ OnlyRegs [irqJBase + 0x2400 + 8 * (r.val / 64), fnPage f.val + 0x18] s t ∧
          t.getF ⟨fnPage f.val + 0x18, 16, 16⟩ = satAdd (s.getF ⟨fnPage f.val + 0x18, 16, 16⟩) 1 16) ∧
      (s.getF (ringKind r.val) = 2 ∨ s.getF (ringKind r.val) = 3 → v.toNat % 65536 < s.ringSize r.val →
        ∃ t, exec (.cqDoorbell f r v) s = .next t ∧ t.getF (ringHost r.val) = v.toNat % 65536 ∧
          t.getB ⟨irqJBase + 0x2400 + 8 * (r.val / 64), r.val % 64, 1⟩ = true ∧
          (bit v.toNat 16 = false → OnlyRegs [ringKey r.val + 0x10, irqJBase + 0x2400 + 8 * (r.val / 64)] s t) ∧
          (bit v.toNat 16 = true → s.getF (ringMod r.val) = v.toNat % 65536 → mget false t.host.arm r.val = true ∧ t.out = s.out) ∧
          (bit v.toNat 16 = true → s.getF (ringMod r.val) ≠ v.toNat % 65536 → t.host.arm = s.host.arm ∧
            (s.vecMasked (128 * f.val + s.getF (ringVec r.val)) = false →
              mget false s.host.vecBusy (128 * f.val + s.getF (ringVec r.val)) = false →
              t.out = s.out ++ [.msix (128 * f.val + s.getF (ringVec r.val)) (s.reg (vecKey f.val (s.getF (ringVec r.val)))).toNat
                (fld (s.reg (vecKey f.val (s.getF (ringVec r.val)) + 8)) 0 32)])))) ∧
    (s.ringActive r.val 1 = true → s.busOk (s.ringPart r.val) = true → s.getF (ringMod r.val) ≠ s.getF (ringHost r.val) →
      ((s.cmdsOf (.ring r)).filter (fun o => !o.started)).length < 64 →
      (∀ c, ∃ t, exec (.commandFetch r (some c)) s = .next t ∧ t.host = { s.host with open_ := s.host.open_ ++ [⟨.ring r, c, false⟩] } ∧
        t.reg (ringKey r.val + 0x10) = setFld (s.reg (ringKey r.val + 0x10)) 0 16 ((s.getF (ringMod r.val) + 1) % s.ringSize r.val) ∧
        t = { s with regs := t.regs, host := t.host } ∧ OtherRegs [ringKey r.val + 0x10] s t) ∧
      (∃ t, exec (.commandFetch r none) s = .next t ∧ t.getF (ringSt r.val) = 2 ∧ t.getF (ringErr r.val) = 2 ∧
        OtherRegs [ringKey r.val + 8] s t ∧ t = { s with regs := t.regs, host := { s.host with events := t.host.events } } ∧
        (s.ringPart r.val < 16 → (s.evts (s.ringPart r.val)).buffer.length < 1024 → (t.evts (s.ringPart r.val)).buffer =
          (s.evts (s.ringPart r.val)).buffer ++ [eventBytes 7 (s.evts (s.ringPart r.val)).seq.toNat s.mtime (toLE 2 r.val ++ [2])]))) ∧
    (∀ v : Word, s.ringMine f.val r.val = true → s.getB (ringEn r.val) = false → bit v.toNat 2 = true →
      ∃ t, exec (.ringEnable f r v) s = .next t ∧ t.getB (ringEn r.val) = true ∧ t.getF (ringKind r.val) = fld v 0 2 ∧
        t.getF (ringLsize r.val) = fld v 3 5 ∧ t.getF (ringCq r.val) = fld v 8 10 ∧ t.getF (ringVec r.val) = fld v 18 7 ∧
        t.getF (ringMod r.val) = 0 ∧ t.getF (ringHost r.val) = 0 ∧ t.getF (ringPhase r.val) = 1 ∧
        OtherRegs [ringKey r.val + 8, ringKey r.val + 0x10] s t ∧
        t = { s with regs := t.regs, host := { s.host with
          sqHead := mset 0 s.host.sqHead r.val 0, arm := mset false s.host.arm r.val false } } ∧
        (fld v 0 2 = 0 ∨ fld v 3 5 < 4 ∨ 16 < fld v 3 5 → t.getF (ringSt r.val) = 2 ∧ t.getF (ringErr r.val) = 1) ∧
        (2 ≤ fld v 0 2 → 4 ≤ fld v 3 5 → fld v 3 5 ≤ 16 → t.getF (ringSt r.val) = 1 ∧ t.getF (ringErr r.val) = 0) ∧
        (fld v 0 2 = 1 → fld v 8 10 ≠ r.val → 4 ≤ fld v 3 5 → fld v 3 5 ≤ 16 →
          (t.getF (ringSt r.val) = 1 ↔ s.ringActive (fld v 8 10) 2 = true ∧ s.ringPart (fld v 8 10) = s.ringPart r.val))) ∧
    (∀ v : Word, s.ringMine f.val r.val = true → s.getB (ringEn r.val) = true → bit v.toNat 2 = false →
      ((s.getF (ringKind r.val) == 2 && s.cqNamed r.val) = false → ∃ t, exec (.ringDisable f r v) s = .next t ∧
        OnlyRegs [ringKey r.val + 8] s t ∧ t.getB (ringEn r.val) = false ∧ t.getF (ringSt r.val) = 0 ∧ t.getF (ringErr r.val) = 0 ∧
        t.getF (ringKind r.val) = s.getF (ringKind r.val)) ∧
      ((s.getF (ringKind r.val) == 2 && s.cqNamed r.val) = true → exec (.ringDisable f r v) s = .next s))

/-- R499, R500, R514-R518, R522, R523, R584: the oldest waiting record is written into its ring with the SQ's head and the phase; an event
record goes to the event queue; a read of FN_POP takes the oldest request into its slot; a BAR4 access is performed or, at the end of its
hold, fails with its count; a vector whose interval ends or whose mask is cleared sends what is pending. -/
def Obligations.RecordsWindowsAndVectors : Prop :=
  ∀ s : State,
    (∀ (r : Fin 1024) b rest sq, mget [] s.host.waitRecs r.val = b :: rest → b.length = 16 → sq = ofLE ((b.drop 2).take 2) % 1024 →
      s.ringActive r.val 2 = true → s.ringRoom r.val = true → s.busOk (s.ringPart r.val) = true → mget false s.host.arm r.val = false →
      ∃ t, exec (.completionRecordWrite r) s = .next t ∧
        t.out = s.out ++ [.hostWrite (s.ringPart r.val) (s.ringAddr r.val (s.getF (ringMod r.val)) 16)
          (BitVec.ofNat 8 (s.getF (ringPhase r.val)) :: (b.take 4 ++ toLE 2 (s.getF (ringMod sq)) ++ b.drop 6).drop 1)] ∧
        t.getF (ringMod r.val) = (if s.getF (ringMod r.val) + 1 = s.ringSize r.val then 0 else (s.getF (ringMod r.val) + 1) % 65536) ∧
        t.getF (ringPhase r.val) = (if s.getF (ringMod r.val) + 1 = s.ringSize r.val then 1 - s.getF (ringPhase r.val)
          else s.getF (ringPhase r.val)) ∧
        OtherRegs [ringKey r.val + 0x10] s t ∧
        t = { s with regs := t.regs, out := t.out, host := { s.host with
          waitRecs := mset [] s.host.waitRecs r.val rest, sqHead := mset 0 s.host.sqHead sq (s.getF (ringMod sq)) } }) ∧
    (∀ (p : Fin 16) b rest (r : Nat), (s.evts p.val).buffer = b :: rest → b.length = 64 → r = s.getF ⟨fnPage p.val + 8, 8, 10⟩ →
      s.ringPart r = p.val → s.ringActive r 3 = true → s.ringRoom r = true → s.busOk p.val = true → mget false s.host.arm r = false →
      (s.evts p.val).dropped = 0 → ∃ t, exec (.eventRecordWrite p) s = .next t ∧
        t.out = s.out ++ [.hostWrite p.val (s.ringAddr r (s.getF (ringMod r)) 64) (BitVec.ofNat 8 (s.getF (ringPhase r)) :: b.drop 1)] ∧
        t.evts p.val = { s.evts p.val with buffer := rest } ∧ OtherRegs [ringKey r + 0x10] s t ∧
        (∀ q, q ≠ p.val → t.evts q = s.evts q) ∧
        t = { s with regs := t.regs, out := t.out, host := { s.host with events := t.host.events } }) ∧
    (∀ f : Fin 16, s.fnOk f.val = true →
      ((s.evts f.val).popReqs = [] → ∃ t, exec (.fnPop f) s = .next t ∧
        t = { s with out := s.out ++ [.popData f.val (BitVec.ofNat 64 (s.evts f.val).lastPop.toNat)] }) ∧
      (∀ b rest sq, (s.evts f.val).popReqs = b :: rest → b.length = 64 → sq = ofLE ((b.drop 4).take 4) → ∃ t v,
        exec (.fnPop f) s = .next t ∧ v = BitVec.ofNat 64 (sq + ofLE ((b.drop 1).take 1) * 2 ^ 32 + 2 ^ 40 + min rest.length 127 * 2 ^ 41) ∧
        t.out = s.out ++ [.popData f.val v] ∧ t.evts f.val = { s.evts f.val with popReqs := rest, lastPop := BitVec.ofNat 32 sq } ∧
        (∀ q, q ≠ f.val → t.evts q = s.evts q) ∧ t.reg (fnPage f.val + 0x100) = v ∧
        (∀ w, w < 8 → t.reg (fnPage f.val + 0x200 + 0x40 * (sq % 4) + 8 * w) = BitVec.ofNat 64 (ofLE ((b.drop (8 * w)).take 8))) ∧
        OtherRegs ((fnPage f.val + 0x100) :: (upTo 8).map (fun w => fnPage f.val + 0x200 + 0x40 * (sq % 4) + 8 * w)) s t ∧
        t = { s with regs := t.regs, out := t.out, host := { s.host with events := t.host.events } })) ∧
    (∀ (f : Fin 16) off, s.fnOk f.val = true →
      (∀ len u bs b, 0 < len → len ≤ 4096 → s.barTry f.val (s.winVa f.val off) none len = .ok u bs b →
        ∃ t, exec (.bar4Read f off len) s = .next t ∧ t = { u with out := u.out ++ [.completion f.val bs b false] }) ∧
      (∀ data u bs b, 0 < data.length → data.length ≤ 4096 → s.barTry f.val (s.winVa f.val off) (some data) data.length = .ok u bs b →
        exec (.bar4Write f off data) s = .next u) ∧
      (∀ data, 0 < data.length → data.length ≤ 4096 → s.getB ⟨fnPage f.val + 0x10, 6, 1⟩ = false →
        ∃ t, exec (.bar4Write f off data) s = .next t ∧ OnlyRegs [fnPage f.val + 0x18] s t ∧
          t.getF ⟨fnPage f.val + 0x18, 32, 16⟩ = satAdd (s.getF ⟨fnPage f.val + 0x18, 32, 16⟩) 1 16)) ∧
    (∀ (f : Fin 16) (h : HeldBar), s.host.held.find? (fun x => x.fn == f.val && x.id == h.id) = some h →
      ∃ t, exec (.bar4HoldExpiry f h.id) s = .next t ∧ OtherRegs [fnPage f.val + 0x18] s t ∧
        t.getF ⟨fnPage f.val + 0x18, 32, 16⟩ = satAdd (s.getF ⟨fnPage f.val + 0x18, 32, 16⟩) 1 16 ∧
        t = { s with
          regs := t.regs, host := { s.host with held := s.host.held.erase h }
          out := s.out ++ (if h.data.isNone then [.completion f.val [] false true] else []) }) ∧
    (∀ m : Fin 2048, mget false s.host.vecPend m.val = true → s.vecMasked m.val = false → mget false s.host.vecBusy m.val = true →
      ∃ t, exec (.msixModerationExpiry m) s = .next t ∧
        t.out = s.out ++ [.msix m.val (s.reg (vecKey (m.val / 128) (m.val % 128))).toNat (fld (s.reg (vecKey (m.val / 128) (m.val % 128) + 8)) 0 32)] ∧
        mget false t.host.vecPend m.val = false ∧
        (mget false t.host.vecBusy m.val = true ↔ s.getF ⟨irqJBase + 0x4000 + 8 * m.val, 0, 16⟩ ≠ 0) ∧
        t = { s with regs := t.regs, out := t.out, host := { s.host with vecPend := t.host.vecPend, vecBusy := t.host.vecBusy } }) ∧
    (∀ m : Fin 2048, mget false s.host.vecPend m.val = true → mget false s.host.vecBusy m.val = false →
      ∃ t, exec (.msixUnmask m) s = .next t ∧
        t.out = s.out ++ [.msix m.val (s.reg (vecKey (m.val / 128) (m.val % 128))).toNat (fld (s.reg (vecKey (m.val / 128) (m.val % 128) + 8)) 0 32)] ∧
        t.vecMasked m.val = false ∧ mget false t.host.vecPend m.val = false ∧
        t = { s with regs := t.regs, out := t.out, host := { s.host with vecPend := t.host.vecPend, vecBusy := t.host.vecBusy } })

/-! ### Ring commands (R505-R520) -/

/-- R506-R512, R520: a NOP completes OK, an opcode not listed BAD_OPCODE; a sound LAUNCH opens a kernel that waits at its start, and the start
runs its cores; when every core is over its LAUNCH completes OK, or KERNEL_FAULT with the first fault; a KSTOP stops and saves, or ends, and
a KRESUME restores. That a core in FAULT is over is the model's reading (log entry 32). -/
def Obligations.KernelCommandsComplete : Prop :=
  ∀ (src : CmdSrc) (c : Cmd) (s : State),
    (CmdReady src c 0 [] s → ∃ t, exec (.ringNop src c) s = .next t ∧ Completes src c false 0 0 s t) ∧
    (opcodes.contains (cmdOp c) = false → s.cmdReady src c = true →
      ∃ t, exec (.ringNop src c) s = .next t ∧ Completes src c false cmBadOpcode 0 s t) ∧
    (CmdReady src c 1 [(8, 8)] s → cmdB c 8 8 % 64 = 0 → s.ctxOk (cmdCtx c) (s.srcPart src) = true →
      ∀ u bs, s.cmdRead src c (cmdB c 8 8) 128 = .bytes u bs →
        (launchBad (ofLE bs) = true → ∃ t, exec (.launch src c) s = .next t ∧ Completes src c false cmBadField 0 u t) ∧
        (launchBad (ofLE bs) = false → (∀ d, d ∈ recCells (ofLE bs) → u.cellPart d = s.srcPart src) →
          ∃ t, exec (.launch src c) s = .next t ∧ Starts src c { u with host := { u.host with
            kernels := u.host.kernels ++ [⟨u.host.nextKernel, src, c, s.srcPart src, cmdCtx c, BitVec.ofNat 1024 (ofLE bs), .waiting, false, false,
              none, none⟩]
            nextKernel := u.host.nextKernel + 1 } } t)) ∧
    (∀ (k : Nat) (x : Kernel), s.kern k = some x →
      (x.phase = .waiting → s.kernFree x = true → ∀ (a b : AccRes) mi vi, a = s.readImage x (x.rec_ 0x60 8) (x.rec_ 0x68 4) →
        a.o = .done mi false → b = a.st.readImage x (x.rec_ 0x70 8) (x.rec_ 0x6C 4) → b.o = .done vi false →
        ∃ t, exec (.kernelStart k) s = .next t ∧ t = b.st.startKernel x mi vi) ∧
      (x.phase = .running → x.cut = false → (∀ n, n ∈ x.mcs → s.mcOver n = true) → (∀ d, d ∈ x.vcs → (s.rv d).ended = true) →
        (∀ u : State, u = forEach x.mcs s (fun s n => s.endMc n) → (∀ n, n ∈ x.mcs → s.getF (mxcSt n) ≠ 4) →
          (∀ d, d ∈ x.vcs → (s.rv d).endCause = none ∧ (u.rv d).endCause = none) → (u.kern x.id).any (fun y => !y.dmaErr) = true →
          ∃ t, exec (.kernelComplete k) s = .next t ∧ t = u.endKernel x cmOk 0xFF00) ∧
        (∀ (n : Nat) (u : State), x.mcs.find? (fun n => s.getF (mxcSt n) == 4) = some n →
          u = forEach x.vcs (forEach x.mcs s (fun s n => s.endMc n)) (fun s d => if (s.rv d).endCause.isSome then s.dmaEndQueue d 4 else s) →
          ∃ t, exec (.kernelComplete k) s = .next t ∧ t = u.endKernel x cmKernelFault (s.getF ⟨mxcBase n + 0x18, 0, 8⟩ +
            ((x.vcs.find? (fun d => (s.rv d).endCause.isSome)).elim 0xFF (fun d => ((s.rv d).endCause.getD 0xFF) % 256)) * 256 + n * 65536 +
            b2n ((u.kern x.id).any (·.dmaErr)) * 2 ^ 28)))) ∧
    (∀ (k : Kernel) (p : Nat), p = s.srcPart src → s.kernOf p (cmdB c 8 2) (cmdB c 0xA 2) = some k →
      (CmdReady src c 2 (stopRef ++ [(0xC, 1)]) s →
        (cmdB c 0xC 1 = 0 → k.phase = .waiting → ∃ t, exec (.kstopPreempt src c) s = .next t ∧
          Completes src c false 0 0 (s.updKern k.id (fun k => { k with phase := .preemptedUnstarted })) t) ∧
        (cmdB c 0xC 1 = 0 → k.phase = .running → ∃ t, exec (.kstopPreempt src c) s = .next t ∧
          Starts src c ((forEach k.cells s (fun s d => s.stopCell d k.needs)).updKern k.id
            (fun k => { k with phase := .preempted, stopper := some (src, c) })) t) ∧
        (cmdB c 0xC 1 = 1 → ∃ (t : State) (e : Bool), e = ((s.killKernel k).kern k.id).any (·.dmaErr) ∧ exec (.kstopEnd src c) s = .next t ∧
          Completes src c false 0 0 ((s.killKernel k).endKernel k cmEnded (0xFF00 + b2n e * 2 ^ 28)) t)) ∧
      (CmdReady src c 3 stopRef s → k.cells.any (fun d => s.cellPart d != p) = false →
        (k.phase = .preemptedUnstarted → ∃ t, exec (.kresume src c) s = .next t ∧
          Starts src c (s.updKern k.id (fun k => { k with phase := .waiting, resumer := some (src, c) })) t) ∧
        (k.phase = .preempted → k.stopper = none → (mget [] s.recovery.stoppedKernels p).contains k.id = false →
          ∃ t, exec (.kresume src c) s = .next t ∧
            Starts src c (s.updKern k.id (fun k => { k with phase := .restoring, resumer := some (src, c) })) t)))

/-- R369, R370, R444, R447, R452, R455, R466, R474-R478, R488, R509, R513: COPY and FMCAST take a bulk engine; BARCFG configures or unconfigures
a barrier that is not open; REDJOB starts a round; REDCTL closes a round's open fragments or unconfigures; UPDJOB starts a job whose tables
are sound and refuses the others; UPDSTOP stops one. -/
def Obligations.CopyBarrierReductionUpdateCommands : Prop :=
  ∀ (src : CmdSrc) (c : Cmd) (s : State) (p : Nat), p = s.srcPart src →
    (s.ctxOk (cmdCtx c) p = true →
      (CmdReady src c 0x10 [(8, 8), (0x10, 2), (0x12, 1)] s → 1 ≤ cmdB c 0x10 2 → cmdB c 0x10 2 ≤ 256 →
        (cmdB c 0x12 1 < 16 ∨ cmdB c 0x12 1 = 255) → ∀ e u bs ds, s.freeBulk (cmdB c 0x12 1) = some e →
        s.cmdRead src c (cmdB c 8 8) (64 * cmdB c 0x10 2) = .bytes u bs → ds = (pieces 64 bs 256).map (fun x => BitVec.ofNat 512 (ofLE x)) →
        ∃ t, exec (.copy src c) s = .next t ∧ t = ((u.setBulk e (some ⟨.cmd src c, p, cmdCtx c, ds, 0, (descOf (nth 0 ds 0)).srcSp == 3, 0,
          [], [], [], none, false, 0, none, none, false⟩)).markStarted src c).bulkKick (.cmd src c)) ∧
      (CmdReady src c 0x41 [(8, 8), (0x10, 8), (0x18, 8), (0x20, 8), (0x28, 4), (0x2C, 2), (0x2E, 2), (0x30, 1)] s → cmdB c 0x30 1 < 64 →
        ∀ e u bs, s.freeBulk 0xFF = some e → s.cmdRead src c (cmdB c 0x18 8) (2 * cmdB c 0x2E 2) = .bytes u bs →
        ∃ t, exec (.fmcast src c) s = .next t ∧ t = ((u.setBulk e (some ⟨.cmd src c, p, cmdCtx c, [], 0, false, 0, [], [], [], none, false, 0, none,
          some ⟨cmdB c 0x2C 2, cmdB c 0x10 8, cmdB c 0x30 1, (pieces 2 bs 65536).map (fun x => ofLE x % 16384), [], cmdB c 8 8, [],
            cmdB c 0x28 4, cmdB c 0x20 8⟩, false⟩)).markStarted src c).bulkKick (.cmd src c)) ∧
      (CmdReady src c 0x20 [(8, 8)] s → ∀ u bs r, s.cmdRead src c (cmdB c 8 8) 64 = .bytes u bs → r = ofLE bs → recB r 0 4 < 2 ^ 14 →
        recB r 8 8 < 2 ^ 48 → recB r 0x10 48 = 0 →
        (bit (recB r 0 4) 13 = true → u.barOpen p (recB r 0 4 % 1024) = false → ∃ t, exec (.barcfg src c) s = .next t ∧
          Completes src c false 0 0 (u.barClear p (recB r 0 4 % 1024)) t) ∧
        (bit (recB r 0 4) 13 = true → u.barOpen p (recB r 0 4 % 1024) = true → ∃ t, exec (.barcfg src c) s = .next t ∧
          Completes src c false cmBarBusy 0 u t) ∧
        (∀ v bm cfg, bit (recB r 0 4) 13 = false → u.cmdRead src c (recB r 8 8) 300 = .bytes v bm →
          cfg = ⟨BitVec.ofNat 2 (recB r 0 4 / 1024), bit (recB r 0 4) 12, recB r 4 4, barBits bm⟩ → cfg.cores.isEmpty = false →
          cfg.cores.any (fun b => v.cellPart (coreCell (bitCore b)) != p) = false → cfg.scopeBad = false →
          cfg.nodes.any (fun h => decide (h < 8) && decide (v.nodeUse p (recB r 0 4 % 1024) h ≥ 128)) = false →
          v.barOpen p (recB r 0 4 % 1024) = false → ∃ t, exec (.barcfg src c) s = .next t ∧
            Completes src c false 0 0 (v.barPut p (recB r 0 4 % 1024) cfg) t)) ∧
      (CmdReady src c 0x21 [(8, 8)] s → ∀ u v bs ls r, s.cmdRead src c (cmdB c 8 8) 64 = .bytes u bs → r = ofLE bs →
        redBad r ((u.redOf p (recB r 0 4 % 4096)).map (·.w)) false = false → u.redUpUnbound p r = false →
        u.cmdRead src c (recB r 0x20 8) (16 * recB r 4 1) = .bytes v ls → (pieces 16 ls 64).any locBad = false → v.redPortBad r = false →
        (u.redOf p (recB r 0 4 % 4096) = none → v.getF redReserved + 2 ^ recB r 7 1 ≤ 4096) →
        (u.redOf p (recB r 0 4 % 4096)).any (fun x => x.cur.isSome && x.next.isSome) = false → ∃ t, exec (.redjob src c) s = .next t ∧
          Starts src c (v.startRound p (recB r 0 4 % 4096) (2 ^ recB r 7 1) (newRound (.cmd src c) (cmdCtx c) r ((pieces 16 ls 64).map locOf) [])) t) ∧
      (CmdReady src c 0x23 [(8, 8)] s → ∀ u v w bs tb hb r, s.cmdRead src c (cmdB c 8 8) 64 = .bytes u bs → r = ofLE bs →
        (jobBad r = true → ∀ u', u' = (if progOk r then
            u.progWrite (cmdCtx c) p (recB r 0x38 8) (progBytes ujTable 0 0 0xFF 0 0 0 (fun _ => 0) 0) else u) →
          ∃ t, exec (.updjob src c) s = .next t ∧ Completes src c false cmUpdateFail ujTable u' t) ∧
        (jobBad r = false → bit (recB r 0 4) 0 = false → bit (recB r 0 4) 2 = false →
          u.cmdRead src c (recB r 0x18 8) (128 * recB r 4 2) = .bytes v tb → v.cmdRead src c (recB r 0x20 8) (32 * recB r 6 1) = .bytes w hb →
          ∀ es hs, es = pieces 128 tb 4096 → hs = pieces 32 hb 64 → es ≠ [] →
          (∀ b, b ∈ es → recB (ofLE b) 1 1 < 12 ∧ mget 0 w.cellar.weights (16 * recB (ofLE b) 1 1 + p) ≠ 0 ∧
            w.entryBad r 0 (hs.map (fun b => BitVec.ofNat 256 (ofLE b))) p (ofLE b) = false) →
          (∀ b, b ∈ hs → hsetBad (BitVec.ofNat 256 (ofLE b)).toNat = false) →
          ∃ t, exec (.updjob src c) s = .next t ∧ Starts src c (w.jobStart src c r 0 es hs 0) t))) ∧
    (∀ red, s.redOf p (cmdB c 8 2) = some red → cmdB c 8 2 < 4096 → CmdReady src c 0x22 [(8, 2), (0xA, 1), (0xB, 1)] s →
      (∀ r, cmdB c 0xA 1 = 0 → red.cur = some r → r.num = cmdB c 0xB 1 → ∃ t, exec (.redctlClose src c) s = .next t ∧
        Completes src c false 0 0
          (forEach r.openFrags (s.updCur red (fun r => { r with closeSeen := true })) (fun s f => s.closeFrag p (cmdB c 8 2) f true)) t) ∧
      (cmdB c 0xA 1 = 1 → ∃ t, exec (.redctlUnconfigure src c) s = .next t ∧ Completes src c false 0 0 (s.unconfigRed red) t)) ∧
    (CmdReady src c 0x24 [(8, 2), (0xA, 2)] s →
      ∀ o, s.host.open_.find? (fun o => srcKey o.src == cmdB c 8 2 && s.srcPart o.src == p && cmdId o.cmd == cmdB c 0xA 2 && cmdOp o.cmd == 0x23) =
          some o →
        (o.started = false → ∃ t, exec (.updstop src c) s = .next t ∧
          Completes src c false 0 0 (s.complete o.src o.cmd false cmUpdateFail ujStopped) t) ∧
        (∀ j, o.started = true → s.cellar.jobs.find? (fun j => j.src == o.src && j.cmd == o.cmd) = some j →
          ∃ t, exec (.updstop src c) s = .next t ∧ Completes src c false 0 0 (s.stopJob j) t))

/-- R304, R316, R317, R431, R509: FLTRES retries or aborts an open record of its own partition and is STALE for the others; INVAL queues its
invalidation; FABCFG sends its node records; PORTCTL releases a quarantined port or retrains one, of a port bound to the partition. -/
def Obligations.FaultInvalidationFabricCommands : Prop :=
  ∀ (src : CmdSrc) (c : Cmd) (s : State) (p : Nat), p = s.srcPart src →
    (CmdReady src c 0x30 [(8, 4), (0xC, 1)] s →
      (∀ f, s.recOf (BitVec.ofNat 32 (cmdB c 8 4)) = some f → f.cls ≠ 0 → f.part = p →
        (cmdB c 0xC 1 = 0 → ∃ t, exec (.fltresRetry src c) s = .next t ∧ Completes src c false 0 0 (s.retryRec f) t) ∧
        (cmdB c 0xC 1 = 1 → ∃ t, exec (.fltresAbort src c) s = .next t ∧ Completes src c false 0 0 (s.abortRec f f.cls false) t)) ∧
      (s.recOf (BitVec.ofNat 32 (cmdB c 8 4)) = none → cmdB c 0xC 1 = 0 → ∃ t u, exec (.fltresRetry src c) s = .next t ∧
        Completes src c false cmStale 0 u t ∧ OnlyRegs [mmuBase + 0x20] s u ∧
        u.getF ⟨mmuBase + 0x20, 48, 16⟩ = satAdd (s.getF ⟨mmuBase + 0x20, 48, 16⟩) 1 16)) ∧
    (CmdReady src c 0x31 [(8, 1), (0x10, 8), (0x18, 8)] s → cmdB c 8 1 ≤ 2 → cmdB c 0x10 8 < 2 ^ 48 → cmdB c 0x18 8 < 2 ^ 36 →
      (cmdB c 8 1 ≠ 0 → s.ctxOk (cmdCtx c) p = true) →
      (cmdB c 8 1 = 2 → cmdB c 0x18 8 = 0 → ∃ t, exec (.inval src c) s = .next t ∧ Completes src c false 0 0 s t) ∧
      (cmdB c 8 1 ≠ 2 ∨ cmdB c 0x18 8 ≠ 0 → ∃ t u, exec (.inval src c) s = .next t ∧ Starts src c u t ∧ OtherRegs [mmuBase + 8] s u ∧
        u.getB ⟨mmuBase + 8, 11, 1⟩ = true ∧ u = { s with regs := u.regs, mmu := { s.mmu with invs := s.mmu.invs ++
          [⟨if cmdB c 8 1 = 0 then none else some (cmdCtx c), if cmdB c 8 1 = 2 then some (cmdB c 0x10 8 / 4096, cmdB c 0x18 8) else none,
            some p, some src, c⟩] } })) ∧
    (CmdReady src c 0x40 [(8, 8), (0x10, 2), (0x12, 1)] s → 1 ≤ cmdB c 0x10 2 → cmdB c 0x10 2 ≤ 64 → cmdB c 0x12 1 ≤ 17 → cmdB c 8 8 < 2 ^ 48 →
      s.ctxOk (cmdCtx c) p = true → bit (s.reg (portKey (cmdB c 0x12 1) + 0x10)).toNat p = true →
      s.fabric.outstanding.length + cmdB c 0x10 2 ≤ 8192 → ∀ u bs, s.cmdRead src c (cmdB c 8 8) (32 * cmdB c 0x10 2) = .bytes u bs →
      ∃ t, exec (.fabcfg src c) s = .next t ∧
        Starts src c (forEach ((pieces 32 bs 64).zipIdx) u (fun s z => s.sendNode (cmdB c 0x12 1) (.node src c z.2) z.1)) t) ∧
    (∀ n : Nat, CmdReady src c 0x42 [(8, 1), (9, 1)] s → n = cmdB c 8 1 → n ≤ 17 → bit (s.reg (portKey n + 0x10)).toNat p = true →
      (cmdB c 9 1 = 0 → s.pst n = 7 → ∃ t u v, exec (.portctlUnquarantine src c) s = .next t ∧ Completes src c false 0 0 u t ∧
        InDetect n s v ∧ u = v.linkEvent n 3) ∧
      (cmdB c 9 1 = 1 → s.pst n = 5 → ∃ t u, exec (.portctlRetrain src c) s = .next t ∧ Completes src c false 0 0 u t ∧
        InRetrain n 5 0 true s u))

/-! ### The coupling service (R548-R568) -/

/-- R549-R561, R565: CONFIG clears and configures a pantry; RESET, INTAKE, FEED, PUBLISH and UNCONFIG give it work; SELECT answers a request;
QUERY enables, changes or stops a query service; a committed ticket is taken; a late one is skipped; a batch closes at its time, and is
answered when it is done or late. The service of the partition then goes on. -/
def Obligations.PantryAndQueryComplete : Prop :=
  ∀ (src : CmdSrc) (c : Cmd) (i : Nat) (s : State) (p : Fin 16),
    (∀ u bs x v, PantryReady src c 0 i p.val s → i < 8 → vaOk (panVa c) 64 = true → (s.pantry p.val i).any (fun x => !x.still) = false →
      s.cmdRead src c (panVa c) 64 = .bytes u bs → pantryBad (ofLE bs) = false →
      x = ⟨BitVec.ofNat 512 (ofLE bs), panVa c, cmdCtx c, 0, 0, 0, [], none, none, [], none, []⟩ → u.pantryClear p.val (cmdCtx c) x = .ok v () →
      ∃ t w, exec (.pantryConfig src c) s = .next t ∧ Completes src c false 0 0 (v.setPantry p.val i (some x)) w ∧ t = w.svcKick p.val) ∧
    (∀ x, s.pantry p.val i = some x → i < 8 →
      (PantryReady src c 1 i p.val s → ∃ t w, exec (.pantryReset src c) s = .next t ∧ t = w.svcKick p.val ∧
        Starts src c (s.setPantry p.val i (some { x with work := x.work ++ [⟨.cmd src c, .reset, 0, 0, cmdCtx c⟩] })) w) ∧
      (PantryReady src c 2 i p.val s → vaOk (panVa c) 1 = true → ∃ t w, exec (.pantryIntake src c) s = .next t ∧ t = w.svcKick p.val ∧
        Starts src c (s.setPantry p.val i (some { x with intakes := x.intakes ++ [⟨src, c, panVa c, panN c, none, none⟩] })) w) ∧
      (PantryReady src c 4 i p.val s → 0 < panN c → panN c ≤ 65535 → vaOk (cmdB c 0x18 8) 1 = true →
        ∃ t w, exec (.pantryFeed src c) s = .next t ∧ t = w.svcKick p.val ∧
          Starts src c (s.setPantry p.val i (some { x with work := x.work ++ [⟨.cmd src c, .feed, panN c, cmdB c 0x18 8, cmdCtx c⟩] })) w) ∧
      (PantryReady src c 7 i p.val s → ∃ t w, exec (.pantryUnconfig src c) s = .next t ∧ t = w.svcKick p.val ∧
        Starts src c (s.setPantry p.val i (some { x with work := x.work ++ [⟨.cmd src c, .unconfig, 0, 0, cmdCtx c⟩] })) w) ∧
      (∀ seq kind u bs, PantryReady src c 3 i p.val s → vaOk (panVa c) 1 = true → x.request = some (seq, kind, panN c) → x.answer = none →
        seq.toNat = cmdB c 0x20 4 → s.cmdRead src c (panVa c) (4 * panN c) = .bytes u bs →
        ∃ t w, exec (.pantrySelect src c) s = .next t ∧ t = w.svcKick p.val ∧
          (((pieces 4 bs 65536).map ofLE).all (selectOk x kind) = true →
            Completes src c false 0 0 (u.setPantry p.val i (some { x with answer := some ((pieces 4 bs 65536).map ofLE) })) w) ∧
          (((pieces 4 bs 65536).map ofLE).all (selectOk x kind) = false → Completes src c false cmStale 0 u w)) ∧
      (s.svcWt p.val ≠ 0 → (∀ (hi : i < 10) (u : State), u = s.svcKick p.val → (u.pantry p.val i).any (fun x => x.work.isEmpty) = true →
        ∃ t, exec (.pantryTicketTake p ⟨i, hi⟩) s = .next t ∧ t = (u.takeTicket p.val i).svcKick p.val) ∧
        (∀ (hi : i < 10) u, x.skipTo ≠ 0 → x.request = none → x.held = none → s.skipTicket x.ctx p.val x.ctrl x.stg x.stage = .ok u () →
          ∃ t, exec (.intakeSkip p ⟨i, hi⟩) s = .next t ∧ t = u.svcKick p.val))) ∧
    (∀ u bs, PantryReady src c 5 i p.val s → i < 256 → vaOk (panVa c) 1 = true → s.cmdRead src c (panVa c) 64 = .bytes u bs →
      publishBad (ofLE bs) = false → ∃ t w, exec (.pantryPublish src c) s = .next t ∧ t = w.svcKick p.val ∧
        Starts src c (u.startPub (.cmd src c) p.val (cmdCtx c) (panVa c) (BitVec.ofNat 512 (ofLE bs))) w) ∧
    (∀ u bs, PantryReady src c 6 i p.val s → i < 2 → vaOk (panVa c) 1 = true → s.cmdRead src c (panVa c) 64 = .bytes u bs →
      queryBad (ofLE bs) = false →
      (bit (ofLE bs) 0 = true → u.query p.val i = none → ∃ t w, exec (.pantryQuery src c) s = .next t ∧ t = w.svcKick p.val ∧
        Completes src c false 0 0
          (u.setQuery p.val i (some ⟨BitVec.ofNat 512 (ofLE bs), cmdCtx c, [], 1, false, none, false, none, false, 0⟩)) w) ∧
      (∀ x, u.query p.val i = some x → bit (ofLE bs) 0 = false → ∃ t w, exec (.pantryQuery src c) s = .next t ∧ t = w.svcKick p.val ∧
        Completes src c false 0 0 (u.setQuery p.val i (if x.batch.isEmpty then none else some { x with stopping := true })) w)) ∧
    (∀ (q : Fin 2) (x : Query), s.query p.val q.val = some x →
      (x.batch ≠ [] → x.outstanding = false → x.waiting = false →
        ∃ t, exec (.queryBatchTimeout p q) s = .next t ∧ t = (s.closeQuery p.val q.val x).svcKick p.val) ∧
      (x.outstanding = true → x.answering = none →
        (∃ t, exec (.queryDoneTimeout p q) s = .next t ∧ t = (s.answerFrom p.val q.val x 2).svcKick p.val) ∧
        (∀ u, s.svcNat x.ctx p.val (x.area + 0x20) 8 = .ok u x.batchNo →
          ∃ t, exec (.queryDoneRead p q) s = .next t ∧ t = (u.answerFrom p.val q.val x 0).svcKick p.val)))

/-- R562-R568: START runs a cadence whose period begins now; STOP stops one between its phases at once and one at work at its next phase
boundary; ADJUST takes the lengths that answer the latest request; RESUME goes on with the period that begins now; a period starts at its
time, without a weight it pauses; at the end of a phase the next one begins. -/
def Obligations.CadencesComplete : Prop :=
  ∀ (r : Fin 1024) (c : Cmd) (p : Fin 16) (i : Fin 4) (s : State),
    (∀ u bs, CadenceReady r c 0 i.val p.val s → vaOk (cmdB c 0x10 8) 64 = true → (s.cadence p.val i.val).any (fun x => x.st != .stopped) = false →
      s.cmdRead (.ring r) c (cmdB c 0x10 8) 288 = .bytes u bs → cadenceBad bs = false → ∃ t, exec (.cadenceStart (.ring r) c) s = .next t ∧
        Completes (.ring r) c false 0 0 (u.setCadence p.val i.val (some ⟨bs, cmdCtx c, .run, 0, 0, false, 2 * u.mtime.toNat, 2 * u.mtime.toNat,
          2 * u.mtime.toNat, 0, 0, 0, [], [], none, none, 0xFF, 0, none, 0, 0, 0⟩)) t) ∧
    (∀ x, s.cadence p.val i.val = some x →
      (CadenceReady r c 1 i.val p.val s → x.stopReq = none →
        (x.st = .run → x.inPeriod = true → ∃ t, exec (.cadenceStop (.ring r) c) s = .next t ∧
          Starts (.ring r) c (s.setCadence p.val i.val (some { x with stopReq := some (.ring r, c) })) t) ∧
        (x.st = .stopped → ∃ t, exec (.cadenceStop (.ring r) c) s = .next t ∧ Completes (.ring r) c false 0 0 s t) ∧
        (x.st ≠ .stopped → x.st ≠ .run ∨ x.inPeriod = false → ∃ t, exec (.cadenceStop (.ring r) c) s = .next t ∧
          Completes (.ring r) c false 0 0 ((s.setCadence p.val i.val (some { x with
            st := .stopped, inPeriod := false, request := none, stopReq := none })).cadStatus p.val i.val) t)) ∧
      (∀ l, CadenceReady r c 2 i.val p.val s → l = ((upTo 8).map (fun j => cmdB c (0x18 + 4 * j) 4)).takeWhile (fun v => v != 0) →
        l.any (fun v => decide (2 * v < x.f 4 4)) = false →
        (x.request = some (BitVec.ofNat 32 (cmdB c 0xC 4)) → ∃ t, exec (.cadenceAdjust (.ring r) c) s = .next t ∧
          Completes (.ring r) c false 0 0 (s.setCadence p.val i.val (some { x with
            lengths := l, request := if x.st = .waiting then x.request else none })) t) ∧
        (x.request ≠ some (BitVec.ofNat 32 (cmdB c 0xC 4)) → ∃ t, exec (.cadenceAdjust (.ring r) c) s = .next t ∧
          Completes (.ring r) c false cmStale 0 s t)) ∧
      (CadenceReady r c 3 i.val p.val s → x.st = .waiting → x.request = some (BitVec.ofNat 32 (cmdB c 0xC 4)) →
        ∃ t, exec (.cadenceResume (.ring r) c) s = .next t ∧ Completes (.ring r) c false 0 0 (s.setCadence p.val i.val (some { x with
          st := .run, request := none, failed := none, inPeriod := false, k := x.k + 1, phase := 0, b := 2 * s.mtime.toNat
          start := max (2 * s.mtime.toNat) (x.start + x.floor) })) t) ∧
      (x.st = .run → x.inPeriod = false → x.start ≤ 2 * s.mtime.toNat →
        (s.svcWt p.val = 0 → ∃ t, exec (.cadencePeriodStart p i) s = .next t ∧
          t = (s.setCadence p.val i.val (some { x with st := .paused })).cadStatus p.val i.val) ∧
        (s.svcWt p.val ≠ 0 → ∃ t, exec (.cadencePeriodStart p i) s = .next t ∧ t = (s.setCadence p.val i.val (some { x with
          inPeriod := true, phase := 0, lag := x.start - x.b, lengths := x.lengths.drop 1
          nextB := x.b + (match x.lengths with | l :: _ => l * 50 | [] => x.period) })).cadNext p.val i.val 9))) ∧
    (∀ (u : State) (x : Cadence), u = s.svcKick p.val → u.cadence p.val i.val = some x → x.st = .run → x.inPeriod = true →
      u.phaseDone p.val i.val x = true → x.stopReq = none → u.svcWt p.val ≠ 0 →
      (∀ f, x.failed = some f → ∃ t, exec (.cadencePhaseEnd p i) s = .next t ∧ t = u.cadFailed p.val i.val) ∧
      (x.failed = none → x.phase + 1 < x.nphase → ∃ t, exec (.cadencePhaseEnd p i) s = .next t ∧
        t = (u.setCadence p.val i.val (some { x with phase := x.phase + 1 })).cadNext p.val i.val 9) ∧
      (x.failed = none → x.nphase ≤ x.phase + 1 → ∃ t, exec (.cadencePhaseEnd p i) s = .next t ∧
        t = (u.setCadence p.val i.val (some { x with phase := x.phase + 1 })).cadPeriodEnd p.val i.val))

/-! ### Partition operations (R528-R547) -/

/-- R530-R533, R539-R544, R546: a PARTOP of the PF that nothing speaks against moves what it names, whole: a partition is created or taken
apart, cells are scrubbed and bound when their kernels are ended or stopped, granules released and bound, rings bound. -/
def Obligations.PartitionsMoveResources : Prop :=
  ∀ (r : Fin 1024) (c : Cmd) (s : State) (p q a : Nat), p = poP c → q = poQ c → a = poArg c →
    (PartopReady r c 0 (poClean c true false false false false 25 0) s → s.partExists p = false →
      (∀ x, x < 16 → s.jobHolder (bits a 0 16) p x = false) → ∃ t u, exec (.create (.ring r) c) s = .next t ∧ Completes (.ring r) c false 0 0 u t ∧
        u = { s with regs := u.regs, host := { s.host with events := u.host.events } } ∧
        OtherRegs [cfgBase + 0x180 + 8 * p, cfgBase + 0x100 + 8 * p, chnBase + 0x80 + 8 * p] s u ∧ u.partExists p = true ∧ u.evts p = {} ∧
        (∀ x, x ≠ p → u.evts x = s.evts x) ∧ u.getF ⟨chnBase + 0x80 + 8 * p, 0, 16⟩ = bits a 0 16 ∧
        u.getB ⟨chnBase + 0x80 + 8 * p, 16, 1⟩ = true ∧ u.getF ⟨cfgBase + 0x100 + 8 * p, 0, 9⟩ = bits a 16 9) ∧
    (PartopReady r c 1 (poClean c true false false false false 0 0) s → s.partExists p = true →
      ∃ t u, exec (.destroy (.ring r) c) s = .next t ∧ Completes (.ring r) c false 0 0 u t ∧ u = s.destroySteps p (.ring r, c) ∧
        u.partExists p = false ∧ u.parts.physwin ≠ some p ∧ u.svcWt p = 0 ∧ (∀ n, n < 64 → u.ctxOk n p = false) ∧
        (∀ e, mget 0 u.cellar.weights (16 * e + p) = 0) ∧ ∀ n, n < 18 → u.getF ⟨portKey n + 0x10, p, 1⟩ = 0) ∧
    (∀ l, l = moveCells c → PartopReady r c 2 (poClean c true true true true false 19 0 && cellRangeOk c) s →
      (p = 16 ∨ s.partExists p = true) → (q = 16 ∨ s.partExists q = true) → (∀ x, x ∈ l → s.cellPart x = q) →
      (cmdB c 0xB 1 = 1 → ∀ u : State, u = (forEach ((s.host.kernels.filter (fun k => k.part == q && k.onAny l)).filter (fun k => k.phase.holds)) s
          (fun s k => s.endKern k)).markStarted (.ring r) c → u.host.open_.contains ⟨.ring r, c, true⟩ = true →
        u.host.kernels.any (fun k => k.stopper == some (.ring r, c)) = false →
        ∃ t, exec (.moveCells (.ring r) c) s = .next t ∧ t = u.moveFinish (.ring r) c) ∧
      (cmdB c 0xB 1 = 0 → (∀ x, x ∈ l → s.poolUsed + s.poolNeed (l.filter (fun y => decide (y ≤ x))) q ≤ 480) →
        (∀ k, k ∈ s.host.kernels → (k.part == q && k.onAny l) = false ∧ k.stopper ≠ some (.ring r, c)) →
        ∃ t, exec (.moveCells (.ring r) c) s = .next t ∧ t = (s.markStarted (.ring r) c).moveFinish (.ring r) c ∧
          ∀ x, x ∈ l → t.cellPart x = p)) ∧
    (∀ l, l = moveGrans c → PartopReady r c 3 (poClean c true true true false false 13 13 && !l.isEmpty &&
        decide (a + poArg2 c ≤ 47 * s.goodStacks.length)) s →
      (p = 16 ∨ s.partExists p = true) → (q = 16 ∨ s.partExists q = true) → (∀ x, x ∈ l → s.granPart x = q) →
      (q = 16 → ∃ t u v, exec (.moveMem (.ring r) c) s = .next t ∧ Completes (.ring r) c false 0 0 u t ∧
        v = forEach l (forEach l s (fun s g => s.bindGran g 16)) (fun s g => s.releaseGib g) ∧
        u = { v with parts := { v.parts with granOf := u.parts.granOf } } ∧ (∀ x, x ∈ l → u.granPart x = p) ∧
        ∀ x, x ∉ l → u.granPart x = v.granPart x) ∧
      (q ≠ 16 → ∃ t u, exec (.moveMem (.ring r) c) s = .next t ∧ Starts (.ring r) c u t ∧
        u = { s with parts := { s.parts with granOf := u.parts.granOf }, mmu := { s.mmu with invs := s.mmu.invs ++ [⟨none, none, some q, some (.ring r), c⟩] } } ∧
        (∀ x, x ∈ l → u.granPart x = 16) ∧ ∀ x, x ∉ l → u.granPart x = s.granPart x)) ∧
    (∀ l, l = (upTo (bits a 10 11)).map (fun i => bits a 0 10 + i) →
      PartopReady r c 4 (poClean c true true true false false 21 0 && decide (0 < bits a 10 11) && decide (bits a 0 10 + bits a 10 11 ≤ 1024)) s →
      (p = 16 ∨ s.partExists p = true) → (q = 16 ∨ s.partExists q = true) → (∀ x, x ∈ l → s.ringPart x = q ∧ s.getF (ringSt x) = 0) →
      ∃ t u, exec (.moveRings (.ring r) c) s = .next t ∧ Completes (.ring r) c false 0 0 u t ∧
        u = { s with parts := { s.parts with ringOf := u.parts.ringOf } } ∧ (∀ x, x ∈ l → u.ringPart x = p) ∧
        ∀ x, x ∉ l → u.ringPart x = s.ringPart x)

/-- R270, R278, R396, R530-R533, R536, R537, R543, R547: the PARTOPs that set a partition's ports, contexts, shares, masks, scope, assistance
and physical window set exactly that; one from a VF or a cadence, or of a partition that does not exist, is refused with its reason. -/
def Obligations.PartitionSettingsComplete : Prop :=
  ∀ (r : Fin 1024) (c : Cmd) (s : State) (p q a : Nat), p = poP c → q = poQ c → a = poArg c →
    (s.partExists p = true →
      (PartopReady r c 5 (poClean c true false false false false 18 1) s → ∃ t u, exec (.ports (.ring r) c) s = .next t ∧
        Completes (.ring r) c false 0 0 u t ∧ OnlyRegs ((upTo 18).map (fun n => portKey n + 0x10)) s u ∧
        ∀ n, n < 18 → u.reg (portKey n + 0x10) =
          if bit a n then setFld (s.reg (portKey n + 0x10)) p 1 (poArg2 c) else s.reg (portKey n + 0x10)) ∧
      (PartopReady r c 6 (poClean c true false false false true 6 0 && entryOk (cmdB c 0x20 32) && decide ((entryOf (cmdB c 0x20 32)).part = p)) s →
        s.ctxOther a p = false → ∃ t u, exec (.setCtx (.ring r) c) s = .next t ∧ Completes (.ring r) c false 0 0 u t ∧
          u = { s with mmu := { s.mmu with ctxs := mset none s.mmu.ctxs a (some (entryOf (cmdB c 0x20 32))) } }) ∧
      (PartopReady r c 8 (poClean c true false false false false 13 7 && decide (poArg2 c ≤ 64) && !(bit a 12 && decide (a % 4096 ≠ 0))) s →
        (bit a 12 = true → s.otherSvc p + poArg2 c ≤ 64 → ∃ t, exec (.share (.ring r) c) s = .next t ∧
          Completes (.ring r) c false 0 0 (s.setSvcWeight p (poArg2 c)) t) ∧
        (bit a 12 = false → (∀ e, e < 12 → bit a e = true → s.otherWeights e p + poArg2 c ≤ 64) → poArg2 c ≠ 0 →
          ∃ t u, exec (.share (.ring r) c) s = .next t ∧ Completes (.ring r) c false 0 0 u t ∧
            u = { s with cellar := { s.cellar with weights := u.cellar.weights } } ∧
            ∀ e, e < 12 → mget 0 u.cellar.weights (16 * e + p) = if bit a e then poArg2 c else mget 0 s.cellar.weights (16 * e + p))) ∧
      (PartopReady r c 9 (poClean c true false false false false 16 0) s → ∃ t u, exec (.waymask (.ring r) c) s = .next t ∧
        Completes (.ring r) c false 0 0 u t ∧ OnlyRegs ((upTo 4).map (fun d => srmBase d + 0x100 + 8 * p)) s u ∧
        ∀ d, d < 4 → u.getF ⟨srmBase d + 0x100 + 8 * p, 0, 16⟩ = a) ∧
      (PartopReady r c 11 (poClean c true false false false false 9 0) s → ∃ t u, exec (.assist (.ring r) c) s = .next t ∧
        Completes (.ring r) c false 0 0 u t ∧ OnlyRegs [cfgBase + 0x100 + 8 * p] s u ∧ u.getF ⟨cfgBase + 0x100 + 8 * p, 0, 9⟩ = a) ∧
      (PartopReady r c 12 (poClean c true false false false false 1 0) s → ∃ t, exec (.physwin (.ring r) c) s = .next t ∧
        Completes (.ring r) c false 0 0 { s with parts := { s.parts with
          physwin := (if a = 1 then some p else if s.parts.physwin = some p then none else s.parts.physwin) } } t)) ∧
    (s.partExists q = true →
      (PartopReady r c 7 (poClean c false true false false false 6 0) s → s.ctxOther a q = false → (s.ctxEntry a).isSome = false ∨ s.ctxBusy a = false →
        ∃ t, exec (.clearCtx (.ring r) c) s = .next t ∧ Starts (.ring r) c { s with mmu := { s.mmu with
          ctxs := mset none s.mmu.ctxs a none, invs := s.mmu.invs ++ [⟨some a, none, none, some (.ring r), c⟩] } } t) ∧
      (PartopReady r c 13 (poClean c false true false false false 19 0 && cellRangeOk c) s → s.host.kernels = [] →
        ∃ t u, exec (.discard (.ring r) c) s = .next t ∧ Completes (.ring r) c false 0 0 u t ∧
          u = { s with parts := { s.parts with saved := s.parts.saved.filter (fun x => !((moveCells c).contains x.cell && x.part == q)) } })) ∧
    (∀ b, b = bits a 0 6 → PartopReady r c 10 (poClean c false false false false false 7 0 && decide (b < 47)) s →
      (s.bandGrans b).any (fun g => s.granPart g != 16) = false → ∃ t, exec (.scope (.ring r) c) s = .next t ∧
        Completes (.ring r) c false 0 0 { s with hbm := { s.hbm with dieLocal := mset false s.hbm.dieLocal b (bit a 6) } } t) ∧
    (cmdOp c = 0x60 → poOp c = 11 → s.partopBusy = false →
      (s.cmdReady (.ring r) c = true → s.ringPart r.val ≠ 0 → poClean c true false false false false 9 0 = true →
        ∃ t, exec (.assist (.ring r) c) s = .next t ∧ Completes (.ring r) c false cmNotPermitted 0 s t) ∧
      (s.cmdReady (.ring r) c = true → s.ringPart r.val = 0 → poClean c true false false false false 9 0 = true → s.partExists p = false →
        ∃ t, exec (.assist (.ring r) c) s = .next t ∧ Completes (.ring r) c false cmNotPermitted (3 + p * 2 ^ 8 + 8 * 2 ^ 24) s t) ∧
      (∀ pp i, s.cmdReady (.cadence pp i) c = true → ∃ t, exec (.assist (.cadence pp i) c) s = .next t ∧
        Completes (.cadence pp i) c false cmBadOpcode 0 s t))

/-! ### Interrupts (R569-R587) -/

/-- R570, R573-R577: a flag set stands with its count; a filter's pass puts the level on the line; a target takes a source that pends for it and
starts its group's hold-off; it gives it back when it is done; a hold-off ends. -/
def Obligations.InterruptsComplete : Prop :=
  ∀ s : State,
    (∀ (d : Fin 4) b, ∃ t, exec (.irqFlagSet (.dstat d b)) s = .next t ∧ OnlyRaised [] (dstatHome d.val b.val) s t) ∧
    (∀ c b, ∃ t, exec (.irqFlagSet (.cstat c b)) s = .next t ∧ OnlyRaised [] (cstatHome c.val b.val) s t) ∧
    (∀ b, mstatBit b.val = true → ∃ t, exec (.irqFlagSet (.mstat b)) s = .next t ∧ OnlyRaised [] (mstatHome b.val) s t) ∧
    (∀ p b, ∃ t, exec (.irqFlagSet (.pstat p b)) s = .next t ∧ OnlyRaised [] (pstatHome p.val b.val) s t) ∧
    (∀ (ctl : Fin 5) (src : Fin 512), src.val < irqSrcs ctl.val → ∃ t, exec (.irqFilterPass ctl src) s = .next t ∧
      mget false t.irq.line (512 * ctl.val + src.val) = decide (s.srcFlags ctl.val src.val ≠ 0) ∧
      (∀ k, k ≠ 512 * ctl.val + src.val → mget false t.irq.line k = mget false s.irq.line k) ∧
      t = { s with irq := { s.irq with line := t.irq.line } }) ∧
    (∀ (x : Fin 17) (ctl : BitVec 3) (src : BitVec 9),
      (mget none s.irq.taken x.val = none → s.srcPending ctl.toNat src.toNat = true → s.getF (irqTgt ctl.toNat src.toNat) = x.val →
        ∃ t, exec (.irqTake x ctl src) s = .next t ∧ mget none t.irq.taken x.val = some (ctl.toNat, src.toNat) ∧
          t.srcTaken ctl.toNat src.toNat = true ∧ t.srcPending ctl.toNat src.toNat = false ∧
          (∀ y, y ≠ x.val → mget none t.irq.taken y = mget none s.irq.taken y) ∧
          (s.getF (irqHold ctl.toNat (src.toNat / 16)) ≠ 0 → mget false t.irq.holdoff (32 * ctl.toNat + src.toNat / 16) = true) ∧
          (s.getF (irqHold ctl.toNat (src.toNat / 16)) = 0 → t.irq.holdoff = s.irq.holdoff) ∧
          t = { s with
            irq := { s.irq with taken := t.irq.taken, holdoff := t.irq.holdoff, routed := t.irq.routed }
            host := { s.host with events := t.host.events } }) ∧
      (s.srcPending ctl.toNat src.toNat = false → exec (.irqTake x ctl src) s = .next s) ∧
      (mget none s.irq.taken x.val = some (ctl.toNat, src.toNat) → ∃ t, exec (.irqDone x ctl src) s = .next t ∧
        mget none t.irq.taken x.val = none ∧ t = { s with irq := { s.irq with taken := mset none s.irq.taken x.val none } }) ∧
      (mget none s.irq.taken x.val ≠ some (ctl.toNat, src.toNat) → exec (.irqDone x ctl src) s = .next s)) ∧
    (∀ (ctl : Fin 5) (g : Fin 32), ∃ t, exec (.irqHoldoffExpiry ctl g) s = .next t ∧ mget false t.irq.holdoff (32 * ctl.val + g.val) = false ∧
      t = { s with irq := { s.irq with holdoff := t.irq.holdoff } } ∧
      ∀ k, k ≠ 32 * ctl.val + g.val → mget false t.irq.holdoff k = mget false s.irq.holdoff k)

/-! ### Power (R588-R605) -/

/-- R590, R593, R598-R601, R603, R605: a sample shows the input, throttles at the second overdraw in a row and turns lending off above 0.99 and
on below 0.98; a sustained overdraw takes one step from the cells above their guaranteed clock; a control step shows the dies' telemetry; a
record is installed; a thermal step is entered and left; a trip shuts the module down; an unanswered request applies its proposal. Readings
of the model: log entries 60 and 61. -/
def Obligations.PowerCommandsComplete : Prop :=
  ∀ s : State,
    (∀ x : InputSample, s.power.lowBand = none → ∃ t, exec (.powerSample x) s = .next t ∧
      t.reg (pwrBase + 0x18) = BitVec.ofNat 64 (x.vin.toNat + x.iin.toNat * 2 ^ 16 + x.pin.toNat * 2 ^ 32 + x.pmean.toNat * 2 ^ 48) ∧
      t.power.overLast = decide (x.pin.toNat * 100 > 115 * s.getF effF) ∧
      (x.pin.toNat * 100 > 115 * s.getF effF → s.power.overLast = true → t.power.throttled = true ∧ t.power.cellClk = []) ∧
      (x.pin.toNat * 100 ≤ 115 * s.getF effF ∨ s.power.overLast = false → t.power.throttled = s.power.throttled ∧ t.power.cellClk = s.power.cellClk) ∧
      (x.pmean.toNat * 100 > 99 * s.getF effF → t.power.noLend = true) ∧
      (x.pmean.toNat * 100 < 98 * s.getF effF → t.power.noLend = false) ∧
      (98 * s.getF effF ≤ x.pmean.toNat * 100 → x.pmean.toNat * 100 ≤ 99 * s.getF effF → t.power.noLend = s.power.noLend) ∧
      mget 0 t.mgmt.sensors 1 = x.vin.toNat ∧ mget 0 t.mgmt.sensors 2 = x.iin.toNat ∧ mget 0 t.mgmt.sensors 3 = x.pin.toNat ∧
      mget 0 t.mgmt.sensors 4 = x.pmean.toNat ∧
      t = { s with
        regs := t.regs, irq := { s.irq with routed := t.irq.routed }, mgmt := t.mgmt, out := t.out
        power := { s.power with
          overLast := t.power.overLast, noLend := t.power.noLend, throttled := t.power.throttled, cellClk := t.power.cellClk } }) ∧
    (∃ t, exec .sustainedOverdraw s = .next t ∧ t.getF limiterF = satAdd (s.getF limiterF) 1 16 ∧ t.getB ⟨irqJBase + 0x2000, 10, 1⟩ = true ∧
      t = { s with
        regs := t.regs, irq := { s.irq with routed := t.irq.routed }, power := { s.power with cellClk := t.power.cellClk } } ∧
      OtherRegs ((pwrBase + 0x30) :: (mstatHome 10).keys) s t ∧
      (s.boundCells.filter (fun c => decide (s.cellStep c > s.fg)) = [] → ∀ c, c < 480 → t.cellStep c = max 64 (s.cellStep c - 1)) ∧
      (s.boundCells.Nodup → ∀ b, b ∈ s.boundCells → s.cellStep b > s.fg → t.cellStep b = max 64 (s.cellStep b - 1) ∧
        ∀ c, c ∉ s.boundCells ∨ s.cellStep c ≤ s.fg → t.cellStep c = s.cellStep c)) ∧
    (∀ x : ControlSample, ∃ t, exec (.powerControlStep x) s = .next t ∧
      t.reg (pwrBase + 0x20) =
        BitVec.ofNat 64 ((upTo 4).foldl (fun n d => n + (nth 0 x.pdie d).toNat * 2 ^ (12 * d)) 0 + x.pj.toNat * 2 ^ 48) ∧
      t.getB lendingF = t.power.lent.any (fun e => e.2) ∧
      t = { s with
        regs := t.regs, irq := { s.irq with routed := t.irq.routed }, mgmt := t.mgmt, out := t.out
        power := { s.power with
          cellClk := t.power.cellClk, meshClk := t.power.meshClk, lent := t.power.lent, dflt := t.power.dflt, recal := t.power.recal
          throttled := t.power.throttled, rotor := t.power.rotor } }) ∧
    (∀ (c : Fin 480) (r : CalRecord),
      (mget false s.power.recal c.val = true → ∃ t, exec (.recalibrationComplete c r) s = .next t ∧ t.calRec c.val = r ∧
        t = { s with power := { s.power with
          cal := mset none s.power.cal c.val (some r), dflt := mset false s.power.dflt c.val false, recal := mset false s.power.recal c.val false } }) ∧
      (mget false s.power.recal c.val = false → ∃ t, exec (.calibrationRetake c r) s = .next t ∧ t.calRec c.val = r ∧
        t = { s with power := { s.power with
          cal := mset none s.power.cal c.val (some r), dflt := mset false s.power.dflt c.val false, recal := mset false s.power.recal c.val false } })) ∧
    (∀ (sc : ThermalScope) (n : Fin 4),
      (s.scopeStep sc < n.val → ∃ t, exec (.thermalStepEntry sc n) s = .next t ∧ t.scopeStep sc = n.val ∧ (s.topStep < 4 → t.getF stepF = t.topStep) ∧
        t.getB ⟨irqJBase + 0x2000, 2, 1⟩ = true ∧ t = { s with
          regs := t.regs, irq := { s.irq with routed := t.irq.routed }, mgmt := t.mgmt, out := t.out, power := t.power
          host := { s.host with events := t.host.events } }) ∧
      (0 < s.scopeStep sc → s.scopeStep sc < 4 → ∃ t, exec (.thermalStepExit sc) s = .next t ∧ t.scopeStep sc = s.scopeStep sc - 1 ∧
        t.getB ⟨irqJBase + 0x2000, 2, 1⟩ = true ∧ t = { s with
          regs := t.regs, irq := { s.irq with routed := t.irq.routed }, mgmt := t.mgmt, out := t.out, power := t.power }) ∧
      (s.power.rails = true → ∃ t, exec (.thermalTrip sc) s = .next t ∧ t.getB ⟨irqJBase + 0x2000, 2, 1⟩ = true ∧
        t.power = { s.power with faultN := true, causes := s.power.causes ||| (1#6 <<< 3), rails := false, pwrgd := false } ∧
        t.mcs = [] ∧ t.rooms = [] ∧ t.dma = [] ∧ t.hbm.cells = [] ∧ t.host = s.host ∧ t.parts = s.parts ∧ t.ports = s.ports)) ∧
    (∀ (p : Fin 16) (r : PowerReq), mget none s.power.reqs p.val = some r → ∃ t, exec (.powerAnswerTimeout p) s = .next t ∧
      t = { s with power := { s.power with
        share := mset 0 s.power.share p.val (r.proposed + 1), reqs := mset none s.power.reqs p.val none } })

/-- R395, R588, R589, R603, R637, R638, R655: through the open guard of its block a counted write of a setting is accepted with its result or
turned away with it; the burn puts it in force; the cap takes a value in its range, and E follows; an answer applies a share; a job entry is
written unless another partition holds the job. The order of results of a counted write is the model's (log entry 52). -/
def Obligations.SettingWritesComplete : Prop :=
  ∀ s : State,
    (∀ (c : Instr) (n k g x : Nat) (v : Word) (u : State), (c, n, k, g, x) ∈ [
        (Instr.pwrCeilWrite .pf v, 1, pwrBase, pwrBase, fld v 0 16), (.mgtModnumWrite .pf v, 2, mgtBase + 8, mgtBase, fld v 0 14),
        (.mgtSvnWrite .pf v, 3, mgtBase + 0x10, mgtBase, fld v 0 7), (.mgtBadstkWrite .pf v, 4, mgtBase + 0x18, mgtBase, fld v 0 12)] →
      Keyed .pf k g s u →
      (u.mgmt.cwrite = none → u.cwResult n x = 1 → ∃ t, exec c s = .next t ∧ t.getF csSettingF = n ∧ t.getB csBusyF = true ∧
        OtherRegs [mgtBase] u t ∧ t = { u with regs := t.regs, mgmt := { u.mgmt with cwrite := some ⟨n, x, 1⟩ } }) ∧
      (u.mgmt.cwrite = none → u.cwResult n x ≠ 1 → ∃ t, exec c s = .next t ∧ t.getF csSettingF = n ∧ t.getF csResultF = u.cwResult n x ∧
        OnlyRegs [mgtBase] u t) ∧
      (u.mgmt.cwrite ≠ none → exec c s = .next u)) ∧
    (∀ w : CountedWrite, s.mgmt.cwrite = some w → ∃ t, exec .otpBurnComplete s = .next t ∧ t.mgmt.cwrite = none ∧ t.getB csBusyF = false ∧
      t.getF csResultF = 1 ∧ t.getB ⟨irqJBase + 0x2000, 9, 1⟩ = true ∧ t.getF effF = t.effective.1 ∧
      (1 ≤ w.setting → w.setting ≤ 3 → t.settingNow w.setting = w.value) ∧
      (w.setting = 4 → w.value < 4096 → t.settingNow 4 = w.value) ∧
      (w.setting = 1 → w.value < 65536 → t.getF ceilF = w.value) ∧
      t = { s with
        regs := t.regs, irq := { s.irq with routed := t.irq.routed }, power := t.power, mgmt := t.mgmt, out := t.out
        host := { s.host with events := t.host.events }, recovery := { s.recovery with deferredAudit := t.recovery.deferredAudit } }) ∧
    (∀ (v : Word) (u : State), Keyed .pf (pwrBase + 8) pwrBase s u →
      (1000 ≤ fld v 0 16 → fld v 0 16 ≤ 4000 → ∃ t, exec (.pwrCapWrite .pf v) s = .next t ∧ t.getF capF = fld v 0 16 ∧
        t.getF effF = t.effective.1 ∧ t = { u with
          regs := t.regs, power := t.power, mgmt := t.mgmt, out := t.out, host := { u.host with events := t.host.events }
          irq := { u.irq with routed := t.irq.routed } }) ∧
      (fld v 0 16 < 1000 ∨ 4000 < fld v 0 16 → exec (.pwrCapWrite .pf v) s = .next u)) ∧
    (∀ v : Word, s.guardOpen .pf pwrBase = false → ∃ t, exec (.pwrCapWrite .pf v) s = .next t ∧ OtherRegs [cfgBase + 0x10] s t ∧
      t.getF ⟨cfgBase + 0x10, 16, 16⟩ = satAdd (s.getF ⟨cfgBase + 0x10, 16, 16⟩) 1 16 ∧ t = { s with regs := t.regs, recentW := t.recentW }) ∧
    (∀ (p : Fin 16) (v : Word) (u : State) (r : PowerReq), Keyed .pf (pwrBase + 0x100 + 8 * p.val) pwrBase s u →
      mget none s.power.reqs p.val = some r → r.seq.toNat = fld v 0 32 → ∃ t, exec (.pwrAnsWrite .pf p v) s = .next t ∧
        t.reg (pwrBase + 0x100 + 8 * p.val) = v ∧ OtherRegs [pwrBase + 0x100 + 8 * p.val] s t ∧ t = { u with
          regs := t.regs, power := { s.power with
            share := mset 0 s.power.share p.val (min (fld v 32 32) r.proposed + 1), reqs := mset none s.power.reqs p.val none } }) ∧
    (∀ (x : Ctlr) (p : Fin 16) (v : Word) (u : State), Keyed (.fw x) (chnBase + 0x80 + 8 * p.val) chnBase s u →
      ((bit v.toNat 16 && (upTo 16).any (s.jobHolder (fld v 0 16) p.val)) = false → ∃ t, exec (.chnJobWrite (.fw x) p v) s = .next t ∧
        OnlyRegs [chnBase + 0x80 + 8 * p.val] u t ∧ t.getF ⟨chnBase + 0x80 + 8 * p.val, 0, 16⟩ = fld v 0 16 ∧
        t.getB ⟨chnBase + 0x80 + 8 * p.val, 16, 1⟩ = bit v.toNat 16) ∧
      ((bit v.toNat 16 && (upTo 16).any (s.jobHolder (fld v 0 16) p.val)) = true → exec (.chnJobWrite (.fw x) p v) s = .next u))

/-! ### Resets, watchdogs, register writes (R606-R624, R644-R659) -/

/-- R606, R608, R614-R618, R620, R622: a keyed write resets a cell, the module or a partition, and answers a RECOVERY request; a lost heartbeat
flags its controller, a takeover gives its duties to an owner and restarts it, its heartbeat restores it, a fourth restart in an hour is not
made; a hang of the junction die is told on FAULT_N. Readings of the model: log entries 49 and 67. -/
def Obligations.ResetsAndRecoveryComplete : Prop :=
  ∀ s : State,
    (∀ (x : Ctlr) (d : Fin 4) (v : Word) (u : State), Keyed (.fw x) (rstDBase d.val + 0x18) (rstDBase d.val) s u → s.dieDown d.val = false →
      bit v.toNat 7 = true → fld v 0 7 < 120 → ∃ t, exec (.cellReset (.fw x) d v) s = .next t ∧
        t = (u.setReg (rstDBase d.val + 0x18) (mergeW (s.reg (rstDBase d.val + 0x18)) v 0xFF &&& maskW 0 7)).cellReset (120 * d.val + fld v 0 7) ∧
        (s.saving (120 * d.val + fld v 0 7) = true → t.parts.resetWait.contains (120 * d.val + fld v 0 7) = true) ∧
        (s.saving (120 * d.val + fld v 0 7) = false → s.host.kernels = [] → ∀ i, i < 4 → t.mc (4 * (120 * d.val + fld v 0 7) + i) = {})) ∧
    (∀ (v : Word) (st : BitVec 5) (u : State), Keyed .pf (rstJBase + 8) rstJBase s u → bit v.toNat 0 = true →
      ∃ t, exec (.warmResetWrite .pf v st) s = .next t ∧ t = u.warmReset 3 st ∧ t.getF causeF = 3 ∧ t.pending = s.pending) ∧
    (∀ (v : Word) (u : State), Keyed .pf (rstJBase + 0x10) rstJBase s u → bit v.toNat 4 = true → ∃ t, exec (.partitionReset .pf v) s = .next t ∧
      t = (u.setReg (rstJBase + 0x10) (mergeW (s.reg (rstJBase + 0x10)) v 0x1F &&& maskW 0 4)).askPartReset (fld v 0 4) ∧
      (s.partExists (fld v 0 4) = true → s.partopBusy = true → t.parts.partWait = s.parts.partWait ++ [fld v 0 4])) ∧
    (∀ (p : Fin 16) (v : Word) (u w : State) (q : Word32) (ks : List Kernel), Keyed .pf (rstJBase + 0x200 + 8 * p.val) rstJBase s u →
      mget none s.recovery.reqs p.val = some q → q.toNat = fld v 0 32 → ks = s.recovKernels p.val →
      w = (u.setReg (rstJBase + 0x200 + 8 * p.val) (mergeW (s.reg (rstJBase + 0x200 + 8 * p.val)) v 0x3_FFFF_FFFF)).recovDone p.val →
      (fld v 32 2 = 0 → ∃ t, exec (.recoveryResume .pf p v) s = .next t ∧
        t = forEach ks w (fun s k => s.updKern k.id (fun k => { k with phase := .restoring })) ∧ mget none t.recovery.reqs p.val = none) ∧
      (fld v 32 2 = 1 → ∃ t, exec (.recoveryEnd .pf p v) s = .next t ∧ t = forEach ks w (fun s k => s.endKern k)) ∧
      (fld v 32 2 = 2 → ∃ t, exec (.recoveryReset .pf p v) s = .next t ∧ t = w.askPartReset p.val)) ∧
    (∀ k : Ctlr,
      (s.ctlFailed k.val = true → mget false s.recovery.restarting k.val = true → ∃ t, exec (.heartbeat k) s = .next t ∧ t = s.restored k.val ∧
        t.ctlFailed k.val = false ∧ t.ownerOf k.val = none ∧ t = { s with
          regs := t.regs, recovery := t.recovery, mgmt := { s.mgmt with audit := t.mgmt.audit, auditSeq := t.mgmt.auditSeq } }) ∧
      (s.ctlFailed k.val = false → exec (.heartbeat k) s = .next s) ∧
      (s.ctlFailed k.val = false → ∃ t, exec (.heartbeatLost k) s = .next t ∧ t.ctlFailed k.val = true ∧
        mget 0 t.recovery.flagTime k.val = s.mtime ∧ (∀ j, j ≠ k.val → t.ctlFailed j = s.ctlFailed j) ∧
        (k.val < 8 → t.getB ⟨irqDBase (k.val / 2) + 0x1000, 8 + k.val % 2, 1⟩ = true) ∧
        (8 ≤ k.val → k.val < 16 → t.getB ⟨irqJBase + 0x2000, 17 + k.val, 1⟩ = true) ∧ (k.val = 16 → t.getB ⟨irqJBase + 0x2000, 24, 1⟩ = true) ∧
        t = { s with regs := t.regs, irq := { s.irq with routed := t.irq.routed }, recovery := { s.recovery with
          failed := t.recovery.failed, flagTime := t.recovery.flagTime } }) ∧
      (∀ o, s.ctlFailed k.val = true → s.ownerOf k.val = none → s.ownerFor k.val = some o → ∃ t, exec (.controllerTakeover k) s = .next t ∧
        t = s.takeOver k.val o ∧ t.ownerOf k.val = some o) ∧
      (∀ u : State, u = { s with recovery := { s.recovery with restarting := mset false s.recovery.restarting k.val false } } →
        s.ctlFailed k.val = true → mget false s.recovery.restarting k.val = true →
        (s.mayRestart k.val = true → ∃ t, exec (.restartTimeout k) s = .next t ∧ t = u.restart k.val ∧
          mget false t.recovery.restarting k.val = true ∧ (t.hourRestarts k.val).length = (s.hourRestarts k.val).length + 1) ∧
        (s.mayRestart k.val = false → ∃ t, exec (.restartTimeout k) s = .next t ∧
          t = { u with recovery := { u.recovery with dead := mset false u.recovery.dead k.val true } }))) ∧
    (∃ t, exec .junctionHang s = .next t ∧ t.getB ⟨rstJBase + 0x18, 15, 1⟩ = true ∧ t.getB ⟨mgtBase + 0x20, 5, 1⟩ = true ∧
      t.power = { s.power with faultN := true, causes := s.power.causes ||| (1#6 <<< 5) } ∧ OtherRegs [rstJBase + 0x18, mgtBase + 0x20] s t ∧
      t = { s with regs := t.regs, power := t.power, mgmt := t.mgmt, recovery := { s.recovery with deferredAudit := t.recovery.deferredAudit } })

/-- R645, R650-R652, R655, R657, R664: the key opens the writer's guard, another value closes it and is counted; a write of 1 clears a flag; a
register's own bits are written; an access of a wrong size is counted as refused; the slow-clock edge counts mtime and takes every slow copy
anew. Which refused writes count follows log entry 66. -/
def Obligations.RegisterWritesComplete : Prop :=
  ∀ s : State,
    (∀ (x : Ctlr) (off : Fin 67108864) (v : Word) (g key : Nat), groupOf off.val = some (g, key) → off.val % 0x1000 = 0xFF0 → 0x1_0000 ≤ off.val →
      (regFields off.val).isEmpty = false → pfAlone off.val = false → (match keyDie off.val with | some d => s.dieDown d | none => false) = false →
      (fld v 0 16 = key → ∃ t, exec (.unlockWrite (.fw x) off v) s = .next t ∧ t.guardOpen (.fw x) g = true ∧
        (∀ rq h, (rq, h) ≠ (Requester.fw x, g) → t.guardOpen rq h = s.guardOpen rq h) ∧
        t = { s with guards := t.guards, recentW := t.recentW }) ∧
      (fld v 0 16 ≠ key → ∃ t, exec (.unlockWrite (.fw x) off v) s = .next t ∧ t.guardOpen (.fw x) g = false ∧
        t.getF ⟨cfgBase + 0x10, 0, 16⟩ = satAdd (s.getF ⟨cfgBase + 0x10, 0, 16⟩) 1 16 ∧
        t.getF ⟨cfgBase + 0x10, 32, 23⟩ = off.val / 8 ∧ OtherRegs [cfgBase + 0x10] s t ∧
        t = { s with regs := t.regs, guards := t.guards, recentW := t.recentW })) ∧
    (∀ (x : Ctlr) (off : Fin 67108864) (v : Word), off.val = irqJBase + 0x2000 → ∃ t, exec (.w1cClear (.fw x) off v) s = .next t ∧
      t.reg off.val = s.reg off.val &&& ~~~ (v &&& accMask off.val (fun a => a == .w1c)) ∧ OtherRegs [off.val] s t ∧
      t = { s with regs := t.regs, recentW := t.recentW }) ∧
    (∀ (x : Ctlr) (off : Fin 67108864) (v : Word) (g : Fin 32), off.val = irqJBase + 8 * g.val → ∃ t,
      exec (.registerWrite (.fw x) off 8 v) s = .next t ∧ t.reg off.val = mergeW (s.reg off.val) v 0xFFFF ∧ OtherRegs [off.val] s t ∧
      t = { s with regs := t.regs, recentW := t.recentW }) ∧
    (∀ (x : Ctlr) (off : Fin 67108864) (size : Fin 16) (v : Word), 0x1_0000 ≤ off.val → groupOf (off.val / 8 * 8) = none →
      ((size.val == 8 && off.val % 8 == 0) || (size.val == 4 && off.val % 4 == 0)) = false → ∃ t,
      exec (.registerWrite (.fw x) off size v) s = .next t ∧ OtherRegs [cfgBase + 0x10] s t ∧
      t.getF ⟨cfgBase + 0x10, 16, 16⟩ = satAdd (s.getF ⟨cfgBase + 0x10, 16, 16⟩) 1 16 ∧ t.getF ⟨cfgBase + 0x10, 32, 23⟩ = off.val / 8 ∧
      t = { s with regs := t.regs, recentW := t.recentW }) ∧
    (s.parts.resetWait = [] → s.parts.partWait = [] → ∃ t, exec .slowClockEdge s = .next t ∧ t.mtime = s.mtime + 1 ∧ t.regsSlow = t.regs ∧
      t.recentW = [] ∧ t = { s with mtime := t.mtime, regs := t.regs, regsSlow := t.regs, recentW := [] })

/-! ### Management (R22, R625-R636) -/

/-- R22, R625-R629: a dynamic address and the endpoint's IDs are assigned and read; versions (free values, log entry 50), message types, sensors
and the UUID are answered; a receiver of events is set, a poll takes the oldest event; a reset request is answered and then carried out. -/
def Obligations.ManagementControlComplete : Prop :=
  ∀ (b : Binding) (s u : State),
    (∀ a, s.mgmt.address = none → ∃ t, exec (.entdaa a) s = .next t ∧
      t = { s with mgmt := { s.mgmt with address := some a }, out := s.out ++ [.mgmt .i3c 1 [s.power.straps.toNat]] }) ∧
    (∀ e : BitVec 8, Served b true s u → b ≠ .doe →
      (e ≠ 0 → e ≠ 255 → ∃ t, exec (.setEndpointId b e) s = .next t ∧ t.eid b = e.toNat ∧
        Replies b 2 [0, e.toNat] { u with mgmt := { u.mgmt with eids := mset 0 u.mgmt.eids (bindingNo b) e } } t) ∧
      (e = 0 ∨ e = 255 → ∃ t, exec (.setEndpointId b e) s = .next t ∧ Replies b 2 [5] u t)) ∧
    (Served b true s u → b ≠ .doe → ∃ t, exec (.getEndpointId b) s = .next t ∧ Replies b 3 [0, u.eid b] u t) ∧
    (ServedMctp b true s u →
      (∃ t, exec (.getEndpointUuid b) s = .next t ∧ Replies b 4 [0, Config.uuid] u t) ∧
      (∀ ty : BitVec 8, ty ∈ [0, 1, 5, 0xFF] → ∃ t v, exec (.getMctpVersionSupport b ty) s = .next t ∧ Replies b 5 [0, u.freshVal.toNat] u v ∧
        t = { v with freeCtr := v.freeCtr + 1 }) ∧
      (∀ ty : BitVec 8, ty ∉ [0, 1, 5, 0xFF] → ∃ t, exec (.getMctpVersionSupport b ty) s = .next t ∧ Replies b 5 [1] u t) ∧
      (∃ t, exec (.getMessageTypeSupport b) s = .next t ∧ Replies b 6 [0, 0, 1, 5] u t)) ∧
    (ServedMctp b false s u →
      (∀ st, ∃ t v, exec (.pldmResetRequest b st) s = .next t ∧ Replies b 7 [0] u v ∧ t = v.warmReset 2 st ∧ t.getF causeF = 2) ∧
      (∀ n : BitVec 16, (isSensor n.toNat = true → ∃ t, exec (.getSensorReading b n) s = .next t ∧
          Replies b 8 [0, mget 0 u.mgmt.sensors n.toNat, u.sensorLevel n.toNat] u t) ∧
        (isSensor n.toNat = false → ∃ t, exec (.getSensorReading b n) s = .next t ∧ Replies b 8 [5] u t) ∧
        (isStateSensor n.toNat = true → ∃ t, exec (.getStateSensorReadings b n) s = .next t ∧ Replies b 9 [0, u.sensorLevel n.toNat] u t)) ∧
      (∀ e m, ∃ t, exec (.setEventReceiver b e m) s = .next t ∧
        Replies b 10 [0] { u with mgmt := { u.mgmt with receiver := some (b, e, m) } } t) ∧
      (∀ x r, u.mgmt.polled = x :: r → ∃ t, exec (.platformEventMessage b) s = .next t ∧
        Replies b 11 (0 :: x) { u with mgmt := { u.mgmt with polled := r } } t) ∧
      (u.mgmt.polled = [] → ∃ t, exec (.platformEventMessage b) s = .next t ∧ Replies b 11 [0] u t))

/-- R611-R613, R631-R634: an update is requested once; its table passes the components whose security version stands; an image is written to the
slot not in force, verified and recorded; the activation makes each verified image its slot A; a cancellation ends the update. Slot A as
region 0 is the model's choice (log entry 48). -/
def Obligations.FirmwareUpdateCompletes : Prop :=
  ∀ (b : Binding) (s u : State), ServedMctp b true s u → u.romRecovery = false →
    (u.mgmt.session = none → ∃ t, exec (.requestUpdate b) s = .next t ∧ Replies b 12 [0] (u.setSession (some ⟨b, [], []⟩)) t) ∧
    (u.mgmt.session ≠ none → ∃ t, exec (.requestUpdate b) s = .next t ∧ Replies b 12 [4] u t) ∧
    (u.sessionOf b = none → ∃ t, exec (.activateFirmware b) s = .next t ∧ Replies b 15 [5] u t) ∧
    (∀ x, u.mgmt.session = some x → x.binding = b →
      (∀ l : List CompEntry, ∃ t y, exec (.passComponentTable b l) s = .next t ∧
        Replies b 13 (0 :: l.map (fun c => if u.getF svnF ≤ c.svn.toNat then 0 else 3)) (u.setSession (some y)) t ∧ y.binding = b ∧
        y.verified = x.verified ∧ ∀ c, c ∈ y.passed ↔ c ∈ x.passed ∨ ∃ e ∈ l, e.comp.val + 1 = c ∧ u.getF svnF ≤ e.svn.toNat) ∧
      (∀ (c : Fin 5) (img : Image), x.passed.contains (c.val + 1) = true → ∃ t v, exec (.firmwareComponentWrite b c img) s = .next t ∧
        Replies b 14 [0, imageFail (u.getF svnF) (c.val + 1) img] v t ∧ v.image (1 - u.slotA (c.val + 1)) (c.val + 1) = img ∧
        v.slotA (c.val + 1) = u.slotA (c.val + 1) ∧ v = { u with mgmt := v.mgmt, recovery := v.recovery } ∧
        (∃ y, v.mgmt.session = some y ∧ (y.verified.contains (c.val + 1) = true ↔ imageFail (u.getF svnF) (c.val + 1) img = 0))) ∧
      (x.verified.Nodup → ∃ t v, exec (.activateFirmware b) s = .next t ∧ Replies b 15 [0, 1] v t ∧ v.mgmt.session = none ∧
        (∀ c, c ∈ x.verified → v.slotA c = 1 - u.slotA c) ∧ (∀ c, c ∉ x.verified → v.slotA c = u.slotA c) ∧ v.mgmt.images = u.mgmt.images ∧
        v = { u with mgmt := v.mgmt, recovery := v.recovery }) ∧
      (∃ t v, exec (.cancelUpdate b) s = .next t ∧ Replies b 16 [0] v t ∧ v.mgmt.session = none ∧ v.mgmt.slotA = u.mgmt.slotA ∧
        v = { u with mgmt := v.mgmt, recovery := v.recovery }))

/-- R635, R636: SPDM runs through version, capabilities and algorithms (ECDSA P-384 with SHA-384, nothing else), then gives the chain's digest,
a part of the chain, a signed challenge and measurements; a request before its stage is answered as unexpected. The digests, keys and nonces
are free values. -/
def Obligations.AttestationCompletes : Prop :=
  ∀ (b : Binding) (s u : State), ServedSpdm b s u →
    (∃ t, exec (.getVersion b) s = .next t ∧ Replies b 17 [0, 0x12] (u.setSpdm b .version) t) ∧
    (u.spdm b ≠ .start → ∃ t, exec (.getCapabilities b) s = .next t ∧ Replies b 18 [0, 1, 1, 2] (u.setSpdm b .capabilities) t) ∧
    (u.spdm b = .start → ∃ t, exec (.getCapabilities b) s = .next t ∧ Replies b 18 [6] u t) ∧
    (u.spdm b = .capabilities →
      (∃ t, exec (.negotiateAlgorithms b true true) s = .next t ∧ Replies b 19 [0] (u.setSpdm b .negotiated) t) ∧
      (∀ e h, (e && h) = false → ∃ t, exec (.negotiateAlgorithms b e h) s = .next t ∧ Replies b 19 [1] u t)) ∧
    (u.spdm b ≠ .negotiated → ∃ t, exec (.getDigests b) s = .next t ∧ Replies b 20 [6] u t) ∧
    (u.spdm b = .negotiated →
      (∃ t, exec (.getDigests b) s = .next t ∧ Replies b 20 [0, 1, chainDigest] u t) ∧
      (∀ o n : BitVec 16, o.toNat ≤ Config.certLen → ∃ t, exec (.getCertificate b 0 o n) s = .next t ∧ Replies b 21 ([0,
        ((certChain.drop o.toNat).take n.toNat).length, Config.certLen - o.toNat - ((certChain.drop o.toNat).take n.toNat).length] ++
        (certChain.drop o.toNat).take n.toNat) u t) ∧
      (∀ nonce : BitVec 256, ∃ t v, exec (.challenge b 0 nonce) s = .next t ∧ Replies b 22 [0, chainDigest, u.freshVal.toNat,
        Config.deviceSign (Config.sha384 [nonce.toNat, u.freshVal.toNat, chainDigest])] u v ∧ t = { v with freeCtr := v.freeCtr + 1 }) ∧
      (∀ nonce : BitVec 256, ∃ t, exec (.getMeasurements b 0 false nonce) s = .next t ∧ Replies b 23 [0, 7] u t) ∧
      (∀ (i : BitVec 8) (nonce : BitVec 256) m, i ≠ 0 → i ≠ 255 → u.measurement i.toNat = some m →
        ∃ t, exec (.getMeasurements b i false nonce) s = .next t ∧ Replies b 23 [0, m] u t))

/-! ### Whole-machine rules -/

/-- R574: a source is pending while its filtered line is high, its enable bit is 1 and no target has taken it; a controller selects for a target
its lowest pending source routed there whose group is not in hold-off; across the controllers the lowest number is shown, and of equals the
lower controller's. -/
def Obligations.InterruptSelectionIsTheLowest : Prop :=
  ∀ s : State,
    (∀ ctl src, s.srcPending ctl src = true ↔ src < irqSrcs ctl ∧ mget false s.irq.line (512 * ctl + src) = true ∧
      s.getB (irqEn ctl src) = true ∧ ∀ x, x < 17 → mget none s.irq.taken x ≠ some (ctl, src)) ∧
    (∀ (ctl x : Nat) (elig : Nat → Prop), (∀ n, elig n ↔ s.srcPending ctl n = true ∧ s.getF (irqTgt ctl n) = x ∧
        mget false s.irq.holdoff (32 * ctl + n / 16) = false) →
      (∀ n, s.ctlSelect ctl x = some n ↔ elig n ∧ ∀ m, m < n → ¬elig m) ∧ (s.ctlSelect ctl x = none ↔ ∀ n, ¬elig n)) ∧
    (∀ x, mget none s.irq.taken x = none →
      (∀ c n, s.irqTop x = some (c, n) ↔ c < 5 ∧ s.ctlSelect c x = some n ∧
        ∀ d m, d < 5 → s.ctlSelect d x = some m → n < m ∨ (n = m ∧ c ≤ d)) ∧
      (s.irqTop x = none ↔ ∀ d, d < 5 → s.ctlSelect d x = none))

/-- R658: a reset of the module leaves no guard open, the loss of the dies' power none of the dies' blocks; an FLR of the PF closes every guard
that the PF holds, the restart of a firmware core every guard that the core holds, and no other; no guard ends by time. -/
def Obligations.GuardsCloseAtResets : Prop :=
  ∀ s : State,
    (∀ st b, ∃ t, exec (.coldPowerOn st b) s = .next t ∧ t.guards = []) ∧
    (∀ st, ∃ t, exec (.modRstNAssert st) s = .next t ∧ t.guards = []) ∧
    (∀ (v : Word) st, s.guardOpen .pf rstJBase = true → bit v.toNat 0 = true →
      ∃ t, exec (.warmResetWrite .pf v st) s = .next t ∧ t.guards = []) ∧
    (∀ b u st, ServedMctp b false s u → ∃ t, exec (.pldmResetRequest b st) s = .next t ∧ t.guards = []) ∧
    (∀ c, c ∈ [Instr.inputUndervoltageShutdown, .inputOvervoltageShutdown] →
      ∃ t, exec c s = .next t ∧ t.guards = s.guards.filter (fun g => !isDieKey g.2)) ∧
    (∃ t, exec (.flr 0) s = .next t ∧ ∀ rq g, t.guardOpen rq g = (rq != .pf && s.guardOpen rq g)) ∧
    (∀ k : Ctlr, s.ctlFailed k.val = true → mget false s.recovery.restarting k.val = true → s.mayRestart k.val = true →
      ∃ t, exec (.restartTimeout k) s = .next t ∧ ∀ rq g, t.guardOpen rq g = (rq != .fw k && s.guardOpen rq g)) ∧
    (∃ t, exec .slowClockEdge s = .next t ∧ t.guards = s.guards)

/-- After reset (the values that log entries 3 to 13 name among them): the queue is empty, nothing has left the module, every register reads its
reset value, no port is enabled, no core, engine or ring is at work, no guard is open, no memory lists a byte, and every memory is in its
form. -/
def Obligations.ResetStateIsIdle : Prop :=
  State.reset.pending = [] ∧ State.reset.out = [] ∧ (∀ k, State.reset.reg k = regReset k) ∧ (∀ n, n < 18 → State.reset.pst n = 0) ∧
  State.reset.mcs = [] ∧ State.reset.rvs = [] ∧ State.reset.rooms = [] ∧ State.reset.hbm.cells = [] ∧ State.reset.jsram = [] ∧
  State.reset.guards = [] ∧ State.reset.host.open_ = [] ∧ State.reset.host.kernels = [] ∧ State.reset.parts.saved = [] ∧
  State.reset.memWf = true ∧ State.reset.mtime = 0

/-- A step takes the command at the front of the queue and runs it with the queue's rest; on an empty queue the block idles, which is the
model's choice (log entry 17). -/
def Obligations.StepTakesTheFrontCommand : Prop :=
  (∀ (c : Instr) (l : List Instr) (s : State), s.pending = c :: l → step s = exec c { s with pending := l }) ∧
  (∀ s : State, s.pending = [] → step s = .next s)

/-- Every command has its effect in every state: none is refused and none faults. -/
def Obligations.EveryCommandHasANextState : Prop :=
  ∀ (c : Instr) (s : State), ∃ t, exec c s = .next t

/-- Every step from every state leaves exactly the rest of the queue waiting: no command drops, reorders or adds a command. -/
def Obligations.QueueIsServedInOrder : Prop :=
  ∀ s t : State, step s = .next t → t.pending = s.pending.drop 1

/-- Every step keeps every memory of bytes of the module (stacks, firmware SRAM, scratches, tiles, tables, saved contexts) in its canonical
form: addresses rising, and nothing listed that an unlisted byte reads as. -/
def Obligations.MemoriesKeepTheirForm : Prop :=
  ∀ s t : State, s.memWf = true → step s = .next t → t.memWf = true

/-- R655, R656: a guard that a step opens was opened by a write of its own requester to an UNLOCK register: by no other command, and for nobody
else. -/
def Obligations.GuardsOpenOnlyByUnlock : Prop :=
  ∀ (c : Instr) (s t : State) (rq : Requester) (g : Nat), exec c s = .next t → s.guardOpen rq g = false → t.guardOpen rq g = true →
    (∃ off size v, c = .registerWrite rq off size v) ∨ (∃ off v, c = .unlockWrite rq off v) ∨ ∃ core w, c = .riscvInstruction core w ∧ rq = fwOf (rvKey core)
end

