-- ==== Sys2Proof/Laws/Maps.lean ====
section
/-! SUPPORT. The laws of sparse storage: a read after a write, and the canonical form every write keeps. -/

namespace Sys2Proof.Machine

theorem mfind_mput {α : Type} (m : SMap α) (k j : Nat) (v : α) :
    mfind (mput m k v) j = if j = k then some v else mfind m j := by
  induction m with
  | nil => simp only [mput, mfind]; split <;> split <;> simp_all
  | cons p r ih =>
    obtain ⟨a, w⟩ := p
    simp only [mput]
    split
    · simp only [mfind, ih]; split <;> split <;> first | rfl | omega
    · split
      · simp only [mfind]; split <;> split <;> first | rfl | omega | simp_all
      · simp only [mfind]
        by_cases e : k = j
        · simp [e]
        · have e' : ¬j = k := fun h => e h.symm
          simp only [if_neg e, if_neg e']

theorem mfind_mdel {α : Type} (m : SMap α) (k j : Nat) :
    mfind (mdel m k) j = if j = k then none else mfind m j := by
  induction m with
  | nil => simp [mdel, mfind]
  | cons p r ih =>
    obtain ⟨a, w⟩ := p
    simp only [mdel]
    split
    · rename_i h; subst h; rw [ih]; simp only [mfind]; by_cases e : j = a
      · simp [e]
      · rw [if_neg e, if_neg e, if_neg (fun h => e h.symm)]
    · simp only [mfind, ih]; split <;> split <;> first | rfl | omega

/-- A read after a write: the written key reads the value, every other key reads as before. -/
theorem mgetF_msetF {α : Type} [DecidableEq α] (d : Nat → α) (m : SMap α) (k j : Nat) (v : α) :
    mgetF d (msetF d m k v) j = if j = k then v else mgetF d m j := by
  unfold mgetF msetF
  split
  · rename_i h; rw [mfind_mdel]; split <;> simp_all
  · rw [mfind_mput]; split <;> simp_all

theorem mgetF_mdel {α : Type} (d : Nat → α) (m : SMap α) (k j : Nat) :
    mgetF d (mdel m k) j = if j = k then d k else mgetF d m j := by
  unfold mgetF; rw [mfind_mdel]; split <;> simp_all

theorem mget_mset {α : Type} [DecidableEq α] (d : α) (m : SMap α) (k j : Nat) (v : α) :
    mget d (mset d m k v) j = if j = k then v else mget d m j := mgetF_msetF _ _ _ _ _

@[simp] theorem mget_mset_same {α : Type} [DecidableEq α] (d : α) (m : SMap α) (k : Nat) (v : α) :
    mget d (mset d m k v) k = v := by simp [mget_mset]

theorem mget_mset_ne {α : Type} [DecidableEq α] (d : α) (m : SMap α) (k j : Nat) (v : α) (h : j ≠ k) :
    mget d (mset d m k v) j = mget d m j := by simp [mget_mset, h]

@[simp] theorem mget_nil {α : Type} (d : α) (k : Nat) : mget d [] k = d := rfl

@[simp] theorem mgetF_nil {α : Type} (d : Nat → α) (k : Nat) : mgetF d [] k = d k := rfl

/-! ### Keys that rise -/

theorem risingFrom_weaken {α : Type} (m : SMap α) (a b : Nat) (h : a ≤ b) (hm : risingFrom b m = true) :
    risingFrom a m = true := by
  cases m with
  | nil => rfl
  | cons p r => simp only [risingFrom, Bool.and_eq_true, decide_eq_true_eq] at *; exact ⟨by omega, hm.2⟩

theorem risingFrom_mput {α : Type} (m : SMap α) (lo k : Nat) (v : α) (hk : lo ≤ k) (h : risingFrom lo m = true) :
    risingFrom lo (mput m k v) = true := by
  induction m generalizing lo with
  | nil => simp [mput, risingFrom, hk]
  | cons p r ih =>
    obtain ⟨a, w⟩ := p
    simp only [risingFrom, Bool.and_eq_true, decide_eq_true_eq] at h
    simp only [mput]
    split
    · simp only [risingFrom, Bool.and_eq_true, decide_eq_true_eq]; exact ⟨h.1, ih _ (by omega) h.2⟩
    · split
      · rename_i e; subst e; simp [risingFrom, h.2, hk]
      · simp only [risingFrom, Bool.and_eq_true, decide_eq_true_eq]; exact ⟨hk, by omega, h.2⟩

theorem risingFrom_mdel {α : Type} (m : SMap α) (lo k : Nat) (h : risingFrom lo m = true) :
    risingFrom lo (mdel m k) = true := by
  induction m generalizing lo with
  | nil => rfl
  | cons p r ih =>
    obtain ⟨a, w⟩ := p
    simp only [risingFrom, Bool.and_eq_true, decide_eq_true_eq] at h
    simp only [mdel]
    split
    · exact ih _ (risingFrom_weaken _ _ _ (by omega) h.2)
    · simp only [risingFrom, Bool.and_eq_true, decide_eq_true_eq]; exact ⟨h.1, ih _ h.2⟩

theorem risingFrom_filter {α : Type} (m : SMap α) (p : Nat × α → Bool) (lo : Nat) (h : risingFrom lo m = true) :
    risingFrom lo (m.filter p) = true := by
  induction m generalizing lo with
  | nil => rfl
  | cons e r ih =>
    obtain ⟨a, w⟩ := e
    simp only [risingFrom, Bool.and_eq_true, decide_eq_true_eq] at h
    rw [List.filter_cons]
    split
    · simp only [risingFrom, Bool.and_eq_true, decide_eq_true_eq]; exact ⟨h.1, ih _ h.2⟩
    · exact ih _ (risingFrom_weaken _ _ _ (by omega) h.2)

theorem all_mput {α : Type} (m : SMap α) (k : Nat) (v : α) (q : Nat × α → Bool) (hv : q (k, v) = true)
    (h : m.all q = true) : (mput m k v).all q = true := by
  induction m with
  | nil => simp [mput, hv]
  | cons p r ih =>
    obtain ⟨a, w⟩ := p
    simp only [List.all_cons, Bool.and_eq_true] at h
    simp only [mput]
    split
    · simp only [List.all_cons, Bool.and_eq_true]; exact ⟨h.1, ih h.2⟩
    · split
      · simp only [List.all_cons, Bool.and_eq_true]; exact ⟨hv, h.2⟩
      · simp only [List.all_cons, Bool.and_eq_true]; exact ⟨hv, h.1, h.2⟩

theorem all_mdel {α : Type} (m : SMap α) (k : Nat) (q : Nat × α → Bool) (h : m.all q = true) :
    (mdel m k).all q = true := by
  induction m with
  | nil => rfl
  | cons p r ih =>
    obtain ⟨a, w⟩ := p
    simp only [List.all_cons, Bool.and_eq_true] at h
    simp only [mdel]
    split
    · exact ih h.2
    · simp only [List.all_cons, Bool.and_eq_true]; exact ⟨h.1, ih h.2⟩

/-- A write keeps what holds of every value. -/
theorem all_mset {α : Type} [DecidableEq α] (d : α) (m : SMap α) (k : Nat) (v : α) (q : Nat × α → Bool) (hv : q (k, v) = true)
    (h : m.all q = true) : (mset d m k v).all q = true := by
  unfold mset msetF
  split
  · exact all_mdel _ _ _ h
  · exact all_mput _ _ _ _ hv h

/-- What holds of every value listed, and of the value an unlisted key reads as, holds of what is read. -/
theorem mget_all {α : Type} (d : α) (m : SMap α) (k : Nat) (q : α → Bool) (hd : q d = true) (h : m.all (fun e => q e.2) = true) :
    q (mget d m k) = true := by
  unfold mget mgetF
  induction m with
  | nil => exact hd
  | cons p r ih =>
    obtain ⟨a, w⟩ := p
    simp only [List.all_cons, Bool.and_eq_true] at h
    simp only [mfind]
    split
    · exact h.1
    · exact ih h.2

/-! ### The canonical form -/

theorem canonF_nil {α : Type} [DecidableEq α] (d : Nat → α) : canonF d [] = true := rfl

/-- A write keeps the canonical form. -/
theorem canonF_msetF {α : Type} [DecidableEq α] (d : Nat → α) (m : SMap α) (k : Nat) (v : α) (h : canonF d m = true) :
    canonF d (msetF d m k v) = true := by
  simp only [canonF, Bool.and_eq_true] at h ⊢
  unfold msetF
  split
  · exact ⟨risingFrom_mdel _ _ _ h.1, all_mdel _ _ _ h.2⟩
  · rename_i hv
    exact ⟨risingFrom_mput _ _ _ _ (Nat.zero_le _) h.1, all_mput _ _ _ _ (by simpa using hv) h.2⟩

theorem canonF_mdel {α : Type} [DecidableEq α] (d : Nat → α) (m : SMap α) (k : Nat) (h : canonF d m = true) :
    canonF d (mdel m k) = true := by
  simp only [canonF, Bool.and_eq_true] at h ⊢
  exact ⟨risingFrom_mdel _ _ _ h.1, all_mdel _ _ _ h.2⟩

/-- Dropping entries keeps the canonical form. -/
theorem canonF_filter {α : Type} [DecidableEq α] (d : Nat → α) (m : SMap α) (p : Nat × α → Bool) (h : canonF d m = true) :
    canonF d (m.filter p) = true := by
  simp only [canonF, Bool.and_eq_true] at h ⊢
  refine ⟨risingFrom_filter _ _ _ h.1, ?_⟩
  rw [List.all_eq_true] at *
  exact fun x hx => h.2 x (List.mem_filter.1 hx).1

theorem wf_nil : Memory.wf [] = true := rfl

/-- Writing one byte keeps the canonical form of a memory. -/
theorem wf_mset (m : SMap Byte) (a : Nat) (b : Byte) (h : Memory.wf m = true) : Memory.wf (mset 0 m a b) = true :=
  canonF_msetF _ _ _ _ h

theorem wf_filter (m : SMap Byte) (p : Nat × Byte → Bool) (h : Memory.wf m = true) : Memory.wf (m.filter p) = true :=
  canonF_filter _ _ _ h

/-- Writing a run of bytes keeps the canonical form of a memory. -/
theorem wf_writeBytes (m : SMap Byte) (a : Nat) (bs : List Byte) (h : Memory.wf m = true) :
    Memory.wf (writeBytes m a bs) = true := by
  induction bs generalizing m a with
  | nil => exact h
  | cons b r ih => exact ih _ _ (wf_mset m a b h)

/-- Writing the marked bytes of a run keeps the canonical form of a memory. -/
theorem wf_writeMasked (m : SMap Byte) (a : Nat) (bs : List Byte) (ks : List Bool) (h : Memory.wf m = true) :
    Memory.wf (writeMasked m a bs ks) = true := by
  induction bs generalizing m a ks with
  | nil => simpa [writeMasked] using h
  | cons b r ih =>
    cases ks with
    | nil => simpa [writeMasked] using h
    | cons k ks =>
      simp only [writeMasked]
      apply ih
      split
      · exact wf_mset m a b h
      · exact h

/-- The byte at an address after a run of bytes is written. -/
theorem mget_writeBytes (m : SMap Byte) (a j : Nat) (bs : List Byte) :
    mget 0 (writeBytes m a bs) j = if a ≤ j ∧ j < a + bs.length then bs.getD (j - a) 0 else mget 0 m j := by
  induction bs generalizing m a with
  | nil => simp [writeBytes]
  | cons b r ih =>
    simp only [writeBytes, ih, mget_mset, List.length_cons]
    by_cases h1 : j = a
    · subst h1; simp
    · by_cases h2 : a + 1 ≤ j ∧ j < a + 1 + r.length
      · have e : j - a = (j - (a + 1)) + 1 := by omega
        rw [if_pos h2, if_pos (by omega), e]; simp
      · rw [if_neg h2, if_neg h1, if_neg (by omega)]

/-- A byte outside a written run reads as before. -/
theorem mget_writeBytes_out (m : SMap Byte) (a j : Nat) (bs : List Byte) (h : j < a ∨ a + bs.length ≤ j) :
    mget 0 (writeBytes m a bs) j = mget 0 m j := by
  rw [mget_writeBytes, if_neg (by omega)]

theorem readBytes_length (m : SMap Byte) (a n : Nat) : (readBytes m a n).length = n := by
  induction n generalizing a with
  | zero => rfl
  | succ k ih => simp [readBytes, ih]

/-- Reading back a written run gives the run. -/
theorem readBytes_writeBytes (m : SMap Byte) (a : Nat) (bs : List Byte) :
    readBytes (writeBytes m a bs) a bs.length = bs := by
  apply List.ext_getElem (readBytes_length _ _ _)
  intro i h1 h2
  have key : ∀ (m : SMap Byte) (a n i : Nat) (h : i < (readBytes m a n).length), (readBytes m a n)[i] = mget 0 m (a + i) := by
    intro m a n
    induction n generalizing a with
    | zero => intro i h; simp [readBytes] at h
    | succ k ih =>
      intro i h
      cases i with
      | zero => simp [readBytes]
      | succ i => simp only [readBytes, List.getElem_cons_succ]; rw [ih]; congr 1; omega
  rw [key, mget_writeBytes, if_pos (by omega)]
  simp [h2]

end Sys2Proof.Machine
end

