-- ==== Sys2Proof/Laws/State.lean ====
section
/-! SUPPORT. What each write of a part of the state leaves as it was and what a read after it gives. -/

namespace Sys2Proof.Machine

variable (s : State)

/-! ### Writing a register -/

@[simp] theorem State.setReg_pending (k : Nat) (v : Word) : (s.setReg k v).pending = s.pending := (rfl)
@[simp] theorem State.setReg_freeCtr (k : Nat) (v : Word) : (s.setReg k v).freeCtr = s.freeCtr := (rfl)
@[simp] theorem State.setReg_out (k : Nat) (v : Word) : (s.setReg k v).out = s.out := (rfl)
@[simp] theorem State.setReg_mtime (k : Nat) (v : Word) : (s.setReg k v).mtime = s.mtime := (rfl)
@[simp] theorem State.setReg_regsSlow (k : Nat) (v : Word) : (s.setReg k v).regsSlow = s.regsSlow := (rfl)
@[simp] theorem State.setReg_guards (k : Nat) (v : Word) : (s.setReg k v).guards = s.guards := (rfl)
@[simp] theorem State.setReg_recentW (k : Nat) (v : Word) : (s.setReg k v).recentW = s.recentW := (rfl)
@[simp] theorem State.setReg_jsram (k : Nat) (v : Word) : (s.setReg k v).jsram = s.jsram := (rfl)
@[simp] theorem State.setReg_jsramBad (k : Nat) (v : Word) : (s.setReg k v).jsramBad = s.jsramBad := (rfl)
@[simp] theorem State.setReg_mcs (k : Nat) (v : Word) : (s.setReg k v).mcs = s.mcs := (rfl)
@[simp] theorem State.setReg_rvs (k : Nat) (v : Word) : (s.setReg k v).rvs = s.rvs := (rfl)
@[simp] theorem State.setReg_rooms (k : Nat) (v : Word) : (s.setReg k v).rooms = s.rooms := (rfl)
@[simp] theorem State.setReg_hbm (k : Nat) (v : Word) : (s.setReg k v).hbm = s.hbm := (rfl)
@[simp] theorem State.setReg_mmu (k : Nat) (v : Word) : (s.setReg k v).mmu = s.mmu := (rfl)
@[simp] theorem State.setReg_dma (k : Nat) (v : Word) : (s.setReg k v).dma = s.dma := (rfl)
@[simp] theorem State.setReg_sync (k : Nat) (v : Word) : (s.setReg k v).sync = s.sync := (rfl)
@[simp] theorem State.setReg_mesh (k : Nat) (v : Word) : (s.setReg k v).mesh = s.mesh := (rfl)
@[simp] theorem State.setReg_ports (k : Nat) (v : Word) : (s.setReg k v).ports = s.ports := (rfl)
@[simp] theorem State.setReg_fabric (k : Nat) (v : Word) : (s.setReg k v).fabric = s.fabric := (rfl)
@[simp] theorem State.setReg_reds (k : Nat) (v : Word) : (s.setReg k v).reds = s.reds := (rfl)
@[simp] theorem State.setReg_cellar (k : Nat) (v : Word) : (s.setReg k v).cellar = s.cellar := (rfl)
@[simp] theorem State.setReg_host (k : Nat) (v : Word) : (s.setReg k v).host = s.host := (rfl)
@[simp] theorem State.setReg_parts (k : Nat) (v : Word) : (s.setReg k v).parts = s.parts := (rfl)
@[simp] theorem State.setReg_service (k : Nat) (v : Word) : (s.setReg k v).service = s.service := (rfl)
@[simp] theorem State.setReg_irq (k : Nat) (v : Word) : (s.setReg k v).irq = s.irq := (rfl)
@[simp] theorem State.setReg_power (k : Nat) (v : Word) : (s.setReg k v).power = s.power := (rfl)
@[simp] theorem State.setReg_recovery (k : Nat) (v : Word) : (s.setReg k v).recovery = s.recovery := (rfl)
@[simp] theorem State.setReg_mgmt (k : Nat) (v : Word) : (s.setReg k v).mgmt = s.mgmt := (rfl)
@[simp] theorem State.setReg_slowReg (k : Nat) (v : Word) (j : Nat) : (s.setReg k v).slowReg j = s.slowReg j := (rfl)
@[simp] theorem State.setReg_mc (k : Nat) (v : Word) (j : Nat) : (s.setReg k v).mc j = s.mc j := (rfl)
@[simp] theorem State.setReg_rv (k : Nat) (v : Word) (j : Nat) : (s.setReg k v).rv j = s.rv j := (rfl)
@[simp] theorem State.setReg_room (k : Nat) (v : Word) (j : Nat) : (s.setReg k v).room j = s.room j := (rfl)
@[simp] theorem State.setReg_dmaOf (k : Nat) (v : Word) (j : Nat) : (s.setReg k v).dmaOf j = s.dmaOf j := (rfl)
@[simp] theorem State.setReg_syncOf (k : Nat) (v : Word) (j : Nat) : (s.setReg k v).syncOf j = s.syncOf j := (rfl)
@[simp] theorem State.setReg_port (k : Nat) (v : Word) (j : Nat) : (s.setReg k v).port j = s.port j := (rfl)
@[simp] theorem State.setReg_ce (k : Nat) (v : Word) (j : Nat) : (s.setReg k v).ce j = s.ce j := (rfl)
@[simp] theorem State.setReg_evts (k : Nat) (v : Word) (j : Nat) : (s.setReg k v).evts j = s.evts j := (rfl)
@[simp] theorem State.setReg_cellPart (k : Nat) (v : Word) (j : Nat) : (s.setReg k v).cellPart j = s.cellPart j := (rfl)
@[simp] theorem State.setReg_granPart (k : Nat) (v : Word) (j : Nat) : (s.setReg k v).granPart j = s.granPart j := (rfl)
@[simp] theorem State.setReg_ringPart (k : Nat) (v : Word) (j : Nat) : (s.setReg k v).ringPart j = s.ringPart j := (rfl)
@[simp] theorem State.setReg_dmaQ (k : Nat) (v : Word) (j q : Nat) : (s.setReg k v).dmaQ j q = s.dmaQ j q := (rfl)
@[simp] theorem State.setReg_cellDown (k : Nat) (v : Word) (j : Nat) : (s.setReg k v).cellDown j = s.cellDown j := (rfl)
@[simp] theorem State.setReg_dieDown (k : Nat) (v : Word) (j : Nat) : (s.setReg k v).dieDown j = s.dieDown j := (rfl)

/-! ### Writing a register's reset -/

@[simp] theorem State.resetReg_pending (k : Nat) : (s.resetReg k).pending = s.pending := (rfl)
@[simp] theorem State.resetReg_freeCtr (k : Nat) : (s.resetReg k).freeCtr = s.freeCtr := (rfl)
@[simp] theorem State.resetReg_out (k : Nat) : (s.resetReg k).out = s.out := (rfl)
@[simp] theorem State.resetReg_mtime (k : Nat) : (s.resetReg k).mtime = s.mtime := (rfl)
@[simp] theorem State.resetReg_regsSlow (k : Nat) : (s.resetReg k).regsSlow = s.regsSlow := (rfl)
@[simp] theorem State.resetReg_guards (k : Nat) : (s.resetReg k).guards = s.guards := (rfl)
@[simp] theorem State.resetReg_recentW (k : Nat) : (s.resetReg k).recentW = s.recentW := (rfl)
@[simp] theorem State.resetReg_jsram (k : Nat) : (s.resetReg k).jsram = s.jsram := (rfl)
@[simp] theorem State.resetReg_jsramBad (k : Nat) : (s.resetReg k).jsramBad = s.jsramBad := (rfl)
@[simp] theorem State.resetReg_mcs (k : Nat) : (s.resetReg k).mcs = s.mcs := (rfl)
@[simp] theorem State.resetReg_rvs (k : Nat) : (s.resetReg k).rvs = s.rvs := (rfl)
@[simp] theorem State.resetReg_rooms (k : Nat) : (s.resetReg k).rooms = s.rooms := (rfl)
@[simp] theorem State.resetReg_hbm (k : Nat) : (s.resetReg k).hbm = s.hbm := (rfl)
@[simp] theorem State.resetReg_mmu (k : Nat) : (s.resetReg k).mmu = s.mmu := (rfl)
@[simp] theorem State.resetReg_dma (k : Nat) : (s.resetReg k).dma = s.dma := (rfl)
@[simp] theorem State.resetReg_sync (k : Nat) : (s.resetReg k).sync = s.sync := (rfl)
@[simp] theorem State.resetReg_mesh (k : Nat) : (s.resetReg k).mesh = s.mesh := (rfl)
@[simp] theorem State.resetReg_ports (k : Nat) : (s.resetReg k).ports = s.ports := (rfl)
@[simp] theorem State.resetReg_fabric (k : Nat) : (s.resetReg k).fabric = s.fabric := (rfl)
@[simp] theorem State.resetReg_reds (k : Nat) : (s.resetReg k).reds = s.reds := (rfl)
@[simp] theorem State.resetReg_cellar (k : Nat) : (s.resetReg k).cellar = s.cellar := (rfl)
@[simp] theorem State.resetReg_host (k : Nat) : (s.resetReg k).host = s.host := (rfl)
@[simp] theorem State.resetReg_parts (k : Nat) : (s.resetReg k).parts = s.parts := (rfl)
@[simp] theorem State.resetReg_service (k : Nat) : (s.resetReg k).service = s.service := (rfl)
@[simp] theorem State.resetReg_irq (k : Nat) : (s.resetReg k).irq = s.irq := (rfl)
@[simp] theorem State.resetReg_power (k : Nat) : (s.resetReg k).power = s.power := (rfl)
@[simp] theorem State.resetReg_recovery (k : Nat) : (s.resetReg k).recovery = s.recovery := (rfl)
@[simp] theorem State.resetReg_mgmt (k : Nat) : (s.resetReg k).mgmt = s.mgmt := (rfl)
@[simp] theorem State.resetReg_slowReg (k : Nat) (j : Nat) : (s.resetReg k).slowReg j = s.slowReg j := (rfl)
@[simp] theorem State.resetReg_mc (k : Nat) (j : Nat) : (s.resetReg k).mc j = s.mc j := (rfl)
@[simp] theorem State.resetReg_rv (k : Nat) (j : Nat) : (s.resetReg k).rv j = s.rv j := (rfl)
@[simp] theorem State.resetReg_room (k : Nat) (j : Nat) : (s.resetReg k).room j = s.room j := (rfl)
@[simp] theorem State.resetReg_dmaOf (k : Nat) (j : Nat) : (s.resetReg k).dmaOf j = s.dmaOf j := (rfl)
@[simp] theorem State.resetReg_syncOf (k : Nat) (j : Nat) : (s.resetReg k).syncOf j = s.syncOf j := (rfl)
@[simp] theorem State.resetReg_port (k : Nat) (j : Nat) : (s.resetReg k).port j = s.port j := (rfl)
@[simp] theorem State.resetReg_ce (k : Nat) (j : Nat) : (s.resetReg k).ce j = s.ce j := (rfl)
@[simp] theorem State.resetReg_evts (k : Nat) (j : Nat) : (s.resetReg k).evts j = s.evts j := (rfl)
@[simp] theorem State.resetReg_cellPart (k : Nat) (j : Nat) : (s.resetReg k).cellPart j = s.cellPart j := (rfl)
@[simp] theorem State.resetReg_granPart (k : Nat) (j : Nat) : (s.resetReg k).granPart j = s.granPart j := (rfl)
@[simp] theorem State.resetReg_ringPart (k : Nat) (j : Nat) : (s.resetReg k).ringPart j = s.ringPart j := (rfl)
@[simp] theorem State.resetReg_dmaQ (k : Nat) (j q : Nat) : (s.resetReg k).dmaQ j q = s.dmaQ j q := (rfl)
@[simp] theorem State.resetReg_cellDown (k : Nat) (j : Nat) : (s.resetReg k).cellDown j = s.cellDown j := (rfl)
@[simp] theorem State.resetReg_dieDown (k : Nat) (j : Nat) : (s.resetReg k).dieDown j = s.dieDown j := (rfl)

/-! ### Writing the reset of registers -/

@[simp] theorem State.resetRegs_pending (p : Nat → Bool) : (s.resetRegs p).pending = s.pending := (rfl)
@[simp] theorem State.resetRegs_freeCtr (p : Nat → Bool) : (s.resetRegs p).freeCtr = s.freeCtr := (rfl)
@[simp] theorem State.resetRegs_out (p : Nat → Bool) : (s.resetRegs p).out = s.out := (rfl)
@[simp] theorem State.resetRegs_mtime (p : Nat → Bool) : (s.resetRegs p).mtime = s.mtime := (rfl)
@[simp] theorem State.resetRegs_regsSlow (p : Nat → Bool) : (s.resetRegs p).regsSlow = s.regsSlow := (rfl)
@[simp] theorem State.resetRegs_guards (p : Nat → Bool) : (s.resetRegs p).guards = s.guards := (rfl)
@[simp] theorem State.resetRegs_recentW (p : Nat → Bool) : (s.resetRegs p).recentW = s.recentW := (rfl)
@[simp] theorem State.resetRegs_jsram (p : Nat → Bool) : (s.resetRegs p).jsram = s.jsram := (rfl)
@[simp] theorem State.resetRegs_jsramBad (p : Nat → Bool) : (s.resetRegs p).jsramBad = s.jsramBad := (rfl)
@[simp] theorem State.resetRegs_mcs (p : Nat → Bool) : (s.resetRegs p).mcs = s.mcs := (rfl)
@[simp] theorem State.resetRegs_rvs (p : Nat → Bool) : (s.resetRegs p).rvs = s.rvs := (rfl)
@[simp] theorem State.resetRegs_rooms (p : Nat → Bool) : (s.resetRegs p).rooms = s.rooms := (rfl)
@[simp] theorem State.resetRegs_hbm (p : Nat → Bool) : (s.resetRegs p).hbm = s.hbm := (rfl)
@[simp] theorem State.resetRegs_mmu (p : Nat → Bool) : (s.resetRegs p).mmu = s.mmu := (rfl)
@[simp] theorem State.resetRegs_dma (p : Nat → Bool) : (s.resetRegs p).dma = s.dma := (rfl)
@[simp] theorem State.resetRegs_sync (p : Nat → Bool) : (s.resetRegs p).sync = s.sync := (rfl)
@[simp] theorem State.resetRegs_mesh (p : Nat → Bool) : (s.resetRegs p).mesh = s.mesh := (rfl)
@[simp] theorem State.resetRegs_ports (p : Nat → Bool) : (s.resetRegs p).ports = s.ports := (rfl)
@[simp] theorem State.resetRegs_fabric (p : Nat → Bool) : (s.resetRegs p).fabric = s.fabric := (rfl)
@[simp] theorem State.resetRegs_reds (p : Nat → Bool) : (s.resetRegs p).reds = s.reds := (rfl)
@[simp] theorem State.resetRegs_cellar (p : Nat → Bool) : (s.resetRegs p).cellar = s.cellar := (rfl)
@[simp] theorem State.resetRegs_host (p : Nat → Bool) : (s.resetRegs p).host = s.host := (rfl)
@[simp] theorem State.resetRegs_parts (p : Nat → Bool) : (s.resetRegs p).parts = s.parts := (rfl)
@[simp] theorem State.resetRegs_service (p : Nat → Bool) : (s.resetRegs p).service = s.service := (rfl)
@[simp] theorem State.resetRegs_irq (p : Nat → Bool) : (s.resetRegs p).irq = s.irq := (rfl)
@[simp] theorem State.resetRegs_power (p : Nat → Bool) : (s.resetRegs p).power = s.power := (rfl)
@[simp] theorem State.resetRegs_recovery (p : Nat → Bool) : (s.resetRegs p).recovery = s.recovery := (rfl)
@[simp] theorem State.resetRegs_mgmt (p : Nat → Bool) : (s.resetRegs p).mgmt = s.mgmt := (rfl)
@[simp] theorem State.resetRegs_slowReg (p : Nat → Bool) (j : Nat) : (s.resetRegs p).slowReg j = s.slowReg j := (rfl)
@[simp] theorem State.resetRegs_mc (p : Nat → Bool) (j : Nat) : (s.resetRegs p).mc j = s.mc j := (rfl)
@[simp] theorem State.resetRegs_rv (p : Nat → Bool) (j : Nat) : (s.resetRegs p).rv j = s.rv j := (rfl)
@[simp] theorem State.resetRegs_room (p : Nat → Bool) (j : Nat) : (s.resetRegs p).room j = s.room j := (rfl)
@[simp] theorem State.resetRegs_dmaOf (p : Nat → Bool) (j : Nat) : (s.resetRegs p).dmaOf j = s.dmaOf j := (rfl)
@[simp] theorem State.resetRegs_syncOf (p : Nat → Bool) (j : Nat) : (s.resetRegs p).syncOf j = s.syncOf j := (rfl)
@[simp] theorem State.resetRegs_port (p : Nat → Bool) (j : Nat) : (s.resetRegs p).port j = s.port j := (rfl)
@[simp] theorem State.resetRegs_ce (p : Nat → Bool) (j : Nat) : (s.resetRegs p).ce j = s.ce j := (rfl)
@[simp] theorem State.resetRegs_evts (p : Nat → Bool) (j : Nat) : (s.resetRegs p).evts j = s.evts j := (rfl)
@[simp] theorem State.resetRegs_cellPart (p : Nat → Bool) (j : Nat) : (s.resetRegs p).cellPart j = s.cellPart j := (rfl)
@[simp] theorem State.resetRegs_granPart (p : Nat → Bool) (j : Nat) : (s.resetRegs p).granPart j = s.granPart j := (rfl)
@[simp] theorem State.resetRegs_ringPart (p : Nat → Bool) (j : Nat) : (s.resetRegs p).ringPart j = s.ringPart j := (rfl)
@[simp] theorem State.resetRegs_dmaQ (p : Nat → Bool) (j q : Nat) : (s.resetRegs p).dmaQ j q = s.dmaQ j q := (rfl)
@[simp] theorem State.resetRegs_cellDown (p : Nat → Bool) (j : Nat) : (s.resetRegs p).cellDown j = s.cellDown j := (rfl)
@[simp] theorem State.resetRegs_dieDown (p : Nat → Bool) (j : Nat) : (s.resetRegs p).dieDown j = s.dieDown j := (rfl)

/-! ### Writing a matrix core -/

@[simp] theorem State.setMc_pending (n : Nat) (m : McState) : (s.setMc n m).pending = s.pending := (rfl)
@[simp] theorem State.setMc_freeCtr (n : Nat) (m : McState) : (s.setMc n m).freeCtr = s.freeCtr := (rfl)
@[simp] theorem State.setMc_out (n : Nat) (m : McState) : (s.setMc n m).out = s.out := (rfl)
@[simp] theorem State.setMc_mtime (n : Nat) (m : McState) : (s.setMc n m).mtime = s.mtime := (rfl)
@[simp] theorem State.setMc_regs (n : Nat) (m : McState) : (s.setMc n m).regs = s.regs := (rfl)
@[simp] theorem State.setMc_regsSlow (n : Nat) (m : McState) : (s.setMc n m).regsSlow = s.regsSlow := (rfl)
@[simp] theorem State.setMc_guards (n : Nat) (m : McState) : (s.setMc n m).guards = s.guards := (rfl)
@[simp] theorem State.setMc_recentW (n : Nat) (m : McState) : (s.setMc n m).recentW = s.recentW := (rfl)
@[simp] theorem State.setMc_jsram (n : Nat) (m : McState) : (s.setMc n m).jsram = s.jsram := (rfl)
@[simp] theorem State.setMc_jsramBad (n : Nat) (m : McState) : (s.setMc n m).jsramBad = s.jsramBad := (rfl)
@[simp] theorem State.setMc_rvs (n : Nat) (m : McState) : (s.setMc n m).rvs = s.rvs := (rfl)
@[simp] theorem State.setMc_rooms (n : Nat) (m : McState) : (s.setMc n m).rooms = s.rooms := (rfl)
@[simp] theorem State.setMc_hbm (n : Nat) (m : McState) : (s.setMc n m).hbm = s.hbm := (rfl)
@[simp] theorem State.setMc_mmu (n : Nat) (m : McState) : (s.setMc n m).mmu = s.mmu := (rfl)
@[simp] theorem State.setMc_dma (n : Nat) (m : McState) : (s.setMc n m).dma = s.dma := (rfl)
@[simp] theorem State.setMc_sync (n : Nat) (m : McState) : (s.setMc n m).sync = s.sync := (rfl)
@[simp] theorem State.setMc_mesh (n : Nat) (m : McState) : (s.setMc n m).mesh = s.mesh := (rfl)
@[simp] theorem State.setMc_ports (n : Nat) (m : McState) : (s.setMc n m).ports = s.ports := (rfl)
@[simp] theorem State.setMc_fabric (n : Nat) (m : McState) : (s.setMc n m).fabric = s.fabric := (rfl)
@[simp] theorem State.setMc_reds (n : Nat) (m : McState) : (s.setMc n m).reds = s.reds := (rfl)
@[simp] theorem State.setMc_cellar (n : Nat) (m : McState) : (s.setMc n m).cellar = s.cellar := (rfl)
@[simp] theorem State.setMc_host (n : Nat) (m : McState) : (s.setMc n m).host = s.host := (rfl)
@[simp] theorem State.setMc_parts (n : Nat) (m : McState) : (s.setMc n m).parts = s.parts := (rfl)
@[simp] theorem State.setMc_service (n : Nat) (m : McState) : (s.setMc n m).service = s.service := (rfl)
@[simp] theorem State.setMc_irq (n : Nat) (m : McState) : (s.setMc n m).irq = s.irq := (rfl)
@[simp] theorem State.setMc_power (n : Nat) (m : McState) : (s.setMc n m).power = s.power := (rfl)
@[simp] theorem State.setMc_recovery (n : Nat) (m : McState) : (s.setMc n m).recovery = s.recovery := (rfl)
@[simp] theorem State.setMc_mgmt (n : Nat) (m : McState) : (s.setMc n m).mgmt = s.mgmt := (rfl)
@[simp] theorem State.setMc_reg (n : Nat) (m : McState) (j : Nat) : (s.setMc n m).reg j = s.reg j := (rfl)
@[simp] theorem State.setMc_slowReg (n : Nat) (m : McState) (j : Nat) : (s.setMc n m).slowReg j = s.slowReg j := (rfl)
@[simp] theorem State.setMc_rv (n : Nat) (m : McState) (j : Nat) : (s.setMc n m).rv j = s.rv j := (rfl)
@[simp] theorem State.setMc_room (n : Nat) (m : McState) (j : Nat) : (s.setMc n m).room j = s.room j := (rfl)
@[simp] theorem State.setMc_dmaOf (n : Nat) (m : McState) (j : Nat) : (s.setMc n m).dmaOf j = s.dmaOf j := (rfl)
@[simp] theorem State.setMc_syncOf (n : Nat) (m : McState) (j : Nat) : (s.setMc n m).syncOf j = s.syncOf j := (rfl)
@[simp] theorem State.setMc_port (n : Nat) (m : McState) (j : Nat) : (s.setMc n m).port j = s.port j := (rfl)
@[simp] theorem State.setMc_ce (n : Nat) (m : McState) (j : Nat) : (s.setMc n m).ce j = s.ce j := (rfl)
@[simp] theorem State.setMc_evts (n : Nat) (m : McState) (j : Nat) : (s.setMc n m).evts j = s.evts j := (rfl)
@[simp] theorem State.setMc_cellPart (n : Nat) (m : McState) (j : Nat) : (s.setMc n m).cellPart j = s.cellPart j := (rfl)
@[simp] theorem State.setMc_granPart (n : Nat) (m : McState) (j : Nat) : (s.setMc n m).granPart j = s.granPart j := (rfl)
@[simp] theorem State.setMc_ringPart (n : Nat) (m : McState) (j : Nat) : (s.setMc n m).ringPart j = s.ringPart j := (rfl)
@[simp] theorem State.setMc_getF (n : Nat) (m : McState) (f : RF) : (s.setMc n m).getF f = s.getF f := (rfl)
@[simp] theorem State.setMc_getB (n : Nat) (m : McState) (f : RF) : (s.setMc n m).getB f = s.getB f := (rfl)
@[simp] theorem State.setMc_dmaQ (n : Nat) (m : McState) (j q : Nat) : (s.setMc n m).dmaQ j q = s.dmaQ j q := (rfl)
@[simp] theorem State.setMc_cellDown (n : Nat) (m : McState) (j : Nat) : (s.setMc n m).cellDown j = s.cellDown j := (rfl)
@[simp] theorem State.setMc_dieDown (n : Nat) (m : McState) (j : Nat) : (s.setMc n m).dieDown j = s.dieDown j := (rfl)

/-! ### Writing a RISC-V core -/

@[simp] theorem State.setRv_pending (n : Nat) (r : RvState) : (s.setRv n r).pending = s.pending := (rfl)
@[simp] theorem State.setRv_freeCtr (n : Nat) (r : RvState) : (s.setRv n r).freeCtr = s.freeCtr := (rfl)
@[simp] theorem State.setRv_out (n : Nat) (r : RvState) : (s.setRv n r).out = s.out := (rfl)
@[simp] theorem State.setRv_mtime (n : Nat) (r : RvState) : (s.setRv n r).mtime = s.mtime := (rfl)
@[simp] theorem State.setRv_regs (n : Nat) (r : RvState) : (s.setRv n r).regs = s.regs := (rfl)
@[simp] theorem State.setRv_regsSlow (n : Nat) (r : RvState) : (s.setRv n r).regsSlow = s.regsSlow := (rfl)
@[simp] theorem State.setRv_guards (n : Nat) (r : RvState) : (s.setRv n r).guards = s.guards := (rfl)
@[simp] theorem State.setRv_recentW (n : Nat) (r : RvState) : (s.setRv n r).recentW = s.recentW := (rfl)
@[simp] theorem State.setRv_jsram (n : Nat) (r : RvState) : (s.setRv n r).jsram = s.jsram := (rfl)
@[simp] theorem State.setRv_jsramBad (n : Nat) (r : RvState) : (s.setRv n r).jsramBad = s.jsramBad := (rfl)
@[simp] theorem State.setRv_mcs (n : Nat) (r : RvState) : (s.setRv n r).mcs = s.mcs := (rfl)
@[simp] theorem State.setRv_rooms (n : Nat) (r : RvState) : (s.setRv n r).rooms = s.rooms := (rfl)
@[simp] theorem State.setRv_hbm (n : Nat) (r : RvState) : (s.setRv n r).hbm = s.hbm := (rfl)
@[simp] theorem State.setRv_mmu (n : Nat) (r : RvState) : (s.setRv n r).mmu = s.mmu := (rfl)
@[simp] theorem State.setRv_dma (n : Nat) (r : RvState) : (s.setRv n r).dma = s.dma := (rfl)
@[simp] theorem State.setRv_sync (n : Nat) (r : RvState) : (s.setRv n r).sync = s.sync := (rfl)
@[simp] theorem State.setRv_mesh (n : Nat) (r : RvState) : (s.setRv n r).mesh = s.mesh := (rfl)
@[simp] theorem State.setRv_ports (n : Nat) (r : RvState) : (s.setRv n r).ports = s.ports := (rfl)
@[simp] theorem State.setRv_fabric (n : Nat) (r : RvState) : (s.setRv n r).fabric = s.fabric := (rfl)
@[simp] theorem State.setRv_reds (n : Nat) (r : RvState) : (s.setRv n r).reds = s.reds := (rfl)
@[simp] theorem State.setRv_cellar (n : Nat) (r : RvState) : (s.setRv n r).cellar = s.cellar := (rfl)
@[simp] theorem State.setRv_host (n : Nat) (r : RvState) : (s.setRv n r).host = s.host := (rfl)
@[simp] theorem State.setRv_parts (n : Nat) (r : RvState) : (s.setRv n r).parts = s.parts := (rfl)
@[simp] theorem State.setRv_service (n : Nat) (r : RvState) : (s.setRv n r).service = s.service := (rfl)
@[simp] theorem State.setRv_irq (n : Nat) (r : RvState) : (s.setRv n r).irq = s.irq := (rfl)
@[simp] theorem State.setRv_power (n : Nat) (r : RvState) : (s.setRv n r).power = s.power := (rfl)
@[simp] theorem State.setRv_recovery (n : Nat) (r : RvState) : (s.setRv n r).recovery = s.recovery := (rfl)
@[simp] theorem State.setRv_mgmt (n : Nat) (r : RvState) : (s.setRv n r).mgmt = s.mgmt := (rfl)
@[simp] theorem State.setRv_reg (n : Nat) (r : RvState) (j : Nat) : (s.setRv n r).reg j = s.reg j := (rfl)
@[simp] theorem State.setRv_slowReg (n : Nat) (r : RvState) (j : Nat) : (s.setRv n r).slowReg j = s.slowReg j := (rfl)
@[simp] theorem State.setRv_mc (n : Nat) (r : RvState) (j : Nat) : (s.setRv n r).mc j = s.mc j := (rfl)
@[simp] theorem State.setRv_room (n : Nat) (r : RvState) (j : Nat) : (s.setRv n r).room j = s.room j := (rfl)
@[simp] theorem State.setRv_dmaOf (n : Nat) (r : RvState) (j : Nat) : (s.setRv n r).dmaOf j = s.dmaOf j := (rfl)
@[simp] theorem State.setRv_syncOf (n : Nat) (r : RvState) (j : Nat) : (s.setRv n r).syncOf j = s.syncOf j := (rfl)
@[simp] theorem State.setRv_port (n : Nat) (r : RvState) (j : Nat) : (s.setRv n r).port j = s.port j := (rfl)
@[simp] theorem State.setRv_ce (n : Nat) (r : RvState) (j : Nat) : (s.setRv n r).ce j = s.ce j := (rfl)
@[simp] theorem State.setRv_evts (n : Nat) (r : RvState) (j : Nat) : (s.setRv n r).evts j = s.evts j := (rfl)
@[simp] theorem State.setRv_cellPart (n : Nat) (r : RvState) (j : Nat) : (s.setRv n r).cellPart j = s.cellPart j := (rfl)
@[simp] theorem State.setRv_granPart (n : Nat) (r : RvState) (j : Nat) : (s.setRv n r).granPart j = s.granPart j := (rfl)
@[simp] theorem State.setRv_ringPart (n : Nat) (r : RvState) (j : Nat) : (s.setRv n r).ringPart j = s.ringPart j := (rfl)
@[simp] theorem State.setRv_getF (n : Nat) (r : RvState) (f : RF) : (s.setRv n r).getF f = s.getF f := (rfl)
@[simp] theorem State.setRv_getB (n : Nat) (r : RvState) (f : RF) : (s.setRv n r).getB f = s.getB f := (rfl)
@[simp] theorem State.setRv_dmaQ (n : Nat) (r : RvState) (j q : Nat) : (s.setRv n r).dmaQ j q = s.dmaQ j q := (rfl)
@[simp] theorem State.setRv_cellDown (n : Nat) (r : RvState) (j : Nat) : (s.setRv n r).cellDown j = s.cellDown j := (rfl)
@[simp] theorem State.setRv_dieDown (n : Nat) (r : RvState) (j : Nat) : (s.setRv n r).dieDown j = s.dieDown j := (rfl)

/-! ### Writing a store room -/

@[simp] theorem State.setRoom_pending (c : Nat) (r : RoomState) : (s.setRoom c r).pending = s.pending := (rfl)
@[simp] theorem State.setRoom_freeCtr (c : Nat) (r : RoomState) : (s.setRoom c r).freeCtr = s.freeCtr := (rfl)
@[simp] theorem State.setRoom_out (c : Nat) (r : RoomState) : (s.setRoom c r).out = s.out := (rfl)
@[simp] theorem State.setRoom_mtime (c : Nat) (r : RoomState) : (s.setRoom c r).mtime = s.mtime := (rfl)
@[simp] theorem State.setRoom_regs (c : Nat) (r : RoomState) : (s.setRoom c r).regs = s.regs := (rfl)
@[simp] theorem State.setRoom_regsSlow (c : Nat) (r : RoomState) : (s.setRoom c r).regsSlow = s.regsSlow := (rfl)
@[simp] theorem State.setRoom_guards (c : Nat) (r : RoomState) : (s.setRoom c r).guards = s.guards := (rfl)
@[simp] theorem State.setRoom_recentW (c : Nat) (r : RoomState) : (s.setRoom c r).recentW = s.recentW := (rfl)
@[simp] theorem State.setRoom_jsram (c : Nat) (r : RoomState) : (s.setRoom c r).jsram = s.jsram := (rfl)
@[simp] theorem State.setRoom_jsramBad (c : Nat) (r : RoomState) : (s.setRoom c r).jsramBad = s.jsramBad := (rfl)
@[simp] theorem State.setRoom_mcs (c : Nat) (r : RoomState) : (s.setRoom c r).mcs = s.mcs := (rfl)
@[simp] theorem State.setRoom_rvs (c : Nat) (r : RoomState) : (s.setRoom c r).rvs = s.rvs := (rfl)
@[simp] theorem State.setRoom_hbm (c : Nat) (r : RoomState) : (s.setRoom c r).hbm = s.hbm := (rfl)
@[simp] theorem State.setRoom_mmu (c : Nat) (r : RoomState) : (s.setRoom c r).mmu = s.mmu := (rfl)
@[simp] theorem State.setRoom_dma (c : Nat) (r : RoomState) : (s.setRoom c r).dma = s.dma := (rfl)
@[simp] theorem State.setRoom_sync (c : Nat) (r : RoomState) : (s.setRoom c r).sync = s.sync := (rfl)
@[simp] theorem State.setRoom_mesh (c : Nat) (r : RoomState) : (s.setRoom c r).mesh = s.mesh := (rfl)
@[simp] theorem State.setRoom_ports (c : Nat) (r : RoomState) : (s.setRoom c r).ports = s.ports := (rfl)
@[simp] theorem State.setRoom_fabric (c : Nat) (r : RoomState) : (s.setRoom c r).fabric = s.fabric := (rfl)
@[simp] theorem State.setRoom_reds (c : Nat) (r : RoomState) : (s.setRoom c r).reds = s.reds := (rfl)
@[simp] theorem State.setRoom_cellar (c : Nat) (r : RoomState) : (s.setRoom c r).cellar = s.cellar := (rfl)
@[simp] theorem State.setRoom_host (c : Nat) (r : RoomState) : (s.setRoom c r).host = s.host := (rfl)
@[simp] theorem State.setRoom_parts (c : Nat) (r : RoomState) : (s.setRoom c r).parts = s.parts := (rfl)
@[simp] theorem State.setRoom_service (c : Nat) (r : RoomState) : (s.setRoom c r).service = s.service := (rfl)
@[simp] theorem State.setRoom_irq (c : Nat) (r : RoomState) : (s.setRoom c r).irq = s.irq := (rfl)
@[simp] theorem State.setRoom_power (c : Nat) (r : RoomState) : (s.setRoom c r).power = s.power := (rfl)
@[simp] theorem State.setRoom_recovery (c : Nat) (r : RoomState) : (s.setRoom c r).recovery = s.recovery := (rfl)
@[simp] theorem State.setRoom_mgmt (c : Nat) (r : RoomState) : (s.setRoom c r).mgmt = s.mgmt := (rfl)
@[simp] theorem State.setRoom_reg (c : Nat) (r : RoomState) (j : Nat) : (s.setRoom c r).reg j = s.reg j := (rfl)
@[simp] theorem State.setRoom_slowReg (c : Nat) (r : RoomState) (j : Nat) : (s.setRoom c r).slowReg j = s.slowReg j := (rfl)
@[simp] theorem State.setRoom_mc (c : Nat) (r : RoomState) (j : Nat) : (s.setRoom c r).mc j = s.mc j := (rfl)
@[simp] theorem State.setRoom_rv (c : Nat) (r : RoomState) (j : Nat) : (s.setRoom c r).rv j = s.rv j := (rfl)
@[simp] theorem State.setRoom_dmaOf (c : Nat) (r : RoomState) (j : Nat) : (s.setRoom c r).dmaOf j = s.dmaOf j := (rfl)
@[simp] theorem State.setRoom_syncOf (c : Nat) (r : RoomState) (j : Nat) : (s.setRoom c r).syncOf j = s.syncOf j := (rfl)
@[simp] theorem State.setRoom_port (c : Nat) (r : RoomState) (j : Nat) : (s.setRoom c r).port j = s.port j := (rfl)
@[simp] theorem State.setRoom_ce (c : Nat) (r : RoomState) (j : Nat) : (s.setRoom c r).ce j = s.ce j := (rfl)
@[simp] theorem State.setRoom_evts (c : Nat) (r : RoomState) (j : Nat) : (s.setRoom c r).evts j = s.evts j := (rfl)
@[simp] theorem State.setRoom_cellPart (c : Nat) (r : RoomState) (j : Nat) : (s.setRoom c r).cellPart j = s.cellPart j := (rfl)
@[simp] theorem State.setRoom_granPart (c : Nat) (r : RoomState) (j : Nat) : (s.setRoom c r).granPart j = s.granPart j := (rfl)
@[simp] theorem State.setRoom_ringPart (c : Nat) (r : RoomState) (j : Nat) : (s.setRoom c r).ringPart j = s.ringPart j := (rfl)
@[simp] theorem State.setRoom_getF (c : Nat) (r : RoomState) (f : RF) : (s.setRoom c r).getF f = s.getF f := (rfl)
@[simp] theorem State.setRoom_getB (c : Nat) (r : RoomState) (f : RF) : (s.setRoom c r).getB f = s.getB f := (rfl)
@[simp] theorem State.setRoom_dmaQ (c : Nat) (r : RoomState) (j q : Nat) : (s.setRoom c r).dmaQ j q = s.dmaQ j q := (rfl)
@[simp] theorem State.setRoom_cellDown (c : Nat) (r : RoomState) (j : Nat) : (s.setRoom c r).cellDown j = s.cellDown j := (rfl)
@[simp] theorem State.setRoom_dieDown (c : Nat) (r : RoomState) (j : Nat) : (s.setRoom c r).dieDown j = s.dieDown j := (rfl)

/-! ### Writing a DMA engine -/

@[simp] theorem State.setDma_pending (c : Nat) (d : DmaState) : (s.setDma c d).pending = s.pending := (rfl)
@[simp] theorem State.setDma_freeCtr (c : Nat) (d : DmaState) : (s.setDma c d).freeCtr = s.freeCtr := (rfl)
@[simp] theorem State.setDma_out (c : Nat) (d : DmaState) : (s.setDma c d).out = s.out := (rfl)
@[simp] theorem State.setDma_mtime (c : Nat) (d : DmaState) : (s.setDma c d).mtime = s.mtime := (rfl)
@[simp] theorem State.setDma_regs (c : Nat) (d : DmaState) : (s.setDma c d).regs = s.regs := (rfl)
@[simp] theorem State.setDma_regsSlow (c : Nat) (d : DmaState) : (s.setDma c d).regsSlow = s.regsSlow := (rfl)
@[simp] theorem State.setDma_guards (c : Nat) (d : DmaState) : (s.setDma c d).guards = s.guards := (rfl)
@[simp] theorem State.setDma_recentW (c : Nat) (d : DmaState) : (s.setDma c d).recentW = s.recentW := (rfl)
@[simp] theorem State.setDma_jsram (c : Nat) (d : DmaState) : (s.setDma c d).jsram = s.jsram := (rfl)
@[simp] theorem State.setDma_jsramBad (c : Nat) (d : DmaState) : (s.setDma c d).jsramBad = s.jsramBad := (rfl)
@[simp] theorem State.setDma_mcs (c : Nat) (d : DmaState) : (s.setDma c d).mcs = s.mcs := (rfl)
@[simp] theorem State.setDma_rvs (c : Nat) (d : DmaState) : (s.setDma c d).rvs = s.rvs := (rfl)
@[simp] theorem State.setDma_rooms (c : Nat) (d : DmaState) : (s.setDma c d).rooms = s.rooms := (rfl)
@[simp] theorem State.setDma_hbm (c : Nat) (d : DmaState) : (s.setDma c d).hbm = s.hbm := (rfl)
@[simp] theorem State.setDma_mmu (c : Nat) (d : DmaState) : (s.setDma c d).mmu = s.mmu := (rfl)
@[simp] theorem State.setDma_sync (c : Nat) (d : DmaState) : (s.setDma c d).sync = s.sync := (rfl)
@[simp] theorem State.setDma_mesh (c : Nat) (d : DmaState) : (s.setDma c d).mesh = s.mesh := (rfl)
@[simp] theorem State.setDma_ports (c : Nat) (d : DmaState) : (s.setDma c d).ports = s.ports := (rfl)
@[simp] theorem State.setDma_fabric (c : Nat) (d : DmaState) : (s.setDma c d).fabric = s.fabric := (rfl)
@[simp] theorem State.setDma_reds (c : Nat) (d : DmaState) : (s.setDma c d).reds = s.reds := (rfl)
@[simp] theorem State.setDma_cellar (c : Nat) (d : DmaState) : (s.setDma c d).cellar = s.cellar := (rfl)
@[simp] theorem State.setDma_host (c : Nat) (d : DmaState) : (s.setDma c d).host = s.host := (rfl)
@[simp] theorem State.setDma_parts (c : Nat) (d : DmaState) : (s.setDma c d).parts = s.parts := (rfl)
@[simp] theorem State.setDma_service (c : Nat) (d : DmaState) : (s.setDma c d).service = s.service := (rfl)
@[simp] theorem State.setDma_irq (c : Nat) (d : DmaState) : (s.setDma c d).irq = s.irq := (rfl)
@[simp] theorem State.setDma_power (c : Nat) (d : DmaState) : (s.setDma c d).power = s.power := (rfl)
@[simp] theorem State.setDma_recovery (c : Nat) (d : DmaState) : (s.setDma c d).recovery = s.recovery := (rfl)
@[simp] theorem State.setDma_mgmt (c : Nat) (d : DmaState) : (s.setDma c d).mgmt = s.mgmt := (rfl)
@[simp] theorem State.setDma_reg (c : Nat) (d : DmaState) (j : Nat) : (s.setDma c d).reg j = s.reg j := (rfl)
@[simp] theorem State.setDma_slowReg (c : Nat) (d : DmaState) (j : Nat) : (s.setDma c d).slowReg j = s.slowReg j := (rfl)
@[simp] theorem State.setDma_mc (c : Nat) (d : DmaState) (j : Nat) : (s.setDma c d).mc j = s.mc j := (rfl)
@[simp] theorem State.setDma_rv (c : Nat) (d : DmaState) (j : Nat) : (s.setDma c d).rv j = s.rv j := (rfl)
@[simp] theorem State.setDma_room (c : Nat) (d : DmaState) (j : Nat) : (s.setDma c d).room j = s.room j := (rfl)
@[simp] theorem State.setDma_syncOf (c : Nat) (d : DmaState) (j : Nat) : (s.setDma c d).syncOf j = s.syncOf j := (rfl)
@[simp] theorem State.setDma_port (c : Nat) (d : DmaState) (j : Nat) : (s.setDma c d).port j = s.port j := (rfl)
@[simp] theorem State.setDma_ce (c : Nat) (d : DmaState) (j : Nat) : (s.setDma c d).ce j = s.ce j := (rfl)
@[simp] theorem State.setDma_evts (c : Nat) (d : DmaState) (j : Nat) : (s.setDma c d).evts j = s.evts j := (rfl)
@[simp] theorem State.setDma_cellPart (c : Nat) (d : DmaState) (j : Nat) : (s.setDma c d).cellPart j = s.cellPart j := (rfl)
@[simp] theorem State.setDma_granPart (c : Nat) (d : DmaState) (j : Nat) : (s.setDma c d).granPart j = s.granPart j := (rfl)
@[simp] theorem State.setDma_ringPart (c : Nat) (d : DmaState) (j : Nat) : (s.setDma c d).ringPart j = s.ringPart j := (rfl)
@[simp] theorem State.setDma_getF (c : Nat) (d : DmaState) (f : RF) : (s.setDma c d).getF f = s.getF f := (rfl)
@[simp] theorem State.setDma_getB (c : Nat) (d : DmaState) (f : RF) : (s.setDma c d).getB f = s.getB f := (rfl)
@[simp] theorem State.setDma_cellDown (c : Nat) (d : DmaState) (j : Nat) : (s.setDma c d).cellDown j = s.cellDown j := (rfl)
@[simp] theorem State.setDma_dieDown (c : Nat) (d : DmaState) (j : Nat) : (s.setDma c d).dieDown j = s.dieDown j := (rfl)

/-! ### Writing a core's part of its sync unit -/

@[simp] theorem State.setSync_pending (k : Nat) (x : SyncCore) : (s.setSync k x).pending = s.pending := (rfl)
@[simp] theorem State.setSync_freeCtr (k : Nat) (x : SyncCore) : (s.setSync k x).freeCtr = s.freeCtr := (rfl)
@[simp] theorem State.setSync_out (k : Nat) (x : SyncCore) : (s.setSync k x).out = s.out := (rfl)
@[simp] theorem State.setSync_mtime (k : Nat) (x : SyncCore) : (s.setSync k x).mtime = s.mtime := (rfl)
@[simp] theorem State.setSync_regs (k : Nat) (x : SyncCore) : (s.setSync k x).regs = s.regs := (rfl)
@[simp] theorem State.setSync_regsSlow (k : Nat) (x : SyncCore) : (s.setSync k x).regsSlow = s.regsSlow := (rfl)
@[simp] theorem State.setSync_guards (k : Nat) (x : SyncCore) : (s.setSync k x).guards = s.guards := (rfl)
@[simp] theorem State.setSync_recentW (k : Nat) (x : SyncCore) : (s.setSync k x).recentW = s.recentW := (rfl)
@[simp] theorem State.setSync_jsram (k : Nat) (x : SyncCore) : (s.setSync k x).jsram = s.jsram := (rfl)
@[simp] theorem State.setSync_jsramBad (k : Nat) (x : SyncCore) : (s.setSync k x).jsramBad = s.jsramBad := (rfl)
@[simp] theorem State.setSync_mcs (k : Nat) (x : SyncCore) : (s.setSync k x).mcs = s.mcs := (rfl)
@[simp] theorem State.setSync_rvs (k : Nat) (x : SyncCore) : (s.setSync k x).rvs = s.rvs := (rfl)
@[simp] theorem State.setSync_rooms (k : Nat) (x : SyncCore) : (s.setSync k x).rooms = s.rooms := (rfl)
@[simp] theorem State.setSync_hbm (k : Nat) (x : SyncCore) : (s.setSync k x).hbm = s.hbm := (rfl)
@[simp] theorem State.setSync_mmu (k : Nat) (x : SyncCore) : (s.setSync k x).mmu = s.mmu := (rfl)
@[simp] theorem State.setSync_dma (k : Nat) (x : SyncCore) : (s.setSync k x).dma = s.dma := (rfl)
@[simp] theorem State.setSync_mesh (k : Nat) (x : SyncCore) : (s.setSync k x).mesh = s.mesh := (rfl)
@[simp] theorem State.setSync_ports (k : Nat) (x : SyncCore) : (s.setSync k x).ports = s.ports := (rfl)
@[simp] theorem State.setSync_fabric (k : Nat) (x : SyncCore) : (s.setSync k x).fabric = s.fabric := (rfl)
@[simp] theorem State.setSync_reds (k : Nat) (x : SyncCore) : (s.setSync k x).reds = s.reds := (rfl)
@[simp] theorem State.setSync_cellar (k : Nat) (x : SyncCore) : (s.setSync k x).cellar = s.cellar := (rfl)
@[simp] theorem State.setSync_host (k : Nat) (x : SyncCore) : (s.setSync k x).host = s.host := (rfl)
@[simp] theorem State.setSync_parts (k : Nat) (x : SyncCore) : (s.setSync k x).parts = s.parts := (rfl)
@[simp] theorem State.setSync_service (k : Nat) (x : SyncCore) : (s.setSync k x).service = s.service := (rfl)
@[simp] theorem State.setSync_irq (k : Nat) (x : SyncCore) : (s.setSync k x).irq = s.irq := (rfl)
@[simp] theorem State.setSync_power (k : Nat) (x : SyncCore) : (s.setSync k x).power = s.power := (rfl)
@[simp] theorem State.setSync_recovery (k : Nat) (x : SyncCore) : (s.setSync k x).recovery = s.recovery := (rfl)
@[simp] theorem State.setSync_mgmt (k : Nat) (x : SyncCore) : (s.setSync k x).mgmt = s.mgmt := (rfl)
@[simp] theorem State.setSync_reg (k : Nat) (x : SyncCore) (j : Nat) : (s.setSync k x).reg j = s.reg j := (rfl)
@[simp] theorem State.setSync_slowReg (k : Nat) (x : SyncCore) (j : Nat) : (s.setSync k x).slowReg j = s.slowReg j := (rfl)
@[simp] theorem State.setSync_mc (k : Nat) (x : SyncCore) (j : Nat) : (s.setSync k x).mc j = s.mc j := (rfl)
@[simp] theorem State.setSync_rv (k : Nat) (x : SyncCore) (j : Nat) : (s.setSync k x).rv j = s.rv j := (rfl)
@[simp] theorem State.setSync_room (k : Nat) (x : SyncCore) (j : Nat) : (s.setSync k x).room j = s.room j := (rfl)
@[simp] theorem State.setSync_dmaOf (k : Nat) (x : SyncCore) (j : Nat) : (s.setSync k x).dmaOf j = s.dmaOf j := (rfl)
@[simp] theorem State.setSync_port (k : Nat) (x : SyncCore) (j : Nat) : (s.setSync k x).port j = s.port j := (rfl)
@[simp] theorem State.setSync_ce (k : Nat) (x : SyncCore) (j : Nat) : (s.setSync k x).ce j = s.ce j := (rfl)
@[simp] theorem State.setSync_evts (k : Nat) (x : SyncCore) (j : Nat) : (s.setSync k x).evts j = s.evts j := (rfl)
@[simp] theorem State.setSync_cellPart (k : Nat) (x : SyncCore) (j : Nat) : (s.setSync k x).cellPart j = s.cellPart j := (rfl)
@[simp] theorem State.setSync_granPart (k : Nat) (x : SyncCore) (j : Nat) : (s.setSync k x).granPart j = s.granPart j := (rfl)
@[simp] theorem State.setSync_ringPart (k : Nat) (x : SyncCore) (j : Nat) : (s.setSync k x).ringPart j = s.ringPart j := (rfl)
@[simp] theorem State.setSync_getF (k : Nat) (x : SyncCore) (f : RF) : (s.setSync k x).getF f = s.getF f := (rfl)
@[simp] theorem State.setSync_getB (k : Nat) (x : SyncCore) (f : RF) : (s.setSync k x).getB f = s.getB f := (rfl)
@[simp] theorem State.setSync_dmaQ (k : Nat) (x : SyncCore) (j q : Nat) : (s.setSync k x).dmaQ j q = s.dmaQ j q := (rfl)
@[simp] theorem State.setSync_cellDown (k : Nat) (x : SyncCore) (j : Nat) : (s.setSync k x).cellDown j = s.cellDown j := (rfl)
@[simp] theorem State.setSync_dieDown (k : Nat) (x : SyncCore) (j : Nat) : (s.setSync k x).dieDown j = s.dieDown j := (rfl)

/-! ### Writing a port -/

@[simp] theorem State.setPort_pending (n : Nat) (p : PortState) : (s.setPort n p).pending = s.pending := (rfl)
@[simp] theorem State.setPort_freeCtr (n : Nat) (p : PortState) : (s.setPort n p).freeCtr = s.freeCtr := (rfl)
@[simp] theorem State.setPort_out (n : Nat) (p : PortState) : (s.setPort n p).out = s.out := (rfl)
@[simp] theorem State.setPort_mtime (n : Nat) (p : PortState) : (s.setPort n p).mtime = s.mtime := (rfl)
@[simp] theorem State.setPort_regs (n : Nat) (p : PortState) : (s.setPort n p).regs = s.regs := (rfl)
@[simp] theorem State.setPort_regsSlow (n : Nat) (p : PortState) : (s.setPort n p).regsSlow = s.regsSlow := (rfl)
@[simp] theorem State.setPort_guards (n : Nat) (p : PortState) : (s.setPort n p).guards = s.guards := (rfl)
@[simp] theorem State.setPort_recentW (n : Nat) (p : PortState) : (s.setPort n p).recentW = s.recentW := (rfl)
@[simp] theorem State.setPort_jsram (n : Nat) (p : PortState) : (s.setPort n p).jsram = s.jsram := (rfl)
@[simp] theorem State.setPort_jsramBad (n : Nat) (p : PortState) : (s.setPort n p).jsramBad = s.jsramBad := (rfl)
@[simp] theorem State.setPort_mcs (n : Nat) (p : PortState) : (s.setPort n p).mcs = s.mcs := (rfl)
@[simp] theorem State.setPort_rvs (n : Nat) (p : PortState) : (s.setPort n p).rvs = s.rvs := (rfl)
@[simp] theorem State.setPort_rooms (n : Nat) (p : PortState) : (s.setPort n p).rooms = s.rooms := (rfl)
@[simp] theorem State.setPort_hbm (n : Nat) (p : PortState) : (s.setPort n p).hbm = s.hbm := (rfl)
@[simp] theorem State.setPort_mmu (n : Nat) (p : PortState) : (s.setPort n p).mmu = s.mmu := (rfl)
@[simp] theorem State.setPort_dma (n : Nat) (p : PortState) : (s.setPort n p).dma = s.dma := (rfl)
@[simp] theorem State.setPort_sync (n : Nat) (p : PortState) : (s.setPort n p).sync = s.sync := (rfl)
@[simp] theorem State.setPort_mesh (n : Nat) (p : PortState) : (s.setPort n p).mesh = s.mesh := (rfl)
@[simp] theorem State.setPort_fabric (n : Nat) (p : PortState) : (s.setPort n p).fabric = s.fabric := (rfl)
@[simp] theorem State.setPort_reds (n : Nat) (p : PortState) : (s.setPort n p).reds = s.reds := (rfl)
@[simp] theorem State.setPort_cellar (n : Nat) (p : PortState) : (s.setPort n p).cellar = s.cellar := (rfl)
@[simp] theorem State.setPort_host (n : Nat) (p : PortState) : (s.setPort n p).host = s.host := (rfl)
@[simp] theorem State.setPort_parts (n : Nat) (p : PortState) : (s.setPort n p).parts = s.parts := (rfl)
@[simp] theorem State.setPort_service (n : Nat) (p : PortState) : (s.setPort n p).service = s.service := (rfl)
@[simp] theorem State.setPort_irq (n : Nat) (p : PortState) : (s.setPort n p).irq = s.irq := (rfl)
@[simp] theorem State.setPort_power (n : Nat) (p : PortState) : (s.setPort n p).power = s.power := (rfl)
@[simp] theorem State.setPort_recovery (n : Nat) (p : PortState) : (s.setPort n p).recovery = s.recovery := (rfl)
@[simp] theorem State.setPort_mgmt (n : Nat) (p : PortState) : (s.setPort n p).mgmt = s.mgmt := (rfl)
@[simp] theorem State.setPort_reg (n : Nat) (p : PortState) (j : Nat) : (s.setPort n p).reg j = s.reg j := (rfl)
@[simp] theorem State.setPort_slowReg (n : Nat) (p : PortState) (j : Nat) : (s.setPort n p).slowReg j = s.slowReg j := (rfl)
@[simp] theorem State.setPort_mc (n : Nat) (p : PortState) (j : Nat) : (s.setPort n p).mc j = s.mc j := (rfl)
@[simp] theorem State.setPort_rv (n : Nat) (p : PortState) (j : Nat) : (s.setPort n p).rv j = s.rv j := (rfl)
@[simp] theorem State.setPort_room (n : Nat) (p : PortState) (j : Nat) : (s.setPort n p).room j = s.room j := (rfl)
@[simp] theorem State.setPort_dmaOf (n : Nat) (p : PortState) (j : Nat) : (s.setPort n p).dmaOf j = s.dmaOf j := (rfl)
@[simp] theorem State.setPort_syncOf (n : Nat) (p : PortState) (j : Nat) : (s.setPort n p).syncOf j = s.syncOf j := (rfl)
@[simp] theorem State.setPort_ce (n : Nat) (p : PortState) (j : Nat) : (s.setPort n p).ce j = s.ce j := (rfl)
@[simp] theorem State.setPort_evts (n : Nat) (p : PortState) (j : Nat) : (s.setPort n p).evts j = s.evts j := (rfl)
@[simp] theorem State.setPort_cellPart (n : Nat) (p : PortState) (j : Nat) : (s.setPort n p).cellPart j = s.cellPart j := (rfl)
@[simp] theorem State.setPort_granPart (n : Nat) (p : PortState) (j : Nat) : (s.setPort n p).granPart j = s.granPart j := (rfl)
@[simp] theorem State.setPort_ringPart (n : Nat) (p : PortState) (j : Nat) : (s.setPort n p).ringPart j = s.ringPart j := (rfl)
@[simp] theorem State.setPort_getF (n : Nat) (p : PortState) (f : RF) : (s.setPort n p).getF f = s.getF f := (rfl)
@[simp] theorem State.setPort_getB (n : Nat) (p : PortState) (f : RF) : (s.setPort n p).getB f = s.getB f := (rfl)
@[simp] theorem State.setPort_dmaQ (n : Nat) (p : PortState) (j q : Nat) : (s.setPort n p).dmaQ j q = s.dmaQ j q := (rfl)
@[simp] theorem State.setPort_cellDown (n : Nat) (p : PortState) (j : Nat) : (s.setPort n p).cellDown j = s.cellDown j := (rfl)
@[simp] theorem State.setPort_dieDown (n : Nat) (p : PortState) (j : Nat) : (s.setPort n p).dieDown j = s.dieDown j := (rfl)

/-! ### Writing a cellar engine -/

@[simp] theorem State.setCe_pending (n : Nat) (e : CeState) : (s.setCe n e).pending = s.pending := (rfl)
@[simp] theorem State.setCe_freeCtr (n : Nat) (e : CeState) : (s.setCe n e).freeCtr = s.freeCtr := (rfl)
@[simp] theorem State.setCe_out (n : Nat) (e : CeState) : (s.setCe n e).out = s.out := (rfl)
@[simp] theorem State.setCe_mtime (n : Nat) (e : CeState) : (s.setCe n e).mtime = s.mtime := (rfl)
@[simp] theorem State.setCe_regs (n : Nat) (e : CeState) : (s.setCe n e).regs = s.regs := (rfl)
@[simp] theorem State.setCe_regsSlow (n : Nat) (e : CeState) : (s.setCe n e).regsSlow = s.regsSlow := (rfl)
@[simp] theorem State.setCe_guards (n : Nat) (e : CeState) : (s.setCe n e).guards = s.guards := (rfl)
@[simp] theorem State.setCe_recentW (n : Nat) (e : CeState) : (s.setCe n e).recentW = s.recentW := (rfl)
@[simp] theorem State.setCe_jsram (n : Nat) (e : CeState) : (s.setCe n e).jsram = s.jsram := (rfl)
@[simp] theorem State.setCe_jsramBad (n : Nat) (e : CeState) : (s.setCe n e).jsramBad = s.jsramBad := (rfl)
@[simp] theorem State.setCe_mcs (n : Nat) (e : CeState) : (s.setCe n e).mcs = s.mcs := (rfl)
@[simp] theorem State.setCe_rvs (n : Nat) (e : CeState) : (s.setCe n e).rvs = s.rvs := (rfl)
@[simp] theorem State.setCe_rooms (n : Nat) (e : CeState) : (s.setCe n e).rooms = s.rooms := (rfl)
@[simp] theorem State.setCe_hbm (n : Nat) (e : CeState) : (s.setCe n e).hbm = s.hbm := (rfl)
@[simp] theorem State.setCe_mmu (n : Nat) (e : CeState) : (s.setCe n e).mmu = s.mmu := (rfl)
@[simp] theorem State.setCe_dma (n : Nat) (e : CeState) : (s.setCe n e).dma = s.dma := (rfl)
@[simp] theorem State.setCe_sync (n : Nat) (e : CeState) : (s.setCe n e).sync = s.sync := (rfl)
@[simp] theorem State.setCe_mesh (n : Nat) (e : CeState) : (s.setCe n e).mesh = s.mesh := (rfl)
@[simp] theorem State.setCe_ports (n : Nat) (e : CeState) : (s.setCe n e).ports = s.ports := (rfl)
@[simp] theorem State.setCe_fabric (n : Nat) (e : CeState) : (s.setCe n e).fabric = s.fabric := (rfl)
@[simp] theorem State.setCe_reds (n : Nat) (e : CeState) : (s.setCe n e).reds = s.reds := (rfl)
@[simp] theorem State.setCe_host (n : Nat) (e : CeState) : (s.setCe n e).host = s.host := (rfl)
@[simp] theorem State.setCe_parts (n : Nat) (e : CeState) : (s.setCe n e).parts = s.parts := (rfl)
@[simp] theorem State.setCe_service (n : Nat) (e : CeState) : (s.setCe n e).service = s.service := (rfl)
@[simp] theorem State.setCe_irq (n : Nat) (e : CeState) : (s.setCe n e).irq = s.irq := (rfl)
@[simp] theorem State.setCe_power (n : Nat) (e : CeState) : (s.setCe n e).power = s.power := (rfl)
@[simp] theorem State.setCe_recovery (n : Nat) (e : CeState) : (s.setCe n e).recovery = s.recovery := (rfl)
@[simp] theorem State.setCe_mgmt (n : Nat) (e : CeState) : (s.setCe n e).mgmt = s.mgmt := (rfl)
@[simp] theorem State.setCe_reg (n : Nat) (e : CeState) (j : Nat) : (s.setCe n e).reg j = s.reg j := (rfl)
@[simp] theorem State.setCe_slowReg (n : Nat) (e : CeState) (j : Nat) : (s.setCe n e).slowReg j = s.slowReg j := (rfl)
@[simp] theorem State.setCe_mc (n : Nat) (e : CeState) (j : Nat) : (s.setCe n e).mc j = s.mc j := (rfl)
@[simp] theorem State.setCe_rv (n : Nat) (e : CeState) (j : Nat) : (s.setCe n e).rv j = s.rv j := (rfl)
@[simp] theorem State.setCe_room (n : Nat) (e : CeState) (j : Nat) : (s.setCe n e).room j = s.room j := (rfl)
@[simp] theorem State.setCe_dmaOf (n : Nat) (e : CeState) (j : Nat) : (s.setCe n e).dmaOf j = s.dmaOf j := (rfl)
@[simp] theorem State.setCe_syncOf (n : Nat) (e : CeState) (j : Nat) : (s.setCe n e).syncOf j = s.syncOf j := (rfl)
@[simp] theorem State.setCe_port (n : Nat) (e : CeState) (j : Nat) : (s.setCe n e).port j = s.port j := (rfl)
@[simp] theorem State.setCe_evts (n : Nat) (e : CeState) (j : Nat) : (s.setCe n e).evts j = s.evts j := (rfl)
@[simp] theorem State.setCe_cellPart (n : Nat) (e : CeState) (j : Nat) : (s.setCe n e).cellPart j = s.cellPart j := (rfl)
@[simp] theorem State.setCe_granPart (n : Nat) (e : CeState) (j : Nat) : (s.setCe n e).granPart j = s.granPart j := (rfl)
@[simp] theorem State.setCe_ringPart (n : Nat) (e : CeState) (j : Nat) : (s.setCe n e).ringPart j = s.ringPart j := (rfl)
@[simp] theorem State.setCe_getF (n : Nat) (e : CeState) (f : RF) : (s.setCe n e).getF f = s.getF f := (rfl)
@[simp] theorem State.setCe_getB (n : Nat) (e : CeState) (f : RF) : (s.setCe n e).getB f = s.getB f := (rfl)
@[simp] theorem State.setCe_dmaQ (n : Nat) (e : CeState) (j q : Nat) : (s.setCe n e).dmaQ j q = s.dmaQ j q := (rfl)
@[simp] theorem State.setCe_cellDown (n : Nat) (e : CeState) (j : Nat) : (s.setCe n e).cellDown j = s.cellDown j := (rfl)
@[simp] theorem State.setCe_dieDown (n : Nat) (e : CeState) (j : Nat) : (s.setCe n e).dieDown j = s.dieDown j := (rfl)

/-! ### Writing a partition's events -/

@[simp] theorem State.setEvts_pending (p : Nat) (e : PartEvents) : (s.setEvts p e).pending = s.pending := (rfl)
@[simp] theorem State.setEvts_freeCtr (p : Nat) (e : PartEvents) : (s.setEvts p e).freeCtr = s.freeCtr := (rfl)
@[simp] theorem State.setEvts_out (p : Nat) (e : PartEvents) : (s.setEvts p e).out = s.out := (rfl)
@[simp] theorem State.setEvts_mtime (p : Nat) (e : PartEvents) : (s.setEvts p e).mtime = s.mtime := (rfl)
@[simp] theorem State.setEvts_regs (p : Nat) (e : PartEvents) : (s.setEvts p e).regs = s.regs := (rfl)
@[simp] theorem State.setEvts_regsSlow (p : Nat) (e : PartEvents) : (s.setEvts p e).regsSlow = s.regsSlow := (rfl)
@[simp] theorem State.setEvts_guards (p : Nat) (e : PartEvents) : (s.setEvts p e).guards = s.guards := (rfl)
@[simp] theorem State.setEvts_recentW (p : Nat) (e : PartEvents) : (s.setEvts p e).recentW = s.recentW := (rfl)
@[simp] theorem State.setEvts_jsram (p : Nat) (e : PartEvents) : (s.setEvts p e).jsram = s.jsram := (rfl)
@[simp] theorem State.setEvts_jsramBad (p : Nat) (e : PartEvents) : (s.setEvts p e).jsramBad = s.jsramBad := (rfl)
@[simp] theorem State.setEvts_mcs (p : Nat) (e : PartEvents) : (s.setEvts p e).mcs = s.mcs := (rfl)
@[simp] theorem State.setEvts_rvs (p : Nat) (e : PartEvents) : (s.setEvts p e).rvs = s.rvs := (rfl)
@[simp] theorem State.setEvts_rooms (p : Nat) (e : PartEvents) : (s.setEvts p e).rooms = s.rooms := (rfl)
@[simp] theorem State.setEvts_hbm (p : Nat) (e : PartEvents) : (s.setEvts p e).hbm = s.hbm := (rfl)
@[simp] theorem State.setEvts_mmu (p : Nat) (e : PartEvents) : (s.setEvts p e).mmu = s.mmu := (rfl)
@[simp] theorem State.setEvts_dma (p : Nat) (e : PartEvents) : (s.setEvts p e).dma = s.dma := (rfl)
@[simp] theorem State.setEvts_sync (p : Nat) (e : PartEvents) : (s.setEvts p e).sync = s.sync := (rfl)
@[simp] theorem State.setEvts_mesh (p : Nat) (e : PartEvents) : (s.setEvts p e).mesh = s.mesh := (rfl)
@[simp] theorem State.setEvts_ports (p : Nat) (e : PartEvents) : (s.setEvts p e).ports = s.ports := (rfl)
@[simp] theorem State.setEvts_fabric (p : Nat) (e : PartEvents) : (s.setEvts p e).fabric = s.fabric := (rfl)
@[simp] theorem State.setEvts_reds (p : Nat) (e : PartEvents) : (s.setEvts p e).reds = s.reds := (rfl)
@[simp] theorem State.setEvts_cellar (p : Nat) (e : PartEvents) : (s.setEvts p e).cellar = s.cellar := (rfl)
@[simp] theorem State.setEvts_parts (p : Nat) (e : PartEvents) : (s.setEvts p e).parts = s.parts := (rfl)
@[simp] theorem State.setEvts_service (p : Nat) (e : PartEvents) : (s.setEvts p e).service = s.service := (rfl)
@[simp] theorem State.setEvts_irq (p : Nat) (e : PartEvents) : (s.setEvts p e).irq = s.irq := (rfl)
@[simp] theorem State.setEvts_power (p : Nat) (e : PartEvents) : (s.setEvts p e).power = s.power := (rfl)
@[simp] theorem State.setEvts_recovery (p : Nat) (e : PartEvents) : (s.setEvts p e).recovery = s.recovery := (rfl)
@[simp] theorem State.setEvts_mgmt (p : Nat) (e : PartEvents) : (s.setEvts p e).mgmt = s.mgmt := (rfl)
@[simp] theorem State.setEvts_reg (p : Nat) (e : PartEvents) (j : Nat) : (s.setEvts p e).reg j = s.reg j := (rfl)
@[simp] theorem State.setEvts_slowReg (p : Nat) (e : PartEvents) (j : Nat) : (s.setEvts p e).slowReg j = s.slowReg j := (rfl)
@[simp] theorem State.setEvts_mc (p : Nat) (e : PartEvents) (j : Nat) : (s.setEvts p e).mc j = s.mc j := (rfl)
@[simp] theorem State.setEvts_rv (p : Nat) (e : PartEvents) (j : Nat) : (s.setEvts p e).rv j = s.rv j := (rfl)
@[simp] theorem State.setEvts_room (p : Nat) (e : PartEvents) (j : Nat) : (s.setEvts p e).room j = s.room j := (rfl)
@[simp] theorem State.setEvts_dmaOf (p : Nat) (e : PartEvents) (j : Nat) : (s.setEvts p e).dmaOf j = s.dmaOf j := (rfl)
@[simp] theorem State.setEvts_syncOf (p : Nat) (e : PartEvents) (j : Nat) : (s.setEvts p e).syncOf j = s.syncOf j := (rfl)
@[simp] theorem State.setEvts_port (p : Nat) (e : PartEvents) (j : Nat) : (s.setEvts p e).port j = s.port j := (rfl)
@[simp] theorem State.setEvts_ce (p : Nat) (e : PartEvents) (j : Nat) : (s.setEvts p e).ce j = s.ce j := (rfl)
@[simp] theorem State.setEvts_cellPart (p : Nat) (e : PartEvents) (j : Nat) : (s.setEvts p e).cellPart j = s.cellPart j := (rfl)
@[simp] theorem State.setEvts_granPart (p : Nat) (e : PartEvents) (j : Nat) : (s.setEvts p e).granPart j = s.granPart j := (rfl)
@[simp] theorem State.setEvts_ringPart (p : Nat) (e : PartEvents) (j : Nat) : (s.setEvts p e).ringPart j = s.ringPart j := (rfl)
@[simp] theorem State.setEvts_getF (p : Nat) (e : PartEvents) (f : RF) : (s.setEvts p e).getF f = s.getF f := (rfl)
@[simp] theorem State.setEvts_getB (p : Nat) (e : PartEvents) (f : RF) : (s.setEvts p e).getB f = s.getB f := (rfl)
@[simp] theorem State.setEvts_dmaQ (p : Nat) (e : PartEvents) (j q : Nat) : (s.setEvts p e).dmaQ j q = s.dmaQ j q := (rfl)
@[simp] theorem State.setEvts_cellDown (p : Nat) (e : PartEvents) (j : Nat) : (s.setEvts p e).cellDown j = s.cellDown j := (rfl)
@[simp] theorem State.setEvts_dieDown (p : Nat) (e : PartEvents) (j : Nat) : (s.setEvts p e).dieDown j = s.dieDown j := (rfl)

/-! ### Writing a count of interrupts to route -/

@[simp] theorem State.countSet_pending (c n : Nat) : (s.countSet c n).pending = s.pending := (rfl)
@[simp] theorem State.countSet_freeCtr (c n : Nat) : (s.countSet c n).freeCtr = s.freeCtr := (rfl)
@[simp] theorem State.countSet_out (c n : Nat) : (s.countSet c n).out = s.out := (rfl)
@[simp] theorem State.countSet_mtime (c n : Nat) : (s.countSet c n).mtime = s.mtime := (rfl)
@[simp] theorem State.countSet_regs (c n : Nat) : (s.countSet c n).regs = s.regs := (rfl)
@[simp] theorem State.countSet_regsSlow (c n : Nat) : (s.countSet c n).regsSlow = s.regsSlow := (rfl)
@[simp] theorem State.countSet_guards (c n : Nat) : (s.countSet c n).guards = s.guards := (rfl)
@[simp] theorem State.countSet_recentW (c n : Nat) : (s.countSet c n).recentW = s.recentW := (rfl)
@[simp] theorem State.countSet_jsram (c n : Nat) : (s.countSet c n).jsram = s.jsram := (rfl)
@[simp] theorem State.countSet_jsramBad (c n : Nat) : (s.countSet c n).jsramBad = s.jsramBad := (rfl)
@[simp] theorem State.countSet_mcs (c n : Nat) : (s.countSet c n).mcs = s.mcs := (rfl)
@[simp] theorem State.countSet_rvs (c n : Nat) : (s.countSet c n).rvs = s.rvs := (rfl)
@[simp] theorem State.countSet_rooms (c n : Nat) : (s.countSet c n).rooms = s.rooms := (rfl)
@[simp] theorem State.countSet_hbm (c n : Nat) : (s.countSet c n).hbm = s.hbm := (rfl)
@[simp] theorem State.countSet_mmu (c n : Nat) : (s.countSet c n).mmu = s.mmu := (rfl)
@[simp] theorem State.countSet_dma (c n : Nat) : (s.countSet c n).dma = s.dma := (rfl)
@[simp] theorem State.countSet_sync (c n : Nat) : (s.countSet c n).sync = s.sync := (rfl)
@[simp] theorem State.countSet_mesh (c n : Nat) : (s.countSet c n).mesh = s.mesh := (rfl)
@[simp] theorem State.countSet_ports (c n : Nat) : (s.countSet c n).ports = s.ports := (rfl)
@[simp] theorem State.countSet_fabric (c n : Nat) : (s.countSet c n).fabric = s.fabric := (rfl)
@[simp] theorem State.countSet_reds (c n : Nat) : (s.countSet c n).reds = s.reds := (rfl)
@[simp] theorem State.countSet_cellar (c n : Nat) : (s.countSet c n).cellar = s.cellar := (rfl)
@[simp] theorem State.countSet_host (c n : Nat) : (s.countSet c n).host = s.host := (rfl)
@[simp] theorem State.countSet_parts (c n : Nat) : (s.countSet c n).parts = s.parts := (rfl)
@[simp] theorem State.countSet_service (c n : Nat) : (s.countSet c n).service = s.service := (rfl)
@[simp] theorem State.countSet_power (c n : Nat) : (s.countSet c n).power = s.power := (rfl)
@[simp] theorem State.countSet_recovery (c n : Nat) : (s.countSet c n).recovery = s.recovery := (rfl)
@[simp] theorem State.countSet_mgmt (c n : Nat) : (s.countSet c n).mgmt = s.mgmt := (rfl)
@[simp] theorem State.countSet_reg (c n : Nat) (j : Nat) : (s.countSet c n).reg j = s.reg j := (rfl)
@[simp] theorem State.countSet_slowReg (c n : Nat) (j : Nat) : (s.countSet c n).slowReg j = s.slowReg j := (rfl)
@[simp] theorem State.countSet_mc (c n : Nat) (j : Nat) : (s.countSet c n).mc j = s.mc j := (rfl)
@[simp] theorem State.countSet_rv (c n : Nat) (j : Nat) : (s.countSet c n).rv j = s.rv j := (rfl)
@[simp] theorem State.countSet_room (c n : Nat) (j : Nat) : (s.countSet c n).room j = s.room j := (rfl)
@[simp] theorem State.countSet_dmaOf (c n : Nat) (j : Nat) : (s.countSet c n).dmaOf j = s.dmaOf j := (rfl)
@[simp] theorem State.countSet_syncOf (c n : Nat) (j : Nat) : (s.countSet c n).syncOf j = s.syncOf j := (rfl)
@[simp] theorem State.countSet_port (c n : Nat) (j : Nat) : (s.countSet c n).port j = s.port j := (rfl)
@[simp] theorem State.countSet_ce (c n : Nat) (j : Nat) : (s.countSet c n).ce j = s.ce j := (rfl)
@[simp] theorem State.countSet_evts (c n : Nat) (j : Nat) : (s.countSet c n).evts j = s.evts j := (rfl)
@[simp] theorem State.countSet_cellPart (c n : Nat) (j : Nat) : (s.countSet c n).cellPart j = s.cellPart j := (rfl)
@[simp] theorem State.countSet_granPart (c n : Nat) (j : Nat) : (s.countSet c n).granPart j = s.granPart j := (rfl)
@[simp] theorem State.countSet_ringPart (c n : Nat) (j : Nat) : (s.countSet c n).ringPart j = s.ringPart j := (rfl)
@[simp] theorem State.countSet_getF (c n : Nat) (f : RF) : (s.countSet c n).getF f = s.getF f := (rfl)
@[simp] theorem State.countSet_getB (c n : Nat) (f : RF) : (s.countSet c n).getB f = s.getB f := (rfl)
@[simp] theorem State.countSet_dmaQ (c n : Nat) (j q : Nat) : (s.countSet c n).dmaQ j q = s.dmaQ j q := (rfl)
@[simp] theorem State.countSet_cellDown (c n : Nat) (j : Nat) : (s.countSet c n).cellDown j = s.cellDown j := (rfl)
@[simp] theorem State.countSet_dieDown (c n : Nat) (j : Nat) : (s.countSet c n).dieDown j = s.dieDown j := (rfl)

/-! ### Writing an output -/

@[simp] theorem State.emit_pending (o : Output) : (s.emit o).pending = s.pending := (rfl)
@[simp] theorem State.emit_freeCtr (o : Output) : (s.emit o).freeCtr = s.freeCtr := (rfl)
@[simp] theorem State.emit_mtime (o : Output) : (s.emit o).mtime = s.mtime := (rfl)
@[simp] theorem State.emit_regs (o : Output) : (s.emit o).regs = s.regs := (rfl)
@[simp] theorem State.emit_regsSlow (o : Output) : (s.emit o).regsSlow = s.regsSlow := (rfl)
@[simp] theorem State.emit_guards (o : Output) : (s.emit o).guards = s.guards := (rfl)
@[simp] theorem State.emit_recentW (o : Output) : (s.emit o).recentW = s.recentW := (rfl)
@[simp] theorem State.emit_jsram (o : Output) : (s.emit o).jsram = s.jsram := (rfl)
@[simp] theorem State.emit_jsramBad (o : Output) : (s.emit o).jsramBad = s.jsramBad := (rfl)
@[simp] theorem State.emit_mcs (o : Output) : (s.emit o).mcs = s.mcs := (rfl)
@[simp] theorem State.emit_rvs (o : Output) : (s.emit o).rvs = s.rvs := (rfl)
@[simp] theorem State.emit_rooms (o : Output) : (s.emit o).rooms = s.rooms := (rfl)
@[simp] theorem State.emit_hbm (o : Output) : (s.emit o).hbm = s.hbm := (rfl)
@[simp] theorem State.emit_mmu (o : Output) : (s.emit o).mmu = s.mmu := (rfl)
@[simp] theorem State.emit_dma (o : Output) : (s.emit o).dma = s.dma := (rfl)
@[simp] theorem State.emit_sync (o : Output) : (s.emit o).sync = s.sync := (rfl)
@[simp] theorem State.emit_mesh (o : Output) : (s.emit o).mesh = s.mesh := (rfl)
@[simp] theorem State.emit_ports (o : Output) : (s.emit o).ports = s.ports := (rfl)
@[simp] theorem State.emit_fabric (o : Output) : (s.emit o).fabric = s.fabric := (rfl)
@[simp] theorem State.emit_reds (o : Output) : (s.emit o).reds = s.reds := (rfl)
@[simp] theorem State.emit_cellar (o : Output) : (s.emit o).cellar = s.cellar := (rfl)
@[simp] theorem State.emit_host (o : Output) : (s.emit o).host = s.host := (rfl)
@[simp] theorem State.emit_parts (o : Output) : (s.emit o).parts = s.parts := (rfl)
@[simp] theorem State.emit_service (o : Output) : (s.emit o).service = s.service := (rfl)
@[simp] theorem State.emit_irq (o : Output) : (s.emit o).irq = s.irq := (rfl)
@[simp] theorem State.emit_power (o : Output) : (s.emit o).power = s.power := (rfl)
@[simp] theorem State.emit_recovery (o : Output) : (s.emit o).recovery = s.recovery := (rfl)
@[simp] theorem State.emit_mgmt (o : Output) : (s.emit o).mgmt = s.mgmt := (rfl)
@[simp] theorem State.emit_reg (o : Output) (j : Nat) : (s.emit o).reg j = s.reg j := (rfl)
@[simp] theorem State.emit_slowReg (o : Output) (j : Nat) : (s.emit o).slowReg j = s.slowReg j := (rfl)
@[simp] theorem State.emit_mc (o : Output) (j : Nat) : (s.emit o).mc j = s.mc j := (rfl)
@[simp] theorem State.emit_rv (o : Output) (j : Nat) : (s.emit o).rv j = s.rv j := (rfl)
@[simp] theorem State.emit_room (o : Output) (j : Nat) : (s.emit o).room j = s.room j := (rfl)
@[simp] theorem State.emit_dmaOf (o : Output) (j : Nat) : (s.emit o).dmaOf j = s.dmaOf j := (rfl)
@[simp] theorem State.emit_syncOf (o : Output) (j : Nat) : (s.emit o).syncOf j = s.syncOf j := (rfl)
@[simp] theorem State.emit_port (o : Output) (j : Nat) : (s.emit o).port j = s.port j := (rfl)
@[simp] theorem State.emit_ce (o : Output) (j : Nat) : (s.emit o).ce j = s.ce j := (rfl)
@[simp] theorem State.emit_evts (o : Output) (j : Nat) : (s.emit o).evts j = s.evts j := (rfl)
@[simp] theorem State.emit_cellPart (o : Output) (j : Nat) : (s.emit o).cellPart j = s.cellPart j := (rfl)
@[simp] theorem State.emit_granPart (o : Output) (j : Nat) : (s.emit o).granPart j = s.granPart j := (rfl)
@[simp] theorem State.emit_ringPart (o : Output) (j : Nat) : (s.emit o).ringPart j = s.ringPart j := (rfl)
@[simp] theorem State.emit_getF (o : Output) (f : RF) : (s.emit o).getF f = s.getF f := (rfl)
@[simp] theorem State.emit_getB (o : Output) (f : RF) : (s.emit o).getB f = s.getB f := (rfl)
@[simp] theorem State.emit_dmaQ (o : Output) (j q : Nat) : (s.emit o).dmaQ j q = s.dmaQ j q := (rfl)
@[simp] theorem State.emit_cellDown (o : Output) (j : Nat) : (s.emit o).cellDown j = s.cellDown j := (rfl)
@[simp] theorem State.emit_dieDown (o : Output) (j : Nat) : (s.emit o).dieDown j = s.dieDown j := (rfl)

/-! ### Writing the free-value counter -/

@[simp] theorem State.tickFree_pending : (s.tickFree).pending = s.pending := (rfl)
@[simp] theorem State.tickFree_out : (s.tickFree).out = s.out := (rfl)
@[simp] theorem State.tickFree_mtime : (s.tickFree).mtime = s.mtime := (rfl)
@[simp] theorem State.tickFree_regs : (s.tickFree).regs = s.regs := (rfl)
@[simp] theorem State.tickFree_regsSlow : (s.tickFree).regsSlow = s.regsSlow := (rfl)
@[simp] theorem State.tickFree_guards : (s.tickFree).guards = s.guards := (rfl)
@[simp] theorem State.tickFree_recentW : (s.tickFree).recentW = s.recentW := (rfl)
@[simp] theorem State.tickFree_jsram : (s.tickFree).jsram = s.jsram := (rfl)
@[simp] theorem State.tickFree_jsramBad : (s.tickFree).jsramBad = s.jsramBad := (rfl)
@[simp] theorem State.tickFree_mcs : (s.tickFree).mcs = s.mcs := (rfl)
@[simp] theorem State.tickFree_rvs : (s.tickFree).rvs = s.rvs := (rfl)
@[simp] theorem State.tickFree_rooms : (s.tickFree).rooms = s.rooms := (rfl)
@[simp] theorem State.tickFree_hbm : (s.tickFree).hbm = s.hbm := (rfl)
@[simp] theorem State.tickFree_mmu : (s.tickFree).mmu = s.mmu := (rfl)
@[simp] theorem State.tickFree_dma : (s.tickFree).dma = s.dma := (rfl)
@[simp] theorem State.tickFree_sync : (s.tickFree).sync = s.sync := (rfl)
@[simp] theorem State.tickFree_mesh : (s.tickFree).mesh = s.mesh := (rfl)
@[simp] theorem State.tickFree_ports : (s.tickFree).ports = s.ports := (rfl)
@[simp] theorem State.tickFree_fabric : (s.tickFree).fabric = s.fabric := (rfl)
@[simp] theorem State.tickFree_reds : (s.tickFree).reds = s.reds := (rfl)
@[simp] theorem State.tickFree_cellar : (s.tickFree).cellar = s.cellar := (rfl)
@[simp] theorem State.tickFree_host : (s.tickFree).host = s.host := (rfl)
@[simp] theorem State.tickFree_parts : (s.tickFree).parts = s.parts := (rfl)
@[simp] theorem State.tickFree_service : (s.tickFree).service = s.service := (rfl)
@[simp] theorem State.tickFree_irq : (s.tickFree).irq = s.irq := (rfl)
@[simp] theorem State.tickFree_power : (s.tickFree).power = s.power := (rfl)
@[simp] theorem State.tickFree_recovery : (s.tickFree).recovery = s.recovery := (rfl)
@[simp] theorem State.tickFree_mgmt : (s.tickFree).mgmt = s.mgmt := (rfl)
@[simp] theorem State.tickFree_reg (j : Nat) : (s.tickFree).reg j = s.reg j := (rfl)
@[simp] theorem State.tickFree_slowReg (j : Nat) : (s.tickFree).slowReg j = s.slowReg j := (rfl)
@[simp] theorem State.tickFree_mc (j : Nat) : (s.tickFree).mc j = s.mc j := (rfl)
@[simp] theorem State.tickFree_rv (j : Nat) : (s.tickFree).rv j = s.rv j := (rfl)
@[simp] theorem State.tickFree_room (j : Nat) : (s.tickFree).room j = s.room j := (rfl)
@[simp] theorem State.tickFree_dmaOf (j : Nat) : (s.tickFree).dmaOf j = s.dmaOf j := (rfl)
@[simp] theorem State.tickFree_syncOf (j : Nat) : (s.tickFree).syncOf j = s.syncOf j := (rfl)
@[simp] theorem State.tickFree_port (j : Nat) : (s.tickFree).port j = s.port j := (rfl)
@[simp] theorem State.tickFree_ce (j : Nat) : (s.tickFree).ce j = s.ce j := (rfl)
@[simp] theorem State.tickFree_evts (j : Nat) : (s.tickFree).evts j = s.evts j := (rfl)
@[simp] theorem State.tickFree_cellPart (j : Nat) : (s.tickFree).cellPart j = s.cellPart j := (rfl)
@[simp] theorem State.tickFree_granPart (j : Nat) : (s.tickFree).granPart j = s.granPart j := (rfl)
@[simp] theorem State.tickFree_ringPart (j : Nat) : (s.tickFree).ringPart j = s.ringPart j := (rfl)
@[simp] theorem State.tickFree_getF (f : RF) : (s.tickFree).getF f = s.getF f := (rfl)
@[simp] theorem State.tickFree_getB (f : RF) : (s.tickFree).getB f = s.getB f := (rfl)
@[simp] theorem State.tickFree_dmaQ (j q : Nat) : (s.tickFree).dmaQ j q = s.dmaQ j q := (rfl)
@[simp] theorem State.tickFree_cellDown (j : Nat) : (s.tickFree).cellDown j = s.cellDown j := (rfl)
@[simp] theorem State.tickFree_dieDown (j : Nat) : (s.tickFree).dieDown j = s.dieDown j := (rfl)

/-! ### Writing a field -/

@[simp] theorem State.putF_pending (g : RF) (x : Nat) : (s.putF g x).pending = s.pending := (rfl)
@[simp] theorem State.putF_freeCtr (g : RF) (x : Nat) : (s.putF g x).freeCtr = s.freeCtr := (rfl)
@[simp] theorem State.putF_out (g : RF) (x : Nat) : (s.putF g x).out = s.out := (rfl)
@[simp] theorem State.putF_mtime (g : RF) (x : Nat) : (s.putF g x).mtime = s.mtime := (rfl)
@[simp] theorem State.putF_regsSlow (g : RF) (x : Nat) : (s.putF g x).regsSlow = s.regsSlow := (rfl)
@[simp] theorem State.putF_guards (g : RF) (x : Nat) : (s.putF g x).guards = s.guards := (rfl)
@[simp] theorem State.putF_recentW (g : RF) (x : Nat) : (s.putF g x).recentW = s.recentW := (rfl)
@[simp] theorem State.putF_jsram (g : RF) (x : Nat) : (s.putF g x).jsram = s.jsram := (rfl)
@[simp] theorem State.putF_jsramBad (g : RF) (x : Nat) : (s.putF g x).jsramBad = s.jsramBad := (rfl)
@[simp] theorem State.putF_mcs (g : RF) (x : Nat) : (s.putF g x).mcs = s.mcs := (rfl)
@[simp] theorem State.putF_rvs (g : RF) (x : Nat) : (s.putF g x).rvs = s.rvs := (rfl)
@[simp] theorem State.putF_rooms (g : RF) (x : Nat) : (s.putF g x).rooms = s.rooms := (rfl)
@[simp] theorem State.putF_hbm (g : RF) (x : Nat) : (s.putF g x).hbm = s.hbm := (rfl)
@[simp] theorem State.putF_mmu (g : RF) (x : Nat) : (s.putF g x).mmu = s.mmu := (rfl)
@[simp] theorem State.putF_dma (g : RF) (x : Nat) : (s.putF g x).dma = s.dma := (rfl)
@[simp] theorem State.putF_sync (g : RF) (x : Nat) : (s.putF g x).sync = s.sync := (rfl)
@[simp] theorem State.putF_mesh (g : RF) (x : Nat) : (s.putF g x).mesh = s.mesh := (rfl)
@[simp] theorem State.putF_ports (g : RF) (x : Nat) : (s.putF g x).ports = s.ports := (rfl)
@[simp] theorem State.putF_fabric (g : RF) (x : Nat) : (s.putF g x).fabric = s.fabric := (rfl)
@[simp] theorem State.putF_reds (g : RF) (x : Nat) : (s.putF g x).reds = s.reds := (rfl)
@[simp] theorem State.putF_cellar (g : RF) (x : Nat) : (s.putF g x).cellar = s.cellar := (rfl)
@[simp] theorem State.putF_host (g : RF) (x : Nat) : (s.putF g x).host = s.host := (rfl)
@[simp] theorem State.putF_parts (g : RF) (x : Nat) : (s.putF g x).parts = s.parts := (rfl)
@[simp] theorem State.putF_service (g : RF) (x : Nat) : (s.putF g x).service = s.service := (rfl)
@[simp] theorem State.putF_irq (g : RF) (x : Nat) : (s.putF g x).irq = s.irq := (rfl)
@[simp] theorem State.putF_power (g : RF) (x : Nat) : (s.putF g x).power = s.power := (rfl)
@[simp] theorem State.putF_recovery (g : RF) (x : Nat) : (s.putF g x).recovery = s.recovery := (rfl)
@[simp] theorem State.putF_mgmt (g : RF) (x : Nat) : (s.putF g x).mgmt = s.mgmt := (rfl)
@[simp] theorem State.putF_slowReg (g : RF) (x : Nat) (j : Nat) : (s.putF g x).slowReg j = s.slowReg j := (rfl)
@[simp] theorem State.putF_mc (g : RF) (x : Nat) (j : Nat) : (s.putF g x).mc j = s.mc j := (rfl)
@[simp] theorem State.putF_rv (g : RF) (x : Nat) (j : Nat) : (s.putF g x).rv j = s.rv j := (rfl)
@[simp] theorem State.putF_room (g : RF) (x : Nat) (j : Nat) : (s.putF g x).room j = s.room j := (rfl)
@[simp] theorem State.putF_dmaOf (g : RF) (x : Nat) (j : Nat) : (s.putF g x).dmaOf j = s.dmaOf j := (rfl)
@[simp] theorem State.putF_syncOf (g : RF) (x : Nat) (j : Nat) : (s.putF g x).syncOf j = s.syncOf j := (rfl)
@[simp] theorem State.putF_port (g : RF) (x : Nat) (j : Nat) : (s.putF g x).port j = s.port j := (rfl)
@[simp] theorem State.putF_ce (g : RF) (x : Nat) (j : Nat) : (s.putF g x).ce j = s.ce j := (rfl)
@[simp] theorem State.putF_evts (g : RF) (x : Nat) (j : Nat) : (s.putF g x).evts j = s.evts j := (rfl)
@[simp] theorem State.putF_cellPart (g : RF) (x : Nat) (j : Nat) : (s.putF g x).cellPart j = s.cellPart j := (rfl)
@[simp] theorem State.putF_granPart (g : RF) (x : Nat) (j : Nat) : (s.putF g x).granPart j = s.granPart j := (rfl)
@[simp] theorem State.putF_ringPart (g : RF) (x : Nat) (j : Nat) : (s.putF g x).ringPart j = s.ringPart j := (rfl)
@[simp] theorem State.putF_dmaQ (g : RF) (x : Nat) (j q : Nat) : (s.putF g x).dmaQ j q = s.dmaQ j q := (rfl)
@[simp] theorem State.putF_cellDown (g : RF) (x : Nat) (j : Nat) : (s.putF g x).cellDown j = s.cellDown j := (rfl)
@[simp] theorem State.putF_dieDown (g : RF) (x : Nat) (j : Nat) : (s.putF g x).dieDown j = s.dieDown j := (rfl)

/-! ### Writing a count -/

@[simp] theorem State.addF_pending (g : RF) (x : Nat) : (s.addF g x).pending = s.pending := (rfl)
@[simp] theorem State.addF_freeCtr (g : RF) (x : Nat) : (s.addF g x).freeCtr = s.freeCtr := (rfl)
@[simp] theorem State.addF_out (g : RF) (x : Nat) : (s.addF g x).out = s.out := (rfl)
@[simp] theorem State.addF_mtime (g : RF) (x : Nat) : (s.addF g x).mtime = s.mtime := (rfl)
@[simp] theorem State.addF_regsSlow (g : RF) (x : Nat) : (s.addF g x).regsSlow = s.regsSlow := (rfl)
@[simp] theorem State.addF_guards (g : RF) (x : Nat) : (s.addF g x).guards = s.guards := (rfl)
@[simp] theorem State.addF_recentW (g : RF) (x : Nat) : (s.addF g x).recentW = s.recentW := (rfl)
@[simp] theorem State.addF_jsram (g : RF) (x : Nat) : (s.addF g x).jsram = s.jsram := (rfl)
@[simp] theorem State.addF_jsramBad (g : RF) (x : Nat) : (s.addF g x).jsramBad = s.jsramBad := (rfl)
@[simp] theorem State.addF_mcs (g : RF) (x : Nat) : (s.addF g x).mcs = s.mcs := (rfl)
@[simp] theorem State.addF_rvs (g : RF) (x : Nat) : (s.addF g x).rvs = s.rvs := (rfl)
@[simp] theorem State.addF_rooms (g : RF) (x : Nat) : (s.addF g x).rooms = s.rooms := (rfl)
@[simp] theorem State.addF_hbm (g : RF) (x : Nat) : (s.addF g x).hbm = s.hbm := (rfl)
@[simp] theorem State.addF_mmu (g : RF) (x : Nat) : (s.addF g x).mmu = s.mmu := (rfl)
@[simp] theorem State.addF_dma (g : RF) (x : Nat) : (s.addF g x).dma = s.dma := (rfl)
@[simp] theorem State.addF_sync (g : RF) (x : Nat) : (s.addF g x).sync = s.sync := (rfl)
@[simp] theorem State.addF_mesh (g : RF) (x : Nat) : (s.addF g x).mesh = s.mesh := (rfl)
@[simp] theorem State.addF_ports (g : RF) (x : Nat) : (s.addF g x).ports = s.ports := (rfl)
@[simp] theorem State.addF_fabric (g : RF) (x : Nat) : (s.addF g x).fabric = s.fabric := (rfl)
@[simp] theorem State.addF_reds (g : RF) (x : Nat) : (s.addF g x).reds = s.reds := (rfl)
@[simp] theorem State.addF_cellar (g : RF) (x : Nat) : (s.addF g x).cellar = s.cellar := (rfl)
@[simp] theorem State.addF_host (g : RF) (x : Nat) : (s.addF g x).host = s.host := (rfl)
@[simp] theorem State.addF_parts (g : RF) (x : Nat) : (s.addF g x).parts = s.parts := (rfl)
@[simp] theorem State.addF_service (g : RF) (x : Nat) : (s.addF g x).service = s.service := (rfl)
@[simp] theorem State.addF_irq (g : RF) (x : Nat) : (s.addF g x).irq = s.irq := (rfl)
@[simp] theorem State.addF_power (g : RF) (x : Nat) : (s.addF g x).power = s.power := (rfl)
@[simp] theorem State.addF_recovery (g : RF) (x : Nat) : (s.addF g x).recovery = s.recovery := (rfl)
@[simp] theorem State.addF_mgmt (g : RF) (x : Nat) : (s.addF g x).mgmt = s.mgmt := (rfl)
@[simp] theorem State.addF_slowReg (g : RF) (x : Nat) (j : Nat) : (s.addF g x).slowReg j = s.slowReg j := (rfl)
@[simp] theorem State.addF_mc (g : RF) (x : Nat) (j : Nat) : (s.addF g x).mc j = s.mc j := (rfl)
@[simp] theorem State.addF_rv (g : RF) (x : Nat) (j : Nat) : (s.addF g x).rv j = s.rv j := (rfl)
@[simp] theorem State.addF_room (g : RF) (x : Nat) (j : Nat) : (s.addF g x).room j = s.room j := (rfl)
@[simp] theorem State.addF_dmaOf (g : RF) (x : Nat) (j : Nat) : (s.addF g x).dmaOf j = s.dmaOf j := (rfl)
@[simp] theorem State.addF_syncOf (g : RF) (x : Nat) (j : Nat) : (s.addF g x).syncOf j = s.syncOf j := (rfl)
@[simp] theorem State.addF_port (g : RF) (x : Nat) (j : Nat) : (s.addF g x).port j = s.port j := (rfl)
@[simp] theorem State.addF_ce (g : RF) (x : Nat) (j : Nat) : (s.addF g x).ce j = s.ce j := (rfl)
@[simp] theorem State.addF_evts (g : RF) (x : Nat) (j : Nat) : (s.addF g x).evts j = s.evts j := (rfl)
@[simp] theorem State.addF_cellPart (g : RF) (x : Nat) (j : Nat) : (s.addF g x).cellPart j = s.cellPart j := (rfl)
@[simp] theorem State.addF_granPart (g : RF) (x : Nat) (j : Nat) : (s.addF g x).granPart j = s.granPart j := (rfl)
@[simp] theorem State.addF_ringPart (g : RF) (x : Nat) (j : Nat) : (s.addF g x).ringPart j = s.ringPart j := (rfl)
@[simp] theorem State.addF_dmaQ (g : RF) (x : Nat) (j q : Nat) : (s.addF g x).dmaQ j q = s.dmaQ j q := (rfl)
@[simp] theorem State.addF_cellDown (g : RF) (x : Nat) (j : Nat) : (s.addF g x).cellDown j = s.cellDown j := (rfl)
@[simp] theorem State.addF_dieDown (g : RF) (x : Nat) (j : Nat) : (s.addF g x).dieDown j = s.dieDown j := (rfl)

/-! ### Writing a one-bit field -/

@[simp] theorem State.putB_pending (g : RF) (b : Bool) : (s.putB g b).pending = s.pending := (rfl)
@[simp] theorem State.putB_freeCtr (g : RF) (b : Bool) : (s.putB g b).freeCtr = s.freeCtr := (rfl)
@[simp] theorem State.putB_out (g : RF) (b : Bool) : (s.putB g b).out = s.out := (rfl)
@[simp] theorem State.putB_mtime (g : RF) (b : Bool) : (s.putB g b).mtime = s.mtime := (rfl)
@[simp] theorem State.putB_regsSlow (g : RF) (b : Bool) : (s.putB g b).regsSlow = s.regsSlow := (rfl)
@[simp] theorem State.putB_guards (g : RF) (b : Bool) : (s.putB g b).guards = s.guards := (rfl)
@[simp] theorem State.putB_recentW (g : RF) (b : Bool) : (s.putB g b).recentW = s.recentW := (rfl)
@[simp] theorem State.putB_jsram (g : RF) (b : Bool) : (s.putB g b).jsram = s.jsram := (rfl)
@[simp] theorem State.putB_jsramBad (g : RF) (b : Bool) : (s.putB g b).jsramBad = s.jsramBad := (rfl)
@[simp] theorem State.putB_mcs (g : RF) (b : Bool) : (s.putB g b).mcs = s.mcs := (rfl)
@[simp] theorem State.putB_rvs (g : RF) (b : Bool) : (s.putB g b).rvs = s.rvs := (rfl)
@[simp] theorem State.putB_rooms (g : RF) (b : Bool) : (s.putB g b).rooms = s.rooms := (rfl)
@[simp] theorem State.putB_hbm (g : RF) (b : Bool) : (s.putB g b).hbm = s.hbm := (rfl)
@[simp] theorem State.putB_mmu (g : RF) (b : Bool) : (s.putB g b).mmu = s.mmu := (rfl)
@[simp] theorem State.putB_dma (g : RF) (b : Bool) : (s.putB g b).dma = s.dma := (rfl)
@[simp] theorem State.putB_sync (g : RF) (b : Bool) : (s.putB g b).sync = s.sync := (rfl)
@[simp] theorem State.putB_mesh (g : RF) (b : Bool) : (s.putB g b).mesh = s.mesh := (rfl)
@[simp] theorem State.putB_ports (g : RF) (b : Bool) : (s.putB g b).ports = s.ports := (rfl)
@[simp] theorem State.putB_fabric (g : RF) (b : Bool) : (s.putB g b).fabric = s.fabric := (rfl)
@[simp] theorem State.putB_reds (g : RF) (b : Bool) : (s.putB g b).reds = s.reds := (rfl)
@[simp] theorem State.putB_cellar (g : RF) (b : Bool) : (s.putB g b).cellar = s.cellar := (rfl)
@[simp] theorem State.putB_host (g : RF) (b : Bool) : (s.putB g b).host = s.host := (rfl)
@[simp] theorem State.putB_parts (g : RF) (b : Bool) : (s.putB g b).parts = s.parts := (rfl)
@[simp] theorem State.putB_service (g : RF) (b : Bool) : (s.putB g b).service = s.service := (rfl)
@[simp] theorem State.putB_irq (g : RF) (b : Bool) : (s.putB g b).irq = s.irq := (rfl)
@[simp] theorem State.putB_power (g : RF) (b : Bool) : (s.putB g b).power = s.power := (rfl)
@[simp] theorem State.putB_recovery (g : RF) (b : Bool) : (s.putB g b).recovery = s.recovery := (rfl)
@[simp] theorem State.putB_mgmt (g : RF) (b : Bool) : (s.putB g b).mgmt = s.mgmt := (rfl)
@[simp] theorem State.putB_slowReg (g : RF) (b : Bool) (j : Nat) : (s.putB g b).slowReg j = s.slowReg j := (rfl)
@[simp] theorem State.putB_mc (g : RF) (b : Bool) (j : Nat) : (s.putB g b).mc j = s.mc j := (rfl)
@[simp] theorem State.putB_rv (g : RF) (b : Bool) (j : Nat) : (s.putB g b).rv j = s.rv j := (rfl)
@[simp] theorem State.putB_room (g : RF) (b : Bool) (j : Nat) : (s.putB g b).room j = s.room j := (rfl)
@[simp] theorem State.putB_dmaOf (g : RF) (b : Bool) (j : Nat) : (s.putB g b).dmaOf j = s.dmaOf j := (rfl)
@[simp] theorem State.putB_syncOf (g : RF) (b : Bool) (j : Nat) : (s.putB g b).syncOf j = s.syncOf j := (rfl)
@[simp] theorem State.putB_port (g : RF) (b : Bool) (j : Nat) : (s.putB g b).port j = s.port j := (rfl)
@[simp] theorem State.putB_ce (g : RF) (b : Bool) (j : Nat) : (s.putB g b).ce j = s.ce j := (rfl)
@[simp] theorem State.putB_evts (g : RF) (b : Bool) (j : Nat) : (s.putB g b).evts j = s.evts j := (rfl)
@[simp] theorem State.putB_cellPart (g : RF) (b : Bool) (j : Nat) : (s.putB g b).cellPart j = s.cellPart j := (rfl)
@[simp] theorem State.putB_granPart (g : RF) (b : Bool) (j : Nat) : (s.putB g b).granPart j = s.granPart j := (rfl)
@[simp] theorem State.putB_ringPart (g : RF) (b : Bool) (j : Nat) : (s.putB g b).ringPart j = s.ringPart j := (rfl)
@[simp] theorem State.putB_dmaQ (g : RF) (b : Bool) (j q : Nat) : (s.putB g b).dmaQ j q = s.dmaQ j q := (rfl)
@[simp] theorem State.putB_cellDown (g : RF) (b : Bool) (j : Nat) : (s.putB g b).cellDown j = s.cellDown j := (rfl)
@[simp] theorem State.putB_dieDown (g : RF) (b : Bool) (j : Nat) : (s.putB g b).dieDown j = s.dieDown j := (rfl)

/-! ### Writing a matrix core by a function -/

@[simp] theorem State.updMc_pending (n : Nat) (g : McState → McState) : (s.updMc n g).pending = s.pending := (rfl)
@[simp] theorem State.updMc_freeCtr (n : Nat) (g : McState → McState) : (s.updMc n g).freeCtr = s.freeCtr := (rfl)
@[simp] theorem State.updMc_out (n : Nat) (g : McState → McState) : (s.updMc n g).out = s.out := (rfl)
@[simp] theorem State.updMc_mtime (n : Nat) (g : McState → McState) : (s.updMc n g).mtime = s.mtime := (rfl)
@[simp] theorem State.updMc_regs (n : Nat) (g : McState → McState) : (s.updMc n g).regs = s.regs := (rfl)
@[simp] theorem State.updMc_regsSlow (n : Nat) (g : McState → McState) : (s.updMc n g).regsSlow = s.regsSlow := (rfl)
@[simp] theorem State.updMc_guards (n : Nat) (g : McState → McState) : (s.updMc n g).guards = s.guards := (rfl)
@[simp] theorem State.updMc_recentW (n : Nat) (g : McState → McState) : (s.updMc n g).recentW = s.recentW := (rfl)
@[simp] theorem State.updMc_jsram (n : Nat) (g : McState → McState) : (s.updMc n g).jsram = s.jsram := (rfl)
@[simp] theorem State.updMc_jsramBad (n : Nat) (g : McState → McState) : (s.updMc n g).jsramBad = s.jsramBad := (rfl)
@[simp] theorem State.updMc_rvs (n : Nat) (g : McState → McState) : (s.updMc n g).rvs = s.rvs := (rfl)
@[simp] theorem State.updMc_rooms (n : Nat) (g : McState → McState) : (s.updMc n g).rooms = s.rooms := (rfl)
@[simp] theorem State.updMc_hbm (n : Nat) (g : McState → McState) : (s.updMc n g).hbm = s.hbm := (rfl)
@[simp] theorem State.updMc_mmu (n : Nat) (g : McState → McState) : (s.updMc n g).mmu = s.mmu := (rfl)
@[simp] theorem State.updMc_dma (n : Nat) (g : McState → McState) : (s.updMc n g).dma = s.dma := (rfl)
@[simp] theorem State.updMc_sync (n : Nat) (g : McState → McState) : (s.updMc n g).sync = s.sync := (rfl)
@[simp] theorem State.updMc_mesh (n : Nat) (g : McState → McState) : (s.updMc n g).mesh = s.mesh := (rfl)
@[simp] theorem State.updMc_ports (n : Nat) (g : McState → McState) : (s.updMc n g).ports = s.ports := (rfl)
@[simp] theorem State.updMc_fabric (n : Nat) (g : McState → McState) : (s.updMc n g).fabric = s.fabric := (rfl)
@[simp] theorem State.updMc_reds (n : Nat) (g : McState → McState) : (s.updMc n g).reds = s.reds := (rfl)
@[simp] theorem State.updMc_cellar (n : Nat) (g : McState → McState) : (s.updMc n g).cellar = s.cellar := (rfl)
@[simp] theorem State.updMc_host (n : Nat) (g : McState → McState) : (s.updMc n g).host = s.host := (rfl)
@[simp] theorem State.updMc_parts (n : Nat) (g : McState → McState) : (s.updMc n g).parts = s.parts := (rfl)
@[simp] theorem State.updMc_service (n : Nat) (g : McState → McState) : (s.updMc n g).service = s.service := (rfl)
@[simp] theorem State.updMc_irq (n : Nat) (g : McState → McState) : (s.updMc n g).irq = s.irq := (rfl)
@[simp] theorem State.updMc_power (n : Nat) (g : McState → McState) : (s.updMc n g).power = s.power := (rfl)
@[simp] theorem State.updMc_recovery (n : Nat) (g : McState → McState) : (s.updMc n g).recovery = s.recovery := (rfl)
@[simp] theorem State.updMc_mgmt (n : Nat) (g : McState → McState) : (s.updMc n g).mgmt = s.mgmt := (rfl)
@[simp] theorem State.updMc_reg (n : Nat) (g : McState → McState) (j : Nat) : (s.updMc n g).reg j = s.reg j := (rfl)
@[simp] theorem State.updMc_slowReg (n : Nat) (g : McState → McState) (j : Nat) : (s.updMc n g).slowReg j = s.slowReg j := (rfl)
@[simp] theorem State.updMc_rv (n : Nat) (g : McState → McState) (j : Nat) : (s.updMc n g).rv j = s.rv j := (rfl)
@[simp] theorem State.updMc_room (n : Nat) (g : McState → McState) (j : Nat) : (s.updMc n g).room j = s.room j := (rfl)
@[simp] theorem State.updMc_dmaOf (n : Nat) (g : McState → McState) (j : Nat) : (s.updMc n g).dmaOf j = s.dmaOf j := (rfl)
@[simp] theorem State.updMc_syncOf (n : Nat) (g : McState → McState) (j : Nat) : (s.updMc n g).syncOf j = s.syncOf j := (rfl)
@[simp] theorem State.updMc_port (n : Nat) (g : McState → McState) (j : Nat) : (s.updMc n g).port j = s.port j := (rfl)
@[simp] theorem State.updMc_ce (n : Nat) (g : McState → McState) (j : Nat) : (s.updMc n g).ce j = s.ce j := (rfl)
@[simp] theorem State.updMc_evts (n : Nat) (g : McState → McState) (j : Nat) : (s.updMc n g).evts j = s.evts j := (rfl)
@[simp] theorem State.updMc_cellPart (n : Nat) (g : McState → McState) (j : Nat) : (s.updMc n g).cellPart j = s.cellPart j := (rfl)
@[simp] theorem State.updMc_granPart (n : Nat) (g : McState → McState) (j : Nat) : (s.updMc n g).granPart j = s.granPart j := (rfl)
@[simp] theorem State.updMc_ringPart (n : Nat) (g : McState → McState) (j : Nat) : (s.updMc n g).ringPart j = s.ringPart j := (rfl)
@[simp] theorem State.updMc_getF (n : Nat) (g : McState → McState) (f : RF) : (s.updMc n g).getF f = s.getF f := (rfl)
@[simp] theorem State.updMc_getB (n : Nat) (g : McState → McState) (f : RF) : (s.updMc n g).getB f = s.getB f := (rfl)
@[simp] theorem State.updMc_dmaQ (n : Nat) (g : McState → McState) (j q : Nat) : (s.updMc n g).dmaQ j q = s.dmaQ j q := (rfl)
@[simp] theorem State.updMc_cellDown (n : Nat) (g : McState → McState) (j : Nat) : (s.updMc n g).cellDown j = s.cellDown j := (rfl)
@[simp] theorem State.updMc_dieDown (n : Nat) (g : McState → McState) (j : Nat) : (s.updMc n g).dieDown j = s.dieDown j := (rfl)

/-! ### Writing a RISC-V core by a function -/

@[simp] theorem State.updRv_pending (n : Nat) (g : RvState → RvState) : (s.updRv n g).pending = s.pending := (rfl)
@[simp] theorem State.updRv_freeCtr (n : Nat) (g : RvState → RvState) : (s.updRv n g).freeCtr = s.freeCtr := (rfl)
@[simp] theorem State.updRv_out (n : Nat) (g : RvState → RvState) : (s.updRv n g).out = s.out := (rfl)
@[simp] theorem State.updRv_mtime (n : Nat) (g : RvState → RvState) : (s.updRv n g).mtime = s.mtime := (rfl)
@[simp] theorem State.updRv_regs (n : Nat) (g : RvState → RvState) : (s.updRv n g).regs = s.regs := (rfl)
@[simp] theorem State.updRv_regsSlow (n : Nat) (g : RvState → RvState) : (s.updRv n g).regsSlow = s.regsSlow := (rfl)
@[simp] theorem State.updRv_guards (n : Nat) (g : RvState → RvState) : (s.updRv n g).guards = s.guards := (rfl)
@[simp] theorem State.updRv_recentW (n : Nat) (g : RvState → RvState) : (s.updRv n g).recentW = s.recentW := (rfl)
@[simp] theorem State.updRv_jsram (n : Nat) (g : RvState → RvState) : (s.updRv n g).jsram = s.jsram := (rfl)
@[simp] theorem State.updRv_jsramBad (n : Nat) (g : RvState → RvState) : (s.updRv n g).jsramBad = s.jsramBad := (rfl)
@[simp] theorem State.updRv_mcs (n : Nat) (g : RvState → RvState) : (s.updRv n g).mcs = s.mcs := (rfl)
@[simp] theorem State.updRv_rooms (n : Nat) (g : RvState → RvState) : (s.updRv n g).rooms = s.rooms := (rfl)
@[simp] theorem State.updRv_hbm (n : Nat) (g : RvState → RvState) : (s.updRv n g).hbm = s.hbm := (rfl)
@[simp] theorem State.updRv_mmu (n : Nat) (g : RvState → RvState) : (s.updRv n g).mmu = s.mmu := (rfl)
@[simp] theorem State.updRv_dma (n : Nat) (g : RvState → RvState) : (s.updRv n g).dma = s.dma := (rfl)
@[simp] theorem State.updRv_sync (n : Nat) (g : RvState → RvState) : (s.updRv n g).sync = s.sync := (rfl)
@[simp] theorem State.updRv_mesh (n : Nat) (g : RvState → RvState) : (s.updRv n g).mesh = s.mesh := (rfl)
@[simp] theorem State.updRv_ports (n : Nat) (g : RvState → RvState) : (s.updRv n g).ports = s.ports := (rfl)
@[simp] theorem State.updRv_fabric (n : Nat) (g : RvState → RvState) : (s.updRv n g).fabric = s.fabric := (rfl)
@[simp] theorem State.updRv_reds (n : Nat) (g : RvState → RvState) : (s.updRv n g).reds = s.reds := (rfl)
@[simp] theorem State.updRv_cellar (n : Nat) (g : RvState → RvState) : (s.updRv n g).cellar = s.cellar := (rfl)
@[simp] theorem State.updRv_host (n : Nat) (g : RvState → RvState) : (s.updRv n g).host = s.host := (rfl)
@[simp] theorem State.updRv_parts (n : Nat) (g : RvState → RvState) : (s.updRv n g).parts = s.parts := (rfl)
@[simp] theorem State.updRv_service (n : Nat) (g : RvState → RvState) : (s.updRv n g).service = s.service := (rfl)
@[simp] theorem State.updRv_irq (n : Nat) (g : RvState → RvState) : (s.updRv n g).irq = s.irq := (rfl)
@[simp] theorem State.updRv_power (n : Nat) (g : RvState → RvState) : (s.updRv n g).power = s.power := (rfl)
@[simp] theorem State.updRv_recovery (n : Nat) (g : RvState → RvState) : (s.updRv n g).recovery = s.recovery := (rfl)
@[simp] theorem State.updRv_mgmt (n : Nat) (g : RvState → RvState) : (s.updRv n g).mgmt = s.mgmt := (rfl)
@[simp] theorem State.updRv_reg (n : Nat) (g : RvState → RvState) (j : Nat) : (s.updRv n g).reg j = s.reg j := (rfl)
@[simp] theorem State.updRv_slowReg (n : Nat) (g : RvState → RvState) (j : Nat) : (s.updRv n g).slowReg j = s.slowReg j := (rfl)
@[simp] theorem State.updRv_mc (n : Nat) (g : RvState → RvState) (j : Nat) : (s.updRv n g).mc j = s.mc j := (rfl)
@[simp] theorem State.updRv_room (n : Nat) (g : RvState → RvState) (j : Nat) : (s.updRv n g).room j = s.room j := (rfl)
@[simp] theorem State.updRv_dmaOf (n : Nat) (g : RvState → RvState) (j : Nat) : (s.updRv n g).dmaOf j = s.dmaOf j := (rfl)
@[simp] theorem State.updRv_syncOf (n : Nat) (g : RvState → RvState) (j : Nat) : (s.updRv n g).syncOf j = s.syncOf j := (rfl)
@[simp] theorem State.updRv_port (n : Nat) (g : RvState → RvState) (j : Nat) : (s.updRv n g).port j = s.port j := (rfl)
@[simp] theorem State.updRv_ce (n : Nat) (g : RvState → RvState) (j : Nat) : (s.updRv n g).ce j = s.ce j := (rfl)
@[simp] theorem State.updRv_evts (n : Nat) (g : RvState → RvState) (j : Nat) : (s.updRv n g).evts j = s.evts j := (rfl)
@[simp] theorem State.updRv_cellPart (n : Nat) (g : RvState → RvState) (j : Nat) : (s.updRv n g).cellPart j = s.cellPart j := (rfl)
@[simp] theorem State.updRv_granPart (n : Nat) (g : RvState → RvState) (j : Nat) : (s.updRv n g).granPart j = s.granPart j := (rfl)
@[simp] theorem State.updRv_ringPart (n : Nat) (g : RvState → RvState) (j : Nat) : (s.updRv n g).ringPart j = s.ringPart j := (rfl)
@[simp] theorem State.updRv_getF (n : Nat) (g : RvState → RvState) (f : RF) : (s.updRv n g).getF f = s.getF f := (rfl)
@[simp] theorem State.updRv_getB (n : Nat) (g : RvState → RvState) (f : RF) : (s.updRv n g).getB f = s.getB f := (rfl)
@[simp] theorem State.updRv_dmaQ (n : Nat) (g : RvState → RvState) (j q : Nat) : (s.updRv n g).dmaQ j q = s.dmaQ j q := (rfl)
@[simp] theorem State.updRv_cellDown (n : Nat) (g : RvState → RvState) (j : Nat) : (s.updRv n g).cellDown j = s.cellDown j := (rfl)
@[simp] theorem State.updRv_dieDown (n : Nat) (g : RvState → RvState) (j : Nat) : (s.updRv n g).dieDown j = s.dieDown j := (rfl)

/-! ### Writing a port by a function -/

@[simp] theorem State.updPort_pending (n : Nat) (g : PortState → PortState) : (s.updPort n g).pending = s.pending := (rfl)
@[simp] theorem State.updPort_freeCtr (n : Nat) (g : PortState → PortState) : (s.updPort n g).freeCtr = s.freeCtr := (rfl)
@[simp] theorem State.updPort_out (n : Nat) (g : PortState → PortState) : (s.updPort n g).out = s.out := (rfl)
@[simp] theorem State.updPort_mtime (n : Nat) (g : PortState → PortState) : (s.updPort n g).mtime = s.mtime := (rfl)
@[simp] theorem State.updPort_regs (n : Nat) (g : PortState → PortState) : (s.updPort n g).regs = s.regs := (rfl)
@[simp] theorem State.updPort_regsSlow (n : Nat) (g : PortState → PortState) : (s.updPort n g).regsSlow = s.regsSlow := (rfl)
@[simp] theorem State.updPort_guards (n : Nat) (g : PortState → PortState) : (s.updPort n g).guards = s.guards := (rfl)
@[simp] theorem State.updPort_recentW (n : Nat) (g : PortState → PortState) : (s.updPort n g).recentW = s.recentW := (rfl)
@[simp] theorem State.updPort_jsram (n : Nat) (g : PortState → PortState) : (s.updPort n g).jsram = s.jsram := (rfl)
@[simp] theorem State.updPort_jsramBad (n : Nat) (g : PortState → PortState) : (s.updPort n g).jsramBad = s.jsramBad := (rfl)
@[simp] theorem State.updPort_mcs (n : Nat) (g : PortState → PortState) : (s.updPort n g).mcs = s.mcs := (rfl)
@[simp] theorem State.updPort_rvs (n : Nat) (g : PortState → PortState) : (s.updPort n g).rvs = s.rvs := (rfl)
@[simp] theorem State.updPort_rooms (n : Nat) (g : PortState → PortState) : (s.updPort n g).rooms = s.rooms := (rfl)
@[simp] theorem State.updPort_hbm (n : Nat) (g : PortState → PortState) : (s.updPort n g).hbm = s.hbm := (rfl)
@[simp] theorem State.updPort_mmu (n : Nat) (g : PortState → PortState) : (s.updPort n g).mmu = s.mmu := (rfl)
@[simp] theorem State.updPort_dma (n : Nat) (g : PortState → PortState) : (s.updPort n g).dma = s.dma := (rfl)
@[simp] theorem State.updPort_sync (n : Nat) (g : PortState → PortState) : (s.updPort n g).sync = s.sync := (rfl)
@[simp] theorem State.updPort_mesh (n : Nat) (g : PortState → PortState) : (s.updPort n g).mesh = s.mesh := (rfl)
@[simp] theorem State.updPort_fabric (n : Nat) (g : PortState → PortState) : (s.updPort n g).fabric = s.fabric := (rfl)
@[simp] theorem State.updPort_reds (n : Nat) (g : PortState → PortState) : (s.updPort n g).reds = s.reds := (rfl)
@[simp] theorem State.updPort_cellar (n : Nat) (g : PortState → PortState) : (s.updPort n g).cellar = s.cellar := (rfl)
@[simp] theorem State.updPort_host (n : Nat) (g : PortState → PortState) : (s.updPort n g).host = s.host := (rfl)
@[simp] theorem State.updPort_parts (n : Nat) (g : PortState → PortState) : (s.updPort n g).parts = s.parts := (rfl)
@[simp] theorem State.updPort_service (n : Nat) (g : PortState → PortState) : (s.updPort n g).service = s.service := (rfl)
@[simp] theorem State.updPort_irq (n : Nat) (g : PortState → PortState) : (s.updPort n g).irq = s.irq := (rfl)
@[simp] theorem State.updPort_power (n : Nat) (g : PortState → PortState) : (s.updPort n g).power = s.power := (rfl)
@[simp] theorem State.updPort_recovery (n : Nat) (g : PortState → PortState) : (s.updPort n g).recovery = s.recovery := (rfl)
@[simp] theorem State.updPort_mgmt (n : Nat) (g : PortState → PortState) : (s.updPort n g).mgmt = s.mgmt := (rfl)
@[simp] theorem State.updPort_reg (n : Nat) (g : PortState → PortState) (j : Nat) : (s.updPort n g).reg j = s.reg j := (rfl)
@[simp] theorem State.updPort_slowReg (n : Nat) (g : PortState → PortState) (j : Nat) : (s.updPort n g).slowReg j = s.slowReg j := (rfl)
@[simp] theorem State.updPort_mc (n : Nat) (g : PortState → PortState) (j : Nat) : (s.updPort n g).mc j = s.mc j := (rfl)
@[simp] theorem State.updPort_rv (n : Nat) (g : PortState → PortState) (j : Nat) : (s.updPort n g).rv j = s.rv j := (rfl)
@[simp] theorem State.updPort_room (n : Nat) (g : PortState → PortState) (j : Nat) : (s.updPort n g).room j = s.room j := (rfl)
@[simp] theorem State.updPort_dmaOf (n : Nat) (g : PortState → PortState) (j : Nat) : (s.updPort n g).dmaOf j = s.dmaOf j := (rfl)
@[simp] theorem State.updPort_syncOf (n : Nat) (g : PortState → PortState) (j : Nat) : (s.updPort n g).syncOf j = s.syncOf j := (rfl)
@[simp] theorem State.updPort_ce (n : Nat) (g : PortState → PortState) (j : Nat) : (s.updPort n g).ce j = s.ce j := (rfl)
@[simp] theorem State.updPort_evts (n : Nat) (g : PortState → PortState) (j : Nat) : (s.updPort n g).evts j = s.evts j := (rfl)
@[simp] theorem State.updPort_cellPart (n : Nat) (g : PortState → PortState) (j : Nat) : (s.updPort n g).cellPart j = s.cellPart j := (rfl)
@[simp] theorem State.updPort_granPart (n : Nat) (g : PortState → PortState) (j : Nat) : (s.updPort n g).granPart j = s.granPart j := (rfl)
@[simp] theorem State.updPort_ringPart (n : Nat) (g : PortState → PortState) (j : Nat) : (s.updPort n g).ringPart j = s.ringPart j := (rfl)
@[simp] theorem State.updPort_getF (n : Nat) (g : PortState → PortState) (f : RF) : (s.updPort n g).getF f = s.getF f := (rfl)
@[simp] theorem State.updPort_getB (n : Nat) (g : PortState → PortState) (f : RF) : (s.updPort n g).getB f = s.getB f := (rfl)
@[simp] theorem State.updPort_dmaQ (n : Nat) (g : PortState → PortState) (j q : Nat) : (s.updPort n g).dmaQ j q = s.dmaQ j q := (rfl)
@[simp] theorem State.updPort_cellDown (n : Nat) (g : PortState → PortState) (j : Nat) : (s.updPort n g).cellDown j = s.cellDown j := (rfl)
@[simp] theorem State.updPort_dieDown (n : Nat) (g : PortState → PortState) (j : Nat) : (s.updPort n g).dieDown j = s.dieDown j := (rfl)

/-! ### Writing a status flag -/

@[simp] theorem State.raiseAt_pending (h : FlagHome) : (s.raiseAt h).pending = s.pending := (rfl)
@[simp] theorem State.raiseAt_freeCtr (h : FlagHome) : (s.raiseAt h).freeCtr = s.freeCtr := (rfl)
@[simp] theorem State.raiseAt_out (h : FlagHome) : (s.raiseAt h).out = s.out := (rfl)
@[simp] theorem State.raiseAt_mtime (h : FlagHome) : (s.raiseAt h).mtime = s.mtime := (rfl)
@[simp] theorem State.raiseAt_regsSlow (h : FlagHome) : (s.raiseAt h).regsSlow = s.regsSlow := (rfl)
@[simp] theorem State.raiseAt_guards (h : FlagHome) : (s.raiseAt h).guards = s.guards := (rfl)
@[simp] theorem State.raiseAt_recentW (h : FlagHome) : (s.raiseAt h).recentW = s.recentW := (rfl)
@[simp] theorem State.raiseAt_jsram (h : FlagHome) : (s.raiseAt h).jsram = s.jsram := (rfl)
@[simp] theorem State.raiseAt_jsramBad (h : FlagHome) : (s.raiseAt h).jsramBad = s.jsramBad := (rfl)
@[simp] theorem State.raiseAt_mcs (h : FlagHome) : (s.raiseAt h).mcs = s.mcs := (rfl)
@[simp] theorem State.raiseAt_rvs (h : FlagHome) : (s.raiseAt h).rvs = s.rvs := (rfl)
@[simp] theorem State.raiseAt_rooms (h : FlagHome) : (s.raiseAt h).rooms = s.rooms := (rfl)
@[simp] theorem State.raiseAt_hbm (h : FlagHome) : (s.raiseAt h).hbm = s.hbm := (rfl)
@[simp] theorem State.raiseAt_mmu (h : FlagHome) : (s.raiseAt h).mmu = s.mmu := (rfl)
@[simp] theorem State.raiseAt_dma (h : FlagHome) : (s.raiseAt h).dma = s.dma := (rfl)
@[simp] theorem State.raiseAt_sync (h : FlagHome) : (s.raiseAt h).sync = s.sync := (rfl)
@[simp] theorem State.raiseAt_mesh (h : FlagHome) : (s.raiseAt h).mesh = s.mesh := (rfl)
@[simp] theorem State.raiseAt_ports (h : FlagHome) : (s.raiseAt h).ports = s.ports := (rfl)
@[simp] theorem State.raiseAt_fabric (h : FlagHome) : (s.raiseAt h).fabric = s.fabric := (rfl)
@[simp] theorem State.raiseAt_reds (h : FlagHome) : (s.raiseAt h).reds = s.reds := (rfl)
@[simp] theorem State.raiseAt_cellar (h : FlagHome) : (s.raiseAt h).cellar = s.cellar := (rfl)
@[simp] theorem State.raiseAt_host (h : FlagHome) : (s.raiseAt h).host = s.host := (rfl)
@[simp] theorem State.raiseAt_parts (h : FlagHome) : (s.raiseAt h).parts = s.parts := (rfl)
@[simp] theorem State.raiseAt_service (h : FlagHome) : (s.raiseAt h).service = s.service := (rfl)
@[simp] theorem State.raiseAt_power (h : FlagHome) : (s.raiseAt h).power = s.power := (rfl)
@[simp] theorem State.raiseAt_recovery (h : FlagHome) : (s.raiseAt h).recovery = s.recovery := (rfl)
@[simp] theorem State.raiseAt_mgmt (h : FlagHome) : (s.raiseAt h).mgmt = s.mgmt := (rfl)
@[simp] theorem State.raiseAt_slowReg (h : FlagHome) (j : Nat) : (s.raiseAt h).slowReg j = s.slowReg j := (rfl)
@[simp] theorem State.raiseAt_mc (h : FlagHome) (j : Nat) : (s.raiseAt h).mc j = s.mc j := (rfl)
@[simp] theorem State.raiseAt_rv (h : FlagHome) (j : Nat) : (s.raiseAt h).rv j = s.rv j := (rfl)
@[simp] theorem State.raiseAt_room (h : FlagHome) (j : Nat) : (s.raiseAt h).room j = s.room j := (rfl)
@[simp] theorem State.raiseAt_dmaOf (h : FlagHome) (j : Nat) : (s.raiseAt h).dmaOf j = s.dmaOf j := (rfl)
@[simp] theorem State.raiseAt_syncOf (h : FlagHome) (j : Nat) : (s.raiseAt h).syncOf j = s.syncOf j := (rfl)
@[simp] theorem State.raiseAt_port (h : FlagHome) (j : Nat) : (s.raiseAt h).port j = s.port j := (rfl)
@[simp] theorem State.raiseAt_ce (h : FlagHome) (j : Nat) : (s.raiseAt h).ce j = s.ce j := (rfl)
@[simp] theorem State.raiseAt_evts (h : FlagHome) (j : Nat) : (s.raiseAt h).evts j = s.evts j := (rfl)
@[simp] theorem State.raiseAt_cellPart (h : FlagHome) (j : Nat) : (s.raiseAt h).cellPart j = s.cellPart j := (rfl)
@[simp] theorem State.raiseAt_granPart (h : FlagHome) (j : Nat) : (s.raiseAt h).granPart j = s.granPart j := (rfl)
@[simp] theorem State.raiseAt_ringPart (h : FlagHome) (j : Nat) : (s.raiseAt h).ringPart j = s.ringPart j := (rfl)
@[simp] theorem State.raiseAt_dmaQ (h : FlagHome) (j q : Nat) : (s.raiseAt h).dmaQ j q = s.dmaQ j q := (rfl)
@[simp] theorem State.raiseAt_cellDown (h : FlagHome) (j : Nat) : (s.raiseAt h).cellDown j = s.cellDown j := (rfl)
@[simp] theorem State.raiseAt_dieDown (h : FlagHome) (j : Nat) : (s.raiseAt h).dieDown j = s.dieDown j := (rfl)

/-! ### Reads after writes -/

/-- A register after a write of one. -/
theorem State.setReg_reg (k j : Nat) (v : Word) : (s.setReg k v).reg j = if j = k then v else s.reg j :=
  mgetF_msetF _ _ _ _ _

/-- A register after the reset of one. -/
theorem State.resetReg_reg (k j : Nat) : (s.resetReg k).reg j = if j = k then regReset k else s.reg j := mgetF_mdel _ _ _ _

@[simp] theorem State.setReg_reg_same (k : Nat) (v : Word) : (s.setReg k v).reg k = v := by simp [State.setReg_reg]

theorem State.setReg_reg_ne (k j : Nat) (v : Word) (h : j ≠ k) : (s.setReg k v).reg j = s.reg j := by
  simp [State.setReg_reg, h]

/-- A field after a write of another register. -/
theorem State.setReg_getF_ne (k : Nat) (v : Word) (f : RF) (h : f.key ≠ k) : (s.setReg k v).getF f = s.getF f := by
  simp [State.getF, State.setReg_reg, h]

/-- A field after a write of its register. -/
@[simp] theorem State.setReg_getF_same (lo len k : Nat) (v : Word) : (s.setReg k v).getF ⟨k, lo, len⟩ = fld v lo len := by
  simp [State.getF]


theorem State.setMc_mc (n j : Nat) (x : McState) : (s.setMc n x).mc j = if j = n then x else s.mc j := mget_mset _ _ _ _ _

@[simp] theorem State.setMc_mc_same (n : Nat) (x : McState) : (s.setMc n x).mc n = x := by simp [State.setMc_mc]

theorem State.setMc_mc_ne (n j : Nat) (x : McState) (h : j ≠ n) : (s.setMc n x).mc j = s.mc j := by simp [State.setMc_mc, h]

theorem State.setRv_rv (n j : Nat) (x : RvState) : (s.setRv n x).rv j = if j = n then x else s.rv j := mget_mset _ _ _ _ _

@[simp] theorem State.setRv_rv_same (n : Nat) (x : RvState) : (s.setRv n x).rv n = x := by simp [State.setRv_rv]

theorem State.setRv_rv_ne (n j : Nat) (x : RvState) (h : j ≠ n) : (s.setRv n x).rv j = s.rv j := by simp [State.setRv_rv, h]

theorem State.setRoom_room (n j : Nat) (x : RoomState) : (s.setRoom n x).room j = if j = n then x else s.room j := mget_mset _ _ _ _ _

@[simp] theorem State.setRoom_room_same (n : Nat) (x : RoomState) : (s.setRoom n x).room n = x := by simp [State.setRoom_room]

theorem State.setRoom_room_ne (n j : Nat) (x : RoomState) (h : j ≠ n) : (s.setRoom n x).room j = s.room j := by simp [State.setRoom_room, h]

theorem State.setDma_dmaOf (n j : Nat) (x : DmaState) : (s.setDma n x).dmaOf j = if j = n then x else s.dmaOf j := mget_mset _ _ _ _ _

@[simp] theorem State.setDma_dmaOf_same (n : Nat) (x : DmaState) : (s.setDma n x).dmaOf n = x := by simp [State.setDma_dmaOf]

theorem State.setDma_dmaOf_ne (n j : Nat) (x : DmaState) (h : j ≠ n) : (s.setDma n x).dmaOf j = s.dmaOf j := by simp [State.setDma_dmaOf, h]

theorem State.setPort_port (n j : Nat) (x : PortState) : (s.setPort n x).port j = if j = n then x else s.port j := mget_mset _ _ _ _ _

@[simp] theorem State.setPort_port_same (n : Nat) (x : PortState) : (s.setPort n x).port n = x := by simp [State.setPort_port]

theorem State.setPort_port_ne (n j : Nat) (x : PortState) (h : j ≠ n) : (s.setPort n x).port j = s.port j := by simp [State.setPort_port, h]

theorem State.setSync_syncOf (n j : Nat) (x : SyncCore) : (s.setSync n x).syncOf j = if j = n then x else s.syncOf j := mget_mset _ _ _ _ _

@[simp] theorem State.setSync_syncOf_same (n : Nat) (x : SyncCore) : (s.setSync n x).syncOf n = x := by simp [State.setSync_syncOf]

theorem State.setSync_syncOf_ne (n j : Nat) (x : SyncCore) (h : j ≠ n) : (s.setSync n x).syncOf j = s.syncOf j := by simp [State.setSync_syncOf, h]

theorem State.setCe_ce (n j : Nat) (x : CeState) : (s.setCe n x).ce j = if j = n then x else s.ce j := mget_mset _ _ _ _ _

@[simp] theorem State.setCe_ce_same (n : Nat) (x : CeState) : (s.setCe n x).ce n = x := by simp [State.setCe_ce]

theorem State.setCe_ce_ne (n j : Nat) (x : CeState) (h : j ≠ n) : (s.setCe n x).ce j = s.ce j := by simp [State.setCe_ce, h]

theorem State.setEvts_evts (n j : Nat) (x : PartEvents) : (s.setEvts n x).evts j = if j = n then x else s.evts j := mget_mset _ _ _ _ _

@[simp] theorem State.setEvts_evts_same (n : Nat) (x : PartEvents) : (s.setEvts n x).evts n = x := by simp [State.setEvts_evts]

theorem State.setEvts_evts_ne (n j : Nat) (x : PartEvents) (h : j ≠ n) : (s.setEvts n x).evts j = s.evts j := by simp [State.setEvts_evts, h]

@[simp] theorem State.updMc_mc_same (n : Nat) (f : McState → McState) : (s.updMc n f).mc n = f (s.mc n) := by simp [State.updMc]

theorem State.updMc_mc_ne (n j : Nat) (f : McState → McState) (h : j ≠ n) : (s.updMc n f).mc j = s.mc j := by
  simp [State.updMc, State.setMc_mc, h]

@[simp] theorem State.updRv_rv_same (n : Nat) (f : RvState → RvState) : (s.updRv n f).rv n = f (s.rv n) := by simp [State.updRv]

theorem State.updRv_rv_ne (n j : Nat) (f : RvState → RvState) (h : j ≠ n) : (s.updRv n f).rv j = s.rv j := by
  simp [State.updRv, State.setRv_rv, h]

@[simp] theorem State.updPort_port_same (n : Nat) (f : PortState → PortState) : (s.updPort n f).port n = f (s.port n) := by
  simp [State.updPort]

theorem State.updPort_port_ne (n j : Nat) (f : PortState → PortState) (h : j ≠ n) : (s.updPort n f).port j = s.port j := by
  simp [State.updPort, State.setPort_port, h]

/-- A register after a write of one of its fields. -/
theorem State.putF_reg (f : RF) (x j : Nat) :
    (s.putF f x).reg j = if j = f.key then setFld (s.reg f.key) f.lo f.len x else s.reg j := State.setReg_reg _ _ _ _

end Sys2Proof.Machine
end

