-- ==== Sys2Proof/Laws/Bits.lean ====
section
/-! SUPPORT. The laws of register fields: a field reads what was written to it, and keeps its value under a write of others. -/

namespace Sys2Proof.Machine

theorem bits_testBit (v lo len i : Nat) : (bits v lo len).testBit i = (decide (i < len) && v.testBit (lo + i)) := by
  simp [bits, Nat.testBit_mod_two_pow, Nat.testBit_shiftRight]

theorem maskW_getLsbD (lo len i : Nat) (hi : i < 64) : (maskW lo len).getLsbD i = decide (lo ≤ i ∧ i < lo + len) := by
  simp only [maskW, BitVec.getLsbD_ofNat, hi, decide_true, Bool.true_and, Nat.testBit_shiftLeft,
    Nat.testBit_two_pow_sub_one]
  by_cases h : lo ≤ i <;> (simp [h]; try omega)

theorem setFld_getLsbD (v : Word) (lo len x i : Nat) (hi : i < 64) :
    (setFld v lo len x).getLsbD i = if lo ≤ i ∧ i < lo + len then x.testBit (i - lo) else v.getLsbD i := by
  simp only [setFld, BitVec.getLsbD_or, BitVec.getLsbD_and, BitVec.getLsbD_not, maskW_getLsbD _ _ _ hi,
    BitVec.getLsbD_shiftLeft, BitVec.getLsbD_ofNat, Nat.testBit_mod_two_pow, hi, decide_true, Bool.true_and]
  by_cases h1 : lo ≤ i
  · by_cases h2 : i < lo + len
    · have e1 : i - lo < len := by omega
      have e2 : i - lo < 64 := by omega
      simp [h1, h2, e1, e2]
    · have e1 : ¬ i - lo < len := by omega
      simp [h1, h2, e1]
  · simp [h1]

/-- A field reads what was written to it, cut to its length. -/
theorem fld_setFld_same (v : Word) (lo len x : Nat) (h : lo + len ≤ 64) : fld (setFld v lo len x) lo len = x % 2 ^ len := by
  apply Nat.eq_of_testBit_eq
  intro i
  simp only [fld, bits_testBit, Nat.testBit_mod_two_pow]
  by_cases hi : i < len
  · have := setFld_getLsbD v lo len x (lo + i) (by omega)
    rw [BitVec.getLsbD] at this
    rw [this, if_pos (by omega)]
    simp [hi]
  · simp [hi]

/-- A field keeps its value under a write of a field it does not meet. -/
theorem fld_setFld_ne (v : Word) (lo len a n x : Nat) (h : lo + len ≤ a ∨ a + n ≤ lo) :
    fld (setFld v a n x) lo len = fld v lo len := by
  apply Nat.eq_of_testBit_eq
  intro i
  simp only [fld, bits_testBit]
  by_cases hi : i < len
  · by_cases h64 : lo + i < 64
    · have := setFld_getLsbD v a n x (lo + i) h64
      rw [BitVec.getLsbD, BitVec.getLsbD] at this
      rw [this, if_neg (by omega)]
    · have e : ∀ w : Word, w.toNat.testBit (lo + i) = false := fun w =>
        Nat.testBit_lt_two_pow (Nat.lt_of_lt_of_le w.isLt (Nat.pow_le_pow_right (by omega) (by omega)))
      rw [e, e]
  · simp [hi]

@[simp] theorem fld_zero (lo len : Nat) : fld 0 lo len = 0 := by simp [fld, bits]

/-- A field reads what was written to it. -/
theorem State.putF_getF_same (s : State) (f : RF) (x : Nat) (h : f.lo + f.len ≤ 64) :
    (s.putF f x).getF f = x % 2 ^ f.len := by
  obtain ⟨k, lo, len⟩ := f
  simp only [State.putF, State.setReg_getF_same]
  exact fld_setFld_same _ _ _ _ h

/-- A field keeps its value under a write of a field elsewhere. -/
theorem State.putF_getF_ne (s : State) (f g : RF) (x : Nat)
    (h : g.key ≠ f.key ∨ g.lo + g.len ≤ f.lo ∨ f.lo + f.len ≤ g.lo) : (s.putF f x).getF g = s.getF g := by
  obtain ⟨k, lo, len⟩ := f
  obtain ⟨k', lo', len'⟩ := g
  by_cases e : k' = k
  · subst e
    simp only [State.putF, State.getF, State.setReg_reg_same]
    exact fld_setFld_ne _ _ _ _ _ _ (by simpa using h)
  · exact State.setReg_getF_ne _ _ _ _ e

/-- Two's complement in 48 bits gives back a number in range. -/
theorem toBits_of_lt (x len : Nat) (h : x < 2 ^ len) : toBits (x : Int) len = x := by
  have hp : ((2 ^ len : Nat) : Int) > 0 := by positivity
  simp only [toBits]
  rw [Int.emod_eq_of_lt (by omega) (by exact_mod_cast h)]
  simp

end Sys2Proof.Machine
end

