-- ==== Sys2Proof/Laws/Issue.lean ====
section
/-! SUPPORT. What the issue of a matrix instruction can do (R150, R187, R189): one lemma for each of its ends. -/

namespace Sys2Proof.Machine

/-- An instruction that may issue, breaks no encoding rule, is held by nothing and fails no check has its effect and goes on. -/
theorem State.issueTo_go (s : State) (n u : Nat) (act : State → State) (next : Int) (hr : s.mcRun n = true) :
    s.issueTo n u false true none act next = .next ((act (s.putF (mxcSt n) 1)).goTo n next) := by
  simp [State.issueTo, hr]

/-- An instruction with a reserved bit or value set is refused with ILLEGAL_ENCODING. -/
theorem State.issueTo_reserved (s : State) (n u : Nat) (ready : Bool) (chk : Chk) (act : State → State) (next : Int)
    (hr : s.mcRun n = true) : s.issueTo n u true ready chk act next = .next (s.issueFault n fltEncoding 0 u) := by
  simp [State.issueTo, hr]

/-- The first failed check of an instruction is its fault. -/
theorem State.issueTo_check (s : State) (n u : Nat) (c : Nat × Nat) (act : State → State) (next : Int)
    (hr : s.mcRun n = true) : s.issueTo n u false true (some c) act next = .next (s.issueFault n c.1 c.2 u) := by
  simp [State.issueTo, hr]

/-- The state after an instruction that changes the core alone: nothing but the core and its registers differs. -/
theorem onlyMatrix_updMc (s : State) (n : Nat) (f : McState → McState) (next : Int) :
    OnlyMatrix n [mxcBase n + 8, mxcBase n + 0x10] s (((s.putF (mxcSt n) 1).updMc n f).goTo n next) := by
  refine ⟨?_, ?_, ?_⟩
  · simp only [State.goTo, State.updMc, State.putF, State.setReg, State.setMc]
  · intro k hk
    simp only [List.mem_cons, List.not_mem_nil, or_false, not_or] at hk
    simp [State.goTo, State.updMc, State.putF, mxcPc, mxcSt, State.setReg_reg, hk.1, hk.2]
  · intro j hj
    simp [State.goTo, State.updMc, State.putF, State.setMc_mc, hj]

theorem atNext_updMc (s : State) (n : Nat) (f : McState → McState) (next : Int) :
    AtNext n next s (((s.putF (mxcSt n) 1).updMc n f).goTo n next) := by
  constructor <;> simp [State.goTo, State.updMc, State.putF, mxcPc, mxcSt, State.setReg_reg]

theorem pcLimit_issue (s : State) (n : Nat) (f : McState → McState) :
    ((s.putF (mxcSt n) 1).updMc n f).pcLimit n = s.pcLimit n := by
  simp [State.updMc, State.putF, State.pcLimit, mxcSt, mxcSpace, State.setReg_reg, State.getB, State.getF]

/-- A core whose instruction's effect is a change of the core alone has issued it. -/
theorem issued_updMc (s : State) (n : Nat) (f : McState → McState) (next : Int) :
    Issued n next (f (s.mc n)) s (((s.putF (mxcSt n) 1).updMc n f).goTo n next) := by
  refine ⟨onlyMatrix_updMc s n f next, atNext_updMc s n f next, ?_⟩
  have h := pcLimit_issue s n f
  simp only [State.goTo, outOfSpace]
  simp [State.updMc, State.putF] at *
  rw [h]

/-- An instruction without an effect of its own has issued. -/
theorem issued_id (s : State) (n : Nat) (next : Int) : Issued n next (s.mc n) s ((s.putF (mxcSt n) 1).goTo n next) := by
  refine ⟨⟨?_, ?_, ?_⟩, ⟨?_, ?_⟩, ?_⟩
  · simp only [State.goTo, State.updMc, State.putF, State.setReg, State.setMc]
  · intro k hk
    simp only [List.mem_cons, List.not_mem_nil, or_false, not_or] at hk
    simp [State.goTo, State.updMc, State.putF, mxcPc, mxcSt, State.setReg_reg, hk.1, hk.2]
  · intro j hj
    simp [State.goTo, State.updMc, State.putF, State.setMc_mc, hj]
  · simp [State.goTo, State.updMc, State.putF, mxcPc, mxcSt, State.setReg_reg]
  · simp [State.goTo, State.updMc, State.putF, mxcPc, mxcSt, State.setReg_reg]
  · simp [State.goTo, State.updMc, State.putF, outOfSpace, State.pcLimit, mxcPc, mxcSt, mxcSpace, State.setReg_reg, State.getB, State.getF]

/-- A core's fault flag stands apart from its own registers, and from its counter. -/
theorem faultFlag_keys (n : Nat) (h : n < 1920) :
    (cstatHome (n / 4) (n % 4)).key < mxcBase n ∧ (cstatHome (n / 4) (n % 4)).cntKey < mxcBase n ∧
    (cstatHome (n / 4) (n % 4)).key ≠ (cstatHome (n / 4) (n % 4)).cntKey ∧ (cstatHome (n / 4) (n % 4)).bitNo = n % 4 := by
  simp [cstatHome, irqDBase, dieBase, mxcBase, cellBase]; omega

/-- What a fault at issue leaves (R189). -/
theorem faultedAtIssue (n : Nat) (hn : n < 1920) (code operand unit : Nat) (s : State) (h1 : code < 256) (h2 : operand < 16)
    (h3 : unit < 8) : FaultedAtIssue n code operand unit s (s.issueFault n code operand unit) := by
  obtain ⟨k1, k2, k3, k4⟩ := faultFlag_keys n hn
  have e1 : code % 256 = code := by omega
  have e2 : operand % 16 = operand := by omega
  have e3 : unit % 8 = unit := by omega
  unfold State.issueFault State.enterFault State.raiseC State.raiseAt
  generalize hh : cstatHome (n / 4) (n % 4) = h at *
  have q1 : mxcBase n + 8 ≠ h.key := by omega
  have q2 : mxcBase n + 8 ≠ h.cntKey := by omega
  have q3 : mxcBase n + 24 ≠ h.key := by omega
  have q4 : mxcBase n + 24 ≠ h.cntKey := by omega
  have q5 : mxcBase n + 32 ≠ h.key := by omega
  have q6 : mxcBase n + 32 ≠ h.cntKey := by omega
  refine ⟨?_, ?_, ?_, ?_, ?_, ?_, ?_⟩
  · simp only [State.countSet, State.putF, State.setReg, State.getF]
  · intro k hk
    simp [FlagHome.keys, hh] at hk
    simp [State.putF, State.setReg_reg, mxcSt, hk]
  · simp [State.putF, State.setReg_reg, mxcSt, q1, q2]
  · simp [State.putF, State.setReg_reg, mxcSt, q3, q4]; congr 1; omega
  · simp [State.putF, State.setReg_reg, mxcSt, State.getF, q5, q6]
    rw [fld_setFld_ne _ _ _ _ _ _ (by omega), fld_setFld_same _ _ _ _ (by omega)]
    apply Nat.mod_eq_of_lt
    simp [fld, bits, mxcPc]; omega
  · rw [hh, ← k4]
    simp [State.putF, State.setReg_reg, mxcSt, State.getF, k3]
    rw [fld_setFld_same _ _ _ _ (by omega)]; rfl
  · simp [State.countSet, State.putF]

end Sys2Proof.Machine
end

