-- ==== Sys2Proof/Laws/Memory.lean ====
section
/-! SUPPORT. Everything that an access to device memory can change, said once for each operation: the store rooms, the stacks,
reservations and what leaves at the boundary; and that the memories keep their canonical form. -/

namespace Sys2Proof.Machine

/-- A memory operation: it changes nothing but the memory system, and keeps the canonical form. -/
def MemStep (s t : State) : Prop := OnlyMemory s t ∧ (s.memWf = true → t.memWf = true)

variable (s : State)

theorem MemStep.refl : MemStep s s := ⟨rfl, id⟩

theorem MemStep.trans {s t u : State} (h : MemStep s t) (g : MemStep t u) : MemStep s u :=
  ⟨by have a := h.1; have b := g.1; unfold OnlyMemory at *; rw [b, a], fun w => g.2 (h.2 w)⟩

theorem MemStep.forEach {α : Type} (l : List α) (f : State → α → State) (h : ∀ s a, MemStep s (f s a)) :
    ∀ s, MemStep s (forEach l s f) := by
  induction l with
  | nil => exact fun s => .refl s
  | cons a r ih => exact fun s => (h s a).trans (ih _)

/-- What stays for whoever cites a memory operation. -/
theorem MemStep.regs {s t : State} (h : MemStep s t) : t.regs = s.regs := by rw [h.1]
theorem MemStep.pending {s t : State} (h : MemStep s t) : t.pending = s.pending := by rw [h.1]
theorem MemStep.guards {s t : State} (h : MemStep s t) : t.guards = s.guards := by rw [h.1]
theorem MemStep.reg {s t : State} (h : MemStep s t) (k : Nat) : t.reg k = s.reg k := by rw [h.1]; rfl

/-! ### Parts -/

theorem memStep_setRoom (n : Nat) (r : RoomState) : MemStep s (s.setRoom n r) := ⟨rfl, id⟩

theorem memStep_emit (o : Output) : MemStep s (s.emit o) := ⟨rfl, id⟩

theorem memStep_touch (line way : Nat) : MemStep s (s.touch line way) := memStep_setRoom _ _ _

theorem memStep_putLine (l : RoomLine) : MemStep s (s.putLine l) := memStep_setRoom _ _ _

theorem memStep_toCtl (r : MemReq) : MemStep s (s.toCtl r) := ⟨rfl, id⟩

/-- A change of reservations alone. -/
theorem memStep_rvs (f : Nat × RvState → Nat × RvState) (h : ∀ e, (f e).2.memWf = e.2.memWf) :
    MemStep s { s with rvs := s.rvs.map f } := by
  refine ⟨rfl, fun w => ?_⟩
  simp only [State.memWf, Bool.and_eq_true, List.all_map, List.all_eq_true, Function.comp_apply] at w ⊢
  refine ⟨⟨w.1.1, fun e he => ?_⟩, w.2⟩
  rw [h]; exact w.1.2 e he

theorem memStep_breakResv (line who : Nat) : MemStep s (s.breakResv line who) := by
  refine memStep_rvs s _ (fun e => ?_)
  split <;> rfl

theorem memStep_zeroFill (line : Nat) : MemStep s (s.zeroFill line) := by
  refine ⟨rfl, fun w => ?_⟩
  simp only [State.memWf, Bool.and_eq_true] at w ⊢
  exact ⟨⟨⟨⟨wf_filter _ _ w.1.1.1.1, w.1.1.1.2⟩, w.1.1.2⟩, w.1.2⟩, w.2⟩

theorem memStep_cells (s : State) (h : HbmState) (k : Memory.wf s.hbm.cells = true → Memory.wf h.cells = true) :
    MemStep s { s with hbm := h } := by
  refine ⟨rfl, fun w => ?_⟩
  simp only [State.memWf, Bool.and_eq_true] at w ⊢
  exact ⟨⟨⟨⟨k w.1.1.1.1, w.1.1.1.2⟩, w.1.1.2⟩, w.1.2⟩, w.2⟩

theorem memStep_ctlWrite (line : Nat) (data : List Byte) (en : BitVec 128) (p : Bool) : MemStep s (s.ctlWrite line data en p) := by
  unfold State.ctlWrite
  have a : MemStep s (if s.isFresh line then s.zeroFill line else s) := by
    split
    · exact memStep_zeroFill _ _
    · exact .refl _
  exact a.trans (memStep_cells _ _ (wf_writeBytes _ _ _))

theorem memStep_install (part : Nat) (l : RoomLine) : MemStep s (s.install part l) := by
  unfold State.install
  dsimp only
  split
  · exact .refl _
  · refine MemStep.trans ?_ (memStep_touch _ _ _)
    split
    · split
      · exact (memStep_setRoom _ _ _).trans (memStep_toCtl _ _)
      · exact memStep_setRoom _ _ _
    · exact memStep_setRoom _ _ _

theorem memStep_ctlServe (st : Nat) : MemStep s (s.ctlServe st) := by
  unfold State.ctlServe
  split
  · exact .refl _
  · dsimp only
    split
    · exact (memStep_cells s _ id).trans (memStep_ctlWrite _ _ _ _ _)
    · exact (memStep_cells s _ id).trans (memStep_cells _ _ id)

theorem memStep_ctlServeN (st n : Nat) : ∀ s : State, MemStep s (s.ctlServeN st n) := by
  induction n with
  | zero => exact fun s => .refl s
  | succ k ih => exact fun s => (memStep_ctlServe s st).trans (ih _)

theorem memStep_performFill (f : FillData) : MemStep s (s.performFill f) := by
  unfold State.performFill
  dsimp only
  repeat' split
  · exact (memStep_putLine _ _).trans (memStep_touch _ _ _)
  · exact memStep_touch _ _ _
  · exact .refl _
  · exact memStep_install _ _ _
  · exact memStep_toCtl _ _
  · exact memStep_install _ _ _
  · exact memStep_install _ _ _

theorem memStep_answerMem (q : RoomReq) (d : List Byte) (p : Bool) : MemStep s (s.answerMem q d p) := by
  unfold State.answerMem
  split
  · exact .refl _
  · exact memStep_emit _ _

theorem memStep_fillOne (st : Nat) : MemStep s (s.fillOne st) := by
  unfold State.fillOne
  split
  · exact .refl _
  · rename_i f rest _
    have a := (memStep_cells s { s.hbm with fills := mset [] s.hbm.fills st rest } id).trans (memStep_performFill _ f)
    dsimp only
    split
    · exact a.trans (memStep_answerMem _ _ _ _)
    · exact a

theorem memStep_fillN (st n : Nat) : ∀ s : State, MemStep s (s.fillN st n) := by
  induction n with
  | zero => exact fun s => .refl s
  | succ k ih => exact fun s => (memStep_fillOne s st).trans (ih _)

theorem memStep_settle (line : Nat) : MemStep s (s.settle line) :=
  ((memStep_ctlServeN _ _ _).trans (memStep_fillN _ _ _)).trans (memStep_ctlServeN _ _ _)

/-! ### Lines and runs -/

theorem memStep_lineRead (part line : Nat) : MemStep s (s.lineRead part line).st := by
  unfold State.lineRead
  dsimp only
  repeat' split
  · exact .refl _
  · exact memStep_touch _ _ _
  · exact (memStep_settle _ _).trans (memStep_touch _ _ _)
  · exact (memStep_settle _ _).trans (memStep_install _ _ _)

theorem memStep_lineWrite (part line who : Nat) (data : List Byte) (en : BitVec 128) :
    MemStep s (s.lineWrite part line who data en) := by
  unfold State.lineWrite
  dsimp only
  have b := memStep_breakResv s line who
  have c := b.trans (memStep_settle _ line)
  repeat' split
  · exact .refl _
  · exact (b.trans (memStep_putLine _ _)).trans (memStep_touch _ _ _)
  · exact (c.trans (memStep_putLine _ _)).trans (memStep_touch _ _ _)
  · exact c.trans (memStep_ctlWrite _ _ _ _ _)
  · exact c.trans (memStep_install _ _ _)
  · exact c.trans (memStep_install _ _ _)

theorem memStep_linePoison (part line who : Nat) : MemStep s (s.linePoison part line who) := by
  unfold State.linePoison
  dsimp only
  have b := memStep_lineWrite s part line who zeroLine 0#128
  repeat' split
  · exact .refl _
  · exact b.trans (memStep_putLine _ _)
  · exact b.trans (memStep_ctlWrite _ _ _ _ _)

theorem memStep_physReadF (part fuel : Nat) : ∀ (s : State) (pa n : Nat), MemStep s (s.physReadF part pa n fuel).st := by
  induction fuel with
  | zero => exact fun s _ _ => .refl s
  | succ k ih =>
    intro s pa n
    unfold State.physReadF
    split
    · exact .refl _
    · exact (memStep_lineRead _ _ _).trans (ih _ _ _)

theorem memStep_physRead (part pa n : Nat) : MemStep s (s.physRead part pa n).st := memStep_physReadF _ _ _ _ _

theorem memStep_physWriteF (part who fuel : Nat) :
    ∀ (s : State) (pa : Nat) (bs : List Byte), MemStep s (s.physWriteF part who pa bs fuel) := by
  induction fuel with
  | zero => exact fun s _ _ => .refl s
  | succ k ih =>
    intro s pa bs
    unfold State.physWriteF
    split
    · exact .refl _
    · exact (memStep_lineWrite _ _ _ _ _ _).trans (ih _ _ _)

theorem memStep_physWrite (part who pa : Nat) (bs : List Byte) : MemStep s (s.physWrite part who pa bs) :=
  memStep_physWriteF _ _ _ _ _ _

theorem memStep_physPoison (part who pa n : Nat) : MemStep s (s.physPoison part who pa n) :=
  MemStep.forEach _ _ (fun s _ => memStep_linePoison s _ _ _) s

/-! ### Range operations -/

theorem memStep_rangeRoom (k : RangeKind) (first count c : Nat) : MemStep s (s.rangeRoom k first count c) := by
  unfold State.rangeRoom
  dsimp only
  split
  · exact .refl _
  · refine MemStep.trans ?_ (memStep_setRoom _ _ _)
    split
    · exact .refl _
    · exact MemStep.forEach _ _ (fun s l => memStep_toCtl s _) s

theorem memStep_rangeOp (k : RangeKind) (first count : Nat) (die : Nat → Bool) : MemStep s (s.rangeOp k first count die) :=
  MemStep.forEach _ _ (fun s _ => memStep_rangeRoom s _ _ _ _) s

/-- A change of the fresh marks alone. -/
theorem memStep_written (w : SMap Bool) : MemStep s { s with hbm := { s.hbm with written := w } } := memStep_cells s _ id

theorem memStep_releaseGib (g : Nat) : MemStep s (s.releaseGib g) := by
  have a := (memStep_rangeOp s .drop (g * (gib / 128)) (gib / 128) (fun _ => true)).trans
    (MemStep.forEach (upTo 12) (fun s st => s.ctlServeN st (s.memQ st).length) (fun s st => memStep_ctlServeN st (s.memQ st).length s) _)
  exact a.trans (memStep_written _ _)

/-! ### Atomics -/

/-- A change of one core's reservation. -/
theorem memStep_resv (n : Nat) (f : RvState → RvState) (h : ∀ r, (f r).memWf = r.memWf) : MemStep s (s.updRv n f) := by
  refine ⟨rfl, fun w => ?_⟩
  simp only [State.memWf, Bool.and_eq_true] at w ⊢
  refine ⟨⟨w.1.1, all_mset _ _ _ _ _ ?_ w.1.2⟩, w.2⟩
  show (f (s.rv n)).memWf = true
  rw [h]
  exact mget_all {} s.rvs n RvState.memWf rfl w.1.2

theorem memStep_amoAt (core part : Nat) (op : AmoOp) (w pa x : Nat) : MemStep s (s.amoAt core part op w pa x).st := by
  have a := memStep_physRead s part pa (w / 8)
  have b := a.trans (memStep_resv _ core (fun r => { r with resv := none }) (fun _ => rfl))
  unfold State.amoAt
  dsimp only
  repeat' split
  · exact b
  · exact b.trans (memStep_physWrite _ _ _ _ _)
  · exact b
  · exact a
  · exact a.trans (memStep_resv _ core (fun r => { r with resv := some (pa / 128), resvScratch := false }) (fun _ => rfl))
  · exact a.trans (memStep_physWrite _ _ _ _ _)

/-! ### Accesses at virtual addresses -/

/-- What an access at a virtual address can change: the memory system, cached translations and fault records, never the contexts,
and how many free values have been taken. -/
def VaStep (s t : State) : Prop :=
  t = { s with
    rooms := t.rooms, hbm := t.hbm, rvs := t.rvs, out := t.out, freeCtr := t.freeCtr
    mmu := { s.mmu with tlb := t.mmu.tlb, recs := t.mmu.recs, nextId := t.mmu.nextId } } ∧ (s.memWf = true → t.memWf = true)

theorem VaStep.refl : VaStep s s := ⟨rfl, id⟩

theorem VaStep.trans {s t u : State} (h : VaStep s t) (g : VaStep t u) : VaStep s u :=
  ⟨by have a := h.1; have b := g.1; rw [b, a], fun w => g.2 (h.2 w)⟩

theorem MemStep.va {s t : State} (h : MemStep s t) : VaStep s t := ⟨by have a := h.1; unfold OnlyMemory at a; rw [a], h.2⟩

theorem VaStep.regs {s t : State} (h : VaStep s t) : t.regs = s.regs := by rw [h.1]
theorem VaStep.pending {s t : State} (h : VaStep s t) : t.pending = s.pending := by rw [h.1]
theorem VaStep.guards {s t : State} (h : VaStep s t) : t.guards = s.guards := by rw [h.1]
theorem VaStep.reg {s t : State} (h : VaStep s t) (k : Nat) : t.reg k = s.reg k := by rw [h.1]; rfl
theorem VaStep.ctxEntry {s t : State} (h : VaStep s t) (c : Nat) : t.ctxEntry c = s.ctxEntry c := by rw [h.1]; rfl

theorem vaStep_tlbPut (t : TlbEntry) : VaStep s (s.tlbPut t) := ⟨rfl, id⟩

theorem memStep_walkLevel (e : CtxEntry) (va ppn prev lvl : Nat) : MemStep s (s.walkLevel e va ppn prev lvl).1 := by
  unfold State.walkLevel
  dsimp only
  have a := memStep_physRead s e.part (ppn * 4096 + 8 * bits va (lvlShift lvl) 9) 8
  repeat' split
  · exact .refl _
  all_goals exact a

theorem memStep_walk (e : CtxEntry) (va lvl : Nat) : ∀ (s : State) (ppn prev : Nat), MemStep s (s.walk e va ppn prev lvl).1 := by
  induction lvl with
  | zero =>
    intro s ppn prev
    have a := memStep_walkLevel s e va ppn prev 0
    unfold State.walk
    dsimp only
    split
    · exact a
    · exact a
    · contradiction
  | succ l ih =>
    intro s ppn prev
    have a := memStep_walkLevel s e va ppn prev (l + 1)
    unfold State.walk
    dsimp only
    split
    · exact a
    · contradiction
    · rename_i h; cases h; exact a.trans (ih _ _ _)

theorem vaStep_translate (u : UnitId) (ctx part va : Nat) (acc : Access) : VaStep s (s.translate u ctx part va acc).st := by
  unfold State.translate
  dsimp only
  have w (e : CtxEntry) := (memStep_walk e va 3 s e.root.toNat 0).va
  repeat' split
  · exact .refl _
  · exact .refl _
  · exact .refl _
  · exact .refl _
  · exact vaStep_tlbPut _ _
  · exact w _
  · exact w _
  · exact w _
  · dsimp only; exact ((w _).trans (vaStep_tlbPut _ _)).trans (vaStep_tlbPut _ _)
  · dsimp only; exact (((w _).trans (memStep_physWrite _ _ _ _ _).va).trans (vaStep_tlbPut _ _)).trans (vaStep_tlbPut _ _)
  · dsimp only; exact ((w _).trans (vaStep_tlbPut _ _)).trans (vaStep_tlbPut _ _)
  · dsimp only; exact (((w _).trans (memStep_physWrite _ _ _ _ _).va).trans (vaStep_tlbPut _ _)).trans (vaStep_tlbPut _ _)
  · dsimp only; exact (w _).trans (vaStep_tlbPut _ _)
  · dsimp only; exact ((w _).trans (memStep_physWrite _ _ _ _ _).va).trans (vaStep_tlbPut _ _)
  · dsimp only; exact (w _).trans (vaStep_tlbPut _ _)
  · dsimp only; exact ((w _).trans (memStep_physWrite _ _ _ _ _).va).trans (vaStep_tlbPut _ _)

theorem vaStep_openFault (u : UnitId) (ctx part va : Nat) (acc : Access) (x : Xl) (w : Option Waiter) :
    VaStep s (s.openFault u ctx part va acc x w).1 := by
  unfold State.openFault
  dsimp only
  repeat' split
  · exact ⟨rfl, id⟩
  · exact ⟨rfl, id⟩
  · exact ⟨rfl, id⟩
  · exact .refl _

theorem vaStep_xlRunF (u : UnitId) (ctx part : Nat) (acc : Access) (fuel : Nat) :
    ∀ (s : State) (va n : Nat), VaStep s (s.xlRunF u ctx part va n acc fuel).st := by
  induction fuel with
  | zero => exact fun s _ _ => .refl s
  | succ k ih =>
    intro s va n
    unfold State.xlRunF
    dsimp only
    have a := vaStep_translate s u ctx part va acc
    repeat' split
    · exact .refl _
    · exact a.trans (ih _ _ _)
    · exact a.trans (ih _ _ _)
    · exact a

theorem vaStep_xlRun (u : UnitId) (ctx part va n : Nat) (acc : Access) : VaStep s (s.xlRun u ctx part va n acc).st :=
  vaStep_xlRunF _ _ _ _ _ _ _ _

theorem vaStep_freeBytes (n : Nat) : ∀ s : State, VaStep s (s.freeBytes n).1 := by
  induction n with
  | zero => exact fun s => .refl s
  | succ k ih => exact fun s => VaStep.trans ⟨rfl, id⟩ (ih s.tickFree)

theorem vaStep_readSegs (part : Nat) (l : List Seg) : ∀ s : State, VaStep s (s.readSegs part l).st := by
  induction l with
  | nil => exact fun s => .refl s
  | cons g r ih =>
    intro s
    unfold State.readSegs
    dsimp only
    refine VaStep.trans ?_ (ih _)
    split
    · exact (memStep_emit s _).va.trans (vaStep_freeBytes _ _)
    · exact (memStep_physRead _ _ _ _).va

theorem memStep_writeSegs (part who : Nat) (l : List Seg) : ∀ (s : State) (bs : List Byte), MemStep s (s.writeSegs part who l bs) := by
  induction l with
  | nil => exact fun s _ => .refl s
  | cons g r ih =>
    intro s bs
    unfold State.writeSegs
    dsimp only
    refine MemStep.trans ?_ (ih _ _)
    split
    · exact memStep_emit _ _
    · exact memStep_physWrite _ _ _ _ _

theorem memStep_poisonSegs (part who : Nat) (l : List Seg) : MemStep s (s.poisonSegs part who l) := by
  refine MemStep.forEach _ _ (fun s g => ?_) s
  split
  · exact .refl _
  · exact memStep_physPoison _ _ _ _ _

theorem vaStep_vRead (u : UnitId) (ctx part va n : Nat) (acc : Access) (w : Option Waiter) :
    VaStep s (s.vRead u ctx part va n acc w).st := by
  unfold State.vRead
  dsimp only
  have a := vaStep_xlRun s u ctx part va n acc
  split
  · exact a.trans (vaStep_openFault _ _ _ _ _ _ _ _)
  · exact a.trans (vaStep_readSegs _ _ _)

theorem vaStep_vWrite (u : UnitId) (ctx part va : Nat) (bs : List Byte) (who : Nat) (w : Option Waiter) :
    VaStep s (s.vWrite u ctx part va bs who w).st := by
  unfold State.vWrite
  dsimp only
  have a := vaStep_xlRun s u ctx part va bs.length .write
  split
  · exact a.trans (vaStep_openFault _ _ _ _ _ _ _ _)
  · exact a.trans (memStep_writeSegs _ _ _ _ _).va

theorem vaStep_tryRead (u : UnitId) (ctx part va n : Nat) : VaStep s (s.tryRead u ctx part va n).1 := by
  unfold State.tryRead
  dsimp only
  have a := vaStep_xlRun s u ctx part va n .read
  split
  · exact a
  · exact a
  · split
    · exact a.trans (vaStep_readSegs _ _ _)
    · exact a.trans (vaStep_readSegs _ _ _)

end Sys2Proof.Machine
end

