-- ==== Sys2Proof/Laws/Shared.lean ====
section
/-! SUPPORT. What the shared ends of commands do, said in the words of Safety: a flag raised, a command completed or started, a message
answered. -/

namespace Sys2Proof.Machine

variable (s : State)

/-- A flag raised: set, counted, and nothing else changed (R570). -/
theorem onlyRaised (h : FlagHome) (hk : h.key ≠ h.cntKey) (hb : h.bitNo < 64) : OnlyRaised [] h s (s.raiseAt h) := by
  refine ⟨?_, ?_, ?_⟩
  · simp only [State.raiseAt, State.countSet, State.putF, State.setReg, State.getF]
  · intro k hn
    simp [FlagHome.keys] at hn
    simp [State.raiseAt, State.putF, State.setReg_reg, hn]
  · simp [State.raiseAt, State.putF, State.setReg_reg, State.getB, State.getF, hk]
    rw [fld_setFld_same _ _ _ _ (by omega)]
    rfl

/-- Raising a flag changes nothing but registers and the counts of sets. -/
theorem raiseAt_shape (h : FlagHome) :
    s.raiseAt h = { s with regs := (s.raiseAt h).regs, irq := { s.irq with routed := (s.raiseAt h).irq.routed } } := by
  simp only [State.raiseAt, State.countSet, State.putF, State.setReg, State.getF]

/-- A die's flags stand apart from their counters. -/
theorem dstatHome_apart (d b : Nat) (hb : b < 64) : (dstatHome d b).key ≠ (dstatHome d b).cntKey ∧ (dstatHome d b).bitNo < 64 := by
  simp [dstatHome]; omega

/-- A module flag stands apart from its counter. -/
theorem mstatHome_apart (b : Nat) (hb : b < 64) : (mstatHome b).key ≠ (mstatHome b).cntKey ∧ (mstatHome b).bitNo < 64 := by
  refine ⟨?_, hb⟩
  show irqJBase + 0x2000 ≠ irqJBase + 0x2008 + 8 * (b / 8)
  omega

/-- A port's flag stands apart from its counter. -/
theorem pstatHome_apart (n b : Nat) (hb : b < 8) : (pstatHome n b).key ≠ (pstatHome n b).cntKey ∧ (pstatHome n b).bitNo < 64 := by
  simp [pstatHome]; omega

/-- A command that completes does what the statements say of it (R508, R514). -/
theorem completes (src : CmdSrc) (c : Cmd) (started : Bool) (status result : Nat) :
    Completes src c started status result s (s.complete src c started status result) := by
  refine ⟨rfl, ?_⟩
  rintro r rfl
  by_cases h : (cmdQuiet c && status == 0) = true
  · have e : s.complete (.ring r) c started status result = s.closeCmd (.ring r) c started := by
      simp [State.complete, h]
    rw [e]
    refine ⟨rfl, fun _ _ => rfl, ?_⟩
    simp at h
    rintro (hq | hq)
    · simp [h.1] at hq
    · exact absurd h.2 hq
  · have e : s.complete (.ring r) c started status result =
        { s.closeCmd (.ring r) c started with host := { (s.closeCmd (.ring r) c started).host with
            waitRecs := mset [] s.host.waitRecs (s.getF (ringCq r.val)) (mget [] s.host.waitRecs (s.getF (ringCq r.val)) ++
              [recordBytes r.val status (cmdId c) result]) } } := by
      simp only [State.complete, h]; rfl
    rw [e]
    refine ⟨rfl, ?_, ?_⟩
    · intro hq hz; simp [hq, hz] at h
    · intro _; simp

/-- A command that starts does what the statements say of it. -/
theorem starts (src : CmdSrc) (c : Cmd) : Starts src c s (s.markStarted src c) := ⟨rfl, rfl⟩

/-- A management answer leaves at its binding (R625). -/
theorem replies (b : Binding) (kind : Nat) (data : List Nat) : Replies b kind data s (s.mgReply b kind data) := by
  unfold Replies State.mgReply
  cases b <;> simp [State.emit]

/-- An answered message does what the statements say of it (R421, R422). -/
theorem answered (n : Nat) (h : Hdr) (status : Nat) (pl : List Byte) (poison : Bool) :
    Answered n h status pl poison s (s.answer n h status pl poison) := by
  refine ⟨rfl, ?_, ?_⟩
  · unfold State.answer; dsimp only; split <;> rfl
  · intro hl
    have e : s.answer n h status pl poison = s.pushTx n (if hType h = 10 then 16 else s.portPart n) 1
        (toLE 32 (mkHdr (hType h + 16 + 32 * b2n poison) (pl.length / 16) (hSrc h) s.modNum (hJob h) (hTag h) status (hCtx h) (hA h) 0
          (hC h)).toNat ++ pl) := by
      simp only [State.answer, hl]; rfl
    rw [e]
    refine ⟨rfl, ?_, ?_⟩
    · intro m hm; simp [State.pushTx, State.updPort, State.setPort_port, hm]
    · simp [State.pushTx, State.updPort]

/-- A port's own registers stand below its flags and their counter. -/
theorem pstatHome_below (n b : Nat) (hn : n < 128) :
    portKey n + 0x18 < (pstatHome n b).key ∧ portKey n + 0x18 < (pstatHome n b).cntKey := by
  simp only [pstatHome, portKey, chnBase, irqJBase]; omega

/-- A port enters DETECT as the statements say (R401, R436, R583). -/
theorem inDetect (n : Nat) (hn : n < 128) : InDetect n s (s.toDetect n) := by
  obtain ⟨q1, q2⟩ := pstatHome_below n 3 hn
  obtain ⟨q3, -⟩ := pstatHome_apart n 3 (by decide)
  have hb : (pstatHome n 3).bitNo = 3 := rfl
  have k1 : portKey n + 8 ≠ (pstatHome n 3).key := by omega
  have k2 : portKey n + 8 ≠ (pstatHome n 3).cntKey := by omega
  unfold State.toDetect State.raiseP State.raiseAt InDetect
  generalize pstatHome n 3 = h at *
  by_cases ht : trained (s.pst n) = true
  · simp only [ht, if_true]
    refine ⟨?_, ?_, ?_, ?_, ?_, ?_⟩
    · simp only [State.countSet, State.putF, State.setReg, State.getF, State.perr, State.addF, State.noLanes, State.updPort, State.setPort]
    · intro k hk
      simp [FlagHome.keys] at hk
      simp [State.perr, State.addF, State.noLanes, State.putF_reg, State.updPort, pstWidth, pstLanes, pstState, pstDegraded, hk]
    · simp [State.perr, State.addF, State.noLanes, State.putF_reg, State.updPort, pstWidth, pstLanes, pstState, pstDegraded, psDetect, k1, k2]
    · simp [State.perr, State.addF, State.noLanes, State.putF]
    · intro _
      simp [State.putF_reg, State.getB, State.getF, q3, hb]
      rw [fld_setFld_same _ _ _ _ (by omega)]; rfl
    · intro m hm
      simp [State.perr, State.addF, State.noLanes, State.putF, State.updPort_port_ne _ _ _ _ hm]
  · simp only [ht]
    refine ⟨?_, ?_, ?_, ?_, ?_, ?_⟩
    · simp [State.putF, State.setReg, State.noLanes, State.updPort, State.setPort]
    · intro k hk
      simp at hk
      simp [State.noLanes, State.putF_reg, State.updPort, pstWidth, pstLanes, pstState, pstDegraded, hk]
    · simp [State.noLanes, State.putF_reg, State.updPort, pstWidth, pstLanes, pstState, pstDegraded, psDetect]
    · simp [State.noLanes, State.putF]
    · intro hf; exact absurd hf (by simp)
    · intro m hm
      simp [State.noLanes, State.putF, State.updPort_port_ne _ _ _ _ hm]

/-- A port of ACTIVE enters RETRAIN as the statements say (R404, R405, R411, R436, R583). -/
theorem inRetrain (n cause : Nat) (lanes : BitVec 4) (tell : Bool) (hn : n < 128) (ha : s.pst n = 5) :
    InRetrain n cause lanes tell s (s.toRetrain n cause lanes tell) := by
  obtain ⟨q1, q2⟩ := pstatHome_below n 2 hn
  obtain ⟨q3, -⟩ := pstatHome_apart n 2 (by decide)
  have hb : (pstatHome n 2).bitNo = 2 := rfl
  have k1 : portKey n + 8 ≠ (pstatHome n 2).key := by omega
  have k2 : portKey n + 8 ≠ (pstatHome n 2).cntKey := by omega
  have k3 : portKey n + 0x18 ≠ (pstatHome n 2).key := by omega
  have k4 : portKey n + 0x18 ≠ (pstatHome n 2).cntKey := by omega
  unfold State.toRetrain State.raiseP State.raiseAt InRetrain
  rw [if_neg (by rw [ha]; decide)]
  generalize pstatHome n 2 = h at *
  refine ⟨?_, ?_, ?_, ?_, ?_, ?_, ?_⟩
  · cases tell <;> simp [State.countSet, State.putF, State.setReg, State.getF, State.perr, State.addF, State.noLanes, State.updPort,
      State.setPort, State.latchCtl, State.emit, ctrlFlit]
  · intro k hk
    simp [FlagHome.keys] at hk
    cases tell <;> simp [State.perr, State.addF, State.noLanes, State.putF_reg, State.updPort, State.latchCtl, pstWidth, pstLanes, pstState,
      hk]
  · cases tell <;> simp [State.perr, State.addF, State.noLanes, State.putF_reg, State.updPort, State.latchCtl, pstWidth, pstLanes, pstState,
      psRetrain, k1, k2]
  · cases tell <;> simp [State.perr, State.addF, State.noLanes, State.putF_reg, State.updPort, State.latchCtl, pstWidth, pstLanes, pstState,
      State.getF, k3, k4, fld_setFld_ne, fld_setFld_same] <;>
      simp only [satAdd] <;> omega
  · simp [State.putF_reg, State.getB, State.getF, q3, hb]
    rw [fld_setFld_same _ _ _ _ (by omega)]; rfl
  · cases tell <;> simp [State.perr, State.addF, State.noLanes, State.putF, State.latchCtl, psTune]
  · intro m hm
    cases tell <;> simp [State.perr, State.addF, State.noLanes, State.putF, State.latchCtl, State.updPort_port_ne _ _ _ _ hm]

end Sys2Proof.Machine
end

