-- ==== Sys2Proof/WellFormed.lean ====
section
/-! DEFINITION. Which commands are well formed: lists of bytes and samples have the lengths the spec gives them. -/

namespace Sys2Proof

/-- A command whose lists have the lengths of the spec: a flit is 256 B (R407), a payload at most 4,096 B (R420),
an atomic of the tree is a line of 128 B (R275), a packet of the mesh 1 to 4 flits (R58), a module has four dies. -/
def Instr.wf (i : Instr) : Bool :=
  match i with
  | .dataFlit _ b | .idleFlit _ b | .creditFlit _ b | .retrainFlit _ b | .quarantineFlit _ b | .configFlit _ b => b.length == 256
  | .put _ _ pl | .get _ _ pl | .atomic _ _ pl | .reduceContrib _ _ pl | .reduceResult _ _ pl => pl.length ≤ 4096
  | .barrierArrive _ _ pl | .barrierRelease _ _ pl | .mcast _ _ pl | .probe _ _ pl => pl.length ≤ 4096
  | .nodeCfg _ _ pl | .portStat _ _ pl | .fabricResponse _ _ pl => pl.length ≤ 4096
  | .gatewayAccept _ p | .cellDownConsume _ p => 1 ≤ p.flits && p.flits ≤ 4
  | .storeRoomAccess q => q.data.length == 128
  | .powerControlStep x => x.pdie.length == 4 && x.tdies.length == 4
  | .recalibrationComplete _ r | .calibrationRetake _ r => r.fmax.length == 26
  | .bar4Write _ _ d => 1 ≤ d.length && d.length ≤ 512
  | _ => true

end Sys2Proof
end

