-- ==== Sys2Proof/Tests/Slice0.lean ====
section
/-! SUPPORT. Witnesses and tests: each `met_X` applies statement X at concrete states and operands, and Lean's kernel
checks that they meet its hypotheses; each `test_…` checks one step or one operation against the spec. -/

open Sys2Proof Sys2Proof.Machine
namespace Sys2Proof.Tests

/-! ### Small states and words -/

/-- A number from the values of its bytes fields: (offset, value). -/
def recNat (l : List (Nat × Nat)) : Nat := (l.map (fun p => p.2 * 256 ^ p.1)).foldl (· + ·) 0

/-- An instruction's fields from (lowest bit, value). -/
def fields (l : List (Nat × Nat)) : BitVec 56 := BitVec.ofNat 56 ((l.map (fun p => p.2 * 2 ^ p.1)).foldl (· + ·) 0)

/-- Memory that holds one record. -/
def memOf (a n x : Nat) : SMap Byte := writeBytes [] a (toLE n x)

/-- A program at work on matrix core n of a state. -/
def State.mcOn (s : State) (n : Nat) (f : McState → McState) : State := (s.putF (mxcSt n) 1).updMc n (fun m => f { m with launched := true })

/-- The module after reset with a program at work on matrix core n. -/
def sMc (n : Nat) (f : McState → McState) : State := State.mcOn State.reset n f

/-- Stack 0 usable, cell 0 and its memory bound to partition 0, context 0 valid there, with every address mapped onto itself. -/
def sMem : State :=
  let s := State.reset.putF (hbmStF 0) 1
  { s with
    parts := { s.parts with cellOf := [(0, 0)], granOf := [(0, 0)] }
    mmu := { s.mmu with
      ctxs := [(0, some ⟨true, 0, false, false, 0, 0, 0, 0, 0, 0⟩)]
      tlb := [⟨0, 0, 0, 2 ^ 18, 0, false, true, true, true, true⟩, ⟨488, 0, 0, 2 ^ 18, 0, false, true, true, true, true⟩] } }

/-- A tile of ROW layout with 32 rows of 32 elements of a format, and one of a single row. -/
def cfg32 (fmt : BitVec 4) : TileCfg := ⟨32, 32, fmt, 0, 0⟩
def cfg1 (fmt : BitVec 4) : TileCfg := ⟨1, 4, fmt, 0, 0⟩

/-- A problem record of one element (R167). -/
def oneRec : Nat := recNat [(0, 1), (2, 1), (4, 1), (8, 1)]
def oneJob : MmaJob := ⟨0, oneRec, 0, false, false, none, 9, 9, 0, 0⟩
def onePass : ArrayPass := ⟨false, 0, false, 9, 9, false, 1, 1, 1, 0, 0, 0, [0x80, 0x3F], [0x80, 0x3F], [], [], true⟩

/-- A loop descriptor of one BF16 element into a binary32 C at 0x3000, with a count of claimed tiles (R197). -/
def oneLds (ctl cnt : Nat) : Nat := recNat [(0, ctl), (4, 0x99), (5, 0xB), (8, 1), (0xC, 1), (0x10, 1), (0x14, 1), (0x16, 1), (0x18, 1),
  (0x1B, cnt - 1), (0x20, 0x1000), (0x28, 0x2000), (0x30, 0x3000), (0x48, 0x4000), (0x50, 2), (0x54, 2), (0x58, 4)]
def ldsAt (ctl cnt : Nat) : LdsState := ldsStart 0 (oneLds ctl cnt) 0 .keepAll

/-- A matrix core with tiles 0, 1 and 2 configured. -/
def tiled (c : TileCfg) (m : McState) : McState := { m with cfg := [(0, some c), (1, some c), (2, some c)] }

/-- A valid table image in tile 0 (R145): a finite first value, step 0. -/
def tabCfg : TileCfg := ⟨49, 16, 0xB, 0, 0⟩

/-- A row of four elements of a part-done move. -/
def tileOp1 (k : TileOpKind) : TileOp := ⟨7, k, 0, 3, false, 0x1000, 64, 16, 2, 0, 0, [], none, toLE 32 (recNat [(0, 5), (17, 9)]), [], none, false⟩
def sOp (k : TileOpKind) : State := State.mcOn sMem 0 (fun m => { m with ops := [tileOp1 k] })
def draining (ctl : Nat) : LdsState := { ldsAt ctl 2 with groups := [⟨0, 0, 0, true, 0⟩] }

/-- A program on core 0, whose queue of descriptors is full. -/
def sFullQ : State := (sMc 0 id).setDmaQ 0 0 (List.replicate 16 ⟨0, .queued, 0, 0, 0, [], []⟩)

/-- The state after an entry into a barrier that is taken. -/
def entered (o : BarOut) : State := match o with | .entered s => s | _ => State.reset

/-- Core 0 of cell 0 is the one participant of barrier 3 of partition 0. -/
def sBar : State :=
  let s := State.mcOn sMem 0 id
  { s with sync := { s.sync with cfgs := [(barKey 0 3, some ⟨0, true, 1, [coreBit ⟨false, 0⟩]⟩)] } }

/-- A counter of the sync unit of matrix core 0 holds a value. -/
def sCnt (n v : Nat) : State :=
  let s := State.mcOn sMem 0 id
  { s with sync := { s.sync with cores := [(mcKey 0, { cnt := [(n, BitVec.ofNat 16 v)] })] } }

/-- Vector core 0 at work on its scratch, with registers and CSRs given; its counter 3 holds 9. -/
def sVc (x csr : SMap Word) (f : RvState → RvState) : State :=
  let s := sMem.setRv 0 (f { pc := 0xFFFFFFFFFFF80000, x := x, csr := csr, launched := true })
  { s with sync := { s.sync with cores := [(vcKey 0, { cnt := [(3, 9)] })] } }
/-- SEW 32, LMUL 1, vl 4. -/
def v32 : SMap Word := [(0xC20, 4), (0xC21, 0x10)]
def sVcBar : State :=
  let s := sVc [(5, 3)] [] id
  { s with sync := { s.sync with cfgs := [(barKey 0 3, some ⟨0, true, 1, [coreBit ⟨true, 0⟩]⟩)] } }

/-- A line of a store room, and the module with it in the store room of its home. -/
def line5 : RoomLine := ⟨5, 0, List.replicate 128 7, false, false⟩
def sRoom (l : List RoomLine) : State := { sMem with rooms := [(sMem.homeOf 5, { lines := l })] }
def req5 (k : Access) (en : BitVec 128) : RoomReq := ⟨0, 5, k, en, List.replicate 128 9⟩
def mem5 (w : Bool) : MemReq := ⟨5, sMem.homeOf 5, w, fullEn, List.replicate 128 9, false, some (req5 .read 0), true⟩
def sWays : State := sMem.putF ⟨srmBase 0 + 0x100, 0, 16⟩ 0xFFFF
/-- A line that is poisoned. -/
def sBadLine : State := sRoom [{ line5 with poison := true }]
def sAmo (r : RvState) : State := (sRoom [line5]).setRv 0 r

/-- A fault record of class cls (R311), and the module with it. -/
def frec (cls : Nat) (q : Option Nat) : FaultRec := ⟨1, 0x10000, .mc 0, 0, 0, cls, .read, false, 0, 0, [], q, false, false⟩
def ctxGrow : CtxEntry := ⟨true, 0, true, true, 7, 0, 0, 100, 0x10000, 50⟩
def sFault (s : State) (f : FaultRec) : State :=
  { s with mmu := { s.mmu with ctxs := [(0, some ctxGrow)], tlb := [], recs := [f], prgs := [] } }
/-- A pool record with entries from head to tail (R315), at 0x10000. -/
def sPool (head tail size : Nat) : State :=
  (sMem.physWrite 0 noCore 0x10000 (toLE 64 (recNat [(0, head), (8, tail), (16, size)]))).physWrite 0 noCore 0x10040
    (toLE 8 0x200000)

def saved0 (l d : List Nat) : SavedCtx := ⟨0, 0, true, l, [], {}, {}, [], [], d⟩
def sSaved (x : SavedCtx) : State := { sMem with parts := { sMem.parts with saved := [x] } }
def kern0 (p : KernPhase) : Kernel := ⟨0, .ring 0, 0, 0, 0, 1, p, false, false, none, none⟩
def sVcFull : State := (sVc [(6, 0xFFFFFFFFFFF80040)] v32 id).setDmaQ 0 4 (List.replicate 16 ⟨0, .queued, 0, 0, 0, [], []⟩)
def sDry : State :=
  let s := sFault (sPool 4 4 16) (frec clsNotPresent (some 0))
  { s with mmu := { s.mmu with poolEmpty := [(0, true)] } }
def sPrg : State :=
  let s := sFault sMem (frec clsNotPresent none)
  { s with mmu := { s.mmu with prgs := [1] } }
def sStop : State :=
  let s := ((sSaved (saved0 [3, 4, 5] [])).setRv 0 { stopped := true }).putF (mxcSt 3) 3
  s.putF ⟨dmaBase 0, 30, 1⟩ 1

/-! ### DMA, sync, ports, fabric -/

def dsc (l : List (Nat × Nat)) : BitVec 512 := BitVec.ofNat 512 (recNat l)
/-- Queue q of cell 0 holds one descriptor. -/
def sDsc (q : Nat) (w : BitVec 512) : State := sMem.setDmaQ 0 q [⟨w, .queued, 0, 0, 0, [], []⟩]
def desc0 (w : BitVec 512) : DescState := ⟨w, .queued, 0, 0, 0, [], []⟩
/-- A copy of 16 B from memory into the scratch of core 0, and the same from an address that nothing maps. -/
def dCopy : BitVec 512 := dsc [(8, 0x1000), (0x10, 0x40), (0x16, 1), (0x18, 16)]
def dCopyBad : BitVec 512 := dsc [(8, 2 ^ 40), (0x10, 0x40), (0x16, 1), (0x18, 16)]
/-- A BF16 panel or image of one row of four elements. -/
def dObj (kind : Nat) : BitVec 512 := dsc [(0, kind), (4, 0x99), (8, 0x1000), (0x10, 0x100), (0x16, 1), (0x18, 4)]
/-- An atomic with its result into scratch. -/
def dAtomic (aop : Nat) : BitVec 512 := dsc [(0, 3 + 2 ^ 13 * aop), (8, 0x1000), (0x10, 0x40), (0x16, 1), (0x30, 5)]
def dMask : BitVec 512 := dsc [(0, 4), (8, 0x280)]
def dKey : BitVec 512 := dsc [(0, 5), (0x30, 0x123), (0x24, 7), (0x20, 9), (0x28, 11)]
/-- A multicast whose target cell 1 still waits. -/
def dMcast : DescState := ⟨dsc [(0, 2 ^ 8)], .done, 1, 0, 0, [(1, .waiting)], []⟩
def sMcast : State := sMem.setDmaQ 0 0 [dMcast]
def sLate : State := { sMem with dma := [(0, { late := [(0, 1, [])] })] }

def sig0 (v : BitVec 16) : Signal := ⟨⟨false, 1919⟩, ⟨false, 0⟩, 3, v, 0, false⟩
def sSig (cnt : Nat) (g : Signal) : State := let s := sCnt 3 cnt; { s with sync := { s.sync with signals := [g] } }
def sNode (scope : BitVec 2) (expected : Nat) : State :=
  { sMem with sync := { sMem.sync with
      arrivals := [(.half 0 true, 0, 3, 2)], cfgs := [(barKey 0 3, some ⟨scope, false, 2, []⟩)]
      nodes := [(nodeKey 0 3 1, some ⟨expected, [(2, 1)]⟩)] } }
def sRel : State :=
  let s := sCnt 9 0
  { s with sync := { s.sync with
      cores := [(mcKey 0, { cnt := [(9, 0xFFFE)], bars := [(3, some ⟨3, [(2, 9)]⟩)] })], releases := [(mcKey 0, 0, 3, 2)] } }
def sIdle : State :=
  let s := (sCnt 3 4).putF ⟨synBase 0 + 0x100, 0, 32⟩ 0x00010001
  { s with sync := { s.sync with cores := [(mcKey 0, { want := some (3, 9), bars := [(3, some ⟨3, [(2, 9)]⟩)] })] } }
def sHung : State := { sIdle with sync := { sIdle.sync with cores := [(mcKey 0, { hung := [(3, 2)], bars := [(3, some ⟨3, [(2, 9)]⟩)] })] } }

/-- Port p in a state. -/
def sPort (p st : Nat) (f : PortState → PortState) : State :=
  let s := State.reset.putF (pstState p) st
  s.setPort p (f (s.port p))
/-- A flit of the kind in its header's low bits with a payload. -/
def flit (hdr : Nat) (pay : List Byte) : List Byte := mkFlit hdr pay
def sTx (s : State) : State := forEach s.fabric.toRoute { s with fabric := { s.fabric with toRoute := [] } } (fun s m => s.sendMsg m true)

/-- Module 5 with port 0 ACTIVE, bound to partition 0, whose job is 7. -/
def sFab : State :=
  (((sMem.putF ⟨chnBase, 0, 15⟩ (5 + 2 ^ 14)).putF ⟨chnBase + 0x80, 0, 17⟩ (7 + 2 ^ 16)).putF ⟨portKey 0 + 0x10, 0, 16⟩ 1).putF (pstState 0) 5
/-- A message of module 9 to module 5. -/
def msg (type len status ctx a b c : Nat) : BitVec 256 := mkHdr type len 5 9 7 1 status ctx a b c
def pay16 : List Byte := toLE 16 0x12345
def req0 (type : Nat) : OutReq := ⟨1, [9], 0, 0, 0, mkHdr type 1 9 5 7 1 0 0 16 0x1000 0, pay16, .frag 0 0, [9]⟩
def sReq (type : Nat) : State := { sFab with fabric := { sFab.fabric with outstanding := [req0 type] } }
def sBarFab : State := { sFab with sync := { sFab.sync with cfgs := [(barKey 0 3, some ⟨3, false, 2, []⟩)] } }

/-- A round of a binary32 vector of 64 elements, round number 3, child port 0. -/
def round0 (ctl : Nat) (locs : List (Nat × Nat × Bool)) (fr : SMap Frag) : RedRound :=
  ⟨.cmd (.ring 0) 0, 0, BitVec.ofNat 512 (recNat [(0, 0xBB0000 + ctl), (8, 64), (0xC, 1), (0x10, 0x2000), (0x28, 1), (0x2C, 3)]),
    locs, [], 0, fr, 0, false, false, 0, false, false, []⟩
def red0 (r : RedRound) : RedState := ⟨0, 4, 8, some r, none, none, []⟩
def sRed (r : RedRound) : State := { sFab with reds := [red0 r] }
def assist0 (s : State) : State := s.putF ⟨cfgBase + 0x100, 1, 1⟩ 1
def round128 : RedRound :=
  { round0 0 [] [(0, { st := .writing, result := some (1, 0, []) })] with
    rcd := BitVec.ofNat 512 (recNat [(0, 0xBB0000), (8, 128), (0x28, 1), (0x2C, 3)]) }
/-- A contribution of port 0 to fragment 0 of a round, and the result of it. -/
def contrib0 (round : Nat) : BitVec 256 := msg 4 16 0 0 (4 + round * 4096 + 0xB00000) (2 ^ 32) (2 ^ 23 + 2 ^ 30)
def result0 : BitVec 256 := msg 5 16 0 0 (4 + 3 * 4096 + 0xB00000) (2 ^ 32) (2 ^ 14)
def pay256 : List Byte := toLE 256 0x3F800000
/-- A round whose one local contribution lies at an address, fragment 0 opened or not. -/
def roundAt (a : Nat) (fr : SMap Frag) : RedRound := round0 0 [(a, 0, false)] fr
def opened0 : SMap Frag := [(0, { st := .opened })]
def sBadRed : State := { sBadLine with reds := [red0 (roundAt 0x280 [])] }
/-- The CONFIG record of a partner that sends back the record of the port itself. -/
def cfgPay : List Byte :=
  let theirs := [1, 1, 0, 3, 0, 0, 0x01, 7] ++ List.replicate 24 0
  theirs ++ (((sPort 17 4 (fun p => { p with aligned := 0xF })).setPort 17
    { (sPort 17 4 (fun p => { p with aligned := 0xF })).port 17 with record := some (BitVec.ofNat 256 (ofLE theirs)) }).ownRecord 17)

/-! ### Mesh, cellar engines -/

/-- A packet of two flits from the cell of column 1 to the one of column 3 of the first row, and one that comes from another die. -/
def pk : MeshPacket := ⟨0, ⟨0, 1, 0⟩, .cell 3, .req, 2, 0, false⟩
def pkIn : MeshPacket := ⟨0, ⟨2, 1, 0⟩, .cell 3, .xout, 2, 0, false⟩
/-- A multicast from the same cell to columns 0 to 2 of rows 0 and 1. -/
def pm : MeshPacket := ⟨0, ⟨0, 1, 0⟩, .set 0 false false 0x1020, .mcast, 2, 0, false⟩
def sMesh : State :=
  { State.reset with mesh :=
      { bufs := [(bufKey 1 .cell 0, [⟨pk, false⟩, ⟨pk, true⟩]), (bufKey 1 .cell 1, [⟨pm, false⟩, ⟨pm, true⟩])]
        owed := [(bufKey 1 .east 0, 2)], used := [(bufKey 1 .east 0, 2)]
        gates := [(gateKey 240 .west, [pkIn])], arrived := [(5, pk)] } }
def sRepl (l : List ReplEntry) (used : Nat) : State :=
  { sMesh with mesh := { sMesh.mesh with repl := [(1, l)], used := [(bufKey 1 .east 1, used)] } }

/-- An update job of one binary32 entry of one row of 128 columns at 0x1000, with its statistics at 0x2000. -/
def ujob (done : Bool) : UpdJob :=
  ⟨0, .ring 0, 0, 0, 0, BitVec.ofNat 512 (recNat [(0, 1), (4, 1), (0x10, 0x3F800000)]), BitVec.ofNat 512 (recNat [(0x10, 0x2000)]),
    [BitVec.ofNat 1024 (recNat [(3, 0xB), (8, 1), (0xC, 128), (0x10, 1), (0x28, 0x1000)])], [0],
    done, false, false, 0, 0, 0x3F800000, false, 0, if done then 2 else 1, 0xFF, [], [], 0⟩
def sCe (ph : CePhase) (done : Bool) (tlb : List TlbEntry) : State :=
  { sMem with
    mmu := { sMem.mmu with tlb := tlb }
    cellar := { engines := [(0, { job := some 0, phase := ph })], jobs := [ujob done], nextJob := 1, weights := [(0, 1)], turn := [(0, (0, 0))] } }
def ceTlb : List TlbEntry := [⟨unitTlb (ceUnit 0), 0, 0, 2 ^ 18, 0, false, true, true, true, true⟩]

def sRails (f : PowerState → PowerState) : State := { State.reset with power := f { State.reset.power with rails := true } }
def sVfs : State := { State.reset with host := { State.reset.host with numVfs := 2 } }
def sDead : State := { sMesh with power := { sMesh.power with dieOff := [(0, true)] } }

/-! ### Rings, records and commands -/

/-- Ring 3 of partition 0 ACTIVE, of a kind, with 16 entries; the function may send requests; stack 0 usable. -/
def sRing (k : Nat) : State :=
  let s := (((sMem.putF (ringKind 3) k).putF (ringSt 3) 1).putB (ringEn 3) true).putF (ringLsize 3) 4
  { s with host := { s.host with busMaster := [(0, true)] } }
/-- A fetched command is open on ring 3. -/
def sRingMod (k i : Nat) : State := (sRing k).putF (ringHost 3) i
def sWait : State := { sRing 2 with host := { (sRing 2).host with waitRecs := [(3, [toLE 16 5])] } }
def sEvent : State := ((sRing 3).setEvts 0 { buffer := [toLE 64 5] }).putF ⟨fnPage 0 + 8, 8, 10⟩ 3
def sPop : State := (sRing 3).setEvts 0 { popReqs := [toLE 64 (5 + 6 * 2 ^ 32)] }
def sWin : State :=
  let s := sMem.putF ⟨fnPage 0 + 0x10, 6, 1⟩ 1
  { s with parts := { s.parts with physwin := some 0, granOf := [(0, 0)] } }
def held0 : HeldBar := ⟨0, 4, 0x1000, none, 8, 1⟩
def sHeld : State := { sWin with host := { sWin.host with held := [held0] } }
def sVec (pend busy : Bool) : State :=
  { sMem.setReg (vecKey 0 5 + 8) 7 with host := { sMem.host with vecPend := [(5, pend)], vecBusy := [(5, busy)] } }

def cmd (l : List (Nat × Nat)) : Cmd := BitVec.ofNat 512 (recNat l)
/-- A command is open on ring 0 of a state, fetched and not started. -/
def withCmd (s : State) (c : Cmd) : State := { s with host := { s.host with open_ := [⟨.ring 0, c, false⟩] } }
def sCmd (l : List (Nat × Nat)) : State := withCmd sMem (cmd l)
/-- A record of n bytes stands at an address. -/
def withRec (s : State) (a n : Nat) (l : List (Nat × Nat)) : State := s.physWrite 0 noCore a (toLE n (recNat l))
/-- What a command's read of a record gives: the state, the bytes. -/
def recSt (r : RecDo) : State := match r with | .bytes s _ => s | _ => State.reset
def recBs (r : RecDo) : List Byte := match r with | .bytes _ b => b | _ => []
def barSt (r : BarDo) : State := match r with | .ok s _ _ => s | _ => State.reset
def barBs (r : BarDo) : List Byte := match r with | .ok _ b _ => b | _ => []

/-- The launch of the first matrix core and the vector core of cell 0. -/
def launchRec : List (Nat × Nat) := [(0, 1), (0x3C, 0x11)]
def cLaunch : List (Nat × Nat) := [(0, 1), (8, 0x1000)]
def sLaunch (l : List (Nat × Nat)) : State := withRec (sCmd cLaunch) 0x1000 128 l
def kernR (p : KernPhase) : Kernel := { kern0 p with rcd := BitVec.ofNat 1024 (recNat launchRec) }
def sKern (p : KernPhase) : State := { sMem with host := { sMem.host with kernels := [kernR p] } }
def sKernOver (st : Nat) : State :=
  (((sKern .running).updMc 0 (fun m => { m with ended := true })).setRv 0 { ended := true }).putF (mxcSt 0) st
def endedMcs (s : State) : State := forEach (kernR .running).mcs s (fun s n => s.endMc n)
def cStop (act : Nat) : List (Nat × Nat) := [(0, 2), (0xC, act)]
def sStopCmd (p : KernPhase) (l : List (Nat × Nat)) : State := withCmd (sKern p) (cmd l)

def cCopy : List (Nat × Nat) := [(0, 0x10), (8, 0x1000), (0x10, 1), (0x12, 0xFF)]
def cFm : List (Nat × Nat) := [(0, 0x41), (8, 0x3000), (0x10, 0x2000), (0x18, 0x1000), (0x20, 0x4000), (0x28, 64), (0x2C, 1), (0x2E, 1)]
def cBar : List (Nat × Nat) := [(0, 0x20), (8, 0x1000)]
/-- A barrier's configuration of core 0 alone, with its bitmap at 0x2000; the record that takes it away; the barrier at work. -/
def sBarNew : State := withRec (withRec (sCmd cBar) 0x1000 64 [(0, 3), (8, 0x2000)]) 0x2000 300 [(0, 1)]
def sBarOff (s : State) : State := withRec (withCmd s (cmd cBar)) 0x1000 64 [(0, 3 + 2 ^ 13)]
def sBarBusy : State := sBarOff { sBar with sync := { sBar.sync with cores := [(mcKey 0, { bars := [(3, some ⟨0, [(1, 2)]⟩)] })] } }
def cRed : List (Nat × Nat) := [(0, 0x21), (8, 0x1000)]
/-- A root round of one local contribution. -/
def sRedNew : State :=
  withRec (withRec (sCmd cRed) 0x1000 64 [(0, 0xBB4004), (4, 1), (7, 4), (8, 64), (0x10, 0x2000), (0x20, 0x3000)]) 0x3000 16 [(0, 0x5000)]
def cUpd : List (Nat × Nat) := [(0, 0x23), (8, 0x1000)]
def sUpd : State :=
  let s := withRec (withRec (withRec (sCmd cUpd) 0x1000 64 [(4, 1), (6, 1), (8, 1), (0x10, 0x3F800000), (0x18, 0x2000), (0x20, 0x2800), (0x38, 0x4000)])
    0x2000 128 [(3, 0xB), (8, 1), (0xC, 128), (0x10, 1), (0x28, 0x8000)]) 0x2800 32 []
  { s with cellar := { s.cellar with weights := [(0, 1)] } }
def sUpdBad : State := withRec (sCmd cUpd) 0x1000 64 []
def cClose (act : Nat) : List (Nat × Nat) := [(0, 0x22), (8, 4), (0xA, act), (0xB, 3)]
def sCloseRed (act : Nat) : State := withCmd { sMem with reds := [red0 (round0 0 [] opened0)] } (cmd (cClose act))
def cUstop (q : Nat) : List (Nat × Nat) := [(0, 0x24), (8, q), (0xA, 7)]
/-- An UPDJOB with ID 7 is open, started or not, behind it an UPDSTOP of it. -/
def cJob7 : Cmd := cmd [(0, 0x23), (2, 7)]
def sUstop (started : Bool) : State :=
  let s := sCe .pass1 false ceTlb
  { s with
    host := { s.host with open_ := if started then [⟨.ring 0, cJob7, true⟩, ⟨.ring 0, cmd (cUstop 0), false⟩]
      else [⟨.ring 1, cJob7, false⟩, ⟨.ring 0, cmd (cUstop 1), false⟩] }
    cellar := { s.cellar with jobs := [{ ujob false with cmd := cJob7 }] } }

/-- Page faults, invalidations and ports, by command. -/
def cFlt (id act : Nat) : List (Nat × Nat) := [(0, 0x30), (8, id), (0xC, act)]
def sFlt (l : List (Nat × Nat)) : State := withCmd (sFault sMem (frec clsNotPresent none)) (cmd l)
def cInv (kind n : Nat) : List (Nat × Nat) := [(0, 0x31), (8, kind), (0x10, 0x4000), (0x18, n)]
def cFab : List (Nat × Nat) := [(0, 0x40), (8, 0x1000), (0x10, 1)]
def sFabCmd (l : List (Nat × Nat)) : State := withCmd sFab (cmd l)
def cPort (n act : Nat) : List (Nat × Nat) := [(0, 0x42), (8, n), (9, act)]
def sPortCmd (n act : Nat) : State := withCmd (sFab.putF (pstState 0) n) (cmd (cPort 0 act))

/-! ### The coupling service -/

/-- Partition 0 holds a weight of the service. -/
def svcOn (s : State) : State := { s with parts := { s.parts with svcWeight := [(0, 1)] } }
def cPan (op : Nat) (l : List (Nat × Nat)) : List (Nat × Nat) := (0, 0x50) :: (8, op) :: l
/-- Four FIFO samples of 128 B, with 16 staging slots. -/
def panRec : List (Nat × Nat) :=
  [(4, 128), (8, 4), (0xC, 16), (0x10, 0x10000), (0x18, 0x20000), (0x20, 0x30000), (0x28, 0x40000), (0x38, 5)]
def pan0 : Pantry := ⟨BitVec.ofNat 512 (recNat panRec), 0x1000, 0, 0, 0, 0, [], none, none, [], none, []⟩
def withPan (s : State) (x : Pantry) : State := (svcOn s).setPantry 0 0 (some x)
def sPan (x : Pantry) (l : List (Nat × Nat)) : State := withCmd (withPan sMem x) (cmd l)
def panAsk : Pantry := { pan0 with filled := [0], request := some (7, 0, 1) }
def cSelect : List (Nat × Nat) := cPan 3 [(0xC, 1), (0x10, 0x1000), (0x20, 7)]
def sPanNew : State := withRec (withCmd (svcOn sMem) (cmd (cPan 0 [(0x10, 0x1000)]))) 0x1000 64 panRec
def svcSt {α : Type} (r : Svc α) : State := match r with | .ok s _ => s | _ => State.reset
def pubRec : List (Nat × Nat) := [(0, 2), (8, 4096), (0x10, 0x8000), (0x18, 0x10000), (0x20, 0x9000), (0x30, 0x20000), (0x38, 0x30000)]
def sPub : State := withRec (withCmd (svcOn sMem) (cmd (cPan 5 [(0x10, 0x1000)]))) 0x1000 64 pubRec
def qryRec (en : Nat) : List (Nat × Nat) :=
  [(0, en), (4, 128), (8, 16), (0xC, 16), (0xE, 1), (0x10, 1), (0x18, 0x10000), (0x20, 0x20000), (0x28, 0x28000), (0x30, 0x30000), (0x38, 0x38000)]
def qry0 : Query := ⟨BitVec.ofNat 512 (recNat (qryRec 1)), 0, [], 1, false, none, false, none, false, 0⟩
def cQry : List (Nat × Nat) := cPan 6 [(0x10, 0x1000)]
def sQryCmd (en : Nat) (x : Option Query) : State := (withRec (withCmd (svcOn sMem) (cmd cQry)) 0x1000 64 (qryRec en)).setQuery 0 0 x
def qryBatch : Query := { qry0 with batch := [(0, List.replicate 8 0)] }
def qryOut : Query := { qryBatch with outstanding := true }
def sQry (x : Query) : State := withRec ((svcOn sMem).setQuery 0 0 (some x)) 0x28020 8 [(0, 1)]

/-- A cadence of 1,000 us with two phases: a feed by a descriptor, then another. -/
def cadRec : List Byte := toLE 288 (recNat [(0, 2), (4, 1000), (8, 0x40000), (0x20, 3), (0x28, 0x50000), (0x30, 1), (0x40, 3), (0x48, 0x50000), (0x50, 1)])
def cad0 (st : CadSt) (inP : Bool) : Cadence := ⟨cadRec, 0, st, 0, 0, inP, 0, 0, 100000, 0, 0, 0, [], [], none, none, 0xFF, 0, none, 0, 0, 0⟩
def cCad (op : Nat) (l : List (Nat × Nat)) : List (Nat × Nat) := (0, 0x51) :: (8, op) :: l
def withCad (s : State) (x : Cadence) : State := (svcOn s).setCadence 0 0 (some x)
def sCad (x : Cadence) (l : List (Nat × Nat)) : State := withCmd (withCad sMem x) (cmd l)
def sCadNew : State := (withCmd (svcOn sMem) (cmd (cCad 0 [(0x10, 0x1000)]))).physWrite 0 noCore 0x1000 cadRec
def cadAsk (st : CadSt) : Cadence := { cad0 st false with request := some 7 }

/-- The invalidation of five pages from page 4 on waits. -/
def invQueued (s : State) (c : Cmd) : State :=
  ({ s with mmu := { s.mmu with invs := s.mmu.invs ++ [⟨some 0, some (4, 5), some 0, some (.ring 0), c⟩] } } : State).putB ⟨mmuBase + 8, 11, 1⟩ true

/-! ### Partitions, interrupts, power, settings, recovery -/

/-- A PARTOP with its op, partitions, flag and arguments, and a state with it open. -/
def cPo (op p q fl arg arg2 : Nat) (l : List (Nat × Nat)) : Cmd :=
  cmd ([(0, 0x60), (8, op), (9, p), (0xA, q), (0xB, fl), (0xC, arg), (0x10, arg2)] ++ l)
def sPo (c : Cmd) : State := withCmd sMem c
def cMove : Cmd := cPo 2 16 0 1 (2 ^ 9) 0 []
def sMove : State := withCmd (sKern .running) cMove
def sMoved : State := (forEach [kernR .running] sMove (fun s k => s.endKern k)).markStarted (.ring 0) cMove
def cVf : Cmd := cPo 11 0 0 0 3 0 []
def sVf : State := { sPo cVf with parts := { (sPo cVf).parts with ringOf := [(0, 1)] } }
def sCadCmd : State := { sPo cVf with host := { (sPo cVf).host with open_ := [⟨.cadence 0 0, cVf, false⟩] } }

def sPend : State :=
  let s := (sMem.putB (irqEn 4 5) true).putF (irqTgt 4 5) 3
  { s with irq := { s.irq with line := [(512 * 4 + 5, true)] } }
def sTaken : State := { sPend with irq := { sPend.irq with taken := [(3, some (4, 5))] } }

def sampleIn : InputSample := ⟨4800, 500, 2400, 2300⟩
def sampleCtl : ControlSample := ⟨[500, 500, 500, 500], 100, 20, 30, [60, 60, 60, 60], 50, []⟩
def cal0 : CalRecord := ⟨50, 60, 0x3F800000, 0x3F000000, List.replicate 26 2000⟩
def sPow (f : PowerState → PowerState) : State := { State.reset with power := f State.reset.power }

/-- A requester's guard of a group stands open. -/
def sKey (rq : Requester) (g : Nat) : State := { State.reset with guards := [(rq, g)] }
def sBurn : State := { sKey .pf pwrBase with mgmt := { (sKey .pf pwrBase).mgmt with cwrite := some ⟨1, 2000, 1⟩ } }
def sAns : State := { sKey .pf pwrBase with power := { (sKey .pf pwrBase).power with reqs := [(0, some ⟨7, 2500⟩)] } }
def sJobs : State := (sKey (.fw 15) chnBase).putF ⟨chnBase + 0x80 + 8, 0, 17⟩ (7 + 2 ^ 16)
def sRecov : State := { sKey .pf rstJBase with recovery := { (sKey .pf rstJBase).recovery with reqs := [(0, some 7)] } }
/-- Controller 3 has failed. -/
def sFailed (f : RecoveryState → RecoveryState) : State :=
  { State.reset with recovery := f { State.reset.recovery with failed := [(3, true)] } }

/-- The state before a command's completion, from the one after it. -/
def uOf (s : State) (r : Res) : State :=
  match r with
  | .next t => { t with host := { t.host with open_ := s.host.open_, waitRecs := s.host.waitRecs } }
  | _ => s

/-- The module with its I3C address and endpoint ID. -/
def sMg (f : MgmtState → MgmtState) : State := { sMem with mgmt := f { sMem.mgmt with address := some 9, eids := [(0, 5)] } }
def img0 : Image := ⟨true, 2, 3, 4, true, true, true⟩
def sUpdate : State := sMg (fun m => { m with session := some ⟨.i3c, [2], []⟩ })
def sNeg (x : SpdmStage) : State := sMg (fun m => { m with spdm := [(0, x)] })
def sQueue : State := { State.reset with pending := [.leakDetected, .perstNAssert] }

/-- The object that a DMA descriptor of the queue's head lays out. -/
def planeOut (s : State) (q : Nat) (t : DescState) : Int × List (Byte × Bool) :=
  nth (0, []) ((s.updDesc 0 q 0 (fun x => { x with phase := .moving })).operandPlane (s.mover 0 q) (descOf t.d) t.rowsDone).outs 0
set_option Elab.async false
set_option maxRecDepth 100000

/-! ### One witness for each statement -/

def case1 : State := sMc 1919 (fun m => { m with loops := [(1, 5)], g := [(7, 9)], scratch := memOf 0 8 77 })
def case2 : State := sMc 0 (fun m => { m with ops := [tileOp1 .tld] })
def case3 : State := sMc 0 (fun m => { m with cfg := [(0, some tabCfg)], tiles := memOf 0 8 0x3F800000 })
def case4 : State := sMc 0 (fun m => { m with cfg := [(0, some tabCfg)], tiles := memOf 0 8 0x7F800000 })
def case5 : State := sMc 0 (fun m => { m with scratch := memOf 64 8 77 })
def case6 : State := sMc 0 (fun m => { m with acc := [(60 * 1024, 5), (59 * 1024, 7)] })
def case7 : State := sMc 0 (fun m => { tiled (cfg32 0xB) m with acc := [(63 * 1024, 0x3F800000)] })
def case8 : State := sMc 0 (fun m => { tiled (cfg32 0xB) m with tiles := memOf 4096 4 0x3F800000 })
def case9 : State := sMc 0 (fun m => { m with scratch := memOf 0 64 oneRec })
def case10 : State := sMc 0 (fun m => { m with jobs := [oneJob], passes := [onePass] })
def case11 : State := sMc 0 (fun m => { m with scratch := memOf 128 128 (oneLds 0 2) })
def case12 : State := sMc 0 (fun m => { m with scratch := memOf 128 128 (oneLds 7 2) })
def case13 : State := (sMc 0 (fun m => { m with scratch := memOf 128 128 (oneLds 0 1) })).putF (mxcStrict 0) 1
def case14 : State := sMc 0 (fun m => { m with lds := some (ldsAt 0 2) })
def case15 : State := sMc 0 (fun m => { m with lds := some (draining 0x1000) })
def case16 : State := State.mcOn sMem 0 (fun m => { m with lds := some (draining 0) })
def case17 : State := sMc 0 (fun m => { tiled (cfg1 0xB) m with tiles := memOf 4096 8 0x40000000BF800000 })
def case18 : State := sMc 0 (fun m => { m with cfg := [(0, some (cfg1 5)), (1, some (cfg1 0xB))], tiles := memOf 4096 8 0x4FFFFFFFBF800000 })
def case19 : State := sVc [(6, 0xFFFFFFFFFFF80040)] v32 (fun r => { r with v := memOf 2048 8 0x40000000BF800000 })
def case20 : State := { sWays with hbm := { sWays.hbm with fills := [(0, [⟨mem5 false, List.replicate 128 3, false⟩])] } }
def case21 : State := { sMem with hbm := { sMem.hbm with memQ := [(0, [mem5 false])] } }
def case22 : State := { sMem with hbm := { sMem.hbm with memQ := [(0, [mem5 true])], written := [(0, true)] } }
def case23 : State := { sMem with mmu := { sMem.mmu with tlb := [] } }
def case24 : State := sFault sMem { frec clsNotPresent none with level := 1 }
def case25 : State := { sMem with mmu := { sMem.mmu with invs := [⟨none, none, none, none, 0⟩] } }
def case26 : State := { sSaved (saved0 [] [0]) with host := { sMem.host with kernels := [kern0 .restoring] } }
def case27 : State := { sSig 9 (sig0 5) with power := { State.reset.power with rails := false } }
def case28 : State := { sMem with sync := { sMem.sync with answers := [(479, false), (3, true)] } }
def case29 : State := sPort 17 2 (fun p => { p with backoff := true })
def case30 : State := (sPort 17 5 (fun p => { p with limited := [(7, true)], retry := [⟨9, 0, []⟩] })).putF (pstLanes 17) 0xF
def case31 : State := sPort 17 7 (fun p => { p with releases := [0, 0] })
def case32 : State := sPort 17 7 (fun p => { p with releases := [0, 0, 0] })
def case33 : State := sPort 17 4 (fun p => { p with aligned := 0xF })
def case34 : State := sPort 17 5 (fun p => { p with ctrl := [2, 3] })
def case35 : State := sPort 17 5 (fun p => { p with replay := [⟨9, 0, [1]⟩] })
def case36 : State := sPort 17 4 (fun p => { p with ctrl := [2, 3] })
def case37 : State := assist0 (sRed { round0 0 [] opened0 with posted := true })
def case38 : State := sRails (fun p => { p with lowBand := some 3 })
def case39 : State := sRepl (List.replicate 8 ⟨{ pm with flits := 4 }, [.east]⟩) 0
def case40 : State := withCad sMem { cad0 .run true with failed := some 3 }
def case41 : State := (withCad sMem { cad0 .run true with failed := some 3 }).svcKick 0
def case42 : State := withCad sMem { cad0 .run true with phase := 1 }
def case43 : State := (withCad sMem { cad0 .run true with phase := 1 }).svcKick 0
def case44 : State := sPow (fun p => { p with recal := [(5, true)] })
def case45 : State := sFailed (fun r => { r with restarting := [(3, true)] })
def case46 : State := sFailed (fun r => { r with restarting := [(3, true)], restarts := [(3, [0, 0, 0])] })

theorem met_MatrixControlAndKeysComplete (h : Obligations.MatrixControlAndKeysComplete) :
    (∃ t, exec (Instr.nop 1919 0) case1 = .next t) ∧
    (∃ t, exec (Instr.halt 1919 0) case1 = .next t) ∧
    (∃ t, exec (Instr.jmp 1919 (fields [(0, 0xFFFFFFFE)])) case1 = .next t) ∧
    (∃ t, exec (Instr.setl 1919 (fields [(54, 3), (0, 0xFFFFFFFF)])) case1 = .next t) ∧
    (∃ t, exec (Instr.bloop 1919 (fields [(54, 1), (0, 0x10)])) case1 = .next t) ∧
    (∃ t, exec (Instr.psync 1919 0) case1 = .next t) ∧
    (∃ t, exec (Instr.gli 1919 (fields [(53, 7), (0, 0xFFFFFFFFFFFF)])) case1 = .next t) ∧
    (∃ t, exec (Instr.gadd 1919 (fields [(53, 7), (0, 0xFFFFFFFF)])) case1 = .next t) ∧
    (∃ t, exec (Instr.glds 1919 (fields [(53, 5), (0, 0x0)])) case1 = .next t) ∧
    (∃ t, exec (Instr.org 1919 (fields [(53, 7)])) case1 = .next t) ∧
    (∃ t, exec (Instr.srset 1919 (fields [(53, 7), (37, 0xABCD), (36, 1)])) case1 = .next t) :=
  ⟨(let ⟨t, hx, _⟩ := ((h).1 1919 0 case1 (by decide +kernel)).1 rfl; ⟨t, hx⟩),
   (let ⟨t, hx, _⟩ := (((h).1 1919 0 case1 (by decide +kernel)).2).1 rfl; ⟨t, hx⟩),
   (let ⟨t, hx, _⟩ := ((((h).1 1919 (fields [(0, 0xFFFFFFFE)]) case1 (by decide +kernel)).2).2).1 (by decide +kernel); ⟨t, hx⟩),
   (let ⟨t, hx, _⟩ := (((((h).1 1919 (fields [(54, 3), (0, 0xFFFFFFFF)]) case1 (by decide +kernel)).2).2).2).1 (by decide +kernel); ⟨t, hx⟩),
   (let ⟨t, hx, _⟩ := ((((((h).1 1919 (fields [(54, 1), (0, 0x10)]) case1 (by decide +kernel)).2).2).2).2).1 (by decide +kernel); ⟨t, hx⟩),
   (let ⟨t, hx, _⟩ := ((((((h).1 1919 0 case1 (by decide +kernel)).2).2).2).2).2 rfl (by decide +kernel); ⟨t, hx⟩),
   (let ⟨t, hx, _⟩ := ((h).2 1919 (fields [(53, 7), (0, 0xFFFFFFFFFFFF)]) case1 (by decide +kernel)).1 (by decide +kernel); ⟨t, hx⟩),
   (let ⟨t, hx, _⟩ := (((h).2 1919 (fields [(53, 7), (0, 0xFFFFFFFF)]) case1 (by decide +kernel)).2).1 (by decide +kernel); ⟨t, hx⟩),
   (let ⟨t, hx, _⟩ := ((((h).2 1919 (fields [(53, 5), (0, 0x0)]) case1 (by decide +kernel)).2).2).1 (by decide +kernel); ⟨t, hx⟩),
   (let ⟨t, hx, _⟩ := (((((h).2 1919 (fields [(53, 7)]) case1 (by decide +kernel)).2).2).2).1 (by decide +kernel); ⟨t, hx⟩),
   (let ⟨t, hx, _⟩ := (((((h).2 1919 (fields [(53, 7), (37, 0xABCD), (36, 1)]) case1 (by decide +kernel)).2).2).2).2 (by decide +kernel);
        ⟨t, hx⟩)⟩

theorem met_MatrixFaultsFlagsAndEnd (h : Obligations.MatrixFaultsFlagsAndEnd) :
    (∃ t, exec (Instr.illegalOpcode 1919 (BitVec.ofNat 64 (0x7F * 2 ^ 56))) (sMc 1919 id) = .next t) ∧
    (∃ t, exec (Instr.nop 1919 (fields [(47, 1)])) (sMc 1919 id) = .next t) ∧
    (∃ t, exec (Instr.halt 1919 (fields [(47, 1)])) (sMc 1919 id) = .next t) ∧
    (∃ t, exec (Instr.jmp 1919 (fields [(47, 1)])) (sMc 1919 id) = .next t) ∧
    (∃ t, exec (Instr.gli 1919 (fields [(48, 1)])) (sMc 1919 id) = .next t) ∧
    (∃ t, exec (Instr.lds 1919 (fields [(43, 1)])) (sMc 1919 id) = .next t) ∧
    (∃ t, exec (Instr.fetchFault 1919) (sMc 1919 (fun m => { m with pcOut := true })) = .next t) ∧
    (∃ t, exec (Instr.fclr 1919 (fields [(0, 5)])) ((sMc 1919 id).putF ⟨mxcBase 1919 + 8, 8, 3⟩ 7) = .next t) ∧
    (∃ t, exec (Instr.programComplete 1919) (sMc 1919 (fun m => { m with halted := true })) = .next t) :=
  ⟨(let ⟨t, hx, _⟩ := ((h).1 1919 (BitVec.ofNat 64 (0x7F * 2 ^ 56)) (fields [(47, 1)]) (sMc 1919 id) (by decide +kernel)).1 (by decide +kernel);
        ⟨t, hx⟩),
   (let ⟨t, hx, _⟩ := (((h).1 1919 (BitVec.ofNat 64 (0x7F * 2 ^ 56)) (fields [(47, 1)]) (sMc 1919 id) (by decide +kernel)).2).1 (by decide +kernel);
        ⟨t, hx⟩),
   (let ⟨t, hx, _⟩ := ((((h).1 1919 (BitVec.ofNat 64 (0x7F * 2 ^ 56)) (fields [(47, 1)]) (sMc 1919 id) (by decide +kernel)).2).2).1 (by decide +kernel);
        ⟨t, hx⟩),
   (let ⟨t, hx, _⟩ := (((((h).1 1919 (BitVec.ofNat 64 (0x7F * 2 ^ 56)) (fields [(47, 1)]) (sMc 1919 id) (by decide +kernel)).2).2).2).1 (by decide +kernel);
        ⟨t, hx⟩),
   (let ⟨t, hx, _⟩ := ((((((h).1 1919 (BitVec.ofNat 64 (0x7F * 2 ^ 56)) (fields [(48, 1)]) (sMc 1919 id) (by decide +kernel)).2).2).2).2).1 (by decide +kernel);
        ⟨t, hx⟩),
   (let ⟨t, hx, _⟩ := ((((((h).1 1919 (BitVec.ofNat 64 (0x7F * 2 ^ 56)) (fields [(43, 1)]) (sMc 1919 id) (by decide +kernel)).2).2).2).2).2 (by decide +kernel);
        ⟨t, hx⟩),
   (let ⟨t, hx, _⟩ := ((h).2).1 1919 (sMc 1919 (fun m => { m with pcOut := true })) (by decide +kernel) (by decide +kernel); ⟨t, hx⟩),
   (let ⟨t, hx, _⟩ := (((h).2).2 1919 (fields [(0, 5)]) ((sMc 1919 id).putF ⟨mxcBase 1919 + 8, 8, 3⟩ 7)).1 (by decide +kernel) (by decide +kernel)
        (by decide +kernel) (by decide +kernel); ⟨t, hx⟩),
   (let ⟨t, hx, _⟩ := (((h).2).2 1919 (fields [(47, 1)]) (sMc 1919 (fun m => { m with halted := true }))).2 (by decide +kernel) (by decide +kernel)
        (by decide +kernel) (by decide +kernel) (by decide +kernel) (by decide +kernel); ⟨t, hx⟩)⟩

theorem met_TileConfigurationChangesOnlyItself (h : Obligations.TileConfigurationChangesOnlyItself) :
    (∃ t, exec (Instr.tcfg 0 (fields [(52, 15), (24, 1)])) (sMc 0 id) = .next t) ∧
    (∃ t, exec (Instr.tcfg 0 (fields [(52, 3), (29, 0xB), (46, 3), (33, 7)])) case2 = .next t) ∧
    (∃ t, exec (Instr.tcfg 0 (fields [(52, 15), (29, 0xB), (46, 31), (33, 31)])) (sMc 0 id) = .next t) ∧
    (∃ t, exec (Instr.tcfg 0 (fields [(52, 15), (29, 0xB), (46, 63), (33, 31)])) (sMc 0 id) = .next t) :=
  ⟨(let ⟨t, hx, _⟩ := (h 0 (fields [(52, 15), (24, 1)]) (sMc 0 id) (by decide +kernel)).1 (by decide +kernel); ⟨t, hx⟩),
   ⟨_, ((h 0 (fields [(52, 3), (29, 0xB), (46, 3), (33, 7)]) case2 (by decide +kernel)).2 (by decide +kernel) (by decide +kernel) (by decide +kernel)).1 (by decide +kernel)⟩,
   (let ⟨t, hx, _⟩ := (((h 0 (fields [(52, 15), (29, 0xB), (46, 31), (33, 31)]) (sMc 0 id) (by decide +kernel)).2 (by decide +kernel) (by decide +kernel)
        (by decide +kernel)).2 (by decide +kernel)).1 (by decide +kernel); ⟨t, hx⟩),
   (let ⟨t, hx, _⟩ := (((h 0 (fields [(52, 15), (29, 0xB), (46, 63), (33, 31)]) (sMc 0 id) (by decide +kernel)).2 (by decide +kernel) (by decide +kernel)
        (by decide +kernel)).2 (by decide +kernel)).2 0x10 1 (by decide +kernel); ⟨t, hx⟩)⟩

theorem met_TablesDescriptorsAndBarrierEntries (h : Obligations.TablesDescriptorsAndBarrierEntries) :
    (∃ t, exec (Instr.ttbl 0 (fields [(51, 1)])) case3 = .next t) ∧
    (∃ t, exec (Instr.ttbl 0 (fields [(51, 1)])) case4 = .next t) ∧
    (∃ t, exec (Instr.dmaq 0 (fields [(43, 1)])) case5 = .next t) ∧
    (∃ t, exec (Instr.dmaq 0 (fields [(43, 1)])) sFullQ = .next t) ∧
    (∃ t, exec (Instr.sbar 0 (fields [(46, 3), (41, 31)])) sBar = .next t) :=
  ⟨(let ⟨t, hx, _⟩ := ((h).1 0 (fields [(51, 1)]) case3 tabCfg (by decide +kernel) (by decide +kernel) (by decide +kernel) (by decide +kernel)
        (by decide +kernel) (by decide +kernel)).1 (by decide +kernel); ⟨t, hx⟩),
   (let ⟨t, hx, _⟩ := ((h).1 0 (fields [(51, 1)]) case4 tabCfg (by decide +kernel) (by decide +kernel) (by decide +kernel) (by decide +kernel)
        (by decide +kernel) (by decide +kernel)).2 (by decide +kernel); ⟨t, hx⟩),
   (let ⟨t, hx, _⟩ := (((h).2).1 0 (fields [(43, 1)]) case5 _ (by decide +kernel) (by decide +kernel) rfl).1 (by decide +kernel); ⟨t, hx⟩),
   (let ⟨t, hx, _⟩ := (((h).2).1 0 (fields [(43, 1)]) sFullQ _ (by decide +kernel) (by decide +kernel) rfl).2 (by decide +kernel); ⟨t, hx⟩),
   (let ⟨t, hx, _⟩ := ((h).2).2 0 (fields [(46, 3), (41, 31)]) sBar (entered (sBar.barEnter ⟨false, 0⟩ 0 3 31)) (by decide +kernel) (by decide +kernel)
        (by decide +kernel) (by decide +kernel) (by decide +kernel); ⟨t, hx⟩)⟩

theorem met_AccumulatorInstructionsComplete (h : Obligations.AccumulatorInstructionsComplete) :
    (∃ t, exec (Instr.aclr 0 (fields [(50, 60), (44, 3), (43, 1)])) case6 = .next t) ∧
    (∃ t, exec (Instr.aspl 0 (fields [(50, 60), (47, 3)])) (sMc 0 (tiled (cfg32 0xB))) = .next t) ∧
    (∃ t, exec (Instr.afil 0 (fields [(50, 60), (47, 3), (19, 1)])) (sMc 0 (tiled (cfg32 0xB))) = .next t) ∧
    (∃ t, exec (Instr.ard 0 (fields [(52, 1), (46, 63), (39, 1)])) case7 = .next t) ∧
    (∃ t, exec (Instr.awr 0 (fields [(52, 1), (46, 63)])) case8 = .next t) :=
  ⟨(let ⟨t, hx, _⟩ := ((h).1 0 (fields [(50, 60), (44, 3), (43, 1)]) case6 (by decide +kernel) (by decide +kernel)).1 (by decide +kernel) (by decide +kernel)
        (by decide +kernel); ⟨t, hx⟩),
   (let ⟨t, _, hx, _⟩ := (((h).1 0 (fields [(50, 60), (47, 3)]) (sMc 0 (tiled (cfg32 0xB))) (by decide +kernel) (by decide +kernel)).2).1 (by decide +kernel)
        (by decide +kernel) (by decide +kernel); ⟨t, hx⟩),
   (let ⟨t, _, hx, _⟩ := (((h).1 0 (fields [(50, 60), (47, 3), (19, 1)]) (sMc 0 (tiled (cfg32 0xB))) (by decide +kernel) (by decide +kernel)).2).2
        (by decide +kernel) (by decide +kernel) (by decide +kernel); ⟨t, hx⟩),
   (let ⟨t, _, hx, _⟩ := ((h).2 0 (fields [(52, 1), (46, 63), (39, 1)]) case7 (cfg32 0xB) (by decide +kernel) (by decide +kernel) (by decide +kernel)
        (by decide +kernel)).1 (by decide +kernel) (by decide +kernel) (by decide +kernel); ⟨t, hx⟩),
   (let ⟨t, _, hx, _⟩ := ((h).2 0 (fields [(52, 1), (46, 63)]) case8 (cfg32 0xB) (by decide +kernel) (by decide +kernel) (by decide +kernel)
        (by decide +kernel)).2 (by decide +kernel) (by decide +kernel) (by decide +kernel); ⟨t, hx⟩)⟩

theorem met_MatrixProductsComplete (h : Obligations.MatrixProductsComplete) :
    (∃ t, exec (Instr.mma 0 (fields [(34, 1), (24, 9), (20, 9)])) case9 = .next t) ∧
    (∃ t, exec (Instr.arrayPassStart 0) (sMc 0 (fun m => { m with jobs := [oneJob] })) = .next t) ∧
    (∃ t, exec (Instr.arrayPassComplete 0) case10 = .next t) ∧
    (∃ t, exec (Instr.accStarvationGuard 0) (sMc 0 (fun m => { m with jobs := [oneJob] })) = .next t) :=
  ⟨(let ⟨t, hx, _⟩ := (h 0 (fields [(34, 1), (24, 9), (20, 9)]) case9).1 oneJob (by decide +kernel) (by decide +kernel) (by decide +kernel) (by decide +kernel)
        (by decide +kernel) (by decide +kernel) (by decide +kernel); ⟨t, hx⟩),
   (let ⟨t, hx, _⟩ := ((h 0 (fields [(34, 1), (24, 9), (20, 9)]) (sMc 0 (fun m => { m with jobs := [oneJob] }))).2).1 oneJob [] (by decide +kernel)
        (by decide +kernel) (by decide +kernel) (by decide +kernel) (by decide +kernel); ⟨t, hx⟩),
   (let ⟨t, hx, _⟩ := (((h 0 (fields [(34, 1), (24, 9), (20, 9)]) case10).2).2).1 onePass [] oneJob [] (by decide +kernel) (by decide +kernel)
        (by decide +kernel); ⟨t, hx⟩),
   (let ⟨t, hx, _⟩ := (((h 0 (fields [(34, 1), (24, 9), (20, 9)]) (sMc 0 (fun m => { m with jobs := [oneJob] }))).2).2).2 (by decide +kernel);
        ⟨t, hx⟩)⟩

theorem met_LoopDescriptorsComplete (h : Obligations.LoopDescriptorsComplete) :
    (∃ t, exec (Instr.lds 0 (fields [(44, 1)])) case11 = .next t) ∧
    (∃ t, exec (Instr.lds 0 (fields [(44, 1)])) case12 = .next t) ∧
    (∃ t, exec (Instr.lds 0 (fields [(44, 1)])) case13 = .next t) ∧
    (∃ t, exec (Instr.ldsSpill 0) case14 = .next t) ∧
    (∃ t, exec (Instr.ldsDrain 0) case15 = .next t) ∧
    (∃ t, exec (Instr.ldsDrain 0) case16 = .next t) :=
  ⟨(let ⟨t, hx, _⟩ := ((h).1 0 (fields [(44, 1)]) case11 (ldsAt 0 2) (by decide +kernel) (by decide +kernel) (by decide +kernel) (by decide +kernel)
        (by decide +kernel)).1 (by decide +kernel) (by decide +kernel); ⟨t, hx⟩),
   (let ⟨t, hx, _⟩ := (((h).1 0 (fields [(44, 1)]) case12 (ldsAt 7 2) (by decide +kernel) (by decide +kernel) (by decide +kernel) (by decide +kernel)
        (by decide +kernel)).2).1 (by decide +kernel); ⟨t, hx⟩),
   (let ⟨t, hx, _⟩ := (((h).1 0 (fields [(44, 1)]) case13 (ldsAt 0 1) (by decide +kernel) (by decide +kernel) (by decide +kernel) (by decide +kernel)
        (by decide +kernel)).2).2 (by decide +kernel) (by decide +kernel) (by decide +kernel); ⟨t, hx⟩),
   (let ⟨t, hx, _⟩ := ((h).2 0 case14 (ldsAt 0 2) (by decide +kernel) (by decide +kernel) (by decide +kernel)).1 0 0 0 (by decide +kernel) (by decide +kernel)
        (by decide +kernel) (by decide +kernel) (by decide +kernel); ⟨t, hx⟩),
   (let ⟨t, hx, _⟩ := (((h).2 0 case15 (draining 0x1000) (by decide +kernel) (by decide +kernel) (by decide +kernel)).2).1 ⟨0, 0, 0, true, 0⟩
        (by decide +kernel) (by decide +kernel) (by decide +kernel); ⟨t, hx⟩),
   (let ⟨t, hx, _⟩ := (((h).2 0 case16 (draining 0) (by decide +kernel) (by decide +kernel) (by decide +kernel)).2).2 ⟨0, 0, 0, true, 0⟩ (by decide +kernel)
        (by decide +kernel) (by decide +kernel) (by decide +kernel); ⟨t, hx⟩)⟩

theorem met_TileMovesComplete (h : Obligations.TileMovesComplete) :
    (∃ t, exec (Instr.tld 0 (fields [(52, 1), (29, 256), (5, 64)])) (sMc 0 (tiled (cfg32 0xB))) = .next t) ∧
    (∃ t, exec (Instr.tst 0 (fields [(52, 1), (29, 256), (5, 64)])) (sMc 0 (tiled (cfg32 0xB))) = .next t) ∧
    (∃ t, exec (Instr.tileRowArrival 0 7 1) (sOp .tld) = .next t) ∧
    (∃ t, exec (Instr.tileWriteAck 0 7) (sOp .tst) = .next t) :=
  ⟨(let ⟨t, _, hx, _⟩ := ((h).1 0 (fields [(52, 1), (29, 256), (5, 64)]) (sMc 0 (tiled (cfg32 0xB))) (cfg32 0xB) (by decide +kernel) (by decide +kernel)
        (by decide +kernel) (by decide +kernel) (by decide +kernel)).1 (by decide +kernel) (by decide +kernel); ⟨t, hx⟩),
   (let ⟨t, _, hx, _⟩ := ((h).1 0 (fields [(52, 1), (29, 256), (5, 64)]) (sMc 0 (tiled (cfg32 0xB))) (cfg32 0xB) (by decide +kernel) (by decide +kernel)
        (by decide +kernel) (by decide +kernel) (by decide +kernel)).2 (by decide +kernel); ⟨t, hx⟩),
   (let ⟨t, _, _, hx, _⟩ := ((h).2 0 7 (sOp .tld) (tileOp1 .tld) (by decide +kernel) (by decide +kernel) (by decide +kernel)).1 1
        (List.replicate 16 0) (by decide +kernel) (by decide +kernel) (by decide +kernel) (by decide +kernel) (by decide +kernel); ⟨t, hx⟩),
   (let ⟨t, _, _, hx, _⟩ := ((h).2 0 7 (sOp .tst) (tileOp1 .tst) (by decide +kernel) (by decide +kernel) (by decide +kernel)).2 [] false (by decide +kernel)
        (by decide +kernel) (by decide +kernel) (by decide +kernel) (by decide +kernel) (by decide +kernel); ⟨t, hx⟩)⟩

theorem met_RowThreadsAndQuantiseComplete (h : Obligations.RowThreadsAndQuantiseComplete) :
    (∃ t, exec (Instr.tew 0 (fields [(52, 0), (48, 1), (40, 9)])) case17 = .next t) ∧
    (∃ t, exec (Instr.tew 0 (fields [(52, 0), (48, 1), (44, 2), (40, 5)])) case17 = .next t) ∧
    (∃ t, exec (Instr.tact 0 (fields [(52, 0), (48, 1)])) case17 = .next t) ∧
    (∃ t, exec (Instr.tder 0 (fields [(52, 0), (48, 1), (44, 2)])) case17 = .next t) ∧
    (∃ t, exec (Instr.tmsk 0 (fields [(52, 0), (48, 1), (42, 1), (41, 1), (0, 0xFFFFFFFF)])) case17 = .next t) ∧
    (∃ t, exec (Instr.tqnt 0 (fields [(52, 0), (48, 1), (41, 7)])) case18 = .next t) :=
  ⟨(let ⟨t, hx, _⟩ := ((h).1 0 (fields [(52, 0), (48, 1), (40, 9)]) case17 (cfg1 0xB) (cfg1 0xB) (by decide +kernel) (by decide +kernel) (by decide +kernel)
        (by decide +kernel) (by decide +kernel)).1 _ _ _ (by decide +kernel) (by decide +kernel) (by decide +kernel) (by decide +kernel) rfl
        rfl rfl; ⟨t, hx⟩),
   (let ⟨t, hx, _⟩ := (((h).1 0 (fields [(52, 0), (48, 1), (44, 2), (40, 5)]) case17 (cfg1 0xB) (cfg1 0xB) (by decide +kernel) (by decide +kernel)
        (by decide +kernel) (by decide +kernel) (by decide +kernel)).2).1 (cfg1 0xB) _ _ _ _ (by decide +kernel) (by decide +kernel) (by decide +kernel)
        (by decide +kernel) (by decide +kernel) rfl rfl rfl rfl; ⟨t, hx⟩),
   (let ⟨t, hx, _⟩ := ((((h).1 0 (fields [(52, 0), (48, 1)]) case17 (cfg1 0xB) (cfg1 0xB) (by decide +kernel) (by decide +kernel) (by decide +kernel)
        (by decide +kernel) (by decide +kernel)).2).2).1 _ _ (by decide +kernel) (by decide +kernel) rfl rfl; ⟨t, hx⟩),
   (let ⟨t, hx, _⟩ := (((((h).1 0 (fields [(52, 0), (48, 1), (44, 2)]) case17 (cfg1 0xB) (cfg1 0xB) (by decide +kernel) (by decide +kernel) (by decide +kernel)
        (by decide +kernel) (by decide +kernel)).2).2).2).1 (cfg1 0xB) _ _ _ (by decide +kernel) (by decide +kernel) (by decide +kernel) (by decide +kernel)
        rfl rfl rfl; ⟨t, hx⟩),
   (let ⟨t, hx, _⟩ := (((((h).1 0 (fields [(52, 0), (48, 1), (42, 1), (41, 1), (0, 0xFFFFFFFF)]) case17 (cfg1 0xB) (cfg1 0xB) (by decide +kernel)
        (by decide +kernel) (by decide +kernel) (by decide +kernel) (by decide +kernel)).2).2).2).2 _ _ (by decide +kernel) (by decide +kernel)
        (by decide +kernel) rfl rfl; ⟨t, hx⟩),
   (let ⟨t, hx, _⟩ := (h).2 0 (fields [(52, 0), (48, 1), (41, 7)]) case18 (cfg1 5) (cfg1 0xB) _ _ (by decide +kernel) (by decide +kernel) (by decide +kernel)
        (by decide +kernel) (by decide +kernel) (by decide +kernel) (by decide +kernel) rfl rfl; ⟨t, hx⟩)⟩

theorem met_MatrixSyncStopAndResume (h : Obligations.MatrixSyncStopAndResume) :
    (∃ t, exec (Instr.sadd 0 (fields [(51, 31), (0, 0xFFFF)])) (sCnt 31 1) = .next t) ∧
    (∃ t, exec (Instr.swait 0 (fields [(51, 3), (0, 5)])) (sCnt 3 9) = .next t) ∧
    (∃ t, exec (Instr.swait 0 (fields [(51, 3), (0, 10)])) (sCnt 3 9) = .next t) ∧
    (∃ t, exec (Instr.ssig 0 (fields [(51, 3), (39, 1919), (0, 10)])) (sCnt 3 9) = .next t) ∧
    (∃ t, exec (Instr.ssig 0 (fields [(51, 3), (39, 3), (0, 10)])) (sCnt 3 9) = .next t) ∧
    (∃ t, exec (Instr.mxcStop 1919) State.reset = .next t) ∧
    (∃ t, exec (Instr.mxcStopped 0) ((sMc 0 id).putF ⟨mxcBase 0, 1, 1⟩ 1) = .next t) ∧
    (∃ t, exec (Instr.mxcStopRelease 0) (sCnt 3 9) = .next t) ∧
    (∃ t, exec (Instr.mxcResume 0) ((sMc 0 id).putF (mxcSt 0) 4) = .next t) ∧
    (∃ t, exec (Instr.mxcResume 0) (sCnt 3 9) = .next t) ∧
    (∃ t, exec (Instr.mxqClr 0 0xFF) (sCnt 3 9) = .next t) :=
  ⟨(let ⟨t, hx, _⟩ := (((h).1 0 (fields [(51, 31), (0, 0xFFFF)]) (sCnt 31 1) (by decide +kernel)).1 (by decide +kernel) (by decide +kernel)).1
        (by decide +kernel) (by decide +kernel) (by decide +kernel); ⟨t, hx⟩),
   (let ⟨t, hx, _⟩ := ((((h).1 0 (fields [(51, 3), (0, 5)]) (sCnt 3 9) (by decide +kernel)).1 (by decide +kernel) (by decide +kernel)).2).1 (by decide +kernel);
        ⟨t, hx⟩),
   (let ⟨t, hx, _⟩ := ((((h).1 0 (fields [(51, 3), (0, 10)]) (sCnt 3 9) (by decide +kernel)).1 (by decide +kernel) (by decide +kernel)).2).2
        (by decide +kernel); ⟨t, hx⟩),
   (let ⟨t, hx, _⟩ := (((h).1 0 (fields [(51, 3), (39, 1919), (0, 10)]) (sCnt 3 9) (by decide +kernel)).2 (by decide +kernel) (by decide +kernel)
        _ rfl).1 (by decide +kernel) (by decide +kernel); ⟨t, hx⟩),
   (let ⟨t, hx, _⟩ := (((h).1 0 (fields [(51, 3), (39, 3), (0, 10)]) (sCnt 3 9) (by decide +kernel)).2 (by decide +kernel) (by decide +kernel)
        _ rfl).2 (by decide +kernel) (by decide +kernel); ⟨t, hx⟩),
   (let ⟨t, hx, _⟩ := ((h).2 1919 0xFF State.reset).1; ⟨t, hx⟩),
   (let ⟨t, hx, _⟩ := (((h).2 0 0xFF ((sMc 0 id).putF ⟨mxcBase 0, 1, 1⟩ 1)).2).1 (by decide +kernel) (by decide +kernel) (by decide +kernel);
        ⟨t, hx⟩),
   (let ⟨t, hx, _⟩ := ((((h).2 0 0xFF (sCnt 3 9)).2).2).1; ⟨t, hx⟩),
   (let ⟨t, hx, _⟩ := (((((h).2 0 0xFF ((sMc 0 id).putF (mxcSt 0) 4)).2).2).2).1 (by decide +kernel); ⟨t, hx⟩),
   ⟨_, ((((((h).2 0 0xFF (sCnt 3 9)).2).2).2).2).1 (by decide +kernel)⟩,
   (let ⟨t, hx, _⟩ := ((((((h).2 0 0xFF (sCnt 3 9)).2).2).2).2).2; ⟨t, hx⟩)⟩

theorem met_TileSpaceAccessesComplete (h : Obligations.TileSpaceAccessesComplete) :
    (∃ t, exec (.xtVl 0 true 6 8) (sVc [(6, 0x40000), (7, 8)] v32 id) = .next t) ∧
    (∃ t, exec (.xtVss 0 true 7 6 8) (sVc [(6, 0x40000), (7, 8)] v32 id) = .next t) ∧
    (∃ t, exec (Instr.xtFence 0) (sVc [(6, 0x40000), (7, 8)] v32 id) = .next t) ∧
    (∃ t, exec (.xtVs 0 true 6 8) (sVc [(6, 0xFFFC), (7, 8)] v32 id) = .next t) :=
  ⟨(let ⟨t, hx, _⟩ := (h).1 0 true 7 6 8 (sVc [(6, 0x40000), (7, 8)] v32 id) (by decide +kernel) (by decide +kernel) (by decide +kernel) (by decide +kernel)
        (by decide +kernel) 4 (.xtVl 0 true 6 8) (by decide +kernel) (by decide +kernel); ⟨t, hx⟩),
   (let ⟨t, hx, _⟩ := (((h).2).1 0 true 7 6 8 (sVc [(6, 0x40000), (7, 8)] v32 id) (by decide +kernel)).1 (by decide +kernel) (by decide +kernel)
        (by decide +kernel) 8 (.xtVss 0 true 7 6 8) (by decide +kernel) (by decide +kernel) (by decide +kernel); ⟨t, hx⟩),
   (let ⟨t, hx, _⟩ := (((h).2).1 0 true 7 6 8 (sVc [(6, 0x40000), (7, 8)] v32 id) (by decide +kernel)).2; ⟨t, hx⟩),
   (let ⟨t, hx, _⟩ := ((h).2).2 0 true 7 6 8 0x10000 (sVc [(6, 0xFFFC), (7, 8)] v32 id) (by decide +kernel) (by decide +kernel) (by decide +kernel)
        (by decide +kernel) (by decide +kernel) 4 (.xtVs 0 true 6 8) (by decide +kernel) (by decide +kernel); ⟨t, hx⟩)⟩

theorem met_VectorPackAndDescriptorsComplete (h : Obligations.VectorPackAndDescriptorsComplete) :
    (∃ t, exec (Instr.xtVunp 0 4 14 8) case19 = .next t) ∧
    (∃ t, exec (Instr.xtVpk 0 false 4 9 8) case19 = .next t) ∧
    (∃ t, exec (Instr.xdQ 0 6) case19 = .next t) ∧
    (∃ t, exec (Instr.xdTq 0 6 9) case19 = .next t) ∧
    (∃ t, exec (Instr.xdQv 0 4) case19 = .next t) ∧
    (∃ t, exec (Instr.xdTqv 0 4 9) case19 = .next t) ∧
    (∃ t, exec (Instr.xdTqv 0 4 9) sVcFull = .next t) ∧
    (∃ t, exec (Instr.xdQ 0 6) (sVc [(6, 0xFFFFFFFFFFF80041)] v32 id) = .next t) :=
  ⟨(let ⟨t, hx, _⟩ := ((h).1 0 4 8 14 case19 (by decide +kernel) (by decide +kernel) (by decide +kernel) (by decide +kernel) (by decide +kernel)
        (by decide +kernel)).1 (by decide +kernel) (by decide +kernel); ⟨t, hx⟩),
   (let ⟨t, hx, _⟩ := ((h).1 0 4 8 9 case19 (by decide +kernel) (by decide +kernel) (by decide +kernel) (by decide +kernel) (by decide +kernel)
        (by decide +kernel)).2 false _ _ (by decide +kernel) (by decide +kernel) rfl (by decide +kernel) rfl (by decide +kernel); ⟨t, hx⟩),
   (let ⟨t, hx, _⟩ := (((h).2 0 4 6 9 case19 64 (by decide +kernel)).1 (by decide +kernel) (by decide +kernel) (by decide +kernel)).1; ⟨t, hx⟩),
   (let ⟨t, hx, _⟩ := (((h).2 0 4 6 9 case19 64 (by decide +kernel)).1 (by decide +kernel) (by decide +kernel) (by decide +kernel)).2; ⟨t, hx⟩),
   (let ⟨t, hx, _⟩ := ((((h).2 0 4 6 9 case19 64 (by decide +kernel)).2).1 (by decide +kernel) (by decide +kernel)).1; ⟨t, hx⟩),
   (let ⟨t, hx, _⟩ := ((((h).2 0 4 6 9 case19 64 (by decide +kernel)).2).1 (by decide +kernel) (by decide +kernel)).2; ⟨t, hx⟩),
   (let ⟨t, hx, _⟩ := ((((h).2 0 4 6 9 sVcFull 64 (by decide +kernel)).2).2).1 (by decide +kernel) (by decide +kernel); ⟨t, hx⟩),
   (let ⟨t, hx, _⟩ := ((((h).2 0 4 6 9 (sVc [(6, 0xFFFFFFFFFFF80041)] v32 id) 65 (by decide +kernel)).2).2).2 (by decide +kernel); ⟨t, hx⟩)⟩

theorem met_VectorSyncInstructionsComplete (h : Obligations.VectorSyncInstructionsComplete) :
    (∃ t, exec (Instr.xsAdd 0 3 5) (sVc [(5, 0xFFFF)] [] id) = .next t) ∧
    (∃ t, exec (Instr.xsWait 0 3 5) (sVc [(5, 9)] [] id) = .next t) ∧
    (∃ t, exec (Instr.xsTry 0 3 5 7) (sVc [(5, 9)] [] id) = .next t) ∧
    (∃ t, exec (Instr.xsTry 0 3 5 7) (sVc [(5, 10)] [] id) = .next t) ∧
    (∃ t, exec (Instr.xsWait 0 3 5) (sVc [(5, 10)] [] id) = .next t) ∧
    (∃ t, exec (Instr.xsRd 0 3 7) (sVc [(5, 9)] [] id) = .next t) ∧
    (∃ t, exec (Instr.xsSig 0 6 5) (sVc [(5, 3 + 64 * 3)] [] id) = .next t) ∧
    (∃ t, exec (Instr.xsSig 0 6 5) (sVc [(5, 3 + 64 * 1919)] [] id) = .next t) ∧
    (∃ t, exec (Instr.xsBar 0 3 5) sVcBar = .next t) :=
  ⟨(let ⟨t, hx, _⟩ := ((h).1 0 3 5 7 (sVc [(5, 0xFFFF)] [] id) _ (by decide +kernel) (by decide +kernel) rfl).1 (by decide +kernel) (by decide +kernel)
        (by decide +kernel); ⟨t, hx⟩),
   (let ⟨t, hx, _⟩ := (((h).1 0 3 5 7 (sVc [(5, 9)] [] id) _ (by decide +kernel) (by decide +kernel) rfl).2).1 (by decide +kernel); ⟨t, hx⟩),
   (let ⟨t, hx, _⟩ := ((((h).1 0 3 5 7 (sVc [(5, 9)] [] id) _ (by decide +kernel) (by decide +kernel) rfl).2).2).1 (by decide +kernel);
        ⟨t, hx⟩),
   (let ⟨t, hx, _⟩ := (((((h).1 0 3 5 7 (sVc [(5, 10)] [] id) _ (by decide +kernel) (by decide +kernel) rfl).2).2).2).1 (by decide +kernel);
        ⟨t, hx⟩),
   (let ⟨t, hx, _⟩ := ((((((h).1 0 3 5 7 (sVc [(5, 10)] [] id) _ (by decide +kernel) (by decide +kernel) rfl).2).2).2).2).1 (by decide +kernel);
        ⟨t, hx⟩),
   (let ⟨t, hx, _⟩ := ((((((h).1 0 3 5 7 (sVc [(5, 9)] [] id) _ (by decide +kernel) (by decide +kernel) rfl).2).2).2).2).2; ⟨t, hx⟩),
   (let ⟨t, hx, _⟩ := ((h).2 0 3 6 5 (sVc [(5, 3 + 64 * 3)] [] id) _ (by decide +kernel) (by decide +kernel) rfl).1 ⟨false, 3⟩ (by decide +kernel)
        (by decide +kernel) (by decide +kernel) (by decide +kernel); ⟨t, hx⟩),
   (let ⟨t, hx, _⟩ := (((h).2 0 3 6 5 (sVc [(5, 3 + 64 * 1919)] [] id) _ (by decide +kernel) (by decide +kernel) rfl).2).1 ⟨false, 1919⟩ (by decide +kernel)
        (by decide +kernel) (by decide +kernel) (by decide +kernel); ⟨t, hx⟩),
   (let ⟨t, hx, _⟩ := (((h).2 0 3 6 5 sVcBar _ (by decide +kernel) (by decide +kernel) rfl).2).2 (entered (sVcBar.barEnter ⟨true, 0⟩ 0 3 3))
        (by decide +kernel) (by decide +kernel) (by decide +kernel); ⟨t, hx⟩)⟩

theorem met_RiscvInstructionsTrapsAndInterrupts (h : Obligations.RiscvInstructionsTrapsAndInterrupts) :
    (∃ t, exec (Instr.riscvInstruction (.vc 0) 0xFFF28313) (sVc [(5, 9), (6, 9)] [] id) = .next t) ∧
    (∃ t, exec (Instr.riscvInstruction (.vc 0) 0x005303B3) (sVc [(5, 9), (6, 9)] [] id) = .next t) ∧
    (∃ t, exec (Instr.riscvInstruction (.vc 0) 0xFFFFF2B7) (sVc [(5, 9), (6, 9)] [] id) = .next t) ∧
    (∃ t, exec (Instr.riscvInstruction (.vc 0) 0x008000EF) (sVc [(5, 9), (6, 9)] [] id) = .next t) ∧
    (∃ t, exec (Instr.riscvInstruction (.vc 0) 0x00628463) (sVc [(5, 9), (6, 9)] [] id) = .next t) ∧
    (∃ t, exec (Instr.riscvInstruction (.vc 0) 0x30200073) (sVc [(5, 9), (6, 9)] [] id) = .next t) ∧
    (∃ t, exec (Instr.riscvInstruction (RvCore.vc 0) 0x00000073) (sVc [] [] (fun r => { r with mode := .user })) = .next t) ∧
    (∃ t, exec (Instr.riscvInstruction (RvCore.vc 0) 0x30200073) (sVc [] [] (fun r => { r with mode := .user })) = .next t) ∧
    (∃ t, exec (Instr.vcInterruptTake 0) (sVc [] [(0x300, 8), (0x304, 0x80), (0x344, 0x80)] id) = .next t) ∧
    (∃ t, exec (Instr.mtimeCompare (.sc 7)) State.reset = .next t) ∧
    (∃ t, exec (Instr.reservationTimeout (.hc 7)) (State.reset.setRv 487 { resv := some 5 }) = .next t) :=
  ⟨(let ⟨t, hx, _⟩ := ((h).1 (.vc 0) 0xFFF28313 (sVc [(5, 9), (6, 9)] [] id) (sVc [(5, 9), (6, 9)] [] id) 0 (by decide +kernel) (by decide +kernel)).1 (by decide +kernel)
        (by decide +kernel); ⟨t, hx⟩),
   (let ⟨t, hx, _⟩ := (((h).1 (.vc 0) 0x005303B3 (sVc [(5, 9), (6, 9)] [] id) (sVc [(5, 9), (6, 9)] [] id) 0 (by decide +kernel) (by decide +kernel)).2).1 (by decide +kernel)
        (by decide +kernel) (by decide +kernel); ⟨t, hx⟩),
   (let ⟨t, hx, _⟩ := ((((h).1 (.vc 0) 0xFFFFF2B7 (sVc [(5, 9), (6, 9)] [] id) (sVc [(5, 9), (6, 9)] [] id) 0 (by decide +kernel) (by decide +kernel)).2).2).1 (by decide +kernel);
        ⟨t, hx⟩),
   (let ⟨t, hx, _⟩ := (((((h).1 (.vc 0) 0x008000EF (sVc [(5, 9), (6, 9)] [] id) (sVc [(5, 9), (6, 9)] [] id) 0 (by decide +kernel) (by decide +kernel)).2).2).2).1 (by decide +kernel);
        ⟨t, hx⟩),
   (let ⟨t, hx, _⟩ := ((((((h).1 (.vc 0) 0x00628463 (sVc [(5, 9), (6, 9)] [] id) (sVc [(5, 9), (6, 9)] [] id) 0 (by decide +kernel) (by decide +kernel)).2).2).2).2).1 (by decide +kernel)
        (by decide +kernel); ⟨t, hx⟩),
   (let ⟨t, hx, _⟩ := ((((((h).1 (.vc 0) 0x30200073 (sVc [(5, 9), (6, 9)] [] id) (sVc [(5, 9), (6, 9)] [] id) 0 (by decide +kernel) (by decide +kernel)).2).2).2).2).2 rfl
        (by decide +kernel); ⟨t, hx⟩),
   (let ⟨t, hx, _⟩ := (((h).2).1 0 0x00000073 (sVc [] [] (fun r => { r with mode := .user })) (sVc [] [] (fun r => { r with mode := .user })) 0 (by decide +kernel) (by decide +kernel) (by decide +kernel) (by decide +kernel)).1
        rfl; ⟨t, hx⟩),
   (let ⟨t, hx, _⟩ := (((h).2).1 0 0x30200073 (sVc [] [] (fun r => { r with mode := .user })) (sVc [] [] (fun r => { r with mode := .user })) 0 (by decide +kernel) (by decide +kernel) (by decide +kernel) (by decide +kernel)).2
        rfl; ⟨t, hx⟩),
   (let ⟨t, hx, _⟩ := (((h).2).2 0 (.vc 0) 7 (sVc [] [(0x300, 8), (0x304, 0x80), (0x344, 0x80)] id)).1 (by decide +kernel) (by decide +kernel);
        ⟨t, hx⟩),
   (let ⟨t, hx, _⟩ := ((((h).2).2 0 (.sc 7) 7 State.reset).2).1 (by decide +kernel); ⟨t, hx⟩),
   (let ⟨t, hx, _⟩ := ((((h).2).2 0 (.hc 7) 7 (State.reset.setRv 487 { resv := some 5 })).2).2; ⟨t, hx⟩)⟩

theorem met_StoreRoomsServeAndFill (h : Obligations.StoreRoomsServeAndFill) :
    (∃ t, exec (Instr.storeRoomAccess (req5 .read 0)) (sRoom [line5]) = .next t) ∧
    (∃ t, exec (Instr.storeRoomAccess (req5 .write 5)) (sRoom [line5]) = .next t) ∧
    (∃ t, exec (Instr.storeRoomAccess (req5 .read 0)) sMem = .next t) ∧
    (∃ t, exec (Instr.storeRoomAccess (req5 .write 5)) (sMem.putF ⟨srmBase 0 + 0x100, 0, 16⟩ 0) = .next t) ∧
    (∃ t, exec (Instr.storeRoomAccess (req5 .write fullEn)) sWays = .next t) ∧
    (∃ t, exec (Instr.storeRoomFill 0) case20 = .next t) :=
  ⟨(let ⟨t, hx, _⟩ := ((h).1 (req5 .read 0) (sRoom [line5]) line5 _ (by decide +kernel) rfl (by decide +kernel)).1 (by decide +kernel);
        ⟨t, hx⟩),
   (let ⟨t, hx, _⟩ := ((h).1 (req5 .write 5) (sRoom [line5]) line5 _ (by decide +kernel) rfl (by decide +kernel)).2 (by decide +kernel);
        ⟨t, hx⟩),
   (let ⟨t, hx, _⟩ := (((h).2).1 (req5 .read 0) sMem _ _ (by decide +kernel) rfl rfl (by decide +kernel)).1 (by decide +kernel); ⟨t, hx⟩),
   (let ⟨t, hx, _⟩ := ((((h).2).1 (req5 .write 5) (sMem.putF ⟨srmBase 0 + 0x100, 0, 16⟩ 0) _ _ (by decide +kernel) rfl rfl (by decide +kernel)).2).1
        (by decide +kernel) (by decide +kernel) (by decide +kernel); ⟨t, hx⟩),
   (let ⟨t, _, hx, _⟩ := ((((h).2).1 (req5 .write fullEn) sWays _ _ (by decide +kernel) rfl rfl (by decide +kernel)).2).2 (by decide +kernel)
        (by decide +kernel) (by decide +kernel) (by decide +kernel); ⟨t, hx⟩),
   (let ⟨t, _, hx, _⟩ := ((h).2).2 0 case20 ⟨mem5 false, List.replicate 128 3, false⟩ [] (req5 .read 0) (by decide +kernel) (by decide +kernel)
        (by decide +kernel) (by decide +kernel) (by decide +kernel) (by decide +kernel); ⟨t, hx⟩)⟩

theorem met_ControllersAndAtomicsComplete (h : Obligations.ControllersAndAtomicsComplete) :
    (∃ t, exec (Instr.hbmRequest 0) case21 = .next t) ∧
    (∃ t, exec (Instr.hbmRequest 0) case22 = .next t) ∧
    (∃ t, exec (Instr.storeRoomAmo (.vc 0) 0 .maxu false 640 5) (sRoom [line5]) = .next t) ∧
    (∃ t, exec (Instr.storeRoomAmo (.vc 0) 0 .add true 640 5) sBadLine = .next t) ∧
    (∃ t, exec (Instr.storeRoomAmo (.vc 0) 0 AmoOp.lr true 640 5) (sRoom [line5]) = .next t) ∧
    (∃ t, exec (Instr.storeRoomAmo (.vc 0) 0 AmoOp.sc true 640 5) (sAmo { resv := some 5 }) = .next t) ∧
    (∃ t, exec (Instr.storeRoomAmo (.vc 0) 0 AmoOp.sc true 640 5) (sRoom [line5]) = .next t) ∧
    (∃ t, exec (Instr.workCounterClaim (some ⟨true, 479⟩) 0 640 3) (sRoom [line5]) = .next t) ∧
    (∃ t, exec (Instr.workCounterPresent none 0 640 3) (sRoom [line5]) = .next t) ∧
    (∃ t, exec (Instr.workCounterClaim none 0 640 3) sBadLine = .next t) ∧
    (∃ t, exec (Instr.workCounterPresent none 0 640 3) sBadLine = .next t) :=
  ⟨(let ⟨t, hx, _⟩ := ((h).1 0 case21 (mem5 false) [] _ (by decide +kernel) rfl).1 (by decide +kernel); ⟨t, hx⟩),
   (let ⟨t, hx, _⟩ := ((h).1 0 case22 (mem5 true) [] _ (by decide +kernel) rfl).2 (by decide +kernel) (by decide +kernel) (by decide +kernel);
        ⟨t, hx⟩),
   (let ⟨t, hx, _⟩ := (((h).2 (sRoom [line5]) 0 640 (by decide +kernel)).1 (.vc 0) .maxu false 5 _ 4 _ rfl (by decide +kernel) rfl (by decide +kernel)
        (by decide +kernel) (by decide +kernel)).1 (by decide +kernel); ⟨t, hx⟩),
   (let ⟨t, hx, _⟩ := (((h).2 sBadLine 0 640 (by decide +kernel)).1 (.vc 0) .add true 5 _ 8 _ rfl (by decide +kernel) rfl (by decide +kernel)
        (by decide +kernel) (by decide +kernel)).2 (by decide +kernel); ⟨t, hx⟩),
   (let ⟨t, hx, _⟩ := ((((h).2 (sRoom [line5]) 0 640 (by decide +kernel)).2).1 (.vc 0) true 5 _ 8 _ rfl (by decide +kernel) rfl (by decide +kernel)
        (by decide +kernel)).1; ⟨t, hx⟩),
   (let ⟨t, hx, _⟩ := (((((h).2 (sAmo { resv := some 5 }) 0 640 (by decide +kernel)).2).1 (.vc 0) true 5 _ 8 _ rfl (by decide +kernel) rfl (by decide +kernel)
        (by decide +kernel)).2).1 (by decide +kernel) (by decide +kernel); ⟨t, hx⟩),
   (let ⟨t, hx, _⟩ := (((((h).2 (sRoom [line5]) 0 640 (by decide +kernel)).2).1 (.vc 0) true 5 _ 8 _ rfl (by decide +kernel) rfl (by decide +kernel)
        (by decide +kernel)).2).2 (by decide +kernel); ⟨t, hx⟩),
   (let ⟨t, hx, _⟩ := (((((h).2 (sRoom [line5]) 0 640 (by decide +kernel)).2).2).1 (some ⟨true, 479⟩) _ 3 (by decide +kernel) rfl (by decide +kernel)
        (by decide +kernel)).1; ⟨t, hx⟩),
   (let ⟨t, hx, _⟩ := (((((h).2 (sRoom [line5]) 0 640 (by decide +kernel)).2).2).1 none _ 3 (by decide +kernel) rfl (by decide +kernel) (by decide +kernel)).2;
        ⟨t, hx⟩),
   (let ⟨t, hx, _⟩ := (((((h).2 sBadLine 0 640 (by decide +kernel)).2).2).2 none _ 3 (by decide +kernel) rfl (by decide +kernel)).1; ⟨t, hx⟩),
   (let ⟨t, hx, _⟩ := (((((h).2 sBadLine 0 640 (by decide +kernel)).2).2).2 none _ 3 (by decide +kernel) rfl (by decide +kernel)).2; ⟨t, hx⟩)⟩

theorem met_MemoryErrorsAndRangesComplete (h : Obligations.MemoryErrorsAndRangesComplete) :
    (∃ t, exec (Instr.hbmScrub 11 3 []) ((State.reset.putF (hbmStF 11) 1).putF ⟨hbmBase 11 + 8, 0, 32⟩ 10001) = .next t) ∧
    (∃ t, exec (Instr.hbmScrub 11 3 [(2 ^ 36 - 1)]) ((State.reset.putF (hbmStF 11) 1).putF ⟨hbmBase 11 + 8, 0, 32⟩ 10001) = .next t) ∧
    (∃ t, exec (Instr.stackDegradingEvent 11) ((State.reset.putF (hbmStF 11) 1).putF ⟨hbmBase 11 + 8, 0, 32⟩ 10001) = .next t) ∧
    (∃ t, exec (Instr.sramUncorrectableError (SramLoc.scratch 1919 65535)) ((State.reset.putF (hbmStF 11) 1).putF ⟨hbmBase 11 + 8, 0, 32⟩ 10001) =
      .next t) ∧
    (∃ t, exec (Instr.sramUncorrectableError (SramLoc.junction 8388607)) ((State.reset.putF (hbmStF 11) 1).putF ⟨hbmBase 11 + 8, 0, 32⟩ 10001) =
      .next t) ∧
    (∃ t, exec (Instr.hbmTempRead 11 95) ((State.reset.putF (hbmStF 11) 1).putF ⟨hbmBase 11 + 8, 0, 32⟩ 10001) = .next t) ∧
    (∃ t, exec (Instr.clean 3) ((State.reset.putF (hbmStF 11) 1).putF ⟨hbmBase 11 + 8, 0, 32⟩ 10001) = .next t) ∧
    (∃ t, exec (Instr.cleanInv 3) ((State.reset.putF (hbmStF 11) 1).putF ⟨hbmBase 11 + 8, 0, 32⟩ 10001) = .next t) ∧
    (∃ t, exec (Instr.drop 3) ((State.reset.putF (hbmStF 11) 1).putF ⟨hbmBase 11 + 8, 0, 32⟩ 10001) = .next t) ∧
    (∃ t, exec (Instr.srmRangeDone 3) (State.reset.putF ⟨srmBase 3, 3, 1⟩ 1) = .next t) :=
  ⟨(let ⟨t, hx, _⟩ := ((h).1 11 3 ((State.reset.putF (hbmStF 11) 1).putF ⟨hbmBase 11 + 8, 0, 32⟩ 10001) (by decide +kernel)).1; ⟨t, hx⟩),
   (let ⟨t, hx, _⟩ := ((h).1 11 3 ((State.reset.putF (hbmStF 11) 1).putF ⟨hbmBase 11 + 8, 0, 32⟩ 10001) (by decide +kernel)).2 (2 ^ 36 - 1) (by decide +kernel);
        ⟨t, hx⟩),
   (let ⟨t, hx, _⟩ := ((h).2).1 11 ((State.reset.putF (hbmStF 11) 1).putF ⟨hbmBase 11 + 8, 0, 32⟩ 10001) (by decide +kernel); ⟨t, hx⟩),
   (let ⟨t, hx, _⟩ := (((h).2).2).1 1919 65535 ((State.reset.putF (hbmStF 11) 1).putF ⟨hbmBase 11 + 8, 0, 32⟩ 10001); ⟨t, hx⟩),
   (let ⟨t, hx, _⟩ := ((((h).2).2).2).1 8388607 ((State.reset.putF (hbmStF 11) 1).putF ⟨hbmBase 11 + 8, 0, 32⟩ 10001); ⟨t, hx⟩),
   (let ⟨t, hx, _⟩ := (((((h).2).2).2).2).1 11 95 ((State.reset.putF (hbmStF 11) 1).putF ⟨hbmBase 11 + 8, 0, 32⟩ 10001) (by decide +kernel);
        ⟨t, hx⟩),
   (let ⟨t, hx, _⟩ := (((((((h).2).2).2).2).2).1 3 ((State.reset.putF (hbmStF 11) 1).putF ⟨hbmBase 11 + 8, 0, 32⟩ 10001) _ _ (by decide +kernel)
        rfl rfl).1; ⟨t, hx⟩),
   (let ⟨t, hx, _⟩ := ((((((((h).2).2).2).2).2).1 3 ((State.reset.putF (hbmStF 11) 1).putF ⟨hbmBase 11 + 8, 0, 32⟩ 10001) _ _ (by decide +kernel)
        rfl rfl).2).1; ⟨t, hx⟩),
   (let ⟨t, hx, _⟩ := ((((((((h).2).2).2).2).2).1 3 ((State.reset.putF (hbmStF 11) 1).putF ⟨hbmBase 11 + 8, 0, 32⟩ 10001) _ _ (by decide +kernel)
        rfl rfl).2).2; ⟨t, hx⟩),
   (let ⟨t, hx, _⟩ := ((((((h).2).2).2).2).2).2 3 (State.reset.putF ⟨srmBase 3, 3, 1⟩ 1) (by decide +kernel) (by decide +kernel); ⟨t, hx⟩)⟩

theorem met_WalksAndFaultServiceComplete (h : Obligations.WalksAndFaultServiceComplete) :
    (∃ t, exec (Instr.pageWalk (.mc 0) 0 0 0x10008 .read) sMem = .next t) ∧
    (∃ t, exec (Instr.pageWalk (.mc 0) 0 0 0x10008 .read) case23 = .next t) ∧
    (∃ t, exec (Instr.pageWalk (.mc 0) 0 0 0x10008 .read) (sFault sMem (frec clsNotPresent none)) = .next t) ∧
    (∃ t, exec (Instr.faultRecordQueued 1) (sFault sMem (frec clsHostDenied none)) = .next t) ∧
    (∃ t, exec (Instr.faultRecordQueued 1) (sFault sMem (frec clsAddress none)) = .next t) ∧
    (∃ t, exec (Instr.faultRecordQueued 1) ((sFault sMem (frec clsNotPresent none)).putF ⟨cfgBase + 0x100, 0, 1⟩ 1) = .next t) ∧
    (∃ t, exec (Instr.faultRecordQueued 1) (sFault sMem (frec clsNotPresent none)) = .next t) ∧
    (∃ t, exec (Instr.faultRecordQueued 1) case24 = .next t) ∧
    (∃ t, exec (Instr.faultTimeout 1) (sFault sMem (frec clsNotPresent none)) = .next t) ∧
    (∃ t, exec (Instr.growFaultService 1) (sFault sMem (frec clsNotPresent (some 0))) = .next t) ∧
    (∃ t, exec (Instr.growFaultService 1) sDry = .next t) ∧
    (∃ t, exec (Instr.growFaultService 1) (sFault (sPool 4 4 16) (frec clsNotPresent (some 0))) = .next t) ∧
    (∃ t, exec (Instr.growFaultService 1) (sFault (sPool 0 4 16) (frec clsNotPresent (some 0))) = .next t) :=
  ⟨(let ⟨t, hx, _⟩ := ((h).1 (.mc 0) 0 0 0x10008 .read sMem _ rfl).1 0x10008 (by decide +kernel); ⟨t, hx⟩),
   (let ⟨t, hx, _⟩ := ((((h).1 (.mc 0) 0 0 0x10008 .read case23 _ rfl).2).1 clsNotPresent 3 0 false (by decide +kernel)).1 (by decide +kernel);
        ⟨t, hx⟩),
   (let ⟨t, hx, _⟩ := ((((h).1 (.mc 0) 0 0 0x10008 .read (sFault sMem (frec clsNotPresent none)) _ rfl).2).1 clsNotPresent 3 0 false (by decide +kernel)).2
        (frec clsNotPresent none) (by decide +kernel); ⟨t, hx⟩),
   (let ⟨t, _, hx, _⟩ := ((((h).2).1 1 (sFault sMem (frec clsHostDenied none)) (frec clsHostDenied none) (by decide +kernel)).1 (by decide +kernel)
        (by decide +kernel) (by decide +kernel) (by decide +kernel)).1 (by decide +kernel) (by decide +kernel) (by decide +kernel) (by decide +kernel)
        ctxGrow (by decide +kernel); ⟨t, hx⟩),
   (let ⟨t, _, hx, _⟩ := (((((h).2).1 1 (sFault sMem (frec clsAddress none)) (frec clsAddress none) (by decide +kernel)).1 (by decide +kernel)
        (by decide +kernel) (by decide +kernel) (by decide +kernel)).2).1 (by decide +kernel) (by decide +kernel); ⟨t, hx⟩),
   (let ⟨t, hx, _⟩ := ((((((h).2).1 1 ((sFault sMem (frec clsNotPresent none)).putF ⟨cfgBase + 0x100, 0, 1⟩ 1) (frec clsNotPresent none) (by decide +kernel)).1
        (by decide +kernel) (by decide +kernel) (by decide +kernel) (by decide +kernel)).2).2).1 (by decide +kernel) (by decide +kernel) (by decide +kernel);
        ⟨t, hx⟩),
   (let ⟨t, hx, _⟩ := (((((((h).2).1 1 (sFault sMem (frec clsNotPresent none)) (frec clsNotPresent none) (by decide +kernel)).1 (by decide +kernel)
        (by decide +kernel) (by decide +kernel) (by decide +kernel)).2).2).2).1 (by decide +kernel) (by decide +kernel) (by decide +kernel);
        ⟨t, hx⟩),
   (let ⟨t, _, hx, _⟩ := (((((((h).2).1 1 case24 ({ frec clsNotPresent none with level := 1 }) (by decide +kernel)).1 (by decide +kernel) (by decide +kernel)
        (by decide +kernel) (by decide +kernel)).2).2).2).2 (by decide +kernel) (by decide +kernel) (by decide +kernel); ⟨t, hx⟩),
   (let ⟨t, _, hx, _⟩ := (((h).2).1 1 (sFault sMem (frec clsNotPresent none)) (frec clsNotPresent none) (by decide +kernel)).2 ctxGrow (by decide +kernel)
        (by decide +kernel) (by decide +kernel); ⟨t, hx⟩),
   (let ⟨t, _, hx, _⟩ := (((h).2).2 1 (sFault sMem (frec clsNotPresent (some 0))) (frec clsNotPresent (some 0)) ctxGrow _ _ (by decide +kernel)
        (by decide +kernel) (by decide +kernel) (by decide +kernel) rfl rfl).1 (by decide +kernel); ⟨t, hx⟩),
   ⟨_, (((((h).2).2 1 sDry (frec clsNotPresent (some 0)) ctxGrow _ _ (by decide +kernel) (by decide +kernel) (by decide +kernel) (by decide +kernel) rfl rfl).2).1 (by decide +kernel) (by decide +kernel) (by decide +kernel)).1 (by decide +kernel)⟩,
   (let ⟨t, hx, _⟩ := (((((h).2).2 1 (sFault (sPool 4 4 16) (frec clsNotPresent (some 0))) (frec clsNotPresent (some 0)) ctxGrow _ _ (by decide +kernel)
        (by decide +kernel) (by decide +kernel) (by decide +kernel) rfl rfl).2).1 (by decide +kernel) (by decide +kernel) (by decide +kernel)).2
        (by decide +kernel); ⟨t, hx⟩),
   (let ⟨t, hx, _⟩ := ((((h).2).2 1 (sFault (sPool 0 4 16) (frec clsNotPresent (some 0))) (frec clsNotPresent (some 0)) ctxGrow _ _ (by decide +kernel)
        (by decide +kernel) (by decide +kernel) (by decide +kernel) rfl rfl).2).2 _ 0x200000 _ _ _ _ (by decide +kernel) (by decide +kernel)
        (by decide +kernel) rfl rfl (by decide +kernel) (by decide +kernel) rfl (by decide +kernel) rfl rfl; ⟨t, hx⟩)⟩

theorem met_HostPagesAndInvalidationsComplete (h : Obligations.HostPagesAndInvalidationsComplete) :
    (∃ t, exec (Instr.atsTranslationCompletion 1 (AtsOutcome.granted 4096 true false false)) (sFault sMem (frec 0 none)) = .next t) ∧
    (∃ t, exec (Instr.atsTranslationCompletion 1 (AtsOutcome.granted 4096 false false false)) (sFault sMem (frec 0 none)) = .next t) ∧
    (∃ t, exec (Instr.atsTranslationCompletion 1 .aborted) (sFault sMem (frec 0 none)) = .next t) ∧
    (∃ t, exec (Instr.prgResponse 1 PrgCode.success) sPrg = .next t) ∧
    (∃ t, exec (Instr.prgResponse 1 PrgCode.invalid) sPrg = .next t) ∧
    (∃ t, exec (Instr.prgResponse 1 PrgCode.failure) sPrg = .next t) ∧
    (∃ t, exec (Instr.atsInvalidateRequest (some 7) 3 2) (sFault sMem (frec 0 none)) = .next t) ∧
    (∃ t, exec Instr.invalidateAll (sFault sMem (frec 0 none)) = .next t) ∧
    (∃ t, exec Instr.invalidateContext (sFault sMem (frec 0 none)) = .next t) ∧
    (∃ t, exec Instr.invalidateRange (sFault sMem (frec 0 none)) = .next t) ∧
    (∃ t, exec Instr.invalidateRange (sMem.putF ⟨mmuBase + 24, 0, 36⟩ 1) = .next t) ∧
    (∃ t, exec Instr.invalidationComplete case25 = .next t) :=
  ⟨(let ⟨t, _, hx, _⟩ := (((h).1).1 1 (sFault sMem (frec 0 none)) (frec 0 none) (by decide +kernel) (by decide +kernel)).1 4096 true false false
        ctxGrow (by decide +kernel) (by decide +kernel); ⟨t, hx⟩),
   (let ⟨t, hx, _⟩ := ((((h).1).1 1 (sFault sMem (frec 0 none)) (frec 0 none) (by decide +kernel) (by decide +kernel)).2).1 4096 false false false
        ctxGrow (by decide +kernel) (by decide +kernel); ⟨t, hx⟩),
   (let ⟨t, hx, _⟩ := ((((h).1).1 1 (sFault sMem (frec 0 none)) (frec 0 none) (by decide +kernel) (by decide +kernel)).2).2 .aborted (by decide +kernel);
        ⟨t, hx⟩),
   (let ⟨t, _, hx, _⟩ := ((((h).1).2).1 1 sPrg (frec clsNotPresent none) (by decide +kernel) (by decide +kernel)).1; ⟨t, hx⟩),
   (let ⟨t, _, _, hx, _⟩ := (((((h).1).2).1 1 sPrg (frec clsNotPresent none) (by decide +kernel) (by decide +kernel)).2).1; ⟨t, hx⟩),
   (let ⟨t, _, _, hx, _⟩ := (((((h).1).2).1 1 sPrg (frec clsNotPresent none) (by decide +kernel) (by decide +kernel)).2).2; ⟨t, hx⟩),
   (let ⟨t, hx, _⟩ := (((h).1).2).2 (some 7) 3 2 (sFault sMem (frec 0 none)); ⟨t, hx⟩),
   (let ⟨t, hx, _⟩ := (((h).2).1 (sFault sMem (frec 0 none))).1; ⟨t, hx⟩),
   (let ⟨t, hx, _⟩ := ((((h).2).1 (sFault sMem (frec 0 none))).2).1; ⟨t, hx⟩),
   (let ⟨t, hx, _⟩ := (((((h).2).1 (sFault sMem (frec 0 none))).2).2).1 (by decide +kernel); ⟨t, hx⟩),
   (let ⟨t, hx, _⟩ := (((((h).2).1 (sMem.putF ⟨mmuBase + 24, 0, 36⟩ 1)).2).2).2 (by decide +kernel); ⟨t, hx⟩),
   (let ⟨t, hx, _⟩ := ((h).2).2 case25 ⟨none, none, none, none, 0⟩ [] (by decide +kernel) (by decide +kernel); ⟨t, hx⟩)⟩

theorem met_SavesAndRestoresComplete (h : Obligations.SavesAndRestoresComplete) :
    (∃ t, exec (Instr.cellSaveComplete (SaveUnit.mc 3)) sStop = .next t) ∧
    (∃ t, exec (Instr.cellSaveComplete (SaveUnit.vc 0)) sStop = .next t) ∧
    (∃ t, exec (Instr.cellSaveComplete (SaveUnit.cellUnit 0)) sStop = .next t) ∧
    (∃ t, exec (Instr.cellRestoreComplete 0) case26 = .next t) :=
  ⟨(let ⟨t, hx, _⟩ := (h).1 3 sStop (saved0 [3, 4, 5] []) (by decide +kernel) (by decide +kernel) (by decide +kernel) (by decide +kernel);
        ⟨t, hx⟩),
   (let ⟨t, _, hx, _⟩ := ((h).2).1 0 sStop (saved0 [3, 4, 5] []) (by decide +kernel) (by decide +kernel) (by decide +kernel) (by decide +kernel);
        ⟨t, hx⟩),
   (let ⟨t, hx, _⟩ := (((h).2).2).1 0 sStop (saved0 [3, 4, 5] []) (by decide +kernel) (by decide +kernel) (by decide +kernel) (by decide +kernel);
        ⟨t, hx⟩),
   (let ⟨t, _, hx, _⟩ := (((h).2).2).2 0 case26 (saved0 [] [0]) (kern0 .restoring) (by decide +kernel) (by decide +kernel) (by decide +kernel)
        (by decide +kernel); ⟨t, hx⟩)⟩

theorem met_DescriptorMovesComplete (h : Obligations.DescriptorMovesComplete) :
    (∃ t, exec (Instr.dmaLineResponse 0 0) (sDsc 0 dCopyBad) = .next t) ∧
    (∃ t, exec (Instr.dmaLineResponse 0 0) (sDsc 0 dCopy) = .next t) ∧
    (∃ t, exec (Instr.dmaLineResponse 479 5) (sMem.putF ⟨dmaBase 479, 30, 1⟩ 1) = .next t) ∧
    (∃ t, exec (Instr.dmaCopy 479 5) (sMem.putF ⟨dmaBase 479, 30, 1⟩ 1) = .next t) ∧
    (∃ t, exec (Instr.dmaPanel 479 5) (sMem.putF ⟨dmaBase 479, 30, 1⟩ 1) = .next t) ∧
    (∃ t, exec (Instr.dmaImage 479 5) (sMem.putF ⟨dmaBase 479, 30, 1⟩ 1) = .next t) ∧
    (∃ t, exec (Instr.dmaKey 479 5) (sMem.putF ⟨dmaBase 479, 30, 1⟩ 1) = .next t) ∧
    (∃ t, exec (Instr.dmaFetchAdd 479 5) (sMem.putF ⟨dmaBase 479, 30, 1⟩ 1) = .next t) ∧
    (∃ t, exec (Instr.dmaClaim 479 5) (sMem.putF ⟨dmaBase 479, 30, 1⟩ 1) = .next t) ∧
    (∃ t, exec (Instr.dmaPresent 479 5) (sMem.putF ⟨dmaBase 479, 30, 1⟩ 1) = .next t) ∧
    (∃ t, exec (Instr.dmaMaskload 479 5) (sMem.putF ⟨dmaBase 479, 30, 1⟩ 1) = .next t) ∧
    (∃ t, exec (Instr.dmaCopy 0 0) (sDsc 0 dCopy) = .next t) ∧
    (∃ t, exec (Instr.dmaCopy 0 0) (sDsc 0 dCopy) = .next t) ∧
    (∃ t, exec (Instr.dmaPanel 0 5) (sDsc 5 (dObj 1)) = .next t) ∧
    (∃ t, exec (Instr.dmaImage 0 4) (sDsc 4 (dObj 2)) = .next t) ∧
    (∃ t, exec (Instr.mcastTargetCompletion 0 0 1 true) sMcast = .next t) ∧
    (∃ t, exec (Instr.mcastTargetCompletion 0 0 1 false) sMcast = .next t) ∧
    (∃ t, exec (Instr.mcastTimeout 0 0 1) (sMcast.putF ⟨redBase, 0, 16⟩ 0xFFFF) = .next t) ∧
    (∃ t, exec (Instr.mcastTimeout 0 0 1) (sMcast.putF ⟨redBase, 0, 16⟩ 0) = .next t) ∧
    (∃ t, exec (Instr.mcastTargetCompletion 0 0 1 true) sLate = .next t) :=
  ⟨(let ⟨t, hx, _⟩ := (((h).1 0 0 (sDsc 0 dCopyBad)).1 0 (desc0 dCopyBad) _ _ (by decide +kernel) rfl rfl).1 0 (by decide +kernel); ⟨t, hx⟩),
   (let ⟨t, hx, _⟩ := (((h).1 0 0 (sDsc 0 dCopy)).1 0 (desc0 dCopy) _ _ (by decide +kernel) rfl rfl).2 _ (by decide +kernel) (by decide +kernel)
        (by decide +kernel) rfl (by decide +kernel); ⟨t, hx⟩),
   ⟨_, (((h).1 479 5 (sMem.putF ⟨dmaBase 479, 30, 1⟩ 1)).2 (by decide +kernel)).1⟩,
   ⟨_, ((((h).1 479 5 (sMem.putF ⟨dmaBase 479, 30, 1⟩ 1)).2 (by decide +kernel)).2).1⟩,
   ⟨_, (((((h).1 479 5 (sMem.putF ⟨dmaBase 479, 30, 1⟩ 1)).2 (by decide +kernel)).2).2).1⟩,
   ⟨_, ((((((h).1 479 5 (sMem.putF ⟨dmaBase 479, 30, 1⟩ 1)).2 (by decide +kernel)).2).2).2).1⟩,
   ⟨_, (((((((h).1 479 5 (sMem.putF ⟨dmaBase 479, 30, 1⟩ 1)).2 (by decide +kernel)).2).2).2).2).1⟩,
   ⟨_, ((((((((h).1 479 5 (sMem.putF ⟨dmaBase 479, 30, 1⟩ 1)).2 (by decide +kernel)).2).2).2).2).2).1⟩,
   ⟨_, (((((((((h).1 479 5 (sMem.putF ⟨dmaBase 479, 30, 1⟩ 1)).2 (by decide +kernel)).2).2).2).2).2).2).1⟩,
   ⟨_, ((((((((((h).1 479 5 (sMem.putF ⟨dmaBase 479, 30, 1⟩ 1)).2 (by decide +kernel)).2).2).2).2).2).2).2).1⟩,
   ⟨_, ((((((((((h).1 479 5 (sMem.putF ⟨dmaBase 479, 30, 1⟩ 1)).2 (by decide +kernel)).2).2).2).2).2).2).2).2⟩,
   (let ⟨t, hx, _⟩ := (((h).2).1 0 0 (sDsc 0 dCopy) 0 (desc0 dCopy) _ _ _ (by decide +kernel) rfl rfl rfl (by decide +kernel)).1 (by decide +kernel);
        ⟨t, hx⟩),
   (let ⟨t, hx, _⟩ := ((((h).2).1 0 0 (sDsc 0 dCopy) 0 (desc0 dCopy) _ _ _ (by decide +kernel) rfl rfl rfl (by decide +kernel)).2).1 _ (by decide +kernel)
        (by decide +kernel) (by decide +kernel) (by decide +kernel) (by decide +kernel) (by decide +kernel) (by decide +kernel) (by decide +kernel)
        (by decide +kernel) (by decide +kernel) rfl (by decide +kernel); ⟨t, hx⟩),
   (let ⟨t, hx, _⟩ := (((((h).2).1 0 5 (sDsc 5 (dObj 1)) 0 (desc0 (dObj 1)) _ _ _ (by decide +kernel) rfl rfl rfl (by decide +kernel)).2).2).1
        _ (planeOut (sDsc 5 (dObj 1)) 5 (desc0 (dObj 1))) (by decide +kernel) (by decide +kernel) (by decide +kernel) rfl (by decide +kernel)
        (by decide +kernel); ⟨t, hx⟩),
   (let ⟨t, hx, _⟩ := (((((h).2).1 0 4 (sDsc 4 (dObj 2)) 0 (desc0 (dObj 2)) _ _ _ (by decide +kernel) rfl rfl rfl (by decide +kernel)).2).2).2
        _ (planeOut (sDsc 4 (dObj 2)) 4 (desc0 (dObj 2))) (by decide +kernel) (by decide +kernel) (by decide +kernel) rfl (by decide +kernel)
        (by decide +kernel); ⟨t, hx⟩),
   (let ⟨t, hx, _⟩ := ((((h).2).2 0 0 1 sMcast).1 0 dMcast (by decide +kernel) (by decide +kernel)).1 (by decide +kernel); ⟨t, hx⟩),
   (let ⟨t, hx, _⟩ := (((((h).2).2 0 0 1 sMcast).1 0 dMcast (by decide +kernel) (by decide +kernel)).2).1; ⟨t, hx⟩),
   (let ⟨t, hx, _⟩ := ((((((h).2).2 0 0 1 (sMcast.putF ⟨redBase, 0, 16⟩ 0xFFFF)).1 0 dMcast (by decide +kernel) (by decide +kernel)).2).2).1
        (by decide +kernel); ⟨t, hx⟩),
   ⟨_, ((((((h).2).2 0 0 1 (sMcast.putF ⟨redBase, 0, 16⟩ 0)).1 0 dMcast (by decide +kernel) (by decide +kernel)).2).2).2 (by decide +kernel)⟩,
   (let ⟨t, hx, _⟩ := (((h).2).2 0 0 1 sLate).2 ((0, 1, [])) (by decide +kernel) (by decide +kernel) (by decide +kernel); ⟨t, hx⟩)⟩

theorem met_AtomicMaskloadKeyComplete (h : Obligations.AtomicMaskloadKeyComplete) :
    (∃ t, exec (Instr.dmaFetchAdd 0 0) (sDsc 0 (dAtomic 0)) = .next t) ∧
    (∃ t, exec (Instr.dmaClaim 0 0) (sDsc 0 (dAtomic 1)) = .next t) ∧
    (∃ t, exec (Instr.dmaPresent 0 0) (sDsc 0 (dAtomic 2)) = .next t) ∧
    (∃ t, exec (Instr.dmaMaskload 0 0) (sDsc 0 dMask) = .next t) ∧
    (∃ t, exec (Instr.dmaMaskload 0 0) ((sRoom [line5]).setDmaQ 0 0 [desc0 dMask]) = .next t) ∧
    (∃ t, exec (Instr.dmaMaskload 0 0) (sBadLine.setDmaQ 0 0 [desc0 dMask]) = .next t) ∧
    (∃ t, exec (Instr.dmaKey 0 5) (sDsc 5 dKey) = .next t) :=
  ⟨(let ⟨t, hx, _⟩ := (h 0 0 (sDsc 0 (dAtomic 0)) 0 (desc0 (dAtomic 0)) _ _ _ (by decide +kernel) rfl rfl (by decide +kernel) (by decide +kernel)
        rfl).1 _ ⟨false, 0x1000, 8⟩ [] _ (by decide +kernel) (by decide +kernel) (by decide +kernel) rfl (by decide +kernel) (by decide +kernel)
        (by decide +kernel) rfl; ⟨t, hx⟩),
   (let ⟨t, hx, _⟩ := (((h 0 0 (sDsc 0 (dAtomic 1)) 0 (desc0 (dAtomic 1)) _ _ _ (by decide +kernel) rfl rfl (by decide +kernel) (by decide +kernel)
        rfl).2).1 _ ⟨false, 0x1000, 32⟩ [] (by decide +kernel) (by decide +kernel) rfl (by decide +kernel) (by decide +kernel) (by decide +kernel)).1
        _ (by decide +kernel) rfl; ⟨t, hx⟩),
   (let ⟨t, hx, _⟩ := (((h 0 0 (sDsc 0 (dAtomic 2)) 0 (desc0 (dAtomic 2)) _ _ _ (by decide +kernel) rfl rfl (by decide +kernel) (by decide +kernel)
        rfl).2).1 _ ⟨false, 0x1000, 32⟩ [] (by decide +kernel) (by decide +kernel) rfl (by decide +kernel) (by decide +kernel) (by decide +kernel)).2
        _ (by decide +kernel) rfl; ⟨t, hx⟩),
   (let ⟨t, hx, _⟩ := ((((h 0 0 (sDsc 0 dMask) 0 (desc0 dMask) _ _ _ (by decide +kernel) rfl rfl (by decide +kernel) (by decide +kernel)
        rfl).2).2).1 _ (by decide +kernel) rfl (by decide +kernel)).1 (.record [] [] false false) (by decide +kernel) (by decide +kernel);
        ⟨t, hx⟩),
   (let ⟨t, hx, _⟩ := (((((h 0 0 ((sRoom [line5]).setDmaQ 0 0 [desc0 dMask]) 0 (desc0 dMask) _ _ _ (by decide +kernel) rfl rfl (by decide +kernel)
        (by decide +kernel) rfl).2).2).1 _ (by decide +kernel) rfl (by decide +kernel)).2).1 (by decide +kernel) (by decide +kernel);
        ⟨t, hx⟩),
   (let ⟨t, hx, _⟩ := (((((h 0 0 (sBadLine.setDmaQ 0 0 [desc0 dMask]) 0 (desc0 dMask) _ _ _ (by decide +kernel) rfl rfl (by decide +kernel) (by decide +kernel)
        rfl).2).2).1 _ (by decide +kernel) rfl (by decide +kernel)).2).2 (by decide +kernel); ⟨t, hx⟩),
   (let ⟨t, hx, _⟩ := (((h 0 5 (sDsc 5 dKey) 0 (desc0 dKey) _ _ _ (by decide +kernel) rfl rfl (by decide +kernel) (by decide +kernel)
        rfl).2).2).2 (by decide +kernel); ⟨t, hx⟩)⟩

theorem met_SignalsAndBarrierNodesComplete (h : Obligations.SignalsAndBarrierNodesComplete) :
    (∃ t, exec (Instr.signalReceive (sig0 5)) (sSig 9 (sig0 5)) = .next t) ∧
    (∃ t, exec (Instr.signalReceive (sig0 0xFFFF)) (sSig 1 (sig0 0xFFFF)) = .next t) ∧
    (∃ t, exec (Instr.signalReceive (sig0 0xFFFF)) ((sSig 1 (sig0 0xFFFF)).putF ⟨synKey (mcKey 0), 3, 1⟩ 1) = .next t) ∧
    (∃ t, exec (Instr.signalReceive (sig0 5)) case27 = .next t) ∧
    (∃ t, exec (Instr.signalReceive ({ sig0 5 with stamp := 15 })) (sSig 9 { sig0 5 with stamp := 15 }) = .next t) ∧
    (∃ t, exec (Instr.signalCompletion 479 false) case28 = .next t) ∧
    (∃ t, exec (Instr.signalCompletion 3 true) case28 = .next t) ∧
    (∃ t, exec (Instr.barrierNodeArrival (.half 0 true) 0 3 2) (sNode 1 3) = .next t) ∧
    (∃ t, exec (Instr.barrierNodeArrival (.half 0 true) 0 3 2) (sNode 1 2) = .next t) ∧
    (∃ t, exec (Instr.barrierNodeArrival (.half 0 true) 0 3 2) (sNode 0 2) = .next t) :=
  ⟨(let ⟨t, hx, _⟩ := (((h).1).1 (sig0 5) (sSig 9 (sig0 5)) _ _ _ (by decide +kernel) rfl rfl rfl (by decide +kernel) (by decide +kernel) (by decide +kernel)).1
        (by decide +kernel); ⟨t, hx⟩),
   (let ⟨t, hx, _⟩ := ((((h).1).1 (sig0 0xFFFF) (sSig 1 (sig0 0xFFFF)) _ _ _ (by decide +kernel) rfl rfl rfl (by decide +kernel) (by decide +kernel)
        (by decide +kernel)).2).1 (by decide +kernel) (by decide +kernel); ⟨t, hx⟩),
   (let ⟨t, hx, _⟩ := ((((h).1).1 (sig0 0xFFFF) ((sSig 1 (sig0 0xFFFF)).putF ⟨synKey (mcKey 0), 3, 1⟩ 1) _ _ _ (by decide +kernel) rfl rfl rfl
        (by decide +kernel) (by decide +kernel) (by decide +kernel)).2).2 (by decide +kernel) (by decide +kernel) (by decide +kernel);
        ⟨t, hx⟩),
   (let ⟨t, hx, _⟩ := (((h).1).2).1 (sig0 5) case27 (by decide +kernel) (by decide +kernel); ⟨t, hx⟩),
   (let ⟨t, hx, _⟩ := ((((h).1).2).2).1 ({ sig0 5 with stamp := 15 }) (sSig 9 { sig0 5 with stamp := 15 }) _ (by decide +kernel) rfl (by decide +kernel)
        (by decide +kernel) (by decide +kernel); ⟨t, hx⟩),
   (let ⟨t, hx, _⟩ := (((((h).1).2).2).2).1 479 case28 (by decide +kernel); ⟨t, hx⟩),
   (let ⟨t, hx, _⟩ := (((((h).1).2).2).2).2 3 case28 (by decide +kernel); ⟨t, hx⟩),
   (let ⟨t, hx, _⟩ := ((h).2 (.half 0 true) 0 3 2 (sNode 1 3) ⟨1, false, 2, []⟩ (⟨3, [(2, 1)]⟩) _ _ (by decide +kernel) (by decide +kernel) rfl
        (by decide +kernel) rfl).1 (by decide +kernel); ⟨t, hx⟩),
   (let ⟨t, hx, _⟩ := (((h).2 (.half 0 true) 0 3 2 (sNode 1 2) ⟨1, false, 2, []⟩ (⟨2, [(2, 1)]⟩) _ _ (by decide +kernel) (by decide +kernel)
        rfl (by decide +kernel) rfl).2).1 (by decide +kernel) 0 (by decide +kernel); ⟨t, hx⟩),
   (let ⟨t, hx, _⟩ := (((h).2 (.half 0 true) 0 3 2 (sNode 0 2) ⟨0, false, 2, []⟩ (⟨2, [(2, 1)]⟩) _ _ (by decide +kernel) (by decide +kernel)
        rfl (by decide +kernel) rfl).2).2 (by decide +kernel) (by decide +kernel) (by decide +kernel); ⟨t, hx⟩)⟩

theorem met_ReleasesIdleReportsAndHangs (h : Obligations.ReleasesIdleReportsAndHangs) :
    (∃ t, exec (Instr.barrierReleaseApply ⟨false, 0⟩ 0 3 2) sRel = .next t) ∧
    (∃ t, exec (Instr.idleReport ⟨false, 0⟩) sIdle = .next t) ∧
    (∃ t, exec (Instr.syncHang ⟨false, 0⟩ 3) sIdle = .next t) ∧
    (∃ t, exec (Instr.syncHang ⟨false, 0⟩ 3) ({ sHung with regs := sIdle.regs }) = .next t) :=
  ⟨(let ⟨t, hx, _⟩ := (h).1 ⟨false, 0⟩ 0 3 2 sRel _ (⟨3, [(2, 9)]⟩) ((2, 9)) rfl (by decide +kernel) (by decide +kernel) (by decide +kernel)
        (by decide +kernel) (by decide +kernel) (by decide +kernel); ⟨t, hx⟩),
   (let ⟨t, hx, _⟩ := ((h).2).1 ⟨false, 0⟩ sIdle (by decide +kernel) (by decide +kernel) (by decide +kernel); ⟨t, hx⟩),
   (let ⟨t, hx, _⟩ := (((h).2).2 ⟨false, 0⟩ 3 sIdle 2 _ rfl (by decide +kernel) (by decide +kernel)).1 (by decide +kernel); ⟨t, hx⟩),
   ⟨_, (((h).2).2 ⟨false, 0⟩ 3 ({ sHung with regs := sIdle.regs }) 2 _ rfl (by decide +kernel) (by decide +kernel)).2 (by decide +kernel)⟩⟩

theorem met_PortTrainingSteps (h : Obligations.PortTrainingSteps) :
    (∃ t, exec (Instr.portEnable 17) (sPort 17 0 id) = .next t) ∧
    (∃ t, exec (Instr.portEnable 17) (sPort 17 5 id) = .next t) ∧
    (∃ t, exec (Instr.portDisable 17) (sPort 17 5 id) = .next t) ∧
    (∃ t, exec (Instr.portSignalDetect 17) (sPort 17 1 id) = .next t) ∧
    (∃ t, exec (Instr.portTuneDone 17 0xC) (sPort 17 2 id) = .next t) ∧
    (∃ t, exec (Instr.portTuneDone 17 0) (sPort 17 2 id) = .next t) ∧
    (∃ t, exec (Instr.portAlignDone 17 0xC true) (sPort 17 3 (fun p => { p with tuned := 0xF })) = .next t) ∧
    (∃ t, exec (Instr.portAlignDone 17 0xC true) (sPort 17 3 (fun p => { p with tuned := 3 })) = .next t) ∧
    (∃ t, exec (Instr.portStateTimeout 17) (sPort 17 6 id) = .next t) ∧
    (∃ t, exec (Instr.portTuneBackoff 17) case29 = .next t) :=
  ⟨(let ⟨t, hx, _⟩ := (h 17 (sPort 17 0 id)).1 (by decide +kernel); ⟨t, hx⟩),
   (let ⟨t, hx, _⟩ := ((h 17 (sPort 17 5 id)).2).1 (by decide +kernel); ⟨t, hx⟩),
   (let ⟨t, hx, _⟩ := (((h 17 (sPort 17 5 id)).2).2).1; ⟨t, hx⟩),
   (let ⟨t, hx, _⟩ := ((((h 17 (sPort 17 1 id)).2).2).2).1 (by decide +kernel); ⟨t, hx⟩),
   (let ⟨t, hx, _⟩ := ((((((h 17 (sPort 17 2 id)).2).2).2).2).1 0xC (by decide +kernel) (by decide +kernel)).1 (by decide +kernel); ⟨t, hx⟩),
   (let ⟨t, hx, _⟩ := ((((((h 17 (sPort 17 2 id)).2).2).2).2).1 0 (by decide +kernel) (by decide +kernel)).2 rfl; ⟨t, hx⟩),
   (let ⟨t, hx, _⟩ := (((((((h 17 (sPort 17 3 (fun p => { p with tuned := 0xF }))).2).2).2).2).2).1 0xC true (by decide +kernel)).1 (by decide +kernel);
        ⟨t, hx⟩),
   (let ⟨t, hx, _⟩ := (((((((h 17 (sPort 17 3 (fun p => { p with tuned := 3 }))).2).2).2).2).2).1 0xC true (by decide +kernel)).2 (by decide +kernel);
        ⟨t, hx⟩),
   (let ⟨t, hx, _⟩ := (((((((h 17 (sPort 17 6 id)).2).2).2).2).2).2).1 (by decide +kernel); ⟨t, hx⟩),
   (let ⟨t, hx, _⟩ := (((((((h 17 case29).2).2).2).2).2).2).2 (by decide +kernel) (by decide +kernel); ⟨t, hx⟩)⟩

theorem met_PortTimersAndRetrains (h : Obligations.PortTimersAndRetrains) :
    (∃ t, exec (Instr.laneLockLost 17 3) case30 = .next t) ∧
    (∃ t, exec (Instr.laneErrorThreshold 17 3 0xFFFF) case30 = .next t) ∧
    (∃ t, exec (Instr.laneErrorThreshold 17 3 0) case30 = .next t) ∧
    (∃ t, exec (Instr.portRetrain 17) case30 = .next t) ∧
    (∃ t, exec (Instr.portRetrain 17) State.reset = .next t) ∧
    (∃ t, exec (Instr.degradedRetrainTimer 17) ((sPort 17 5 id).putF (pstDegraded 17) 1) = .next t) ∧
    (∃ t, exec (Instr.portUnquarantine 17) (sPort 17 7 id) = .next t) ∧
    (∃ t, exec (Instr.quarantineReleaseTimer 17) case31 = .next t) ∧
    (∃ t, exec (Instr.quarantineReleaseTimer 17) case32 = .next t) ∧
    (∃ t, exec (Instr.rateLimitExpiry 17 7) case30 = .next t) ∧
    (∃ t, exec (Instr.replayTimeout 17) case30 = .next t) ∧
    (∃ t, exec (Instr.creditFlitTimer 17) case30 = .next t) ∧
    (∃ t, exec (Instr.configResendTimer 17) (sPort 17 4 id) = .next t) :=
  ⟨(let ⟨t, hx, _⟩ := ((h 17 case30).1 3 (by decide +kernel) (by decide +kernel)).1; ⟨t, hx⟩),
   (let ⟨t, hx, _⟩ := ((h 17 case30).1 3 (by decide +kernel) (by decide +kernel)).2 0xFFFF (by decide +kernel); ⟨t, hx⟩),
   (let ⟨t, hx, _⟩ := ((h 17 case30).2).1 3 0 (by decide +kernel); ⟨t, hx⟩),
   (let ⟨t, hx, _⟩ := (((h 17 case30).2).2).1 (by decide +kernel); ⟨t, hx⟩),
   ⟨_, ((((h 17 State.reset).2).2).2).1 (by decide +kernel)⟩,
   (let ⟨t, hx, _⟩ := (((((h 17 ((sPort 17 5 id).putF (pstDegraded 17) 1)).2).2).2).2).1 (by decide +kernel) (by decide +kernel) (by decide +kernel);
        ⟨t, hx⟩),
   (let ⟨t, hx, _⟩ := (((((((h 17 (sPort 17 7 id)).2).2).2).2).2).1 (by decide +kernel) (by decide +kernel)).1; ⟨t, hx⟩),
   (let ⟨t, hx, _⟩ := ((((((((h 17 case31).2).2).2).2).2).1 (by decide +kernel) (by decide +kernel)).2).1 (by decide +kernel); ⟨t, hx⟩),
   ⟨_, ((((((((h 17 case32).2).2).2).2).2).1 (by decide +kernel) (by decide +kernel)).2).2 (by decide +kernel)⟩,
   (let ⟨t, hx, _⟩ := (((((((h 17 case30).2).2).2).2).2).2).1 7 (by decide +kernel); ⟨t, hx⟩),
   (let ⟨t, hx, _⟩ := ((((((((h 17 case30).2).2).2).2).2).2).2).1 ⟨9, 0, []⟩ [] (by decide +kernel) (by decide +kernel) (by decide +kernel);
        ⟨t, hx⟩),
   (let ⟨t, hx, _⟩ := (((((((((h 17 case30).2).2).2).2).2).2).2).2).1 (by decide +kernel); ⟨t, hx⟩),
   (let ⟨t, hx, _⟩ := (((((((((h 17 (sPort 17 4 id)).2).2).2).2).2).2).2).2).2 (by decide +kernel); ⟨t, hx⟩)⟩

theorem met_FlitsAreReceivedAndSent (h : Obligations.FlitsAreReceivedAndSent) :
    (∃ t, exec (.idleFlit 17 (flit 0 [] ++ [0])) (sPort 17 5 id) = .next t) ∧
    (∃ t, exec (Instr.dataFlit 17 (flit 0 [])) (sPort 17 5 id) = .next t) ∧
    (∃ t, exec (Instr.idleFlit 17 (flit 1 [])) (sPort 17 5 id) = .next t) ∧
    (∃ t, exec (Instr.creditFlit 17 (flit 2 [2, 0, 0, 0, 0, 0, 0, 0, 5])) (sPort 17 5 id) = .next t) ∧
    (∃ t, exec (Instr.retrainFlit 17 (flit 2 [3, 1])) (sPort 17 5 id) = .next t) ∧
    (∃ t, exec (Instr.quarantineFlit 17 (flit 2 [4, 9])) (sPort 17 5 id) = .next t) ∧
    (∃ t, exec (Instr.configFlit 17 (flit 2 [1, 1])) case33 = .next t) ∧
    (∃ t, exec (Instr.configFlit 17 (flit 2 cfgPay)) case33 = .next t) ∧
    (∃ t, exec (Instr.flitTransmit 17) case34 = .next t) ∧
    (∃ t, exec (Instr.flitTransmit 17) case35 = .next t) ∧
    (∃ t, exec (Instr.flitTransmit 17) (sPort 17 5 id) = .next t) ∧
    (∃ t, exec (Instr.flitTransmit 17) case36 = .next t) ∧
    (∃ t, exec (Instr.flitTransmit 17) (sPort 17 7 id) = .next t) ∧
    (∃ t, exec (Instr.flitTransmit 17) (sPort 17 3 id) = .next t) :=
  ⟨(let ⟨t, hx, _⟩ := ((h).1 17 (flit 0 [] ++ [0]) (sPort 17 5 id) _ _ rfl rfl).1 (by decide +kernel) (by decide +kernel) (.idleFlit 17 (flit 0
        [] ++ [0])) (by decide +kernel); ⟨t, hx⟩),
   (let ⟨t, hx, _⟩ := ((((h).1 17 (flit 0 []) (sPort 17 5 id) _ _ rfl rfl).2).1 (by decide +kernel) (by decide +kernel)).1 _ _ _ (by decide +kernel)
        rfl (by decide +kernel) (by decide +kernel) (by decide +kernel) rfl rfl (by decide +kernel); ⟨t, hx⟩),
   (let ⟨t, hx, _⟩ := (((((h).1 17 (flit 1 []) (sPort 17 5 id) _ _ rfl rfl).2).1 (by decide +kernel) (by decide +kernel)).2).1 (by decide +kernel);
        ⟨t, hx⟩),
   (let ⟨t, hx, _⟩ := ((((((h).1 17 (flit 2 [2, 0, 0, 0, 0, 0, 0, 0, 5]) (sPort 17 5 id) _ _ rfl rfl).2).1 (by decide +kernel) (by decide +kernel)).2).2).1
        (by decide +kernel) (by decide +kernel) (by decide +kernel) (by decide +kernel); ⟨t, hx⟩),
   (let ⟨t, hx, _⟩ := (((((((h).1 17 (flit 2 [3, 1]) (sPort 17 5 id) _ _ rfl rfl).2).1 (by decide +kernel) (by decide +kernel)).2).2).2).1 (by decide +kernel)
        (by decide +kernel) (by decide +kernel); ⟨t, hx⟩),
   ⟨_, (((((((h).1 17 (flit 2 [4, 9]) (sPort 17 5 id) _ _ rfl rfl).2).1 (by decide +kernel) (by decide +kernel)).2).2).2).2 (by decide +kernel) (by decide +kernel) (by decide +kernel)⟩,
   (let ⟨t, hx, _⟩ := ((((h).1 17 (flit 2 [1, 1]) case33 _ _ rfl rfl).2).2 (by decide +kernel) (by decide +kernel) (by decide +kernel) (by decide +kernel)
        (by decide +kernel)).1 (by decide +kernel); ⟨t, hx⟩),
   (let ⟨t, hx, _⟩ := ((((h).1 17 (flit 2 cfgPay) case33 _ _ rfl rfl).2).2 (by decide +kernel) (by decide +kernel) (by decide +kernel) (by decide +kernel)
        (by decide +kernel)).2 (by decide +kernel) 0 (by decide +kernel); ⟨t, hx⟩),
   (let ⟨t, hx, _⟩ := ((h).2 17 case34 _ rfl).1 2 [3] (by decide +kernel) (by decide +kernel); ⟨t, hx⟩),
   (let ⟨t, hx, _⟩ := (((h).2 17 case35 _ rfl).2).1 ⟨9, 0, [1]⟩ [] _ (by decide +kernel) (by decide +kernel) (by decide +kernel) rfl; ⟨t, hx⟩),
   (let ⟨t, hx, _⟩ := ((((h).2 17 (sPort 17 5 id) _ rfl).2).2).1 (by decide +kernel) (by decide +kernel) (by decide +kernel) (by decide +kernel);
        ⟨t, hx⟩),
   (let ⟨t, hx, _⟩ := (((((h).2 17 case36 _ rfl).2).2).2).1 2 [3] (by decide +kernel) (by decide +kernel); ⟨t, hx⟩),
   (let ⟨t, hx, _⟩ := ((((((h).2 17 (sPort 17 7 id) _ rfl).2).2).2).2).1 (by decide +kernel); ⟨t, hx⟩),
   ⟨_, ((((((h).2 17 (sPort 17 3 id) _ rfl).2).2).2).2).2 (by decide +kernel)⟩⟩

theorem met_RequestMessagesComplete (h : Obligations.RequestMessagesComplete) :
    (∃ t, exec (Instr.put 0 (msg 1 1 0 0 16 0x1000 0) pay16) sFab = .next t) ∧
    (∃ t, exec (Instr.mcast 0 (msg 8 1 0 0 16 0x1000 0) pay16) sFab = .next t) ∧
    (∃ t, exec (Instr.put 0 (msg 1 1 0 0 16 (2 ^ 40) 0) pay16) sFab = .next t) ∧
    (∃ t, exec (Instr.get 0 (msg 2 0 0 0 16 0x1000 0) []) sFab = .next t) ∧
    (∃ t, exec (Instr.atomic 0 (msg 3 1 0 0 3 0x1000 0) pay16) sFab = .next t) ∧
    (∃ t, exec (Instr.atomic 0 (msg 3 1 0 0 4 0x1000 0) pay16) sFab = .next t) ∧
    (∃ t, exec (Instr.probe 0 (msg 10 0 0 0 0 0 0) []) sFab = .next t) ∧
    (∃ t, exec (Instr.probe 0 (msg 10 0 0 0 255 0 0) []) sFab = .next t) ∧
    (∃ t, exec (Instr.nodeCfg 0 (msg 10 2 0 0 1 0 0) (toLE 32 5)) sFab = .next t) ∧
    (∃ t, exec (Instr.portStat 0 (msg 10 0 0 0 2 0 0) []) sFab = .next t) ∧
    (∃ t, exec (Instr.barrierRelease 0 (msg 7 0 0 0 0x803 0 0) []) sBarFab = .next t) ∧
    (∃ t, exec (Instr.barrierArrive 0 (msg 6 0 0 0 0x803 0 0) []) sBarFab = .next t) :=
  ⟨(let ⟨t, hx, _⟩ := ((((h).1 0 (msg 1 1 0 0 16 0x1000 0) pay16 sFab _ _ rfl).1 _ rfl).1 [] false (by decide +kernel) (by decide +kernel)).1
        ⟨(by decide +kernel), ⟨(by decide +kernel), ⟨(by decide +kernel), ⟨(by decide +kernel), ⟨rfl, (by decide +kernel)⟩⟩⟩⟩⟩; ⟨t, hx⟩),
   (let ⟨t, hx, _⟩ := ((((h).1 0 (msg 8 1 0 0 16 0x1000 0) pay16 sFab _ _ rfl).1 _ rfl).1 [] false (by decide +kernel) (by decide +kernel)).2
        ⟨(by decide +kernel), ⟨(by decide +kernel), ⟨(by decide +kernel), ⟨(by decide +kernel), ⟨rfl, (by decide +kernel)⟩⟩⟩⟩⟩; ⟨t, hx⟩),
   (let ⟨t, _, hx, _⟩ := (((h).1 0 (msg 1 1 0 0 16 (2 ^ 40) 0) pay16 sFab _ _ rfl).1 _ rfl).2 0 (2 ^ 40) (by decide +kernel)
        ⟨(by decide +kernel), ⟨(by decide +kernel), ⟨(by decide +kernel), ⟨(by decide +kernel), ⟨rfl, (by decide +kernel)⟩⟩⟩⟩⟩; ⟨t, hx⟩),
   (let ⟨t, hx, _⟩ := (((h).1 0 (msg 2 0 0 0 16 0x1000 0) [] sFab _ _ rfl).2).1 _ (List.replicate 16 0) false
        ⟨(by decide +kernel), ⟨(by decide +kernel), ⟨(by decide +kernel), ⟨(by decide +kernel), ⟨rfl, (by decide +kernel)⟩⟩⟩⟩⟩ rfl (by decide +kernel);
        ⟨t, hx⟩),
   (let ⟨t, hx, _⟩ := ((((h).1 0 (msg 3 1 0 0 3 0x1000 0) pay16 sFab _ _ rfl).2).2).1 _ ⟨false, 0x1000, 8⟩ [] _ .swap
        ⟨(by decide +kernel), ⟨(by decide +kernel), ⟨(by decide +kernel), ⟨(by decide +kernel), ⟨rfl, (by decide +kernel)⟩⟩⟩⟩⟩ rfl (by decide +kernel)
        (by decide +kernel) (by decide +kernel) (by decide +kernel) rfl; ⟨t, hx⟩),
   (let ⟨t, hx, _⟩ := ((((h).1 0 (msg 3 1 0 0 4 0x1000 0) pay16 sFab _ _ rfl).2).2).2 _ ⟨false, 0x1000, 8⟩ [] _
        ⟨(by decide +kernel), ⟨(by decide +kernel), ⟨(by decide +kernel), ⟨(by decide +kernel), ⟨rfl, (by decide +kernel)⟩⟩⟩⟩⟩ rfl (by decide +kernel)
        (by decide +kernel) (by decide +kernel) (by decide +kernel) rfl (by decide +kernel); ⟨t, hx⟩),
   (let ⟨t, hx, _⟩ := ((h).2 0 (msg 10 0 0 0 0 0 0) [] sFab _).1
        ⟨(by decide +kernel), ⟨(by decide +kernel), ⟨(by decide +kernel), ⟨(by decide +kernel), ⟨rfl, (by decide +kernel)⟩⟩⟩⟩⟩ (by decide +kernel);
        ⟨t, hx⟩),
   (let ⟨t, hx, _⟩ := (((h).2 0 (msg 10 0 0 0 255 0 0) [] sFab _).2).1
        ⟨(by decide +kernel), ⟨(by decide +kernel), ⟨(by decide +kernel), ⟨(by decide +kernel), ⟨rfl, (by decide +kernel)⟩⟩⟩⟩⟩ (by decide +kernel);
        ⟨t, hx⟩),
   (let ⟨t, hx, _⟩ := ((((h).2 0 (msg 10 2 0 0 1 0 0) (toLE 32 5) sFab _).2).2).1
        ⟨(by decide +kernel), ⟨(by decide +kernel), ⟨(by decide +kernel), ⟨(by decide +kernel), ⟨rfl, (by decide +kernel)⟩⟩⟩⟩⟩ (by decide +kernel);
        ⟨t, hx⟩),
   (let ⟨t, hx, _⟩ := (((((h).2 0 (msg 10 0 0 0 2 0 0) [] sFab _).2).2).2).1
        ⟨(by decide +kernel), ⟨(by decide +kernel), ⟨(by decide +kernel), ⟨(by decide +kernel), ⟨rfl, (by decide +kernel)⟩⟩⟩⟩⟩ (by decide +kernel);
        ⟨t, hx⟩),
   (let ⟨t, hx, _⟩ := ((((((h).2 0 (msg 7 0 0 0 0x803 0 0) [] sBarFab _).2).2).2).2).1 ⟨3, false, 2, []⟩ _
        ⟨(by decide +kernel), ⟨(by decide +kernel), ⟨(by decide +kernel), ⟨(by decide +kernel), ⟨rfl, (by decide +kernel)⟩⟩⟩⟩⟩ rfl (by decide +kernel)
        (by decide +kernel); ⟨t, hx⟩),
   (let ⟨t, hx, _⟩ := ((((((h).2 0 (msg 6 0 0 0 0x803 0 0) [] sBarFab _).2).2).2).2).2
        ⟨(by decide +kernel), ⟨(by decide +kernel), ⟨(by decide +kernel), ⟨(by decide +kernel), ⟨rfl, (by decide +kernel)⟩⟩⟩⟩⟩; ⟨t, hx⟩)⟩

theorem met_ResponsesAndTimeoutsComplete (h : Obligations.ResponsesAndTimeoutsComplete) :
    (∃ t, exec (.fabricResponse 0 (msg 17 0 1 0 0 0 0) []) (sReq 1) = .next t) ∧
    (∃ t, exec (.fabricResponse 0 (msg 17 0 10 0 0 0 0) []) (sReq 1) = .next t) ∧
    (∃ t, exec (.fabricResponse 0 (msg 17 0 0 0 0 0 0) []) (sReq 1) = .next t) ∧
    (∃ t, exec (.fabricResponse 0 (msg 17 0 2 0 0 0 0) []) (sReq 1) = .next t) ∧
    (∃ t, exec (.fabricResponse 0 (msg 17 0 1 0 0 0 0) []) sFab = .next t) ∧
    (∃ t, exec (Instr.xlateRetryResend 1) (sReq 1) = .next t) ∧
    (∃ t, exec (Instr.transactionTimeout 1) (sReq 1) = .next t) ∧
    (∃ t, exec (Instr.transactionTimeout 1) ((sReq 8).putF ⟨redBase, 0, 16⟩ 0) = .next t) :=
  ⟨(let ⟨t, hx, _⟩ := (((h).1 0 (msg 17 0 1 0 0 0 0) [] (sReq 1) _ (req0 1) _ (.fabricResponse 0 (msg 17 0 1 0 0 0 0) []) rfl rfl (by decide +kernel)
        (by decide +kernel) (by decide +kernel) (by decide +kernel) rfl (by decide +kernel)).1 (by decide +kernel) (by decide +kernel)).1
        (by decide +kernel); ⟨t, hx⟩),
   (let ⟨t, hx, _⟩ := ((((h).1 0 (msg 17 0 10 0 0 0 0) [] (sReq 1) _ (req0 1) _ (.fabricResponse 0 (msg 17 0 10 0 0 0 0) []) rfl rfl (by decide +kernel)
        (by decide +kernel) (by decide +kernel) (by decide +kernel) rfl (by decide +kernel)).1 (by decide +kernel) (by decide +kernel)).2).1
        (by decide +kernel) (by decide +kernel); ⟨t, hx⟩),
   (let ⟨t, hx, _⟩ := (((((h).1 0 (msg 17 0 0 0 0 0 0) [] (sReq 1) _ (req0 1) _ (.fabricResponse 0 (msg 17 0 0 0 0 0 0) []) rfl rfl (by decide +kernel)
        (by decide +kernel) (by decide +kernel) (by decide +kernel) rfl (by decide +kernel)).1 (by decide +kernel) (by decide +kernel)).2).2).1
        (by decide +kernel); ⟨t, hx⟩),
   (let ⟨t, hx, _⟩ := (((((h).1 0 (msg 17 0 2 0 0 0 0) [] (sReq 1) _ (req0 1) _ (.fabricResponse 0 (msg 17 0 2 0 0 0 0) []) rfl rfl (by decide +kernel)
        (by decide +kernel) (by decide +kernel) (by decide +kernel) rfl (by decide +kernel)).1 (by decide +kernel) (by decide +kernel)).2).2).2
        (by decide +kernel); ⟨t, hx⟩),
   (let ⟨t, hx, _⟩ := ((h).1 0 (msg 17 0 1 0 0 0 0) [] sFab _ (req0 1) _ (.fabricResponse 0 (msg 17 0 1 0 0 0 0) []) rfl rfl (by decide +kernel)
        (by decide +kernel) (by decide +kernel) (by decide +kernel) rfl (by decide +kernel)).2 (by decide +kernel); ⟨t, hx⟩),
   (let ⟨t, hx, _⟩ := ((h).2 1 (sReq 1) (req0 1) (by decide +kernel)).1; ⟨t, hx⟩),
   (let ⟨t, hx, _⟩ := (((h).2 1 (sReq 1) (req0 1) (by decide +kernel)).2).1 (by decide +kernel); ⟨t, hx⟩),
   ⟨_, (((h).2 1 ((sReq 8).putF ⟨redBase, 0, 16⟩ 0) (req0 8) (by decide +kernel)).2).2 (by decide +kernel) (by decide +kernel)⟩⟩

theorem met_ReductionsComplete (h : Obligations.ReductionsComplete) :
    (∃ t, exec (Instr.reduceContrib 0 (contrib0 3) pay256) (sRed (round0 0 [] [])) = .next t) ∧
    (∃ t, exec (Instr.reduceContrib 0 (contrib0 9) pay256) (sRed (round0 0 [] [])) = .next t) ∧
    (∃ t, exec (Instr.reduceResult 0 result0 pay256) (sRed (round0 0 [] [(0, { st := .closed })])) = .next t) ∧
    (∃ t, exec (Instr.reduceResult 0 result0 pay256) (sRed (round0 0 [] [])) = .next t) ∧
    (∃ t, exec (Instr.localContribRead 4 0 0) (sRed (roundAt (2 ^ 40) [])) = .next t) ∧
    (∃ t, exec (Instr.localContribRead 4 0 0) (sRed (roundAt 0x2000 [])) = .next t) ∧
    (∃ t, exec (Instr.localContribRead 4 0 0) sBadRed = .next t) ∧
    (∃ t, exec (Instr.fragmentDeadline 4 0) (sRed (round0 0 [] opened0)) = .next t) ∧
    (∃ t, exec (Instr.fragmentDeadline 4 0) case37 = .next t) ∧
    (∃ t, exec (Instr.fragmentDeadline 4 0) (assist0 (sRed (round0 0 [] opened0))) = .next t) ∧
    (∃ t, exec (Instr.resultWriteAck 4 0) (sRed round128) = .next t) ∧
    (∃ t, exec (Instr.reductionHang 4 0) ((sRed (round0 0x1000 [] opened0)).putF ⟨redBase, 16, 16⟩ 1) = .next t) ∧
    (∃ t, exec (Instr.reductionHang 4 0) ((sRed (round0 0x1000 [] opened0)).putF ⟨redBase, 16, 16⟩ 0) = .next t) :=
  ⟨(let ⟨t, hx, _⟩ := (((h).1 0 (contrib0 3) pay256 (sRed (round0 0 [] [])) _ _ (red0 (round0 0 [] [])) (round0 0 [] []) ({}) rfl (by decide +kernel)
        (by decide +kernel) (by decide +kernel)).1
        ⟨(by decide +kernel), ⟨(by decide +kernel), ⟨(by decide +kernel), ⟨(by decide +kernel), ⟨rfl, (by decide +kernel)⟩⟩⟩⟩⟩ (by decide +kernel)
        (by decide +kernel)).1 (by decide +kernel) (by decide +kernel) (by decide +kernel) (by decide +kernel) (by decide +kernel) (by decide +kernel)
        (by decide +kernel); ⟨t, hx⟩),
   (let ⟨t, hx, _⟩ := (((h).1 0 (contrib0 9) pay256 (sRed (round0 0 [] [])) _ _ (red0 (round0 0 [] [])) (round0 0 [] []) ({}) rfl (by decide +kernel)
        (by decide +kernel) (by decide +kernel)).1
        ⟨(by decide +kernel), ⟨(by decide +kernel), ⟨(by decide +kernel), ⟨(by decide +kernel), ⟨rfl, (by decide +kernel)⟩⟩⟩⟩⟩ (by decide +kernel)
        (by decide +kernel)).2 (by decide +kernel); ⟨t, hx⟩),
   (let ⟨t, hx, _⟩ := (((h).1 0 result0 pay256 (sRed (round0 0 [] [(0, { st := .closed })])) _ _ (red0 (round0 0 [] [(0, { st := .closed })]))
        (round0 0 [] [(0, { st := .closed })]) _ rfl (by decide +kernel) (by decide +kernel) rfl).2 _
        ⟨(by decide +kernel), ⟨(by decide +kernel), ⟨(by decide +kernel), ⟨(by decide +kernel), ⟨rfl, (by decide +kernel)⟩⟩⟩⟩⟩ (by decide +kernel)
        (by decide +kernel) (by decide +kernel) (by decide +kernel) (by decide +kernel) rfl).1 (by decide +kernel); ⟨t, hx⟩),
   (let ⟨t, hx, _⟩ := (((h).1 0 result0 pay256 (sRed (round0 0 [] [])) _ _ (red0 (round0 0 [] [])) (round0 0 [] []) _ rfl (by decide +kernel)
        (by decide +kernel) rfl).2 _
        ⟨(by decide +kernel), ⟨(by decide +kernel), ⟨(by decide +kernel), ⟨(by decide +kernel), ⟨rfl, (by decide +kernel)⟩⟩⟩⟩⟩ (by decide +kernel)
        (by decide +kernel) (by decide +kernel) (by decide +kernel) (by decide +kernel) rfl).2 (by decide +kernel) (by decide +kernel);
        ⟨t, hx⟩),
   (let ⟨t, hx, _⟩ := (((h).2).1 4 0 0 (sRed (roundAt (2 ^ 40) [])) (red0 (roundAt (2 ^ 40) [])) [] (roundAt (2 ^ 40) []) _ _ (by decide +kernel)
        (by decide +kernel) rfl rfl).1 0 (2 ^ 40) (by decide +kernel); ⟨t, hx⟩),
   (let ⟨t, hx, _⟩ := ((((h).2).1 4 0 0 (sRed (roundAt 0x2000 [])) (red0 (roundAt 0x2000 [])) [] (roundAt 0x2000 []) _ _ (by decide +kernel)
        (by decide +kernel) rfl rfl).2).1 (List.replicate 256 0) (red0 (roundAt 0x2000 opened0)) (roundAt 0x2000 opened0) (by decide +kernel)
        (by decide +kernel) (by decide +kernel) (by decide +kernel) (by decide +kernel); ⟨t, hx⟩),
   (let ⟨t, hx, _⟩ := ((((h).2).1 4 0 0 sBadRed (red0 (roundAt 0x280 [])) [] (roundAt 0x280 []) _ _ (by decide +kernel) (by decide +kernel) rfl
        rfl).2).2 (List.replicate 128 7 ++ List.replicate 128 0) (red0 (roundAt 0x280 opened0)) (roundAt 0x280 opened0) (by decide +kernel)
        (by decide +kernel) (by decide +kernel) (by decide +kernel); ⟨t, hx⟩),
   (let ⟨t, hx, _⟩ := ((((h).2).2).1 4 0 (sRed (round0 0 [] opened0)) (red0 (round0 0 [] opened0)) [] (round0 0 [] opened0) (by decide +kernel)
        (by decide +kernel)).1 (by decide +kernel); ⟨t, hx⟩),
   ⟨_, (((((h).2).2).1 4 0 case37 (red0 { round0 0 [] opened0 with posted := true }) [] ({ round0 0 [] opened0 with posted := true }) (by decide +kernel) (by decide +kernel)).2).1 (by decide +kernel) (by decide +kernel) (by decide +kernel)⟩,
   (let ⟨t, hx, _⟩ := (((((h).2).2).1 4 0 (assist0 (sRed (round0 0 [] opened0))) (red0 (round0 0 [] opened0)) [] (round0 0 [] opened0) (by decide +kernel)
        (by decide +kernel)).2).2 (by decide +kernel) (by decide +kernel) (by decide +kernel) (by decide +kernel); ⟨t, hx⟩),
   (let ⟨t, hx, _⟩ := ((((h).2).2).2).1 4 0 (sRed round128) (red0 round128) [] round128 _ (by decide +kernel) (by decide +kernel) 1 0 [] (by decide +kernel)
        rfl (by decide +kernel); ⟨t, hx⟩),
   (let ⟨t, hx, _⟩ := (((((h).2).2).2).2 4 0 ((sRed (round0 0x1000 [] opened0)).putF ⟨redBase, 16, 16⟩ 1) (red0 (round0 0x1000 [] opened0)) []
        (by decide +kernel)).1 (by decide +kernel); ⟨t, hx⟩),
   ⟨_, (((((h).2).2).2).2 4 0 ((sRed (round0 0x1000 [] opened0)).putF ⟨redBase, 16, 16⟩ 0) (red0 (round0 0x1000 [] opened0)) [] (by decide +kernel)).2 (by decide +kernel)⟩⟩

theorem met_ModuleResetsAndTrainingComplete (h : Obligations.ModuleResetsAndTrainingComplete) :
    (∃ t, exec (Instr.coldPowerOn 5 true) State.reset = .next t) ∧
    (∃ t, exec (Instr.modRstNAssert 5) State.reset = .next t) ∧
    (∃ t, exec (Instr.hbmTrainingComplete 3 true true 0) State.reset = .next t) :=
  ⟨(let ⟨t, hx, _⟩ := ((h).1 State.reset (by decide +kernel) (by decide +kernel)).1 5 true; ⟨t, hx⟩),
   (let ⟨t, hx, _⟩ := ((h).1 State.reset (by decide +kernel) (by decide +kernel)).2 5; ⟨t, hx⟩),
   (let ⟨t, hx, _⟩ := (h).2 3 true true 0 State.reset (by decide +kernel) (by decide +kernel); ⟨t, hx⟩)⟩

theorem met_PowerInputEventsComplete (h : Obligations.PowerInputEventsComplete) :
    (∃ t, exec .inputUndervoltageShutdown (sRails id) = .next t) ∧
    (∃ t, exec Instr.commandedPowerDown (sRails id) = .next t) ∧
    (∃ t, exec (Instr.inputLowBandEntry 7) (sRails id) = .next t) ∧
    (∃ t, exec (Instr.inputLowBandExit 7) case38 = .next t) ∧
    (∃ t, exec Instr.leakDetected (sRails id) = .next t) ∧
    (∃ t, exec Instr.railOutOfRegulation (sRails id) = .next t) ∧
    (∃ t, exec Instr.reversedFlowDetect (sRails id) = .next t) ∧
    (∃ t, exec Instr.fabRefclkLoss (sRails id) = .next t) ∧
    (∃ t, exec Instr.slowClockSwitchToRef (sRails id) = .next t) ∧
    (∃ t, exec Instr.slowClockSwitchToOsc (sRails (fun p => { p with slowRef := true })) = .next t) :=
  ⟨(let ⟨t, hx, _⟩ := (h (sRails id)).1 .inputUndervoltageShutdown 1 (by decide +kernel); ⟨t, hx⟩),
   (let ⟨t, hx, _⟩ := ((h (sRails id)).2).1; ⟨t, hx⟩),
   (let ⟨t, hx, _⟩ := (((h (sRails id)).2).2).1 7 (by decide +kernel); ⟨t, hx⟩),
   (let ⟨t, hx, _⟩ := ((((h case38).2).2).2).1 7 (by decide +kernel); ⟨t, hx⟩),
   (let ⟨t, hx, _⟩ := (((((h (sRails id)).2).2).2).2).1; ⟨t, hx⟩),
   (let ⟨t, hx, _⟩ := ((((((h (sRails id)).2).2).2).2).2).1 (by decide +kernel); ⟨t, hx⟩),
   (let ⟨t, hx, _⟩ := (((((((h (sRails id)).2).2).2).2).2).2).1; ⟨t, hx⟩),
   (let ⟨t, hx, _⟩ := ((((((((h (sRails id)).2).2).2).2).2).2).2).1; ⟨t, hx⟩),
   (let ⟨t, hx, _⟩ := (((((((((h (sRails id)).2).2).2).2).2).2).2).2).1 (by decide +kernel); ⟨t, hx⟩),
   (let ⟨t, hx, _⟩ := (((((((((h (sRails (fun p => { p with slowRef := true }))).2).2).2).2).2).2).2).2).2 (by decide +kernel); ⟨t, hx⟩)⟩

theorem met_PcieEventsComplete (h : Obligations.PcieEventsComplete) :
    (∃ t, exec Instr.perstNAssert State.reset = .next t) ∧
    (∃ t, exec Instr.pcieHotReset State.reset = .next t) ∧
    (∃ t, exec (Instr.perstNDeassert true) State.reset = .next t) ∧
    (∃ t, exec (Instr.flr 1) sVfs = .next t) ∧
    (∃ t, exec (Instr.flr 0) State.reset = .next t) ∧
    (∃ t, exec (Instr.numvfsWrite 3) State.reset = .next t) ∧
    (∃ t, exec (Instr.numvfsWrite 16) State.reset = .next t) ∧
    (∃ t, exec (Instr.configurationWrite 0 CfgWrite.priEnable) State.reset = .next t) ∧
    (∃ t, exec (Instr.configurationWrite 0 (CfgWrite.busMaster true)) State.reset = .next t) ∧
    (∃ t, exec (Instr.configurationWrite 0 (CfgWrite.barSize 30)) State.reset = .next t) ∧
    (∃ t, exec (Instr.pcieLinkStateChange false 5 4) State.reset = .next t) :=
  ⟨(let ⟨t, hx, _⟩ := (h State.reset).1; ⟨t, hx⟩),
   (let ⟨t, hx, _⟩ := ((h State.reset).2).1; ⟨t, hx⟩),
   (let ⟨t, hx, _⟩ := (((h State.reset).2).2).1 true; ⟨t, hx⟩),
   (let ⟨t, hx, _⟩ := ((((h sVfs).2).2).2).1 1 (by decide +kernel) (by decide +kernel); ⟨t, hx⟩),
   (let ⟨t, _, hx, _⟩ := (((((h State.reset).2).2).2).2).1; ⟨t, hx⟩),
   (let ⟨t, hx, _⟩ := (((((((h State.reset).2).2).2).2).2).1 3).1 (by decide +kernel); ⟨t, hx⟩),
   ⟨_, (((((((h State.reset).2).2).2).2).2).1 16).2 (by decide +kernel)⟩,
   (let ⟨t, hx, _⟩ := ((((((((h State.reset).2).2).2).2).2).2).1 0 (by decide +kernel)).1; ⟨t, hx⟩),
   (let ⟨t, hx, _⟩ := (((((((((h State.reset).2).2).2).2).2).2).1 0 (by decide +kernel)).2).1 true; ⟨t, hx⟩),
   (let ⟨t, hx, _⟩ := (((((((((h State.reset).2).2).2).2).2).2).1 0 (by decide +kernel)).2).2 30 (by decide +kernel) (by decide +kernel);
        ⟨t, hx⟩),
   (let ⟨t, hx, _⟩ := (((((((h State.reset).2).2).2).2).2).2).2 false 5 4 (by decide +kernel); ⟨t, hx⟩)⟩

theorem met_MeshOperationsComplete (h : Obligations.MeshOperationsComplete) :
    (∃ t, exec (Instr.meshFlitForward ⟨0, 1, 0⟩ .east false) sMesh = .next t) ∧
    (∃ t, exec (Instr.meshCreditReturn ⟨0, 1, 0⟩ .east .req) sMesh = .next t) ∧
    (∃ t, exec (Instr.gatewayAccept (.junction 0 0) pkIn) sMesh = .next t) ∧
    (∃ t, exec (Instr.cellDownConsume 5 pk) sDead = .next t) ∧
    (∃ t, exec (Instr.mcastReplicationEntry ⟨0, 1, 0⟩ .cell) sMesh = .next t) ∧
    (∃ t, exec (Instr.mcastReplicationEntry ⟨0, 1, 0⟩ .cell) case39 = .next t) ∧
    (∃ t, exec (Instr.mcastBranchTake ⟨0, 1, 0⟩ .east) (sRepl [⟨pm, [.east, .cell]⟩] 0) = .next t) ∧
    (∃ t, exec (Instr.mcastBranchTake ⟨0, 1, 0⟩ .east) (sRepl [⟨pm, [.east, .cell]⟩] 8) = .next t) :=
  ⟨(let ⟨t, hx, _⟩ := (h sMesh).1 ⟨0, 1, 0⟩ .east false 0 4 _ ⟨pk, false⟩ [⟨pk, true⟩] rfl (by decide +kernel) (by decide +kernel) (by decide +kernel);
        ⟨t, hx⟩),
   (let ⟨t, hx, _⟩ := ((h sMesh).2).1 ⟨0, 1, 0⟩ .east .req _ rfl (by decide +kernel); ⟨t, hx⟩),
   (let ⟨t, hx, _⟩ := (((h sMesh).2).2).1 (.junction 0 0) pkIn _ rfl (by decide +kernel) (by decide +kernel) (by decide +kernel) (by decide +kernel)
        (by decide +kernel); ⟨t, hx⟩),
   (let ⟨t, hx, _⟩ := ((((h sDead).2).2).2).1 5 pk (by decide +kernel) (by decide +kernel); ⟨t, hx⟩),
   (let ⟨t, hx, _⟩ := ((((((h sMesh).2).2).2).2).1 ⟨0, 1, 0⟩ .cell pm (by decide +kernel)).1 (by decide +kernel) (by decide +kernel); ⟨t, hx⟩),
   ⟨_, ((((((h case39).2).2).2).2).1 ⟨0, 1, 0⟩ .cell pm (by decide +kernel)).2 (by decide +kernel)⟩,
   (let ⟨t, hx, _⟩ := ((((((h (sRepl [⟨pm, [.east, .cell]⟩] 0)).2).2).2).2).2 ⟨0, 1, 0⟩ .east pm ([⟨pm, [.cell]⟩]) (by decide +kernel)).1 (by decide +kernel);
        ⟨t, hx⟩),
   ⟨_, ((((((h (sRepl [⟨pm, [.east, .cell]⟩] 8)).2).2).2).2).2 ⟨0, 1, 0⟩ .east pm ([⟨pm, [.cell]⟩]) (by decide +kernel)).2 (by decide +kernel)⟩⟩

theorem met_CellarEnginesComplete (h : Obligations.CellarEnginesComplete) :
    (∃ t, exec (Instr.cellarChunk 0) (sCe .pass1 false ceTlb) = .next t) ∧
    (∃ t, exec (Instr.cellarChunk 0) (sCe .pass1 false []) = .next t) ∧
    (∃ t, exec (Instr.cellarStatsRoundDone 0) (sCe .stats true ceTlb) = .next t) :=
  ⟨(let ⟨t, hx, _⟩ := ((h 0 (sCe .pass1 false ceTlb) (sCe .pass1 false ceTlb) 0 _ (ujob false) rfl).1 (by decide +kernel) (by decide +kernel)
        (by decide +kernel)).1 ((sCe .pass1 false ceTlb).phase1 0 0 0 (.chunk 0) ((sCe .pass1 false ceTlb).chunkAreas 0 (ujob false)) |>.1)
        (((sCe .pass1 false ceTlb).phase1 0 0 0 (.chunk 0) ((sCe .pass1 false ceTlb).chunkAreas 0 (ujob false))).1.readAreas 0 0 0 ((sCe
        .pass1 false ceTlb).chunkAreas 0 (ujob false)) |>.1) [List.replicate 256 0] (by decide +kernel) (by decide +kernel) (by decide +kernel)
        (by decide +kernel) (by decide +kernel) ((0, 1)) _ _ rfl rfl (by decide +kernel); ⟨t, hx⟩),
   (let ⟨t, hx, _⟩ := ((h 0 (sCe .pass1 false []) (sCe .pass1 false []) 0 _ (ujob false) rfl).1 (by decide +kernel) (by decide +kernel) (by decide +kernel)).2
        ((sCe .pass1 false []).phase1 0 0 0 (.chunk 0) ((sCe .pass1 false []).chunkAreas 0 (ujob false)) |>.1) 0 (by decide +kernel) (by decide +kernel);
        ⟨t, hx⟩),
   (let ⟨t, hx, _⟩ := ((h 0 (sCe .stats true ceTlb) (sCe .stats true ceTlb) 0 _ (ujob true) rfl).2).1 (by decide +kernel) (by decide +kernel)
        (by decide +kernel) (by decide +kernel) (by decide +kernel) (by decide +kernel) ((sCe .stats true ceTlb).phase1 0 0 0 (.chunk 0)
        [⟨0x2000, 4, false, false⟩] |>.1) _ _ (by decide +kernel) rfl (by decide +kernel) rfl; ⟨t, hx⟩)⟩

theorem met_RingsAndDoorbells (h : Obligations.RingsAndDoorbells) :
    (∃ t, exec (Instr.sqDoorbell 0 3 5) (sRing 1) = .next t) ∧
    (∃ t, exec (Instr.sqDoorbell 0 3 0x8010) (sRing 1) = .next t) ∧
    (∃ t, exec (Instr.cqDoorbell 0 3 0x10005) (sRing 2) = .next t) ∧
    (∃ t, exec (Instr.commandFetch 3 (some 7)) (sRingMod 1 4) = .next t) ∧
    (∃ t, exec (Instr.commandFetch 3 none) (sRingMod 1 4) = .next t) ∧
    (∃ t, exec (Instr.ringEnable 0 3 0x26) State.reset = .next t) ∧
    (∃ t, exec (Instr.ringDisable 0 3 1) (sRing 1) = .next t) ∧
    (∃ t, exec (Instr.ringDisable 0 0 2) ((((((sRing 1).putF (ringKind 0) 2).putB (ringEn 0) true)))) = .next t) :=
  ⟨(let ⟨t, hx, _⟩ := ((h 0 3 (sRing 1)).1 5 _ (by decide +kernel) rfl).1 (by decide +kernel) (by decide +kernel) (by decide +kernel); ⟨t, hx⟩),
   (let ⟨t, hx, _⟩ := (((h 0 3 (sRing 1)).1 0x8010 _ (by decide +kernel) rfl).2).1 (by decide +kernel) (by decide +kernel); ⟨t, hx⟩),
   (let ⟨t, hx, _⟩ := (((h 0 3 (sRing 2)).1 0x10005 _ (by decide +kernel) rfl).2).2 (by decide +kernel) (by decide +kernel); ⟨t, hx⟩),
   (let ⟨t, hx, _⟩ := (((h 0 3 (sRingMod 1 4)).2).1 (by decide +kernel) (by decide +kernel) (by decide +kernel) (by decide +kernel)).1 7;
        ⟨t, hx⟩),
   (let ⟨t, hx, _⟩ := (((h 0 3 (sRingMod 1 4)).2).1 (by decide +kernel) (by decide +kernel) (by decide +kernel) (by decide +kernel)).2;
        ⟨t, hx⟩),
   (let ⟨t, hx, _⟩ := (((h 0 3 State.reset).2).2).1 0x26 (by decide +kernel) (by decide +kernel) (by decide +kernel); ⟨t, hx⟩),
   (let ⟨t, hx, _⟩ := ((((h 0 3 (sRing 1)).2).2).2 1 (by decide +kernel) (by decide +kernel) (by decide +kernel)).1 (by decide +kernel);
        ⟨t, hx⟩),
   ⟨_, ((((h 0 0 ((((((sRing 1).putF (ringKind 0) 2).putB (ringEn 0) true))))).2).2).2 2 (by decide +kernel) (by decide +kernel) (by decide +kernel)).2 (by decide +kernel)⟩⟩

theorem met_RecordsWindowsAndVectors (h : Obligations.RecordsWindowsAndVectors) :
    (∃ t, exec (Instr.completionRecordWrite 3) sWait = .next t) ∧
    (∃ t, exec (Instr.eventRecordWrite 0) sEvent = .next t) ∧
    (∃ t, exec (Instr.fnPop 0) (sRing 3) = .next t) ∧
    (∃ t, exec (Instr.fnPop 0) sPop = .next t) ∧
    (∃ t, exec (Instr.bar4Read 0 0x40 8) sWin = .next t) ∧
    (∃ t, exec (Instr.bar4Write 0 0x40 [1, 2]) sWin = .next t) ∧
    (∃ t, exec (Instr.bar4Write 0 0x40 [1, 2]) sMem = .next t) ∧
    (∃ t, exec (Instr.bar4HoldExpiry 0 held0.id) sHeld = .next t) ∧
    (∃ t, exec (Instr.msixModerationExpiry 5) (sVec true true) = .next t) ∧
    (∃ t, exec (Instr.msixUnmask 5) (sVec true false) = .next t) :=
  ⟨(let ⟨t, hx, _⟩ := (h sWait).1 3 (toLE 16 5) [] _ (by decide +kernel) (by decide +kernel) rfl (by decide +kernel) (by decide +kernel) (by decide +kernel)
        (by decide +kernel); ⟨t, hx⟩),
   (let ⟨t, hx, _⟩ := ((h sEvent).2).1 0 (toLE 64 5) [] 3 (by decide +kernel) (by decide +kernel) (by decide +kernel) (by decide +kernel) (by decide +kernel)
        (by decide +kernel) (by decide +kernel) (by decide +kernel) (by decide +kernel); ⟨t, hx⟩),
   (let ⟨t, hx, _⟩ := ((((h (sRing 3)).2).2).1 0 (by decide +kernel)).1 (by decide +kernel); ⟨t, hx⟩),
   (let ⟨t, _, hx, _⟩ := ((((h sPop).2).2).1 0 (by decide +kernel)).2 (toLE 64 (5 + 6 * 2 ^ 32)) [] _ (by decide +kernel) (by decide +kernel)
        rfl; ⟨t, hx⟩),
   (let ⟨t, hx, _⟩ := (((((h sWin).2).2).2).1 0 0x40 (by decide +kernel)).1 8 (barSt (sWin.barTry 0 (sWin.winVa 0 0x40) none 8)) (barBs
        (sWin.barTry 0 (sWin.winVa 0 0x40) none 8)) false (by decide +kernel) (by decide +kernel) (by decide +kernel); ⟨t, hx⟩),
   ⟨_, ((((((h sWin).2).2).2).1 0 0x40 (by decide +kernel)).2).1 [1, 2] (sWin.physWrite 0 noCore (sWin.winVa 0 0x40) [1, 2]) [] false (by decide +kernel) (by decide +kernel) (by decide +kernel)⟩,
   (let ⟨t, hx, _⟩ := ((((((h sMem).2).2).2).1 0 0x40 (by decide +kernel)).2).2 [1, 2] (by decide +kernel) (by decide +kernel) (by decide +kernel);
        ⟨t, hx⟩),
   (let ⟨t, hx, _⟩ := (((((h sHeld).2).2).2).2).1 0 held0 (by decide +kernel); ⟨t, hx⟩),
   (let ⟨t, hx, _⟩ := ((((((h (sVec true true)).2).2).2).2).2).1 5 (by decide +kernel) (by decide +kernel) (by decide +kernel); ⟨t, hx⟩),
   (let ⟨t, hx, _⟩ := ((((((h (sVec true false)).2).2).2).2).2).2 5 (by decide +kernel) (by decide +kernel); ⟨t, hx⟩)⟩

theorem met_KernelCommandsComplete (h : Obligations.KernelCommandsComplete) :
    (∃ t, exec (Instr.ringNop (.ring 0) (cmd [])) (sCmd []) = .next t) ∧
    (∃ t, exec (Instr.ringNop (.ring 0) (cmd [(0, 0x7F)])) (sCmd [(0, 0x7F)]) = .next t) ∧
    (∃ t, exec (Instr.launch (.ring 0) (cmd cLaunch)) (sLaunch []) = .next t) ∧
    (∃ t, exec (Instr.launch (.ring 0) (cmd cLaunch)) (sLaunch launchRec) = .next t) ∧
    (∃ t, exec (Instr.kernelStart 0) (sKern .waiting) = .next t) ∧
    (∃ t, exec (Instr.kernelComplete 0) (sKernOver 0) = .next t) ∧
    (∃ t, exec (Instr.kernelComplete 0) (sKernOver 4) = .next t) ∧
    (∃ t, exec (Instr.kstopPreempt (.ring 0) (cmd (cStop 0))) (sStopCmd .waiting (cStop 0)) = .next t) ∧
    (∃ t, exec (Instr.kstopPreempt (.ring 0) (cmd (cStop 0))) (sStopCmd .running (cStop 0)) = .next t) ∧
    (∃ t, exec (Instr.kstopEnd (.ring 0) (cmd (cStop 1))) (sStopCmd .running (cStop 1)) = .next t) ∧
    (∃ t, exec (Instr.kresume (.ring 0) (cmd [(0, 3)])) (sStopCmd .preemptedUnstarted [(0, 3)]) = .next t) ∧
    (∃ t, exec (Instr.kresume (.ring 0) (cmd [(0, 3)])) (sStopCmd .preempted [(0, 3)]) = .next t) :=
  ⟨(let ⟨t, hx, _⟩ := (h (.ring 0) (cmd []) (sCmd [])).1 (by decide +kernel); ⟨t, hx⟩),
   (let ⟨t, hx, _⟩ := ((h (.ring 0) (cmd [(0, 0x7F)]) (sCmd [(0, 0x7F)])).2).1 (by decide +kernel) (by decide +kernel); ⟨t, hx⟩),
   (let ⟨t, hx, _⟩ := ((((h (.ring 0) (cmd cLaunch) (sLaunch [])).2).2).1 (by decide +kernel) (by decide +kernel) (by decide +kernel) (recSt
        ((sLaunch []).cmdRead (.ring 0) (cmd cLaunch) 0x1000 128)) (recBs ((sLaunch []).cmdRead (.ring 0) (cmd cLaunch) 0x1000 128)) (by decide +kernel)).1
        (by decide +kernel); ⟨t, hx⟩),
   (let ⟨t, hx, _⟩ := ((((h (.ring 0) (cmd cLaunch) (sLaunch launchRec)).2).2).1 (by decide +kernel) (by decide +kernel) (by decide +kernel)
        (recSt ((sLaunch launchRec).cmdRead (.ring 0) (cmd cLaunch) 0x1000 128)) (recBs ((sLaunch launchRec).cmdRead (.ring 0) (cmd cLaunch)
        0x1000 128)) (by decide +kernel)).2 (by decide +kernel) (by decide +kernel); ⟨t, hx⟩),
   (let ⟨t, hx, _⟩ := (((((h (.ring 0) 0 (sKern .waiting)).2).2).2).1 0 (kernR .waiting) (by decide +kernel)).1 (by decide +kernel) (by decide +kernel)
        _ _ [] [] rfl (by decide +kernel) rfl (by decide +kernel); ⟨t, hx⟩),
   (let ⟨t, hx, _⟩ := ((((((h (.ring 0) 0 (sKernOver 0)).2).2).2).1 0 (kernR .running) (by decide +kernel)).2 (by decide +kernel) (by decide +kernel)
        (by decide +kernel) (by decide +kernel)).1 (endedMcs (sKernOver 0)) (by decide +kernel) (by decide +kernel) (by decide +kernel) (by decide +kernel);
        ⟨t, hx⟩),
   (let ⟨t, hx, _⟩ := ((((((h (.ring 0) 0 (sKernOver 4)).2).2).2).1 0 (kernR .running) (by decide +kernel)).2 (by decide +kernel) (by decide +kernel)
        (by decide +kernel) (by decide +kernel)).2 0 (endedMcs (sKernOver 4)) (by decide +kernel) (by decide +kernel); ⟨t, hx⟩),
   (let ⟨t, hx, _⟩ := ((((((h (.ring 0) (cmd (cStop 0)) (sStopCmd .waiting (cStop 0))).2).2).2).2 (kernR .waiting) _ rfl (by decide +kernel)).1
        (by decide +kernel)).1 (by decide +kernel) (by decide +kernel); ⟨t, hx⟩),
   (let ⟨t, hx, _⟩ := (((((((h (.ring 0) (cmd (cStop 0)) (sStopCmd .running (cStop 0))).2).2).2).2 (kernR .running) _ rfl (by decide +kernel)).1
        (by decide +kernel)).2).1 (by decide +kernel) (by decide +kernel); ⟨t, hx⟩),
   (let ⟨t, _, _, hx, _⟩ := (((((((h (.ring 0) (cmd (cStop 1)) (sStopCmd .running (cStop 1))).2).2).2).2 (kernR .running) _ rfl (by decide +kernel)).1
        (by decide +kernel)).2).2 (by decide +kernel); ⟨t, hx⟩),
   (let ⟨t, hx, _⟩ := ((((((h (.ring 0) (cmd [(0, 3)]) (sStopCmd .preemptedUnstarted [(0, 3)])).2).2).2).2 (kernR .preemptedUnstarted) _ rfl
        (by decide +kernel)).2 (by decide +kernel) (by decide +kernel)).1 (by decide +kernel); ⟨t, hx⟩),
   (let ⟨t, hx, _⟩ := ((((((h (.ring 0) (cmd [(0, 3)]) (sStopCmd .preempted [(0, 3)])).2).2).2).2 (kernR .preempted) _ rfl (by decide +kernel)).2
        (by decide +kernel) (by decide +kernel)).2 (by decide +kernel) (by decide +kernel) (by decide +kernel); ⟨t, hx⟩)⟩

theorem met_CopyBarrierReductionUpdateCommands (h : Obligations.CopyBarrierReductionUpdateCommands) :
    (∃ t, exec (Instr.copy (.ring 0) (cmd cCopy)) (sCmd cCopy) = .next t) ∧
    (∃ t, exec (Instr.fmcast (.ring 0) (cmd cFm)) (sCmd cFm) = .next t) ∧
    (∃ t, exec (Instr.barcfg (.ring 0) (cmd cBar)) (sBarOff sBar) = .next t) ∧
    (∃ t, exec (Instr.barcfg (.ring 0) (cmd cBar)) sBarBusy = .next t) ∧
    (∃ t, exec (Instr.barcfg (.ring 0) (cmd cBar)) sBarNew = .next t) ∧
    (∃ t, exec (Instr.redjob (.ring 0) (cmd cRed)) sRedNew = .next t) ∧
    (∃ t, exec (Instr.updjob (.ring 0) (cmd cUpd)) sUpdBad = .next t) ∧
    (∃ t, exec (Instr.updjob (.ring 0) (cmd cUpd)) sUpd = .next t) ∧
    (∃ t, exec (Instr.redctlClose (.ring 0) (cmd (cClose 0))) (sCloseRed 0) = .next t) ∧
    (∃ t, exec (Instr.redctlUnconfigure (.ring 0) (cmd (cClose 1))) (sCloseRed 1) = .next t) ∧
    (∃ t, exec (Instr.updstop (.ring 0) (cmd (cUstop 1))) (sUstop false) = .next t) ∧
    (∃ t, exec (Instr.updstop (.ring 0) (cmd (cUstop 0))) (sUstop true) = .next t) :=
  ⟨(let ⟨t, hx, _⟩ := ((h (.ring 0) (cmd cCopy) (sCmd cCopy) 0 (by decide +kernel)).1 (by decide +kernel)).1 (by decide +kernel) (by decide +kernel)
        (by decide +kernel) (by decide +kernel) 0 (recSt ((sCmd cCopy).cmdRead (.ring 0) (cmd cCopy) 0x1000 64)) (recBs ((sCmd
        cCopy).cmdRead (.ring 0) (cmd cCopy) 0x1000 64)) _ (by decide +kernel) (by decide +kernel) rfl; ⟨t, hx⟩),
   (let ⟨t, hx, _⟩ := (((h (.ring 0) (cmd cFm) (sCmd cFm) 0 (by decide +kernel)).1 (by decide +kernel)).2).1 (by decide +kernel) (by decide +kernel)
        0 (recSt ((sCmd cFm).cmdRead (.ring 0) (cmd cFm) 0x1000 2)) (recBs ((sCmd cFm).cmdRead (.ring 0) (cmd cFm) 0x1000 2)) (by decide +kernel)
        (by decide +kernel); ⟨t, hx⟩),
   (let ⟨t, hx, _⟩ := (((((h (.ring 0) (cmd cBar) (sBarOff sBar) 0 (by decide +kernel)).1 (by decide +kernel)).2).2).1 (by decide +kernel)
        (recSt ((sBarOff sBar).cmdRead (.ring 0) (cmd cBar) 0x1000 64)) (recBs ((sBarOff sBar).cmdRead (.ring 0) (cmd cBar) 0x1000 64)) _
        (by decide +kernel) rfl (by decide +kernel) (by decide +kernel) (by decide +kernel)).1 (by decide +kernel) (by decide +kernel);
        ⟨t, hx⟩),
   (let ⟨t, hx, _⟩ := ((((((h (.ring 0) (cmd cBar) sBarBusy 0 (by decide +kernel)).1 (by decide +kernel)).2).2).1 (by decide +kernel) (recSt
        (sBarBusy.cmdRead (.ring 0) (cmd cBar) 0x1000 64)) (recBs (sBarBusy.cmdRead (.ring 0) (cmd cBar) 0x1000 64)) _ (by decide +kernel)
        rfl (by decide +kernel) (by decide +kernel) (by decide +kernel)).2).1 (by decide +kernel) (by decide +kernel); ⟨t, hx⟩),
   (let ⟨t, hx, _⟩ := ((((((h (.ring 0) (cmd cBar) sBarNew 0 (by decide +kernel)).1 (by decide +kernel)).2).2).1 (by decide +kernel) (recSt
        (sBarNew.cmdRead (.ring 0) (cmd cBar) 0x1000 64)) (recBs (sBarNew.cmdRead (.ring 0) (cmd cBar) 0x1000 64)) _ (by decide +kernel) rfl
        (by decide +kernel) (by decide +kernel) (by decide +kernel)).2).2 (recSt ((recSt (sBarNew.cmdRead (.ring 0) (cmd cBar) 0x1000
        64)).cmdRead (.ring 0) (cmd cBar) 0x2000 300)) (toLE 300 1) _ (by decide +kernel) (by decide +kernel) rfl (by decide +kernel) (by decide +kernel)
        (by decide +kernel) (by decide +kernel) (by decide +kernel); ⟨t, hx⟩),
   (let ⟨t, hx, _⟩ := (((((h (.ring 0) (cmd cRed) sRedNew 0 (by decide +kernel)).1 (by decide +kernel)).2).2).2).1 (by decide +kernel) (recSt
        (sRedNew.cmdRead (.ring 0) (cmd cRed) 0x1000 64)) (recSt ((recSt (sRedNew.cmdRead (.ring 0) (cmd cRed) 0x1000 64)).cmdRead (.ring 0)
        (cmd cRed) 0x3000 16)) (recBs (sRedNew.cmdRead (.ring 0) (cmd cRed) 0x1000 64)) (toLE 16 0x5000) _ (by decide +kernel) rfl (by decide +kernel)
        (by decide +kernel) (by decide +kernel) (by decide +kernel) (by decide +kernel) (by decide +kernel) (by decide +kernel); ⟨t, hx⟩),
   (let ⟨t, hx, _⟩ := ((((((h (.ring 0) (cmd cUpd) sUpdBad 0 (by decide +kernel)).1 (by decide +kernel)).2).2).2).2 (by decide +kernel) (recSt
        (sUpdBad.cmdRead (.ring 0) (cmd cUpd) 0x1000 64)) sUpdBad sUpdBad (recBs (sUpdBad.cmdRead (.ring 0) (cmd cUpd) 0x1000 64)) [] [] _
        (by decide +kernel) rfl).1 (by decide +kernel) _ rfl; ⟨t, hx⟩),
   (let ⟨t, hx, _⟩ := ((((((h (.ring 0) (cmd cUpd) sUpd 0 (by decide +kernel)).1 (by decide +kernel)).2).2).2).2 (by decide +kernel) (recSt
        (sUpd.cmdRead (.ring 0) (cmd cUpd) 0x1000 64)) (recSt ((recSt (sUpd.cmdRead (.ring 0) (cmd cUpd) 0x1000 64)).cmdRead (.ring 0) (cmd
        cUpd) 0x2000 128)) (recSt ((recSt ((recSt (sUpd.cmdRead (.ring 0) (cmd cUpd) 0x1000 64)).cmdRead (.ring 0) (cmd cUpd) 0x2000
        128)).cmdRead (.ring 0) (cmd cUpd) 0x2800 32)) (recBs (sUpd.cmdRead (.ring 0) (cmd cUpd) 0x1000 64)) (toLE 128 (recNat
        [(3, 0xB), (8, 1), (0xC, 128), (0x10, 1), (0x28, 0x8000)])) (List.replicate 32 0) _ (by decide +kernel) rfl).2 (by decide +kernel)
        (by decide +kernel) (by decide +kernel) (by decide +kernel) (by decide +kernel) _ _ rfl rfl (by decide +kernel) (by decide +kernel)
        (by decide +kernel); ⟨t, hx⟩),
   (let ⟨t, hx, _⟩ := (((h (.ring 0) (cmd (cClose 0)) (sCloseRed 0) 0 (by decide +kernel)).2).1 (red0 (round0 0 [] opened0)) (by decide +kernel)
        (by decide +kernel) (by decide +kernel)).1 (round0 0 [] opened0) (by decide +kernel) (by decide +kernel) (by decide +kernel);
        ⟨t, hx⟩),
   (let ⟨t, hx, _⟩ := (((h (.ring 0) (cmd (cClose 1)) (sCloseRed 1) 0 (by decide +kernel)).2).1 (red0 (round0 0 [] opened0)) (by decide +kernel)
        (by decide +kernel) (by decide +kernel)).2 (by decide +kernel); ⟨t, hx⟩),
   (let ⟨t, hx, _⟩ := (((h (.ring 0) (cmd (cUstop 1)) (sUstop false) 0 (by decide +kernel)).2).2 (by decide +kernel) ⟨.ring 1, cJob7, false⟩
        (by decide +kernel)).1 (by decide +kernel); ⟨t, hx⟩),
   (let ⟨t, hx, _⟩ := (((h (.ring 0) (cmd (cUstop 0)) (sUstop true) 0 (by decide +kernel)).2).2 (by decide +kernel) ⟨.ring 0, cJob7, true⟩ (by decide +kernel)).2
        ({ ujob false with cmd := cJob7 }) (by decide +kernel) (by decide +kernel); ⟨t, hx⟩)⟩

theorem met_FaultInvalidationFabricCommands (h : Obligations.FaultInvalidationFabricCommands) :
    (∃ t, exec (Instr.fltresRetry (.ring 0) (cmd (cFlt 1 0))) (sFlt (cFlt 1 0)) = .next t) ∧
    (∃ t, exec (Instr.fltresAbort (.ring 0) (cmd (cFlt 1 1))) (sFlt (cFlt 1 1)) = .next t) ∧
    (∃ t, exec (Instr.fltresRetry (.ring 0) (cmd (cFlt 9 0))) (sFlt (cFlt 9 0)) = .next t) ∧
    (∃ t, exec (Instr.inval (.ring 0) (cmd (cInv 2 0))) (sCmd (cInv 2 0)) = .next t) ∧
    (∃ t, exec (Instr.inval (.ring 0) (cmd (cInv 2 5))) (sCmd (cInv 2 5)) = .next t) ∧
    (∃ t, exec (Instr.fabcfg (.ring 0) (cmd cFab)) (sFabCmd cFab) = .next t) ∧
    (∃ t, exec (Instr.portctlUnquarantine (.ring 0) (cmd (cPort 0 0))) (sPortCmd 7 0) = .next t) ∧
    (∃ t, exec (Instr.portctlRetrain (.ring 0) (cmd (cPort 0 1))) (sPortCmd 5 1) = .next t) :=
  ⟨(let ⟨t, hx, _⟩ := (((h (.ring 0) (cmd (cFlt 1 0)) (sFlt (cFlt 1 0)) 0 (by decide +kernel)).1 (by decide +kernel)).1 (frec clsNotPresent none)
        (by decide +kernel) (by decide +kernel) (by decide +kernel)).1 (by decide +kernel); ⟨t, hx⟩),
   (let ⟨t, hx, _⟩ := (((h (.ring 0) (cmd (cFlt 1 1)) (sFlt (cFlt 1 1)) 0 (by decide +kernel)).1 (by decide +kernel)).1 (frec clsNotPresent none)
        (by decide +kernel) (by decide +kernel) (by decide +kernel)).2 (by decide +kernel); ⟨t, hx⟩),
   (let ⟨t, _, hx, _⟩ := ((h (.ring 0) (cmd (cFlt 9 0)) (sFlt (cFlt 9 0)) 0 (by decide +kernel)).1 (by decide +kernel)).2 (by decide +kernel)
        (by decide +kernel); ⟨t, hx⟩),
   (let ⟨t, hx, _⟩ := (((h (.ring 0) (cmd (cInv 2 0)) (sCmd (cInv 2 0)) 0 (by decide +kernel)).2).1 (by decide +kernel) (by decide +kernel) (by decide +kernel)
        (by decide +kernel) (by decide +kernel)).1 (by decide +kernel) (by decide +kernel); ⟨t, hx⟩),
   (let ⟨t, _, hx, _⟩ := (((h (.ring 0) (cmd (cInv 2 5)) (sCmd (cInv 2 5)) 0 (by decide +kernel)).2).1 (by decide +kernel) (by decide +kernel)
        (by decide +kernel) (by decide +kernel) (by decide +kernel)).2 (by decide +kernel); ⟨t, hx⟩),
   (let ⟨t, hx, _⟩ := (((h (.ring 0) (cmd cFab) (sFabCmd cFab) 0 (by decide +kernel)).2).2).1 (by decide +kernel) (by decide +kernel) (by decide +kernel)
        (by decide +kernel) (by decide +kernel) (by decide +kernel) (by decide +kernel) (by decide +kernel) (recSt ((sFabCmd cFab).cmdRead
        (.ring 0) (cmd cFab) 0x1000 32)) (recBs ((sFabCmd cFab).cmdRead (.ring 0) (cmd cFab) 0x1000 32)) (by decide +kernel); ⟨t, hx⟩),
   (let ⟨t, _, _, hx, _⟩ := ((((h (.ring 0) (cmd (cPort 0 0)) (sPortCmd 7 0) 0 (by decide +kernel)).2).2).2 0 (by decide +kernel) (by decide +kernel)
        (by decide +kernel) (by decide +kernel)).1 (by decide +kernel) (by decide +kernel); ⟨t, hx⟩),
   (let ⟨t, _, hx, _⟩ := ((((h (.ring 0) (cmd (cPort 0 1)) (sPortCmd 5 1) 0 (by decide +kernel)).2).2).2 0 (by decide +kernel) (by decide +kernel)
        (by decide +kernel) (by decide +kernel)).2 (by decide +kernel) (by decide +kernel); ⟨t, hx⟩)⟩

theorem met_PantryAndQueryComplete (h : Obligations.PantryAndQueryComplete) :
    (∃ t, exec (Instr.pantryConfig (.ring 0) (cmd (cPan 0 [(0x10, 0x1000)]))) sPanNew = .next t) ∧
    (∃ t, exec (Instr.pantryReset (.ring 0) (cmd (cPan 1 []))) (sPan pan0 (cPan 1 [])) = .next t) ∧
    (∃ t, exec (Instr.pantryIntake (.ring 0) (cmd (cPan 2 [(0xC, 1), (0x10, 0x50000)]))) (sPan pan0 (cPan 2 [(0xC, 1), (0x10, 0x50000)])) =
      .next t) ∧
    (∃ t, exec (Instr.pantryFeed (.ring 0) (cmd (cPan 4 [(0xC, 1), (0x18, 0x50000)]))) (sPan pan0 (cPan 4 [(0xC, 1), (0x18, 0x50000)])) = .next
      t) ∧
    (∃ t, exec (Instr.pantryUnconfig (.ring 0) (cmd (cPan 7 []))) (sPan pan0 (cPan 7 [])) = .next t) ∧
    (∃ t, exec (Instr.pantrySelect (.ring 0) (cmd cSelect)) (sPan panAsk cSelect) = .next t) ∧
    (∃ t, exec (Instr.pantryTicketTake 0 ⟨0, hi⟩) (withPan sMem pan0) = .next t) ∧
    (∃ t, exec (Instr.intakeSkip 0 ⟨0, hi⟩) (withPan sMem pan0) = .next t) ∧
    (∃ t, exec (Instr.pantryPublish (.ring 0) (cmd (cPan 5 [(0x10, 0x1000)]))) sPub = .next t) ∧
    (∃ t, exec (Instr.pantryQuery (.ring 0) (cmd cQry)) (sQryCmd 1 none) = .next t) ∧
    (∃ t, exec (Instr.pantryQuery (.ring 0) (cmd cQry)) (sQryCmd 0 (some qryBatch)) = .next t) ∧
    (∃ t, exec (Instr.queryBatchTimeout 0 0) (sQry qryBatch) = .next t) ∧
    (∃ t, exec (Instr.queryDoneTimeout 0 0) (sQry qryOut) = .next t) ∧
    (∃ t, exec (Instr.queryDoneRead 0 0) (sQry qryOut) = .next t) :=
  ⟨(let ⟨t, _, hx, _⟩ := (h (.ring 0) (cmd (cPan 0 [(0x10, 0x1000)])) 0 sPanNew 0).1 (recSt (sPanNew.cmdRead (.ring 0) (cmd (cPan 0
        [(0x10, 0x1000)])) 0x1000 64)) (recBs (sPanNew.cmdRead (.ring 0) (cmd (cPan 0 [(0x10, 0x1000)])) 0x1000 64)) pan0 (svcSt ((recSt
        (sPanNew.cmdRead (.ring 0) (cmd (cPan 0 [(0x10, 0x1000)])) 0x1000 64)).pantryClear 0 0 pan0)) (by decide +kernel) (by decide +kernel)
        (by decide +kernel) (by decide +kernel) (by decide +kernel) (by decide +kernel) (by decide +kernel) (by decide +kernel); ⟨t, hx⟩),
   (let ⟨t, _, hx, _⟩ := (((h (.ring 0) (cmd (cPan 1 [])) 0 (sPan pan0 (cPan 1 [])) 0).2).1 pan0 (by decide +kernel) (by decide +kernel)).1 (by decide +kernel);
        ⟨t, hx⟩),
   (let ⟨t, _, hx, _⟩ := ((((h (.ring 0) (cmd (cPan 2 [(0xC, 1), (0x10, 0x50000)])) 0 (sPan pan0 (cPan 2 [(0xC, 1), (0x10, 0x50000)])) 0).2).1 pan0
        (by decide +kernel) (by decide +kernel)).2).1 (by decide +kernel) (by decide +kernel); ⟨t, hx⟩),
   (let ⟨t, _, hx, _⟩ := (((((h (.ring 0) (cmd (cPan 4 [(0xC, 1), (0x18, 0x50000)])) 0 (sPan pan0 (cPan 4 [(0xC, 1), (0x18, 0x50000)])) 0).2).1 pan0
        (by decide +kernel) (by decide +kernel)).2).2).1 (by decide +kernel) (by decide +kernel) (by decide +kernel) (by decide +kernel);
        ⟨t, hx⟩),
   (let ⟨t, _, hx, _⟩ := ((((((h (.ring 0) (cmd (cPan 7 [])) 0 (sPan pan0 (cPan 7 [])) 0).2).1 pan0 (by decide +kernel) (by decide +kernel)).2).2).2).1
        (by decide +kernel); ⟨t, hx⟩),
   (let ⟨t, _, hx, _⟩ := (((((((h (.ring 0) (cmd cSelect) 0 (sPan panAsk cSelect) 0).2).1 panAsk (by decide +kernel) (by decide +kernel)).2).2).2).2).1
        7 0 (recSt ((sPan panAsk cSelect).cmdRead (.ring 0) (cmd cSelect) 0x1000 4)) (recBs ((sPan panAsk cSelect).cmdRead (.ring 0) (cmd
        cSelect) 0x1000 4)) (by decide +kernel) (by decide +kernel) (by decide +kernel) (by decide +kernel) (by decide +kernel) (by decide +kernel);
        ⟨t, hx⟩),
   (let ⟨t, hx, _⟩ := ((((((((h (.ring 0) 0 0 (withPan sMem pan0) 0).2).1 pan0 (by decide +kernel) (by decide +kernel)).2).2).2).2).2 (by decide +kernel)).1
        (by decide +kernel) ((withPan sMem pan0).svcKick 0) (by decide +kernel) (by decide +kernel); ⟨t, hx⟩),
   (let ⟨t, hx, _⟩ := ((((((((h (.ring 0) 0 0 (withPan sMem pan0) 0).2).1 pan0 (by decide +kernel) (by decide +kernel)).2).2).2).2).2 (by decide +kernel)).2
        (by decide +kernel) (svcSt ((withPan sMem pan0).skipTicket 0 0 0x30000 16 pan0.stage)) (by decide +kernel) (by decide +kernel) (by decide +kernel)
        (by decide +kernel); ⟨t, hx⟩),
   (let ⟨t, _, hx, _⟩ := (((h (.ring 0) (cmd (cPan 5 [(0x10, 0x1000)])) 0 sPub 0).2).2).1 (recSt (sPub.cmdRead (.ring 0) (cmd (cPan 5
        [(0x10, 0x1000)])) 0x1000 64)) (recBs (sPub.cmdRead (.ring 0) (cmd (cPan 5 [(0x10, 0x1000)])) 0x1000 64)) (by decide +kernel) (by decide +kernel)
        (by decide +kernel) (by decide +kernel) (by decide +kernel); ⟨t, hx⟩),
   (let ⟨t, _, hx, _⟩ := (((((h (.ring 0) (cmd cQry) 0 (sQryCmd 1 none) 0).2).2).2).1 (recSt ((sQryCmd 1 none).cmdRead (.ring 0) (cmd cQry)
        0x1000 64)) (recBs ((sQryCmd 1 none).cmdRead (.ring 0) (cmd cQry) 0x1000 64)) (by decide +kernel) (by decide +kernel) (by decide +kernel)
        (by decide +kernel) (by decide +kernel)).1 (by decide +kernel) (by decide +kernel); ⟨t, hx⟩),
   (let ⟨t, _, hx, _⟩ := (((((h (.ring 0) (cmd cQry) 0 (sQryCmd 0 (some qryBatch)) 0).2).2).2).1 (recSt ((sQryCmd 0 (some qryBatch)).cmdRead
        (.ring 0) (cmd cQry) 0x1000 64)) (recBs ((sQryCmd 0 (some qryBatch)).cmdRead (.ring 0) (cmd cQry) 0x1000 64)) (by decide +kernel)
        (by decide +kernel) (by decide +kernel) (by decide +kernel) (by decide +kernel)).2 qryBatch (by decide +kernel) (by decide +kernel);
        ⟨t, hx⟩),
   (let ⟨t, hx, _⟩ := (((((h (.ring 0) 0 0 (sQry qryBatch) 0).2).2).2).2 0 qryBatch (by decide +kernel)).1 (by decide +kernel) (by decide +kernel)
        (by decide +kernel); ⟨t, hx⟩),
   (let ⟨t, hx, _⟩ := ((((((h (.ring 0) 0 0 (sQry qryOut) 0).2).2).2).2 0 qryOut (by decide +kernel)).2 (by decide +kernel) (by decide +kernel)).1;
        ⟨t, hx⟩),
   (let ⟨t, hx, _⟩ := ((((((h (.ring 0) 0 0 (sQry qryOut) 0).2).2).2).2 0 qryOut (by decide +kernel)).2 (by decide +kernel) (by decide +kernel)).2
        (svcSt ((sQry qryOut).svcNat 0 0 0x28020 8)) (by decide +kernel); ⟨t, hx⟩)⟩

theorem met_CadencesComplete (h : Obligations.CadencesComplete) :
    (∃ t, exec (Instr.cadenceStart (CmdSrc.ring 0) (cmd (cCad 0 [(0x10, 0x1000)]))) sCadNew = .next t) ∧
    (∃ t, exec (Instr.cadenceStop (CmdSrc.ring 0) (cmd (cCad 1 []))) (sCad (cad0 .run true) (cCad 1 [])) = .next t) ∧
    (∃ t, exec (Instr.cadenceStop (CmdSrc.ring 0) (cmd (cCad 1 []))) (sCad (cad0 .stopped false) (cCad 1 [])) = .next t) ∧
    (∃ t, exec (Instr.cadenceStop (CmdSrc.ring 0) (cmd (cCad 1 []))) (sCad (cad0 .paused false) (cCad 1 [])) = .next t) ∧
    (∃ t, exec (Instr.cadenceAdjust (CmdSrc.ring 0) (cmd (cCad 2 [(0xC, 7), (0x18, 600)]))) (sCad (cadAsk .run) (cCad 2
      [(0xC, 7), (0x18, 600)])) = .next t) ∧
    (∃ t, exec (Instr.cadenceAdjust (CmdSrc.ring 0) (cmd (cCad 2 [(0xC, 8), (0x18, 600)]))) (sCad (cadAsk .run) (cCad 2
      [(0xC, 8), (0x18, 600)])) = .next t) ∧
    (∃ t, exec (Instr.cadenceResume (CmdSrc.ring 0) (cmd (cCad 3 [(0xC, 7)]))) (sCad (cadAsk .waiting) (cCad 3 [(0xC, 7)])) = .next t) ∧
    (∃ t, exec (Instr.cadencePeriodStart 0 0) (sMem.setCadence 0 0 (some (cad0 .run false))) = .next t) ∧
    (∃ t, exec (Instr.cadencePeriodStart 0 0) (withCad sMem (cad0 .run false)) = .next t) ∧
    (∃ t, exec (Instr.cadencePhaseEnd 0 0) case40 = .next t) ∧
    (∃ t, exec (Instr.cadencePhaseEnd 0 0) (withCad sMem (cad0 .run true)) = .next t) ∧
    (∃ t, exec (Instr.cadencePhaseEnd 0 0) case42 = .next t) :=
  ⟨(let ⟨t, hx, _⟩ := (h 0 (cmd (cCad 0 [(0x10, 0x1000)])) 0 0 sCadNew).1 (recSt (sCadNew.cmdRead (.ring 0) (cmd (cCad 0 [(0x10, 0x1000)]))
        0x1000 288)) (recBs (sCadNew.cmdRead (.ring 0) (cmd (cCad 0 [(0x10, 0x1000)])) 0x1000 288)) (by decide +kernel) (by decide +kernel)
        (by decide +kernel) (by decide +kernel) (by decide +kernel); ⟨t, hx⟩),
   (let ⟨t, hx, _⟩ := ((((h 0 (cmd (cCad 1 [])) 0 0 (sCad (cad0 .run true) (cCad 1 []))).2).1 (cad0 .run true) (by decide +kernel)).1 (by decide +kernel)
        (by decide +kernel)).1 (by decide +kernel) (by decide +kernel); ⟨t, hx⟩),
   (let ⟨t, hx, _⟩ := (((((h 0 (cmd (cCad 1 [])) 0 0 (sCad (cad0 .stopped false) (cCad 1 []))).2).1 (cad0 .stopped false) (by decide +kernel)).1
        (by decide +kernel) (by decide +kernel)).2).1 (by decide +kernel); ⟨t, hx⟩),
   (let ⟨t, hx, _⟩ := (((((h 0 (cmd (cCad 1 [])) 0 0 (sCad (cad0 .paused false) (cCad 1 []))).2).1 (cad0 .paused false) (by decide +kernel)).1
        (by decide +kernel) (by decide +kernel)).2).2 (by decide +kernel) (by decide +kernel); ⟨t, hx⟩),
   (let ⟨t, hx, _⟩ := (((((h 0 (cmd (cCad 2 [(0xC, 7), (0x18, 600)])) 0 0 (sCad (cadAsk .run) (cCad 2 [(0xC, 7), (0x18, 600)]))).2).1 (cadAsk
        .run) (by decide +kernel)).2).1 _ (by decide +kernel) rfl (by decide +kernel)).1 (by decide +kernel); ⟨t, hx⟩),
   (let ⟨t, hx, _⟩ := (((((h 0 (cmd (cCad 2 [(0xC, 8), (0x18, 600)])) 0 0 (sCad (cadAsk .run) (cCad 2 [(0xC, 8), (0x18, 600)]))).2).1 (cadAsk
        .run) (by decide +kernel)).2).1 _ (by decide +kernel) rfl (by decide +kernel)).2 (by decide +kernel); ⟨t, hx⟩),
   (let ⟨t, hx, _⟩ := (((((h 0 (cmd (cCad 3 [(0xC, 7)])) 0 0 (sCad (cadAsk .waiting) (cCad 3 [(0xC, 7)]))).2).1 (cadAsk .waiting) (by decide +kernel)).2).2).1
        (by decide +kernel) (by decide +kernel) (by decide +kernel); ⟨t, hx⟩),
   (let ⟨t, hx, _⟩ := ((((((h 0 0 0 0 (sMem.setCadence 0 0 (some (cad0 .run false)))).2).1 (cad0 .run false) (by decide +kernel)).2).2).2 (by decide +kernel)
        (by decide +kernel) (by decide +kernel)).1 (by decide +kernel); ⟨t, hx⟩),
   (let ⟨t, hx, _⟩ := ((((((h 0 0 0 0 (withCad sMem (cad0 .run false))).2).1 (cad0 .run false) (by decide +kernel)).2).2).2 (by decide +kernel)
        (by decide +kernel) (by decide +kernel)).2 (by decide +kernel); ⟨t, hx⟩),
   (let ⟨t, hx, _⟩ := (((h 0 0 0 0 case40).2).2 (case40.svcKick 0) ({ cad0 .run true with failed := some 3 }) (by decide +kernel) (by decide +kernel)
        (by decide +kernel) (by decide +kernel) (by decide +kernel) (by decide +kernel) (by decide +kernel)).1 3 (by decide +kernel);
        ⟨t, hx⟩),
   (let ⟨t, hx, _⟩ := ((((h 0 0 0 0 (withCad sMem (cad0 .run true))).2).2 ((withCad sMem (cad0 .run true)).svcKick 0) (cad0 .run true) (by decide +kernel)
        (by decide +kernel) (by decide +kernel) (by decide +kernel) (by decide +kernel) (by decide +kernel) (by decide +kernel)).2).1 (by decide +kernel)
        (by decide +kernel); ⟨t, hx⟩),
   (let ⟨t, hx, _⟩ := ((((h 0 0 0 0 case42).2).2 (case42.svcKick 0) ({ cad0 .run true with phase := 1 }) (by decide +kernel) (by decide +kernel)
        (by decide +kernel) (by decide +kernel) (by decide +kernel) (by decide +kernel) (by decide +kernel)).2).2 (by decide +kernel) (by decide +kernel);
        ⟨t, hx⟩)⟩

theorem met_PartitionsMoveResources (h : Obligations.PartitionsMoveResources) :
    (∃ t, exec (Instr.create (CmdSrc.ring 0) (cPo 0 1 0 0 7 0 [])) (sPo (cPo 0 1 0 0 7 0 [])) = .next t) ∧
    (∃ t, exec (Instr.destroy (CmdSrc.ring 0) (cPo 1 0 0 0 0 0 [])) (sPo (cPo 1 0 0 0 0 0 [])) = .next t) ∧
    (∃ t, exec (Instr.moveCells (CmdSrc.ring 0) cMove) sMove = .next t) ∧
    (∃ t, exec (Instr.moveCells (CmdSrc.ring 0) (cPo 2 16 0 0 (2 ^ 9) 0 [])) (sPo (cPo 2 16 0 0 (2 ^ 9) 0 [])) = .next t) ∧
    (∃ t, exec (Instr.moveMem (CmdSrc.ring 0) (cPo 3 0 16 0 5 1 [])) (sPo (cPo 3 0 16 0 5 1 [])) = .next t) ∧
    (∃ t, exec (Instr.moveMem (CmdSrc.ring 0) (cPo 3 16 0 0 0 1 [])) (sPo (cPo 3 16 0 0 0 1 [])) = .next t) ∧
    (∃ t, exec (Instr.moveRings (CmdSrc.ring 0) (cPo 4 16 0 0 (3 + 2 ^ 10) 0 [])) (sPo (cPo 4 16 0 0 (3 + 2 ^ 10) 0 [])) = .next t) :=
  ⟨(let ⟨t, _, hx, _⟩ := (h 0 (cPo 0 1 0 0 7 0 []) (sPo (cPo 0 1 0 0 7 0 [])) _ _ _ rfl rfl rfl).1 (by decide +kernel) (by decide +kernel) (by decide +kernel);
        ⟨t, hx⟩),
   (let ⟨t, _, hx, _⟩ := ((h 0 (cPo 1 0 0 0 0 0 []) (sPo (cPo 1 0 0 0 0 0 [])) _ _ _ rfl rfl rfl).2).1 (by decide +kernel) (by decide +kernel);
        ⟨t, hx⟩),
   (let ⟨t, hx, _⟩ := ((((h 0 cMove sMove _ _ _ rfl rfl rfl).2).2).1 _ rfl (by decide +kernel) (by decide +kernel) (by decide +kernel) (by decide +kernel)).1
        (by decide +kernel) sMoved (by decide +kernel) (by decide +kernel) (by decide +kernel); ⟨t, hx⟩),
   (let ⟨t, hx, _⟩ := ((((h 0 (cPo 2 16 0 0 (2 ^ 9) 0 []) (sPo (cPo 2 16 0 0 (2 ^ 9) 0 [])) _ _ _ rfl rfl rfl).2).2).1 _ rfl (by decide +kernel)
        (by decide +kernel) (by decide +kernel) (by decide +kernel)).2 (by decide +kernel) (by decide +kernel) (by decide +kernel); ⟨t, hx⟩),
   (let ⟨t, _, _, hx, _⟩ := (((((h 0 (cPo 3 0 16 0 5 1 []) (sPo (cPo 3 0 16 0 5 1 [])) _ _ _ rfl rfl rfl).2).2).2).1 _ rfl (by decide +kernel)
        (by decide +kernel) (by decide +kernel) (by decide +kernel)).1 (by decide +kernel); ⟨t, hx⟩),
   (let ⟨t, _, hx, _⟩ := (((((h 0 (cPo 3 16 0 0 0 1 []) (sPo (cPo 3 16 0 0 0 1 [])) _ _ _ rfl rfl rfl).2).2).2).1 _ rfl (by decide +kernel) (by decide +kernel)
        (by decide +kernel) (by decide +kernel)).2 (by decide +kernel); ⟨t, hx⟩),
   (let ⟨t, _, hx, _⟩ := ((((h 0 (cPo 4 16 0 0 (3 + 2 ^ 10) 0 []) (sPo (cPo 4 16 0 0 (3 + 2 ^ 10) 0 [])) _ _ _ rfl rfl rfl).2).2).2).2 _ rfl
        (by decide +kernel) (by decide +kernel) (by decide +kernel) (by decide +kernel); ⟨t, hx⟩)⟩

theorem met_PartitionSettingsComplete (h : Obligations.PartitionSettingsComplete) :
    (∃ t, exec (Instr.ports (CmdSrc.ring 0) (cPo 5 0 0 0 3 0 [])) (sPo (cPo 5 0 0 0 3 0 [])) = .next t) ∧
    (∃ t, exec (Instr.setCtx (CmdSrc.ring 0) (cPo 6 0 0 0 5 0 [(0x20, 1)])) (sPo (cPo 6 0 0 0 5 0 [(0x20, 1)])) = .next t) ∧
    (∃ t, exec (Instr.share (CmdSrc.ring 0) (cPo 8 0 0 0 4096 3 [])) (sPo (cPo 8 0 0 0 4096 3 [])) = .next t) ∧
    (∃ t, exec (Instr.share (CmdSrc.ring 0) (cPo 8 0 0 0 1 2 [])) (sPo (cPo 8 0 0 0 1 2 [])) = .next t) ∧
    (∃ t, exec (Instr.waymask (CmdSrc.ring 0) (cPo 9 0 0 0 3 0 [])) (sPo (cPo 9 0 0 0 3 0 [])) = .next t) ∧
    (∃ t, exec (Instr.assist (CmdSrc.ring 0) (cPo 11 0 0 0 3 0 [])) (sPo (cPo 11 0 0 0 3 0 [])) = .next t) ∧
    (∃ t, exec (Instr.physwin (CmdSrc.ring 0) (cPo 12 0 0 0 1 0 [])) (sPo (cPo 12 0 0 0 1 0 [])) = .next t) ∧
    (∃ t, exec (Instr.clearCtx (CmdSrc.ring 0) (cPo 7 0 0 0 0 0 [])) (sPo (cPo 7 0 0 0 0 0 [])) = .next t) ∧
    (∃ t, exec (Instr.discard (CmdSrc.ring 0) (cPo 13 0 0 0 (2 ^ 9) 0 [])) (sPo (cPo 13 0 0 0 (2 ^ 9) 0 [])) = .next t) ∧
    (∃ t, exec (Instr.scope (CmdSrc.ring 0) (cPo 10 0 0 0 5 0 [])) (sPo (cPo 10 0 0 0 5 0 [])) = .next t) ∧
    (∃ t, exec (Instr.assist (CmdSrc.ring 0) cVf) sVf = .next t) ∧
    (∃ t, exec (Instr.assist (CmdSrc.ring 0) (cPo 11 1 0 0 3 0 [])) (sPo (cPo 11 1 0 0 3 0 [])) = .next t) ∧
    (∃ t, exec (Instr.assist (CmdSrc.cadence 0 0) cVf) sCadCmd = .next t) :=
  ⟨(let ⟨t, _, hx, _⟩ := ((h 0 (cPo 5 0 0 0 3 0 []) (sPo (cPo 5 0 0 0 3 0 [])) _ _ _ rfl rfl rfl).1 (by decide +kernel)).1 (by decide +kernel);
        ⟨t, hx⟩),
   (let ⟨t, _, hx, _⟩ := (((h 0 (cPo 6 0 0 0 5 0 [(0x20, 1)]) (sPo (cPo 6 0 0 0 5 0 [(0x20, 1)])) _ _ _ rfl rfl rfl).1 (by decide +kernel)).2).1
        (by decide +kernel) (by decide +kernel); ⟨t, hx⟩),
   (let ⟨t, hx, _⟩ := (((((h 0 (cPo 8 0 0 0 4096 3 []) (sPo (cPo 8 0 0 0 4096 3 [])) _ _ _ rfl rfl rfl).1 (by decide +kernel)).2).2).1 (by decide +kernel)).1
        (by decide +kernel) (by decide +kernel); ⟨t, hx⟩),
   (let ⟨t, _, hx, _⟩ := (((((h 0 (cPo 8 0 0 0 1 2 []) (sPo (cPo 8 0 0 0 1 2 [])) _ _ _ rfl rfl rfl).1 (by decide +kernel)).2).2).1 (by decide +kernel)).2
        (by decide +kernel) (by decide +kernel) (by decide +kernel); ⟨t, hx⟩),
   (let ⟨t, _, hx, _⟩ := (((((h 0 (cPo 9 0 0 0 3 0 []) (sPo (cPo 9 0 0 0 3 0 [])) _ _ _ rfl rfl rfl).1 (by decide +kernel)).2).2).2).1 (by decide +kernel);
        ⟨t, hx⟩),
   (let ⟨t, _, hx, _⟩ := ((((((h 0 (cPo 11 0 0 0 3 0 []) (sPo (cPo 11 0 0 0 3 0 [])) _ _ _ rfl rfl rfl).1 (by decide +kernel)).2).2).2).2).1
        (by decide +kernel); ⟨t, hx⟩),
   (let ⟨t, hx, _⟩ := ((((((h 0 (cPo 12 0 0 0 1 0 []) (sPo (cPo 12 0 0 0 1 0 [])) _ _ _ rfl rfl rfl).1 (by decide +kernel)).2).2).2).2).2 (by decide +kernel);
        ⟨t, hx⟩),
   (let ⟨t, hx, _⟩ := (((h 0 (cPo 7 0 0 0 0 0 []) (sPo (cPo 7 0 0 0 0 0 [])) _ _ _ rfl rfl rfl).2).1 (by decide +kernel)).1 (by decide +kernel)
        (by decide +kernel) (by decide +kernel); ⟨t, hx⟩),
   (let ⟨t, _, hx, _⟩ := (((h 0 (cPo 13 0 0 0 (2 ^ 9) 0 []) (sPo (cPo 13 0 0 0 (2 ^ 9) 0 [])) _ _ _ rfl rfl rfl).2).1 (by decide +kernel)).2
        (by decide +kernel) (by decide +kernel); ⟨t, hx⟩),
   (let ⟨t, hx, _⟩ := (((h 0 (cPo 10 0 0 0 5 0 []) (sPo (cPo 10 0 0 0 5 0 [])) _ _ _ rfl rfl rfl).2).2).1 _ rfl (by decide +kernel) (by decide +kernel);
        ⟨t, hx⟩),
   (let ⟨t, hx, _⟩ := ((((h 0 cVf sVf _ _ _ rfl rfl rfl).2).2).2 (by decide +kernel) (by decide +kernel) (by decide +kernel)).1 (by decide +kernel)
        (by decide +kernel) (by decide +kernel); ⟨t, hx⟩),
   (let ⟨t, hx, _⟩ := (((((h 0 (cPo 11 1 0 0 3 0 []) (sPo (cPo 11 1 0 0 3 0 [])) _ _ _ rfl rfl rfl).2).2).2 (by decide +kernel) (by decide +kernel)
        (by decide +kernel)).2).1 (by decide +kernel) (by decide +kernel) (by decide +kernel) (by decide +kernel); ⟨t, hx⟩),
   (let ⟨t, hx, _⟩ := (((((h 0 cVf sCadCmd _ _ _ rfl rfl rfl).2).2).2 (by decide +kernel) (by decide +kernel) (by decide +kernel)).2).2 0 0 (by decide +kernel);
        ⟨t, hx⟩)⟩

theorem met_InterruptsComplete (h : Obligations.InterruptsComplete) :
    (∃ t, exec (Instr.irqFlagSet (IrqFlag.dstat 1 2)) sPend = .next t) ∧
    (∃ t, exec (Instr.irqFlagSet (IrqFlag.cstat 5 2)) sPend = .next t) ∧
    (∃ t, exec (Instr.irqFlagSet (IrqFlag.mstat 2)) sPend = .next t) ∧
    (∃ t, exec (Instr.irqFlagSet (IrqFlag.pstat 3 2)) sPend = .next t) ∧
    (∃ t, exec (Instr.irqFilterPass 4 5) sPend = .next t) ∧
    (∃ t, exec (Instr.irqTake 3 4 5) sPend = .next t) ∧
    (∃ t, exec (Instr.irqTake 3 4 6) sPend = .next t) ∧
    (∃ t, exec (Instr.irqDone 3 4 5) sTaken = .next t) ∧
    (∃ t, exec (Instr.irqDone 3 4 5) sPend = .next t) ∧
    (∃ t, exec (Instr.irqHoldoffExpiry 4 6) sPend = .next t) :=
  ⟨(let ⟨t, hx, _⟩ := (h sPend).1 1 2; ⟨t, hx⟩),
   (let ⟨t, hx, _⟩ := ((h sPend).2).1 5 2; ⟨t, hx⟩),
   (let ⟨t, hx, _⟩ := (((h sPend).2).2).1 2 (by decide +kernel); ⟨t, hx⟩),
   (let ⟨t, hx, _⟩ := ((((h sPend).2).2).2).1 3 2; ⟨t, hx⟩),
   (let ⟨t, hx, _⟩ := (((((h sPend).2).2).2).2).1 4 5 (by decide +kernel); ⟨t, hx⟩),
   (let ⟨t, hx, _⟩ := (((((((h sPend).2).2).2).2).2).1 3 4 5).1 (by decide +kernel) (by decide +kernel) (by decide +kernel); ⟨t, hx⟩),
   ⟨_, ((((((((h sPend).2).2).2).2).2).1 3 4 6).2).1 (by decide +kernel)⟩,
   (let ⟨t, hx, _⟩ := (((((((((h sTaken).2).2).2).2).2).1 3 4 5).2).2).1 (by decide +kernel); ⟨t, hx⟩),
   ⟨_, (((((((((h sPend).2).2).2).2).2).1 3 4 5).2).2).2 (by decide +kernel)⟩,
   (let ⟨t, hx, _⟩ := ((((((h sPend).2).2).2).2).2).2 4 6; ⟨t, hx⟩)⟩

theorem met_PowerCommandsComplete (h : Obligations.PowerCommandsComplete) :
    (∃ t, exec (Instr.powerSample sampleIn) State.reset = .next t) ∧
    (∃ t, exec Instr.sustainedOverdraw State.reset = .next t) ∧
    (∃ t, exec (Instr.powerControlStep sampleCtl) State.reset = .next t) ∧
    (∃ t, exec (Instr.recalibrationComplete 5 cal0) case44 = .next t) ∧
    (∃ t, exec (Instr.calibrationRetake 5 cal0) State.reset = .next t) ∧
    (∃ t, exec (Instr.thermalStepEntry (.die 1) 2) State.reset = .next t) ∧
    (∃ t, exec (Instr.thermalStepExit (.die 1)) (sPow (fun p => { p with steps := [(1, 2)] })) = .next t) ∧
    (∃ t, exec (Instr.thermalTrip (.die 1)) State.reset = .next t) ∧
    (∃ t, exec (Instr.powerAnswerTimeout 0) sAns = .next t) :=
  ⟨(let ⟨t, hx, _⟩ := (h State.reset).1 sampleIn (by decide +kernel); ⟨t, hx⟩),
   (let ⟨t, hx, _⟩ := ((h State.reset).2).1; ⟨t, hx⟩),
   (let ⟨t, hx, _⟩ := (((h State.reset).2).2).1 sampleCtl; ⟨t, hx⟩),
   (let ⟨t, hx, _⟩ := (((((h case44).2).2).2).1 5 cal0).1 (by decide +kernel); ⟨t, hx⟩),
   (let ⟨t, hx, _⟩ := (((((h State.reset).2).2).2).1 5 cal0).2 (by decide +kernel); ⟨t, hx⟩),
   (let ⟨t, hx, _⟩ := ((((((h State.reset).2).2).2).2).1 (.die 1) 2).1 (by decide +kernel); ⟨t, hx⟩),
   (let ⟨t, hx, _⟩ := (((((((h (sPow (fun p => { p with steps := [(1, 2)] }))).2).2).2).2).1 (.die 1) 2).2).1 (by decide +kernel) (by decide +kernel);
        ⟨t, hx⟩),
   (let ⟨t, hx, _⟩ := (((((((h State.reset).2).2).2).2).1 (.die 1) 2).2).2 (by decide +kernel); ⟨t, hx⟩),
   (let ⟨t, hx, _⟩ := (((((h sAns).2).2).2).2).2 0 ⟨7, 2500⟩ (by decide +kernel); ⟨t, hx⟩)⟩

theorem met_SettingWritesComplete (h : Obligations.SettingWritesComplete) :
    (∃ t, exec (.pwrCeilWrite .pf 2000) (sKey .pf pwrBase) = .next t) ∧
    (∃ t, exec (.pwrCeilWrite .pf 500) (sKey .pf pwrBase) = .next t) ∧
    (∃ t, exec (.pwrCeilWrite .pf 2000) sBurn = .next t) ∧
    (∃ t, exec Instr.otpBurnComplete sBurn = .next t) ∧
    (∃ t, exec (Instr.pwrCapWrite Requester.pf 2000) (sKey .pf pwrBase) = .next t) ∧
    (∃ t, exec (Instr.pwrCapWrite Requester.pf 500) (sKey .pf pwrBase) = .next t) ∧
    (∃ t, exec (Instr.pwrCapWrite Requester.pf 2000) State.reset = .next t) ∧
    (∃ t, exec (Instr.pwrAnsWrite Requester.pf 0 7) sAns = .next t) ∧
    (∃ t, exec (Instr.chnJobWrite (Requester.fw 15) 0 0x10009) sJobs = .next t) ∧
    (∃ t, exec (Instr.chnJobWrite (Requester.fw 15) 0 0x10007) sJobs = .next t) :=
  ⟨(let ⟨t, hx, _⟩ := ((h (sKey .pf pwrBase)).1 (.pwrCeilWrite .pf 2000) 1 pwrBase pwrBase 2000 2000 _ (by decide +kernel)
        ⟨(by decide +kernel), rfl⟩).1 (by decide +kernel) (by decide +kernel); ⟨t, hx⟩),
   (let ⟨t, hx, _⟩ := (((h (sKey .pf pwrBase)).1 (.pwrCeilWrite .pf 500) 1 pwrBase pwrBase 500 500 _ (by decide +kernel)
        ⟨(by decide +kernel), rfl⟩).2).1 (by decide +kernel) (by decide +kernel); ⟨t, hx⟩),
   ⟨_, (((h sBurn).1 (.pwrCeilWrite .pf 2000) 1 pwrBase pwrBase 2000 2000 _ (by decide +kernel) ⟨(by decide +kernel), rfl⟩).2).2 (by decide +kernel)⟩,
   (let ⟨t, hx, _⟩ := ((h sBurn).2).1 ⟨1, 2000, 1⟩ (by decide +kernel); ⟨t, hx⟩),
   (let ⟨t, hx, _⟩ := ((((h (sKey .pf pwrBase)).2).2).1 2000 _ ⟨(by decide +kernel), rfl⟩).1 (by decide +kernel) (by decide +kernel); ⟨t, hx⟩),
   ⟨_, ((((h (sKey .pf pwrBase)).2).2).1 500 _ ⟨(by decide +kernel), rfl⟩).2 (by decide +kernel)⟩,
   (let ⟨t, hx, _⟩ := ((((h State.reset).2).2).2).1 2000 (by decide +kernel); ⟨t, hx⟩),
   (let ⟨t, hx, _⟩ := (((((h sAns).2).2).2).2).1 0 7 _ ⟨7, 2500⟩ ⟨(by decide +kernel), rfl⟩ (by decide +kernel) (by decide +kernel); ⟨t, hx⟩),
   (let ⟨t, hx, _⟩ := ((((((h sJobs).2).2).2).2).2 15 0 0x10009 _ ⟨(by decide +kernel), rfl⟩).1 (by decide +kernel); ⟨t, hx⟩),
   ⟨_, ((((((h sJobs).2).2).2).2).2 15 0 0x10007 _ ⟨(by decide +kernel), rfl⟩).2 (by decide +kernel)⟩⟩

theorem met_ResetsAndRecoveryComplete (h : Obligations.ResetsAndRecoveryComplete) :
    (∃ t, exec (Instr.cellReset (Requester.fw 2) 1 0x85) (sKey (.fw 2) (rstDBase 1)) = .next t) ∧
    (∃ t, exec (Instr.warmResetWrite Requester.pf 1 5) (sKey .pf rstJBase) = .next t) ∧
    (∃ t, exec (Instr.partitionReset Requester.pf 0x10) (sKey .pf rstJBase) = .next t) ∧
    (∃ t, exec (Instr.recoveryResume Requester.pf 0 7) sRecov = .next t) ∧
    (∃ t, exec (Instr.recoveryEnd Requester.pf 0 0x100000007) sRecov = .next t) ∧
    (∃ t, exec (Instr.recoveryReset Requester.pf 0 0x200000007) sRecov = .next t) ∧
    (∃ t, exec (Instr.heartbeat 3) case45 = .next t) ∧
    (∃ t, exec (Instr.heartbeat 3) (sKey .pf rstJBase) = .next t) ∧
    (∃ t, exec (Instr.heartbeatLost 3) (sKey .pf rstJBase) = .next t) ∧
    (∃ t, exec (Instr.controllerTakeover 3) (sFailed id) = .next t) ∧
    (∃ t, exec (Instr.restartTimeout 3) case45 = .next t) ∧
    (∃ t, exec (Instr.restartTimeout 3) case46 = .next t) ∧
    (∃ t, exec Instr.junctionHang (sKey .pf rstJBase) = .next t) :=
  ⟨(let ⟨t, hx, _⟩ := (h (sKey (.fw 2) (rstDBase 1))).1 2 1 0x85 _ ⟨(by decide +kernel), rfl⟩ (by decide +kernel) (by decide +kernel) (by decide +kernel);
        ⟨t, hx⟩),
   (let ⟨t, hx, _⟩ := ((h (sKey .pf rstJBase)).2).1 1 5 _ ⟨(by decide +kernel), rfl⟩ (by decide +kernel); ⟨t, hx⟩),
   (let ⟨t, hx, _⟩ := (((h (sKey .pf rstJBase)).2).2).1 0x10 _ ⟨(by decide +kernel), rfl⟩ (by decide +kernel); ⟨t, hx⟩),
   (let ⟨t, hx, _⟩ := (((((h sRecov).2).2).2).1 0 7 _ _ 7 _ ⟨(by decide +kernel), rfl⟩ (by decide +kernel) (by decide +kernel) rfl rfl).1 (by decide +kernel);
        ⟨t, hx⟩),
   (let ⟨t, hx, _⟩ := ((((((h sRecov).2).2).2).1 0 0x100000007 _ _ 7 _ ⟨(by decide +kernel), rfl⟩ (by decide +kernel) (by decide +kernel) rfl
        rfl).2).1 (by decide +kernel); ⟨t, hx⟩),
   (let ⟨t, hx, _⟩ := ((((((h sRecov).2).2).2).1 0 0x200000007 _ _ 7 _ ⟨(by decide +kernel), rfl⟩ (by decide +kernel) (by decide +kernel) rfl
        rfl).2).2 (by decide +kernel); ⟨t, hx⟩),
   (let ⟨t, hx, _⟩ := ((((((h case45).2).2).2).2).1 3).1 (by decide +kernel) (by decide +kernel); ⟨t, hx⟩),
   ⟨_, (((((((h (sKey .pf rstJBase)).2).2).2).2).1 3).2).1 (by decide +kernel)⟩,
   (let ⟨t, hx, _⟩ := ((((((((h (sKey .pf rstJBase)).2).2).2).2).1 3).2).2).1 (by decide +kernel); ⟨t, hx⟩),
   (let ⟨t, hx, _⟩ := (((((((((h (sFailed id)).2).2).2).2).1 3).2).2).2).1 2 (by decide +kernel) (by decide +kernel) (by decide +kernel);
        ⟨t, hx⟩),
   (let ⟨t, hx, _⟩ := ((((((((((h case45).2).2).2).2).1 3).2).2).2).2 _ rfl (by decide +kernel) (by decide +kernel)).1 (by decide +kernel);
        ⟨t, hx⟩),
   (let ⟨t, hx, _⟩ := ((((((((((h case46).2).2).2).2).1 3).2).2).2).2 _ rfl (by decide +kernel) (by decide +kernel)).2 (by decide +kernel);
        ⟨t, hx⟩),
   (let ⟨t, hx, _⟩ := (((((h (sKey .pf rstJBase)).2).2).2).2).2; ⟨t, hx⟩)⟩

theorem met_RegisterWritesComplete (h : Obligations.RegisterWritesComplete) :
    (∃ t, exec (Instr.unlockWrite (Requester.fw 2) 0x201FF0 0xC3A5) State.reset = .next t) ∧
    (∃ t, exec (Instr.unlockWrite (Requester.fw 2) 0x201FF0 0x1234) State.reset = .next t) ∧
    (∃ t, exec (Instr.w1cClear (Requester.fw 2) (Fin.ofNat 67108864 (irqJBase + 0x2000)) 0xC3A5) State.reset = .next t) ∧
    (∃ t, exec (Instr.registerWrite (Requester.fw 2) (Fin.ofNat 67108864 (irqJBase + 40)) 8 0xC3A5) State.reset = .next t) ∧
    (∃ t, exec (Instr.registerWrite (Requester.fw 2) (Fin.ofNat 67108864 (irqJBase + 3)) 8 0xC3A5) State.reset = .next t) ∧
    (∃ t, exec Instr.slowClockEdge State.reset = .next t) :=
  ⟨(let ⟨t, hx, _⟩ := ((h State.reset).1 2 0x201FF0 0xC3A5 pwrBase 0xC3A5 (by decide +kernel) (by decide +kernel) (by decide +kernel) (by decide +kernel)
        (by decide +kernel) (by decide +kernel)).1 (by decide +kernel); ⟨t, hx⟩),
   (let ⟨t, hx, _⟩ := ((h State.reset).1 2 0x201FF0 0x1234 pwrBase 0xC3A5 (by decide +kernel) (by decide +kernel) (by decide +kernel) (by decide +kernel)
        (by decide +kernel) (by decide +kernel)).2 (by decide +kernel); ⟨t, hx⟩),
   (let ⟨t, hx, _⟩ := ((h State.reset).2).1 2 (Fin.ofNat 67108864 (irqJBase + 0x2000)) 0xC3A5 (by decide +kernel); ⟨t, hx⟩),
   (let ⟨t, hx, _⟩ := (((h State.reset).2).2).1 2 (Fin.ofNat 67108864 (irqJBase + 40)) 0xC3A5 5 (by decide +kernel); ⟨t, hx⟩),
   (let ⟨t, hx, _⟩ := ((((h State.reset).2).2).2).1 2 (Fin.ofNat 67108864 (irqJBase + 3)) 8 0xC3A5 (by decide +kernel) (by decide +kernel) (by decide +kernel);
        ⟨t, hx⟩),
   (let ⟨t, hx, _⟩ := ((((h State.reset).2).2).2).2 (by decide +kernel) (by decide +kernel); ⟨t, hx⟩)⟩

theorem met_ManagementControlComplete (h : Obligations.ManagementControlComplete) :
    (∃ t, exec (Instr.entdaa 9) State.reset = .next t) ∧
    (∃ t, exec (Instr.setEndpointId .i3c 5) (sMg id) = .next t) ∧
    (∃ t, exec (Instr.setEndpointId .i3c 0) (sMg id) = .next t) ∧
    (∃ t, exec (Instr.getEndpointId .i3c) (sMg id) = .next t) ∧
    (∃ t, exec (Instr.getEndpointUuid .i3c) (sMg id) = .next t) ∧
    (∃ t, exec (Instr.getMctpVersionSupport .i3c 1) (sMg id) = .next t) ∧
    (∃ t, exec (Instr.getMctpVersionSupport .i3c 9) (sMg id) = .next t) ∧
    (∃ t, exec (Instr.getMessageTypeSupport .i3c) (sMg id) = .next t) ∧
    (∃ t, exec (Instr.pldmResetRequest .i3c 5) (sMg id) = .next t) ∧
    (∃ t, exec (Instr.getSensorReading .i3c 3) (sMg id) = .next t) ∧
    (∃ t, exec (Instr.getSensorReading .i3c 99) (sMg id) = .next t) ∧
    (∃ t, exec (Instr.getStateSensorReadings .i3c 30) (sMg id) = .next t) ∧
    (∃ t, exec (Instr.setEventReceiver .i3c 5 1) (sMg id) = .next t) ∧
    (∃ t, exec (Instr.platformEventMessage .i3c) (sMg (fun m => { m with polled := [[1, 2]] })) = .next t) ∧
    (∃ t, exec (Instr.platformEventMessage .i3c) (sMg id) = .next t) :=
  ⟨(let ⟨t, hx, _⟩ := (h .i3c State.reset State.reset).1 9 (by decide +kernel); ⟨t, hx⟩),
   (let ⟨t, hx, _⟩ := (((h .i3c (sMg id) _).2).1 5 ⟨(by decide +kernel), ⟨rfl, (by decide +kernel)⟩⟩ (by decide +kernel)).1 (by decide +kernel)
        (by decide +kernel); ⟨t, hx⟩),
   (let ⟨t, hx, _⟩ := (((h .i3c (sMg id) _).2).1 0 ⟨(by decide +kernel), ⟨rfl, (by decide +kernel)⟩⟩ (by decide +kernel)).2 (by decide +kernel);
        ⟨t, hx⟩),
   (let ⟨t, hx, _⟩ := (((h .i3c (sMg id) _).2).2).1 ⟨(by decide +kernel), ⟨rfl, (by decide +kernel)⟩⟩ (by decide +kernel); ⟨t, hx⟩),
   (let ⟨t, hx, _⟩ := (((((h .i3c (sMg id) _).2).2).2).1 ⟨⟨(by decide +kernel), ⟨rfl, (by decide +kernel)⟩⟩, (by decide +kernel)⟩).1; ⟨t, hx⟩),
   (let ⟨t, _, hx, _⟩ := ((((((h .i3c (sMg id) _).2).2).2).1 ⟨⟨(by decide +kernel), ⟨rfl, (by decide +kernel)⟩⟩, (by decide +kernel)⟩).2).1 1
        (by decide +kernel); ⟨t, hx⟩),
   (let ⟨t, hx, _⟩ := (((((((h .i3c (sMg id) _).2).2).2).1 ⟨⟨(by decide +kernel), ⟨rfl, (by decide +kernel)⟩⟩, (by decide +kernel)⟩).2).2).1 9
        (by decide +kernel); ⟨t, hx⟩),
   (let ⟨t, hx, _⟩ := (((((((h .i3c (sMg id) _).2).2).2).1 ⟨⟨(by decide +kernel), ⟨rfl, (by decide +kernel)⟩⟩, (by decide +kernel)⟩).2).2).2;
        ⟨t, hx⟩),
   (let ⟨t, _, hx, _⟩ := (((((h .i3c (sMg id) _).2).2).2).2 ⟨⟨(by decide +kernel), ⟨rfl, (by decide +kernel)⟩⟩, (by decide +kernel)⟩).1 5;
        ⟨t, hx⟩),
   (let ⟨t, hx, _⟩ := (((((((h .i3c (sMg id) _).2).2).2).2 ⟨⟨(by decide +kernel), ⟨rfl, (by decide +kernel)⟩⟩, (by decide +kernel)⟩).2).1 3).1
        (by decide +kernel); ⟨t, hx⟩),
   (let ⟨t, hx, _⟩ := ((((((((h .i3c (sMg id) _).2).2).2).2 ⟨⟨(by decide +kernel), ⟨rfl, (by decide +kernel)⟩⟩, (by decide +kernel)⟩).2).1
        99).2).1 (by decide +kernel); ⟨t, hx⟩),
   (let ⟨t, hx, _⟩ := ((((((((h .i3c (sMg id) _).2).2).2).2 ⟨⟨(by decide +kernel), ⟨rfl, (by decide +kernel)⟩⟩, (by decide +kernel)⟩).2).1
        30).2).2 (by decide +kernel); ⟨t, hx⟩),
   (let ⟨t, hx, _⟩ := (((((((h .i3c (sMg id) _).2).2).2).2 ⟨⟨(by decide +kernel), ⟨rfl, (by decide +kernel)⟩⟩, (by decide +kernel)⟩).2).2).1 5
        1; ⟨t, hx⟩),
   (let ⟨t, hx, _⟩ := ((((((((h .i3c (sMg (fun m => { m with polled := [[1, 2]] })) _).2).2).2).2
        ⟨⟨(by decide +kernel), ⟨rfl, (by decide +kernel)⟩⟩, (by decide +kernel)⟩).2).2).2).1 [1, 2] [] (by decide +kernel); ⟨t, hx⟩),
   (let ⟨t, hx, _⟩ := ((((((((h .i3c (sMg id) _).2).2).2).2
        ⟨⟨(by decide +kernel), ⟨rfl, (by decide +kernel)⟩⟩, (by decide +kernel)⟩).2).2).2).2 (by decide +kernel); ⟨t, hx⟩)⟩

theorem met_FirmwareUpdateCompletes (h : Obligations.FirmwareUpdateCompletes) :
    (∃ t, exec (Instr.requestUpdate .i3c) (sMg id) = .next t) ∧
    (∃ t, exec (Instr.requestUpdate .i3c) sUpdate = .next t) ∧
    (∃ t, exec (Instr.activateFirmware .i3c) (sMg id) = .next t) ∧
    (∃ t, exec (Instr.passComponentTable .i3c [⟨1, 3, 4⟩]) sUpdate = .next t) ∧
    (∃ t, exec (Instr.firmwareComponentWrite .i3c 1 img0) sUpdate = .next t) ∧
    (∃ t, exec (Instr.activateFirmware .i3c) sUpdate = .next t) ∧
    (∃ t, exec (Instr.cancelUpdate .i3c) sUpdate = .next t) :=
  ⟨(let ⟨t, hx, _⟩ := (h .i3c (sMg id) _ ⟨⟨(by decide +kernel), ⟨rfl, (by decide +kernel)⟩⟩, (by decide +kernel)⟩ (by decide +kernel)).1 (by decide +kernel);
        ⟨t, hx⟩),
   (let ⟨t, hx, _⟩ := ((h .i3c sUpdate _ ⟨⟨(by decide +kernel), ⟨rfl, (by decide +kernel)⟩⟩, (by decide +kernel)⟩ (by decide +kernel)).2).1 (by decide +kernel);
        ⟨t, hx⟩),
   (let ⟨t, hx, _⟩ := (((h .i3c (sMg id) _ ⟨⟨(by decide +kernel), ⟨rfl, (by decide +kernel)⟩⟩, (by decide +kernel)⟩ (by decide +kernel)).2).2).1
        (by decide +kernel); ⟨t, hx⟩),
   (let ⟨t, _, hx, _⟩ := ((((h .i3c sUpdate _ ⟨⟨(by decide +kernel), ⟨rfl, (by decide +kernel)⟩⟩, (by decide +kernel)⟩ (by decide +kernel)).2).2).2
        ⟨.i3c, [2], []⟩ (by decide +kernel) (by decide +kernel)).1 [⟨1, 3, 4⟩]; ⟨t, hx⟩),
   (let ⟨t, _, hx, _⟩ := (((((h .i3c sUpdate _ ⟨⟨(by decide +kernel), ⟨rfl, (by decide +kernel)⟩⟩, (by decide +kernel)⟩ (by decide +kernel)).2).2).2
        ⟨.i3c, [2], []⟩ (by decide +kernel) (by decide +kernel)).2).1 1 img0 (by decide +kernel); ⟨t, hx⟩),
   (let ⟨t, _, hx, _⟩ := ((((((h .i3c sUpdate _ ⟨⟨(by decide +kernel), ⟨rfl, (by decide +kernel)⟩⟩, (by decide +kernel)⟩ (by decide +kernel)).2).2).2
        ⟨.i3c, [2], []⟩ (by decide +kernel) (by decide +kernel)).2).2).1 (by decide +kernel); ⟨t, hx⟩),
   (let ⟨t, _, hx, _⟩ := ((((((h .i3c sUpdate _ ⟨⟨(by decide +kernel), ⟨rfl, (by decide +kernel)⟩⟩, (by decide +kernel)⟩ (by decide +kernel)).2).2).2
        ⟨.i3c, [2], []⟩ (by decide +kernel) (by decide +kernel)).2).2).2; ⟨t, hx⟩)⟩

theorem met_AttestationCompletes (h : Obligations.AttestationCompletes) :
    (∃ t, exec (Instr.getVersion .i3c) (sNeg .negotiated) = .next t) ∧
    (∃ t, exec (Instr.getCapabilities .i3c) (sNeg .negotiated) = .next t) ∧
    (∃ t, exec (Instr.getCapabilities .i3c) (sNeg .start) = .next t) ∧
    (∃ t, exec (Instr.negotiateAlgorithms .i3c true true) (sNeg .capabilities) = .next t) ∧
    (∃ t, exec (Instr.negotiateAlgorithms .i3c true false) (sNeg .capabilities) = .next t) ∧
    (∃ t, exec (Instr.getDigests .i3c) (sNeg .version) = .next t) ∧
    (∃ t, exec (Instr.getDigests .i3c) (sNeg .negotiated) = .next t) ∧
    (∃ t, exec (Instr.getCertificate .i3c 0 0 64) (sNeg .negotiated) = .next t) ∧
    (∃ t, exec (Instr.challenge .i3c 0 7) (sNeg .negotiated) = .next t) ∧
    (∃ t, exec (Instr.getMeasurements .i3c 0 false 7) (sNeg .negotiated) = .next t) ∧
    (∃ t, exec (Instr.getMeasurements .i3c 1 false 7) (sNeg .negotiated) = .next t) :=
  ⟨(let ⟨t, hx, _⟩ := (h .i3c (sNeg .negotiated) _ ⟨⟨(by decide +kernel), ⟨rfl, (by decide +kernel)⟩⟩, (by decide +kernel)⟩).1; ⟨t, hx⟩),
   (let ⟨t, hx, _⟩ := ((h .i3c (sNeg .negotiated) _ ⟨⟨(by decide +kernel), ⟨rfl, (by decide +kernel)⟩⟩, (by decide +kernel)⟩).2).1 (by decide +kernel);
        ⟨t, hx⟩),
   (let ⟨t, hx, _⟩ := (((h .i3c (sNeg .start) _ ⟨⟨(by decide +kernel), ⟨rfl, (by decide +kernel)⟩⟩, (by decide +kernel)⟩).2).2).1 (by decide +kernel);
        ⟨t, hx⟩),
   (let ⟨t, hx, _⟩ := (((((h .i3c (sNeg .capabilities) _ ⟨⟨(by decide +kernel), ⟨rfl, (by decide +kernel)⟩⟩, (by decide +kernel)⟩).2).2).2).1
        (by decide +kernel)).1; ⟨t, hx⟩),
   (let ⟨t, hx, _⟩ := (((((h .i3c (sNeg .capabilities) _ ⟨⟨(by decide +kernel), ⟨rfl, (by decide +kernel)⟩⟩, (by decide +kernel)⟩).2).2).2).1
        (by decide +kernel)).2 true false (by decide +kernel); ⟨t, hx⟩),
   (let ⟨t, hx, _⟩ := (((((h .i3c (sNeg .version) _ ⟨⟨(by decide +kernel), ⟨rfl, (by decide +kernel)⟩⟩, (by decide +kernel)⟩).2).2).2).2).1 (by decide +kernel);
        ⟨t, hx⟩),
   (let ⟨t, hx, _⟩ := ((((((h .i3c (sNeg .negotiated) _ ⟨⟨(by decide +kernel), ⟨rfl, (by decide +kernel)⟩⟩, (by decide +kernel)⟩).2).2).2).2).2
        (by decide +kernel)).1; ⟨t, hx⟩),
   (let ⟨t, hx, _⟩ := (((((((h .i3c (sNeg .negotiated) _
        ⟨⟨(by decide +kernel), ⟨rfl, (by decide +kernel)⟩⟩, (by decide +kernel)⟩).2).2).2).2).2 (by decide +kernel)).2).1 0 64 (by decide +kernel);
        ⟨t, hx⟩),
   (let ⟨t, _, hx, _⟩ := ((((((((h .i3c (sNeg .negotiated) _
        ⟨⟨(by decide +kernel), ⟨rfl, (by decide +kernel)⟩⟩, (by decide +kernel)⟩).2).2).2).2).2 (by decide +kernel)).2).2).1 7; ⟨t, hx⟩),
   (let ⟨t, hx, _⟩ := (((((((((h .i3c (sNeg .negotiated) _
        ⟨⟨(by decide +kernel), ⟨rfl, (by decide +kernel)⟩⟩, (by decide +kernel)⟩).2).2).2).2).2 (by decide +kernel)).2).2).2).1 7; ⟨t, hx⟩),
   (let ⟨t, hx, _⟩ := (((((((((h .i3c (sNeg .negotiated) _
        ⟨⟨(by decide +kernel), ⟨rfl, (by decide +kernel)⟩⟩, (by decide +kernel)⟩).2).2).2).2).2 (by decide +kernel)).2).2).2).2 1 7 Config.romDigest
        (by decide +kernel) (by decide +kernel) rfl; ⟨t, hx⟩)⟩

theorem met_GuardsCloseAtResets (h : Obligations.GuardsCloseAtResets) :
    (∃ t, exec (Instr.coldPowerOn 5 true) (sKey .pf rstJBase) = .next t) ∧
    (∃ t, exec (Instr.modRstNAssert 5) (sKey .pf rstJBase) = .next t) ∧
    (∃ t, exec (Instr.warmResetWrite Requester.pf 1 5) (sKey .pf rstJBase) = .next t) ∧
    (∃ t, exec (Instr.pldmResetRequest .i3c 5) (sMg id) = .next t) ∧
    (∃ t, exec .inputUndervoltageShutdown (sKey .pf rstJBase) = .next t) ∧
    (∃ t, exec (Instr.flr 0) (sKey .pf rstJBase) = .next t) ∧
    (∃ t, exec (Instr.restartTimeout 3) case45 = .next t) ∧
    (∃ t, exec Instr.slowClockEdge (sKey .pf rstJBase) = .next t) :=
  ⟨(let ⟨t, hx, _⟩ := (h (sKey .pf rstJBase)).1 5 true; ⟨t, hx⟩),
   (let ⟨t, hx, _⟩ := ((h (sKey .pf rstJBase)).2).1 5; ⟨t, hx⟩),
   (let ⟨t, hx, _⟩ := (((h (sKey .pf rstJBase)).2).2).1 1 5 (by decide +kernel) (by decide +kernel); ⟨t, hx⟩),
   (let ⟨t, hx, _⟩ := ((((h (sMg id)).2).2).2).1 .i3c _ 5 ⟨⟨(by decide +kernel), ⟨rfl, (by decide +kernel)⟩⟩, (by decide +kernel)⟩; ⟨t, hx⟩),
   (let ⟨t, hx, _⟩ := (((((h (sKey .pf rstJBase)).2).2).2).2).1 .inputUndervoltageShutdown (by decide +kernel); ⟨t, hx⟩),
   (let ⟨t, hx, _⟩ := ((((((h (sKey .pf rstJBase)).2).2).2).2).2).1; ⟨t, hx⟩),
   (let ⟨t, hx, _⟩ := (((((((h case45).2).2).2).2).2).2).1 3 (by decide +kernel) (by decide +kernel) (by decide +kernel); ⟨t, hx⟩),
   (let ⟨t, hx, _⟩ := (((((((h (sKey .pf rstJBase)).2).2).2).2).2).2).2; ⟨t, hx⟩)⟩

theorem met_EveryCommandHasANextState (h : Obligations.EveryCommandHasANextState) :
    (∃ t, exec .leakDetected State.reset = .next t) :=
  (h .leakDetected State.reset)

/-! ### Statements whose clauses need more than one command -/

theorem met_walkFailures (h : Obligations.WalksAndFaultServiceComplete) :
    (sMem.translate (.mc 0) 0 0 (2 ^ 48) .read).x = .fail clsAddress 0 0 false ∧
    (sMem.translate (.mc 0) 63 0 0x10008 .read).x = .fail clsContext 0 0 false :=
  ⟨((((h.1 (.mc 0) 0 0 (2 ^ 48) .read sMem _ rfl).2).2).1 (by decide +kernel)).1,
   ((((h.1 (.mc 0) 63 0 0x10008 .read sMem _ rfl).2).2).2 (by decide +kernel) (by decide +kernel)).1⟩

theorem met_clipOfZero (h : Obligations.CellarEnginesComplete) : clipOf 0 (f32 0x40C8_0000) = (0x4020_0000, 0x3F80_0000) :=
  ((h 0 State.reset State.reset 0 0 (ujob true) rfl).2).2 0 (f32 0x40C8_0000) 0x4020_0000 (by decide +kernel) (by decide +kernel)

theorem sPend_select : ∀ d, d < 5 → sPend.ctlSelect d 3 = if d = 4 then some 5 else none := by decide +kernel

theorem met_InterruptSelectionIsTheLowest (h : Obligations.InterruptSelectionIsTheLowest) :
    sPend.srcPending 4 5 = true ∧ sTaken.srcPending 4 5 = false ∧ sPend.ctlSelect 4 3 = some 5 ∧ sPend.irqTop 3 = some (4, 5) :=
  ⟨((h sPend).1 4 5).2 (by decide +kernel),
   Bool.eq_false_iff.2 (fun c => (((h sTaken).1 4 5).1 c).2.2.2 3 (by decide) (by decide +kernel)),
   ((((h sPend).2).1 4 3 _ (fun _ => Iff.rfl)).1 5).2 (by decide +kernel),
   ((((h sPend).2).2 3 (by decide +kernel)).1 4 5).2 ⟨by decide, by decide +kernel, fun d m hd e => by
     have x := sPend_select d hd
     rw [e] at x
     split at x
     · exact Or.inr ⟨(Option.some.inj x).symm, by omega⟩
     · cases x⟩⟩

theorem met_StepTakesTheFrontCommand (h : Obligations.StepTakesTheFrontCommand) :
    step sQueue = exec .leakDetected { sQueue with pending := [.perstNAssert] } ∧ step State.reset = .next State.reset :=
  ⟨h.1 _ _ sQueue rfl, h.2 State.reset rfl⟩

/-- The state after a step or a command, the reset state where there is none. -/
def stOf (o : Host.Outcome State Fault Refusal) : State := match o with | .next t => t | _ => State.reset

/-- Whether an outcome is a next state. -/
def isNext (o : Host.Outcome State Fault Refusal) : Bool := match o with | .next _ => true | _ => false

theorem eq_next_stOf {o : Host.Outcome State Fault Refusal} (h : isNext o = true) : o = .next (stOf o) := by
  cases o with
  | next t => rfl
  | fault f => cases h
  | refused r => cases h

theorem met_QueueIsServedInOrder (h : Obligations.QueueIsServedInOrder) : (stOf (step sQueue)).pending = [.perstNAssert] :=
  h sQueue (stOf (step sQueue)) (eq_next_stOf (by decide +kernel))

/-- A row of a tile space holds bytes, and a command that writes a table from it waits. -/
def sTtbl : State := { case3 with pending := [.ttbl 0 (fields [(51, 1)])] }

theorem met_MemoriesKeepTheirForm (h : Obligations.MemoriesKeepTheirForm) : (stOf (step sTtbl)).memWf = true :=
  h sTtbl (stOf (step sTtbl)) (by decide +kernel) (eq_next_stOf (by decide +kernel))

theorem met_GuardsOpenOnlyByUnlock (h : Obligations.GuardsOpenOnlyByUnlock) :
    (∃ off size v, Instr.unlockWrite (.fw 2) 0x201FF0 0xC3A5 = .registerWrite (.fw 2) off size v) ∨
      (∃ off v, Instr.unlockWrite (.fw 2) 0x201FF0 0xC3A5 = .unlockWrite (.fw 2) off v) ∨
      ∃ core w, Instr.unlockWrite (.fw 2) 0x201FF0 0xC3A5 = .riscvInstruction core w ∧ .fw 2 = fwOf (rvKey core) :=
  h (.unlockWrite (.fw 2) 0x201FF0 0xC3A5) State.reset (stOf (exec (.unlockWrite (.fw 2) 0x201FF0 0xC3A5) State.reset)) (.fw 2) pwrBase
    (eq_next_stOf (by decide +kernel)) (by decide +kernel) (by decide +kernel)

theorem met_ResetStateIsIdle (h : Obligations.ResetStateIsIdle) : State.reset.reg pwrBase = regReset pwrBase ∧ State.reset.pst 3 = 0 :=
  ⟨h.2.2.1 _, h.2.2.2.1 3 (by decide)⟩

/-! ### Commands that are not well formed are refused by `Instr.wf` -/

def pkt (flits : Nat) : MeshPacket := ⟨0, ⟨0, 0, 0⟩, .cell 0, .req, flits, 0, false⟩

theorem test_wf_flit : (Instr.dataFlit 0 (List.replicate 256 0)).wf = true ∧ (Instr.dataFlit 0 (List.replicate 255 0)).wf = false := by decide +kernel
theorem test_wf_payload : (Instr.put 0 0 (List.replicate 4096 0)).wf = true ∧ (Instr.put 0 0 (List.replicate 4097 0)).wf = false := by decide +kernel
theorem test_wf_answer : (Instr.fabricResponse 0 0 (List.replicate 4097 0)).wf = false := by decide +kernel
theorem test_wf_tree : (Instr.barrierArrive 0 0 (List.replicate 4097 0)).wf = false := by decide +kernel
theorem test_wf_packet : (Instr.gatewayAccept (.junction 0 0) (pkt 4)).wf = true ∧ (Instr.gatewayAccept (.junction 0 0) (pkt 0)).wf = false ∧
    (Instr.gatewayAccept (.junction 0 0) (pkt 5)).wf = false := by decide +kernel
theorem test_wf_room : (Instr.storeRoomAccess ⟨0, 5, .write, 0, List.replicate 128 0⟩).wf = true ∧
    (Instr.storeRoomAccess ⟨0, 5, .write, 0, List.replicate 127 0⟩).wf = false := by decide +kernel
theorem test_wf_sample : (Instr.powerControlStep sampleCtl).wf = true ∧
    (Instr.powerControlStep { sampleCtl with pdie := [500] }).wf = false ∧ (Instr.powerControlStep { sampleCtl with tdies := [] }).wf = false := by decide +kernel
theorem test_wf_record : (Instr.recalibrationComplete 0 cal0).wf = true ∧
    (Instr.recalibrationComplete 0 { cal0 with fmax := List.replicate 25 2000 }).wf = false := by decide +kernel
theorem test_wf_bar4 : (Instr.bar4Write 0 0 [0]).wf = true ∧ (Instr.bar4Write 0 0 []).wf = false ∧
    (Instr.bar4Write 0 0 (List.replicate 513 0)).wf = false := by decide +kernel

/-! ### Examples that the spec works out -/

/-- R81: the E2M1 element 0b0101 under the scale byte 0x7C is 0.375. -/
theorem test_e2m1_scaled : (widenEl 0 5 0x7C).1 = 0x3EC0_0000 := by decide +kernel

/-- The k-group example of the number formats: the two groups of four give 2 and 3.5. -/
theorem test_k_groups :
    (accGroup false 0 [(f32 0x4B80_0000, f32 0x3F80_0000), (f32 0x3F80_0000, f32 0x3F80_0000), (f32 0xCB80_0000, f32 0x3F80_0000), (f32 0x3F80_0000, f32 0x3F80_0000)]).1 = 0x4000_0000 ∧
    (accGroup false 0x4000_0000 [(f32 0x4000_0000, f32 0x3F40_0000), (f32 0x3080_0000, f32 0x3F80_0000), (f32 0, f32 0x3F80_0000), (f32 0, f32 0x3F80_0000)]).1 = 0x4060_0000 := by
  decide +kernel

/-- R105's example: 5.3 and -0.2 in E2M1 have the scale byte 0x7F and round to 6.0 and -0.0; 7.0 saturates to 6.0. -/
theorem test_block : (convBlock 0 false [(f32 0x40A9_999A, .rne), (f32 0xBE4C_CCCD, .rne)]) = ⟨0x7F, [7, 8], {}⟩ ∧
    (convBlock 0 false [(f32 0x40E0_0000, .rne)]) = ⟨0x7F, [7], { ovf := true }⟩ := by decide +kernel

/-- R108's example: 1.3 to E4M3 rounds up from r = 39,322 on. -/
theorem test_stochastic : (convVal 4 (.sr 39322) false false (f32 0x3FA6_6666)).code = (convVal 4 .rne false false (f32 0x3FB0_0000)).code ∧
    (convVal 4 (.sr 39321) false false (f32 0x3FA6_6666)).code = (convVal 4 .rne false false (f32 0x3FA0_0000)).code := by decide +kernel

/-- R153's examples: T3 has rows of 80 B, T7 has 128 scale bytes, block 1 of row 40 at byte 2,129. -/
theorem test_tile_rows : (⟨48, 40, 0xA, 0, 0⟩ : TileCfg).rs = 80 ∧ (⟨64, 64, 0, 0, 1⟩ : TileCfg).rs = 32 ∧ (⟨64, 64, 0, 0, 1⟩ : TileCfg).sb = 128 ∧
    (⟨64, 64, 0, 0, 1⟩ : TileCfg).scaleAt 40 32 = 2129 := by decide +kernel

/-- Every stack usable. -/
def sStacks : State := forEach (upTo 12) State.reset (fun s k => s.putF (hbmStF k) 1)

/-- The example of R271: physical address 0x9_0345_6780 stands on stack 6, chunk 787,548, channel 31, home 334, set 239. -/
theorem test_address : sStacks.decodePa 0x9_0345_6780 = some ⟨6, 787548⟩ ∧ (⟨6, 787548⟩ : Place).channel = 31 ∧ (⟨6, 787548⟩ : Place).home = 334 ∧
    (⟨6, 787548⟩ : Place).setOf (0x9_0345_6780 / 128) = 239 := by decide +kernel

/-- R662: MXC_CTL of matrix core 1,373 (MC 1 of cell 343). -/
theorem test_register_base : mxcBase 1373 = 0x0115_7100 := by decide +kernel

/-- The header of the example of the Chonen chapter. -/
theorem test_header : toLE 32 (mkHdr 1 16 9200 417 0x153 0xA07 0 12 256 0x7F40_0010_0000 0).toNat =
    [0x01, 0x10, 0xF0, 0x23, 0xA1, 0x01, 0x53, 0x01, 0x07, 0x0A, 0x00, 0x0C, 0, 1, 0, 0, 0, 0, 0x10, 0, 0x40, 0x7F, 0, 0, 0, 0, 0, 0, 0, 0, 0, 0] := by
  decide +kernel

/-- The example of MOVE_CELLS: arg 0x7878 names cells 120 to 179. -/
theorem test_move_cells : moveCells (cPo 2 5 3 0 0x7878 0 []) = (upTo 60).map (· + 120) := by decide +kernel

/-- R490's clip: norm 2.5 over 1.0 gives 0.4. -/
theorem test_clip : clipOf 0x3F80_0000 (f32 0x40C8_0000) = (0x4020_0000, 0x3ECC_CCCD) := by decide +kernel

/-- R656: the first write to the group closes the guard; with it closed a write is counted as refused, as in the register chapter's example. -/
theorem test_guard_once : (stOf (exec (.registerWrite .pf 0x201120 8 0) (sKey .pf pwrBase))).guardOpen .pf pwrBase = false := by decide +kernel
theorem test_refused_count : (fld ((stOf (exec (.registerWrite .pf 0x201110 8 0x123) State.reset)).reg (cfgBase + 0x10)) 16 16,
    fld ((stOf (exec (.registerWrite .pf 0x201110 8 0x123) State.reset)).reg (cfgBase + 0x10)) 32 23,
    fld ((stOf (exec (.registerWrite .pf 0x201110 8 0x123) State.reset)).reg (cfgBase + 0x10)) 55 1) = (1, 0x4_0222, 1) := by decide +kernel

end Sys2Proof.Tests
end

section
/-! What the power manager, the audit log and the boot chain leave as it was. -/

namespace Sys2Proof.Machine

/-- What each step of a list keeps, the list keeps. -/
theorem forEach_keeps {α σ β : Type} (p : σ → β) (l : List α) (s : σ) (f : σ → α → σ) (h : ∀ s a, p (f s a) = p s) :
    p (forEach l s f) = p s :=
  List.foldlRecOn (motive := fun t => p t = p s) l f rfl (fun t ht a _ => (h t a).trans ht)

/-! ### The audit log and FAULT_N -/

variable (s : State)

/-- A record of the audit log changes the log and the deputy's copy of it only (R619, R640). -/
theorem audit_shape (ty who : Nat) (data : List Nat) :
    s.audit ty who data = { s with
      mgmt := (s.audit ty who data).mgmt
      recovery := { s.recovery with deferredAudit := (s.audit ty who data).recovery.deferredAudit } } := by
  unfold State.audit
  split <;> rfl

@[simp] theorem audit_reg (ty who : Nat) (data : List Nat) (k : Nat) : (s.audit ty who data).reg k = s.reg k := by
  rw [audit_shape]; rfl

@[simp] theorem audit_getF (ty who : Nat) (data : List Nat) (f : RF) : (s.audit ty who data).getF f = s.getF f := by
  simp [State.getF]

/-- An assertion of FAULT_N with its cause changes its flag, MGT_FAULT and the audit log only (R32, R34). -/
theorem faultCause_shape (c : Nat) :
    s.faultCause c = { s with
      regs := (s.faultCause c).regs, mgmt := (s.faultCause c).mgmt
      power := { s.power with faultN := true, causes := s.power.causes ||| (1#6 <<< c) }
      recovery := { s.recovery with deferredAudit := (s.faultCause c).recovery.deferredAudit } } := by
  rw [State.faultCause, audit_shape]
  rfl

/-- A cause of FAULT_N is written into MGT_FAULT and nowhere else (R34, R643). -/
theorem faultCause_reg (c k : Nat) :
    (s.faultCause c).reg k = if k = mgtBase + 0x20 then setFld (s.reg (mgtBase + 0x20)) c 1 1 else s.reg k := by
  rw [State.faultCause, audit_reg, State.putF_reg]
  rfl

/-! ### Sensors -/

/-- A new reading of a sensor changes what management knows and may send an event: nothing else (R628, R629). -/
theorem sense_shape (n : Nat) (v : Int) : s.sense n v = { s with mgmt := (s.sense n v).mgmt, out := (s.sense n v).out } := by
  unfold State.sense State.checkSensor State.tellSensor
  dsimp only
  repeat' split
  all_goals rfl

@[simp] theorem sense_reg (n : Nat) (v : Int) (k : Nat) : (s.sense n v).reg k = s.reg k := by rw [sense_shape]; rfl

@[simp] theorem sense_getF (n : Nat) (v : Int) (f : RF) : (s.sense n v).getF f = s.getF f := by simp [State.getF]

@[simp] theorem sense_power (n : Nat) (v : Int) : (s.sense n v).power = s.power := by rw [sense_shape]

/-! ### The effective ceiling (R589) -/

/-- Requests before a share is lowered: posted, and awaited (R602). -/
theorem askPower_shape (reason p present : Nat) :
    s.askPower reason p present = { s with
      power := { s.power with reqs := (s.askPower reason p present).power.reqs }
      host := { s.host with events := (s.askPower reason p present).host.events } } := by
  unfold State.askPower State.postRequest
  dsimp only
  repeat' split
  all_goals rfl

/-- What a change of the ceiling reaches: PWR_STAT, the shares with their requests, and sensor 24. -/
def CeilingStep (s t : State) : Prop :=
  t = { s with
    regs := t.regs, mgmt := t.mgmt, out := t.out, host := { s.host with events := t.host.events }
    power := { s.power with reqs := t.power.reqs, share := t.power.share } } ∧
  OtherRegs [pwrBase + 0x10] s t

theorem CeilingStep.refl : CeilingStep s s := ⟨rfl, fun _ _ => rfl⟩

variable {s} in
theorem CeilingStep.trans {t u : State} (h : CeilingStep s t) (g : CeilingStep t u) : CeilingStep s u :=
  ⟨by have a := h.1; have b := g.1; rw [b, a], fun k hk => (g.2 k hk).trans (h.2 k hk)⟩

theorem CeilingStep.putF (f : RF) (x : Nat) (h : f.key = pwrBase + 0x10) : CeilingStep s (s.putF f x) :=
  ⟨rfl, fun k hk => by rw [State.putF_reg, if_neg (by simpa [h] using hk)]⟩

theorem CeilingStep.sense (n : Nat) (v : Int) : CeilingStep s (s.sense n v) :=
  ⟨by rw [sense_shape], fun k _ => sense_reg s n v k⟩

theorem CeilingStep.askPower (reason p present : Nat) : CeilingStep s (s.askPower reason p present) :=
  ⟨by rw [askPower_shape], fun k _ => by rw [askPower_shape]; rfl⟩

/-- The ceiling in force depends on what a change of it does not reach (R589). -/
theorem CeilingStep.effective {s t : State} (h : CeilingStep s t) : t.effective = s.effective := by
  have hc : t.getF ceilF = s.getF ceilF := congrArg (fld · _ _) (h.2 _ (by decide))
  have hk : t.getF capF = s.getF capF := congrArg (fld · _ _) (h.2 _ (by decide))
  have hp : t.power = { s.power with reqs := t.power.reqs, share := t.power.share } := by rw [h.1]
  rw [State.effective, State.effective, hc, hk, hp]

/-- Recomputing E changes PWR_STAT, the shares with their requests, and sensor 24 only. -/
theorem ceilingStep_updE : CeilingStep s s.updE := by
  unfold State.updE
  dsimp only
  have h1 := CeilingStep.putF s limitF s.effective.2 rfl
  split
  · exact h1
  · have h2 := h1.trans (CeilingStep.putF _ effF s.effective.1 rfl)
    have h3 := h2.trans (CeilingStep.putF _ fgF (((s.putF limitF s.effective.2).putF effF s.effective.1).fgAt s.effective.1 * 25 / 2) rfl)
    have h4 := h3.trans (CeilingStep.sense _ 24 s.effective.1)
    split
    · exact List.foldlRecOn (motive := CeilingStep s) _ _ h4 (fun t ht x _ => ht.trans (CeilingStep.askPower t _ _ _))
    · exact h4.trans ⟨rfl, fun _ _ => rfl⟩

/-- E is a number of 16 bits. -/
theorem effective_lt : s.effective.1 < 2 ^ 16 := by
  have hc : s.getF ceilF < 2 ^ 16 := Nat.mod_lt _ (by decide)
  unfold State.effective
  dsimp only
  repeat' split
  all_goals simp_all
  all_goals omega

/-- A reversed flow caps E at 2,000 W (R41). -/
theorem effective_le_of_revFlow (h : s.power.revFlow = true) : s.effective.1 ≤ 2000 := by
  have capped : ∀ x : Nat × Nat, (if s.power.revFlow = true ∧ 2000 < x.1 then ((2000, 3) : Nat × Nat) else x).1 ≤ 2000 := by
    intro x
    split
    · exact Nat.le_refl 2000
    · next hn => exact Nat.le_of_not_lt (fun hlt => hn ⟨h, hlt⟩)
  exact capped _

/-- Once E is recomputed, PWR_STAT shows it (R605). -/
theorem updE_eff : s.updE.getF effF = s.updE.effective.1 := by
  rw [(ceilingStep_updE s).effective]
  have h1 : (s.putF limitF s.effective.2).getF effF = s.getF effF := State.putF_getF_ne _ _ _ _ (by decide)
  unfold State.updE
  dsimp only
  split
  · rename_i he
    rw [h1, he]
  · have h2 : (((s.putF limitF s.effective.2).putF effF s.effective.1).putF fgF
        (((s.putF limitF s.effective.2).putF effF s.effective.1).fgAt s.effective.1 * 25 / 2)).getF effF = s.effective.1 := by
      rw [State.putF_getF_ne _ _ _ _ (by decide), State.putF_getF_same _ _ _ (by decide)]
      exact Nat.mod_eq_of_lt (effective_lt s)
    split
    · exact (forEach_keeps (fun t : State => t.getF effF) _ _ _ (fun t x => by rw [askPower_shape]; rfl)).trans ((sense_getF _ _ _ _).trans h2)
    · exact (sense_getF _ _ _ _).trans h2

end Sys2Proof.Machine
end

section
/-! Management messages: what a served message answers (R22, R625-R629). -/

namespace Sys2Proof.Machine

/-- A message that is served does what its handler does in the state that has received it (R612, R619). -/
theorem message_of_served {b : Binding} {rom : Bool} {s u : State} (h : Served b rom s u) (f : State → State) :
    s.message b rom f = .next (f u) := by
  obtain ⟨hup, rfl, hctl, hrom⟩ := h
  have hr : ((s.raiseM 14).romRecovery && !(rom && b == .i3c)) = false := by
    rcases hrom with hrom | ⟨rfl, rfl⟩
    · simp [hrom]
    · simp
  simp only [State.message, when, hup, hctl, hr, if_true, Bool.false_or, Bool.false_eq_true, if_false]

/-- A message over MCTP that is served does what its handler does (R625). -/
theorem mctp_of_served {b : Binding} {rom : Bool} {s u : State} (h : ServedMctp b rom s u) (f : State → State) :
    s.mctp b rom f = .next (f u) := by
  obtain ⟨hs, hb, he⟩ := h
  rw [State.mctp, message_of_served hs]
  simp [hb, he]

/-- A handler that ends in an answer replies with it, when the message is served. -/
theorem mctp_replies {b : Binding} {rom : Bool} {s u : State} (h : ServedMctp b rom s u) (f : State → State) (v : State) (kind : Nat)
    (data : List Nat) (hf : f u = v.mgReply b kind data) : ∃ t, s.mctp b rom f = .next t ∧ Replies b kind data v t :=
  ⟨_, mctp_of_served h f, hf ▸ replies v b kind data⟩

theorem mgReply_eid (s : State) (b c : Binding) (kind : Nat) (data : List Nat) : (s.mgReply b kind data).eid c = s.eid c := by
  cases b <;> rfl

/-- ENTDAA: the first dynamic address is taken, and the slot bits are told (R22). -/
theorem entdaa_effect (a : BitVec 7) (s : State) (h : s.mgmt.address = none) :
    ∃ t, exec (.entdaa a) s = .next t ∧
      t = { s with mgmt := { s.mgmt with address := some a }, out := s.out ++ [.mgmt .i3c 1 [s.power.straps.toNat]] } := by
  refine ⟨_, rfl, ?_⟩
  rw [h]
  rfl

/-- SET_ENDPOINT_ID: an ID is assigned; 0 and 255 are refused (R625, log entry 50). -/
theorem setEndpointId_effect (b : Binding) (e : BitVec 8) {s u : State} (h : Served b true s u) (hb : b ≠ .doe) :
    (e ≠ 0 → e ≠ 255 → ∃ t, exec (.setEndpointId b e) s = .next t ∧ t.eid b = e.toNat ∧
      Replies b 2 [0, e.toNat] { u with mgmt := { u.mgmt with eids := mset 0 u.mgmt.eids (bindingNo b) e } } t) ∧
    (e = 0 ∨ e = 255 → ∃ t, exec (.setEndpointId b e) s = .next t ∧ Replies b 2 [5] u t) := by
  have hx : exec (.setEndpointId b e) s = .next (if e = 0 ∨ e = 255 then u.mgReply b 2 [5] else
      ({ u with mgmt := { u.mgmt with eids := mset 0 u.mgmt.eids (bindingNo b) e } } : State).mgReply b 2 [0, e.toNat]) := by
    rw [show exec (.setEndpointId b e) s = execSetEndpointId b e s from rfl, execSetEndpointId, message_of_served h,
      if_neg (by simpa using hb)]
    rfl
  rw [hx]
  constructor
  · intro h0 h1
    refine ⟨_, rfl, ?_⟩
    rw [if_neg (not_or.mpr ⟨h0, h1⟩)]
    exact ⟨by rw [mgReply_eid]; simp [State.eid], replies _ b 2 _⟩
  · intro he
    refine ⟨_, rfl, ?_⟩
    rw [if_pos he]
    exact replies u b 2 _

/-- GET_ENDPOINT_ID answers the ID in force (R625). -/
theorem getEndpointId_effect (b : Binding) {s u : State} (h : Served b true s u) (hb : b ≠ .doe) :
    ∃ t, exec (.getEndpointId b) s = .next t ∧ Replies b 3 [0, u.eid b] u t := by
  rw [show exec (.getEndpointId b) s = execGetEndpointId b s from rfl, execGetEndpointId, message_of_served h, if_neg (by simpa using hb)]
  exact ⟨_, rfl, replies u b 3 _⟩

/-- GET_MCTP_VERSION_SUPPORT: of a supported type a free value is taken for the versions (R626, log entry 50). -/
theorem getMctpVersionSupport_effect (b : Binding) {s u : State} (h : ServedMctp b true s u) :
    (∀ ty : BitVec 8, ty ∈ [0, 1, 5, 0xFF] → ∃ t v, exec (.getMctpVersionSupport b ty) s = .next t ∧
      Replies b 5 [0, u.freshVal.toNat] u v ∧ t = { v with freeCtr := v.freeCtr + 1 }) ∧
    (∀ ty : BitVec 8, ty ∉ [0, 1, 5, 0xFF] → ∃ t, exec (.getMctpVersionSupport b ty) s = .next t ∧ Replies b 5 [1] u t) := by
  have known : ∀ ty : BitVec 8, (mctpTypes.contains ty.toNat || ty == 0xFF) = decide (ty ∈ [0, 1, 5, 0xFF]) := by decide
  have hx : ∀ ty, exec (.getMctpVersionSupport b ty) s = .next (if decide (ty ∈ [0, 1, 5, 0xFF]) = true then
      (u.mgReply b 5 [0, u.freshVal.toNat]).tickFree else u.mgReply b 5 [1]) := by
    intro ty
    rw [show exec (.getMctpVersionSupport b ty) s = execGetMctpVersionSupport b ty s from rfl, execGetMctpVersionSupport,
      mctp_of_served h, known]
    rfl
  constructor
  · intro ty hty
    exact ⟨_, _, (hx ty).trans (by rw [if_pos (by simpa using hty)]; rfl), replies u b 5 _, rfl⟩
  · intro ty hty
    exact ⟨_, (hx ty).trans (by rw [if_neg (by simpa using hty)]), replies u b 5 _⟩

/-- The readings of the numeric sensors are answered, and of no others (R628). -/
theorem getSensorReading_effect (b : Binding) (n : BitVec 16) {s u : State} (h : ServedMctp b false s u) :
    (isSensor n.toNat = true → ∃ t, exec (.getSensorReading b n) s = .next t ∧
      Replies b 8 [0, mget 0 u.mgmt.sensors n.toNat, u.sensorLevel n.toNat] u t) ∧
    (isSensor n.toNat = false → ∃ t, exec (.getSensorReading b n) s = .next t ∧ Replies b 8 [5] u t) := by
  rw [show exec (.getSensorReading b n) s = execGetSensorReading b n s from rfl, execGetSensorReading]
  refine ⟨fun hn => mctp_replies h _ u _ _ ?_, fun hn => mctp_replies h _ u _ _ ?_⟩ <;> simp [hn, mgOk, mgInvalid]

/-- The states of the state sensors are answered (R629). -/
theorem getStateSensorReadings_effect (b : Binding) (n : BitVec 16) {s u : State} (h : ServedMctp b false s u)
    (hn : isStateSensor n.toNat = true) :
    ∃ t, exec (.getStateSensorReadings b n) s = .next t ∧ Replies b 9 [0, u.sensorLevel n.toNat] u t := by
  rw [show exec (.getStateSensorReadings b n) s = execGetStateSensorReadings b n s from rfl, execGetStateSensorReadings]
  exact mctp_replies h _ u _ _ (if_pos hn)

/-- A poll takes the oldest event kept, or says that there is none (R628). -/
theorem platformEventMessage_effect (b : Binding) {s u : State} (h : ServedMctp b false s u) :
    (∀ x r, u.mgmt.polled = x :: r → ∃ t, exec (.platformEventMessage b) s = .next t ∧
      Replies b 11 (0 :: x) { u with mgmt := { u.mgmt with polled := r } } t) ∧
    (u.mgmt.polled = [] → ∃ t, exec (.platformEventMessage b) s = .next t ∧ Replies b 11 [0] u t) := by
  rw [show exec (.platformEventMessage b) s = execPlatformEventMessage b s from rfl, execPlatformEventMessage]
  exact ⟨fun x r hp => mctp_replies h _ _ _ _ (by rw [hp]; rfl), fun hp => mctp_replies h _ u _ _ (by rw [hp]; rfl)⟩

/-! ### The cause of a warm reset (R606, R610) -/

variable (s : State)

theorem setBooted_reg (c r : Nat) (i : Option Image) (k : Nat) : (s.setBooted c r i).reg k = s.reg k := rfl

/-- Verifying a component changes no register. -/
theorem bootComp_reg (c k : Nat) : (s.bootComp c).1.reg k = s.reg k := by
  unfold State.bootComp
  dsimp only
  repeat' split
  all_goals simp [setBooted_reg]

/-- The boot chain writes the outcome of the boot into RST_CAUSE, and keeps the cause of the reset (R612). -/
theorem bootChain_cause : s.bootChain.getF causeF = s.getF causeF := by
  unfold State.bootChain
  refine (forEach_keeps (fun t : State => t.getF causeF) _ _ _ (fun t c => ?_)).trans
    (forEach_keeps (fun t : State => t.getF causeF) _ s _ (fun _ _ => rfl))
  have hc : (t.bootComp c).1.getF causeF = t.getF causeF := congrArg (fld · _ _) (bootComp_reg t c _)
  dsimp only
  split
  · rfl
  · split
    · exact hc
    · show (((t.bootComp c).1.putF bootFailF 1).putF bootImageF c).getF causeF = t.getF causeF
      rw [State.putF_getF_ne _ _ _ _ (by decide), State.putF_getF_ne _ _ _ _ (by decide), hc]

theorem finishBoot_reg (k : Nat) : s.finishBoot.reg k = s.reg k := by
  unfold State.finishBoot
  split <;> rfl

/-- The settings and the module number stand outside RST_CAUSE. -/
theorem loadSettings_cause : s.loadSettings.numberNow.getF causeF = s.getF causeF := by
  simp (disch := decide) only [State.loadSettings, State.numberNow, State.putB, State.putF_getF_ne]

/-- RST_CAUSE tells the cause of the latest warm reset (R610). -/
theorem warmReset_cause (cause : Nat) (straps : BitVec 5) (h : cause < 8) : (s.warmReset cause straps).getF causeF = cause := by
  have kept : ∀ (t : State) (l : List Nat), (forEach l t (fun s c => s.faultCause c)).loadSettings.numberNow.bootChain.finishBoot.updE.getF causeF
      = t.getF causeF := by
    intro t l
    have hf : (forEach l t (fun s c => s.faultCause c)).getF causeF = t.getF causeF :=
      forEach_keeps (fun t : State => t.getF causeF) _ _ _ (fun t c => congrArg (fld · _ _) (by rw [faultCause_reg]; rfl))
    rw [State.getF, (ceilingStep_updE _).2 _ (by decide), finishBoot_reg]
    exact (bootChain_cause _).trans ((loadSettings_cause _).trans hf)
  unfold State.warmReset
  rw [kept, State.putF_getF_ne _ _ _ _ (by decide), State.putF_getF_same _ _ _ (by decide)]
  exact Nat.mod_eq_of_lt h

/-- A reset request is answered, and then carried out with its cause (R606, R627). -/
theorem pldmResetRequest_effect (b : Binding) (st : BitVec 5) {s u : State} (h : ServedMctp b false s u) :
    ∃ t v, exec (.pldmResetRequest b st) s = .next t ∧ Replies b 7 [0] u v ∧ t = v.warmReset 2 st ∧ t.getF causeF = 2 := by
  rw [show exec (.pldmResetRequest b st) s = execPldmResetRequest b st s from rfl, execPldmResetRequest, mctp_of_served h]
  exact ⟨_, _, rfl, replies u b 7 _, rfl, warmReset_cause _ 2 st (by decide)⟩

end Sys2Proof.Machine

open Sys2Proof Sys2Proof.Machine

/-- Settles O50: every message is received alike (`message_of_served`, `mctp_of_served`), and each handler's answer is read off. -/
theorem managementControlComplete : Obligations.ManagementControlComplete := by
  unfold Obligations.ManagementControlComplete
  intro b s u
  refine ⟨fun a h => entdaa_effect a s h, fun e h hb => setEndpointId_effect b e h hb, fun h hb => getEndpointId_effect b h hb,
    fun h => ⟨mctp_replies h (fun u => u.mgReply b 4 [0, Config.uuid]) u _ _ rfl, (getMctpVersionSupport_effect b h).1,
      (getMctpVersionSupport_effect b h).2, mctp_replies h (fun u => u.mgReply b 6 [0, 0, 1, 5]) u _ _ rfl⟩,
    fun h => ⟨fun st => pldmResetRequest_effect b st h,
      fun n => ⟨(getSensorReading_effect b n h).1, (getSensorReading_effect b n h).2, getStateSensorReadings_effect b n h⟩,
      fun e m => ?_, (platformEventMessage_effect b h).1, (platformEventMessage_effect b h).2⟩⟩
  exact mctp_replies h (fun u => ({ u with mgmt := { u.mgmt with receiver := some (b, e, m) } } : State).mgReply b 10 [0]) _ _ _ rfl
end

section
/-! The power input, leaks, rails, flow and clocks: what each event changes and leaves as it was (R29-R41). -/

namespace Sys2Proof.Machine

/-! ### Registers given back their reset values -/

/-- A key that a filter drops is unlisted, every other key reads as before. -/
theorem mgetF_filter {α : Type} (d : Nat → α) (p : Nat → Bool) (k : Nat) : ∀ m : SMap α,
    mgetF d (m.filter (fun e => !p e.1)) k = if p k then d k else mgetF d m k
  | [] => by simp
  | (j, v) :: r => by
    have ih := mgetF_filter d p k r
    simp only [mgetF] at ih
    simp only [mgetF, List.filter_cons, mfind]
    by_cases hj : p j = true <;> by_cases e : j = k
    · subst e; simp [hj, ih]
    · simp [hj, e, ih]
    · subst e; simp [hj, mfind]
    · simp [hj, e, mfind, ih]

/-- Registers after those that meet a test are given their reset values. -/
theorem State.resetRegs_reg (s : State) (p : Nat → Bool) (k : Nat) :
    (s.resetRegs p).reg k = if p k then regReset k else s.reg k := mgetF_filter _ _ _ _

variable (s : State)

/-- Power removed from the dies gives their registers back their reset values (R30). -/
theorem railsOff_reg (k : Nat) : s.railsOff.reg k = if isDieKey k then regReset k else s.reg k :=
  s.resetRegs_reg isDieKey k

/-! ### Flags of the module (R570, R581) -/

theorem raiseM_reg_ne (b k : Nat) (hb : b < 64) (hk : k ∉ (mstatHome b).keys) : (s.raiseM b).reg k = s.reg k :=
  (onlyRaised s (mstatHome b) (mstatHome_apart b hb).1 hb).2.1 k hk

theorem raiseM_set (b : Nat) (hb : b < 64) : (s.raiseM b).getB ⟨irqJBase + 0x2000, b, 1⟩ = true :=
  (onlyRaised s (mstatHome b) (mstatHome_apart b hb).1 hb).2.2

/-- An event raised over a change of the power state alone. -/
theorem raiseM_power_shape (p : PowerState) (b : Nat) (t : State) (ht : t = ({ s with power := p } : State).raiseM b) :
    t = { s with regs := t.regs, irq := { s.irq with routed := t.irq.routed }, power := p } := by
  rw [ht, State.raiseM, raiseAt_shape]

/-! ### Ceilings after an event (R29, R41, R589) -/

/-- A change of the power state with its event, after which E is recomputed: the event stands, PWR_STAT shows E, and nothing differs
but what a change of the ceiling reaches. -/
theorem raised_updE (p : PowerState) (b : Nat) (hb : b < 64) (t : State) (ht : t = (({ s with power := p } : State).raiseM b).updE) :
    t.power = { p with reqs := t.power.reqs, share := t.power.share } ∧
    t.getB ⟨irqJBase + 0x2000, b, 1⟩ = true ∧ t.getF effF = t.effective.1 ∧
    t = { s with regs := t.regs, irq := { s.irq with routed := t.irq.routed }, power := t.power, mgmt := t.mgmt, out := t.out,
                 host := { s.host with events := t.host.events } } := by
  obtain ⟨hc, hr⟩ := ceilingStep_updE (({ s with power := p } : State).raiseM b)
  have hs := raiseM_power_shape s p b _ rfl
  rw [← ht] at hc hr
  have hf : t.reg (irqJBase + 0x2000) = _ := hr _ (by decide)
  refine ⟨congrArg State.power hc, ?_, ht ▸ updE_eff _, ?_⟩
  · rw [State.getB, State.getF, hf]
    exact raiseM_set _ b hb
  · generalize ({ s with power := p } : State).raiseM b = x at hc hs
    rw [hc, hs]

/-! ### FAULT_N with an event (R32, R34) -/

/-- A cause of FAULT_N with its event: the cause stands in MGT_FAULT, the event in its flag, and nothing else differs but the audit log. -/
theorem faultCause_raiseM (c b : Nat) (hc : c < 6) (hb : b < 64) (t : State) (ht : t = (s.faultCause c).raiseM b) :
    t.getB ⟨irqJBase + 0x2000, b, 1⟩ = true ∧ t.getB ⟨mgtBase + 0x20, c, 1⟩ = true ∧
    OtherRegs ((mgtBase + 0x20) :: (mstatHome b).keys) s t ∧
    t = { s with
      regs := t.regs, irq := { s.irq with routed := t.irq.routed }, mgmt := t.mgmt
      power := { s.power with faultN := true, causes := s.power.causes ||| (1#6 <<< c) }
      recovery := { s.recovery with deferredAudit := t.recovery.deferredAudit } } := by
  subst ht
  have hm : mgtBase + 0x20 ∉ (mstatHome b).keys := by
    simp only [FlagHome.keys, mstatHome, List.mem_cons, List.not_mem_nil, or_false, mgtBase, irqJBase]
    omega
  refine ⟨raiseM_set _ b hb, ?_, ?_, ?_⟩
  · rw [State.getB, State.getF, raiseM_reg_ne _ _ _ hb hm, faultCause_reg, if_pos rfl, fld_setFld_same _ _ _ _ (by omega)]
    rfl
  · intro k hk
    obtain ⟨h1, h2⟩ := not_or.mp (fun h => hk (List.mem_cons.mpr h))
    rw [raiseM_reg_ne _ _ _ hb h2, faultCause_reg, if_neg h1]
  · rw [State.raiseM, raiseAt_shape, faultCause_shape]

/-! ### The fabric clock (R38, R401) -/

/-- A step of the loss of the fabric clock at port m (R38, R407). -/
def loseClock (s : State) (m : Nat) : State := if s.pst m = psDisabled then s else s.toDetect m

theorem loseClock_of_ne (m : Nat) (h : s.pst m ≠ 0) : loseClock s m = s.toDetect m := if_neg h

/-- Port n, its CHN_PSTAT with it, reads as it did. -/
def SamePort (n : Nat) (s t : State) : Prop := t.reg (portKey n + 8) = s.reg (portKey n + 8) ∧ t.port n = s.port n

theorem SamePort.trans {n : Nat} {s t u : State} (h : SamePort n s t) (g : SamePort n t u) : SamePort n s u :=
  ⟨g.1.trans h.1, g.2.trans h.2⟩

theorem SamePort.getF {n : Nat} {s t : State} (h : SamePort n s t) (lo len : Nat) :
    t.getF ⟨portKey n + 8, lo, len⟩ = s.getF ⟨portKey n + 8, lo, len⟩ := congrArg (fld · lo len) h.1

/-- A port's own entry into DETECT reaches no other port. -/
theorem samePort_toDetect (n m : Nat) (hn : n < 18) (hm : m < 18) (hne : n ≠ m) : SamePort n s (s.toDetect m) := by
  obtain ⟨-, hr, -, -, -, hp⟩ := inDetect s m (by omega)
  refine ⟨hr _ ?_, hp n hne⟩
  split <;> simp [FlagHome.keys, pstatHome, portKey, chnBase, irqJBase] <;> omega

/-- The loss of the clock at another port, or at a disabled one, leaves port n as it was. -/
theorem samePort_loseClock (n m : Nat) (hn : n < 18) (hm : m < 18) (h : n ≠ m ∨ s.pst n = 0) : SamePort n s (loseClock s m) := by
  unfold loseClock
  split
  · exact ⟨rfl, rfl⟩
  · next hd =>
    rcases h with h | h
    · exact samePort_toDetect s n m hn hm h
    · exact samePort_toDetect s n m hn hm (fun e => hd (e ▸ h))

/-- A port in DETECT with no lane active. -/
def AtDetect (n : Nat) (s : State) : Prop := s.pst n = 1 ∧ s.getF (pstLanes n) = 0

theorem atDetect_toDetect (n : Nat) (hn : n < 18) : AtDetect n (s.toDetect n) := by
  obtain ⟨-, -, hr, -⟩ := inDetect s n (by omega)
  have apart : ∀ v : Word, fld (setFld (setFld (setFld (setFld v 4 2 3) 6 4 0) 0 4 1) 11 1 0) 0 4 = 1 ∧
      fld (setFld (setFld (setFld (setFld v 4 2 3) 6 4 0) 0 4 1) 11 1 0) 6 4 = 0 := by
    intro v
    rw [fld_setFld_ne _ _ _ _ _ _ (by decide), fld_setFld_same _ _ _ _ (by decide), fld_setFld_ne _ _ _ _ _ _ (by decide),
      fld_setFld_ne _ _ _ _ _ _ (by decide), fld_setFld_same _ _ _ _ (by decide)]
    exact ⟨rfl, rfl⟩
  rw [AtDetect, State.pst, State.getF, State.getF, pstState, pstLanes, hr]
  exact apart _

/-- A port in DETECT stays there. -/
theorem atDetect_loseClock (n m : Nat) (hn : n < 18) (hm : m < 18) (h : AtDetect n s) : AtDetect n (loseClock s m) := by
  by_cases e : n = m
  · subst e
    rw [loseClock_of_ne _ _ (by rw [h.1]; decide)]
    exact atDetect_toDetect s n hn
  · have k := samePort_loseClock s n m hn hm (.inl e)
    exact ⟨(k.getF 0 4).trans h.1, (k.getF 6 4).trans h.2⟩

/-- The loss of the clock at a list of ports: a disabled port is as it was, a listed one that was not disabled is in DETECT. -/
theorem loseClock_ports (n : Nat) (hn : n < 18) (l : List Nat) (hl : ∀ m ∈ l, m < 18) : ∀ s : State,
    (s.pst n = 0 → SamePort n s (forEach l s loseClock)) ∧
    (s.pst n ≠ 0 → n ∈ l → AtDetect n (forEach l s loseClock)) := by
  intro s
  constructor
  · intro h0
    refine (List.foldlRecOn (motive := fun t => SamePort n s t) l loseClock ⟨rfl, rfl⟩ (fun t ht m hm => ?_))
    exact ht.trans (samePort_loseClock t n m hn (hl m hm) (.inr ((ht.getF 0 4).trans h0)))
  · intro h0 hmem
    obtain ⟨l1, l2, rfl⟩ := List.append_of_mem hmem
    have before : (forEach l1 s loseClock).pst n ≠ 0 := by
      refine List.foldlRecOn (motive := fun t => t.pst n ≠ 0) l1 loseClock h0 (fun t ht m hm => ?_)
      by_cases e : n = m
      · subst e
        rw [loseClock_of_ne _ _ ht, (atDetect_toDetect t n hn).1]
        decide
      · rw [State.pst, pstState, (samePort_loseClock t n m hn (hl m (by simp [hm])) (.inl e)).getF]
        exact ht
    have here : AtDetect n (loseClock (forEach l1 s loseClock) n) := by
      rw [loseClock_of_ne _ _ before]
      exact atDetect_toDetect _ n hn
    rw [forEach, List.foldl_append]
    exact List.foldlRecOn (motive := AtDetect n) l2 loseClock here
      (fun t ht m hm => atDetect_loseClock t n m hn (hl m (by simp [hm])) ht)

/-- Nothing but registers, ports and the counts of sets differs. -/
def PortsStep (s t : State) : Prop := t = { s with regs := t.regs, irq := { s.irq with routed := t.irq.routed }, ports := t.ports }

theorem PortsStep.refl : PortsStep s s := rfl

theorem portsStep_loseClock (t : State) (m : Nat) (hm : m < 18) (h : PortsStep s t) : PortsStep s (loseClock t m) := by
  unfold loseClock
  split
  · exact h
  · have hd := (inDetect t m (by omega)).1
    generalize t.toDetect m = u at hd
    unfold PortsStep at *
    rw [hd, h]

theorem loseClock_shape (l : List Nat) (hl : ∀ m ∈ l, m < 18) : PortsStep s (forEach l s loseClock) :=
  List.foldlRecOn (motive := PortsStep s) l loseClock (PortsStep.refl s) (fun t ht m hm => portsStep_loseClock s t m (hl m hm) ht)

/-- FAB_REFCLK_LOSS: every port but the disabled ones enters DETECT, with one event (R38, R407). -/
theorem fabRefclkLoss_effect :
    ∃ t, exec .fabRefclkLoss s = .next t ∧ t.power = { s.power with fabClk := false } ∧ t.getB ⟨irqJBase + 0x2000, 5, 1⟩ = true ∧
      (∀ n, n < 18 → s.pst n ≠ 0 → t.pst n = 1 ∧ t.getF (pstLanes n) = 0) ∧ (∀ n, n < 18 → s.pst n = 0 → t.pst n = 0 ∧ t.port n = s.port n) ∧
      t = { s with regs := t.regs, irq := { s.irq with routed := t.irq.routed }, power := t.power, ports := t.ports } := by
  have hl : ∀ m ∈ upTo 18, m < 18 := fun m hm => List.mem_range.mp hm
  have shape : PortsStep s (forEach (upTo 18) s loseClock) := loseClock_shape s (upTo 18) hl
  have ports := fun n hn => loseClock_ports n hn (upTo 18) hl s
  refine ⟨({ forEach (upTo 18) s loseClock with power := { (forEach (upTo 18) s loseClock).power with fabClk := false } } : State).raiseM 5,
    by rw [show exec .fabRefclkLoss s = execFabRefclkLoss s from rfl]; unfold execFabRefclkLoss loseClock; rfl, ?_⟩
  unfold PortsStep at shape
  generalize forEach (upTo 18) s loseClock = u at shape ports ⊢
  have hp : u.power = s.power := by rw [shape]
  have flag := raiseM_power_shape u { u.power with fabClk := false } 5 _ rfl
  have same : ∀ n, n < 18 → SamePort n u (({ u with power := { u.power with fabClk := false } } : State).raiseM 5) := by
    intro n hn
    refine ⟨raiseM_reg_ne _ 5 _ (by decide) ?_, rfl⟩
    simp only [FlagHome.keys, mstatHome, portKey, chnBase, irqJBase, List.mem_cons, List.not_mem_nil, or_false]
    omega
  have set5 := raiseM_set ({ u with power := { u.power with fabClk := false } } : State) 5 (by decide)
  generalize ({ u with power := { u.power with fabClk := false } } : State).raiseM 5 = t at flag same set5 ⊢
  refine ⟨by rw [flag, hp], set5, ?_, ?_, by rw [flag, shape]⟩
  · intro n hn h0
    obtain ⟨h1, h2⟩ := (ports n hn).2 h0 (List.mem_range.mpr hn)
    exact ⟨((same n hn).getF 0 4).trans h1, ((same n hn).getF 6 4).trans h2⟩
  · intro n hn h0
    have k := ((ports n hn).1 h0).trans (same n hn)
    exact ⟨(k.getF 0 4).trans h0, k.2⟩

/-! ### Power off, and the other events -/

/-- An input shutdown asserts FAULT_N with its cause, and takes the dies' power and state (R30, R33). -/
theorem shutdown_effect (n : Nat) (t : State) (ht : t = s.shutdown n) :
    t.power = { s.power with faultN := true, causes := s.power.causes ||| (1#6 <<< n), rails := false, pwrgd := false } ∧
    t.mcs = [] ∧ t.rooms = [] ∧ t.dma = [] ∧ t.mesh = {} ∧ t.hbm.cells = [] ∧ t.hbm.written = [] ∧ t.hbm.memQ = [] ∧
    t.host = s.host ∧ t.parts = s.parts ∧ t.ports = s.ports ∧ t.jsram = s.jsram ∧ t.fabric = s.fabric ∧ t.out = s.out ∧
    ∀ k, t.reg k = if isDieKey k then regReset k
      else if k = mgtBase + 0x20 then setFld (s.reg (mgtBase + 0x20)) n 1 1 else s.reg k := by
  subst ht
  have shape := faultCause_shape s n
  have reg := faultCause_reg s n
  rw [State.shutdown]
  generalize s.faultCause n = u at shape reg ⊢
  have power : u.power = _ := congrArg State.power shape
  refine ⟨?_, rfl, rfl, rfl, rfl, rfl, rfl, rfl, ?_, ?_, ?_, ?_, ?_, ?_, fun k => by rw [railsOff_reg, reg]⟩
  · show { u.power with rails := false, pwrgd := false } = _
    rw [power]
  all_goals
    rw [shape]
    rfl

/-- A leak asserts FAULT_N, with its event and its state sensor (R15, R32). -/
theorem leakDetected_effect :
    ∃ t, exec .leakDetected s = .next t ∧ t.power = { s.power with faultN := true, causes := s.power.causes ||| (1#6 <<< 4) } ∧
      t.getB ⟨irqJBase + 0x2000, 0, 1⟩ = true ∧ t.getB ⟨mgtBase + 0x20, 4, 1⟩ = true ∧
      OtherRegs ((mgtBase + 0x20) :: (mstatHome 0).keys) s t ∧
      t = { s with regs := t.regs, irq := { s.irq with routed := t.irq.routed }, power := t.power, mgmt := t.mgmt,
                   recovery := { s.recovery with deferredAudit := t.recovery.deferredAudit }, out := t.out } := by
  obtain ⟨h1, h2, h3, h4⟩ := faultCause_raiseM s 4 0 (by decide) (by decide) _ rfl
  refine ⟨((s.faultCause 4).raiseM 0).sense 31 1, rfl, ?_⟩
  have shape := sense_shape ((s.faultCause 4).raiseM 0) 31 1
  have reg := sense_reg ((s.faultCause 4).raiseM 0) 31 1
  generalize (s.faultCause 4).raiseM 0 = u at h1 h2 h3 h4 shape reg ⊢
  generalize u.sense 31 1 = t at shape reg ⊢
  refine ⟨by rw [shape, h4], ?_, ?_, fun k hk => (reg k).trans (h3 k hk), by rw [shape, h4]⟩
  · rw [← h1, State.getB, State.getB, State.getF, State.getF, reg]
  · rw [← h2, State.getB, State.getB, State.getF, State.getF, reg]

/-- A rail out of regulation asserts FAULT_N and takes PWRGD, with its event (R31, R32). -/
theorem railOutOfRegulation_effect (h : s.power.rails = true ∨ s.power.jrails = true) :
    ∃ t, exec .railOutOfRegulation s = .next t ∧
      t.power = { s.power with faultN := true, causes := s.power.causes ||| (1#6 <<< 2), pwrgd := false } ∧
      t.getB ⟨irqJBase + 0x2000, 4, 1⟩ = true ∧ OtherRegs ((mgtBase + 0x20) :: (mstatHome 4).keys) s t ∧
      t = { s with regs := t.regs, irq := { s.irq with routed := t.irq.routed }, power := t.power, mgmt := t.mgmt,
                   recovery := { s.recovery with deferredAudit := t.recovery.deferredAudit } } := by
  obtain ⟨h1, -, h3, h4⟩ := faultCause_raiseM s 2 4 (by decide) (by decide) _ rfl
  have on : (s.power.rails || s.power.jrails) = true := by simpa using h
  refine ⟨{ (s.faultCause 2).raiseM 4 with power := { ((s.faultCause 2).raiseM 4).power with pwrgd := false } },
    congrArg Host.Outcome.next (if_pos on), ?_⟩
  generalize (s.faultCause 2).raiseM 4 = u at h1 h3 h4 ⊢
  exact ⟨congrArg (fun u : State => { u.power with pwrgd := false }) h4, h1, h3,
    congrArg (fun v : State => { v with power := { u.power with pwrgd := false } }) h4⟩

/-- A switch of the slow clock changes its source and raises its event (R37). -/
theorem slowClock_effect (b : Bool) (t : State) (ht : t = ({ s with power := { s.power with slowRef := b } } : State).raiseM 6) :
    t.getB ⟨irqJBase + 0x2000, 6, 1⟩ = true ∧
    t = { s with regs := t.regs, irq := { s.irq with routed := t.irq.routed }, power := { s.power with slowRef := b } } ∧
    OtherRegs (mstatHome 6).keys s t := by
  refine ⟨ht ▸ raiseM_set _ 6 (by decide), raiseM_power_shape s _ 6 t ht, fun k hk => ?_⟩
  rw [ht, raiseM_reg_ne _ 6 k (by decide) hk]
  rfl

/-- A crossing of the low band's edge changes the band, raises its event, and E is recomputed (R29, R589). -/
theorem lowBand_effect (v : Option (BitVec 16)) (t : State)
    (ht : t = (({ s with power := { s.power with lowBand := v } } : State).raiseM 3).updE) :
    t.power.lowBand = v ∧ t.getB ⟨irqJBase + 0x2000, 3, 1⟩ = true ∧ t.getF effF = t.effective.1 ∧
    t = { s with regs := t.regs, irq := { s.irq with routed := t.irq.routed }, power := t.power, mgmt := t.mgmt, out := t.out,
                 host := { s.host with events := t.host.events } } := by
  obtain ⟨hp, hb, he, hs⟩ := raised_updE s _ 3 (by decide) t ht
  exact ⟨by rw [hp], hb, he, hs⟩

/-- A reversed flow is kept, raises its event, and caps E at 2,000 W (R41, R589). -/
theorem reversedFlow_effect (t : State) (ht : t = (({ s with power := { s.power with revFlow := true } } : State).raiseM 1).updE) :
    t.power.revFlow = true ∧ t.getB ⟨irqJBase + 0x2000, 1, 1⟩ = true ∧ t.getF effF = t.effective.1 ∧ t.getF effF ≤ 2000 ∧
    t = { s with regs := t.regs, irq := { s.irq with routed := t.irq.routed }, power := t.power, mgmt := t.mgmt, out := t.out,
                 host := { s.host with events := t.host.events } } := by
  obtain ⟨hp, hb, he, hs⟩ := raised_updE s _ 1 (by decide) t ht
  have hrev : t.power.revFlow = true := by rw [hp]
  exact ⟨hrev, hb, he, he ▸ effective_le_of_revFlow t hrev, hs⟩

end Sys2Proof.Machine

open Sys2Proof Sys2Proof.Machine

/-- Settles O32: each event's effect is one lemma; those that move the ceiling share `raised_updE`, those that assert FAULT_N share
`faultCause_shape`. -/
theorem powerInputEventsComplete : Obligations.PowerInputEventsComplete := by
  unfold Obligations.PowerInputEventsComplete
  intro s
  refine ⟨fun c n hc => ?_, ⟨s.railsOff, rfl, rfl, rfl, rfl, rfl, rfl, rfl, rfl, rfl, rfl, railsOff_reg s⟩, fun v hv => ?_, fun v hv => ?_,
    leakDetected_effect s, railOutOfRegulation_effect s, ⟨_, rfl, reversedFlow_effect s _ rfl⟩, fabRefclkLoss_effect s, fun hc => ?_,
    fun hc => ?_⟩
  · have cases : (c = .inputUndervoltageShutdown ∧ n = 1) ∨ (c = .inputOvervoltageShutdown ∧ n = 0) := by simpa using hc
    rcases cases with ⟨rfl, rfl⟩ | ⟨rfl, rfl⟩
    · exact ⟨_, rfl, shutdown_effect s 1 _ rfl⟩
    · exact ⟨_, rfl, shutdown_effect s 0 _ rfl⟩
  · have hn : s.power.lowBand.isNone = true := Option.isNone_iff_eq_none.mpr hv
    exact ⟨_, congrArg Host.Outcome.next (if_pos hn), lowBand_effect s (some v) _ rfl⟩
  · have hn : s.power.lowBand.isSome = true := Option.isSome_iff_ne_none.mpr hv
    exact ⟨_, congrArg Host.Outcome.next (if_pos hn), lowBand_effect s none _ rfl⟩
  · have hn : (!s.power.slowRef) = true := by rw [hc]; rfl
    exact ⟨_, congrArg Host.Outcome.next (if_pos hn), slowClock_effect s true _ rfl⟩
  · exact ⟨_, congrArg Host.Outcome.next (if_pos hc), slowClock_effect s false _ rfl⟩
end

section
/-! What no reset of a function reaches, shared operation by shared operation (R526, log entry 64). -/

namespace Sys2Proof.Machine

/-- The part of the state that no function level reset and no end of a command reaches: power, guards, the bindings of cells, granules
and rings, and the contexts (R526, log entry 64). -/
def State.kept (s : State) :=
  (s.power, s.guards, s.parts.cellOf, s.parts.granOf, s.parts.ringOf, s.mmu.ctxs)

variable (s : State)

/-! ### Writes of other parts -/

/-- An update that names none of the four fields which hold the kept part. -/
@[simp] theorem kept_update (pending freeCtr out mtime regs regsSlow recentW jsram jsramBad mcs rvs rooms hbm dma sync mesh ports fabric
    reds cellar host service irq recovery mgmt) :
    State.kept { s with
      pending := pending, freeCtr := freeCtr, out := out, mtime := mtime, regs := regs, regsSlow := regsSlow, recentW := recentW,
      jsram := jsram, jsramBad := jsramBad, mcs := mcs, rvs := rvs, rooms := rooms, hbm := hbm, dma := dma, sync := sync, mesh := mesh,
      ports := ports, fabric := fabric, reds := reds, cellar := cellar, host := host, service := service, irq := irq,
      recovery := recovery, mgmt := mgmt } = s.kept := (rfl)

/-- An update of the translation unit that leaves the contexts. -/
@[simp] theorem kept_update_mmu (tlb atc recs nextId invs prgs priFailed poolEmpty) :
    State.kept { s with mmu := { s.mmu with
      tlb := tlb, atc := atc, recs := recs, nextId := nextId, invs := invs, prgs := prgs, priFailed := priFailed,
      poolEmpty := poolEmpty } } = s.kept := (rfl)

/-- An update of the partitions' records that leaves the bindings. -/
@[simp] theorem kept_update_parts (svcWeight physwin saved resetWait partWait) :
    State.kept { s with parts := { s.parts with
      svcWeight := svcWeight, physwin := physwin, saved := saved, resetWait := resetWait, partWait := partWait } } = s.kept := (rfl)

@[simp] theorem State.setReg_kept (k : Nat) (v : Word) : (s.setReg k v).kept = s.kept := (rfl)
@[simp] theorem State.putF_kept (f : RF) (x : Nat) : (s.putF f x).kept = s.kept := (rfl)
@[simp] theorem State.addF_kept (f : RF) (x : Nat) : (s.addF f x).kept = s.kept := (rfl)
@[simp] theorem State.putB_kept (f : RF) (b : Bool) : (s.putB f b).kept = s.kept := (rfl)
@[simp] theorem State.resetRegs_kept (p : Nat → Bool) : (s.resetRegs p).kept = s.kept := (rfl)
@[simp] theorem State.countSet_kept (c n : Nat) : (s.countSet c n).kept = s.kept := (rfl)
@[simp] theorem State.raiseAt_kept (h : FlagHome) : (s.raiseAt h).kept = s.kept := (rfl)
@[simp] theorem State.raiseC_kept (c b : Nat) : (s.raiseC c b).kept = s.kept := (rfl)
@[simp] theorem State.raiseD_kept (d b : Nat) : (s.raiseD d b).kept = s.kept := (rfl)
@[simp] theorem State.raiseM_kept (b : Nat) : (s.raiseM b).kept = s.kept := (rfl)
@[simp] theorem State.emit_kept (o : Output) : (s.emit o).kept = s.kept := (rfl)
@[simp] theorem State.tickFree_kept : s.tickFree.kept = s.kept := (rfl)
@[simp] theorem State.setMc_kept (n : Nat) (x : McState) : (s.setMc n x).kept = s.kept := (rfl)
@[simp] theorem State.updMc_kept (n : Nat) (f : McState → McState) : (s.updMc n f).kept = s.kept := (rfl)
@[simp] theorem State.setRv_kept (n : Nat) (x : RvState) : (s.setRv n x).kept = s.kept := (rfl)
@[simp] theorem State.updRv_kept (n : Nat) (f : RvState → RvState) : (s.updRv n f).kept = s.kept := (rfl)
@[simp] theorem State.setDma_kept (c : Nat) (x : DmaState) : (s.setDma c x).kept = s.kept := (rfl)
@[simp] theorem State.setDmaQ_kept (c q : Nat) (l : List DescState) : (s.setDmaQ c q l).kept = s.kept := (rfl)
@[simp] theorem State.setSync_kept (k : Nat) (x : SyncCore) : (s.setSync k x).kept = s.kept := (rfl)
@[simp] theorem State.setPort_kept (n : Nat) (x : PortState) : (s.setPort n x).kept = s.kept := (rfl)
@[simp] theorem State.updPort_kept (n : Nat) (f : PortState → PortState) : (s.updPort n f).kept = s.kept := (rfl)
@[simp] theorem State.setCe_kept (n : Nat) (x : CeState) : (s.setCe n x).kept = s.kept := (rfl)
@[simp] theorem State.setEvts_kept (p : Nat) (x : PartEvents) : (s.setEvts p x).kept = s.kept := (rfl)

/-- A list of steps keeps what each step keeps. -/
@[simp] theorem forEach_kept {α : Type} (l : List α) (f : State → α → State) (h : ∀ s a, (f s a).kept = s.kept) :
    (forEach l s f).kept = s.kept := forEach_keeps State.kept l s f h

@[simp] theorem forEach_fst_kept {α β : Type} (l : List α) (b : β) (f : State × β → α → State × β)
    (h : ∀ z a, (f z a).1.kept = z.1.kept) : (forEach l (s, b) f).1.kept = s.kept := forEach_keeps (fun z => z.1.kept) l (s, b) f h

@[simp] theorem ite_kept (c : Prop) [Decidable c] (a b : State) : (if c then a else b).kept = if c then a.kept else b.kept :=
  apply_ite _ _ _ _

/-! ### Accesses to memory -/

variable {s} in
theorem MemStep.kept {t : State} (h : MemStep s t) : t.kept = s.kept := by
  have e := h.1
  unfold OnlyMemory at e
  rw [e]
  rfl

variable {s} in
theorem VaStep.kept {t : State} (h : VaStep s t) : t.kept = s.kept := by
  rw [h.1]
  rfl

@[simp] theorem State.physRead_kept (part pa n : Nat) : (s.physRead part pa n).st.kept = s.kept := (memStep_physRead s _ _ _).kept
@[simp] theorem State.physWrite_kept (part who pa : Nat) (bs : List Byte) : (s.physWrite part who pa bs).kept = s.kept :=
  (memStep_physWrite s _ _ _ _).kept
@[simp] theorem State.amoAt_kept (core part : Nat) (op : AmoOp) (w pa x : Nat) : (s.amoAt core part op w pa x).st.kept = s.kept :=
  (memStep_amoAt s _ _ _ _ _ _).kept
@[simp] theorem State.openFault_kept (u : UnitId) (ctx part va : Nat) (acc : Access) (x : Xl) (w : Option Waiter) :
    (s.openFault u ctx part va acc x w).1.kept = s.kept := (vaStep_openFault s _ _ _ _ _ _ _).kept
@[simp] theorem State.xlRun_kept (u : UnitId) (ctx part va n : Nat) (acc : Access) : (s.xlRun u ctx part va n acc).st.kept = s.kept :=
  (vaStep_xlRun s _ _ _ _ _ _).kept
@[simp] theorem State.readSegs_kept (part : Nat) (l : List Seg) : (s.readSegs part l).st.kept = s.kept := (vaStep_readSegs _ l s).kept
@[simp] theorem State.writeSegs_kept (part who : Nat) (l : List Seg) (bs : List Byte) : (s.writeSegs part who l bs).kept = s.kept :=
  (memStep_writeSegs _ _ l s bs).kept
@[simp] theorem State.poisonSegs_kept (part who : Nat) (l : List Seg) : (s.poisonSegs part who l).kept = s.kept :=
  (memStep_poisonSegs s _ _ l).kept
@[simp] theorem State.vRead_kept (u : UnitId) (ctx part va n : Nat) (acc : Access) (w : Option Waiter) :
    (s.vRead u ctx part va n acc w).st.kept = s.kept := (vaStep_vRead s _ _ _ _ _ _ _).kept
@[simp] theorem State.vWrite_kept (u : UnitId) (ctx part va : Nat) (bs : List Byte) (who : Nat) (w : Option Waiter) :
    (s.vWrite u ctx part va bs who w).st.kept = s.kept := (vaStep_vWrite s _ _ _ _ _ _ _).kept
@[simp] theorem State.vPoison_kept (u : UnitId) (ctx part va n who : Nat) : (s.vPoison u ctx part va n who).kept = s.kept := by
  simp [State.vPoison]

@[simp] theorem State.ledgerOffer_kept (part pa : Nat) (who : CoreName) (t : Nat) : (s.ledgerOffer part pa who t).1.kept = s.kept := by
  simp only [State.ledgerOffer]
  repeat' split
  all_goals simp

@[simp] theorem State.wcClaim_kept (part pa n : Nat) (who : Option CoreName) : (s.wcClaim part pa n who).st.kept = s.kept := by
  simp only [State.wcClaim]
  repeat' split
  all_goals simp

@[simp] theorem State.wcPresent_kept (part pa t : Nat) (who : Option CoreName) : (s.wcPresent part pa t who).st.kept = s.kept := by
  simp only [State.wcPresent]
  repeat' split
  all_goals simp

/-! ### Matrix cores, signals and the mesh -/

@[simp] theorem State.enterFault_kept (n code operand unit fpc : Nat) : (s.enterFault n code operand unit fpc).kept = s.kept := by
  simp [State.enterFault]
@[simp] theorem State.issueFault_kept (n code operand unit : Nat) : (s.issueFault n code operand unit).kept = s.kept := by
  simp [State.issueFault]
@[simp] theorem State.memFault_kept (n cls unit : Nat) (pc : Word) : (s.memFault n cls unit pc).kept = s.kept := by
  simp [State.memFault]
@[simp] theorem State.setMeshBuf_kept (r : Nat) (d : MeshDir) (v : Nat) (l : List Flit) : (s.setMeshBuf r d v l).kept = s.kept := (rfl)
@[simp] theorem State.meshInject_kept (cell : Nat) (dst : MeshDst) (vc : MeshVc) (flits : Nat) (expects : Bool) :
    (s.meshInject cell dst vc flits expects).kept = s.kept := by
  simp only [State.meshInject, ite_kept]
  simp
@[simp] theorem State.sentLost_kept (cell : Nat) : (s.sentLost cell).kept = s.kept := by
  simp [State.sentLost]
@[simp] theorem State.sendSignal_kept (g : Signal) : (s.sendSignal g).kept = s.kept := by
  simp [State.sendSignal]
@[simp] theorem State.scrWrite_kept (n a : Nat) (bs : List Byte) : (s.scrWrite n a bs).kept = s.kept := (rfl)
@[simp] theorem State.dropWaiters_kept (p : Waiter → Bool) : (s.dropWaiters p).kept = s.kept := (rfl)
@[simp] theorem State.abandonMc_kept (n : Nat) : (s.abandonMc n).kept = s.kept := by
  simp [State.abandonMc]
@[simp] theorem State.mxcRelease_kept (n : Nat) : (s.mxcRelease n).kept = s.kept := by
  simp [State.mxcRelease]

end Sys2Proof.Machine
end

section
namespace Sys2Proof.Machine

variable (s : State)

/-! ### DMA engines and movers -/

@[simp] theorem State.memGet_kept (x : Mover) (a n fuel : Nat) : (s.memGet x a n fuel).st.kept = s.kept := by
  induction fuel generalizing s a n with
  | zero => simp [State.memGet]
  | succ k ih =>
    simp only [State.memGet]
    repeat' split
    all_goals simp [ih]

@[simp] theorem State.spGet_kept (x : Mover) (sp mc : Nat) (a : Int) (n : Nat) : (s.spGet x sp mc a n).st.kept = s.kept := by
  unfold State.spGet
  dsimp only
  split <;> simp

@[simp] theorem State.memPut_kept (x : Mover) (a : Nat) (bs : List (Byte × Bool)) (fuel : Nat) :
    (s.memPut x a bs fuel).1.kept = s.kept := by
  induction fuel generalizing s a bs with
  | zero => simp [State.memPut]
  | succ k ih =>
    simp only [State.memPut]
    repeat' split
    all_goals simp [ih]

@[simp] theorem State.scratchPut_kept (cell sp mc b : Nat) (bs : List (Byte × Bool)) : (s.scratchPut cell sp mc b bs).kept = s.kept := by
  simp [State.scratchPut]

@[simp] theorem State.spPut_kept (x : Mover) (sp mc : Nat) (a : Int) (bs : List (Byte × Bool)) : (s.spPut x sp mc a bs).1.kept = s.kept := by
  simp only [State.spPut]
  split <;> simp

@[simp] theorem State.spGets_kept (x : Mover) (sp mc : Nat) (as : List Int) (n : Nat) : (s.spGets x sp mc as n).1.kept = s.kept := by
  induction as generalizing s with
  | nil => simp [State.spGets]
  | cons a r ih =>
    simp only [State.spGets]
    split <;> simp [ih]

@[simp] theorem State.rowBytes_kept (x : Mover) (d : Desc) (p r : Nat) (sa : Int) : (s.rowBytes x d p r sa).st.kept = s.kept := by
  simp only [State.rowBytes]
  repeat' split
  all_goals simp

@[simp] theorem State.copyRow_kept (x : Mover) (d : Desc) (i : Nat) : (s.copyRow x d i).st.kept = s.kept := by
  simp only [State.copyRow]
  repeat' split
  all_goals simp

@[simp] theorem State.descAtomic_kept (x : Mover) (d : Desc) (who : Option CoreName) : (s.descAtomic x d who).st.kept = s.kept := by
  simp only [State.descAtomic]
  repeat' split
  all_goals simp

@[simp] theorem State.updDesc_kept (c q i : Nat) (f : DescState → DescState) : (s.updDesc c q i f).kept = s.kept := by
  simp [State.updDesc]

@[simp] theorem State.putStatus_kept (c q : Nat) (d : Desc) (bs : List Byte) : (s.putStatus c q d bs).kept = s.kept := by
  simp [State.putStatus]

@[simp] theorem State.descSignal_kept (c q : Nat) (d : Desc) : (s.descSignal c q d).kept = s.kept := by
  simp [State.descSignal]

@[simp] theorem State.descError_kept (c q tag code : Nat) : (s.descError c q tag code).kept = s.kept := by
  simp [State.descError]

@[simp] theorem State.dmaRetire_kept (c q fuel : Nat) : (s.dmaRetire c q fuel).kept = s.kept := by
  induction fuel generalizing s with
  | zero => rfl
  | succ k ih =>
    simp only [State.dmaRetire]
    repeat' split
    all_goals simp [ih]

@[simp] theorem State.dmaSettle_kept (c q : Nat) : (s.dmaSettle c q).kept = s.kept := by
  simp [State.dmaSettle]

@[simp] theorem State.dmaAbort_kept (c q cls : Nat) : (s.dmaAbort c q cls).kept = s.kept := by
  simp only [State.dmaAbort]
  split <;> simp

@[simp] theorem State.dmaEndQueue_kept (c q : Nat) : (s.dmaEndQueue c q).kept = s.kept := by
  simp [State.dmaEndQueue]

/-! ### RISC-V cores -/

@[simp] theorem State.setCsr_kept (k n : Nat) (v : Word) : (s.setCsr k n v).kept = s.kept := (rfl)

@[simp] theorem State.takeTrap_kept (k cause : Nat) (isInt : Bool) (tval : Word) : (s.takeTrap k cause isInt tval).kept = s.kept := by
  simp [State.takeTrap]

@[simp] theorem State.exception_kept (k cause : Nat) (tval : Word) : (s.exception k cause tval).kept = s.kept := by
  simp [State.exception]

/-! ### Events and commands -/

@[simp] theorem State.postEvent_kept (p ty : Nat) (payload : List Byte) : (s.postEvent p ty payload).kept = s.kept := by
  simp [State.postEvent]

@[simp] theorem State.postRequest_kept (p ty : Nat) (payload : List Byte) : (s.postRequest p ty payload).1.kept = s.kept := by
  simp only [State.postRequest]
  split <;> simp

@[simp] theorem State.closeCmd_kept (src : CmdSrc) (c : Cmd) (started : Bool) : (s.closeCmd src c started).kept = s.kept := (rfl)

@[simp] theorem State.cadenceFails_kept (p i status : Nat) : (s.cadenceFails p i status).kept = s.kept := by
  simp only [State.cadenceFails]
  split <;> simp

@[simp] theorem State.complete_kept (src : CmdSrc) (c : Cmd) (started : Bool) (status result : Nat) :
    (s.complete src c started status result).kept = s.kept := by
  simp only [State.complete]
  split <;> simp

@[simp] theorem State.cmdReadFailed_kept (k : Nat) : (s.cmdReadFailed k).kept = s.kept := by
  simp only [State.cmdReadFailed]
  split <;> simp

/-! ### Messages of the fabric -/

@[simp] theorem State.pushTx_kept (n part vc : Nat) (bs : List Byte) : (s.pushTx n part vc bs).kept = s.kept := (rfl)

@[simp] theorem State.pushLocal_kept (n vc : Nat) (bs : List Byte) : (s.pushLocal n vc bs).kept = s.kept := (rfl)

@[simp] theorem State.sendMsg_kept (m : RouteMsg) (self : Bool) : (s.sendMsg m self).kept = s.kept := by
  simp only [State.sendMsg]
  repeat' split
  all_goals simp

@[simp] theorem State.request_kept (part type dst ctx a b c : Nat) (pl : List Byte) (poison : Bool) (members : List (BitVec 14))
    (owner : ReqOwner) : (s.request part type dst ctx a b c pl poison members owner).1.kept = s.kept := by
  simp [State.request]

@[simp] theorem State.endReq_kept (tag : BitVec 16) : (s.endReq tag).kept = s.kept := (rfl)

@[simp] theorem State.answer_kept (n : Nat) (h : Hdr) (status : Nat) (pl : List Byte) (poison : Bool) :
    (s.answer n h status pl poison).kept = s.kept := by
  simp [State.answer]

@[simp] theorem State.fabricSettle_kept (rcd : Word32) (retry : Bool) : (s.fabricSettle rcd retry).kept = s.kept := by
  simp [State.fabricSettle]

/-! ### Reductions -/

@[simp] theorem State.putRed_kept (r : RedState) : (s.putRed r).kept = s.kept := (rfl)

@[simp] theorem State.updCur_kept (r : RedState) (f : RedRound → RedRound) : (s.updCur r f).kept = s.kept := by
  simp only [State.updCur]
  split <;> simp

@[simp] theorem State.exclCount_kept : s.exclCount.kept = s.kept := (rfl)

@[simp] theorem State.sendRed_kept (part type vc : Nat) (ports : List Nat) (a b c : Nat) (pl : List Byte) :
    (s.sendRed part type vc ports a b c pl).kept = s.kept := by
  simp [State.sendRed]

@[simp] theorem State.sendSum_kept (part id : Nat) (r : RedRound) (f : Nat) (x : Frag) (els : List AccEl) (first fuel : Nat) :
    (s.sendSum part id r f x els first fuel).kept = s.kept := by
  induction fuel generalizing s els first with
  | zero => rfl
  | succ k ih =>
    simp only [State.sendSum]
    split <;> simp [ih]

@[simp] theorem State.writeFrag_kept (red : RedState) (f : Nat) : (s.writeFrag red f).kept = s.kept := by
  simp only [State.writeFrag]
  repeat' split
  all_goals simp

@[simp] theorem State.startWrite_kept (part id f : Nat) (res : Nat × BitVec 8 × List Byte) : (s.startWrite part id f res).kept = s.kept := by
  simp only [State.startWrite]
  repeat' split
  all_goals simp

@[simp] theorem State.closeFrag_kept (part id f : Nat) (deadline : Bool) : (s.closeFrag part id f deadline).kept = s.kept := by
  simp only [State.closeFrag]
  repeat' split
  all_goals simp

@[simp] theorem State.settleFrag_kept (part id f : Nat) : (s.settleFrag part id f).kept = s.kept := by
  simp only [State.settleFrag]
  repeat' split
  all_goals simp

@[simp] theorem State.settleStats_kept (part id : Nat) : (s.settleStats part id).kept = s.kept := by
  simp only [State.settleStats]
  repeat' split
  · rfl
  · rfl
  · rfl
  · refine forEach_kept _ _ _ (fun t i => ?_)
    repeat' split
    all_goals simp

@[simp] theorem State.dropLocal_kept (red : RedState) (r : RedRound) (f i : Nat) : (s.dropLocal red r f i).kept = s.kept := by
  simp [State.dropLocal]

@[simp] theorem State.endRound_kept (red : RedState) (num : Nat) : (s.endRound red num).kept = s.kept := by
  simp only [State.endRound]
  split <;> simp

@[simp] theorem State.statsDone_kept (job : Nat) (ok : Bool) (r : RedRound) : (s.statsDone job ok r).kept = s.kept := (rfl)

/-- The failed read of a contribution. -/
@[simp] theorem State.contribSettle_kept (part id f i : Nat) : (s.contribSettle part id f i false).kept = s.kept := by
  simp only [State.contribSettle, Bool.false_eq_true, if_false]
  repeat' split
  all_goals simp

@[simp] theorem State.writeEnding_kept (red : RedState) (f : Nat) : (s.writeEnding red f).kept = s.kept := by
  refine forEach_kept _ _ _ (fun t r => ?_)
  repeat' split
  all_goals simp

@[simp] theorem State.resultSettle_kept (part id f : Nat) (retry : Bool) : (s.resultSettle part id f retry).kept = s.kept := by
  simp only [State.resultSettle]
  repeat' split
  all_goals simp

/-! ### Update jobs -/

@[simp] theorem State.progWrite_kept (ctx part va : Nat) (bs : List Byte) : (s.progWrite ctx part va bs).kept = s.kept := by
  simp [State.progWrite]

@[simp] theorem State.writeProg_kept (j : UpdJob) (status : Nat) : (s.writeProg j status).kept = s.kept := by
  simp [State.writeProg]

@[simp] theorem State.putJob_kept (j : UpdJob) : (s.putJob j).kept = s.kept := (rfl)

@[simp] theorem State.showCe_kept (e : Nat) : (s.showCe e).kept = s.kept := by
  simp [State.showCe]

@[simp] theorem State.startCe_kept (e p : Nat) : (s.startCe e p).kept = s.kept := by
  simp only [State.startCe]
  repeat' split
  all_goals simp

@[simp] theorem State.freeCes_kept (j : UpdJob) : (s.freeCes j).kept = s.kept := by
  simp [State.freeCes]

@[simp] theorem State.endJob_kept (j : UpdJob) (status : Nat) : (s.endJob j status).kept = s.kept := by
  simp [State.endJob]

@[simp] theorem State.statsPut_kept (j : UpdJob) (e : Nat) (sums : SMap AccEl) (excl : Bool) : (s.statsPut j e sums excl).kept = s.kept := by
  simp only [State.statsPut]
  split <;> simp

@[simp] theorem State.ceStop_kept (k : Nat) (j : UpdJob) (status : Nat) : (s.ceStop k j status).kept = s.kept := by
  simp [State.ceStop]

@[simp] theorem State.chunkSettle_kept (k : Nat) (retry : Bool) : (s.chunkSettle k retry).kept = s.kept := by
  simp only [State.chunkSettle]
  split <;> simp

@[simp] theorem State.stopJob_kept (j : UpdJob) : (s.stopJob j).kept = s.kept := by
  simp only [State.stopJob]
  split <;> simp

/-! ### The host's windows, and kernels -/

@[simp] theorem State.winErr_kept (f : Nat) : (s.winErr f).kept = s.kept := by
  simp [State.winErr]

@[simp] theorem State.barAnswer_kept (f : Nat) (isRead ok : Bool) (data : List Byte) (poison : Bool) :
    (s.barAnswer f isRead ok data poison).kept = s.kept := by
  simp [State.barAnswer]

@[simp] theorem State.unhold_kept (h : HeldBar) : (s.unhold h).kept = s.kept := (rfl)

/-- The failed accesses of a window that waited on a record. -/
@[simp] theorem State.barSettle_kept (rcd : Word32) : (s.barSettle rcd false).kept = s.kept := by
  simp [State.barSettle]

@[simp] theorem State.dropKern_kept (id : Nat) : (s.dropKern id).kept = s.kept := (rfl)

@[simp] theorem State.endMc_kept (n : Nat) : (s.endMc n).kept = s.kept := by
  simp [State.endMc]

@[simp] theorem State.endVc_kept (c : Nat) : (s.endVc c).kept = s.kept := by
  simp [State.endVc]

@[simp] theorem State.dropSaved_kept (c p : Nat) : (s.dropSaved c p).kept = s.kept := (rfl)

@[simp] theorem State.releaseCell_kept (c : Nat) : (s.releaseCell c).kept = s.kept := by
  simp [State.releaseCell]

@[simp] theorem State.endKernel_kept (k : Kernel) (status result : Nat) : (s.endKernel k status result).kept = s.kept := by
  simp only [State.endKernel]
  repeat' split
  all_goals simp

@[simp] theorem State.killKernel_kept (k : Kernel) : (s.killKernel k).kept = s.kept := by
  simp [State.killKernel]

@[simp] theorem State.endKern_kept (k : Kernel) : (s.endKern k).kept = s.kept := by
  simp [State.endKern]

end Sys2Proof.Machine
end

section
namespace Sys2Proof.Machine

variable (s : State)

/-! ### Bulk engines -/

@[simp] theorem State.setBulk_kept (e : Nat) (b : Option BulkState) : (s.setBulk e b).kept = s.kept := (rfl)

@[simp] theorem State.updBulk_kept (e : Nat) (f : BulkState → BulkState) : (s.updBulk e f).kept = s.kept := (rfl)

@[simp] theorem State.bulkComplete_kept (e : Nat) (b : BulkState) (code idx off : Nat) : (s.bulkComplete e b code idx off).kept = s.kept := by
  simp only [State.bulkComplete]
  split <;> simp

@[simp] theorem State.bulkNext_kept (e : Nat) (b : BulkState) (code : Nat) : (s.bulkNext e b code).kept = s.kept := by
  unfold State.bulkNext
  dsimp only
  split
  · rfl
  · exact s.bulkComplete_kept _ _ _ _ _

@[simp] theorem State.bulkSend_kept (e : Nat) (b : BulkState) (off next type a n : Nat) (pl : List Byte) (poison : Bool) :
    (s.bulkSend e b off next type a n pl poison).kept = s.kept := by
  simp [State.bulkSend]

@[simp] theorem State.fragBytes_kept (e : Nat) (b : BulkState) (d : Desc) (off n : Nat) : (s.fragBytes e b d off n).1.st.kept = s.kept := by
  simp [State.fragBytes]

/-- A step that may not be due: if it is taken, it keeps what s keeps. -/
def OptKept (s : State) (o : Option State) : Prop := ∀ t, o = some t → t.kept = s.kept

@[simp] theorem optKept_none : OptKept s none := fun _ h => nomatch h

@[simp] theorem optKept_some (t : State) : OptKept s (some t) ↔ t.kept = s.kept :=
  ⟨fun h => h t rfl, fun h _ e => Option.some.inj e ▸ h⟩

theorem OptKept.ite {c : Prop} [Decidable c] {a b : Option State} (ha : OptKept s a) (hb : OptKept s b) :
    OptKept s (if c then a else b) := by
  split
  · exact ha
  · exact hb

theorem State.bulkStep_kept (e : Nat) (b : BulkState) : OptKept s (s.bulkStep e b) := by
  unfold State.bulkStep
  refine .ite s (optKept_none s) (.ite s (.ite s ?_ (optKept_none s))
    (.ite s ?_ (.ite s ?fetch (.ite s ?atomic (.ite s ?_ (.ite s ?remote (.ite s ?_ ?copy)))))))
  case fetch =>
    split
    · exact .ite s (by simp) (optKept_none s)
    · exact .ite s (.ite s (by simp) (optKept_none s)) (.ite s (by simp) (optKept_none s))
  case atomic =>
    dsimp only
    repeat' split
    all_goals simp
  case remote =>
    extract_lets go
    have sent (o next : Nat) : OptKept s (go o next) := by
      refine .ite s (optKept_none s) ?_
      dsimp only
      split <;> simp
    split
    · exact sent _ _
    · exact .ite s (sent _ _) (.ite s (by simp) (optKept_none s))
  case copy =>
    dsimp only
    repeat' split
    all_goals simp
  all_goals simp

theorem State.mcastStep_kept (e : Nat) (b : BulkState) (m : McastRun) : OptKept s (s.mcastStep e b m) := by
  simp only [State.mcastStep]
  repeat' split
  all_goals simp

@[simp] theorem State.bulkRun_kept (e fuel : Nat) : (s.bulkRun e fuel).kept = s.kept := by
  induction fuel generalizing s with
  | zero => rfl
  | succ k ih =>
    simp only [State.bulkRun]
    split
    · rfl
    · split
      · next t ht =>
        rw [ih]
        split at ht
        · exact s.mcastStep_kept _ _ _ t ht
        · exact s.bulkStep_kept _ _ t ht
      · rfl

@[simp] theorem State.bulkGo_kept (e : Nat) : (s.bulkGo e).kept = s.kept := s.bulkRun_kept _ _

@[simp] theorem State.bulkAbort_kept (e : Nat) : (s.bulkAbort e).kept = s.kept := by
  simp [State.bulkAbort]

/-! ### Pieces of the coupling service's work -/

/-- What holds of a piece of work that is done. -/
def Svc.Done {α : Type} (P : State → α → Prop) (x : Svc α) : Prop := ∀ t a, x = .ok t a → P t a

/-- A piece of work that keeps what s keeps. -/
abbrev SvcKept {α : Type} (s : State) (x : Svc α) : Prop := x.Done (fun t _ => t.kept = s.kept)

@[simp] theorem done_ok {α : Type} (P : State → α → Prop) (t : State) (a : α) : (Svc.ok t a).Done P ↔ P t a :=
  ⟨fun h => h t a rfl, fun h _ _ e => by cases e; exact h⟩

@[simp] theorem done_miss {α : Type} (P : State → α → Prop) (u : UnitId) (c va : Nat) (acc : Access) (x : Xl) :
    (Svc.miss u c va acc x : Svc α).Done P := fun _ _ e => nomatch e

@[simp] theorem done_bad {α : Type} (P : State → α → Prop) : (Svc.bad : Svc α).Done P := fun _ _ e => nomatch e

/-- One piece of work after another, each with what holds when it is done. -/
theorem Svc.Done.andThen {α β : Type} {P : State → α → Prop} {Q : State → β → Prop} {x : Svc α} {f : State → α → Svc β}
    (h : x.Done P) (g : ∀ t a, P t a → (f t a).Done Q) : (x.andThen f).Done Q := by
  cases x with
  | ok t a => exact g t a (h t a rfl)
  | miss u c va acc x => exact done_miss Q u c va acc x
  | bad => exact done_bad Q

variable {s} in
/-- Work that starts from a state which keeps what s keeps. -/
theorem SvcKept.via {α : Type} {t : State} {x : Svc α} (h : SvcKept t x) (ht : t.kept = s.kept) : SvcKept s x :=
  fun u a e => (h u a e).trans ht

theorem State.svcGet_kept (u : UnitId) (ctx p va n : Nat) : SvcKept s (s.svcGet u ctx p va n) := by
  simp only [State.svcGet]
  repeat' split
  all_goals simp

theorem State.svcNat_kept (ctx p va n : Nat) : SvcKept s (s.svcNat ctx p va n) :=
  (s.svcGet_kept _ _ _ _ _).andThen (fun t bs ht => by simpa using ht)

theorem State.svcPut_kept (u : UnitId) (ctx p va : Nat) (bs : List Byte) : SvcKept s (s.svcPut u ctx p va bs) := by
  simp only [State.svcPut]
  split <;> simp

theorem State.svcSet_kept (ctx p va n v : Nat) : SvcKept s (s.svcSet ctx p va n v) := s.svcPut_kept _ _ _ _ _

theorem State.svcCopyF_kept (u : UnitId) (p c1 src c2 dst n fuel : Nat) : SvcKept s (s.svcCopyF u p c1 src c2 dst n fuel) := by
  induction fuel generalizing s src dst n with
  | zero => simp [State.svcCopyF]
  | succ k ih =>
    simp only [State.svcCopyF]
    split
    · simp
    · split
      · simp
      · split
        · simp
        · exact (ih _ _ _ _).via (by simp)

theorem State.svcCopy_kept (u : UnitId) (p c1 src c2 dst n : Nat) : SvcKept s (s.svcCopy u p c1 src c2 dst n) := s.svcCopyF_kept _ _ _ _ _ _ _ _

theorem svcEach_kept {α : Type} (l : List α) (f : State → α → Svc Unit) (h : ∀ s a, SvcKept s (f s a)) : SvcKept s (svcEach l s f) := by
  induction l generalizing s with
  | nil => simp [svcEach]
  | cons a r ih => exact (h s a).andThen (fun t _ ht => (ih t).via ht)

@[simp] theorem State.svcMiss_kept (p : Nat) (u : UnitId) (ctx va : Nat) (acc : Access) (x : Xl) (w : Waiter) :
    (s.svcMiss p u ctx va acc x w).1.kept = s.kept := by
  simp [State.svcMiss]

/-! ### Pantries -/

@[simp] theorem State.setPantry_kept (p i : Nat) (x : Option Pantry) : (s.setPantry p i x).kept = s.kept := (rfl)

@[simp] theorem State.updPantry_kept (p i : Nat) (f : Pantry → Pantry) : (s.updPantry p i f).kept = s.kept := (rfl)

@[simp] theorem State.setQuery_kept (p q : Nat) (x : Option Query) : (s.setQuery p q x).kept = s.kept := (rfl)

@[simp] theorem State.setCadence_kept (p i : Nat) (x : Option Cadence) : (s.setCadence p i x).kept = s.kept := (rfl)

@[simp] theorem State.updCadence_kept (p i : Nat) (f : Cadence → Cadence) : (s.updCadence p i f).kept = s.kept := (rfl)

@[simp] theorem State.setIntake_kept (p i : Nat) (r : Option IntakeRun) : (s.setIntake p i r).kept = s.kept := (rfl)

theorem State.pantryClear_kept (p ctx : Nat) (x : Pantry) : SvcKept s (s.pantryClear p ctx x) :=
  (s.svcSet_kept _ _ _ _ _).andThen (fun t _ ht =>
    ((t.svcPut_kept _ _ _ _ _).via ht).andThen (fun t _ ht =>
      ((svcEach_kept t _ _ (fun u _ => u.svcPut_kept _ _ _ _ _)).via ht).andThen (fun t _ ht =>
        (svcEach_kept t _ _ (fun u _ => u.svcPut_kept _ _ _ _ _)).via ht)))

theorem State.scores_kept (p : Nat) (x : Pantry) (l : List Nat) : SvcKept s (s.scores p x l) := by
  induction l generalizing s with
  | nil => simp [State.scores]
  | cons j r ih =>
    exact (s.svcNat_kept _ _ _ _).andThen (fun t v ht => ((ih t).via ht).andThen (fun u l hu => by simpa using hu))

theorem State.placeOf_kept (p i : Nat) (x : Pantry) (n score : Nat) : SvcKept s (s.placeOf p i x n score) := by
  unfold State.placeOf
  split
  · simp
  split
  · simp
  split
  · simp
  · exact (s.scores_kept _ _ _).andThen (fun t l ht => by simpa only [done_ok] using ht)

theorem State.batchOf_kept (p i : Nat) (x : Pantry) (b f : Nat) : SvcKept s (s.batchOf p i x b f) := by
  unfold State.batchOf
  dsimp only
  split
  · simp
  split
  · simp
  · exact (s.scores_kept _ _ _).andThen (fun t l ht => by simpa only [done_ok] using ht)

theorem State.nextTicket_kept (p : Nat) (x : Pantry) : SvcKept s (s.nextTicket p x) :=
  (s.svcNat_kept _ _ _ _).andThen (fun t v ht =>
    ((t.svcNat_kept _ _ _ _).via ht).andThen (fun u h hu => by simpa using hu))

theorem State.svcInc_kept (ctx p va n : Nat) : SvcKept s (s.svcInc ctx p va n) :=
  (s.svcNat_kept _ _ _ _).andThen (fun t _ ht => (t.svcSet_kept _ _ _ _ _).via ht)

theorem State.takeInto_kept (p : Nat) (x : Pantry) (t h : Nat) (slot : Option Nat) : SvcKept s (s.takeInto p x t h slot) := by
  have stored : SvcKept s (match slot with
      | some j =>
        (s.svcCopy svcUnit p x.ctx (x.stage t + 128) x.ctx (x.slot j) x.sbytes).andThen (fun s _ =>
          s.svcPut svcUnit x.ctx p (x.meta_ j) (toLE 8 (x.taken + 1) ++ toLE 4 (recB h 8 4) ++ toLE 2 (recB h 0xC 2) ++ toLE 2 0))
      | none => s.svcInc x.ctx p (x.ctrl + 0x38) 1) := by
    cases slot with
    | some j => exact (s.svcCopy_kept _ _ _ _ _ _ _).andThen (fun t _ ht => (t.svcPut_kept _ _ _ _ _).via ht)
    | none => exact s.svcInc_kept _ _ _ _
  exact stored.andThen (fun t _ ht =>
    ((t.svcInc_kept _ _ _ _).via ht).andThen (fun t _ ht =>
      ((t.svcPut_kept _ _ _ _ _).via ht).andThen (fun t _ ht =>
        ((t.svcSet_kept _ _ _ _ _).via ht).andThen (fun t _ ht => by simpa using ht))))

@[simp] theorem State.askPantry_kept (p i : Nat) (x : Pantry) (kind count n : Nat) : (s.askPantry p i x kind count n).kept = s.kept := by
  simp [State.askPantry]

@[simp] theorem holdPantry_kept (p i : Nat) (x : Pantry) (m : State × Word32) : (holdPantry p i x m).kept = m.1.kept := (rfl)

/-- The work of a ticket, of which the state it ends in is the answer. -/
theorem ticketWork_kept (p i : Nat) (y : Svc Pantry) (h : SvcKept s y) :
    (y.andThen (fun s x => .ok s (s.setPantry p i (some x), ())) : Svc (State × Unit)).Done (fun _ r => r.1.kept = s.kept) :=
  h.andThen (fun t _ ht => by simpa using ht)

@[simp] theorem State.takeTicket_kept (p i : Nat) : (s.takeTicket p i).kept = s.kept := by
  simp only [State.takeTicket]
  split
  · rfl
  · next x hx =>
    split
    · rfl
    · split
      · next t u hw =>
        refine (?_ : Svc.Done (fun _ r => r.1.kept = s.kept) _) _ _ hw
        refine (s.nextTicket_kept _ _).andThen (fun t r ht => ?_)
        split
        · simpa using ht
        split
        · exact ticketWork_kept s p i _ ((t.takeInto_kept _ _ _ _ _).via ht)
        · simpa using ht
        split
        · simpa using ht
        · exact ticketWork_kept s p i _
            (((t.placeOf_kept _ _ _ _ _).via ht).andThen (fun u _ hu => (u.takeInto_kept _ _ _ _ _).via hu))
      · simp
      · rfl

@[simp] theorem State.svcEnded_kept (o : SvcOwner) (status : Nat) : (s.svcEnded o status).kept = s.kept := by
  simp only [State.svcEnded]
  split <;> simp

theorem State.gather_kept (u : UnitId) (p : Nat) (x : Pantry) (ctx a : Nat) (l : List Nat) : SvcKept s (s.gather u p x ctx a l) :=
  svcEach_kept s _ _ (fun s _ =>
    (s.svcGet_kept _ _ _ _ _).andThen (fun t _ ht =>
      ((t.svcPut_kept _ _ _ _ _).via ht).andThen (fun t _ ht => (t.svcCopy_kept _ _ _ _ _ _ _).via ht)))

end Sys2Proof.Machine
end

section
namespace Sys2Proof.Machine

variable (s : State)

/-! ### Requests of pantries -/

theorem State.pantryStep_kept (p i : Nat) (x : Pantry) (w : SvcWork) : OptKept s (s.pantryStep p i x w) := by
  unfold State.pantryStep
  extract_lets fin rest hold
  have ended (t : State) (y : Option Pantry) (st : Nat) (ht : t.kept = s.kept) : OptKept s (fin t y st) := by
    simpa [fin] using ht
  have held (m : State × Word32) (hm : m.1.kept = s.kept) : OptKept s (hold m) := by simpa [hold] using hm
  split
  · split
    · next t _ hw => exact ended _ _ _ (s.pantryClear_kept _ _ _ _ _ hw)
    · exact held _ (by simp)
    · exact ended _ _ _ rfl
  · exact .ite s (ended _ _ _ rfl) (optKept_none s)
  · refine .ite s (ended _ _ _ rfl) ?_
    split
    · exact optKept_none s
    · extract_lets u run
      have ran (r : Svc (List Nat)) (hr : SvcKept s r) : OptKept s (run r) := by
        have all := hr.andThen (fun t l ht => (t.gather_kept u p x w.ctx w.area l).via ht)
        dsimp only [run]
        split
        · next hw => exact ended _ _ _ (all _ _ hw)
        · exact held _ (by simp)
        · exact ended _ _ _ rfl
      split
      · exact ran _ (by simp)
      · exact optKept_none s
      · exact .ite s (by simp) (ran _ (s.batchOf_kept _ _ _ _ _))

@[simp] theorem State.pantryGo_kept (p i fuel : Nat) : (s.pantryGo p i fuel).kept = s.kept := by
  induction fuel generalizing s with
  | zero => rfl
  | succ k ih =>
    simp only [State.pantryGo]
    split
    · rfl
    split
    · rfl
    split
    · split <;> simp [ih]
    · rfl
    split
    · rfl
    split
    · next t ht => rw [ih, s.pantryStep_kept _ _ _ _ t ht]
    · rfl

/-! ### Intakes -/

theorem State.svcClaim_kept (u : UnitId) (ctx p va : Nat) : SvcKept s (s.svcClaim u ctx p va) := by
  unfold State.svcClaim
  dsimp only
  repeat' split
  all_goals simp

theorem State.intakeStep_kept (p i : Nat) (x : Pantry) (r : IntakeRun) : OptKept s (s.intakeStep p i x r) := by
  unfold State.intakeStep
  extract_lets w fin out
  have ended (t : State) (st : Nat) (ht : t.kept = s.kept) : OptKept s (fin t st) := by simpa [fin] using ht
  have ran (q : Svc (Option IntakeRun)) (hq : SvcKept s q) : OptKept s (out q) := by
    dsimp only [out]
    split
    · simpa using hq
    · exact optKept_none s
    · simp
    · exact ended _ _ rfl
  refine .ite s (optKept_none s) (.ite s (ended _ _ rfl) ?_)
  split
  · exact optKept_none s
  split
  · exact ran _ ((s.svcClaim_kept _ _ _ _).andThen (fun t _ ht => by simpa using ht))
  · refine ran _ ((s.svcGet_kept _ _ _ _ _).andThen (fun t f ht => ?_))
    dsimp only
    split
    · simpa using ht
    split
    · simpa using ht
    · exact ((t.svcCopy_kept _ _ _ _ _ _ _).via ht).andThen (fun t _ ht =>
        ((t.tickFree.svcPut_kept _ _ _ _ _).via (by simpa using ht)).andThen (fun t _ ht => by simpa using ht))

@[simp] theorem State.intakeGo_kept (p i fuel : Nat) : (s.intakeGo p i fuel).kept = s.kept := by
  induction fuel generalizing s with
  | zero => rfl
  | succ k ih =>
    simp only [State.intakeGo]
    split
    · rfl
    split
    · rfl
    split
    · next t ht => rw [ih, s.intakeStep_kept _ _ _ _ t ht]
    · rfl

/-! ### Publications -/

theorem State.pubHeads_kept (ctx p r : Nat) (l : List Nat) : SvcKept s (s.pubHeads ctx p r l) := by
  induction l generalizing s with
  | nil => simp [State.pubHeads]
  | cons b l ih =>
    exact (s.svcNat_kept _ _ _ _).andThen (fun t h ht => ((ih t).via ht).andThen (fun u l hu => by simpa using hu))

theorem State.pubLocal_kept (x : PubRun) : SvcKept s (s.pubLocal x) := by
  refine (s.pubHeads_kept _ _ _ _).andThen (fun t l ht => ?_)
  split
  · simpa using ht
  · exact ((t.svcSet_kept _ _ _ _ _).via ht).andThen (fun t _ ht =>
      ((t.svcCopy_kept _ _ _ _ _ _ _).via ht).andThen (fun t _ ht =>
        ((t.svcSet_kept _ _ _ _ _).via ht).andThen (fun t _ ht =>
          ((t.svcPut_kept _ _ _ _ _).via ht).andThen (fun t _ ht => by simpa using ht))))

@[simp] theorem State.putPub_kept (x : PubRun) : (s.putPub x).kept = s.kept := (rfl)

@[simp] theorem State.dropPub_kept (id : Nat) : (s.dropPub id).kept = s.kept := (rfl)

@[simp] theorem State.pubEnd_kept (x : PubRun) (status : Nat) : (s.pubEnd x status).kept = s.kept := by
  simp only [State.pubEnd]
  repeat' split
  all_goals simp

@[simp] theorem State.pubCast_kept (x : PubRun) (e : Nat) (members : List Nat) : (s.pubCast x e members).kept = s.kept := by
  simp [State.pubCast]

theorem State.pubStep_kept (x : PubRun) : OptKept s (s.pubStep x) := by
  unfold State.pubStep
  extract_lets r hold w
  have held (m : State × Word32) (hm : m.1.kept = s.kept) : OptKept s (hold m) := by simpa [hold] using hm
  refine .ite s (optKept_none s) (.ite s ?begun ?_)
  case begun =>
    split
    · next hw =>
      have ht := s.pubLocal_kept x _ _ hw
      simp [ht]
    · exact optKept_none s
    · exact held _ (by simp)
    · simp
  split
  · split
    · exact .ite s (by simp) (optKept_none s)
    · simp
  split
  · exact optKept_none s
  split
  · next hw => simpa using s.svcGet_kept _ _ _ _ _ _ _ hw
  · exact held _ (by simp)
  · simp

@[simp] theorem State.pubGo_kept (fuel : Nat) : (s.pubGo fuel).kept = s.kept := by
  induction fuel generalizing s with
  | zero => rfl
  | succ k ih =>
    simp only [State.pubGo]
    split
    · next t ht =>
      obtain ⟨x, -, hx⟩ := List.exists_of_findSome?_eq_some ht
      split at hx
      · cases hx
      · rw [ih, s.pubStep_kept x t hx]
    · rfl

/-! ### Answers to queries -/

theorem State.batchDone_kept (p q : Nat) (x : Query) : (s.batchDone p q x).Done (fun _ t => t.kept = s.kept) := by
  unfold State.batchDone
  extract_lets next
  have moved (t : State) (ht : t.kept = s.kept) : (next t).kept = s.kept := by simpa [next] using ht
  split
  · simpa using moved s rfl
  · exact (s.svcNat_kept _ _ _ _).andThen (fun t _ ht =>
      ((t.svcSet_kept _ _ _ _ _).via ht).andThen (fun t _ ht => by simpa using moved t ht))

theorem State.answerStep_kept (p q : Nat) (x : Query) (status k off : Nat) : OptKept s (s.answerStep p q x status k off) := by
  unfold State.answerStep
  extract_lets w hold go h reply rc n from_ rmod tail a m r d src
  have held (m : State × Word32) (hm : m.1.kept = s.kept) : OptKept s (hold m) := by simpa [hold] using hm
  have gone (t : State) (y : Query) (ht : t.kept = s.kept) : OptKept s (go t y) := by simpa [go] using ht
  refine .ite s (optKept_none s) (.ite s ?batch (.ite s ?here (.ite s (optKept_none s) ?away)))
  case batch =>
    split
    · next hw => simpa using s.batchDone_kept _ _ _ _ _ hw
    · exact held _ (by simp)
    · simp
  case here =>
    split
    · next hw =>
      refine gone _ _ ((Svc.Done.andThen (P := fun t _ => t.kept = s.kept) ?_ (fun t _ ht => (t.svcPut_kept _ _ _ _ _).via ht)) _ _ hw)
      split
      · simp
      · exact s.svcCopy_kept _ _ _ _ _ _ _
    · exact held _ (by simp)
    · exact gone _ _ rfl
  case away =>
    have read : SvcKept s src := by
      dsimp only [src]
      split
      · simp
      · split <;> simp [d, r]
    clear_value src
    split
    · exact gone _ _ (by simpa using read)
    · exact held _ (by simp)
    · exact optKept_none s

@[simp] theorem State.answerGo_kept (p q fuel : Nat) : (s.answerGo p q fuel).kept = s.kept := by
  induction fuel generalizing s with
  | zero => rfl
  | succ k ih =>
    simp only [State.answerGo]
    split
    · rfl
    split
    · rfl
    split
    · next t ht => rw [ih, s.answerStep_kept _ _ _ _ _ _ t ht]
    · rfl

end Sys2Proof.Machine
end

section
namespace Sys2Proof.Machine

variable (s : State)

/-! ### The service's turn, and the end of a fault's waiters -/

@[simp] theorem State.svcKick_kept (p : Nat) : (s.svcKick p).kept = s.kept := by
  simp [State.svcKick]

@[simp] theorem State.svcKickAll_kept : s.svcKickAll.kept = s.kept := by
  simp [State.svcKickAll]

/-- Failed work of the service. -/
@[simp] theorem State.svcSettle_kept (p k : Nat) : (s.svcSettle p k false).kept = s.kept := by
  simp only [State.svcSettle, Bool.false_eq_true, if_false, Bool.false_and]
  repeat' split
  all_goals simp

/-- A failed phase of a cadence. -/
@[simp] theorem State.cadSettle_kept (p i : Nat) : (s.cadSettle p i false).kept = s.kept := by
  simp only [State.cadSettle, Bool.false_eq_true, if_false]
  split <;> simp

/-- A waiter whose access has failed. -/
@[simp] theorem State.settleWaiter_kept (w : Waiter) (rcd : Word32) (cls : Nat) : (s.settleWaiter w rcd false cls).kept = s.kept := by
  cases w <;> simp only [State.settleWaiter, Bool.false_eq_true, if_false]
  all_goals
    repeat' split
    all_goals simp

@[simp] theorem State.releaseRec_kept (f : FaultRec) (cls : Nat) : (s.releaseRec f false cls).kept = s.kept := by
  simp [State.releaseRec]

@[simp] theorem State.abortRec_kept (f : FaultRec) (cls : Nat) (tell : Bool) : (s.abortRec f cls tell).kept = s.kept := by
  simp [State.abortRec]

/-! ### The steps of a function level reset -/

@[simp] theorem State.flrWork_kept (p : Nat) : (s.flrWork p).kept = s.kept := by
  unfold State.flrWork
  refine (forEach_kept _ _ _ fun t j => ?_).trans ((forEach_kept _ _ _ fun t e => ?_).trans (forEach_kept _ _ _ fun t k => t.endKern_kept k))
  · repeat' split
    all_goals simp
  · repeat' split
    all_goals simp

@[simp] theorem State.flrQueues_kept (p : Nat) : (s.flrQueues p).kept = s.kept := by
  unfold State.flrQueues
  refine (kept_update _ ..).trans ((State.setEvts_kept _ _ _).trans (forEach_kept _ _ _ fun t f => ?_))
  repeat' split
  all_goals simp

@[simp] theorem State.ringStop_kept (r : Nat) : (s.ringStop r).kept = s.kept := (rfl)

@[simp] theorem State.flrPage_kept (p : Nat) : (s.flrPage p).kept = s.kept := by
  simp [State.flrPage]

/-- What a function level reset leaves (R526, log entry 64). -/
@[simp] theorem State.flrSteps_kept (p : Nat) : (s.flrSteps p).kept = s.kept := by
  simp [State.flrSteps]

end Sys2Proof.Machine
end

section
/-! PCIe resets, function level resets, NumVFs, configuration writes and the link (R36, R308, R496, R497, R526, R581, R606). -/

namespace Sys2Proof.Machine

/-- What the kept part tells of each of its fields. -/
theorem kept_fields {s t : State} (h : t.kept = s.kept) :
    t.power = s.power ∧ t.guards = s.guards ∧ t.parts.cellOf = s.parts.cellOf ∧ t.parts.granOf = s.parts.granOf ∧
    t.parts.ringOf = s.parts.ringOf ∧ t.mmu.ctxs = s.mmu.ctxs := by
  simpa only [State.kept, Prod.mk.injEq] using h

variable (s : State)

/-! ### A function's page, rings and events after the steps of R526 -/

/-- The registers that the last of the steps of R526 gives their reset values: the page of the function and the registers of its rings,
which stand apart from that page (R498). -/
theorem State.flrPage_reg (p k : Nat) (h : (fnPage p ≤ k ∧ k < fnPage p + 0x1_0000) ∨
      (0x2000_0000 ≤ k ∧ (k - 0x2000_0000) / 0x20 < 1024 ∧ s.ringPart ((k - 0x2000_0000) / 0x20) = p)) :
    (s.flrPage p).reg k = regReset k := by
  unfold State.flrPage
  extract_lets rings t₁ t₂ t₃ mine
  have last : t₃.reg k = regReset k := by
    rw [State.resetRegs_reg, State.resetRegs_reg]
    split
    · rfl
    · next page =>
      refine if_pos ?_
      obtain ⟨high, few, bound⟩ := h.resolve_left (fun h => page (by simp [h]))
      simp [rings, upTo, high, few, bound]
  clear_value t₃
  exact last

/-- A ring's registers are reset to a disabled ring (R498). -/
theorem regReset_ringEn (r : Nat) : fld (regReset (ringEn r).key) (ringEn r).lo (ringEn r).len = 0 := by
  have at8 : blockOf (ringKey r + 8) = (.ring r, 8) := by
    have high : ringKey r + 8 ≥ 0x2000_0000 := by simp only [ringKey]; omega
    rw [blockOf, if_pos high]
    simp only [ringKey, Prod.mk.injEq, Block.ring.injEq]
    omega
  have fields : regFields (ringKey r + 8) = ringFields 8 := by
    have even : ¬ (ringKey r + 8) % 8 ≠ 0 := by simp only [ringKey]; omega
    rw [regFields, if_neg even, at8]
  simp only [ringEn, regReset, fields]
  decide

theorem State.flrPage_evts (p j : Nat) : (s.flrPage p).evts j = s.evts j := by
  unfold State.flrPage
  extract_lets rings t₁ t₂ t₃ mine
  have stops : t₁.evts j = s.evts j := forEach_keeps (fun t : State => t.evts j) rings s _ (fun t r => rfl)
  rw [← stops]
  clear_value t₁ rings
  rfl

theorem State.flrQueues_evts (p : Nat) : ((s.flrQueues p).evts p).buffer = [] ∧ ((s.flrQueues p).evts p).popReqs = [] := by
  have set (t : State) (e : PartEvents) : (t.setEvts p e).evts p = e := mget_mset_same _ _ _ _
  unfold State.flrQueues
  extract_lets t e t₂ open_ recs
  have emptied : t₂.evts p = { e with buffer := [], popReqs := [], dropped := 0 } := set _ _
  clear_value t₂
  exact ⟨congrArg PartEvents.buffer emptied, congrArg PartEvents.popReqs emptied⟩

theorem State.flrSteps_evts (p : Nat) : ((s.flrSteps p).evts p).buffer = [] ∧ ((s.flrSteps p).evts p).popReqs = [] := by
  rw [State.flrSteps, State.flrPage_evts]
  exact State.flrQueues_evts _ p

theorem raiseM_evts (b j : Nat) : (s.raiseM b).evts j = s.evts j := rfl

/-- The rings of the partition are disabled. -/
theorem State.flrSteps_ringEn (p r : Nat) (hr : r < 1024) (h : s.ringPart r = p) : (s.flrSteps p).getF (ringEn r) = 0 := by
  have bound : ((s.flrWork p).flrQueues p).ringPart r = p := by
    obtain ⟨-, -, -, -, ringOf, -⟩ := kept_fields (t := (s.flrWork p).flrQueues p) (s := s) (by simp)
    exact (congrArg (mgetF ringHome · r) ringOf).trans h
  have key : (ringKey r + 8 - 0x2000_0000) / 0x20 = r := by simp only [ringKey]; omega
  have high : 0x2000_0000 ≤ ringKey r + 8 := by simp only [ringKey]; omega
  have reset : (s.flrSteps p).reg (ringEn r).key = regReset (ringEn r).key :=
    State.flrPage_reg _ p (ringKey r + 8) (.inr ⟨high, key.symm ▸ hr, key.symm ▸ bound⟩)
  rw [State.getF, reset, regReset_ringEn]

/-! ### Each event's effect -/

/-- A link reset takes the link down and NumVFs to 0, and keeps the power state and the bindings (R606). -/
theorem linkReset_effect (p : PowerState) (t : State) (ht : t = ({ s with power := p } : State).linkReset) :
    t.power = p ∧ t.host.linkUp = false ∧ t.host.numVfs = 0 ∧ t.host.busMaster = [] ∧ t.mmu.priFailed = false ∧
    t.parts.cellOf = s.parts.cellOf ∧ t.parts.ringOf = s.parts.ringOf := by
  subst ht
  unfold State.linkReset
  extract_lets t
  obtain ⟨power, -, cellOf, -, ringOf, -⟩ := kept_fields (t := t) (s := { s with power := p }) (by simp [t])
  clear_value t
  exact ⟨power, rfl, rfl, rfl, rfl, cellOf, ringOf⟩

/-- A function level reset of a VF (R526, log entry 64). -/
theorem flr_effect (f : Nat) (h0 : f ≠ 0) (t : State) (ht : t = (s.flrSteps f).raiseM 13) :
    t.getB ⟨irqJBase + 0x2000, 13, 1⟩ = true ∧ (t.evts f).buffer = [] ∧ (t.evts f).popReqs = [] ∧
    (∀ k, fnPage f ≤ k → k < fnPage f + 0x1_0000 → t.reg k = regReset k) ∧
    (∀ r : Fin 1024, s.ringPart r.val = f → t.getF (ringEn r.val) = 0) ∧
    t.parts.cellOf = s.parts.cellOf ∧ t.parts.granOf = s.parts.granOf ∧ t.parts.ringOf = s.parts.ringOf ∧ t.mmu.ctxs = s.mmu.ctxs ∧
    t.guards = s.guards ∧ t.power = s.power := by
  subst ht
  obtain ⟨power, guards, cellOf, granOf, ringOf, ctxs⟩ := kept_fields (t := (s.flrSteps f).raiseM 13) (s := s) (by simp)
  have apart (k : Nat) (hk : 0x1000_0000 ≤ k) : ((s.flrSteps f).raiseM 13).reg k = (s.flrSteps f).reg k := by
    refine raiseM_reg_ne _ 13 k (by decide) ?_
    simp only [FlagHome.keys, mstatHome, irqJBase, List.mem_cons, List.not_mem_nil, or_false]
    omega
  refine ⟨raiseM_set _ 13 (by decide), ?_, ?_, fun k lo hi => ?_, fun r hr => ?_,
    cellOf, granOf, ringOf, ctxs, guards, power⟩
  · exact (raiseM_evts _ 13 f).symm ▸ (s.flrSteps_evts f).1
  · exact (raiseM_evts _ 13 f).symm ▸ (s.flrSteps_evts f).2
  · have page : 0x1000_0000 ≤ fnPage f := by rw [fnPage, if_neg h0]; omega
    rw [apart k (page.trans lo)]
    exact State.flrPage_reg _ f k (.inl ⟨lo, hi⟩)
  · have ring : 0x1000_0000 ≤ (ringEn r.val).key := by simp only [ringEn, ringKey]; omega
    rw [State.getF, apart _ ring]
    exact s.flrSteps_ringEn f r.val r.isLt hr

/-- A function level reset of the PF closes the PF's guards (R526, R658). -/
theorem not_pf_guard (u : State) (b g : Nat) :
    (Requester.pf, g) ∉ (({ u with guards := u.guards.filter (fun g => g.1 != .pf) } : State).raiseM b).guards := by
  intro h
  simpa using (List.mem_filter.mp h).2

/-- A change of the link's state sets the link, raises its event, and nothing else (R581). -/
theorem linkState_effect (up : Bool) (rate width : Nat) (t : State) (ht : t = ({ s with host := { s.host with
      linkUp := up, linkRate := rate, linkWidth := width } } : State).raiseM 12) :
    t.getB ⟨irqJBase + 0x2000, 12, 1⟩ = true ∧
    t = { s with regs := t.regs, irq := { s.irq with routed := t.irq.routed }, host := { s.host with
      linkUp := up, linkRate := rate, linkWidth := width } } ∧
    OtherRegs (mstatHome 12).keys s t := by
  subst ht
  refine ⟨raiseM_set _ 12 (by decide), ?_, fun k hk => raiseM_reg_ne _ 12 k (by decide) hk⟩
  rw [State.raiseM, raiseAt_shape]

/-- A BAR4 size is the PF's or the VFs' (R497, R527). -/
theorem barSize_effect (f : Fin 16) (n : Fin 64) (hf : s.fnOk f.val = true) (lo : 30 ≤ n.val) (hi : n.val ≤ 40) :
    exec (.configurationWrite f (.barSize n)) s = .next { s with host := { s.host with
      pfBar := (if f.val = 0 then n.val else s.host.pfBar), vfBar := (if f.val = 0 then s.host.vfBar else n.val) } } := by
  have size : ¬ (n.val < 30 ∨ 40 < n.val) := by omega
  refine (congrArg Host.Outcome.next ((if_pos hf).trans (if_neg size))).trans ?_
  split <;> rfl

end Sys2Proof.Machine

open Sys2Proof Sys2Proof.Machine

/-- Settles O33: what the resets leave is `State.flrSteps_kept`, one rule per operation that they reach; the pages, rings and events they
clear are lemmas about `State.flrPage` and `State.flrQueues`. -/
theorem pcieEventsComplete : Obligations.PcieEventsComplete := by
  unfold Obligations.PcieEventsComplete
  intro s
  refine ⟨?perst, ?hot, fun b => ⟨_, rfl, rfl⟩, fun f hf h0 => ?vf, ?pf, fun n => ⟨fun hn => ?_, fun hn => ?_⟩,
    fun f hf => ⟨⟨_, congrArg Host.Outcome.next (if_pos hf), rfl⟩, fun b => ⟨_, congrArg Host.Outcome.next (if_pos hf), rfl⟩,
      fun n lo hi => ⟨_, barSize_effect s f n hf lo hi, rfl⟩⟩, fun up rate width hl => ?link⟩
  case perst =>
    obtain ⟨t, hx, ht⟩ : ∃ t, exec .perstNAssert s = .next t ∧
      t = ({ s with power := { s.power with perst := true } } : State).linkReset := ⟨_, rfl, rfl⟩
    obtain ⟨hp, hu, hn, hb, hf, hc, hr⟩ := linkReset_effect s _ t ht
    exact ⟨t, hx, hp, hu, hn, hb, hf, hc, hr, ht⟩
  case hot =>
    obtain ⟨t, hx, ht⟩ : ∃ t, exec .pcieHotReset s = .next t ∧ t = s.linkReset := ⟨_, rfl, rfl⟩
    obtain ⟨hp, hu, hn, hb, hf, hc, hr⟩ := linkReset_effect s s.power t ht
    exact ⟨t, hx, hp, hu, hn, hb, hf, hc, hr, ht⟩
  case vf =>
    refine ⟨_, ?_, rfl, flr_effect s f.val h0 _ rfl⟩
    refine congrArg Host.Outcome.next ((if_pos hf).trans ?_)
    simp only [h0, if_false]
    rfl
  case pf => exact ⟨_, _, rfl, rfl, rfl, fun g => not_pf_guard _ 13 g⟩
  · exact ⟨_, congrArg Host.Outcome.next (if_pos (decide_eq_true hn)), rfl⟩
  · exact congrArg Host.Outcome.next (if_neg (by simpa using hn))
  case link =>
    have free : (!up || (!s.power.perst && s.power.jrails)) = true := by simpa using hl
    exact ⟨_, congrArg Host.Outcome.next (if_pos free), linkState_effect s up _ _ _ rfl⟩
end

section
/-! The on-die network: what a flit's way out of a buffer and into the next one changes and leaves as it was (R46, R61-R63, R71, R72). -/

namespace Sys2Proof.Machine

/-! ### Keys -/

@[simp] theorem nth_allDirs_dirNo (d : MeshDir) : nth .cell allDirs (dirNo d) = d := by cases d <;> rfl

theorem dirNo_lt (d : MeshDir) : dirNo d < 6 := by cases d <;> decide

/-- The buffers of one channel stand under keys of their own (R62). -/
theorem bufKey_inj {r r' v : Nat} {d d' : MeshDir} (h : bufKey r d v = bufKey r' d' v) : (r, d) = (r', d') := by
  have hd := dirNo_lt d
  have hd' := dirNo_lt d'
  unfold bufKey at h
  have same : dirNo d = dirNo d' := by omega
  have router : r = r' := by omega
  rw [router, ← nth_allDirs_dirNo d, same, nth_allDirs_dirNo]

variable (s : State)

/-! ### Buffers and credits -/

@[simp] theorem State.setMeshBuf_meshBuf_same (r : Nat) (d : MeshDir) (v : Nat) (l : List Flit) :
    (s.setMeshBuf r d v l).meshBuf r d v = l := mget_mset_same _ _ _ _

theorem State.setMeshBuf_meshBuf_ne {r r' : Nat} {d d' : MeshDir} (v : Nat) (l : List Flit) (h : (r', d') ≠ (r, d)) :
    (s.setMeshBuf r d v l).meshBuf r' d' v = s.meshBuf r' d' v := mget_mset_ne _ _ _ _ _ (fun k => h (bufKey_inj k))

@[simp] theorem State.setMeshBuf_meshUsed (r r' : Nat) (d d' : MeshDir) (v v' : Nat) (l : List Flit) :
    (s.setMeshBuf r d v l).meshUsed r' d' v' = s.meshUsed r' d' v' := (rfl)

/-- Freeing flits of a buffer changes nothing but the credits owed. -/
theorem State.meshFreed_owed (r : Nat) (d : MeshDir) (v n : Nat) :
    s.meshFreed r d v n = { s with mesh := { s.mesh with owed := (s.meshFreed r d v n).mesh.owed } } := by
  unfold State.meshFreed
  split <;> rfl

@[simp] theorem State.meshFreed_meshBuf (r r' : Nat) (d d' : MeshDir) (v v' n : Nat) :
    (s.meshFreed r d v n).meshBuf r' d' v' = s.meshBuf r' d' v' := by
  rw [s.meshFreed_owed]
  rfl

@[simp] theorem State.meshFreed_meshUsed (r r' : Nat) (d d' : MeshDir) (v v' n : Nat) :
    (s.meshFreed r d v n).meshUsed r' d' v' = s.meshUsed r' d' v' := by
  rw [s.meshFreed_owed]
  rfl

@[simp] theorem State.meshFreed_arrived (r : Nat) (d : MeshDir) (v n : Nat) :
    (s.meshFreed r d v n).mesh.arrived = s.mesh.arrived := by
  rw [s.meshFreed_owed]

/-- Using credits changes no buffer. -/
@[simp] theorem State.meshSpend_meshBuf (r r' : Nat) (d d' : MeshDir) (v v' n : Nat) :
    (s.meshSpend r d v n).meshBuf r' d' v' = s.meshBuf r' d' v' := by
  unfold State.meshSpend
  split <;> rfl

/-- Every output that has a router behind it counts its credits (R62). -/
theorem State.meshSpend_meshUsed {r q : Nat} {out inp : MeshDir} {seam : Bool} (v n : Nat) (h : linkOf r out = .router q inp seam) :
    (s.meshSpend r out v n).meshUsed r out v = s.meshUsed r out v + n := by
  obtain ⟨c, hc⟩ : ∃ c, linkCap (linkOf r out) v = some c := by
    rw [h]
    cases seam <;> exact ⟨_, rfl⟩
  unfold State.meshSpend
  rw [hc]
  exact mget_mset_same _ _ _ _

/-! ### What a send leaves as it was -/

/-- The state without what a send of flits may change: the mesh's buffers, credits, exits and arrivals. -/
def State.offPath (s : State) : State :=
  { s with mesh := { s.mesh with bufs := [], used := [], owed := [], gates := [], arrived := [] } }

@[simp] theorem State.meshSpend_offPath (r : Nat) (d : MeshDir) (v n : Nat) : (s.meshSpend r d v n).offPath = s.offPath := by
  unfold State.meshSpend
  split <;> rfl

/-- Whatever stands behind the output, a send changes buffers, credits, exits and arrivals only (R63). -/
@[simp] theorem State.meshSend_offPath (r : Nat) (out : MeshDir) (v : Nat) (fs : List Flit) :
    (s.meshSend r out v fs).offPath = s.offPath := by
  unfold State.meshSend
  split
  case h_1 => exact s.meshSpend_offPath r out v _
  case h_2 =>
    refine (forEach_keeps State.offPath _ _ _ (fun u f => ?_)).trans (s.meshSpend_offPath r out v fs.length)
    rfl
  case h_3 =>
    refine (forEach_keeps State.offPath _ _ _ (fun u f => ?_)).trans (s.meshSpend_offPath r out v fs.length)
    rfl
  case h_4 => exact forEach_keeps State.offPath _ _ _ (fun _ _ => rfl)

variable {s} in
/-- Two states that agree off the path differ in the mesh only. -/
theorem eq_of_offPath {t : State} (h : t.offPath = s.offPath) : t = { s with mesh := t.mesh } :=
  congrArg (fun u : State => { u with mesh := t.mesh }) h

@[simp] theorem State.meshSend_locks (r : Nat) (out : MeshDir) (v : Nat) (fs : List Flit) :
    (s.meshSend r out v fs).mesh.locks = s.mesh.locks := congrArg (·.mesh.locks) (s.meshSend_offPath r out v fs)
@[simp] theorem State.meshSend_rrIn (r : Nat) (out : MeshDir) (v : Nat) (fs : List Flit) :
    (s.meshSend r out v fs).mesh.rrIn = s.mesh.rrIn := congrArg (·.mesh.rrIn) (s.meshSend_offPath r out v fs)
@[simp] theorem State.meshSend_repl (r : Nat) (out : MeshDir) (v : Nat) (fs : List Flit) :
    (s.meshSend r out v fs).mesh.repl = s.mesh.repl := congrArg (·.mesh.repl) (s.meshSend_offPath r out v fs)

/-! ### A send by what stands behind the output -/

/-- A router behind the output takes the flits at the end of its input buffer, and the output has used a credit for each. -/
theorem State.meshSend_router {r q : Nat} {out inp : MeshDir} {seam : Bool} (v : Nat) (fs : List Flit)
    (h : linkOf r out = .router q inp seam) :
    s.meshSend r out v fs = (s.meshSpend r out v fs.length).setMeshBuf q inp v (s.meshBuf q inp v ++ fs) := by
  unfold State.meshSend
  rw [h]

/-- The last flit of a packet delivers the packet to an endpoint. -/
theorem State.meshSend_endpoint {r : Nat} {out : MeshDir} (v : Nat) {f : Flit} (h : linkOf r out = .endpoint) (last : f.last = true) :
    s.meshSend r out v [f] = s.meshDeliver (endpointOf r out) f.pkt := by
  unfold State.meshSend
  rw [h]
  simp [last, forEach]

/-! ### MESH_FLIT_FORWARD (R63) -/

/-- The state in which the flit that the arbiters of an output chose has left its input buffer: channel v of the plane, input j, with the
output held by the packet until its last flit. -/
def State.meshTaken (s : State) (r : Nat) (out : MeshDir) (plane : Bool) (i j v : Nat) (f : Flit) (rest : List Flit) : State :=
  let u := (s.setMeshBuf r (nth .cell allDirs j) v rest).meshFreed r (nth .cell allDirs j) v 1
  { u with mesh := { u.mesh with
    rrVc := mset 0 u.mesh.rrVc ((r * 6 + dirNo out) * 2 + b2n plane) i
    locks := mset none u.mesh.locks (bufKey r out v) (if f.last then none else some j)
    rrIn := mset 0 u.mesh.rrIn (bufKey r out v) j } }

section
variable (r : Nat) (out : MeshDir) (plane : Bool) (i j v : Nat) (f : Flit) (rest : List Flit)

theorem State.meshTaken_mesh :
    s.meshTaken r out plane i j v f rest = { s with mesh := (s.meshTaken r out plane i j v f rest).mesh } := by
  unfold State.meshTaken
  rw [State.meshFreed_owed]
  rfl

theorem State.meshTaken_lock :
    mget none (s.meshTaken r out plane i j v f rest).mesh.locks (bufKey r out v) = if f.last then none else some j :=
  mget_mset_same _ _ _ _

theorem State.meshTaken_turn : mget 0 (s.meshTaken r out plane i j v f rest).mesh.rrIn (bufKey r out v) = j :=
  mget_mset_same _ _ _ _

theorem State.meshTaken_meshBuf (q : Nat) (d : MeshDir) (w : Nat) :
    (s.meshTaken r out plane i j v f rest).meshBuf q d w = (s.setMeshBuf r (nth .cell allDirs j) v rest).meshBuf q d w :=
  State.meshFreed_meshBuf _ _ _ _ _ _ _ _

theorem State.meshTaken_meshUsed (q : Nat) (d : MeshDir) (w : Nat) :
    (s.meshTaken r out plane i j v f rest).meshUsed q d w = s.meshUsed q d w :=
  State.meshFreed_meshUsed (s.setMeshBuf r (nth .cell allDirs j) v rest) _ _ _ _ _ _ _

theorem State.meshTaken_arrived : (s.meshTaken r out plane i j v f rest).mesh.arrived = s.mesh.arrived :=
  State.meshFreed_arrived (s.setMeshBuf r (nth .cell allDirs j) v rest) _ _ _ _
end

variable {s}

/-- A forward takes the flit that the arbiters choose from its buffer and sends it. -/
theorem meshFlitForward_eq {r : RouterId} {out : MeshDir} {plane : Bool} {i j v : Nat} {f : Flit} {rest : List Flit}
    (hv : v = (if plane then 6 else 0) + i)
    (channel : rrPick (if plane then 4 else 6) (mget 0 s.mesh.rrVc ((rtNo r * 6 + dirNo out) * 2 + b2n plane))
      (fun i => s.meshReady (rtNo r) out ((if plane then 6 else 0) + i)) = some i)
    (input : s.meshInput (rtNo r) out v = some j) (head : s.meshBuf (rtNo r) (nth .cell allDirs j) v = f :: rest) :
    exec (.meshFlitForward r out plane) s = .next ((s.meshTaken (rtNo r) out plane i j v f rest).meshSend (rtNo r) out v [f]) := by
  subst hv
  rw [show exec (.meshFlitForward r out plane) s = execMeshFlitForward r out plane s from rfl, execMeshFlitForward]
  simp only [channel, input, head]
  rfl

/-- The effect of sending the flit taken (R62, R63): at a router it stands at the end of the input buffer, at an endpoint a last flit
delivers its packet. -/
theorem meshSend_meshTaken_effect (r : Nat) (out : MeshDir) (plane : Bool) (i j v : Nat) (f : Flit) (rest : List Flit) (t : State)
    (ht : t = (s.meshTaken r out plane i j v f rest).meshSend r out v [f]) :
    t = { s with mesh := t.mesh } ∧ mget none t.mesh.locks (bufKey r out v) = (if f.last then none else some j) ∧
    mget 0 t.mesh.rrIn (bufKey r out v) = j ∧
    (∀ q inp seam, linkOf r out = .router q inp seam → (q, inp) ≠ (r, nth .cell allDirs j) →
      t.meshBuf r (nth .cell allDirs j) v = rest ∧ t.meshBuf q inp v = s.meshBuf q inp v ++ [f] ∧
      t.meshUsed r out v = s.meshUsed r out v + 1) ∧
    (linkOf r out = .endpoint → f.last = true → t.mesh.arrived = s.mesh.arrived ++ [(endpointOf r out, f.pkt)]) := by
  subst ht
  refine ⟨?frame, ?lock, ?turn, fun q inp seam link apart => ⟨?source, ?target, ?credit⟩, fun link last => ?arrival⟩
  case frame =>
    refine (eq_of_offPath (State.meshSend_offPath _ r out v [f])).trans ?_
    rw [State.meshTaken_mesh]
  case lock => rw [State.meshSend_locks, State.meshTaken_lock]
  case turn => rw [State.meshSend_rrIn, State.meshTaken_turn]
  case source =>
    rw [State.meshSend_router _ v [f] link, State.setMeshBuf_meshBuf_ne _ v _ apart.symm, State.meshSpend_meshBuf,
      State.meshTaken_meshBuf, State.setMeshBuf_meshBuf_same]
  case target =>
    rw [State.meshSend_router _ v [f] link, State.setMeshBuf_meshBuf_same, State.meshTaken_meshBuf,
      State.setMeshBuf_meshBuf_ne _ v _ apart]
  case credit =>
    rw [State.meshSend_router _ v [f] link, State.setMeshBuf_meshUsed, State.meshSpend_meshUsed _ v _ link, State.meshTaken_meshUsed]
    rfl
  case arrival =>
    rw [State.meshSend_endpoint _ v link last]
    exact congrArg (· ++ [(endpointOf r out, f.pkt)]) (s.meshTaken_arrived r out plane i j v f rest)

/-! ### MESH_CREDIT_RETURN, GATEWAY_ACCEPT and CELL_DOWN_CONSUME (R46, R61, R62) -/

/-- An owed credit reaches its sender (R62). -/
theorem meshCreditReturn_eq (r : RouterId) (out : MeshDir) (vc : MeshVc) {k : Nat} (hk : k = bufKey (rtNo r) out (vcNo vc))
    (owed : 0 < mget 0 s.mesh.owed k) :
    exec (.meshCreditReturn r out vc) s = .next { s with mesh := { s.mesh with
      owed := mset 0 s.mesh.owed k (mget 0 s.mesh.owed k - 1), used := mset 0 s.mesh.used k (mget 0 s.mesh.used k - 1) } } := by
  subst hk
  exact congrArg Host.Outcome.next (if_pos (decide_eq_true owed))

/-- The state in which a packet has left a gateway's exit, given by its router and port, with its credits owed. -/
def State.gateLeft (s : State) (b : Nat × MeshDir) (p : MeshPacket) : State :=
  let k := gateKey b.1 b.2
  ({ s with mesh := { s.mesh with gates := mset [] s.mesh.gates k ((mget [] s.mesh.gates k).erase p) } } : State).meshOwe
    b.1 b.2 (vcNo p.vc) p.flits

/-- A packet of the facing exit leaves that exit and enters whole in the channel for the die, when its flits have room
(R61). -/
theorem gatewayAccept_eq {g : GatewayId} {p : MeshPacket} {v : Nat} (hv : v = vcNo (entryVc p)) (one : 1 ≤ p.flits) (four : p.flits ≤ 4)
    (waits : (mget [] s.mesh.gates (gateKey (gateFrom g).1 (gateFrom g).2)).contains p = true)
    (room : (s.meshBuf (gateAt g).1 (gateAt g).2 v).length + p.flits ≤ nth 0 [0, 16, 0, 32, 32, 4, 0, 32, 32, 4] v)
    (bound : dstDie p = some ((gateAt g).1 / 120)) :
    exec (.gatewayAccept g p) s = .next ((s.gateLeft (gateFrom g) p).setMeshBuf (gateAt g).1 (gateAt g).2 v
      (s.meshBuf (gateAt g).1 (gateAt g).2 v ++ flitsOf { p with vc := entryVc p })) := by
  subst hv
  change execGatewayAccept g p s = _
  unfold execGatewayAccept
  extract_lets a b v cap fromExit fromJ fits
  have exit : fromExit = true := waits
  have enters : ((fromExit || fromJ) && fits && decide (dstDie p = some (a.1 / 120))) = true := by
    simp [exit, fits, v, cap, a, room, one, four, bound]
  rw [enters, exit]
  rfl

/-- A packet for a cell that is down is taken away; one that expects a completion is answered TARGET_DOWN (R46). -/
theorem cellDownConsume_eq (c : Fin 480) (p : MeshPacket) (down : s.cellDown c.val = true)
    (here : s.mesh.arrived.contains (c.val, p) = true) :
    exec (.cellDownConsume c p) s = .next { s with mesh := { s.mesh with
      arrived := s.mesh.arrived.erase (c.val, p)
      answers := (if p.expects then s.mesh.answers ++ [(p.id, 1)] else s.mesh.answers) } } :=
  congrArg Host.Outcome.next (if_pos (by rw [down, here]; rfl))

/-! ### MCAST_REPLICATION_ENTRY and MCAST_BRANCH_TAKE (R71, R72) -/

/-- A multicast packet with branches here enters the replication buffer whole when it has room (R71). -/
theorem mcastReplicationEntry_enters {r : RouterId} {inp : MeshDir} {p : MeshPacket}
    (head : headPacket (s.meshBuf (rtNo r) inp 1) = some p) (room : replFlits (mget [] s.mesh.repl (rtNo r)) + p.flits ≤ 32)
    (branches : branchesAt (rtNo r) inp p ≠ []) :
    ∃ t, exec (.mcastReplicationEntry r inp) s = .next t ∧
      t = { s with mesh := { s.mesh with bufs := t.mesh.bufs, owed := t.mesh.owed, repl := t.mesh.repl } } ∧
      t.meshBuf (rtNo r) inp 1 = (s.meshBuf (rtNo r) inp 1).drop p.flits ∧
      mget [] t.mesh.repl (rtNo r) = mget [] s.mesh.repl (rtNo r) ++ [⟨p, branchesAt (rtNo r) inp p⟩] := by
  rw [show exec (.mcastReplicationEntry r inp) s = execMcastReplicationEntry r inp s from rfl, execMcastReplicationEntry]
  simp only [head, room, if_true, List.isEmpty_iff, branches, if_false]
  refine ⟨_, rfl, ?frame, ?buffer, mget_mset_same _ _ _ _⟩
  case frame =>
    rw [State.meshFreed_owed]
    rfl
  case buffer => exact (State.meshFreed_meshBuf _ _ _ _ _ _ _ _).trans (State.setMeshBuf_meshBuf_same _ _ _ _ _)

/-- A multicast packet that has no room in the replication buffer waits (R71). -/
theorem mcastReplicationEntry_waits {r : RouterId} {inp : MeshDir} {p : MeshPacket}
    (head : headPacket (s.meshBuf (rtNo r) inp 1) = some p) (full : 32 < replFlits (mget [] s.mesh.repl (rtNo r)) + p.flits) :
    exec (.mcastReplicationEntry r inp) s = .next s := by
  rw [show exec (.mcastReplicationEntry r inp) s = execMcastReplicationEntry r inp s from rfl, execMcastReplicationEntry]
  simp only [head, Nat.not_le.mpr full, if_false]

/-- A branch that has the credits for the packet takes its copy; a branch without them waits (R72). -/
theorem mcastBranchTake_eq {r : RouterId} {b : MeshDir} {p : MeshPacket} {l : List ReplEntry}
    (oldest : takeBranch b (mget [] s.mesh.repl (rtNo r)) = (some p, l)) :
    exec (.mcastBranchTake r b) s = .next (if s.meshCredit (rtNo r) b 1 p.flits
      then ({ s with mesh := { s.mesh with repl := mset [] s.mesh.repl (rtNo r) l } } : State).meshSend (rtNo r) b 1 (flitsOf p)
      else s) := by
  rw [show exec (.mcastBranchTake r b) s = execMcastBranchTake r b s from rfl, execMcastBranchTake]
  simp only [oldest]

end Sys2Proof.Machine

open Sys2Proof Sys2Proof.Machine

/-- Settles O34: a forward is a flit taken (`State.meshTaken`) and sent (`State.meshSend`), and a send leaves all that is off its path as it
was (`State.meshSend_offPath`). -/
theorem meshOperationsComplete : Obligations.MeshOperationsComplete := by
  unfold Obligations.MeshOperationsComplete
  intro s
  refine ⟨fun r out plane i j v f rest hv channel input head => ?forward,
    fun r out vc k hk owed => ⟨_, meshCreditReturn_eq r out vc hk owed, rfl⟩,
    fun g p v hv one four waits room bound => ⟨_, gatewayAccept_eq hv one four waits room bound, rfl,
      State.setMeshBuf_meshBuf_same _ _ _ _ _, mget_mset_same _ _ _ _⟩,
    fun c p down here => ⟨_, cellDownConsume_eq c p down here, rfl⟩,
    fun r inp p head => ⟨mcastReplicationEntry_enters head, mcastReplicationEntry_waits head⟩,
    fun r b p l oldest => ⟨fun credit => ⟨_, ?branch, ?frame, rfl, ?left⟩, fun lacking => ?wait⟩⟩
  case forward => exact ⟨_, meshFlitForward_eq hv channel input head, meshSend_meshTaken_effect _ out plane i j v f rest _ rfl⟩
  case branch => rw [mcastBranchTake_eq oldest, if_pos credit]
  case frame => exact (eq_of_offPath (State.meshSend_offPath _ _ _ _ _)).trans rfl
  case left => rw [State.meshSend_repl, mget_mset_same]
  case wait => rw [mcastBranchTake_eq oldest, lacking]; rfl
end

section
/-! Accumulator tiles, sticky flags and the frame of a matrix core: the rules that matrix products rest on (R111, R133-R135). -/

namespace Sys2Proof.Machine

/-! ### The frame of a matrix core -/

theorem OnlyMatrix.refl (n : Nat) (keys : List Nat) (s : State) : OnlyMatrix n keys s s := ⟨rfl, fun _ _ => rfl, fun _ _ => rfl⟩

theorem OnlyMatrix.trans {n : Nat} {keys : List Nat} {s t u : State} (h : OnlyMatrix n keys s t) (g : OnlyMatrix n keys t u) :
    OnlyMatrix n keys s u := by
  obtain ⟨hst, hreg, hmc⟩ := h
  obtain ⟨htu, greg, gmc⟩ := g
  exact ⟨by rw [htu, hst], fun k hk => (greg k hk).trans (hreg k hk), fun j hj => (gmc j hj).trans (hmc j hj)⟩

/-- A change of core n alone. -/
theorem OnlyMatrix.setMc (n : Nat) (keys : List Nat) (s : State) (m : McState) : OnlyMatrix n keys s (s.setMc n m) :=
  ⟨rfl, fun _ _ => rfl, fun j hj => s.setMc_mc_ne n j m hj⟩

theorem OnlyMatrix.updMc (n : Nat) (keys : List Nat) (s : State) (f : McState → McState) : OnlyMatrix n keys s (s.updMc n f) :=
  OnlyMatrix.setMc n keys s _

/-- A write of a field of a named register. -/
theorem OnlyMatrix.putF (n : Nat) {keys : List Nat} (s : State) (f : RF) (x : Nat) (h : f.key ∈ keys) :
    OnlyMatrix n keys s (s.putF f x) :=
  ⟨rfl, fun k hk => by rw [State.putF_reg, if_neg (ne_of_mem_of_not_mem h hk).symm], fun _ _ => rfl⟩

/-! ### Sticky flags (R111, R194) -/

/-- What every write of a sticky flag of core n keeps, the flags of an operation keep. -/
theorem State.setAFlags_induction {P : State → Prop} (s : State) (n : Nat) (fl : AFlags) (start : P s)
    (flag : ∀ t b, 8 ≤ b → P t → P (t.putF ⟨mxcBase n + 8, b, 1⟩ 1)) : P (s.setAFlags n fl) := by
  have one : ∀ (t : State) (c : Bool) (b : Nat), 8 ≤ b → P t → P (if c then t.putF ⟨mxcBase n + 8, b, 1⟩ 1 else t) := by
    intro t c b hb ht
    split
    · exact flag t b hb ht
    · exact ht
  exact one _ _ 10 (by decide) (one _ _ 9 (by decide) (one _ _ 8 (by decide) start))

@[simp] theorem State.setAFlags_mc (s : State) (n : Nat) (fl : AFlags) (j : Nat) : (s.setAFlags n fl).mc j = s.mc j :=
  State.setAFlags_induction (P := fun t => t.mc j = s.mc j) s n fl rfl (fun _ _ _ ht => ht)

/-- The state of the core stands below its sticky flags. -/
@[simp] theorem State.setAFlags_mxcSt (s : State) (n : Nat) (fl : AFlags) : (s.setAFlags n fl).getF (mxcSt n) = s.getF (mxcSt n) :=
  State.setAFlags_induction (P := fun t => t.getF (mxcSt n) = s.getF (mxcSt n)) s n fl rfl
    (fun t b hb ht => (State.putF_getF_ne t _ (mxcSt n) _ (.inr (.inl (by simp only [mxcSt]; omega)))).trans ht)

theorem OnlyMatrix.setAFlags (n : Nat) (s : State) (fl : AFlags) : OnlyMatrix n [mxcBase n + 8] s (s.setAFlags n fl) :=
  State.setAFlags_induction (P := OnlyMatrix n [mxcBase n + 8] s) s n fl (OnlyMatrix.refl n _ s)
    (fun t _ _ ht => ht.trans (OnlyMatrix.putF n t _ 1 (List.mem_singleton.mpr rfl)))

/-! ### Zero-marked tiles (R133, R134) -/

/-- A run of marks written with one value reads that value, and every other mark reads as before. -/
theorem mget_forEach_mset {α : Type} [DecidableEq α] (d : α) (base : Nat) (v : α) (n : Nat) (z : SMap α) (k : Nat) :
    mget d (forEach (upTo n) z (fun z i => mset d z (base + i) v)) k = if base ≤ k ∧ k < base + n then v else mget d z k := by
  simp only [forEach, upTo]
  induction n with
  | zero => rw [if_neg (by omega)]; rfl
  | succ n ih =>
    rw [List.range_succ, List.foldl_append, List.foldl_cons, List.foldl_nil, mget_mset, ih]
    grind

variable (m : McState)

/-- Clearing a tile zero-marks its 32 rows and no other row. -/
theorem McState.clearAcc_zeroRow (t : Nat) (int : Bool) (a i : Nat) (hi : i < 32) :
    (m.clearAcc t int).zeroRow a i = if a = t then true else m.zeroRow a i := by
  simp only [zeroRow, clearAcc, mget_forEach_mset]
  by_cases h : a = t
  · rw [if_pos (by omega), if_pos h]
  · rw [if_neg (by omega), if_neg h]

theorem McState.clearAcc_intTag (t : Nat) (int : Bool) (a : Nat) :
    (m.clearAcc t int).intTag a = if a = t then int else m.intTag a := mget_mset _ _ _ _ _

theorem McState.clearAccs_succ (t n : Nat) (int : Bool) : m.clearAccs t (n + 1) int = (m.clearAccs t n int).clearAcc (t + n) int := by
  rw [clearAccs, forEach, upTo, List.range_succ, List.foldl_append]
  rfl

/-- Clearing tiles changes zero marks and tags only. -/
theorem McState.clearAccs_shape (t n : Nat) (int : Bool) :
    m.clearAccs t n int = { m with zero := (m.clearAccs t n int).zero, tag := (m.clearAccs t n int).tag } := by
  have marks : ∃ z g, m.clearAccs t n int = { m with zero := z, tag := g } := by
    induction n with
    | zero => exact ⟨_, _, rfl⟩
    | succ n ih =>
      obtain ⟨z, g, h⟩ := ih
      exact ⟨_, _, by rw [clearAccs_succ, h, clearAcc]⟩
  obtain ⟨z, g, h⟩ := marks
  rw [h]

/-- Clearing a run of tiles zero-marks their rows and no other row. -/
theorem McState.clearAccs_zeroRow (t n : Nat) (int : Bool) (a i : Nat) (hi : i < 32) :
    (m.clearAccs t n int).zeroRow a i = if t ≤ a ∧ a < t + n then true else m.zeroRow a i := by
  induction n with
  | zero => rw [if_neg (by omega)]; rfl
  | succ n ih =>
    rw [clearAccs_succ, clearAcc_zeroRow _ _ _ _ _ hi, ih]
    grind

/-- Clearing a run of tiles tags these tiles and no other tile. -/
theorem McState.clearAccs_intTag (t n : Nat) (int : Bool) (a : Nat) :
    (m.clearAccs t n int).intTag a = if t ≤ a ∧ a < t + n then int else m.intTag a := by
  induction n with
  | zero => rw [if_neg (by omega)]; rfl
  | succ n ih =>
    rw [clearAccs_succ, clearAcc_intTag, ih]
    grind

/-- An element of a zero-marked row is +0 (R134). -/
theorem McState.accAt_of_zeroRow {t i : Nat} (h : m.zeroRow t i = true) (j : Nat) : m.accAt t i j = 0 := if_pos h

/-! ### Write-back of a pass (R127, R173) -/

theorem McState.putAcc_jobs (t i j v : Nat) : (m.putAcc t i j v).jobs = m.jobs := by
  unfold McState.putAcc
  dsimp only
  split <;> rfl

/-- The write-back of a pass leaves the queue of products as it was. -/
theorem McState.runPass_jobs (p : ArrayPass) : (m.runPass p).m.jobs = m.jobs :=
  forEach_keeps (fun z : MoveRes => z.m.jobs) _ _ _ (fun z _ => z.m.putAcc_jobs _ _ _ _)

end Sys2Proof.Machine
end

section
/-! MMA, the passes of the array and the starvation guard (R135, R168, R171, R173). -/

namespace Sys2Proof.Machine

/-- The product that an MMA queues: its record as operand scratch holds it at issue, and its fields (R161, R167). -/
def State.mmaJob (s : State) (n : Nat) (f : BitVec 56) : MmaJob :=
  ⟨s.reg (mxcBase n + 0x10) &&& maskW 0 48, (s.mc n).scrNat (32 * fb f 55 42) 64, fb f 41 36, fbit f 35, fbit f 33,
    if fbit f 32 then some (fb f 31 28) else none, fb f 27 24, fb f 23 20, 0, 0⟩

/-- A core that queues a product, its tiles cleared when init is 1 (R171). -/
def McState.queueMma (m : McState) (j : MmaJob) (init : Bool) : McState :=
  { (if init then m.clearAccs j.abase j.tiles (fmtInt j.fmtA) else m) with jobs := m.jobs ++ [j] }

/-- Whether the array accepts an MMA: no LDS runs, every older product has begun all its passes, the accumulator tiles are free, and no TLD
of its stationary register is under way (R136, R140, R151). -/
def McState.mmaReady (m : McState) (j : MmaJob) (f : BitVec 56) : Bool :=
  m.lds.isNone && m.jobs.all (fun o => decide (o.begun = o.total))
    && (!m.ops.any (fun o => o.onAcc j.abase (min j.tiles 64))
      && (!fbit f 34 || !(upTo (min j.tiles 64)).any (fun i => m.jobs.any (fun o => o.uses (j.abase + i)))))
    && (!fbit f 32 || m.tileRd (fb f 31 28))

theorem McState.mmaReady_of_idle {m : McState} (noLds : m.lds = none) (noJobs : m.jobs = []) (noOps : m.ops = []) (j : MmaJob)
    (f : BitVec 56) : m.mmaReady j f = true := by
  simp [mmaReady, tileRd, noLds, noJobs, noOps]

variable {mc : Fin 1920} {s : State}

/-- What an MMA issues. -/
theorem exec_mma (mc : Fin 1920) (f : BitVec 56) (s : State) : exec (.mma mc f) s =
    s.issue mc.val 1 (rsvd f [(55, 42), (41, 36), (35, 35), (34, 34), (33, 33), (32, 32), (31, 28), (27, 24), (23, 20)])
      ((s.mc mc.val).mmaReady (s.mmaJob mc.val f) f)
      ((s.mc mc.val).mmaCheck (s.mmaJob mc.val f) (fbit f 34) (decide (32 * fb f 55 42 + 64 ≤ scratchSize)))
      (fun u => u.updMc mc.val (fun m => m.queueMma (s.mmaJob mc.val f) (fbit f 34))) := rfl

/-- An MMA that breaks no check, on a core without an LDS, another product or a move, queues its product and goes on. -/
theorem mma_queues {f : BitVec 56} (run : s.mcRun mc.val = true)
    (clean : rsvd f [(55, 42), (41, 36), (35, 35), (34, 34), (33, 33), (32, 32), (31, 28), (27, 24), (23, 20)] = false)
    (noLds : (s.mc mc.val).lds = none) (noJobs : (s.mc mc.val).jobs = []) (noOps : (s.mc mc.val).ops = [])
    (checked : (s.mc mc.val).mmaCheck (s.mmaJob mc.val f) (fbit f 34) (decide (32 * fb f 55 42 + 64 ≤ scratchSize)) = none) :
    exec (.mma mc f) s = .next (((s.putF (mxcSt mc.val) 1).updMc mc.val
      (fun m => m.queueMma (s.mmaJob mc.val f) (fbit f 34))).goTo mc.val (s.pcAt mc.val + 8)) := by
  rw [exec_mma, clean, checked, McState.mmaReady_of_idle noLds noJobs noOps]
  exact State.issueTo_go s mc.val 1 _ _ run

/-- What an MMA leaves: its product queued, and of its core's other storage only zero marks and tags changed. -/
theorem McState.queueMma_shape (m : McState) (j : MmaJob) (init : Bool) :
    m.queueMma j init = { m with jobs := m.jobs ++ [j], zero := (m.queueMma j init).zero, tag := (m.queueMma j init).tag } := by
  unfold queueMma
  split
  · rw [clearAccs_shape]
  · rfl

/-- With init 1 an MMA tags its tiles, and each of their elements is +0 (R134, R171). -/
theorem McState.queueMma_cleared (m : McState) (j : MmaJob) {a : Nat} (first : j.abase ≤ a) (last : a < j.abase + j.tiles) :
    (m.queueMma j true).intTag a = fmtInt j.fmtA ∧ ∀ i k, i < 32 → (m.queueMma j true).accAt a i k = 0 := by
  have tag := m.clearAccs_intTag j.abase j.tiles (fmtInt j.fmtA) a
  have zero := fun i hi => m.clearAccs_zeroRow j.abase j.tiles (fmtInt j.fmtA) a i hi
  simp only [first, last, true_and, if_true] at tag zero
  exact ⟨tag, fun i k hi => accAt_of_zeroRow _ (zero i hi) k⟩

/-- ARRAY_PASS_START begins the next pass of the oldest product, when it has one left and the array is empty (R128, R206). -/
theorem arrayPassStart_begins {j : MmaJob} {l : List MmaJob} (goes : s.arrayGoes mc.val = true) (open_ : (s.mc mc.val).guard = false)
    (oldest : (s.mc mc.val).jobs = j :: l) (left : j.begun < j.total) (empty : (s.mc mc.val).passes = []) :
    exec (.arrayPassStart mc) s = .next (s.mmaBegin mc.val j) := by
  rw [show exec (.arrayPassStart mc) s = execArrayPassStart mc s from rfl, execArrayPassStart, when, goes, open_]
  simp only [Bool.not_false, Bool.and_true, if_true, oldest, List.find?_cons, left, decide_true, McState.mayFollow, empty]

/-- A pass that has begun stands last in the array and counts for its product, and nothing else has changed. -/
theorem State.mmaBegin_mc (n : Nat) (j : MmaJob) : (s.mmaBegin n j).mc n = { s.mc n with
    passes := (s.mc n).passes ++ [(s.mc n).mmaPass j]
    jobs := mapWhere (s.mc n).jobs (fun o => o == j) (fun o => { o with begun := o.begun + 1 }) } := State.updMc_mc_same _ _ _

/-- ARRAY_PASS_COMPLETE writes back the oldest pass of a product: its flags are set, it leaves the array, and the oldest product has one
pass more ended, or leaves the queue with its last (R173). -/
theorem arrayPassComplete_writesBack {p : ArrayPass} {l : List ArrayPass} {j : MmaJob} {js : List MmaJob}
    (oldestPass : (s.mc mc.val).passes = p :: l) (product : p.lds = false) (oldest : (s.mc mc.val).jobs = j :: js) :
    exec (.arrayPassComplete mc) s = .next
      ((((s.setMc mc.val ((s.mc mc.val).runPass p).m).setAFlags mc.val ((s.mc mc.val).runPass p).fl).updMc mc.val
        (fun m => { m with passes := l })).updMc mc.val
        (fun m => { m with jobs := if j.ended + 1 = j.total then js else { j with ended := j.ended + 1 } :: js })) := by
  rw [show exec (.arrayPassComplete mc) s = execArrayPassComplete mc s from rfl, execArrayPassComplete]
  have jobs : ((s.mc mc.val).runPass p).m.jobs = j :: js := ((s.mc mc.val).runPass_jobs p).trans oldest
  simp only [oldestPass, product, Bool.false_and, Bool.false_eq_true, if_false]
  simp only [State.updMc, State.setMc_mc_same, State.setAFlags_mc, jobs]

/-- ACC_STARVATION_GUARD raises the guard while the array has work (R135). -/
theorem accStarvationGuard_raises (busy : (s.mc mc.val).arrayQuiet = false) :
    exec (.accStarvationGuard mc) s = .next (s.updMc mc.val (fun m => { m with guard := true })) := by
  rw [show exec (.accStarvationGuard mc) s = execAccStarvationGuard mc s from rfl, execAccStarvationGuard, when, busy]
  rfl

end Sys2Proof.Machine

open Sys2Proof Sys2Proof.Machine

/-- Settles O6: each command's next state is named once (`mma_queues`, `arrayPassStart_begins`, `arrayPassComplete_writesBack`,
`accStarvationGuard_raises`), and what it changes is read off it. -/
theorem matrixProductsComplete : Obligations.MatrixProductsComplete := by
  unfold Obligations.MatrixProductsComplete
  intro mc f s
  refine ⟨fun j run clean hj noLds noJobs noOps checked => ?queue, fun j l goes open_ oldest left empty => ?start,
    fun p l j js oldestPass product oldest => ?complete, fun busy => ?guard⟩
  case queue =>
    obtain rfl : j = s.mmaJob mc.val f := hj
    refine ⟨_, mma_queues run clean noLds noJobs noOps checked, ?_⟩
    have issued := issued_updMc s mc.val (fun m => m.queueMma (s.mmaJob mc.val f) (fbit f 34)) (s.pcAt mc.val + 8)
    generalize (((s.putF (mxcSt mc.val) 1).updMc mc.val _).goTo mc.val (s.pcAt mc.val + 8)) = t at issued ⊢
    obtain ⟨only, next, core⟩ := issued
    refine ⟨⟨only, next, ?core⟩, fun keep => ?kept, fun init a first last => ?cleared⟩
    case core => rw [core, McState.queueMma_shape, noJobs]; rfl
    case kept => rw [core, keep]; exact ⟨rfl, rfl⟩
    case cleared =>
      rw [core, init]
      exact McState.queueMma_cleared _ _ first last
  case start =>
    refine ⟨_, arrayPassStart_begins goes open_ oldest left empty, OnlyMatrix.updMc _ _ _ _, ?_, ?_⟩
    · rw [State.mmaBegin_mc, empty]
      rfl
    · rw [State.mmaBegin_mc, oldest]
      simp [mapWhere]
  case complete =>
    refine ⟨_, arrayPassComplete_writesBack oldestPass product oldest, ?frame, ?core, ?state⟩
    case frame =>
      exact (((OnlyMatrix.setMc _ _ s _).trans (OnlyMatrix.setAFlags mc.val _ _)).trans (OnlyMatrix.updMc _ _ _ _)).trans
        (OnlyMatrix.updMc _ _ _ _)
    case core => simp only [State.updMc_mc_same, State.setAFlags_mc, State.setMc_mc_same]
    case state => simp only [State.updMc_getF, State.setAFlags_mxcSt, State.setMc_getF]
  case guard => exact ⟨_, accStarvationGuard_raises busy, OnlyMatrix.updMc _ _ _ _, State.updMc_mc_same _ _ _⟩
end

section
/-! Every command answers a next state. Most meanings are written as one; the rules here are for those that choose between several. -/

namespace Sys2Proof.Machine

/-- A meaning answers a next state: it neither faults nor refuses. -/
def Answers (r : Res) : Prop := ∃ t, r = .next t

theorem answers_next (t : State) : Answers (.next t) := ⟨t, rfl⟩

theorem answers_when (c : Bool) (f : State → State) (s : State) : Answers (when c f s) := ⟨_, rfl⟩

theorem answers_ite {p : Prop} [Decidable p] {x y : Res} (hx : Answers x) (hy : Answers y) : Answers (if p then x else y) := by
  split
  · exact hx
  · exact hy

theorem answers_issue (s : State) (n u : Nat) (rsv ready : Bool) (chk : Chk) (act : State → State) :
    Answers (s.issue n u rsv ready chk act) := ⟨_, rfl⟩

variable (s : State)

/-- A flit is taken, counted as damaged, or ignored (R407, R412). -/
theorem answers_onFlit (n : Nat) (bs : List Byte) (ftype : Nat) (act : State → Nat → State) : Answers (s.onFlit n bs ftype act) :=
  answers_ite (answers_ite (answers_next _) (answers_when _ _ _)) (answers_next s)

theorem answers_onCtrl (n : Nat) (bs : List Byte) (kind : Nat) (clean : List Byte → Bool) (act : State → List Byte → State) :
    Answers (s.onCtrl n bs kind clean act) := answers_onFlit s n bs 2 _

theorem answers_configFlit (p : Fin 18) (bytes : List Byte) : Answers (execConfigFlit p bytes s) := by
  unfold execConfigFlit
  exact answers_onCtrl _ _ _ _ _ _

theorem answers_creditFlit (p : Fin 18) (bytes : List Byte) : Answers (execCreditFlit p bytes s) := by
  unfold execCreditFlit
  exact answers_onCtrl _ _ _ _ _ _

theorem answers_dataFlit (p : Fin 18) (bytes : List Byte) : Answers (execDataFlit p bytes s) := by
  unfold execDataFlit
  exact answers_onFlit _ _ _ _ _

theorem answers_idleFlit (p : Fin 18) (bytes : List Byte) : Answers (execIdleFlit p bytes s) := by
  unfold execIdleFlit
  exact answers_onFlit _ _ _ _ _

theorem answers_retrainFlit (p : Fin 18) (bytes : List Byte) : Answers (execRetrainFlit p bytes s) := answers_onCtrl _ _ _ _ _ _

theorem answers_quarantineFlit (p : Fin 18) (bytes : List Byte) : Answers (execQuarantineFlit p bytes s) := answers_onCtrl _ _ _ _ _ _

theorem answers_dmaq (mc : Fin 1920) (f : BitVec 56) : Answers (execDmaq mc f s) :=
  answers_ite (answers_next _) (answers_issue _ _ _ _ _ _ _)

theorem answers_ringNop (src : CmdSrc) (c : Cmd) : Answers (execRingNop src c s) :=
  answers_ite (answers_when _ _ _) (answers_when _ _ _)

/-- A word with its opcode in custom-0 or custom-1 encodes no instruction, or one that answers (R262). -/
theorem answers_of_rvCustom {vc : Fin 480} {w : Nat} {r : Res} (h : s.rvCustom vc w = some r) : Answers r := by
  have sel : ∀ {c : Bool} {x : Res}, (if c then some x else none) = some r → Answers x → Answers r := by
    intro c x e hx
    split at e
    · exact Option.some.inj e ▸ hx
    · cases e
  unfold State.rvCustom at h
  dsimp only at h
  split at h
  case isTrue =>
    split at h
    case h_9 => cases h
    case h_2 | h_4 => exact Option.some.inj h ▸ ⟨_, rfl⟩
    all_goals exact sel h ⟨_, rfl⟩
  case isFalse =>
    split at h
    case h_11 => cases h
    all_goals exact sel h ⟨_, rfl⟩

theorem answers_riscvInstruction (core : RvCore) (w : Word32) : Answers (execRiscvInstruction core w s) := by
  refine answers_ite (answers_next s) ?_
  split
  case h_1 => exact answers_next _
  case h_2 => exact answers_next _
  case h_3 =>
    split
    case h_2 => exact answers_next _
    case h_1 n _ =>
      refine answers_ite ?_ (answers_next _)
      cases h : (s.rvFetch (rvKey (.vc n)) (if w.toNat % 4 = 3 then 4 else 2)).1.rvCustom n w.toNat with
      | none => exact answers_next _
      | some r => exact answers_of_rvCustom _ h

theorem answers_intakeSkip (p : Fin 16) (i : Fin 10) : Answers (execIntakeSkip p i s) := by
  have go : ∀ r : Svc Unit, Answers (match r with
      | .ok s _ => .next (s.svcKick p.val)
      | .miss u c va acc e => .next (s.svcMiss p.val u c va acc e (.service p.val (if i.val < 8 then 32 + i.val else i.val))).1
      | .bad => .next s) := fun r => by cases r <;> exact answers_next _
  refine answers_ite (answers_next s) (answers_ite ?pantry ?query)
  case pantry =>
    split
    · exact answers_ite (answers_next s) (go _)
    · exact answers_next s
  case query =>
    split
    · exact go _
    · exact answers_next s

theorem answers_queryBatchTimeout (p : Fin 16) (i : Fin 2) : Answers (execQueryBatchTimeout p i s) := by
  unfold execQueryBatchTimeout
  split
  · exact answers_when _ _ _
  · exact answers_next s

theorem answers_queryDoneRead (p : Fin 16) (i : Fin 2) : Answers (execQueryDoneRead p i s) := by
  unfold execQueryDoneRead
  split
  · exact answers_when _ _ _
  · exact answers_next s

theorem answers_queryDoneTimeout (p : Fin 16) (i : Fin 2) : Answers (execQueryDoneTimeout p i s) := by
  unfold execQueryDoneTimeout
  split
  · exact answers_when _ _ _
  · exact answers_next s

theorem answers_cadencePeriodStart (p : Fin 16) (i : Fin 4) : Answers (execCadencePeriodStart p i s) := by
  unfold execCadencePeriodStart
  dsimp only
  split
  · exact answers_next s
  · exact answers_when _ _ _

end Sys2Proof.Machine

open Sys2Proof Sys2Proof.Machine

/-- Settles O57: the meanings that choose between several answers have a lemma each, and every other one is written as a next state. -/
theorem everyCommandHasANextState : Obligations.EveryCommandHasANextState := by
  unfold Obligations.EveryCommandHasANextState
  intro c s
  cases c
  case dmaq mc f => exact answers_dmaq s mc f
  case riscvInstruction core w => exact answers_riscvInstruction s core w
  case configFlit p bytes => exact answers_configFlit s p bytes
  case creditFlit p bytes => exact answers_creditFlit s p bytes
  case retrainFlit p bytes => exact answers_retrainFlit s p bytes
  case quarantineFlit p bytes => exact answers_quarantineFlit s p bytes
  case dataFlit p bytes => exact answers_dataFlit s p bytes
  case idleFlit p bytes => exact answers_idleFlit s p bytes
  case ringNop src c => exact answers_ringNop s src c
  case intakeSkip p i => exact answers_intakeSkip s p i
  case queryBatchTimeout p i => exact answers_queryBatchTimeout s p i
  case queryDoneRead p i => exact answers_queryDoneRead s p i
  case queryDoneTimeout p i => exact answers_queryDoneTimeout s p i
  case cadencePeriodStart p i => exact answers_cadencePeriodStart s p i
  all_goals exact ⟨_, rfl⟩
end

section
/-! Issue of matrix instructions: what each end of it leaves, for every instruction at once (R146, R150, R187, R189). -/

namespace Sys2Proof.Machine

/-- An instruction that nothing holds or refuses and whose effect is to leave its core as m has issued. -/
theorem State.issueTo_issued {s : State} {n u : Nat} {rsv ready : Bool} {chk : Chk} {act : State → State} {next : Int} (m : McState)
    (run : s.mcRun n = true) (clean : rsv = false) (free : ready = true) (checked : chk = none)
    (effect : act (s.putF (mxcSt n) 1) = (s.putF (mxcSt n) 1).setMc n m) :
    ∃ t, s.issueTo n u rsv ready chk act next = .next t ∧ Issued n next m s t := by
  subst clean free checked
  refine ⟨_, State.issueTo_go s n u act next run, ?_⟩
  rw [effect]
  exact issued_updMc s n (fun _ => m) next

/-- An instruction without an effect of its own has issued. -/
theorem State.issueTo_issued_id {s : State} {n u : Nat} {rsv ready : Bool} {chk : Chk} {next : Int}
    (run : s.mcRun n = true) (clean : rsv = false) (free : ready = true) (checked : chk = none) :
    ∃ t, s.issueTo n u rsv ready chk id next = .next t ∧ Issued n next (s.mc n) s t := by
  subst clean free checked
  exact ⟨_, State.issueTo_go s n u id next run, issued_id s n next⟩

/-- An instruction with a reserved bit or value is refused, and nothing of it issues (R146). -/
theorem State.issueTo_encoding {s : State} {mc : Fin 1920} {u : Nat} {rsv ready : Bool} {chk : Chk} {act : State → State} {next : Int}
    (run : s.mcRun mc.val = true) (bad : rsv = true) (unit : u < 8) :
    ∃ t, s.issueTo mc.val u rsv ready chk act next = .next t ∧ FaultedAtIssue mc.val 2 0 u s t := by
  subst bad
  exact ⟨_, State.issueTo_reserved s mc.val u ready chk act next run, faultedAtIssue mc.val mc.isLt 2 0 u s (by decide) (by decide) unit⟩

/-- An instruction that fails a check is refused with the check's fault, and nothing of it issues (R187). -/
theorem State.issueTo_refused {s : State} {mc : Fin 1920} {u code operand : Nat} {rsv ready : Bool} {chk : Chk} {act : State → State}
    {next : Int} (run : s.mcRun mc.val = true) (clean : rsv = false) (free : ready = true) (bad : chk = some (code, operand))
    (hc : code < 256) (ho : operand < 16) (hu : u < 8) :
    ∃ t, s.issueTo mc.val u rsv ready chk act next = .next t ∧ FaultedAtIssue mc.val code operand u s t := by
  subst clean free bad
  exact ⟨_, State.issueTo_check s mc.val u (code, operand) act next run, faultedAtIssue mc.val mc.isLt code operand u s hc ho hu⟩

/-- An instruction that its unit or an interlock holds does nothing yet. -/
theorem State.issueTo_held {s : State} {n u : Nat} {rsv ready : Bool} {chk : Chk} {act : State → State} {next : Int}
    (clean : rsv = false) (held : ready = false) : s.issueTo n u rsv ready chk act next = .next s := by
  subst clean held
  simp [State.issueTo]


/-! ### Reserved bits (R146) -/

/-- The bits of a list of fields, as a mask. -/
theorem fieldMask_testBit (fields : List (Nat × Nat)) (m i : Nat) :
    (fields.foldl (fun a p => a ||| ((2 ^ (p.1 - p.2 + 1) - 1) <<< p.2)) m).testBit i =
      (m.testBit i || fields.any (fun p => decide (p.2 ≤ i ∧ i < p.2 + (p.1 - p.2 + 1)))) := by
  induction fields generalizing m with
  | nil => simp
  | cons p r ih =>
    rw [List.foldl_cons, ih, List.any_cons, Nat.testBit_or, Nat.testBit_shiftLeft, Nat.testBit_two_pow_sub_one, Bool.or_assoc]
    congr 2
    rw [← Bool.decide_and, decide_eq_decide]
    omega

/-- A word has no reserved bit set when every set bit lies in a field. -/
theorem rsvd_eq_false_iff (f : BitVec 56) (fields : List (Nat × Nat)) :
    rsvd f fields = false ↔ ∀ i, f.getLsbD i = true → ∃ p ∈ fields, p.2 ≤ i ∧ i < p.2 + (p.1 - p.2 + 1) := by
  simp only [rsvd, decide_eq_false_iff_not, ne_eq, not_not]
  constructor
  · intro h i hi
    have lt : i < 56 := BitVec.lt_of_getLsbD hi
    have clear := congrArg (fun v => v.getLsbD i) h
    simpa only [BitVec.getLsbD_and, BitVec.getLsbD_not, BitVec.getLsbD_ofNat, hi, lt, decide_true, Bool.true_and, fieldMask_testBit,
      Nat.zero_testBit, Bool.false_or, BitVec.ofNat_eq_ofNat, BitVec.getLsbD_zero, Bool.not_eq_false', List.any_eq_true,
      decide_eq_true_eq] using clear
  · intro h
    apply BitVec.eq_of_getLsbD_eq
    intro i lt
    simp only [BitVec.getLsbD_and, BitVec.getLsbD_not, BitVec.getLsbD_ofNat, lt, decide_true, Bool.true_and, fieldMask_testBit,
      Nat.zero_testBit, Bool.false_or, BitVec.ofNat_eq_ofNat]
    cases hi : f.getLsbD i with
    | false => rfl
    | true => simpa using h i hi

/-- Without fields every set bit is reserved. -/
theorem rsvd_nil (f : BitVec 56) : rsvd f [] = false ↔ f = 0 := by
  rw [rsvd_eq_false_iff]
  constructor
  · intro h
    apply BitVec.eq_of_getLsbD_eq
    intro i lt
    have := h i
    simpa using this
  · rintro rfl i hi
    simp at hi

end Sys2Proof.Machine
end

section
/-! NOP, HALT, JMP, SETL, BLOOP, PSYNC and the instructions of addresses and keys (R160, R162, R163). -/

namespace Sys2Proof.Machine

variable (mc : Fin 1920) (f : BitVec 56) (s : State)

theorem exec_nop : exec (.nop mc f) s = s.issueTo mc.val 0 (rsvd f []) true none id (s.pcAt mc.val + 8) := rfl

theorem exec_halt : exec (.halt mc f) s = s.issueTo mc.val 0 (rsvd f []) true none
    (fun u => u.updMc mc.val (fun m => { m with halted := true })) (s.pcAt mc.val + 8) := rfl

theorem exec_jmp : exec (.jmp mc f) s = s.issueTo mc.val 0 (rsvd f [(31, 0)]) true none id (s.pcAt mc.val + 8 * fs f 31 0) := rfl

theorem exec_setl : exec (.setl mc f) s = s.issueTo mc.val 0 (rsvd f [(55, 54), (31, 0)]) true none
    (fun u => u.updMc mc.val (fun m => { m with loops := mset 0 m.loops (fb f 55 54) (BitVec.ofNat 32 (fb f 31 0)) }))
    (s.pcAt mc.val + 8) := rfl

/-- The count that BLOOP leaves in a loop register that holds c. -/
def loopCount (c : Word32) : Word32 := if c = 0 then 0 else c - 1

theorem loopCount_toNat (c : Word32) : (loopCount c).toNat = c.toNat - 1 := by
  unfold loopCount
  split
  · next h => subst h; rfl
  · bv_omega

/-- BLOOP falls through at 0 and where its count reaches 0. -/
theorem loop_ends (c : Word32) : (c = 0 ∨ c - 1 = 0) ↔ c.toNat ≤ 1 := by
  bv_omega

theorem exec_bloop : exec (.bloop mc f) s = s.issueTo mc.val 0 (rsvd f [(55, 54), (31, 0)]) true none
    (fun u => u.updMc mc.val (fun m => { m with
      loops := mset 0 m.loops (fb f 55 54) (loopCount (mget 0 (s.mc mc.val).loops (fb f 55 54))) }))
    (s.pcAt mc.val + (if (mget 0 (s.mc mc.val).loops (fb f 55 54)).toNat ≤ 1 then 8 else 8 * fs f 31 0)) := by
  simp only [← loop_ends]
  rfl

theorem exec_psync : exec (.psync mc f) s =
    s.issueTo mc.val 0 (rsvd f []) (s.mc mc.val).quiet none id (s.pcAt mc.val + 8) := rfl

theorem exec_gli : exec (.gli mc f) s = s.issueTo mc.val 0 (rsvd f [(55, 53), (47, 0)]) true none
    (fun u => u.setG mc.val (fb f 55 53) (BitVec.ofNat 64 (fb f 47 0))) (s.pcAt mc.val + 8) := rfl

theorem exec_gadd : exec (.gadd mc f) s = s.issueTo mc.val 0 (rsvd f [(55, 53), (31, 0)]) true none
    (fun u => u.setG mc.val (fb f 55 53) (u.gReg mc.val (fb f 55 53) + BitVec.ofInt 64 (fs f 31 0))) (s.pcAt mc.val + 8) := rfl

theorem exec_glds : exec (.glds mc f) s = s.issueTo mc.val 0 (rsvd f [(55, 53), (15, 0)]) true none
    (fun u => u.setG mc.val (fb f 55 53) (BitVec.ofNat 64 (ofLE ((u.mc mc.val).scrRead (8 * fb f 15 0) 8)))) (s.pcAt mc.val + 8) := rfl

theorem exec_org : exec (.org mc f) s = s.issueTo mc.val 0 (rsvd f [(55, 53)]) true none
    (fun u => u.updMc mc.val (fun m => { m with
      orgRow := (u.gReg mc.val (fb f 55 53)).extractLsb' 32 32, orgCol := (u.gReg mc.val (fb f 55 53)).extractLsb' 0 32 }))
    (s.pcAt mc.val + 8) := by
  have half : ∀ (g : Word) (lo : Nat), BitVec.ofNat 32 (fld g lo 32) = g.extractLsb' lo 32 := fun g lo =>
    BitVec.eq_of_toNat_eq (by simp [fld, bits])
  simp only [← half]
  rfl

theorem exec_srset : exec (.srset mc f) s = s.issueTo mc.val 0 (rsvd f [(55, 53), (52, 37), (36, 36)]) true none
    (fun u => u.updMc mc.val (fun m => { m with
      seed := u.gReg mc.val (fb f 55 53), stream := f.extractLsb' 37 16, swapKey := f.getLsbD 36 })) (s.pcAt mc.val + 8) := by
  have stream : BitVec.ofNat 16 (fb f 52 37) = f.extractLsb' 37 16 := BitVec.eq_of_toNat_eq (by simp [fb, bits])
  rw [← stream]
  rfl

variable {mc f s}

/-- An instruction that writes loop register l. -/
theorem issued_loopReg {r : Res} {n l : Nat} {next : Int} (w : Nat → Word32)
    (h : ∃ t, r = .next t ∧ Issued n next { s.mc n with loops := mset 0 (s.mc n).loops l (w l) } s t) :
    ∃ t, r = .next t ∧ Issued n next { s.mc n with loops := (t.mc n).loops } s t ∧
      ∀ k, mget 0 (t.mc n).loops k = if k = l then w k else mget 0 (s.mc n).loops k := by
  obtain ⟨t, ht, only, at_, core⟩ := h
  refine ⟨t, ht, ⟨only, at_, by rw [core]⟩, fun k => ?_⟩
  rw [core]
  refine (mget_mset _ _ _ _ _).trans ?_
  split
  · next same => rw [same]
  · rfl

/-- An instruction that writes G register g. -/
theorem issued_gReg {r : Res} {n g : Nat} {next : Int} (w : Nat → Word)
    (h : ∃ t, r = .next t ∧ Issued n next { s.mc n with g := mset 0 (s.mc n).g g (w g) } s t) :
    ∃ t, r = .next t ∧ Issued n next { s.mc n with g := (t.mc n).g } s t ∧
      ∀ k, t.gReg n k = if k = g then w k else s.gReg n k := by
  obtain ⟨t, ht, only, at_, core⟩ := h
  refine ⟨t, ht, ⟨only, at_, by rw [core]⟩, fun k => ?_⟩
  rw [State.gReg, core]
  refine (mget_mset _ _ _ _ _).trans ?_
  split
  · next same => rw [same]
  · rfl

end Sys2Proof.Machine

open Sys2Proof Sys2Proof.Machine

/-- Settles O1: each instruction leaves its core as one value (`State.issueTo_issued`), and a loop or G register that it writes reads as
the rule gives. -/
theorem matrixControlAndKeysComplete : Obligations.MatrixControlAndKeysComplete := by
  unfold Obligations.MatrixControlAndKeysComplete
  refine ⟨fun mc f s run => ⟨?nop, ?halt, ?jmp, ?setl, ?bloop, ?psync⟩, fun mc f s run => ⟨?gli, ?gadd, ?glds, ?org, ?srset⟩⟩
  case nop =>
    intro zero
    rw [exec_nop]
    exact State.issueTo_issued_id run ((rsvd_nil f).mpr zero) rfl rfl
  case halt =>
    intro zero
    rw [exec_halt]
    exact State.issueTo_issued _ run ((rsvd_nil f).mpr zero) rfl rfl rfl
  case jmp =>
    intro clean
    rw [exec_jmp]
    exact State.issueTo_issued_id run clean rfl rfl
  case setl =>
    intro clean
    rw [exec_setl]
    exact issued_loopReg (fun _ => BitVec.ofNat 32 (fb f 31 0)) (State.issueTo_issued _ run clean rfl rfl rfl)
  case bloop =>
    intro clean
    obtain ⟨t, ht, only, count⟩ := issued_loopReg (r := exec (.bloop mc f) s) (l := fb f 55 54)
      (fun k => loopCount (mget 0 (s.mc mc.val).loops k)) (by
        rw [exec_bloop]
        exact State.issueTo_issued _ run clean rfl rfl rfl)
    refine ⟨t, ht, only, fun k => ?_⟩
    rw [count, apply_ite BitVec.toNat, loopCount_toNat]
  case psync =>
    intro zero quiet
    rw [exec_psync]
    exact State.issueTo_issued_id run ((rsvd_nil f).mpr zero) quiet rfl
  case gli =>
    intro clean
    rw [exec_gli]
    exact issued_gReg (fun _ => BitVec.ofNat 64 (fb f 47 0)) (State.issueTo_issued _ run clean rfl rfl rfl)
  case gadd =>
    intro clean
    rw [exec_gadd]
    exact issued_gReg (fun k => s.gReg mc.val k + BitVec.ofInt 64 (fs f 31 0)) (State.issueTo_issued _ run clean rfl rfl rfl)
  case glds =>
    intro clean
    rw [exec_glds]
    exact issued_gReg (fun _ => BitVec.ofNat 64 (ofLE ((s.mc mc.val).scrRead (8 * fb f 15 0) 8))) (State.issueTo_issued _ run clean rfl rfl rfl)
  case org =>
    intro clean
    rw [exec_org]
    exact State.issueTo_issued _ run clean rfl rfl rfl
  case srset =>
    intro clean
    rw [exec_srset]
    exact State.issueTo_issued _ run clean rfl rfl rfl
end

section
/-! What a matrix core's registers read after an instruction has issued: MXC_STAT, MXC_PC and the fields beside them (R192, R194). -/

namespace Sys2Proof.Machine

/-! ### The program counter (R147) -/

theorem toBits_lt (x : Int) (len : Nat) : toBits x len < 2 ^ len := by
  have pos : 0 < ((2 ^ len : Nat) : Int) := by positivity
  have low := Int.emod_nonneg x pos.ne'
  have high := Int.emod_lt_of_pos x pos
  simp only [toBits]
  omega

variable (s : State) (n : Nat)

/-- The space of a program is a field of MXC_PC. -/
theorem outOfSpace_congr {s t : State} {n : Nat} (same : t.reg (mxcBase n + 0x10) = s.reg (mxcBase n + 0x10)) (a : Int) :
    outOfSpace t n a = outOfSpace s n a := by
  have space : t.getB (mxcSpace n) = s.getB (mxcSpace n) := by simp only [State.getB, State.getF, mxcSpace, same]
  rw [outOfSpace, State.pcLimit, space, outOfSpace, State.pcLimit]

theorem State.goTo_reg (a : Int) (k : Nat) : (s.goTo n a).reg k =
    if k = mxcBase n + 0x10 then setFld (s.reg (mxcBase n + 0x10)) 0 48 (toBits a 48) else s.reg k := by
  simp only [State.goTo, State.updMc, State.setMc_reg, State.putF_reg, mxcPc]

theorem State.goTo_mc_same (a : Int) : (s.goTo n a).mc n = { s.mc n with pcOut := outOfSpace s n a } := State.updMc_mc_same _ _ _

theorem State.goTo_mc_ne (a : Int) {j : Nat} (h : j ≠ n) : (s.goTo n a).mc j = s.mc j := State.updMc_mc_ne _ _ _ _ h

/-- Sending the program counter to an address changes MXC_PC and its core's mark only. -/
theorem OnlyMatrix.goTo {keys : List Nat} (h : mxcBase n + 0x10 ∈ keys) (a : Int) : OnlyMatrix n keys s (s.goTo n a) :=
  (OnlyMatrix.putF n s (mxcPc n) (toBits a 48) h).trans (OnlyMatrix.setMc n keys _ _)

/-- A field of a register other than MXC_PC. -/
theorem State.goTo_getF (a : Int) (f : RF) (h : f.key ≠ mxcBase n + 0x10) : (s.goTo n a).getF f = s.getF f := by
  rw [State.getF, State.goTo_reg, if_neg h, State.getF]

theorem State.goTo_mxcPc (a : Int) : (s.goTo n a).getF (mxcPc n) = toBits a 48 :=
  (State.putF_getF_same s (mxcPc n) _ (by simp only [mxcPc]; decide)).trans (Nat.mod_eq_of_lt (toBits_lt a 48))

/-- The fields of MXC_PC above the address. -/
theorem State.goTo_above (a : Int) {lo : Nat} (len : Nat) (h : 48 ≤ lo) :
    (s.goTo n a).getF ⟨mxcBase n + 0x10, lo, len⟩ = s.getF ⟨mxcBase n + 0x10, lo, len⟩ :=
  State.putF_getF_ne s (mxcPc n) ⟨_, lo, len⟩ _ (.inr (.inr (by simpa [mxcPc] using h)))

theorem OnlyMatrix.putMxcSt (x : Nat) : OnlyMatrix n [mxcBase n + 8] s (s.putF (mxcSt n) x) :=
  OnlyMatrix.putF n s (mxcSt n) x (List.mem_singleton.mpr rfl)

theorem OnlyMatrix.mono {n : Nat} {keys more : List Nat} {s t : State} (h : OnlyMatrix n keys s t) (sub : keys ⊆ more) :
    OnlyMatrix n more s t :=
  ⟨h.1, fun k hk => h.2.1 k (fun hk' => hk (sub hk')), h.2.2⟩

/-! ### Clearing bits of a register -/

/-- Bits of a register cleared one by one: each bit of the list reads 0, every other bit of the register as before. -/
theorem State.forEach_clearBit_getF (k lo : Nat) (l : List Nat) (hl : ∀ i ∈ l, lo + i < 64) (j : Nat) :
    (forEach l s (fun s i => s.putF ⟨k, lo + i, 1⟩ 0)).getF ⟨k, lo + j, 1⟩ = if j ∈ l then 0 else s.getF ⟨k, lo + j, 1⟩ := by
  simp only [forEach]
  induction l generalizing s with
  | nil => rfl
  | cons i r ih =>
    rw [List.foldl_cons, ih _ (fun i hi => hl i (List.mem_cons_of_mem _ hi))]
    by_cases tail : j ∈ r
    · rw [if_pos tail, if_pos (List.mem_cons_of_mem _ tail)]
    · rw [if_neg tail]
      by_cases head : j = i
      · subst head
        have low := hl j List.mem_cons_self
        rw [if_pos List.mem_cons_self, State.putF_getF_same s ⟨k, lo + j, 1⟩ 0 low]
        rfl
      · rw [if_neg (by simp [head, tail]), State.putF_getF_ne s ⟨k, lo + i, 1⟩ ⟨k, lo + j, 1⟩]
        exact .inr (by dsimp only; omega)

/-- A field apart from every bit cleared. -/
theorem State.forEach_clearBit_apart (k lo : Nat) (l : List Nat) (g : RF)
    (apart : ∀ i ∈ l, g.key ≠ k ∨ g.lo + g.len ≤ lo + i ∨ lo + i + 1 ≤ g.lo) :
    (forEach l s (fun s i => s.putF ⟨k, lo + i, 1⟩ 0)).getF g = s.getF g :=
  List.foldlRecOn (motive := fun t => t.getF g = s.getF g) l _ rfl
    (fun t ht i hi => (State.putF_getF_ne t ⟨k, lo + i, 1⟩ g 0 (apart i hi)).trans ht)

end Sys2Proof.Machine
end

section
/-! Refusals at issue, FCLR and the end of a program (R146, R147, R162, R196). -/

namespace Sys2Proof.Machine

variable {mc : Fin 1920} {f : BitVec 56} {s : State}

theorem rsvd_nil_true (h : f ≠ 0) : rsvd f [] = true := by
  cases e : rsvd f [] with
  | true => rfl
  | false => exact absurd ((rsvd_nil f).mp e) h

/-- FCLR's mask is the low bits of the word. -/
theorem bit_mask (f : BitVec 56) {i : Nat} (hi : i < 3) : bit (fb f 2 0) i = fbit f i := by
  simp [bit, fb, bits_testBit, fbit, hi]

theorem illegalOpcode_refused {w : Word} (run : s.mcRun mc.val = true) (unlisted : opcodeOk (fld w 56 8) = false) :
    exec (.illegalOpcode mc w) s = .next (s.issueFault mc.val 1 0 0) := by
  change execIllegalOpcode mc w s = _
  rw [execIllegalOpcode, when, run, unlisted]
  rfl

theorem fetchFault_outside (live : s.mcLive mc.val = true) (out : (s.mc mc.val).pcOut = true) :
    exec (.fetchFault mc) s = .next (s.issueFault mc.val 3 6 0) := by
  change execFetchFault mc s = _
  rw [execFetchFault, when, live]
  simp only [if_true, out]
  rfl

/-- The state whose sticky flags FCLR has cleared: those its mask selects. -/
def State.clearSticky (s : State) (n mask : Nat) : State :=
  forEach ((upTo 3).filter (fun i => bit mask i)) s (fun s i => s.putF ⟨mxcBase n + 8, 8 + i, 1⟩ 0)

theorem fclr_issues (run : s.mcRun mc.val = true) (clean : rsvd f [(2, 0)] = false) (quiet : (s.mc mc.val).arrayQuiet = true)
    (free : (s.mc mc.val).moverFree = true) :
    exec (.fclr mc f) s = .next (((s.putF (mxcSt mc.val) 1).clearSticky mc.val (fb f 2 0)).goTo mc.val (s.pcAt mc.val + 8)) := by
  change s.issueTo mc.val 0 (rsvd f [(2, 0)]) ((s.mc mc.val).arrayQuiet && (s.mc mc.val).moverFree) none
    (fun u => u.clearSticky mc.val (fb f 2 0)) (s.pcAt mc.val + 8) = _
  rw [clean, quiet, free]
  exact State.issueTo_go s mc.val 0 _ _ run

theorem OnlyMatrix.clearSticky (s : State) (n mask : Nat) : OnlyMatrix n [mxcBase n + 8] s (s.clearSticky n mask) :=
  List.foldlRecOn (motive := fun t => OnlyMatrix n [mxcBase n + 8] s t) _ _ (OnlyMatrix.refl n _ s)
    (fun t ht _ _ => ht.trans (OnlyMatrix.putF n t _ 0 (List.mem_singleton.mpr rfl)))

theorem State.clearSticky_mc (s : State) (n mask j : Nat) : (s.clearSticky n mask).mc j = s.mc j :=
  forEach_keeps (fun t : State => t.mc j) _ _ _ (fun _ _ => rfl)

/-- A flag that the mask selects reads 0, and the others as before. -/
theorem State.clearSticky_flag (s : State) (n mask : Nat) {i : Nat} (hi : i < 3) :
    (s.clearSticky n mask).getF ⟨mxcBase n + 8, 8 + i, 1⟩ = if bit mask i then 0 else s.getF ⟨mxcBase n + 8, 8 + i, 1⟩ := by
  have low : ∀ j ∈ (upTo 3).filter (fun i => bit mask i), 8 + j < 64 := by
    intro j hj
    have := List.mem_range.mp (List.mem_of_mem_filter hj)
    omega
  rw [State.clearSticky, State.forEach_clearBit_getF s _ 8 _ low]
  simp only [List.mem_filter, upTo, List.mem_range, hi, true_and]

/-- A field apart from the sticky flags. -/
theorem State.clearSticky_apart (s : State) (n mask : Nat) (g : RF) (h : g.key ≠ mxcBase n + 8 ∨ g.lo + g.len ≤ 8 ∨ 11 ≤ g.lo) :
    (s.clearSticky n mask).getF g = s.getF g := by
  refine State.forEach_clearBit_apart s _ 8 _ g fun i hi => ?_
  have := List.mem_range.mp (List.mem_of_mem_filter hi)
  omega

theorem programComplete_ends (launched : (s.mc mc.val).launched = true) (halted : (s.mc mc.val).halted = true)
    (open_ : (s.mc mc.val).ended = false) (drained : s.drained mc.val = true)
    (works : s.getF (mxcSt mc.val) = 1 ∨ s.getF (mxcSt mc.val) = 2) (go : s.getB (mxcStopF mc.val) = false) :
    exec (.programComplete mc) s = .next ((s.putF (mxcSt mc.val) 0).updMc mc.val (fun m => { m with ended := true })) := by
  have works' : (s.getF (mxcSt mc.val) == 1 || s.getF (mxcSt mc.val) == 2) = true := by simpa using works
  change execProgramComplete mc s = _
  rw [execProgramComplete, when, launched, halted, open_, drained, works', go]
  rfl

end Sys2Proof.Machine

open Sys2Proof Sys2Proof.Machine

/-- Settles O2: every refusal is `State.issueTo_encoding` or a fault at issue, FCLR leaves `State.clearSticky`, and the end of a program
is `programComplete_ends`. -/
theorem matrixFaultsFlagsAndEnd : Obligations.MatrixFaultsFlagsAndEnd := by
  unfold Obligations.MatrixFaultsFlagsAndEnd
  refine ⟨fun mc w f s run => ⟨?opcode, ?nop, ?halt, ?jmp, ?gli, ?lds⟩, fun mc s live out => ?fetch, fun mc f s => ⟨?fclr, ?ends⟩⟩
  case opcode =>
    intro unlisted
    exact ⟨_, illegalOpcode_refused run unlisted, faultedAtIssue mc.val mc.isLt 1 0 0 s (by decide) (by decide) (by decide)⟩
  case nop =>
    intro set
    rw [exec_nop]
    exact State.issueTo_encoding run (rsvd_nil_true set) (by decide)
  case halt =>
    intro set
    rw [exec_halt]
    exact State.issueTo_encoding run (rsvd_nil_true set) (by decide)
  case jmp =>
    intro set
    rw [exec_jmp]
    exact State.issueTo_encoding run set (by decide)
  case gli =>
    intro set
    rw [exec_gli]
    exact State.issueTo_encoding run set (by decide)
  case lds =>
    intro set
    change ∃ t, execLds mc f s = _ ∧ _
    unfold execLds State.issue
    exact State.issueTo_encoding run set (by decide)
  case fetch =>
    exact ⟨_, fetchFault_outside live out, faultedAtIssue mc.val mc.isLt 3 6 0 s (by decide) (by decide) (by decide)⟩
  case fclr =>
    intro run clean quiet free
    have frame := (OnlyMatrix.putMxcSt s mc.val 1).trans (OnlyMatrix.clearSticky _ mc.val (fb f 2 0))
    refine ⟨_, fclr_issues run clean quiet free, ?frame, ?core, ?state, ?pc, ?flags, ?others, ?space⟩
    case frame =>
      exact (frame.mono (by simp)).trans (OnlyMatrix.goTo _ _ (by simp) _)
    case core =>
      rw [State.goTo_mc_same, State.clearSticky_mc, outOfSpace_congr (frame.2.1 _ (by simp))]
      rfl
    case state =>
      rw [State.goTo_getF _ _ _ _ (by simp [mxcSt]), State.clearSticky_apart _ _ _ _ (by simp [mxcSt]), State.putF_getF_same]
      · rfl
      · simp [mxcSt]
    case pc => exact State.goTo_mxcPc _ _ _
    case flags =>
      intro i hi
      rw [State.goTo_getF _ _ _ _ (by simp), State.clearSticky_flag _ _ _ hi, State.putF_getF_ne]
      · rw [bit_mask f hi]
      · simp [mxcSt]; omega
    case others =>
      intro lo len apart
      rw [State.goTo_getF _ _ _ _ (by simp), State.clearSticky_apart _ _ _ _ (by simp; omega), State.putF_getF_ne]
      simp [mxcSt]; omega
    case space =>
      intro lo len high
      rw [State.goTo_above _ _ _ _ high, State.clearSticky_apart _ _ _ _ (by simp), State.putF_getF_ne]
      simp [mxcSt]
  case ends =>
    intro launched halted open_ drained works go
    refine ⟨_, programComplete_ends launched halted open_ drained works go, ?_, ?_, ?_⟩
    · exact (OnlyMatrix.putF mc.val s (mxcSt mc.val) 0 (List.mem_singleton.mpr rfl)).trans (OnlyMatrix.updMc _ _ _ _)
    · exact (State.putF_reg s (mxcSt mc.val) 0 _).trans (if_pos rfl)
    · exact State.updMc_mc_same _ _ _
end

section
/-! TCFG: the checks of a configuration and what it changes (R152-R155). -/

namespace Sys2Proof.Machine

/-- A check that fails is one of its list. -/
theorem mem_of_firstBad {l : List (Bool × Nat × Nat)} {c : Nat × Nat} (h : firstBad l = some c) : ∃ b, (b, c) ∈ l := by
  obtain ⟨⟨b, d⟩, found, same⟩ := Option.map_eq_some_iff.mp h
  exact ⟨b, same ▸ List.mem_of_find?_eq_some found⟩

/-- The faults of a configuration name its operand and a code of R188. -/
theorem tcfgCheck_fault {c : TileCfg} {code operand : Nat} (h : tcfgCheck c = some (code, operand)) : code < 256 ∧ operand < 16 := by
  obtain ⟨b, mem⟩ := mem_of_firstBad h
  simp only [List.mem_cons, Prod.mk.injEq, List.not_mem_nil, or_false, fltTcfgFormat, fltTcfgSize, fltTcfgLayout, fltTcfgGrouping] at mem
  omega

variable {mc : Fin 1920} {f : BitVec 56} {s : State}

theorem exec_tcfg (mc : Fin 1920) (f : BitVec 56) (s : State) : exec (.tcfg mc f) s =
    s.issueTo mc.val 0 (rsvd f [(55, 25)] || (tcfgOf f).layout == 3 || (tcfgOf f).bgrp == 3) ((s.mc mc.val).tileWr (fb f 55 52))
      (tcfgCheck (tcfgOf f)) (fun u => u.updMc mc.val (fun m => { m with cfg := mset none m.cfg (fb f 55 52) (some (tcfgOf f)) }))
      (s.pcAt mc.val + 8) := rfl

/-- An instruction that writes the configuration of tile register r. -/
theorem issued_cfg {o : Res} {n r : Nat} {next : Int} {c : TileCfg}
    (h : ∃ t, o = .next t ∧ Issued n next { s.mc n with cfg := mset none (s.mc n).cfg r (some c) } s t) :
    ∃ t, o = .next t ∧ Issued n next { s.mc n with cfg := (t.mc n).cfg } s t ∧
      ∀ q, (t.mc n).cfgOf q = if q = r then some c else (s.mc n).cfgOf q := by
  obtain ⟨t, ht, only, at_, core⟩ := h
  refine ⟨t, ht, ⟨only, at_, by rw [core]⟩, fun q => ?_⟩
  rw [McState.cfgOf, core]
  exact mget_mset none (s.mc n).cfg r q (some c)

end Sys2Proof.Machine

open Sys2Proof Sys2Proof.Machine

/-- Settles O3: TCFG is an issue whose effect is one entry of its core's configurations. -/
theorem tileConfigurationChangesOnlyItself : Obligations.TileConfigurationChangesOnlyItself := by
  unfold Obligations.TileConfigurationChangesOnlyItself
  intro mc f s run
  rw [exec_tcfg]
  refine ⟨fun bad => ?reserved, fun bits layout bgrp => ?clean⟩
  case reserved => exact State.issueTo_encoding run (by simpa [or_assoc] using bad) (by decide)
  case clean =>
    have clean : (rsvd f [(55, 25)] || (tcfgOf f).layout == 3 || (tcfgOf f).bgrp == 3) = false := by
      simp only [bits, Bool.false_or, Bool.or_eq_false_iff, beq_eq_false_iff_ne]
      exact ⟨layout, bgrp⟩
    refine ⟨fun held => State.issueTo_held clean held, fun free => ⟨fun checked => ?issues, fun code operand bad => ?refused⟩⟩
    case issues => exact issued_cfg (State.issueTo_issued _ run clean free checked rfl)
    case refused =>
      obtain ⟨hc, ho⟩ := tcfgCheck_fault bad
      exact State.issueTo_refused run clean free bad hc ho (by decide)
end

section
/-! TTBL, DMAQ and SBAR (R166, R183, R184, R375, R376). -/

namespace Sys2Proof.Machine

/-! ### TTBL -/

variable {mc : Fin 1920} {f : BitVec 56} {s : State}

/-- A core whose forward or derivative table holds an image. -/
def McState.putTable (m : McState) (der : Bool) (img : List Byte) : McState :=
  if der then { m with tabDer := writeBytes m.tabDer 0 img } else { m with tabFwd := writeBytes m.tabFwd 0 img }

/-- What TTBL checks of its register: that it is configured, its shape, then its image (R145, R183). -/
def ttblCheck (cfg : Option TileCfg) (img : List Byte) : Chk :=
  match cfg with
  | none => some (fltUnconfigured, 1)
  | some c => firstBad [(!c.isRow || decide (c.rows * c.rs < tableSize), fltDims, 1), (!tableOk img, fltTable, 1)]

theorem exec_ttbl (mc : Fin 1920) (f : BitVec 56) (s : State) : exec (.ttbl mc f) s =
    s.issueTo mc.val 2 (rsvd f [(55, 52), (51, 51)]) ((s.mc mc.val).tileRd (fb f 55 52))
      (ttblCheck ((s.mc mc.val).cfgOf (fb f 55 52)) ((s.mc mc.val).tileBytes (fb f 55 52) 0 tableSize))
      (fun u => u.updMc mc.val (fun m => m.putTable (fbit f 51) ((s.mc mc.val).tileBytes (fb f 55 52) 0 tableSize)))
      (s.pcAt mc.val + 8) := rfl

/-- A register of the right shape fails TTBL's checks by its image only. -/
theorem ttblCheck_image {cfg : Option TileCfg} {c : TileCfg} (is : cfg = some c) (row : c.isRow = true) (long : tableSize ≤ c.rows * c.rs)
    (img : List Byte) : ttblCheck cfg img = if tableOk img then none else some (0x30, 1) := by
  have short : decide (c.rows * c.rs < tableSize) = false := by simpa using long
  subst is
  cases ok : tableOk img <;> simp [ttblCheck, firstBad, row, short, ok, fltTable]

theorem McState.tileBytes_length (m : McState) (t off n : Nat) : (m.tileBytes t off n).length = n := readBytes_length _ _ _

/-- The table that TTBL selects reads the image, and the other one is as it was. -/
theorem McState.putTable_read (m : McState) (t off n : Nat) (der : Bool) :
    (der = false → readBytes (m.putTable der (m.tileBytes t off n)).tabFwd 0 n = m.tileBytes t off n ∧
      (m.putTable der (m.tileBytes t off n)).tabDer = m.tabDer) ∧
    (der = true → readBytes (m.putTable der (m.tileBytes t off n)).tabDer 0 n = m.tileBytes t off n ∧
      (m.putTable der (m.tileBytes t off n)).tabFwd = m.tabFwd) := by
  have back : ∀ tab, readBytes (writeBytes tab 0 (m.tileBytes t off n)) 0 n = m.tileBytes t off n := by
    intro tab
    have := readBytes_writeBytes tab 0 (m.tileBytes t off n)
    rwa [McState.tileBytes_length] at this
  constructor
  · rintro rfl
    exact ⟨back _, rfl⟩
  · rintro rfl
    exact ⟨back _, rfl⟩

theorem McState.putTable_shape (m : McState) (der : Bool) (img : List Byte) :
    m.putTable der img = { m with tabFwd := (m.putTable der img).tabFwd, tabDer := (m.putTable der img).tabDer } := by
  cases der <;> rfl

/-- An instruction that writes a table from a tile register. -/
theorem issued_table {r : Res} {n q len : Nat} {next : Int} {der : Bool}
    (h : ∃ t, r = .next t ∧ Issued n next ((s.mc n).putTable der ((s.mc n).tileBytes q 0 len)) s t) :
    ∃ t, r = .next t ∧ Issued n next { s.mc n with tabFwd := (t.mc n).tabFwd, tabDer := (t.mc n).tabDer } s t ∧
      (der = false → readBytes (t.mc n).tabFwd 0 len = (s.mc n).tileBytes q 0 len ∧ (t.mc n).tabDer = (s.mc n).tabDer) ∧
      (der = true → readBytes (t.mc n).tabDer 0 len = (s.mc n).tileBytes q 0 len ∧ (t.mc n).tabFwd = (s.mc n).tabFwd) := by
  obtain ⟨t, ht, only, at_, core⟩ := h
  refine ⟨t, ht, ⟨only, at_, ?_⟩, ?_⟩
  · rw [core, McState.putTable_shape]
  · rw [core]
    exact McState.putTable_read _ _ _ _ _

/-! ### DMAQ -/

/-- DMAQ of a core whose queue has room places its descriptor at the end of the queue and goes on. -/
theorem dmaq_enqueues (run : s.mcRun mc.val = true) (clean : rsvd f [(55, 43)] = false)
    (room : s.dmaRoom (mc.val / 4) (mc.val % 4) = true) : exec (.dmaq mc f) s = .next (((s.putF (mxcSt mc.val) 1).dmaEnqueue (mc.val / 4)
      (mc.val % 4) (BitVec.ofNat 512 (ofLE ((s.mc mc.val).scrRead (64 * fb f 55 43) 64)))).goTo mc.val (s.pcAt mc.val + 8)) := by
  change execDmaq mc f s = _
  simp only [execDmaq, run, clean, room, Bool.not_true, Bool.and_false, Bool.false_eq_true, if_false]
  exact State.issueTo_go s mc.val 4 _ _ run

/-- DMAQ of a core whose queue is full waits. -/
theorem dmaq_waits (run : s.mcRun mc.val = true) (clean : rsvd f [(55, 43)] = false)
    (full : s.dmaRoom (mc.val / 4) (mc.val % 4) = false) : exec (.dmaq mc f) s = .next (s.putF (mxcSt mc.val) 2) := by
  change execDmaq mc f s = _
  simp only [execDmaq, run, clean, full, Bool.not_false, Bool.and_self, if_true]

/-! ### Sync instructions -/

/-- The state of a core whose sync instruction is done: it waits for nothing, and goes on (R380). -/
def State.syncOn (s : State) (n : Nat) (next : Int) : State :=
  ((s.setSync (mcKey n) { s.syncOf (mcKey n) with want := none, stall := none, idle := false }).putF (mxcSt n) 1).goTo n next

/-- A sync instruction that has its effect goes on. -/
theorem State.issueSync_done {n : Nat} {rsv ready : Bool} {act : State → SyncDo} {u : State} (run : s.mcRun n = true) (clean : rsv = false)
    (free : ready = true) (done : act s = .done u) : s.issueSync n rsv ready act = .next (u.syncOn n (u.pcAt n + 8)) := by
  subst clean free
  simp only [State.issueSync, run, done, Bool.not_true, Bool.false_eq_true, if_false]
  rfl

/-- A sync instruction that is refused faults at issue. -/
theorem State.issueSync_fault {n code : Nat} {rsv ready : Bool} {act : State → SyncDo} {u : State} (run : s.mcRun n = true)
    (clean : rsv = false) (free : ready = true) (bad : act s = .fault u code) :
    s.issueSync n rsv ready act = .next (u.issueFault n code 0 0) := by
  subst clean free
  simp only [State.issueSync, run, bad, Bool.not_true, Bool.false_eq_true, if_false]

/-- What a core that goes on leaves: its own part of its sync unit, MXC_STAT, MXC_PC and the mark of its program counter. -/
theorem State.syncOn_shape (u : State) (n : Nat) (next : Int) :
    u.syncOn n next = { u with regs := (u.syncOn n next).regs, mcs := (u.syncOn n next).mcs, sync := (u.syncOn n next).sync } := by
  simp only [State.syncOn, State.goTo, State.updMc, State.putF, State.setReg, State.setMc, State.setSync]

theorem State.syncOn_otherRegs (u : State) (n : Nat) (next : Int) :
    OtherRegs [mxcBase n + 8, mxcBase n + 0x10] u (u.syncOn n next) := by
  intro k hk
  simp only [List.mem_cons, List.not_mem_nil, or_false, not_or] at hk
  rw [State.syncOn, State.goTo_reg, if_neg hk.2, State.putF_reg, if_neg (by exact hk.1)]
  rfl

theorem State.syncOn_atNext (u : State) (n : Nat) (next : Int) : AtNext n next u (u.syncOn n next) := by
  constructor <;> simp [State.syncOn, State.goTo_reg, State.putF_reg, mxcSt]

theorem State.syncOn_mc_same (u : State) (n : Nat) (next : Int) :
    (u.syncOn n next).mc n = { u.mc n with pcOut := outOfSpace u n next } := by
  rw [State.syncOn, State.goTo_mc_same, outOfSpace_congr (s := u)]
  · rfl
  · simp [State.putF_reg, mxcSt]

theorem State.syncOn_mc_ne (u : State) (n : Nat) (next : Int) {j : Nat} (h : j ≠ n) : (u.syncOn n next).mc j = u.mc j := by
  rw [State.syncOn, State.goTo_mc_ne _ _ _ h]
  rfl

theorem State.syncOn_syncOf_same (u : State) (n : Nat) (next : Int) : (u.syncOn n next).syncOf (mcKey n) =
    { u.syncOf (mcKey n) with want := none, stall := none, idle := false } := State.setSync_syncOf_same u _ _

theorem State.syncOn_syncOf_ne (u : State) (n : Nat) (next : Int) {j : Nat} (h : j ≠ mcKey n) :
    (u.syncOn n next).syncOf j = u.syncOf j := State.setSync_syncOf_ne u _ _ _ h

/-- A core that goes on keeps every counter. -/
theorem State.syncOn_val (u : State) (n : Nat) (next : Int) (j i : Nat) :
    ((u.syncOn n next).syncOf j).val i = (u.syncOf j).val i := by
  by_cases h : j = mcKey n
  · rw [h, State.syncOn_syncOf_same]
    rfl
  · rw [State.syncOn_syncOf_ne u n next h]

/-- What a sync instruction changes before its core goes on: sync units, the network, and no register. -/
def SyncOnly (s u : State) : Prop :=
  u = { s with regs := u.regs, sync := u.sync, mesh := u.mesh } ∧ ∀ k, u.reg k = s.reg k

/-- A core whose sync instruction has its effect stands at the next instruction, and nothing but registers, cores, sync units and the
network has changed. -/
theorem SyncOnly.goes {u : State} (h : SyncOnly s u) (n : Nat) {t : State} (ht : t = u.syncOn n (u.pcAt n + 8)) :
    t = { s with regs := t.regs, mcs := t.mcs, sync := t.sync, mesh := u.mesh } ∧
    OtherRegs [mxcBase n + 8, mxcBase n + 0x10] s t ∧ AtNext n (s.pcAt n + 8) s t ∧ (∀ j, j ≠ n → t.mc j = s.mc j) ∧
    t.mc n = { s.mc n with pcOut := outOfSpace s n (s.pcAt n + 8) } := by
  obtain ⟨shape, regs⟩ := h
  have pc : u.pcAt n = s.pcAt n := by rw [State.pcAt, State.getF, regs, State.pcAt, State.getF]
  have cores : ∀ j, u.mc j = s.mc j := fun j => by rw [shape]; rfl
  obtain ⟨stat, count⟩ := State.syncOn_atNext u n (u.pcAt n + 8)
  subst ht
  refine ⟨?_, fun k hk => (State.syncOn_otherRegs u n _ k hk).trans (regs k), ⟨?_, ?_⟩, fun j hj => ?_, ?_⟩
  · rw [State.syncOn_shape, shape]
  · rw [stat, regs]
  · rw [count, regs, pc]
  · rw [State.syncOn_mc_ne u n _ hj, cores]
  · rw [State.syncOn_mc_same, cores, outOfSpace_congr (regs _), pc]

/-! ### SBAR -/

/-- An entry into a barrier changes its core's part of the barrier and what arrives at the nodes. -/
theorem State.barEnter_shape {core : CoreName} {part bid sn : Nat} {t : State} (h : s.barEnter core part bid sn = .entered t) :
    t = { s with sync := t.sync } := by
  unfold State.barEnter at h
  split at h
  · cases h
  · split at h
    · cases h
    · dsimp only at h
      split at h
      · split at h <;> cases h
      · cases h
        split <;> rfl

theorem SyncOnly.barEnter {core : CoreName} {part bid sn : Nat} {t : State} (h : s.barEnter core part bid sn = .entered t) :
    SyncOnly s t := by
  have shape := State.barEnter_shape h
  exact ⟨by rw [shape], fun k => by rw [shape]; rfl⟩

theorem State.ownBar_entered {core : CoreName} {bid sn : Nat} {t : State} (quiet : s.pendOn (coreKey core) sn = false)
    (entered : s.barEnter core (s.cellPart (coreCell core)) bid sn = .entered t) : s.ownBar core bid sn = .done t := by
  simp only [State.ownBar, quiet, entered, Bool.false_eq_true, if_false]

/-- SBAR of a participant with no barrier ahead of it enters, and its core goes on (R375). -/
theorem sbar_enters {t : State} (run : s.mcRun mc.val = true) (clean : rsvd f [(55, 46), (45, 41)] = false)
    (drained : s.drained mc.val = true) (quiet : s.pendOn (mcKey mc.val) (fb f 45 41) = false)
    (entered : s.barEnter ⟨false, mc.val⟩ (s.cellPart (mc.val / 4)) (fb f 55 46) (fb f 45 41) = .entered t) :
    exec (.sbar mc f) s = .next (t.syncOn mc.val (t.pcAt mc.val + 8)) := by
  change execSbar mc f s = _
  exact State.issueSync_done run clean drained (State.ownBar_entered quiet entered)

end Sys2Proof.Machine

open Sys2Proof Sys2Proof.Machine

/-- Settles O4: TTBL is an issue whose effect is one table, DMAQ's two ends are `dmaq_enqueues` and `dmaq_waits`, and SBAR's entry changes
nothing but the sync unit (`SyncOnly.barEnter`). -/
theorem tablesDescriptorsAndBarrierEntries : Obligations.TablesDescriptorsAndBarrierEntries := by
  unfold Obligations.TablesDescriptorsAndBarrierEntries
  refine ⟨fun mc f s c run clean free cfg row long => ⟨fun ok => ?table, fun bad => ?image⟩,
    fun mc f s w run clean hw => ⟨fun room => ?enqueue, fun full => ?wait⟩, fun mc f s t0 run clean drained quiet entered => ?enter⟩
  case table =>
    rw [exec_ttbl]
    exact issued_table (State.issueTo_issued _ run clean free ((ttblCheck_image cfg row long _).trans (if_pos ok)) rfl)
  case image =>
    rw [exec_ttbl]
    exact State.issueTo_refused run clean free ((ttblCheck_image cfg row long _).trans (if_neg (ne_true_of_eq_false bad))) (by decide) (by decide)
      (by decide)
  case enqueue =>
    subst hw
    exact ⟨_, dmaq_enqueues run clean room, rfl⟩
  case wait =>
    exact ⟨_, dmaq_waits run clean full, OnlyMatrix.putMxcSt s mc.val 2, rfl, (State.putF_reg s (mxcSt mc.val) 2 _).trans (if_pos rfl)⟩
  case enter =>
    obtain ⟨shape, regs, next, -, -⟩ := (SyncOnly.barEnter entered).goes mc.val rfl
    have mesh : t0.mesh = s.mesh := by rw [State.barEnter_shape entered]
    refine ⟨_, sbar_enters run clean drained quiet entered, ?_, regs, next, ?_, rfl⟩
    · rw [mesh] at shape
      exact shape
    · rw [State.syncOn_syncOf_same]
end

section
/-! Tile movement: what TLD and TST hand to the requester, and what an arrived or acknowledged row does (R164, R165, R321, R322). -/

namespace Sys2Proof.Machine

variable {mc : Fin 1920} {f : BitVec 56} {s : State}

/-! ### Issue -/

/-- The operation that a TLD from memory of a register configured as c hands to the requester. -/
def State.tldOp (s : State) (n : Nat) (f : BitVec 56) (c : TileCfg) : TileOp :=
  ⟨0, .tld, s.reg (mxcBase n + 0x10) &&& maskW 0 48, fb f 55 52, false, s.moveBase n (fb f 51 49) (fs f 28 5),
   if fb f 48 29 = 0 then c.rs else fb f 48 29, (moveShape c (fbit f 3)).bytes, (moveShape c (fbit f 3)).rows,
   (moveShape c (fbit f 3)).img, 0, [], none, [], [], none, false⟩

/-- The operation that a TST to memory hands to the requester: as a TLD's, with the bytes that it has read and the mask in force. -/
def State.tstOp (s : State) (n : Nat) (f : BitVec 56) (c : TileCfg) : TileOp :=
  { s.tldOp n f c with
    kind := .tst
    data := (s.mc n).tileBytes (fb f 55 52) (moveShape c (fbit f 3)).img ((moveShape c (fbit f 3)).rows * (moveShape c (fbit f 3)).bytes)
    bad := badRows (s.mc n).badTiles (4096 * fb f 55 52 + (moveShape c (fbit f 3)).img) (moveShape c (fbit f 3)).bytes
      (moveShape c (fbit f 3)).rows
    mask := if fbit f 2 then some ⟨(s.mc n).maskLoads, (s.mc n).mask, (s.mc n).orgRow, (s.mc n).orgCol, c, fbit f 3⟩ else none }

/-- A core whose requester has one operation more. -/
def McState.takeOp (m : McState) (o : TileOp) : McState := { m with ops := m.ops ++ [{ o with id := m.nextOp }], nextOp := m.nextOp + 1 }

theorem moveCheck_configured {cfg : Option TileCfg} {c : TileCfg} {scales : Bool} (is : cfg = some c)
    (grouped : scales = true → c.bgrp ≠ 0) : moveCheck cfg scales = none := by
  subst is
  cases scales with
  | false => rfl
  | true =>
    have apart : (c.bgrp == 0) = false := beq_eq_false_iff_ne.mpr (grouped rfl)
    simp only [moveCheck, firstBad, apart]
    rfl

/-- TLD from memory hands its operation to the requester. -/
theorem tld_issues {c : TileCfg} (run : s.mcRun mc.val = true) (clean : rsvd f moveFields = false)
    (cfg : (s.mc mc.val).cfgOf (fb f 55 52) = some c) (memory : fbit f 4 = false) (grouped : fbit f 3 = true → c.bgrp ≠ 0)
    (unmasked : fbit f 2 = false) (free : (s.mc mc.val).tileWr (fb f 55 52) = true) :
    ∃ t, exec (.tld mc f) s = .next t ∧
      Issued mc.val (s.pcAt mc.val + 8) ((s.mc mc.val).takeOp ((s.putF (mxcSt mc.val) 1).tldOp mc.val f c)) s t := by
  change ∃ t, execTld mc f s = _ ∧ _
  unfold execTld
  refine State.issueTo_issued _ run (by rw [clean, unmasked]; rfl) free (moveCheck_configured cfg grouped) ?_
  simp only [cfg, memory, Bool.false_eq_true, if_false]
  rfl

/-- TST to memory reads its bytes and hands its operation to the requester. -/
theorem tst_issues {c : TileCfg} (run : s.mcRun mc.val = true) (clean : rsvd f moveFields = false)
    (cfg : (s.mc mc.val).cfgOf (fb f 55 52) = some c) (memory : fbit f 4 = false) (grouped : fbit f 3 = true → c.bgrp ≠ 0)
    (free : (s.mc mc.val).tileRd (fb f 55 52) = true) :
    ∃ t, exec (.tst mc f) s = .next t ∧
      Issued mc.val (s.pcAt mc.val + 8) ((s.mc mc.val).takeOp ((s.putF (mxcSt mc.val) 1).tstOp mc.val f c)) s t := by
  change ∃ t, execTst mc f s = _ ∧ _
  unfold execTst
  refine State.issueTo_issued _ run clean free (moveCheck_configured cfg grouped) ?_
  simp only [cfg, memory, Bool.false_and, Bool.false_eq_true, if_false]
  rfl

/-- The rows of the elements. -/
theorem moveShape_elements (c : TileCfg) : moveShape c false = ⟨c.rows, c.rs, 0⟩ := rfl

/-- The rows of a scale array grouped along rows. -/
theorem moveShape_rowScales {c : TileCfg} (h : c.bgrp = 1) : moveShape c true = ⟨c.rows, c.cols / 32, c.rows * c.rs⟩ := by
  simp [moveShape, h]

/-- The rows of a scale array grouped along columns. -/
theorem moveShape_columnScales {c : TileCfg} (h : c.bgrp = 2) : moveShape c true = ⟨c.rows / 32, c.cols, c.rows * c.rs⟩ := by
  simp [moveShape, h]

/-! ### Rows -/

/-- The requester's work of a core changes its list of operations only. -/
theorem State.endOp_mc (n id : Nat) : (s.endOp n id).mc n = { s.mc n with ops := (s.mc n).ops.filter (fun o => o.id != id) } :=
  State.updMc_mc_same _ _ _

theorem State.updOp_mc (n id : Nat) (g : TileOp → TileOp) :
    (s.updOp n id g).mc n = { s.mc n with ops := mapWhere (s.mc n).ops (fun o => o.id == id) g } := State.updMc_mc_same _ _ _

theorem OnlyMatrix.endOp (s : State) (n id : Nat) : OnlyMatrix n [] s (s.endOp n id) := OnlyMatrix.updMc _ _ _ _

theorem OnlyMatrix.updOp (s : State) (n id : Nat) (g : TileOp → TileOp) : OnlyMatrix n [] s (s.updOp n id g) := OnlyMatrix.updMc _ _ _ _

/-- A row put into its register: the core's list of operations and the bytes of the row, and nothing else. -/
theorem State.rowIn_effect (s : State) (n : Nat) (o : TileOp) (r : Nat) (bs : List Byte) :
    OnlyMatrix n [] s (s.rowIn n o r bs) ∧
    (s.rowIn n o r bs).mc n =
      { (s.mc n).putTile o.reg (o.img + r * o.rowBytes) bs with ops := ((s.rowIn n o r bs).mc n).ops } := by
  unfold State.rowIn
  have put := OnlyMatrix.updMc n [] s (fun m => m.putTile o.reg (o.img + r * o.rowBytes) bs)
  dsimp only
  split
  · refine ⟨put.trans (OnlyMatrix.endOp _ _ _), ?_⟩
    rw [State.endOp_mc, State.updMc_mc_same]
  · refine ⟨put.trans (OnlyMatrix.updOp _ _ _ _), ?_⟩
    rw [State.updOp_mc, State.updMc_mc_same]

/-- A row of a TLD that memory answers is put into its register. -/
theorem tileRowArrival_puts {id row : Nat} {o : TileOp} {bs : List Byte} (works : s.mcWorks mc.val = true)
    (op : (s.mc mc.val).opOf id = some o) (memory : o.scratch = false) (tld : o.kind = .tld) (low : o.done ≤ row) (high : row < o.rows)
    (free : (s.mc mc.val).rowFree o (o.rowAt row) = true)
    (answer : (s.vRead (mcUnit mc.val) (s.mc mc.val).ctx (s.mcPart mc.val) (o.rowAt row) o.rowBytes .read
      (some (.tileOp mc.val o.id))).o = .done bs false) :
    exec (.tileRowArrival mc id row) s = .next ((s.vRead (mcUnit mc.val) (s.mc mc.val).ctx (s.mcPart mc.val) (o.rowAt row) o.rowBytes .read
      (some (.tileOp mc.val o.id))).st.rowIn mc.val o row bs) := by
  change execTileRowArrival mc id row s = _
  simp only [execTileRowArrival, op, works, tld, low, high, free, Bool.not_true, Bool.false_eq_true, if_false, and_self, if_true,
    State.tldRow, memory, answer]

/-- A row of a TST has been written: the TST ends with its last row, or goes on with the next. -/
def State.rowWritten (s : State) (n : Nat) (o : TileOp) : State :=
  if o.done + 1 = o.rows then s.endOp n o.id else s.updOp n o.id (fun y => { y with done := y.done + 1 })

theorem State.rowWritten_effect (s : State) (n : Nat) (o : TileOp) : OnlyMatrix n [] s (s.rowWritten n o) ∧
    (s.rowWritten n o).mc n = { s.mc n with ops :=
      (if o.done + 1 = o.rows then (s.mc n).ops.filter (fun y => y.id != o.id)
      else mapWhere (s.mc n).ops (fun y => y.id == o.id) (fun y => { y with done := y.done + 1 })) } := by
  unfold State.rowWritten
  split
  · exact ⟨OnlyMatrix.endOp _ _ _, State.endOp_mc _ _⟩
  · exact ⟨OnlyMatrix.updOp _ _ _ _, State.updOp_mc _ _ _⟩

/-- The write of the next row of a TST, every byte of it kept. -/
def State.tstWrite (s : State) (n : Nat) (o : TileOp) : AccRes :=
  s.vWriteKept (mcUnit n) (s.mc n).ctx (s.mcPart n) (o.rowAt o.done) ((o.data.drop (o.done * o.rowBytes)).take o.rowBytes)
    (keptRuns (o.rowAt o.done) (List.replicate ((o.data.drop (o.done * o.rowBytes)).take o.rowBytes).length true) 0) noCore
    (some (.tileOp n o.id))

/-- A row of a TST without a mask or poison whose write is done counts as written. -/
theorem tileWriteAck_writes {id : Nat} {o : TileOp} {d : List Byte} {p : Bool} (works : s.mcWorks mc.val = true)
    (op : (s.mc mc.val).opOf id = some o) (memory : o.scratch = false) (tst : o.kind = .tst) (going : o.held = none) (unmasked : o.mask = none)
    (sound : o.bad = []) (free : (s.mc mc.val).rowFree o (o.rowAt o.done) = true) (answer : (s.tstWrite mc.val o).o = .done d p) :
    exec (.tileWriteAck mc id) s = .next ((s.tstWrite mc.val o).st.rowWritten mc.val o) := by
  unfold State.tstWrite at answer
  change execTileWriteAck mc id s = _
  simp only [execTileWriteAck, op, works, tst, going, unmasked, free, State.tstRow, memory, sound, answer]
  rfl

end Sys2Proof.Machine

open Sys2Proof Sys2Proof.Machine

/-- Settles O8: TLD and TST are issues that add one operation (`tld_issues`, `tst_issues`), an answered row is `State.rowIn`, and a written
row is `State.rowWritten`. -/
theorem tileMovesComplete : Obligations.TileMovesComplete := by
  unfold Obligations.TileMovesComplete
  refine ⟨fun mc f s c run clean cfg memory grouped => ⟨fun unmasked free => ?tld, fun free => ?tst⟩,
    fun mc id s o works op memory => ⟨fun row bs tld low high free answer => ?row, fun d p tst going unmasked sound free answer => ?ack⟩⟩
  case tld =>
    obtain ⟨t, ht, issued⟩ := tld_issues run clean cfg memory grouped unmasked free
    refine ⟨t, _, ht, issued, rfl, rfl, rfl, rfl, rfl, rfl, rfl, fun h => ?_, fun h g => ?_, fun h g => ?_⟩
    · simp [State.tldOp, h, moveShape_elements]
    · simp [State.tldOp, h, moveShape_rowScales g]
    · simp [State.tldOp, h, moveShape_columnScales g]
  case tst =>
    obtain ⟨t, ht, issued⟩ := tst_issues run clean cfg memory grouped free
    refine ⟨t, _, ht, issued, rfl, rfl, rfl, rfl, rfl, rfl, rfl, ?_, rfl, fun h => ?_, fun h g => ?_, fun h g => ?_⟩
    · cases h : fbit f 2 <;> simp [State.tstOp, h]
    · simp [State.tstOp, State.tldOp, h, moveShape_elements]
    · simp [State.tstOp, State.tldOp, h, moveShape_rowScales g]
    · simp [State.tstOp, State.tldOp, h, moveShape_columnScales g]
  case row =>
    obtain ⟨only, core⟩ := State.rowIn_effect (s.vRead (mcUnit mc.val) (s.mc mc.val).ctx (s.mcPart mc.val) (o.rowAt row) o.rowBytes
      .read (some (.tileOp mc.val o.id))).st mc.val o row bs
    refine ⟨_, _, rfl, tileRowArrival_puts works op memory tld low high free answer, only, ?_, fun i hi => ?_, fun a ha => ?_⟩
    · rw [core]
      rfl
    · rw [core]
      refine (mget_writeBytes _ _ _ _).trans ?_
      rw [if_pos (by omega), Nat.add_sub_cancel_left]
    · rw [core]
      exact mget_writeBytes_out _ _ _ _ ha
  case ack =>
    obtain ⟨only, core⟩ := State.rowWritten_effect (s.tstWrite mc.val o).st mc.val o
    exact ⟨_, _, rfl, tileWriteAck_writes works op memory tst going unmasked sound free answer, only, core⟩
end

section
/-! Row threads: what TEW, TACT, TDER, TMSK and TQNT write, raise and count (R178-R182, R225, R234). -/

namespace Sys2Proof.Machine

/-! ### Sticky flags (R111, R194) -/

variable (s : State)

/-- A sticky bit set where a condition holds. -/
theorem getB_stickyBit (k b j : Nat) (c : Bool) (hb : b < 64) :
    (if c then s.putF ⟨k, b, 1⟩ 1 else s).getB ⟨k, j, 1⟩ = (c && decide (j = b) || s.getB ⟨k, j, 1⟩) := by
  cases c with
  | false => rfl
  | true =>
    simp only [if_true, Bool.true_and, State.getB]
    by_cases same : j = b
    · subst same
      rw [State.putF_getF_same s ⟨k, j, 1⟩ 1 (by exact hb)]
      simp
    · rw [State.putF_getF_ne s ⟨k, b, 1⟩ ⟨k, j, 1⟩ 1 (.inr (by dsimp only; omega))]
      simp [same]

/-- Sticky flag j of MXC_STAT after the flags of an operation. -/
theorem State.setAFlags_getB (n : Nat) (fl : AFlags) (j : Nat) : (s.setAFlags n fl).getB ⟨mxcBase n + 8, j, 1⟩ =
    (fl.unf && decide (j = 10) || (fl.ovf && decide (j = 9) || (fl.inv && decide (j = 8) || s.getB ⟨mxcBase n + 8, j, 1⟩))) := by
  unfold State.setAFlags
  dsimp only
  rw [getB_stickyBit _ _ _ _ _ (by decide), getB_stickyBit _ _ _ _ _ (by decide), getB_stickyBit _ _ _ _ _ (by decide)]

theorem getF_stickyBit_apart (k b : Nat) (c : Bool) (g : RF) (apart : g.key ≠ k ∨ g.lo + g.len ≤ b ∨ b < g.lo) :
    (if c then s.putF ⟨k, b, 1⟩ 1 else s).getF g = s.getF g := by
  split
  · exact State.putF_getF_ne s ⟨k, b, 1⟩ g 1 apart
  · rfl

/-- A field apart from the sticky flags. -/
theorem State.setAFlags_apart (n : Nat) (fl : AFlags) (g : RF) (apart : g.key ≠ mxcBase n + 8 ∨ g.lo + g.len ≤ 8 ∨ 11 ≤ g.lo) :
    (s.setAFlags n fl).getF g = s.getF g := by
  unfold State.setAFlags
  dsimp only
  rw [getF_stickyBit_apart _ _ _ _ _ (by omega), getF_stickyBit_apart _ _ _ _ _ (by omega), getF_stickyBit_apart _ _ _ _ _ (by omega)]

/-! ### Issue of an instruction with results -/

theorem OnlyMatrix.putRows (n : Nat) (r : RowsRes) : OnlyMatrix n [mxcBase n + 8] s (s.putRows n r) :=
  (OnlyMatrix.setMc n _ s r.m).trans (OnlyMatrix.setAFlags n _ r.fl)

theorem State.putRows_mc_same (n : Nat) (r : RowsRes) : (s.putRows n r).mc n = r.m :=
  (State.setAFlags_mc _ n r.fl n).trans (State.setMc_mc_same s n r.m)

variable {s}

/-- An instruction whose effect is to write rows has issued with their flags. -/
theorem State.issueTo_rows {n u : Nat} {rsv ready : Bool} {chk : Chk} {act : State → State} {next : Int} (r : RowsRes)
    (run : s.mcRun n = true) (clean : rsv = false) (free : ready = true) (checked : chk = none)
    (effect : act (s.putF (mxcSt n) 1) = (s.putF (mxcSt n) 1).putRows n r) :
    ∃ t, s.issueTo n u rsv ready chk act next = .next t ∧ IssuedFlags n next r.m r.fl s t := by
  subst clean free checked
  have frame := (OnlyMatrix.putMxcSt s n 1).trans (OnlyMatrix.putRows (s.putF (mxcSt n) 1) n r)
  have stat : ∀ lo len, 3 ≤ lo → (s.putF (mxcSt n) 1).getF ⟨mxcBase n + 8, lo, len⟩ = s.getF ⟨mxcBase n + 8, lo, len⟩ := fun lo len h =>
    State.putF_getF_ne s (mxcSt n) ⟨mxcBase n + 8, lo, len⟩ 1 (.inr (.inr h))
  have ne : mxcBase n + 8 ≠ mxcBase n + 0x10 := by omega
  refine ⟨_, State.issueTo_go s n u act next run, ?_⟩
  rw [effect]
  refine ⟨(frame.mono (by simp)).trans (OnlyMatrix.goTo _ _ (by simp) _), ?state, ?inv, ?ovf, ?unf, ?low, ?high, ?pc, ?core⟩
  case state =>
    rw [State.goTo_getF _ _ _ (mxcSt n) ne, State.putRows, State.setAFlags_mxcSt, State.setMc_getF]
    exact State.putF_getF_same s (mxcSt n) 1 (by simp [mxcSt])
  case inv | ovf | unf =>
    rw [State.getB, State.goTo_getF _ _ _ _ ne, ← State.getB, State.putRows, State.setAFlags_getB, State.setMc_getB, State.getB, stat _ _ (by decide)]
    simp [State.getB]
  case low | high =>
    rw [State.goTo_getF _ _ _ _ ne, State.putRows, State.setAFlags_apart _ _ _ _ (by simp), State.setMc_getF, stat _ _ (by decide)]
  case pc => rw [State.goTo_reg, if_pos rfl, frame.2.1 _ (by simp)]
  case core => rw [State.goTo_mc_same, State.putRows_mc_same, outOfSpace_congr (frame.2.1 _ (by simp))]

/-! ### Fields of an instruction that must be zero (R146) -/

/-- A word clean for some fields is clean for more. -/
theorem rsvd_mono {f : BitVec 56} {l k : List (Nat × Nat)} (h : rsvd f l = false) (sub : l ⊆ k) : rsvd f k = false := by
  rw [rsvd_eq_false_iff] at h ⊢
  intro i hi
  obtain ⟨p, mem, lies⟩ := h i hi
  exact ⟨p, sub mem, lies⟩

/-- A bit outside every field of a clean word is 0. -/
theorem fbit_of_clean {f : BitVec 56} {l : List (Nat × Nat)} (h : rsvd f l = false) {i : Nat}
    (outside : ∀ p ∈ l, ¬ (p.2 ≤ i ∧ i < p.2 + (p.1 - p.2 + 1))) : fbit f i = false := by
  by_contra set
  obtain ⟨p, mem, lies⟩ := (rsvd_eq_false_iff f l).mp h i (by simpa [fbit, bit, BitVec.getLsbD] using set)
  exact outside p mem lies

/-! ### Grids -/

@[simp] theorem Grid.one_at (x : Src) (i j : Nat) : (Grid.one x).at i j = x := by simp [Grid.one, Grid.at]

@[simp] theorem AFlags.or_none (a : AFlags) : a.or {} = a := by simp [AFlags.or]

/-- An operand that an instruction does not read raises nothing. -/
@[simp] theorem Grid.one_fl (x : Nat) : (Grid.one ⟨x, {}⟩).fl = {} := rfl

end Sys2Proof.Machine
end

section
/-! What the row-thread instructions issue, for registers that are configured (R178-R182, R225, R234). -/

namespace Sys2Proof.Machine

/-- Rows written with the flags of an operand added. -/
def RowsRes.raise (r : RowsRes) (fl : AFlags) : RowsRes := { r with fl := r.fl.or fl }

variable {mc : Fin 1920} {f : BitVec 56} {s : State} {d a b : TileCfg}

/-! ### TEW (R179, R180) -/

/-- The fields of TEW. -/
def tewFields : List (Nat × Nat) := [(55, 52), (51, 48), (47, 44), (43, 40), (39, 39), (38, 38), (37, 37), (36, 36), (35, 20)]

/-- What TEW writes, from its operands. -/
def McState.tewRows (m : McState) (f : BitVec 56) (d : TileCfg) (ga gb gd : Grid) : RowsRes :=
  m.emit (fb f 55 52) d (fbit f 39) (fbit f 38) (fbit f 37) (fun i j => tewOp (fb f 43 40) (ga.at i j).x (gb.at i j).x (gd.at i j).x)

/-- TEW of one operand, its b field not read. -/
theorem tew_unary (run : s.mcRun mc.val = true) (hd : (s.mc mc.val).cfgOf (fb f 55 52) = some d)
    (ha : (s.mc mc.val).cfgOf (fb f 51 48) = some a) (wr : (s.mc mc.val).tileWr (fb f 55 52) = true)
    (rd : (s.mc mc.val).tileRd (fb f 51 48) = true) (clean : rsvd f tewFields = false) (low : 6 ≤ fb f 43 40) (high : fb f 43 40 ≤ 9)
    (reg : fbit f 36 = false)
    (checked : rowCheck [⟨some d, 1, false⟩, ⟨some a, 2, true⟩] (some d) (some a) none false true (fbit f 39) = none)
    (ga : Grid) (hga : ga = (s.mc mc.val).grid (fb f 51 48) a (fbit f 37)) (r : RowsRes)
    (hr : r = (s.mc mc.val).tewRows f d ga (Grid.one ⟨0, {}⟩) (Grid.one ⟨0, {}⟩)) :
    ∃ t, exec (.tew mc f) s = .next t ∧ IssuedFlags mc.val (s.pcAt mc.val + 8) r.m (r.fl.or ga.fl) s t := by
  have unary : tewB f = false := by simp [tewB]; omega
  have five : ¬ fb f 43 40 = 5 := by omega
  have five' : (fb f 43 40 == 5) = false := by simp [five]
  have op : decide (fb f 43 40 > 9) = false := by simp [high]
  subst hga hr
  change ∃ t, execTew mc f s = _ ∧ _
  simp only [execTew, State.issue, hd, ha, unary, five, five', op, reg, Bool.or_false, Bool.false_eq_true, if_false, List.append_nil]
  refine State.issueTo_rows (((s.mc mc.val).tewRows f d ((s.mc mc.val).grid (fb f 51 48) a (fbit f 37)) (Grid.one ⟨0, {}⟩)
    (Grid.one ⟨0, {}⟩)).raise _) run clean (by simp [wr, rd]) checked ?_
  simp only [Grid.one_fl, AFlags.or_none]
  rfl

/-- TEW of two tiles, or of three where the operation is a fused multiply-add. -/
theorem tew_binary (run : s.mcRun mc.val = true) (hd : (s.mc mc.val).cfgOf (fb f 55 52) = some d)
    (ha : (s.mc mc.val).cfgOf (fb f 51 48) = some a) (hb : (s.mc mc.val).cfgOf (fb f 47 44) = some b)
    (wr : (s.mc mc.val).tileWr (fb f 55 52) = true) (rd : (s.mc mc.val).tileRd (fb f 51 48) = true)
    (rdB : (s.mc mc.val).tileRd (fb f 47 44) = true) (clean : rsvd f tewFields = false) (high : fb f 43 40 ≤ 5) (reg : fbit f 36 = false)
    (checked : rowCheck [⟨some d, 1, fb f 43 40 == 5⟩, ⟨some a, 2, true⟩, ⟨some b, 3, true⟩] (some d) (some a) (some b) false true
      (fbit f 39) = none)
    (ga gb gd : Grid) (hga : ga = (s.mc mc.val).grid (fb f 51 48) a (fbit f 37))
    (hgb : gb = (s.mc mc.val).grid (fb f 47 44) b (fbit f 37))
    (hgd : gd = if fb f 43 40 = 5 then (s.mc mc.val).grid (fb f 55 52) d (fbit f 37) else Grid.one ⟨0, {}⟩) (r : RowsRes)
    (hr : r = (s.mc mc.val).tewRows f d ga gb gd) :
    ∃ t, exec (.tew mc f) s = .next t ∧
      IssuedFlags mc.val (s.pcAt mc.val + 8) r.m (((r.fl.or ga.fl).or gb.fl).or gd.fl) s t := by
  have binary : tewB f = true := by simp [tewB, high, reg]
  have op : decide (fb f 43 40 > 9) = false := by simp; omega
  subst hga hgb hgd hr
  change ∃ t, execTew mc f s = _ ∧ _
  simp only [execTew, State.issue, hd, ha, hb, binary, op, reg, Bool.or_false, Bool.false_eq_true, if_false, if_true]
  exact State.issueTo_rows (RowsRes.raise (RowsRes.raise (RowsRes.raise _ _) _) _) run clean (by simp [wr, rd, rdB]) checked rfl

/-! ### TACT and TDER (R144, R182, R225) -/

/-- What TACT writes: the forward table at each element. -/
def McState.tactRows (m : McState) (f : BitVec 56) (d : TileCfg) (ga : Grid) : RowsRes :=
  m.emit (fb f 55 52) d (fbit f 39) (fbit f 38) (fbit f 37) (fun i j => tableEval (m.table false) (ga.at i j).x)

theorem tact_issues (run : s.mcRun mc.val = true) (hd : (s.mc mc.val).cfgOf (fb f 55 52) = some d)
    (ha : (s.mc mc.val).cfgOf (fb f 51 48) = some a) (wr : (s.mc mc.val).tileWr (fb f 55 52) = true)
    (rd : (s.mc mc.val).tileRd (fb f 51 48) = true) (clean : rsvd f [(55, 52), (51, 48), (39, 39), (38, 38), (37, 37)] = false)
    (checked : rowCheck [⟨some d, 1, false⟩, ⟨some a, 2, true⟩] (some d) (some a) none false false (fbit f 39) = none)
    (ga : Grid) (hga : ga = (s.mc mc.val).grid (fb f 51 48) a (fbit f 37)) (r : RowsRes) (hr : r = (s.mc mc.val).tactRows f d ga) :
    ∃ t, exec (.tact mc f) s = .next t ∧ IssuedFlags mc.val (s.pcAt mc.val + 8) r.m (r.fl.or ga.fl) s t := by
  subst hga hr
  change ∃ t, execTact mc f s = _ ∧ _
  simp only [execTact, State.issue, hd, ha]
  exact State.issueTo_rows (RowsRes.raise _ _) run clean (by simp [wr, rd]) checked rfl

/-- What TDER writes: the derivative table at each element of Ta, times the element of Tb. -/
def McState.tderRows (m : McState) (f : BitVec 56) (d : TileCfg) (ga gb : Grid) : RowsRes :=
  m.emit (fb f 55 52) d (fbit f 39) (fbit f 38) (fbit f 37) (fun i j => tderEl (m.table true) (ga.at i j).x (gb.at i j).x)

theorem tder_issues (run : s.mcRun mc.val = true) (hd : (s.mc mc.val).cfgOf (fb f 55 52) = some d)
    (ha : (s.mc mc.val).cfgOf (fb f 51 48) = some a) (hb : (s.mc mc.val).cfgOf (fb f 47 44) = some b)
    (wr : (s.mc mc.val).tileWr (fb f 55 52) = true) (rd : (s.mc mc.val).tileRd (fb f 51 48) = true)
    (rdB : (s.mc mc.val).tileRd (fb f 47 44) = true)
    (clean : rsvd f [(55, 52), (51, 48), (47, 44), (39, 39), (38, 38), (37, 37)] = false)
    (checked : rowCheck [⟨some d, 1, false⟩, ⟨some a, 2, true⟩, ⟨some b, 3, true⟩] (some d) (some a) (some b) false false
      (fbit f 39) = none)
    (ga gb : Grid) (hga : ga = (s.mc mc.val).grid (fb f 51 48) a (fbit f 37))
    (hgb : gb = (s.mc mc.val).grid (fb f 47 44) b (fbit f 37)) (r : RowsRes) (hr : r = (s.mc mc.val).tderRows f d ga gb) :
    ∃ t, exec (.tder mc f) s = .next t ∧ IssuedFlags mc.val (s.pcAt mc.val + 8) r.m ((r.fl.or ga.fl).or gb.fl) s t := by
  subst hga hgb hr
  change ∃ t, execTder mc f s = _ ∧ _
  simp only [execTder, State.issue, hd, ha, hb]
  exact State.issueTo_rows (RowsRes.raise (RowsRes.raise _ _) _) run clean (by simp [wr, rd, rdB]) checked rfl

/-! ### TMSK (R181) -/

/-- What TMSK writes in its modes 0 and 1, which compare an element's place with the diagonal. -/
def McState.tmskRows (m : McState) (f : BitVec 56) (d : TileCfg) (ga : Grid) : RowsRes :=
  m.emit (fb f 55 52) d false (fbit f 40) false (fun i j =>
    if tmskMasked (fb f 43 42) (fs f 31 0) (sext m.orgRow.toNat 32 + i) (sext m.orgCol.toNat 32 + j) 0
    then ⟨if fbit f 41 then 0xFF800000 else 0, {}⟩ else ⟨(ga.at i j).x, {}⟩)

theorem tmsk_diagonal (run : s.mcRun mc.val = true) (hd : (s.mc mc.val).cfgOf (fb f 55 52) = some d)
    (ha : (s.mc mc.val).cfgOf (fb f 51 48) = some a) (wr : (s.mc mc.val).tileWr (fb f 55 52) = true)
    (rd : (s.mc mc.val).tileRd (fb f 51 48) = true)
    (clean : rsvd f [(55, 52), (51, 48), (47, 44), (43, 42), (41, 41), (40, 40), (31, 0)] = false) (mode : fb f 43 42 < 2)
    (checked : rowCheck [⟨some d, 1, false⟩, ⟨some a, 2, true⟩] (some d) (some a) none false false false = none)
    (ga : Grid) (hga : ga = (s.mc mc.val).grid (fb f 51 48) a false) (r : RowsRes) (hr : r = (s.mc mc.val).tmskRows f d ga) :
    ∃ t, exec (.tmsk mc f) s = .next t ∧ IssuedFlags mc.val (s.pcAt mc.val + 8) r.m (r.fl.or ga.fl) s t := by
  have two : ¬ fb f 43 42 = 2 := by omega
  have two' : (fb f 43 42 != 2) = true := by simp [two]
  have three : (fb f 43 42 == 3) = false := by simp; omega
  subst hga hr
  change ∃ t, execTmsk mc f s = _ ∧ _
  simp only [execTmsk, State.issue, hd, ha, two, two', three, Bool.or_false, Bool.true_or, Bool.and_true, if_false, List.append_nil,
    Grid.one_at]
  refine State.issueTo_rows (((s.mc mc.val).tmskRows f d ((s.mc mc.val).grid (fb f 51 48) a false)).raise _) run clean (by simp [wr, rd])
    checked ?_
  simp only [Grid.one_fl, AFlags.or_none]
  rfl

/-! ### TQNT (R182, R234) -/

/-- What TQNT writes: the conversion of each element. -/
def McState.tqntRows (m : McState) (f : BitVec 56) (d : TileCfg) (ga : Grid) : RowsRes :=
  m.emit (fb f 55 52) d (fbit f 39) (fbit f 38) (fbit f 37) (fun i j => ⟨(ga.at i j).x, {}⟩)

/-- The elements of a tile, row by row. -/
def Grid.elements (g : Grid) (c : TileCfg) : List Nat := (upTo c.rows).flatMap (fun i => (upTo c.cols).map (fun j => (g.at i j).x))

theorem Grid.elements_length (g : Grid) (c : TileCfg) : (g.elements c).length = c.rows * c.cols := by
  simp [elements, upTo, List.length_flatMap]

/-- A number of a list is not finite. -/
def notFinite (x : Nat) : Bool := (f32 x).isNan || (f32 x).isInf

/-- TQNT writes its rows, counts them in its overflow counter and goes on. -/
theorem tqnt_issues (run : s.mcRun mc.val = true) (hd : (s.mc mc.val).cfgOf (fb f 55 52) = some d)
    (ha : (s.mc mc.val).cfgOf (fb f 51 48) = some a) (wr : (s.mc mc.val).tileWr (fb f 55 52) = true)
    (rd : (s.mc mc.val).tileRd (fb f 51 48) = true)
    (clean : rsvd f [(55, 52), (51, 48), (43, 41), (39, 39), (38, 38), (37, 37)] = false)
    (checked : rowCheck [⟨some d, 1, false⟩, ⟨some a, 2, true⟩] (some d) (some a) none true false (fbit f 39) = none)
    {ga : Grid} (hga : ga = (s.mc mc.val).grid (fb f 51 48) a (fbit f 37)) {r : RowsRes} (hr : r = (s.mc mc.val).tqntRows f d ga) :
    exec (.tqnt mc f) s = .next ((((s.putF (mxcSt mc.val) 1).putRows mc.val (r.raise ga.fl)).countQnt mc.val (fb f 43 41)
      (ga.elements a).length ((ga.elements a).filter notFinite).length r.sats (maxExp (ga.elements a)) d.code).goTo mc.val
        (s.pcAt mc.val + 8)) := by
  subst hga hr
  change execTqnt mc f s = _
  simp only [execTqnt, State.issue, hd, ha, clean, wr, rd, checked, Bool.and_self]
  exact State.issueTo_go s mc.val 2 _ _ run

/-- An overflow counter stands apart from its core's own registers. -/
theorem mxqBase_apart (n k o : Nat) (ho : o < 0x100) : mxcBase n + o < mxqBase n + 0x20 * k := by
  simp only [mxcBase, mxqBase]
  omega

/-- The registers of overflow counter k of core n. -/
abbrev qntKeys (n k : Nat) : List Nat := [mxqBase n + 0x20 * k, mxqBase n + 0x20 * k + 8, mxqBase n + 0x20 * k + 0x10]

theorem OnlyMatrix.countQnt (n k conv nonfinite sat tgt : Nat) (amax : Option Int) (s : State) :
    OnlyMatrix n (qntKeys n k) s (s.countQnt n k conv nonfinite sat amax tgt) := by
  unfold State.countQnt State.addF State.putB
  iterate 7 refine OnlyMatrix.trans ?_ (OnlyMatrix.putF n _ _ _ (by simp))
  exact OnlyMatrix.refl _ _ _

@[simp] theorem State.countQnt_mc (s : State) (n k conv nonfinite sat tgt : Nat) (amax : Option Int) (j : Nat) :
    (s.countQnt n k conv nonfinite sat amax tgt).mc j = s.mc j := by
  simp only [State.countQnt, State.addF, State.putB, State.putF, State.setReg_mc]

theorem OtherRegs.getF {keys : List Nat} {s t : State} (h : OtherRegs keys s t) {g : RF} (other : g.key ∉ keys) : t.getF g = s.getF g := by
  rw [State.getF, h _ other, State.getF]

/-- What a TQNT adds to its counter (R234). -/
theorem State.countQnt_counts (s : State) (n k conv nonfinite sat tgt : Nat) (amax : Option Int) {t : State}
    (ht : t = s.countQnt n k conv nonfinite sat amax tgt) :
    t.getF ⟨mxqBase n + 0x20 * k, 0, 32⟩ = min (s.getF ⟨mxqBase n + 0x20 * k, 0, 32⟩ + sat) (2 ^ 32 - 1) ∧
    t.getF ⟨mxqBase n + 0x20 * k, 32, 32⟩ = min (s.getF ⟨mxqBase n + 0x20 * k, 32, 32⟩ + nonfinite) (2 ^ 32 - 1) ∧
    t.getF ⟨mxqBase n + 0x20 * k + 8, 0, 48⟩ = (s.getF ⟨mxqBase n + 0x20 * k + 8, 0, 48⟩ + conv) % 2 ^ 48 ∧
    t.getF ⟨mxqBase n + 0x20 * k + 0x10, 12, 4⟩ = tgt % 2 ^ 4 := by
  subst ht
  have sat32 : ∀ x y, satAdd x y 32 % 4294967296 = min (x + y) 4294967295 := fun x y => by simp only [satAdd]; omega
  simp only [State.countQnt, State.addF, State.putB, State.getF, State.putF_reg]
  simp (disch := omega) [fld_setFld_ne, fld_setFld_same, sat32]

/-- What a TQNT leaves: its rows, its counter, and its core at the next instruction. -/
theorem tqnt_leaves (s : State) (n k : Nat) (next : Int) (r : RowsRes) (xs : List Nat) (tgt : Nat) {t : State}
    (ht : t = (((s.putF (mxcSt n) 1).putRows n r).countQnt n k xs.length (xs.filter notFinite).length r.sats (maxExp xs) tgt).goTo n next) :
    OnlyMatrix n ([mxcBase n + 8, mxcBase n + 0x10] ++ qntKeys n k) s t ∧
    t.mc n = { r.m with pcOut := outOfSpace s n next } ∧ t.getF (mxcSt n) = 1 ∧ t.getF (mxcPc n) = toBits next 48 ∧
    t.getF ⟨mxqBase n + 0x20 * k, 0, 32⟩ = min (s.getF ⟨mxqBase n + 0x20 * k, 0, 32⟩ + r.sats) (2 ^ 32 - 1) ∧
    t.getF ⟨mxqBase n + 0x20 * k, 32, 32⟩ =
      min (s.getF ⟨mxqBase n + 0x20 * k, 32, 32⟩ + (xs.filter notFinite).length) (2 ^ 32 - 1) ∧
    t.getF ⟨mxqBase n + 0x20 * k + 8, 0, 48⟩ = (s.getF ⟨mxqBase n + 0x20 * k + 8, 0, 48⟩ + xs.length) % 2 ^ 48 ∧
    t.getF ⟨mxqBase n + 0x20 * k + 0x10, 12, 4⟩ = tgt % 2 ^ 4 := by
  generalize hu : (s.putF (mxcSt n) 1).putRows n r = u at ht
  generalize hv : u.countQnt n k xs.length (xs.filter notFinite).length r.sats (maxExp xs) tgt = v at ht
  have apart := mxqBase_apart n k 0x10 (by decide)
  have rows : OnlyMatrix n [mxcBase n + 8] s u := hu ▸ (OnlyMatrix.putMxcSt s n 1).trans (OnlyMatrix.putRows _ _ _)
  have counted : OnlyMatrix n (qntKeys n k) u v := hv ▸ OnlyMatrix.countQnt _ _ _ _ _ _ _ _
  have core : v.mc n = r.m := by rw [← hv, State.countQnt_mc, ← hu, State.putRows_mc_same]
  have own : ∀ o, o ≤ 0x10 → mxcBase n + o ∉ qntKeys n k := by simp; omega
  have pcReg : v.reg (mxcBase n + 0x10) = s.reg (mxcBase n + 0x10) :=
    (counted.2.1 _ (own _ (by decide))).trans (rows.2.1 _ (by simp))
  have after : ∀ g : RF, mxqBase n + 0x20 * k ≤ g.key → t.getF g = v.getF g := fun g h =>
    ht ▸ State.goTo_getF _ _ _ _ (by omega)
  have before : ∀ g : RF, mxqBase n + 0x20 * k ≤ g.key → u.getF g = s.getF g := fun g h => rows.2.1.getF (by simp; omega)
  obtain ⟨sats, infs, convs, target⟩ := State.countQnt_counts u _ _ _ _ _ _ _ hv.symm
  rw [before _ (by simp)] at sats infs convs
  rw [← after _ (by simp)] at sats infs convs target
  refine ⟨?frame, ?core, ?state, ?pc, sats, infs, convs, target⟩
  case frame =>
    exact ht ▸ ((rows.mono (by simp)).trans (counted.mono (by simp))).trans (OnlyMatrix.goTo _ _ (by simp) _)
  case core => rw [ht, State.goTo_mc_same, core, outOfSpace_congr pcReg]
  case state =>
    rw [ht, State.goTo_getF _ _ _ _ (by simp [mxcSt]), counted.2.1.getF (own 8 (by decide)), ← hu, State.putRows, State.setAFlags_mxcSt,
      State.setMc_getF]
    exact State.putF_getF_same s (mxcSt n) 1 (by simp [mxcSt])
  case pc => rw [ht, State.goTo_mxcPc]

end Sys2Proof.Machine

open Sys2Proof Sys2Proof.Machine

/-- Settles O9: each row thread is an issue that writes rows (`State.issueTo_rows`), and TQNT counts what it has converted
(`State.countQnt_counts`). -/
theorem rowThreadsAndQuantiseComplete : Obligations.RowThreadsAndQuantiseComplete := by
  unfold Obligations.RowThreadsAndQuantiseComplete
  refine ⟨fun mc f s d a run hd ha wr rd => ⟨?unary, ?binary, ?tact, ?tder, ?tmsk⟩,
    fun mc f s d a ga r run hd ha wr rd clean checked hga hr => ?tqnt⟩
  case unary =>
    intro ga _ r clean low high checked hga _ hr
    exact tew_unary run hd ha wr rd (rsvd_mono clean (by decide)) low high (fbit_of_clean clean (by decide)) checked ga hga r
      (by simpa only [McState.tewRows, Grid.one_at] using hr)
  case binary =>
    intro b ga gb gd r clean high hb rdB checked hga hgb hgd hr
    exact tew_binary run hd ha hb wr rd rdB (rsvd_mono clean (by decide)) high (fbit_of_clean clean (by decide)) checked ga gb gd hga hgb
      hgd r hr
  case tact =>
    intro ga r clean checked hga hr
    exact tact_issues run hd ha wr rd clean checked ga hga r hr
  case tder =>
    intro b ga gb r clean hb rdB checked hga hgb hr
    exact tder_issues run hd ha hb wr rd rdB clean checked ga gb hga hgb r hr
  case tmsk =>
    intro ga r clean mode checked hga hr
    exact tmsk_diagonal run hd ha wr rd (rsvd_mono clean (by decide)) mode checked ga hga r hr
  case tqnt =>
    obtain ⟨only, core, state, pc, sats, infs, convs, target⟩ := tqnt_leaves s mc.val (fb f 43 41) (s.pcAt mc.val + 8) (r.raise ga.fl)
      (ga.elements a) d.code rfl
    exact ⟨_, tqnt_issues run hd ha wr rd clean checked hga hr, only, core, state, pc, sats, infs,
      convs.trans (by rw [Grid.elements_length]), target.trans (Nat.mod_eq_of_lt d.fmt.isLt)⟩
end

section
/-! Sync instructions on counters and signals (R184, R362, R365). -/

namespace Sys2Proof.Machine

variable {mc : Fin 1920} {f : BitVec 56} {s : State}

/-! ### Counters -/

theorem SyncCore.val_lt (c : SyncCore) (n : Nat) : c.val n < 65536 := (mget 0 c.cnt n).isLt

theorem SyncCore.setVal_val (c : SyncCore) (n v i : Nat) (hv : v < 65536) : (c.setVal n v).val i = if i = n then v else c.val i := by
  have read : mget 0 (mset 0 c.cnt n (BitVec.ofNat 16 v)) i = if i = n then BitVec.ofNat 16 v else mget 0 c.cnt i := mget_mset _ _ _ _ _
  simp only [SyncCore.val, SyncCore.setVal, read]
  split
  · exact Nat.mod_eq_of_lt hv
  · rfl

/-- The state after an own counter of key k holds v: nothing else of a sync unit that a counter's reader sees has changed. -/
def SetsCounter (k n v : Nat) (s u : State) : Prop :=
  SyncOnly s u ∧ u.mesh = s.mesh ∧ (∀ j, j ≠ k → u.syncOf j = s.syncOf j) ∧
  ∀ i, (u.syncOf k).val i = if i = n then v else (s.syncOf k).val i

/-- A view put back with its registers as they were changes its core's counters only. -/
theorem setsCounter_putView (k n v : Nat) (hv : v < 65536) :
    SetsCounter k n v s (s.putView k { s.coreView k with core := (s.syncOf k).setVal n v }) := by
  refine ⟨⟨rfl, fun j => ?regs⟩, rfl, fun j hj => State.setSync_syncOf_ne s k j _ hj, fun i => ?val⟩
  case regs =>
    simp only [State.putView, State.coreView, State.setReg_reg, State.setSync_reg]
    split
    · next h => rw [h]
    · split
      · next h => rw [h]
      · rfl
  case val =>
    have core := State.setSync_syncOf_same s k ((s.syncOf k).setVal n v).settleIdle
    exact (congrArg (fun c => SyncCore.val c i) core).trans (SyncCore.setVal_val _ n v i hv)

theorem setsCounter_setSync (k n v : Nat) (hv : v < 65536) : SetsCounter k n v s (s.setSync k ((s.syncOf k).setVal n v)) := by
  refine ⟨⟨rfl, fun _ => rfl⟩, rfl, fun j hj => State.setSync_syncOf_ne s k j _ hj, fun i => ?_⟩
  rw [State.setSync_syncOf_same]
  exact SyncCore.setVal_val _ n v i hv

/-- A core whose sync instruction has set an own counter goes on, and nothing else has changed. -/
theorem SetsCounter.goes {n i v : Nat} {u t : State} (h : SetsCounter (mcKey n) i v s u) (ht : t = u.syncOn n (u.pcAt n + 8)) :
    t = { s with regs := t.regs, mcs := t.mcs, sync := t.sync } ∧ OtherRegs [mxcBase n + 8, mxcBase n + 0x10] s t ∧
    (∀ j, j ≠ n → t.mc j = s.mc j) ∧ AtNext n (s.pcAt n + 8) s t ∧
    t.mc n = { s.mc n with pcOut := outOfSpace s n (s.pcAt n + 8) } ∧ (∀ j, j ≠ mcKey n → t.syncOf j = s.syncOf j) ∧
    ∀ k, (t.syncOf (mcKey n)).val k = if k = i then v else (s.syncOf (mcKey n)).val k := by
  obtain ⟨only, mesh, others, val⟩ := h
  obtain ⟨shape, regs, next, cores, core⟩ := only.goes n ht
  refine ⟨?_, regs, cores, next, core, fun j hj => ?_, fun k => ?_⟩
  · rw [mesh] at shape
    exact shape
  · rw [ht, State.syncOn_syncOf_ne u n _ hj, others j hj]
  · rw [ht, State.syncOn_val, val]

/-! ### SADD -/

theorem State.ownAdd_done {k n : Nat} {x : Int} (quiet : s.pendOn k n = false) (low : 0 ≤ ((s.syncOf k).val n : Int) + x)
    (high : ((s.syncOf k).val n : Int) + x ≤ 65535) : s.ownAdd k n x =
      .done (s.putView k { s.coreView k with core := (s.syncOf k).setVal n (((s.syncOf k).val n : Int) + x).toNat }) := by
  have range : 0 ≤ ((s.coreView k).core.val n : Int) + x ∧ ((s.coreView k).core.val n : Int) + x ≤ 65535 := ⟨low, high⟩
  simp only [State.ownAdd, quiet, CoreView.own, if_pos range, Bool.false_eq_true, if_false]
  rfl

/-- SADD whose sum stays in range adds to its counter and goes on. -/
theorem sadd_adds (run : s.mcRun mc.val = true) (clean : rsvd f [(55, 51), (15, 0)] = false)
    (quiet : s.pendOn (mcKey mc.val) (fb f 55 51) = false) (drained : s.drained mc.val = true)
    (low : 0 ≤ ((s.syncOf (mcKey mc.val)).val (fb f 55 51) : Int) + fs f 15 0)
    (high : ((s.syncOf (mcKey mc.val)).val (fb f 55 51) : Int) + fs f 15 0 ≤ 65535) :
    ∃ u, exec (.sadd mc f) s = .next (u.syncOn mc.val (u.pcAt mc.val + 8)) ∧
      SetsCounter (mcKey mc.val) (fb f 55 51) (((s.syncOf (mcKey mc.val)).val (fb f 55 51) : Int) + fs f 15 0).toNat s u := by
  refine ⟨_, ?_, setsCounter_putView _ _ _ (by omega)⟩
  change execSadd mc f s = _
  exact State.issueSync_done run clean drained (State.ownAdd_done quiet low high)

/-! ### SWAIT -/

theorem State.ownWait_done {k n x : Nat} (quiet : s.pendOn k n = false) (enough : x ≤ (s.syncOf k).val n) :
    s.ownWait k n x = .done (s.setSync k ((s.syncOf k).setVal n ((s.syncOf k).val n - x))) := by
  simp only [State.ownWait, quiet, ge_iff_le, enough, Bool.false_eq_true, if_false, if_true]

theorem State.ownWait_hold {k n x : Nat} (quiet : s.pendOn k n = false) (few : (s.syncOf k).val n < x) :
    s.ownWait k n x = .hold (s.setSync k { s.syncOf k with want := some (n, x) }) := by
  simp only [State.ownWait, quiet, ge_iff_le, Nat.not_le.mpr few, Bool.false_eq_true, if_false]

/-- SWAIT of a counter that has the value subtracts it and goes on. -/
theorem swait_subtracts (run : s.mcRun mc.val = true) (clean : rsvd f [(55, 51), (15, 0)] = false)
    (quiet : s.pendOn (mcKey mc.val) (fb f 55 51) = false) (enough : fb f 15 0 ≤ (s.syncOf (mcKey mc.val)).val (fb f 55 51)) :
    ∃ u, exec (.swait mc f) s = .next (u.syncOn mc.val (u.pcAt mc.val + 8)) ∧
      SetsCounter (mcKey mc.val) (fb f 55 51) ((s.syncOf (mcKey mc.val)).val (fb f 55 51) - fb f 15 0) s u := by
  refine ⟨_, ?_, setsCounter_setSync _ _ _ (Nat.lt_of_le_of_lt (Nat.sub_le _ _) (SyncCore.val_lt _ _))⟩
  change execSwait mc f s = _
  exact State.issueSync_done run clean rfl (State.ownWait_done quiet enough)

/-- SWAIT of a counter below its value holds issue, in state WAIT. -/
theorem swait_waits (run : s.mcRun mc.val = true) (clean : rsvd f [(55, 51), (15, 0)] = false)
    (quiet : s.pendOn (mcKey mc.val) (fb f 55 51) = false) (few : (s.syncOf (mcKey mc.val)).val (fb f 55 51) < fb f 15 0) :
    exec (.swait mc f) s = .next ((s.setSync (mcKey mc.val) { s.syncOf (mcKey mc.val) with want := some (fb f 55 51, fb f 15 0) }).putF
      (mxcSt mc.val) 2) := by
  change execSwait mc f s = _
  simp only [execSwait, State.issueSync, run, clean, State.ownWait_hold quiet few, State.setSync_syncOf_same, Bool.not_true,
    Bool.false_eq_true, if_false, Option.isSome_some, if_true]

/-- A write of a core's part of its sync unit that keeps its counters keeps every counter. -/
theorem State.setSync_val (k : Nat) (x : SyncCore) (same : x.cnt = (s.syncOf k).cnt) (j i : Nat) :
    ((s.setSync k x).syncOf j).val i = (s.syncOf j).val i := by
  by_cases h : j = k
  · subst h
    rw [State.setSync_syncOf_same, SyncCore.val, same, SyncCore.val]
  · rw [State.setSync_syncOf_ne _ _ _ _ h]

/-! ### SSIG -/

theorem fb_counter_lt (f : BitVec 56) : fb f 55 51 < 32 := Nat.mod_lt _ (by decide)

/-- A signal sent waits at its target's sync unit and crosses the network; no register and no counter changes. -/
theorem State.sendSignal_effect (g : Signal) : SyncOnly s (s.sendSignal g) ∧
    (s.sendSignal g).sync = { s.sync with signals := s.sync.signals ++ [g] } := by
  unfold State.sendSignal
  dsimp only
  split
  · exact ⟨⟨rfl, fun _ => rfl⟩, rfl⟩
  · exact ⟨⟨rfl, fun _ => rfl⟩, rfl⟩

theorem State.ownSig_done {core target : CoreName} {sn : Fin 32} {x : BitVec 16}
    (inside : s.inPartition target (s.cellPart (coreCell core)) = true)
    (quiet : target = core → s.pendOn (coreKey core) sn.val = false) : s.ownSig core target sn x =
      .done (s.sendSignal ⟨core, target, sn, x, Fin.ofNat 16 (s.cellPart (coreCell core)), false⟩) := by
  have calm : ¬ (target = core ∧ s.pendOn (coreKey core) sn.val = true) := fun ⟨self, pending⟩ => by simp [quiet self] at pending
  simp only [State.ownSig, if_neg calm, inside, if_true]

theorem State.ownSig_outside {core target : CoreName} {sn : Fin 32} {x : BitVec 16}
    (outside : s.inPartition target (s.cellPart (coreCell core)) = false) (other : target ≠ core) :
    s.ownSig core target sn x = .fault s fltTarget := by
  simp only [State.ownSig, other, false_and, if_false, outside, Bool.false_eq_true]

/-- The signal that SSIG of a core sends. -/
def State.ssigSignal (s : State) (n : Nat) (f : BitVec 56) : Signal :=
  ⟨⟨false, n⟩, ⟨fbit f 50, fb f 49 39⟩, Fin.ofNat 32 (fb f 55 51), BitVec.ofNat 16 (fb f 15 0), Fin.ofNat 16 (s.cellPart (n / 4)), false⟩

/-- SSIG to a core of the partition sends its signal and goes on. -/
theorem ssig_sends (run : s.mcRun mc.val = true) (clean : rsvd f [(55, 51), (50, 50), (49, 39), (15, 0)] = false)
    (drained : s.drained mc.val = true) (inside : s.inPartition ⟨fbit f 50, fb f 49 39⟩ (s.cellPart (mc.val / 4)) = true)
    (quiet : (⟨fbit f 50, fb f 49 39⟩ : CoreName) = ⟨false, mc.val⟩ → s.pendOn (mcKey mc.val) (fb f 55 51) = false) :
    exec (.ssig mc f) s = .next ((s.sendSignal (s.ssigSignal mc.val f)).syncOn mc.val
      ((s.sendSignal (s.ssigSignal mc.val f)).pcAt mc.val + 8)) := by
  have counter : (Fin.ofNat 32 (fb f 55 51)).val = fb f 55 51 := Nat.mod_eq_of_lt (fb_counter_lt f)
  change execSsig mc f s = _
  exact State.issueSync_done run clean drained (State.ownSig_done inside (counter.symm ▸ quiet))

/-- SSIG to a core outside the partition is SYNC_TARGET. -/
theorem ssig_outside (run : s.mcRun mc.val = true) (clean : rsvd f [(55, 51), (50, 50), (49, 39), (15, 0)] = false)
    (drained : s.drained mc.val = true) (outside : s.inPartition ⟨fbit f 50, fb f 49 39⟩ (s.cellPart (mc.val / 4)) = false)
    (other : (⟨fbit f 50, fb f 49 39⟩ : CoreName) ≠ ⟨false, mc.val⟩) :
    exec (.ssig mc f) s = .next (s.issueFault mc.val 0x51 0 0) := by
  change execSsig mc f s = _
  exact State.issueSync_fault run clean drained (State.ownSig_outside outside other)

end Sys2Proof.Machine
end

section
/-! Stop, resume and the clearing of overflow counters (R189-R193, R241). -/

namespace Sys2Proof.Machine

variable (s : State) (n : Nat)

/-! ### Stop -/

theorem State.mxcStop_reg (k : Nat) : (s.mxcStop n).reg k = if k = mxcBase n then setFld (s.reg k) 1 1 1 else s.reg k := by
  simp only [State.mxcStop, State.putF_reg, mxcStopF]
  split
  · next same => rw [same]
  · rfl

theorem State.dropWaiters_mc (p : Waiter → Bool) (j : Nat) : (s.dropWaiters p).mc j = s.mc j := rfl

/-- The accesses of a core that are given up change its operations, its loop descriptor and its fetch only (R325). -/
theorem State.abandonMc_mc_same : (s.abandonMc n).mc n = { s.mc n with
    ops := (s.mc n).ops.map TileOp.abandon, lds := (s.mc n).lds.map (fun l => { l with held := none }), fetchHeld := none } := by
  simp only [State.abandonMc, State.dropWaiters_mc, State.updMc_mc_same]

theorem State.abandonMc_mc_ne {j : Nat} (h : j ≠ n) : (s.abandonMc n).mc j = s.mc j := by
  simp only [State.abandonMc, State.dropWaiters_mc, State.updMc_mc_ne s n j _ h]

@[simp] theorem State.abandonMc_reg (k : Nat) : (s.abandonMc n).reg k = s.reg k := by
  simp only [State.abandonMc, State.dropWaiters, State.updMc]
  rfl

@[simp] theorem State.abandonMc_sync : (s.abandonMc n).sync = s.sync := by
  simp only [State.abandonMc, State.dropWaiters, State.updMc, State.setMc]

/-- The state in which a core that has settled stops: its accesses given up, and it waits for nothing. -/
theorem State.mxcEnterStopped_mc (j : Nat) : (s.mxcEnterStopped n).mc j = (s.abandonMc n).mc j := by
  simp only [State.mxcEnterStopped, State.putF, State.setReg_mc, State.setSync_mc]

theorem State.mxcEnterStopped_reg (k : Nat) :
    (s.mxcEnterStopped n).reg k = if k = mxcBase n + 8 then setFld (s.reg (mxcBase n + 8)) 0 3 3 else s.reg k := by
  simp only [State.mxcEnterStopped, State.putF_reg, mxcSt, State.setSync_reg, State.abandonMc_reg]

theorem State.mxcEnterStopped_val (j i : Nat) : ((s.mxcEnterStopped n).syncOf j).val i = (s.syncOf j).val i := by
  have keeps := State.setSync_val (s := s.abandonMc n) (mcKey n)
    { (s.abandonMc n).syncOf (mcKey n) with want := none, stall := none, idle := false } rfl j i
  simp only [State.mxcEnterStopped, State.putF, State.setReg_syncOf, keeps]
  simp only [State.syncOf, State.abandonMc_sync]

/-- What a core that enters STOPPED leaves: its state, and no access that fault service holds. -/
theorem State.mxcEnterStopped_effect {t : State} (ht : t = s.mxcEnterStopped n) :
    t = { s with regs := t.regs, mcs := t.mcs, mmu := t.mmu, sync := t.sync } ∧
    OtherRegs [mxcBase n + 8] s t ∧ t.reg (mxcBase n + 8) = setFld (s.reg (mxcBase n + 8)) 0 3 3 ∧
    (∀ j, j ≠ n → t.mc j = s.mc j) ∧
    t.mc n = { s.mc n with ops := (t.mc n).ops, lds := (t.mc n).lds, fetchHeld := none } ∧
    t.mmu = { s.mmu with recs := t.mmu.recs } ∧ ∀ j i, (t.syncOf j).val i = (s.syncOf j).val i := by
  subst ht
  refine ⟨?shape, fun k hk => ?regs, ?stat, fun j hj => ?others, ?core, ?mmu, s.mxcEnterStopped_val n⟩
  case shape =>
    simp only [State.mxcEnterStopped, State.abandonMc, State.dropWaiters, State.updMc, State.setMc, State.setSync, State.putF, State.setReg]
  case regs => rw [State.mxcEnterStopped_reg, if_neg (by simpa using hk)]
  case stat => rw [State.mxcEnterStopped_reg, if_pos rfl]
  case others => rw [State.mxcEnterStopped_mc, State.abandonMc_mc_ne s n hj]
  case core => rw [State.mxcEnterStopped_mc, State.abandonMc_mc_same]
  case mmu =>
    simp only [State.mxcEnterStopped, State.abandonMc, State.dropWaiters, State.updMc, State.setMc, State.setSync, State.putF, State.setReg]

theorem mxcStopped_stops (mc : Fin 1920) (asked : s.getB (mxcStopF mc.val) = true) (works : s.getF (mxcSt mc.val) < 3)
    (settled : (s.mc mc.val).passes = []) : exec (.mxcStopped mc) s = .next (s.mxcEnterStopped mc.val) := by
  change execMxcStopped mc s = _
  simp only [execMxcStopped, when, asked, works, State.mxcSettled, settled, decide_true, List.isEmpty_nil, Bool.and_self, if_true]

/-- A stop taken back: the request is cleared, and a core that had stopped runs on or is idle. -/
theorem State.mxcRelease_effect {t : State} (ht : t = s.mxcRelease n) : t = { s with regs := t.regs } ∧
    OtherRegs [mxcBase n, mxcBase n + 8] s t ∧ t.reg (mxcBase n) = setFld (s.reg (mxcBase n)) 1 1 0 ∧
    t.getF (mxcSt n) = (if s.getF (mxcSt n) = 3 then (if (s.mc n).launched ∧ (s.mc n).ended = false then 1 else 0)
      else s.getF (mxcSt n)) := by
  have state : (s.putF (mxcStopF n) 0).getF (mxcSt n) = s.getF (mxcSt n) :=
    State.putF_getF_ne s (mxcStopF n) (mxcSt n) 0 (.inl (by simp [mxcSt, mxcStopF]))
  have asked : ∀ k, (s.putF (mxcStopF n) 0).reg k = if k = mxcBase n then setFld (s.reg (mxcBase n)) 1 1 0 else s.reg k :=
    State.putF_reg s (mxcStopF n) 0
  subst ht
  unfold State.mxcRelease
  dsimp only
  rw [state]
  split
  case isTrue stopped =>
    refine ⟨rfl, fun k hk => ?_, ?_, ?_⟩
    · simp only [List.mem_cons, List.not_mem_nil, or_false, not_or] at hk
      rw [State.putF_reg, if_neg (by exact hk.2), asked, if_neg hk.1]
    · rw [State.putF_reg, if_neg (by simp [mxcSt]), asked, if_pos rfl]
    · refine (State.putF_getF_same _ (mxcSt n) _ (by simp [mxcSt])).trans ?_
      simp only [Bool.and_eq_true, Bool.not_eq_true', mxcSt]
      split <;> simp_all [State.putF]
  case isFalse going =>
    refine ⟨rfl, fun k hk => ?_, ?_, state⟩
    · simp only [List.mem_cons, List.not_mem_nil, or_false, not_or] at hk
      rw [asked, if_neg hk.1]
    · rw [asked, if_pos rfl]

/-! ### Resume -/

/-- A core in FAULT runs on with MXC_FAULT cleared. -/
theorem State.mxcResume_effect {t : State} (ht : t = (s.setReg (mxcBase n + 0x18) 0).putF (mxcSt n) 1) : t = { s with regs := t.regs } ∧
    OtherRegs [mxcBase n + 8, mxcBase n + 0x18] s t ∧ t.reg (mxcBase n + 0x18) = 0 ∧
    t.reg (mxcBase n + 8) = setFld (s.reg (mxcBase n + 8)) 0 3 1 := by
  subst ht
  refine ⟨rfl, fun k hk => ?_, ?_, ?_⟩
  · simp only [List.mem_cons, List.not_mem_nil, or_false, not_or] at hk
    rw [State.putF_reg, if_neg (by exact hk.1), State.setReg_reg_ne _ _ _ _ hk.2]
  · rw [State.putF_reg, if_neg (by simp [mxcSt]), State.setReg_reg_same]
  · simp only [State.putF_reg, mxcSt, if_true]
    rw [State.setReg_reg_ne _ _ _ _ (by omega)]

/-! ### Overflow counters -/

/-- The state with overflow counter k of core n at its reset values. -/
def State.resetQnt (k : Nat) : State :=
  ((s.resetReg (mxqBase n + 0x20 * k)).resetReg (mxqBase n + 0x20 * k + 8)).resetReg (mxqBase n + 0x20 * k + 0x10)

theorem State.resetQnt_reg (k j : Nat) : (s.resetQnt n k).reg j = if j ∈ qntKeys n k then regReset j else s.reg j := by
  simp only [State.resetQnt, State.resetReg_reg, List.mem_cons, List.not_mem_nil, or_false]
  grind

/-- Overflow counters reset one by one. -/
theorem State.forEach_resetQnt_reg (l : List Nat) (j : Nat) : (forEach l s (fun s k => s.resetQnt n k)).reg j =
    if j ∈ l.flatMap (qntKeys n) then regReset j else s.reg j := by
  simp only [forEach]
  induction l generalizing s with
  | nil => rfl
  | cons k r ih =>
    rw [List.foldl_cons, ih, State.resetQnt_reg, List.flatMap_cons]
    by_cases tail : j ∈ r.flatMap (qntKeys n)
    · rw [if_pos tail, if_pos (List.mem_append_right _ tail)]
    · rw [if_neg tail]
      simp only [List.mem_append, tail, or_false]

theorem State.clearQnt_reg (mask j : Nat) : (s.clearQnt n mask).reg j =
    if j ∈ ((upTo 8).filter (bit mask)).flatMap (qntKeys n) then regReset j else s.reg j := State.forEach_resetQnt_reg s n _ j

/-- A register of an overflow counter that the mask selects is reset. -/
theorem State.clearQnt_selected {mask k j : Nat} (hk : k < 8) (set : bit mask k = true) (own : j ∈ qntKeys n k) :
    (s.clearQnt n mask).reg j = regReset j := by
  rw [State.clearQnt_reg, if_pos]
  exact List.mem_flatMap.mpr ⟨k, List.mem_filter.mpr ⟨List.mem_range.mpr hk, set⟩, own⟩

/-- A register of no overflow counter that the mask selects is as it was. -/
theorem State.clearQnt_other {mask j : Nat} (other : ∀ k, k < 8 → bit mask k = true → j ∉ qntKeys n k) :
    (s.clearQnt n mask).reg j = s.reg j := by
  rw [State.clearQnt_reg, if_neg]
  intro mem
  obtain ⟨k, sel, own⟩ := List.mem_flatMap.mp mem
  obtain ⟨low, set⟩ := List.mem_filter.mp sel
  exact other k (List.mem_range.mp low) set own

theorem State.clearQnt_shape (mask : Nat) : s.clearQnt n mask = { s with regs := (s.clearQnt n mask).regs } := by
  unfold State.clearQnt forEach
  exact List.foldlRecOn (motive := fun (t : State) => t = { s with regs := t.regs }) _ _ rfl (fun t ht _ _ => by rw [ht]; rfl)

/-- The registers of an overflow counter lie in the MXQ block of its core (R662). -/
theorem blockOf_mxq {n o : Nat} (hn : n < 1920) (ho : o < 0x100) : blockOf (mxqBase n + o) = (.mxq n, o) := by
  have cell : (mxqBase n + o - 0x100_0000) / 0x1000 = n / 4 := by simp only [mxqBase, cellBase]; omega
  have offset : (mxqBase n + o) % 0x1000 = 0x400 + 0x200 * (n % 4) + o := by simp only [mxqBase, cellBase]; omega
  have low : ¬ mxqBase n + o ≥ 0x1000_0000 := by simp only [mxqBase, cellBase]; omega
  have low' : ¬ mxqBase n + o ≥ 0x2000_0000 := by omega
  have high : mxqBase n + o ≥ 0x100_0000 := by simp only [mxqBase, cellBase]; omega
  have high' : ¬ mxqBase n + o < 0x1_0000 := by omega
  have known : ¬ n / 4 ≥ 480 := by omega
  have above : ¬ 0x400 + 0x200 * (n % 4) + o < 0x400 := by omega
  have below : 0x400 + 0x200 * (n % 4) + o < 0xC00 := by omega
  rw [blockOf, if_neg low', if_neg low, if_neg high', if_pos high]
  simp only [cell, offset, if_neg known, if_neg above, if_pos below, Prod.mk.injEq, Block.mxq.injEq]
  omega

theorem regFields_mxq {n k o : Nat} (hn : n < 1920) (hk : k < 8) (ho : o < 0x20) (aligned : o % 8 = 0) :
    regFields (mxqBase n + 0x20 * k + o) = mxqFields o := by
  have even : ¬ (mxqBase n + 0x20 * k + o) % 8 ≠ 0 := by simp only [mxqBase, cellBase]; omega
  have place : (0x20 * k + o) % 0x20 = o % 0x20 := by omega
  rw [regFields, if_neg even, Nat.add_assoc, blockOf_mxq hn (by omega)]
  simp only [mxqFields, if_pos (show 0x20 * k + o < 0x100 by omega), if_pos (show o < 0x100 by omega), place]

theorem regReset_mxq {n k o : Nat} (hn : n < 1920) (hk : k < 8) (ho : o < 0x20) (aligned : o % 8 = 0) :
    regReset (mxqBase n + 0x20 * k + o) = (mxqFields o).foldl (fun v f => setFld v f.lo f.len f.rst) 0 := by
  rw [regReset, regFields_mxq hn hk ho aligned]

end Sys2Proof.Machine

open Sys2Proof Sys2Proof.Machine

/-- Settles O10: a sync instruction that is done leaves a `SetsCounter` or a signal sent and goes on (`SyncOnly.goes`), and each control
command has its effect as one lemma. -/
theorem matrixSyncStopAndResume : Obligations.MatrixSyncStopAndResume := by
  unfold Obligations.MatrixSyncStopAndResume
  refine ⟨fun mc f s run => ⟨fun clean quiet => ⟨fun drained low high => ?add, fun enough => ?subtract, fun few => ?wait⟩,
    fun clean drained target ht => ⟨fun outside other => ?outside, fun inside quiet => ?signal⟩⟩,
    fun mc mask s => ⟨?stop, fun asked works settled => ?stopped, ?release, fun fault => ?resume, fun going => ?ignored, ?clear⟩⟩
  case add =>
    obtain ⟨u, done, sets⟩ := sadd_adds run clean quiet drained low high
    obtain ⟨shape, regs, cores, next, core, others, val⟩ := sets.goes rfl
    refine ⟨_, done, shape, regs, cores, next, core, others, fun i => ?_⟩
    rw [val]
    split
    · next same => rw [same, Int.toNat_of_nonneg low]
    · rfl
  case subtract =>
    obtain ⟨u, done, sets⟩ := swait_subtracts run clean quiet enough
    obtain ⟨shape, regs, cores, next, core, others, val⟩ := sets.goes rfl
    refine ⟨_, done, shape, regs, cores, next, core, others, fun i => ?_⟩
    rw [val]
    split
    · next same => rw [same]
    · rfl
  case wait =>
    refine ⟨_, swait_waits run clean quiet few, rfl, fun k hk => ?_, State.putF_getF_same _ (mxcSt mc.val) 2 (by simp [mxcSt]),
      State.setSync_val _ _ rfl⟩
    exact (State.putF_reg _ (mxcSt mc.val) 2 k).trans (if_neg (fun h => hk (by rw [h]; exact List.mem_singleton.mpr rfl)))
  case outside =>
    subst ht
    exact ⟨_, ssig_outside run clean drained outside other, faultedAtIssue mc.val mc.isLt 0x51 0 0 s (by decide) (by decide) (by decide)⟩
  case signal =>
    subst ht
    obtain ⟨only, sync⟩ := State.sendSignal_effect (s := s) (s.ssigSignal mc.val f)
    obtain ⟨shape, regs, next, -, -⟩ := only.goes mc.val rfl
    refine ⟨_, ssig_sends run clean drained inside quiet, shape, regs, next, ?_, fun j i => ?_⟩
    · exact congrArg SyncState.signals sync
    · rw [State.syncOn_val, State.syncOf, sync, State.syncOf]
  case stop => exact ⟨_, rfl, rfl, State.mxcStop_reg s mc.val⟩
  case stopped => exact ⟨_, mxcStopped_stops s mc asked works settled, State.mxcEnterStopped_effect s mc.val rfl⟩
  case release => exact ⟨_, rfl, State.mxcRelease_effect s mc.val rfl⟩
  case resume =>
    refine ⟨_, ?_, State.mxcResume_effect s mc.val rfl⟩
    change Host.Outcome.next (s.mxcResume mc.val) = _
    rw [State.mxcResume, if_pos fault]
  case ignored =>
    change Host.Outcome.next (s.mxcResume mc.val) = _
    rw [State.mxcResume, if_neg going]
  case clear =>
    refine ⟨_, rfl, State.clearQnt_shape s mc.val mask.toNat, fun k other => ?_, fun k hk => ⟨fun set => ?_, fun unset j hj => ?_⟩⟩
    · refine State.clearQnt_other s mc.val fun i hi _ own => ?_
      simp only [List.mem_cons, List.not_mem_nil, or_false] at own
      obtain own | own | own := own
      · exact other i 0 hi (by decide) own
      · exact other i 1 hi (by decide) own
      · exact other i 2 hi (by decide) own
    · have reset := fun o (own : mxqBase mc.val + 0x20 * k + o ∈ qntKeys mc.val k) => State.clearQnt_selected s mc.val hk set own
      have image := fun o => regReset_mxq (o := o) mc.isLt hk
      have hint := (reset 0x10 (by simp)).trans (image 0x10 (by decide) (by decide))
      refine ⟨(reset 0 (by simp)).trans (image 0 (by decide) (by decide)), (reset 8 (by simp)).trans (image 8 (by decide) (by decide)),
        ?_, ?_, ?_⟩
      all_goals
        rw [State.getF, hint]
        dsimp only
        decide
    · refine State.clearQnt_other s mc.val fun i _ set own => ?_
      have apart : i ≠ k := fun same => by rw [same] at set; exact absurd (set.symm.trans unset) (by decide)
      simp only [List.mem_cons, List.not_mem_nil, or_false] at own
      omega
end

section
/-! Loop descriptors: the issue of LDS, the group a tile takes, and drains (R200, R208, R210, R213-R215). -/

namespace Sys2Proof.Machine

/-! ### Issue (R200, R213, R214) -/

/-- The loop descriptor that LDS starts: its bytes as operand scratch holds them at issue. -/
def State.ldsAtIssue (s : State) (n : Nat) (f : BitVec 56) : LdsState :=
  ldsStart (s.reg (mxcBase n + 0x10) &&& maskW 0 48) (ofLE ((s.mc n).scrRead (128 * fb f 55 44) 128)) (s.mc n).maskLoads (s.mc n).mask

/-- The checks of a loop descriptor, LDS_DESCRIPTOR before ACC_OVERCOMMIT. -/
def LdsState.check (l : LdsState) (strict : Bool) : Chk :=
  firstBad [(!l.valid, fltLds, 0), (strict && decide (l.live > l.cnt), fltOvercommit, 0)]

theorem LdsState.check_none {l : LdsState} {strict : Bool} (valid : l.valid = true) (fits : strict = false ∨ l.live ≤ l.cnt) :
    l.check strict = none := by
  have fits' : (strict && decide (l.live > l.cnt)) = false := by
    rcases fits with lenient | fits
    · rw [lenient, Bool.false_and]
    · rw [decide_eq_false (by omega), Bool.and_false]
  simp [check, firstBad, valid, fits']

theorem LdsState.check_invalid {l : LdsState} {strict : Bool} (invalid : l.valid = false) : l.check strict = some (0x41, 0) := by
  simp [check, firstBad, invalid, fltLds]

theorem LdsState.check_overcommitted {l : LdsState} {strict : Bool} (valid : l.valid = true) (on : strict = true)
    (exceeds : l.cnt < l.live) : l.check strict = some (0x40, 0) := by
  simp [check, firstBad, valid, on, exceeds, fltOvercommit]

/-- What an LDS issues. -/
theorem exec_lds (mc : Fin 1920) (f : BitVec 56) (s : State) : exec (.lds mc f) s =
    s.issueTo mc.val 1 (rsvd f [(55, 44)])
      ((s.mc mc.val).arrayQuiet && (s.mc mc.val).accFree (s.ldsAtIssue mc.val f).base (s.ldsAtIssue mc.val f).cnt)
      ((s.ldsAtIssue mc.val f).check (s.getB (mxcStrict mc.val)))
      (fun u => u.updMc mc.val (fun m => { m with lds := some (s.ldsAtIssue mc.val f) })) (s.pcAt mc.val + 8) := rfl

/-! ### The LDS of a core -/

/-- A change of the LDS alone. -/
theorem OnlyMatrix.updLds (n : Nat) (s : State) (g : LdsState → LdsState) : OnlyMatrix n [] s (s.updLds n g) :=
  OnlyMatrix.updMc n [] s _

variable {s : State} {n : Nat}

/-! ### Completion (R208) -/

/-- An LDS that is not complete goes on; a complete one leaves its core, in STORE mode with its claimed tiles zero-marked. -/
theorem State.ldsFinish_cases (s : State) (n : Nat) : s.ldsFinish n = s ∨
    ∃ l : LdsState, s.ldsFinish n = s.updMc n (fun m => { (if l.keepC then m else m.clearAccs l.base l.cnt l.int) with lds := none }) := by
  unfold State.ldsFinish
  dsimp only
  split
  · exact .inl rfl
  · next l _ =>
    split
    · exact .inr ⟨l, rfl⟩
    · exact .inl rfl

/-- An LDS with a super-block open is not complete. -/
theorem State.ldsFinish_of_active {l : LdsState} (runs : (s.mc n).lds = some l) (active : l.active = true) : s.ldsFinish n = s := by
  simp [State.ldsFinish, runs, active]

theorem OnlyMatrix.ldsFinish (s : State) (n : Nat) : OnlyMatrix n [] s (s.ldsFinish n) := by
  obtain h | ⟨l, h⟩ := s.ldsFinish_cases n
  · rw [h]; exact OnlyMatrix.refl n _ s
  · rw [h]; exact OnlyMatrix.updMc n _ s _

/-- Completion leaves the LDS as it was, or none. -/
theorem State.ldsFinish_lds {m : LdsState} (runs : ((s.ldsFinish n).mc n).lds = some m) : (s.mc n).lds = some m := by
  obtain h | ⟨l, h⟩ := s.ldsFinish_cases n
  · rwa [h] at runs
  · rw [h, State.updMc_mc_same] at runs
    cases runs

/-- Completion takes no zero mark away. -/
theorem State.ldsFinish_zeroRow {a i : Nat} (hi : i < 32) (marked : (s.mc n).zeroRow a i = true) :
    ((s.ldsFinish n).mc n).zeroRow a i = true := by
  obtain h | ⟨l, h⟩ := s.ldsFinish_cases n
  · rwa [h]
  · rw [h, State.updMc_mc_same]
    change (if l.keepC then s.mc n else (s.mc n).clearAccs l.base l.cnt l.int).zeroRow a i = true
    split
    · exact marked
    · rw [McState.clearAccs_zeroRow _ _ _ _ _ _ hi, marked, ite_self]

/-! ### The group an output tile takes (R215) -/

/-- Tiles cleared are tagged, and each of their elements is +0 (R134). -/
theorem McState.clearAccs_cleared (m : McState) {t k a : Nat} (int : Bool) (first : t ≤ a) (last : a < t + k) :
    (m.clearAccs t k int).intTag a = int ∧ ∀ i j, i < 32 → (m.clearAccs t k int).accAt a i j = 0 := by
  have tag := m.clearAccs_intTag t k int a
  have zero := fun i hi => m.clearAccs_zeroRow t k int a i hi
  simp only [first, last, true_and, if_true] at tag zero
  exact ⟨tag, fun i j hi => accAt_of_zeroRow _ (zero i hi) j⟩

/-- An LDS that has taken slot k for an output tile, as the group used last. -/
def LdsState.takeGroup (l : LdsState) (k mi ni : Nat) : LdsState :=
  { l with groups := l.groups ++ [⟨k, mi, ni, false, l.clock⟩], clock := l.clock + 1 }

/-- A core whose LDS has taken slot k for an output tile that starts from +0. -/
def McState.takeGroup (m : McState) (l : LdsState) (k mi ni : Nat) : McState :=
  { ({ m with guard := false } : McState).clearAccs (l.tileOf k) l.u l.int with lds := some (l.takeGroup k mi ni) }

theorem McState.takeGroup_shape (m : McState) (l : LdsState) (k mi ni : Nat) : m.takeGroup l k mi ni =
    { m with zero := (m.takeGroup l k mi ni).zero, tag := (m.takeGroup l k mi ni).tag, guard := false,
             lds := some (l.takeGroup k mi ni) } := by
  unfold McState.takeGroup
  rw [McState.clearAccs_shape]

/-- An output tile at its first pass, without stored values of C, is loaded as tiles cleared and enters as a group. -/
theorem State.ldsLoad_first (s : State) (n : Nat) {l : LdsState} {mi ni : Nat} (k : Nat) (first : l.spilled.contains (mi, ni) = false)
    (plain : l.cInit = false) : s.ldsLoad n l k mi ni = (s.updMc n (fun m => m.clearAccs (l.tileOf k) l.u l.int)).updLds n
      (fun o => { o with spilled := l.spilled }.takeGroup k mi ni) := by
  rw [State.ldsLoad, first, plain]
  rfl

/-- LDS_SPILL with a free slot: the output tile, at its first pass and without stored values of C, takes it. -/
theorem ldsSpill_takes {mc : Fin 1920} {l : LdsState} {mi ni k : Nat} (goes : s.arrayGoes mc.val = true)
    (runs : (s.mc mc.val).lds = some l) (going : l.held = none) (active : l.active = true) (needs : l.needs = some (mi, ni))
    (slot : l.slotFor (s.mc mc.val).passes mi ni = .free k) (first : l.spilled.contains (mi, ni) = false) (plain : l.cInit = false) :
    ∃ t, exec (.ldsSpill mc) s = .next t ∧ OnlyMatrix mc.val [] s t ∧ t.mc mc.val = (s.mc mc.val).takeGroup l k mi ni := by
  have ready : s.ldsReady mc.val = s := by simp [State.ldsReady, runs, active]
  have lifted : (s.liftGuard mc.val).mc mc.val = { s.mc mc.val with guard := false } := State.updMc_mc_same _ _ _
  have run : exec (.ldsSpill mc) s = .next ((s.liftGuard mc.val).ldsLoad mc.val l k mi ni) := by
    change execLdsSpill mc s = _
    simp only [execLdsSpill, when, goes, ready, runs, going, needs, lifted, slot, if_true]
    rfl
  rw [run, State.ldsLoad_first _ _ k first plain]
  refine ⟨_, rfl, ((OnlyMatrix.updMc _ _ _ _).trans (OnlyMatrix.updMc _ _ _ _)).trans (OnlyMatrix.updLds _ _ _), ?_⟩
  rw [State.updLds, State.updMc_mc_same, State.updMc_mc_same, lifted, McState.takeGroup, McState.clearAccs_shape, runs]
  rfl

/-! ### Drains (R210) -/

/-- A core has worked and accessed memory: nothing but cores, registers, the memory system, free values and what leaves at the boundary
differs. -/
def CoreAccess (s t : State) : Prop :=
  t = { s with freeCtr := t.freeCtr, out := t.out, regs := t.regs, mcs := t.mcs, rvs := t.rvs, rooms := t.rooms, hbm := t.hbm, mmu := t.mmu }

theorem CoreAccess.refl (s : State) : CoreAccess s s := rfl

theorem CoreAccess.trans {s t u : State} (h : CoreAccess s t) (g : CoreAccess t u) : CoreAccess s u := by
  unfold CoreAccess at *
  rw [g, h]

theorem VaStep.coreAccess {s t : State} (h : VaStep s t) : CoreAccess s t := by
  rw [CoreAccess, h.1]

theorem OnlyMatrix.coreAccess {n : Nat} {keys : List Nat} {s t : State} (h : OnlyMatrix n keys s t) : CoreAccess s t := by
  rw [CoreAccess, h.1]

theorem vaStep_vWriteKept (u : UnitId) (ctx part va : Nat) (bs : List Byte) (runs : List (Nat × Nat)) (who : Nat) (w : Option Waiter) :
    ∀ s : State, VaStep s (s.vWriteKept u ctx part va bs runs who w).st := by
  induction runs with
  | nil => exact fun s => .refl s
  | cons r rest ih =>
    intro s
    have one := vaStep_vWrite s u ctx part (va + r.1) ((bs.drop r.1).take r.2) who w
    unfold State.vWriteKept
    dsimp only
    split
    · exact one
    · exact one.trans (ih _)

theorem coreAccess_freeDrain (s : State) (n : Nat) (l : LdsState) : CoreAccess s (s.freeDrain n l) := by
  have taken := (vaStep_freeBytes 8192 s).coreAccess
  unfold State.freeDrain
  generalize s.freeBytes 8192 = z at taken ⊢
  exact taken.trans (OnlyMatrix.updMc n [] _ _).coreAccess

theorem coreAccess_drainRows (n : Nat) (l : LdsState) (g : LdsGroup) (rows : List ((Nat × Nat) × Nat)) :
    ∀ s : State, CoreAccess s (s.drainRows n l g rows).1 := by
  induction rows with
  | nil => exact fun s => .refl s
  | cons r rest ih =>
    intro s
    have written := (vaStep_vWriteKept (mcUnit n) (s.mc n).ctx (s.mcPart n) r.1.1 (s.drainRow n l g r.2).1
      (keptRuns r.1.1 (s.drainRow n l g r.2).2.2 0) noCore (some (.ldsOp n)) s).coreAccess
    unfold State.drainRows
    dsimp only
    split
    · exact written.trans (OnlyMatrix.updLds n _ _).coreAccess
    · exact (written.trans (OnlyMatrix.setAFlags n _ _).coreAccess).trans (ih _)

/-- A core whose LDS has given a group up. -/
def State.dropGroup (s : State) (n : Nat) (g : LdsGroup) : State :=
  s.updLds n (fun l => { l with groups := l.groups.filter (fun h => h != g) })

/-- A group given up is in no LDS of the core. -/
theorem State.dropGroup_notMem {g : LdsGroup} {m : LdsState} (runs : ((s.dropGroup n g).mc n).lds = some m) : g ∉ m.groups := by
  rw [State.dropGroup, State.updLds, State.updMc_mc_same] at runs
  obtain ⟨l, -, rfl⟩ := Option.map_eq_some_iff.mp runs
  simp

/-- The state in which the rows of a tile have been written to C, and whether all of them have. -/
def State.drainTile (s : State) (n : Nat) (l : LdsState) (g : LdsGroup) : State × Bool :=
  ((s.liftGuard n).freeDrain n l).drainRows n l g (l.cRows g.mi g.ni).zipIdx

/-- A drain that is done: the tiles are zero-marked and the group is given up. -/
def State.drainDone (s : State) (n : Nat) (l : LdsState) (g : LdsGroup) : State :=
  ((s.updMc n (fun m => m.clearAccs (l.tileOf g.slot) l.u l.int)).dropGroup n g).ldsFinish n

section
variable {mc : Fin 1920} {l : LdsState} {g : LdsGroup} (goes : s.arrayGoes mc.val = true) (runs : (s.mc mc.val).lds = some l)
  (going : l.held = none) (oldest : l.groups.find? (·.draining) = some g)
include goes runs going oldest

/-- LDS_DRAIN in KEEP mode gives the group up; its tiles stay. -/
theorem ldsDrain_keeps (keep : l.keepC = true) : exec (.ldsDrain mc) s = .next ((s.dropGroup mc.val g).ldsFinish mc.val) := by
  change execLdsDrain mc s = _
  simp only [execLdsDrain, when, goes, runs, going, oldest, keep, if_true]
  rfl

/-- LDS_DRAIN in STORE mode, without a mask: the tile is written to C, and the drain is done with its last row. -/
theorem ldsDrain_stores (store : l.keepC = false) (unmasked : l.gmask = false) (all : (s.drainTile mc.val l g).2 = true) :
    exec (.ldsDrain mc) s = .next ((s.drainTile mc.val l g).1.drainDone mc.val l g) := by
  have all' : (((s.liftGuard mc.val).freeDrain mc.val l).drainRows mc.val l g (l.cRows g.mi g.ni).zipIdx).2 = true := all
  change execLdsDrain mc s = _
  simp only [execLdsDrain, when, goes, runs, going, oldest, store, unmasked, all', if_true]
  rfl

end

theorem coreAccess_drainTile (s : State) (n : Nat) (l : LdsState) (g : LdsGroup) : CoreAccess s (s.drainTile n l g).1 :=
  ((OnlyMatrix.updMc n [] s _).coreAccess.trans (coreAccess_freeDrain _ n l)).trans (coreAccess_drainRows n l g _ _)

/-- A drain that is done changes the core alone. -/
theorem OnlyMatrix.drainDone (s : State) (n : Nat) (l : LdsState) (g : LdsGroup) : OnlyMatrix n [] s (s.drainDone n l g) :=
  ((OnlyMatrix.updMc n [] s _).trans (OnlyMatrix.updLds n _ _)).trans (OnlyMatrix.ldsFinish _ n)

/-- The tiles of a drain that is done are +0 (R134). -/
theorem State.drainDone_accAt (s : State) (n : Nat) (l : LdsState) (g : LdsGroup) {a i : Nat} (first : l.tileOf g.slot ≤ a)
    (last : a < l.tileOf g.slot + l.u) (hi : i < 32) (j : Nat) : ((s.drainDone n l g).mc n).accAt a i j = 0 := by
  refine McState.accAt_of_zeroRow _ (State.ldsFinish_zeroRow hi ?_) j
  rw [State.dropGroup, State.updLds, State.updMc_mc_same, State.updMc_mc_same]
  refine (McState.clearAccs_zeroRow _ _ _ _ _ _ hi).trans ?_
  rw [if_pos ⟨first, last⟩]

end Sys2Proof.Machine

open Sys2Proof Sys2Proof.Machine

/-- Settles O7: LDS is an issue whose effect is the descriptor's copy and whose refusals are `LdsState.check`, a free slot is taken as
`McState.takeGroup`, and a drain ends in `State.drainDone`. -/
theorem loopDescriptorsComplete : Obligations.LoopDescriptorsComplete := by
  unfold Obligations.LoopDescriptorsComplete
  refine ⟨fun mc f s l run clean copy quiet free => ?issue, fun mc s l goes runs going =>
    ⟨fun mi ni k active needs slot first plain => ?take, fun g oldest keep active => ?keep, fun g oldest store unmasked all => ?store⟩⟩
  case issue =>
    obtain rfl : l = s.ldsAtIssue mc.val f := copy
    have ready : ((s.mc mc.val).arrayQuiet && (s.mc mc.val).accFree (s.ldsAtIssue mc.val f).base (s.ldsAtIssue mc.val f).cnt) = true := by
      rw [quiet, free]; rfl
    rw [exec_lds]
    exact ⟨fun valid fits => State.issueTo_issued _ run clean ready (LdsState.check_none valid fits) rfl,
      fun invalid => State.issueTo_refused run clean ready (LdsState.check_invalid invalid) (by decide) (by decide) (by decide),
      fun valid strict exceeds => State.issueTo_refused run clean ready (LdsState.check_overcommitted valid strict exceeds)
        (by decide) (by decide) (by decide)⟩
  case take =>
    obtain ⟨t, ht, only, core⟩ := ldsSpill_takes goes runs going active needs slot first plain
    refine ⟨t, ht, only, ?_, fun a low high => ?_⟩
    · rw [core]
      exact McState.takeGroup_shape _ _ _ _ _
    · rw [core]
      exact McState.clearAccs_cleared _ l.int low high
  case keep =>
    have lds : ((s.dropGroup mc.val g).mc mc.val) =
        { s.mc mc.val with lds := some { l with groups := l.groups.filter (fun h => h != g) } } := by
      rw [State.dropGroup, State.updLds, State.updMc_mc_same, runs]
      rfl
    refine ⟨s.dropGroup mc.val g, ?_, OnlyMatrix.updLds mc.val s _, lds⟩
    rw [ldsDrain_keeps goes runs going oldest keep, State.ldsFinish_of_active (congrArg McState.lds lds) active]
  case store =>
    refine ⟨_, ldsDrain_stores goes runs going oldest store unmasked all, ?_, fun a low high i j hi => ?_, fun m hm => ?_⟩
    · exact (coreAccess_drainTile s mc.val l g).trans (OnlyMatrix.drainDone _ mc.val l g).coreAccess
    · exact State.drainDone_accAt _ mc.val l g low high hi j
    · exact State.dropGroup_notMem (State.ldsFinish_lds hm)
end

section
/-! What a cell DMA engine can reach, shared operation by shared operation: memory, scratches, work counters and completion. -/

namespace Sys2Proof.Machine

/-- The engine of cell c has worked: nothing out of its reach differs, its key states stand, and so does every other engine. -/
structure EngineStep (c : Nat) (s t : State) : Prop where
  frame : OnlyDma s t
  keys : (t.dmaOf c).keys = (s.dmaOf c).keys
  others : ∀ b, b ≠ c → t.dmaOf b = s.dmaOf b

theorem OnlyDma.trans {s t u : State} (h : OnlyDma s t) (g : OnlyDma t u) : OnlyDma s u := by
  unfold OnlyDma at *
  rw [g, h]

namespace EngineStep

variable {c : Nat} {s t u : State}

theorem refl : EngineStep c s s := ⟨rfl, rfl, fun _ _ => rfl⟩

theorem trans (h : EngineStep c s t) (g : EngineStep c t u) : EngineStep c s u :=
  ⟨h.frame.trans g.frame, g.keys.trans h.keys, fun b hb => (g.others b hb).trans (h.others b hb)⟩

/-- An operation that leaves every engine as it is. -/
theorem of_dma (frame : OnlyDma s t) (dma : t.dma = s.dma) : EngineStep c s t := by
  have same : ∀ b, t.dmaOf b = s.dmaOf b := fun b => by rw [State.dmaOf, dma, State.dmaOf]
  exact ⟨frame, by rw [same], fun b _ => same b⟩

theorem ite {p : Prop} [Decidable p] (h : EngineStep c s t) (g : EngineStep c s u) : EngineStep c s (if p then t else u) := by
  split
  · exact h
  · exact g

end EngineStep

theorem VaStep.engineStep {c : Nat} {s t : State} (h : VaStep s t) : EngineStep c s t :=
  .of_dma (by rw [OnlyDma, h.1]) (by rw [h.1])

theorem MemStep.engineStep {c : Nat} {s t : State} (h : MemStep s t) : EngineStep c s t := h.va.engineStep

variable (c : Nat) (s : State)

/-! ### Queues and key states -/

theorem engineStep_setDma (x : DmaState) (h : x.keys = (s.dmaOf c).keys) : EngineStep c s (s.setDma c x) :=
  ⟨rfl, by rw [State.setDma_dmaOf_same, h], fun b hb => State.setDma_dmaOf_ne _ _ _ _ hb⟩

theorem engineStep_setDmaQ (q : Nat) (l : List DescState) : EngineStep c s (s.setDmaQ c q l) := engineStep_setDma c s _ rfl

theorem engineStep_updDesc (q i : Nat) (f : DescState → DescState) : EngineStep c s (s.updDesc c q i f) := engineStep_setDmaQ c s q _

theorem onlyDma_setKey (q : Nat) (k : KeyState) : OnlyDma s (s.setKey c q k) := (rfl)

theorem State.setKey_dmaKey_same (q : Nat) (k : KeyState) : (s.setKey c q k).dmaKey c q = k := by
  rw [State.dmaKey, State.setKey, State.setDma_dmaOf_same, mget_mset_same]

theorem State.setKey_dmaKey_ne (q j : Nat) (k : KeyState) (h : j ≠ q) : (s.setKey c q k).dmaKey c j = s.dmaKey c j := by
  rw [State.dmaKey, State.setKey, State.setDma_dmaOf_same, mget_mset_ne _ _ _ _ _ h, State.dmaKey]

theorem State.setKey_dmaOf_ne (q b : Nat) (k : KeyState) (h : b ≠ c) : (s.setKey c q k).dmaOf b = s.dmaOf b :=
  State.setDma_dmaOf_ne _ _ _ _ h

/-! ### Cores, flags and signals -/

theorem engineStep_updMc (n : Nat) (f : McState → McState) : EngineStep c s (s.updMc n f) := .of_dma rfl rfl

theorem engineStep_updRv (n : Nat) (f : RvState → RvState) : EngineStep c s (s.updRv n f) := .of_dma rfl rfl

theorem engineStep_scratchPut (cell sp mc b : Nat) (bs : List (Byte × Bool)) : EngineStep c s (s.scratchPut cell sp mc b bs) :=
  .ite ((engineStep_updMc c s _ _).trans (engineStep_updMc c _ _ _)) (engineStep_updRv c s _ _)

theorem engineStep_putF (f : RF) (x : Nat) : EngineStep c s (s.putF f x) := .of_dma rfl rfl

theorem engineStep_addF (f : RF) (x : Nat) : EngineStep c s (s.addF f x) := engineStep_putF c s f _

theorem engineStep_raiseAt (h : FlagHome) : EngineStep c s (s.raiseAt h) := .of_dma rfl rfl

theorem engineStep_sentLost (cell : Nat) : EngineStep c s (s.sentLost cell) :=
  ((engineStep_addF c s _ _).trans (engineStep_putF c _ _ _)).trans (engineStep_raiseAt c _ _)

theorem engineStep_sendSignal (g : Signal) : EngineStep c s (s.sendSignal g) :=
  .ite (.of_dma rfl rfl) (.of_dma rfl rfl)

/-! ### Work counters (R218-R222) -/

theorem engineStep_physRead (part pa n : Nat) : EngineStep c s (s.physRead part pa n).st := (memStep_physRead s part pa n).engineStep

theorem engineStep_physWrite (part who pa : Nat) (bs : List Byte) : EngineStep c s (s.physWrite part who pa bs) :=
  (memStep_physWrite s part who pa bs).engineStep

theorem engineStep_ledgerOffer (part pa : Nat) (who : CoreName) (t : Nat) : EngineStep c s (s.ledgerOffer part pa who t).1 := by
  simp only [State.ledgerOffer, State.raiseD, apply_ite Prod.fst]
  refine .ite ?free (.ite (engineStep_physRead c s _ _ _) ?other)
  case free => exact (engineStep_physRead c s _ _ _).trans (engineStep_physWrite c _ _ _ _ _)
  case other =>
    refine EngineStep.trans ?_ (engineStep_raiseAt c _ _)
    refine EngineStep.trans ?_ (.ite .refl (engineStep_physWrite c _ _ _ _ _))
    exact (engineStep_physRead c s _ _ _).trans (engineStep_physWrite c _ _ _ _ _)

theorem engineStep_ledgerOffers (part pa : Nat) (who : CoreName) (ts : List Nat) (b : Bool) :
    EngineStep c s (forEach ts (s, b) (fun p t => let q := p.1.ledgerOffer part pa who t; (q.1, p.2 || q.2))).1 :=
  List.foldlRecOn (motive := fun y : State × Bool => EngineStep c s y.1) ts _ .refl
    (fun y hy t _ => hy.trans (engineStep_ledgerOffer c y.1 part pa who t))

theorem engineStep_wcClaim (part pa n : Nat) (who : Option CoreName) : EngineStep c s (s.wcClaim part pa n who).st := by
  have read := engineStep_physRead c s part pa 32
  have advance (bs : List Byte) := read.trans (engineStep_physWrite c _ part noCore pa bs)
  simp only [State.wcClaim, apply_ite TicketRes.st]
  refine .ite read ?_
  cases who with
  | none => dsimp only; exact advance _
  | some w => dsimp only; exact (advance _).trans (engineStep_ledgerOffers c _ part pa w _ _)

theorem engineStep_wcPresent (part pa t : Nat) (who : Option CoreName) : EngineStep c s (s.wcPresent part pa t who).st := by
  have read := engineStep_physRead c s part pa 32
  unfold State.wcPresent
  dsimp only
  split
  · exact read
  · cases who with
    | none => exact read
    | some w =>
      dsimp only
      split
      · exact read
      · split
        · exact read
        · exact read.trans (engineStep_ledgerOffer c _ part pa w t)

/-! ### Reads of a space (R337) -/

theorem vaStep_memGet (x : Mover) (fuel : Nat) : ∀ (s : State) (a n : Nat), VaStep s (s.memGet x a n fuel).st := by
  induction fuel with
  | zero => exact fun s _ _ => .refl s
  | succ k ih =>
    intro s a n
    have line := vaStep_vRead s x.u x.ctx x.part a (min n (128 - a % 128)) .read (some x.w)
    unfold State.memGet
    dsimp only
    split
    · exact .refl s
    · split
      · exact line
      · exact line.trans (ih _ _ _)

theorem vaStep_spGet (x : Mover) (sp mc : Nat) (a : Int) (n : Nat) : VaStep s (s.spGet x sp mc a n).st := by
  unfold State.spGet
  dsimp only
  split
  · exact vaStep_memGet x _ s _ _
  · exact .refl s
  · exact .refl s
  · exact .refl s

variable {c s} in
theorem engineStep_xlRun {u : UnitId} {ctx part va n : Nat} {acc : Access} {y : RunRes} (run : y = s.xlRun u ctx part va n acc) :
    EngineStep c s y.st := by
  rw [run]
  exact (vaStep_xlRun s u ctx part va n acc).engineStep

/-! ### Completion (R345-R348) -/

theorem engineStep_putStatus (q : Nat) (d : Desc) (bs : List Byte) : EngineStep c s (s.putStatus c q d bs) := by
  refine .ite .refl (.ite ?scratch (.ite ?core ?memory))
  case scratch => exact engineStep_updMc c s _ _
  case core => exact engineStep_updRv c s _ _
  case memory => exact (memStep_physWrite s _ _ _ _).engineStep

theorem engineStep_descSignal (q : Nat) (d : Desc) : EngineStep c s (s.descSignal c q d) :=
  .ite .refl (.ite (engineStep_sendSignal c s _) (engineStep_sentLost c s c))

theorem engineStep_kernels (ks : List Kernel) : EngineStep c s { s with host := { s.host with kernels := ks } } := .of_dma rfl rfl

theorem engineStep_descError (q tag code : Nat) : EngineStep c s (s.descError c q tag code) := by
  unfold State.descError
  dsimp only
  refine EngineStep.trans ?_ (engineStep_kernels c _ _)
  exact ((((engineStep_putF c s _ _).trans (engineStep_putF c _ _ _)).trans (engineStep_putF c _ _ _)).trans
    (engineStep_addF c _ _ _)).trans (engineStep_putF c _ _ _)

theorem engineStep_dmaRetire (q fuel : Nat) : ∀ s : State, EngineStep c s (s.dmaRetire c q fuel) := by
  induction fuel with
  | zero => exact fun _ => .refl
  | succ k ih =>
    intro s
    unfold State.dmaRetire
    dsimp only
    split
    · exact .refl
    · rename_i t rest _
      refine .ite .refl (.trans ?_ (ih _))
      refine EngineStep.trans ?_ (.ite (engineStep_descError c _ _ _ _) .refl)
      refine EngineStep.trans ?_ (engineStep_descSignal c _ q _)
      refine EngineStep.trans ?_ (engineStep_putStatus c _ q _ _)
      exact (engineStep_setDmaQ c s q rest).trans (engineStep_setDma c _ _ rfl)

theorem engineStep_dmaSettle (q : Nat) : EngineStep c s (s.dmaSettle c q) :=
  (engineStep_setDmaQ c s q _).trans (engineStep_dmaRetire c q _ _)

variable {c s} in
theorem RowDone.engineStep {q i code : Nat} {poison : Bool} {t : State} (h : RowDone c q i code poison s t) : EngineStep c s t := by
  rw [h]
  exact (engineStep_updDesc c s q i _).trans (engineStep_dmaSettle c _ q)

end Sys2Proof.Machine
end

section
/-! A descriptor of one row: the command moves that row, and what the row leaves is what the descriptor's operation leaves. -/

namespace Sys2Proof.Machine

/-- The status of an atomic whose home answered z (R344). -/
def TicketRes.code (z : TicketRes) : Nat := if z.dup then stDuplicate else 0

theorem TicketRes.code_ne (z : TicketRes) : z.code ≠ stScratchRange ∧ z.code ≠ stMcastTarget := by
  unfold TicketRes.code
  split <;> decide

/-- The row of an atomic whose home answered z (R344). -/
def TicketRes.row (z : TicketRes) (d : Desc) : RowRes :=
  ⟨z.st, none, z.code, z.poison, [(d.dst, (toLE 8 z.ticket).map (fun b => (b, z.poison)))]⟩

section
variable {s : State} {x : Mover} {d : Desc} {y : RunRes} {g : Seg} {rest : List Seg} (scratch : d.dstSp ≠ 0)
  (good : y.bad = none) (home : y.segs = g :: rest) (device : g.host = false)

include scratch good home device

theorem State.descAtomic_fetchAdd (who : Option CoreName) (op : d.aop = 0) (run : y = s.xlRun x.u x.ctx x.part d.src 8 .atomic) :
    s.descAtomic x d who = TicketRes.row
      ⟨(y.st.amoAt noCore x.part .add 64 g.pa d.aux).st, ofLE (y.st.physRead x.part g.pa 8).data, false,
        (y.st.amoAt noCore x.part .add 64 g.pa d.aux).poison⟩ d := by
  subst run
  simp [State.descAtomic, op, good, home, device, scratch, TicketRes.row, TicketRes.code]

theorem State.descAtomic_claim (who : Option CoreName) (op : d.aop = 1) (run : y = s.xlRun x.u x.ctx x.part d.src 32 .atomic) :
    s.descAtomic x d who = (y.st.wcClaim x.part g.pa d.aux who).row d := by
  subst run
  simp [State.descAtomic, op, good, home, device, scratch, TicketRes.row, TicketRes.code]

theorem State.descAtomic_present (who : Option CoreName) (op : d.aop = 2) (run : y = s.xlRun x.u x.ctx x.part d.src 32 .atomic) :
    s.descAtomic x d who = (y.st.wcPresent x.part g.pa d.aux who).row d := by
  subst run
  simp [State.descAtomic, op, good, home, device, scratch, TicketRes.row, TicketRes.code]

end

/-- The mask that a MASKLOAD puts in force (R231, R232): its record's, or discard-all for a poisoned or refused record. -/
def Got.mask (g : Got) : GradMask :=
  if g.bs.any (·.2) then .discardAll else (maskOfRecord (g.bs.map (·.1))).getD .discardAll

/-- The status of a MASKLOAD (R232): MASK_REFUSED for a record that is clean and no mask. -/
def Got.maskCode (g : Got) : Nat :=
  if !(g.bs.any (·.2)) && (maskOfRecord (g.bs.map (·.1))).isNone then stMaskRefused else 0

theorem State.maskLoad_read (s : State) (x : Mover) (c q : Nat) (d : Desc) {g : Got} (read : g = s.spGet x 0 0 d.src 128)
    (held : g.held = none) :
    s.maskLoad x c q d = ⟨g.st.updMc (4 * c + q) (fun m => m.maskDone g.mask), none, g.maskCode, g.bs.any (·.2), []⟩ := by
  subst read
  simp only [State.maskLoad, held, Got.mask, Got.maskCode]

/-- The key state that a KEY descriptor names (R344). -/
def Desc.keyState (d : Desc) : KeyState :=
  ⟨BitVec.ofNat 64 d.aux, BitVec.ofNat 16 (toBits d.s2 16), BitVec.ofNat 32 (toBits d.s1 32), BitVec.ofNat 32 (toBits d.d1 32)⟩

section
variable (s : State) (x : Mover) (c q i : Nat) {d : Desc}

theorem State.descRow_atomic (kind : d.kind = 3) : s.descRow x c q d i = s.descAtomic x d (queueCore c q) := by
  rw [State.descRow, kind]
  rfl

theorem State.descRow_maskLoad (kind : d.kind = 4) : s.descRow x c q d i = s.maskLoad x c q d := by
  rw [State.descRow, kind]
  rfl

theorem State.descRow_key (kind : d.kind = 5) : s.descRow x c q d i = ⟨s.setKey c q d.keyState, none, 0, false, []⟩ := by
  rw [State.descRow, kind]
  rfl

end

section
variable {g : Got}

theorem Got.mask_record {k : GradMask} (clean : g.bs.any (·.2) = false) (record : maskOfRecord (g.bs.map (·.1)) = some k) :
    g.mask = k ∧ g.maskCode = 0 := by
  simp [Got.mask, Got.maskCode, clean, record]

theorem Got.mask_refused (clean : g.bs.any (·.2) = false) (record : maskOfRecord (g.bs.map (·.1)) = none) :
    g.mask = .discardAll ∧ g.maskCode = stMaskRefused := by
  simp [Got.mask, Got.maskCode, clean, record]

theorem Got.mask_poisoned (bad : g.bs.any (·.2) = true) : g.mask = .discardAll ∧ g.maskCode = 0 := by
  simp [Got.mask, Got.maskCode, bad]

theorem Got.maskCode_ne : g.maskCode ≠ stScratchRange ∧ g.maskCode ≠ stMcastTarget := by
  unfold Got.maskCode
  split <;> decide

end

section
variable {s s1 : State} {c q i : Nat} {t : DescState} {d : Desc} {p : Desc → Bool}
  (ready : s.dmaReady c q = some (i, t)) (desc : d = descOf t.d) (fresh : t.rowsDone = 0) (single : d.mcast = false)
  (moving : s1 = s.updDesc c q i (fun x => { x with phase := .moving })) (hp : p d = true)

include ready desc fresh single moving hp

/-- A descriptor of one row that is not held, whose bytes w has taken, is carried out by its command. -/
theorem State.dmaDo_rowDone {r : RowRes} {w : State} (one : d.rows = 1) (row : s1.descRow (s.mover c q) c q d 0 = r)
    (held : r.held = none) (range : r.code ≠ stScratchRange) (set : r.code ≠ stMcastTarget)
    (puts : r.st.putOuts (s.mover c q) c q i d r.outs = (w, none)) (reach : OnlyDma s1 w) :
    OnlyDma s (s.dmaDo c q p) ∧ RowDone c q i r.code r.poison w (s.dmaDo c q p) := by
  subst desc moving
  have run : s.dmaDo c q p = s.dmaRow c q i t := by
    simp [State.dmaDo, State.dmaRows, ready, hp, one, fresh]
  have done : RowDone c q i r.code r.poison w (s.dmaRow c q i t) := by
    simp [RowDone, State.dmaRow, fresh, row, single, held, range, set, puts]
  rw [run]
  exact ⟨((engineStep_updDesc c s q i _).frame.trans reach).trans done.engineStep.frame, done⟩

/-- An atomic whose home answers z puts the ticket at its scratch destination (R344). -/
theorem State.dmaDo_atomic {z : TicketRes} (kind : d.kind = 3) (scratch : d.dstSp ≠ 0)
    (row : s1.descAtomic (s.mover c q) d (queueCore c q) = z.row d) (reach : EngineStep c s1 z.st) :
    OnlyDma s (s.dmaDo c q p) ∧ RowDone c q i (if z.dup then stDuplicate else 0) z.poison
      (z.st.scratchPut c d.dstSp d.dstMc (toBits d.dst 64) ((toLE 8 z.ticket).map (fun b => (b, z.poison)))) (s.dmaDo c q p) := by
  refine State.dmaDo_rowDone ready desc fresh single moving hp (r := z.row d) ?one ?row rfl z.code_ne.1 z.code_ne.2 ?puts
    (reach.trans (engineStep_scratchPut c _ _ _ _ _ _)).frame
  case one => simp [Desc.rows, kind]
  case row => rw [State.descRow_atomic s1 _ c q 0 kind, row]
  case puts => simp [TicketRes.row, State.putOuts, State.spPut, single, scratch, State.mover]

/-- A MASKLOAD whose record is read puts the mask in force (R231, R232, R344). -/
theorem State.dmaDo_maskLoad {g : Got} (kind : d.kind = 4) (read : g = s1.spGet (s.mover c q) 0 0 d.src 128) (held : g.held = none) :
    OnlyDma s (s.dmaDo c q p) ∧ RowDone c q i g.maskCode (g.bs.any (·.2))
      (g.st.updMc (4 * c + q) (fun m => m.maskDone g.mask)) (s.dmaDo c q p) := by
  have reach : EngineStep c s1 g.st := read ▸ (vaStep_spGet s1 _ 0 0 _ 128).engineStep
  refine State.dmaDo_rowDone ready desc fresh single moving hp
    (r := ⟨g.st.updMc (4 * c + q) (fun m => m.maskDone g.mask), none, g.maskCode, g.bs.any (·.2), []⟩) ?one ?row rfl
    Got.maskCode_ne.1 Got.maskCode_ne.2 rfl (reach.trans (engineStep_updMc c _ _ _)).frame
  case one => simp [Desc.rows, kind]
  case row => rw [State.descRow_maskLoad s1 _ c q 0 kind, State.maskLoad_read s1 _ c q d read held]

/-- A KEY descriptor sets its queue's key state (R344). -/
theorem State.dmaDo_key (kind : d.kind = 5) :
    OnlyDma s (s.dmaDo c q p) ∧ RowDone c q i 0 false (s1.setKey c q d.keyState) (s.dmaDo c q p) := by
  refine State.dmaDo_rowDone ready desc fresh single moving hp (r := ⟨s1.setKey c q d.keyState, none, 0, false, []⟩) ?one ?row rfl
    (show 0 ≠ stScratchRange by decide) (show 0 ≠ stMcastTarget by decide) rfl (onlyDma_setKey c s1 q _)
  case one => simp [Desc.rows, kind]
  case row => exact State.descRow_key s1 _ c q 0 kind

end

/-! ### The commands -/

section
variable (c : Fin 480) (q : Fin 6) (s : State)

theorem exec_dmaFetchAdd : exec (.dmaFetchAdd c q) s = .next (s.dmaDo c.val q.val (fun d => d.kind == 3 && d.aop == 0)) := (rfl)
theorem exec_dmaClaim : exec (.dmaClaim c q) s = .next (s.dmaDo c.val q.val (fun d => d.kind == 3 && d.aop == 1)) := (rfl)
theorem exec_dmaPresent : exec (.dmaPresent c q) s = .next (s.dmaDo c.val q.val (fun d => d.kind == 3 && d.aop == 2)) := (rfl)
theorem exec_dmaMaskload : exec (.dmaMaskload c q) s = .next (s.dmaDo c.val q.val (fun d => d.kind == 4)) := (rfl)
theorem exec_dmaKey : exec (.dmaKey c q) s = .next (s.dmaDo c.val q.val (fun d => d.kind == 5)) := (rfl)

end

/-- Steps of the engine after its key state has been set leave that one changed and every other key state and engine as it was. -/
theorem EngineStep.key_set {c q : Nat} {s s1 u : State} {k : KeyState} (before : EngineStep c s s1)
    (after : EngineStep c (s1.setKey c q k) u) :
    u.dmaKey c q = k ∧ (∀ j, j ≠ q → u.dmaKey c j = s.dmaKey c j) ∧
      ∀ b j, b ≠ c → u.dmaOf b = s.dmaOf b ∧ u.dmaKey b j = s.dmaKey b j := by
  have keys (j : Nat) : u.dmaKey c j = (s1.setKey c q k).dmaKey c j := by rw [State.dmaKey, after.keys, State.dmaKey]
  have others (b : Nat) (hb : b ≠ c) : u.dmaOf b = s.dmaOf b := by
    rw [after.others b hb, State.setKey_dmaOf_ne c s1 q b k hb, before.others b hb]
  refine ⟨?_, fun j hj => ?_, fun b j hb => ⟨others b hb, ?_⟩⟩
  · rw [keys, State.setKey_dmaKey_same]
  · rw [keys, State.setKey_dmaKey_ne c s1 q j k hj, State.dmaKey, before.keys, State.dmaKey]
  · rw [State.dmaKey, others b hb, State.dmaKey]

end Sys2Proof.Machine

open Sys2Proof Sys2Proof.Machine

/-- Settles O22: each descriptor has one row, which its command moves (`State.dmaDo_rowDone`): the atomic at the home, the mask, or the
key state, and completion stays within the engine's reach (`EngineStep`). -/
theorem atomicMaskloadKeyComplete : Obligations.AtomicMaskloadKeyComplete := by
  unfold Obligations.AtomicMaskloadKeyComplete
  intro c q s i t d s1 x ready desc hx fresh single moving
  subst hx
  refine ⟨fun y g rest a kind op scratch run good home device amo => ?fetchAdd,
    fun y g rest kind scratch run good home device => ⟨fun a op claim => ?claim, fun a op present => ?present⟩,
    fun g kind read held => ?mask, fun kind => ?key⟩
  case fetchAdd =>
    subst amo
    have only : (d.kind == 3 && d.aop == 0) = true := by simp [kind, op]
    have row := State.descAtomic_fetchAdd scratch good home device (queueCore c.val q.val) op run
    have reach := (memStep_amoAt y.st noCore (s.mover c.val q.val).part .add 64 g.pa d.aux).engineStep (c := c.val)
    have moved := State.dmaDo_atomic (p := fun d => d.kind == 3 && d.aop == 0) ready desc fresh single moving only kind scratch row
      ((engineStep_xlRun run).trans reach)
    simp only [Bool.false_eq_true, if_false] at moved
    rw [exec_dmaFetchAdd]
    exact ⟨_, rfl, moved⟩
  case claim =>
    subst claim
    have only : (d.kind == 3 && d.aop == 1) = true := by simp [kind, op]
    have row := State.descAtomic_claim scratch good home device (queueCore c.val q.val) op run
    rw [exec_dmaClaim]
    exact ⟨_, rfl, State.dmaDo_atomic ready desc fresh single moving only kind scratch row
      ((engineStep_xlRun run).trans (engineStep_wcClaim c.val y.st _ _ _ _))⟩
  case present =>
    subst present
    have only : (d.kind == 3 && d.aop == 2) = true := by simp [kind, op]
    have row := State.descAtomic_present scratch good home device (queueCore c.val q.val) op run
    rw [exec_dmaPresent]
    exact ⟨_, rfl, State.dmaDo_atomic ready desc fresh single moving only kind scratch row
      ((engineStep_xlRun run).trans (engineStep_wcPresent c.val y.st _ _ _ _))⟩
  case mask =>
    have load := State.dmaDo_maskLoad (p := fun d => d.kind == 4) ready desc fresh single moving (beq_iff_eq.mpr kind) kind read held
    rw [exec_dmaMaskload]
    refine ⟨fun k clean record => ⟨_, rfl, ?_⟩, fun clean record => ⟨_, rfl, ?_⟩, fun bad => ⟨_, rfl, ?_⟩⟩
    · obtain ⟨mask, code⟩ := Got.mask_record clean record
      rwa [mask, code, clean] at load
    · obtain ⟨mask, code⟩ := Got.mask_refused clean record
      rwa [mask, code, clean] at load
    · obtain ⟨mask, code⟩ := Got.mask_poisoned bad
      rwa [mask, code, bad] at load
  case key =>
    obtain ⟨frame, done⟩ := State.dmaDo_key (p := fun d => d.kind == 5) ready desc fresh single moving (beq_iff_eq.mpr kind) kind
    have before : EngineStep c.val s s1 := moving ▸ engineStep_updDesc c.val s q.val i _
    rw [exec_dmaKey]
    exact ⟨_, rfl, frame, before.key_set done.engineStep⟩
end

section
/-! RISC-V cores: what each operation on one core leaves, and what a read after it gives (R242-R247). -/

namespace Sys2Proof.Machine

variable {s t u : State} {k : Nat}

/-! ### Frames -/

theorem OnlyRiscv.trans (h : OnlyRiscv k s t) (g : OnlyRiscv k t u) : OnlyRiscv k s u :=
  ⟨by rw [g.1, h.1], fun j hj => (g.2 j hj).trans (h.2 j hj)⟩

theorem onlyRiscv_updRv (s : State) (k : Nat) (f : RvState → RvState) : OnlyRiscv k s (s.updRv k f) :=
  ⟨rfl, fun j => State.updRv_rv_ne s k j f⟩

theorem onlyRiscv_setCsr (s : State) (k n : Nat) (v : Word) : OnlyRiscv k s (s.setCsr k n v) := onlyRiscv_updRv s k _

theorem onlyRiscv_setXr (s : State) (k i : Nat) (v : Word) : OnlyRiscv k s (s.setXr k i v) := by
  unfold State.setXr
  split
  · exact ⟨rfl, fun _ _ => rfl⟩
  · exact onlyRiscv_updRv s k _

theorem onlyRiscv_countInst (s : State) (k : Nat) : OnlyRiscv k s (s.countInst k) := by
  unfold State.countInst
  split
  · exact ⟨rfl, fun _ _ => rfl⟩
  · exact onlyRiscv_setCsr s k _ _

theorem onlyRiscv_retire (s : State) (k len : Nat) : OnlyRiscv k s (s.retire k len) :=
  (onlyRiscv_countInst s k).trans (onlyRiscv_updRv _ k _)

theorem onlyRiscv_jump (s : State) (k : Nat) (a : Word) : OnlyRiscv k s (s.jump k a) :=
  (onlyRiscv_countInst s k).trans (onlyRiscv_updRv _ k _)

/-! ### CSRs -/

theorem State.setCsr_csr (s : State) (k n c : Nat) (v : Word) : (s.setCsr k n v).csr k c = if c = n then v else s.csr k c := by
  rw [State.csr, State.setCsr, State.updRv_rv_same]
  exact mgetF_msetF _ _ _ _ _

/-- A change of a core's other fields leaves its CSRs. -/
theorem State.updRv_csr (s : State) (k c : Nat) (f : RvState → RvState) (same : (f (s.rv k)).csr = (s.rv k).csr) :
    (s.updRv k f).csr k c = s.csr k c := by
  rw [State.csr, State.updRv_rv_same, same, State.csr]

theorem State.csr_congr (same : u.rv k = s.rv k) (c : Nat) : u.csr k c = s.csr k c := by rw [State.csr, same, State.csr]

@[simp] theorem State.setXr_csr (s : State) (k i c : Nat) (v : Word) : (s.setXr k i v).csr k c = s.csr k c := by
  unfold State.setXr
  split
  · rfl
  · exact State.updRv_csr s k c _ rfl

/-- instret counts one more instruction unless mcountinhibit stops it; no other CSR changes. -/
theorem State.countInst_csr (s : State) (k c : Nat) : (s.countInst k).csr k c =
    if c = 0xB02 then (if bit (s.csr k 0x320).toNat 2 then s.csr k 0xB02 else s.csr k 0xB02 + 1) else s.csr k c := by
  unfold State.countInst
  split
  · split
    · next h => rw [h]
    · rfl
  · exact State.setCsr_csr s k _ c _

theorem State.retire_csr (s : State) (k len c : Nat) : (s.retire k len).csr k c = (s.countInst k).csr k c :=
  State.updRv_csr _ k c _ rfl

theorem State.jump_csr (s : State) (k c : Nat) (a : Word) : (s.jump k a).csr k c = (s.countInst k).csr k c :=
  State.updRv_csr _ k c _ rfl

/-! ### A core's other fields -/

theorem State.setCsr_rv_same (s : State) (k n : Nat) (v : Word) :
    (s.setCsr k n v).rv k = { s.rv k with csr := ((s.setCsr k n v).rv k).csr } := by
  rw [State.setCsr, State.updRv_rv_same]

theorem State.setXr_rv_same (s : State) (k i : Nat) (v : Word) :
    (s.setXr k i v).rv k = { s.rv k with x := ((s.setXr k i v).rv k).x } := by
  unfold State.setXr
  split
  · rfl
  · rw [State.updRv_rv_same]

theorem State.countInst_rv_same (s : State) (k : Nat) : (s.countInst k).rv k = { s.rv k with csr := ((s.countInst k).rv k).csr } := by
  unfold State.countInst
  split
  · rfl
  · exact State.setCsr_rv_same s k _ _

theorem State.retire_rv_same (s : State) (k len : Nat) : (s.retire k len).rv k =
    { s.rv k with pc := (s.rv k).pc + BitVec.ofNat 64 len, waiting := false, csr := ((s.retire k len).rv k).csr } := by
  rw [State.retire, State.updRv_rv_same, State.countInst_rv_same]

theorem State.jump_rv_same (s : State) (k : Nat) (a : Word) : (s.jump k a).rv k =
    { s.rv k with pc := a &&& ~~~ 1#64, waiting := false, csr := ((s.jump k a).rv k).csr } := by
  rw [State.jump, State.updRv_rv_same, State.countInst_rv_same]

/-! ### Integer registers -/

theorem State.setXr_xr (s : State) (k i j : Nat) (v : Word) :
    (s.setXr k i v).xr k j = if j = 0 then 0 else if j = i then v else s.xr k j := by
  unfold State.setXr State.xr
  by_cases hj : j = 0
  · rw [if_pos hj, if_pos hj]
  · rw [if_neg hj, if_neg hj, if_neg hj]
    split
    · next hi => rw [if_neg (fun e => hj (e.trans hi))]
    · rw [State.updRv_rv_same]
      exact mget_mset _ _ _ _ _

theorem State.retire_xr (s : State) (k len i : Nat) : (s.retire k len).xr k i = s.xr k i := by
  rw [State.xr, State.retire_rv_same, State.xr]

theorem State.jump_xr (s : State) (k i : Nat) (a : Word) : (s.jump k a).xr k i = s.xr k i := by
  rw [State.xr, State.jump_rv_same, State.xr]

/-! ### Completion -/

/-- An instruction whose effect u leaves the pc and the CSRs retires. -/
theorem State.retire_retired (k len : Nat) (pc : (u.rv k).pc = (s.rv k).pc) (csr : ∀ c, u.csr k c = s.csr k c) :
    Retired k len [] (u.rv k) s (u.retire k len) := by
  refine ⟨?_, ?_, fun c hc _ => ?_⟩
  · rw [← pc]
    exact State.retire_rv_same u k len
  · rw [State.retire_csr, State.countInst_csr, if_pos rfl, csr, csr]
  · rw [State.retire_csr, State.countInst_csr, if_neg hc, csr]

/-- An instruction that leaves its core alone retires. -/
theorem State.retire_retired_of_same (k len : Nat) (same : u.rv k = s.rv k) : Retired k len [] (s.rv k) s (u.retire k len) :=
  same ▸ State.retire_retired k len (congrArg RvState.pc same) (State.csr_congr same)

/-- An instruction that writes rd retires with rd written: x0 stays zero, and no other register changes. -/
theorem State.setXr_retire_retired (k len i : Nat) (v : Word) (same : u.rv k = s.rv k) (ht : t = (u.setXr k i v).retire k len) :
    Retired k len [] { s.rv k with x := (t.rv k).x } s t ∧
      ∀ j, t.xr k j = if j = 0 then 0 else if j = i then v else s.xr k j := by
  subst ht
  have fields := State.setXr_rv_same u k i v
  have written : ((u.setXr k i v).retire k len |>.rv k).x = ((u.setXr k i v).rv k).x := by rw [State.retire_rv_same]
  refine ⟨?_, fun j => ?_⟩
  · rw [written, ← same, ← fields]
    refine State.retire_retired k len ?_ (fun c => (State.setXr_csr u k i c v).trans (State.csr_congr same c))
    rw [fields, same]
  · rw [State.retire_xr, State.setXr_xr, State.xr, same, State.xr]

/-! ### Traps of a vector core (R245, R249) -/

/-- A vector core delegates nothing: its traps go to M mode. -/
theorem State.delegated_vc (s : State) (cause : Nat) (isInt : Bool) (vc : k < 480) : s.delegated k cause isInt = false := by
  simp [State.delegated, isVcKey, vc]

/-- A trap of a vector core reaches M mode, and nothing waits any more. -/
theorem State.takeTrap_trapped (s : State) (cause : Nat) (isInt : Bool) (tval : Word) (vc : k < 480) :
    TrappedToM k (BitVec.ofNat 64 (cause + b2n isInt * 2 ^ 63)) tval (tvecTarget (s.csr k 0x305) cause isInt) s
      (s.takeTrap k cause isInt tval) ∧ ((s.takeTrap k cause isInt tval).rv k).waiting = false := by
  have home := State.delegated_vc s cause isInt vc
  have csr : ∀ c, (s.takeTrap k cause isInt tval).csr k c =
      if c = 0x343 then tval else if c = 0x342 then BitVec.ofNat 64 (cause + b2n isInt * 2 ^ 63) else if c = 0x341 then (s.rv k).pc
      else if c = 0x300 then setFld (setFld (setFld (s.csr k 0x300) 7 1 (fld (s.csr k 0x300) 3 1)) 3 1 0) 11 2 (modeNo (s.rv k).mode)
      else s.csr k c := fun c => by
    simp only [State.takeTrap, home, Bool.false_eq_true, if_false, State.updRv_csr, State.setCsr_csr, csrMstatus]
  refine ⟨⟨?only, ?_, ?_, ?_, ?_, ?_, ?_, ?_, fun c hc => ?others, ?_, ?_, ?_, ?_⟩, ?_⟩
  case only =>
    simp only [State.takeTrap, home, Bool.false_eq_true, if_false]
    exact (((((onlyRiscv_setCsr s k _ _).trans (onlyRiscv_setCsr _ k _ _)).trans (onlyRiscv_setCsr _ k _ _)).trans
      (onlyRiscv_setCsr _ k _ _)).trans (onlyRiscv_updRv _ k _)).trans (onlyRiscv_updRv _ k _)
  case others =>
    simp only [List.mem_cons, List.not_mem_nil, or_false, not_or] at hc
    obtain ⟨status, epc, code, value⟩ := hc
    rw [csr, if_neg value, if_neg code, if_neg epc, if_neg status]
  case refine_4 | refine_5 | refine_6 | refine_7 => simp [csr]
  all_goals simp [State.takeTrap, home, State.setCsr]

/-- A core that has trapped and whose program is marked as ended has trapped. -/
theorem TrappedToM.ended {cause tval pc : Word} (h : TrappedToM k cause tval pc s t) (c : Option Nat) :
    TrappedToM k cause tval pc s (t.updRv k (fun z => { z with ended := true, endCause := c })) := by
  obtain ⟨only, fields⟩ := h
  refine ⟨only.trans (onlyRiscv_updRv t k _), ?_⟩
  have csr : ∀ i, (t.updRv k (fun z => { z with ended := true, endCause := c })).csr k i = t.csr k i :=
    fun i => State.updRv_csr t k i _ rfl
  simp only [csr, State.updRv_rv_same]
  exact fields

/-- An exception of a vector core reaches M mode. -/
theorem State.exception_trapped (s : State) (cause : Nat) (tval : Word) (vc : k < 480) :
    TrappedToM k (BitVec.ofNat 64 cause) tval (s.csr k 0x305 &&& ~~~ 3#64) s (s.exception k cause tval) := by
  obtain ⟨trap, -⟩ := State.takeTrap_trapped s cause false tval vc
  simp only [b2n, Bool.false_eq_true, if_false, Nat.zero_mul, Nat.add_zero] at trap
  unfold State.exception
  dsimp only
  split
  · exact trap.ended _
  · exact trap

/-- A kernel that runs in U mode of a vector core ends by an exception: with no cause for an environment call, else with the cause. -/
theorem State.exception_ends (s : State) (cause : Nat) (tval : Word) (vc : k < 480) (user : (s.rv k).mode = .user)
    (run : s.rvRun k = true) : ((s.exception k cause tval).rv k).ended = true ∧
      ((s.exception k cause tval).rv k).endCause = if cause = 8 then none else some cause := by
  have kernel : (isVcKey k && (s.rv k).launched && !(s.rv k).ended && (s.rv k).mode == .user) = true := by
    simp only [State.rvRun, user, isVcKey, vc] at run ⊢
    simp_all
  simp only [State.exception, kernel, if_true, State.updRv_rv_same]
  exact ⟨trivial, rfl⟩

end Sys2Proof.Machine
end

section
/-! Xifsync: a vector core's instructions on its counters, on signals and on barriers (R260, R261, R365). -/

namespace Sys2Proof.Machine

variable {vc : Fin 480} {sn : Fin 32} {rs1 rs2 rd : BitVec 5} {s t u : State}

/-! ### Going on -/

/-- The state once nothing holds a vector core's sync instruction any more. -/
def State.vcSettled (u : State) (vc : Nat) : State :=
  u.setSync (vcKey vc) { u.syncOf (vcKey vc) with want := none, stall := none, idle := false }

theorem State.vcSync_done (s u : State) (vc counter target : Nat) :
    s.vcSync vc counter target (.done u) none = (u.vcSettled vc).retire vc 4 := rfl

theorem State.vcSync_done_write (s u : State) (vc counter target i : Nat) (v : Word) :
    s.vcSync vc counter target (.done u) (some (i, v)) = ((u.vcSettled vc).setXr vc i v).retire vc 4 := rfl

/-- A core that goes on keeps every counter. -/
theorem State.vcSettled_val (u : State) (vc j i : Nat) : ((u.vcSettled vc).syncOf j).val i = (u.syncOf j).val i := by
  refine State.setSync_val _ _ ?_ j i
  rfl

theorem State.vcSettled_syncOf_ne (u : State) (vc : Nat) {j : Nat} (h : j ≠ vcKey vc) : (u.vcSettled vc).syncOf j = u.syncOf j :=
  State.setSync_syncOf_ne u _ j _ h

theorem State.vcSettled_bars (u : State) (vc : Nat) : ((u.vcSettled vc).syncOf (vcKey vc)).bars = (u.syncOf (vcKey vc)).bars := by
  rw [State.vcSettled, State.setSync_syncOf_same]

theorem State.rv_congr (same : u.rvs = s.rvs) (j : Nat) : u.rv j = s.rv j := by rw [State.rv, same, State.rv]

theorem State.syncOf_congr (same : t.sync = u.sync) (j : Nat) : t.syncOf j = u.syncOf j := by rw [State.syncOf, same, State.syncOf]

/-- A vector core whose sync instruction has had its effect u, which leaves the cores, goes on: its instruction retires, and nothing else
changes but the waits of its sync unit. -/
theorem State.vcSettled_goes {vc : Nat} (cores : u.rvs = s.rvs) (ht : t = (u.vcSettled vc).retire vc 4) :
    t = { u with rvs := t.rvs, sync := t.sync } ∧ (∀ j, j ≠ vc → t.rv j = s.rv j) ∧ t.sync = (u.vcSettled vc).sync ∧
      Retired vc 4 [] (s.rv vc) s t := by
  obtain ⟨shape, others⟩ := onlyRiscv_retire (u.vcSettled vc) vc 4
  have retired := State.retire_retired_of_same (u := u.vcSettled vc) vc 4 (State.rv_congr cores vc)
  rw [← ht] at shape others retired
  exact ⟨by rw [shape]; rfl, fun j hj => (others j hj).trans (State.rv_congr cores j), by rw [shape], retired⟩

/-- The same for an instruction that writes a result to register i. -/
theorem State.vcSettled_writes {vc i : Nat} {v : Word} (cores : u.rvs = s.rvs)
    (ht : t = ((u.vcSettled vc).setXr vc i v).retire vc 4) :
    t = { u with rvs := t.rvs, sync := t.sync } ∧ (∀ j, j ≠ vc → t.rv j = s.rv j) ∧ t.sync = (u.vcSettled vc).sync ∧
      Retired vc 4 [] { s.rv vc with x := (t.rv vc).x } s t ∧ ∀ j, t.xr vc j = if j = 0 then 0 else if j = i then v else s.xr vc j := by
  obtain ⟨shape, others⟩ := (onlyRiscv_setXr (u.vcSettled vc) vc i v).trans (onlyRiscv_retire _ vc 4)
  have retired := State.setXr_retire_retired (u := u.vcSettled vc) vc 4 i v (State.rv_congr cores vc) ht
  rw [← ht] at shape others
  exact ⟨by rw [shape]; rfl, fun j hj => (others j hj).trans (State.rv_congr cores j), by rw [shape], retired⟩

/-! ### Counters -/

/-- XS.ADD whose sum stays in range adds to its counter and goes on. -/
theorem xsAdd_adds (run : s.rvRun vc.val = true) (drained : s.vcDrained vc.val = true)
    (quiet : s.pendOn (vcKey vc.val) sn.val = false)
    (low : 0 ≤ ((s.syncOf (vcKey vc.val)).val sn.val : Int) + sext (s.xr vc.val rs1.toNat).toNat 16)
    (high : ((s.syncOf (vcKey vc.val)).val sn.val : Int) + sext (s.xr vc.val rs1.toNat).toNat 16 ≤ 65535) :
    ∃ u, exec (.xsAdd vc sn rs1) s = .next ((u.vcSettled vc.val).retire vc.val 4) ∧ SetsCounter (vcKey vc.val) sn.val
      (((s.syncOf (vcKey vc.val)).val sn.val : Int) + sext (s.xr vc.val rs1.toNat).toNat 16).toNat s u := by
  refine ⟨_, ?_, setsCounter_putView _ _ _ (by omega)⟩
  change execXsAdd vc sn rs1 s = _
  simp only [execXsAdd, when, run, drained, Bool.and_self, if_true, State.ownAdd_done quiet low high, State.vcSync_done]

/-- The effect u of a wait that is met: x has been taken from counter n of key k, in the sync unit alone. -/
def TakesCounter (k n x : Nat) (s u : State) : Prop :=
  u = { s with sync := u.sync } ∧ ∀ i, (u.syncOf k).val i = if i = n then (s.syncOf k).val n - x else (s.syncOf k).val i

theorem takesCounter_setSync (s : State) (k n x : Nat) :
    TakesCounter k n x s (s.setSync k ((s.syncOf k).setVal n ((s.syncOf k).val n - x))) := by
  refine ⟨rfl, fun i => ?_⟩
  rw [State.setSync_syncOf_same]
  exact SyncCore.setVal_val _ _ _ _ (Nat.lt_of_le_of_lt (Nat.sub_le _ _) (SyncCore.val_lt _ _))

/-- XS.WAIT of a counter that has the value subtracts it and goes on. -/
theorem xsWait_subtracts (run : s.rvRun vc.val = true) (quiet : s.pendOn (vcKey vc.val) sn.val = false)
    (enough : fld (s.xr vc.val rs1.toNat) 0 16 ≤ (s.syncOf (vcKey vc.val)).val sn.val) :
    ∃ u, exec (.xsWait vc sn rs1) s = .next ((u.vcSettled vc.val).retire vc.val 4) ∧
      TakesCounter (vcKey vc.val) sn.val (fld (s.xr vc.val rs1.toNat) 0 16) s u := by
  refine ⟨_, ?_, takesCounter_setSync s _ _ _⟩
  change execXsWait vc sn rs1 s = _
  simp only [execXsWait, when, run, if_true, State.ownWait_done quiet enough, State.vcSync_done]

/-- XS.WAIT of a counter below its value makes the core wait. -/
theorem xsWait_waits (run : s.rvRun vc.val = true) (quiet : s.pendOn (vcKey vc.val) sn.val = false)
    (few : (s.syncOf (vcKey vc.val)).val sn.val < fld (s.xr vc.val rs1.toNat) 0 16) :
    exec (.xsWait vc sn rs1) s = .next ((s.setSync (vcKey vc.val) { s.syncOf (vcKey vc.val) with
      want := some (sn.val, fld (s.xr vc.val rs1.toNat) 0 16) }).updRv vc.val (fun r => { r with waiting := true })) := by
  change execXsWait vc sn rs1 s = _
  simp only [execXsWait, when, run, if_true, State.ownWait_hold quiet few]
  rfl

/-- XS.TRY of a counter that has the value subtracts it, writes 1 and goes on. -/
theorem xsTry_subtracts (run : s.rvRun vc.val = true) (quiet : s.pendOn (vcKey vc.val) sn.val = false)
    (enough : fld (s.xr vc.val rs1.toNat) 0 16 ≤ (s.syncOf (vcKey vc.val)).val sn.val) :
    ∃ u, exec (.xsTry vc sn rs1 rd) s = .next (((u.vcSettled vc.val).setXr vc.val rd.toNat 1).retire vc.val 4) ∧
      TakesCounter (vcKey vc.val) sn.val (fld (s.xr vc.val rs1.toNat) 0 16) s u := by
  refine ⟨_, ?_, takesCounter_setSync s _ _ _⟩
  change execXsTry vc sn rs1 rd s = _
  simp only [execXsTry, when, run, quiet, Nat.not_lt.mpr enough, decide_false, Bool.and_false, Bool.false_eq_true, if_true, if_false,
    State.ownWait_done quiet enough, State.vcSync_done_write]

/-- XS.TRY of a counter below its value writes 0 and goes on. -/
theorem xsTry_fails (run : s.rvRun vc.val = true) (quiet : s.pendOn (vcKey vc.val) sn.val = false)
    (few : (s.syncOf (vcKey vc.val)).val sn.val < fld (s.xr vc.val rs1.toNat) 0 16) :
    exec (.xsTry vc sn rs1 rd) s = .next ((s.setXr vc.val rd.toNat 0).retire vc.val 4) := by
  change execXsTry vc sn rs1 rd s = _
  simp only [execXsTry, when, run, quiet, few, decide_true, Bool.not_false, Bool.and_self, if_true]

/-- XS.RD writes the counter's value with its sticky flag and goes on. -/
theorem xsRd_reads (run : s.rvRun vc.val = true) (quiet : s.pendOn (vcKey vc.val) sn.val = false) :
    exec (.xsRd vc sn rd) s = .next (((s.vcSettled vc.val).setXr vc.val rd.toNat (BitVec.ofNat 64 ((s.syncOf (vcKey vc.val)).val sn.val +
      b2n (bit (s.reg (synKey (vcKey vc.val) + 8)).toNat sn.val) * 65536))).retire vc.val 4) := by
  change execXsRd vc sn rd s = _
  simp only [execXsRd, when, run, quiet, Bool.false_eq_true, if_true, if_false, State.vcSync_done_write]

/-! ### Signals and barriers -/

theorem State.sendSignal_regs (s : State) (g : Signal) : (s.sendSignal g).regs = s.regs := by
  unfold State.sendSignal
  dsimp only
  split
  · rfl
  · rfl

/-- The signal that XS.SIG sends to the core and counter that w names (R260). -/
def State.xsSignal (s : State) (vc w x : Nat) : Signal :=
  ⟨⟨true, vc⟩, ⟨bit w 5, bits w 6 11⟩, Fin.ofNat 32 w, BitVec.ofNat 16 x, Fin.ofNat 16 (s.cellPart vc), false⟩

/-- XS.SIG to another core of the partition sends its signal and goes on. -/
theorem xsSig_sends (run : s.rvRun vc.val = true) (drained : s.vcDrained vc.val = true) (small : (s.xr vc.val rs1.toNat).toNat < 2 ^ 17)
    {target : CoreName} (named : target = ⟨bit (s.xr vc.val rs1.toNat).toNat 5, bits (s.xr vc.val rs1.toNat).toNat 6 11⟩)
    (inside : s.inPartition target (s.cellPart vc.val) = true) (other : target ≠ ⟨true, vc.val⟩) :
    exec (.xsSig vc rs2 rs1) s = .next (((s.sendSignal (s.xsSignal vc.val (s.xr vc.val rs1.toNat).toNat
      (fld (s.xr vc.val rs2.toNat) 0 16))).vcSettled vc.val).retire vc.val 4) := by
  subst named
  change execXsSig vc rs2 rs1 s = _
  simp only [execXsSig, when, run, drained, Bool.and_self, if_true, Nat.div_eq_of_lt small, ne_eq, not_true_eq_false, if_false,
    State.ownSig_done (core := ⟨true, vc.val⟩) inside (fun self => absurd self other), State.vcSync_done]
  rfl

/-- XS.SIG to a core outside the partition is SYNC_TARGET. -/
theorem xsSig_outside (run : s.rvRun vc.val = true) (drained : s.vcDrained vc.val = true) (small : (s.xr vc.val rs1.toNat).toNat < 2 ^ 17)
    {target : CoreName} (named : target = ⟨bit (s.xr vc.val rs1.toNat).toNat 5, bits (s.xr vc.val rs1.toNat).toNat 6 11⟩)
    (outside : s.inPartition target (s.cellPart vc.val) = false) (other : target ≠ ⟨true, vc.val⟩) :
    exec (.xsSig vc rs2 rs1) s = .next (s.exception vc.val 25 (BitVec.ofNat 64 (s.xr vc.val rs1.toNat).toNat)) := by
  subst named
  change execXsSig vc rs2 rs1 s = _
  simp only [execXsSig, when, run, drained, Bool.and_self, if_true, Nat.div_eq_of_lt small, ne_eq, not_true_eq_false, if_false,
    State.ownSig_outside (core := ⟨true, vc.val⟩) outside other]
  rfl

/-- XS.BAR of a participant with no barrier ahead of it enters, and its core goes on. -/
theorem xsBar_enters (run : s.rvRun vc.val = true) (drained : s.vcDrained vc.val = true) (small : (s.xr vc.val rs1.toNat).toNat < 1024)
    (quiet : s.pendOn (vcKey vc.val) sn.val = false)
    (entered : s.barEnter ⟨true, vc.val⟩ (s.cellPart vc.val) (s.xr vc.val rs1.toNat).toNat sn.val = .entered t) :
    exec (.xsBar vc sn rs1) s = .next ((t.vcSettled vc.val).retire vc.val 4) := by
  change execXsBar vc sn rs1 s = _
  simp only [execXsBar, when, run, drained, Bool.and_self, if_true, Nat.div_eq_of_lt small, ne_eq, not_true_eq_false, if_false,
    State.ownBar_entered (core := ⟨true, vc.val⟩) quiet entered, State.vcSync_done]

end Sys2Proof.Machine

open Sys2Proof Sys2Proof.Machine

/-- Settles O13: each instruction that completes leaves an effect on the sync unit from which the core goes on (`OnlyRiscv.settled`), with rd
written where it has one (`State.setXr_retire_retired`); a signal outside the partition traps. -/
theorem vectorSyncInstructionsComplete : Obligations.VectorSyncInstructionsComplete := by
  unfold Obligations.VectorSyncInstructionsComplete
  refine ⟨fun vc sn rs1 rd s v run quiet hv => ⟨fun drained low high => ?add, fun enough => ?wait, fun enough => ?take, fun few => ?fail,
    fun few => ?hold, ?read⟩, fun vc sn rs2 rs1 s w run drained hw => ⟨fun target small named inside other => ?signal,
    fun target small named outside other => ?outside, fun t0 small quiet entered => ?barrier⟩⟩
  case add =>
    subst hv
    obtain ⟨u, done, ⟨effect, regs⟩, mesh, others, val⟩ := xsAdd_adds run drained quiet low high
    obtain ⟨shape, cores, sync, retired⟩ := State.vcSettled_goes (s := s) (u := u) (by rw [effect]) rfl
    refine ⟨_, done, ?_⟩
    generalize (u.vcSettled vc.val).retire vc.val 4 = t at shape cores sync retired ⊢
    refine ⟨by rw [shape, effect, mesh], fun k _ => ?_, cores, retired, fun j hj => ?_, fun i => ?_⟩
    · rw [shape]
      exact regs k
    · rw [State.syncOf_congr sync, State.vcSettled_syncOf_ne u _ hj, others j hj]
    · rw [State.syncOf_congr sync, State.vcSettled_val, val]
      split
      · exact Int.toNat_of_nonneg low
      · rfl
  case wait =>
    subst hv
    obtain ⟨u, done, effect, val⟩ := xsWait_subtracts run quiet enough
    obtain ⟨shape, cores, sync, retired⟩ := State.vcSettled_goes (s := s) (u := u) (by rw [effect]) rfl
    refine ⟨_, done, by rw [shape, effect], cores, retired, fun i => ?_⟩
    rw [State.syncOf_congr sync, State.vcSettled_val, val]
  case take =>
    subst hv
    obtain ⟨u, done, effect, val⟩ := xsTry_subtracts (rd := rd) run quiet enough
    obtain ⟨shape, cores, sync, retired, written⟩ := State.vcSettled_writes (s := s) (u := u) (by rw [effect]) rfl
    refine ⟨_, done, by rw [shape, effect], cores, retired, written, fun i => ?_⟩
    rw [State.syncOf_congr sync, State.vcSettled_val, val]
  case fail =>
    subst hv
    obtain ⟨retired, written⟩ := State.setXr_retire_retired (s := s) vc.val 4 rd.toNat 0 rfl rfl
    exact ⟨_, xsTry_fails run quiet few, (onlyRiscv_setXr s vc.val _ _).trans (onlyRiscv_retire _ vc.val 4), retired, written⟩
  case hold =>
    subst hv
    exact ⟨_, xsWait_waits run quiet few, rfl, (onlyRiscv_updRv _ vc.val _).2, State.updRv_rv_same _ _ _, State.setSync_val _ _ rfl⟩
  case read =>
    subst hv
    obtain ⟨shape, cores, sync, retired, written⟩ := State.vcSettled_writes (s := s) (u := s) rfl rfl
    refine ⟨_, xsRd_reads run quiet, shape, cores, retired, fun j i => ?_, written⟩
    rw [State.syncOf_congr sync, State.vcSettled_val]
  case signal =>
    subst hw
    have done := xsSig_sends (rs2 := rs2) run drained small named inside other
    obtain ⟨⟨effect, -⟩, sent⟩ := State.sendSignal_effect (s := s)
      (s.xsSignal vc.val (s.xr vc.val rs1.toNat).toNat (fld (s.xr vc.val rs2.toNat) 0 16))
    have regs := State.sendSignal_regs s (s.xsSignal vc.val (s.xr vc.val rs1.toNat).toNat (fld (s.xr vc.val rs2.toNat) 0 16))
    generalize s.sendSignal _ = u at done effect sent regs
    obtain ⟨shape, cores, sync, retired⟩ := State.vcSettled_goes (s := s) (u := u) (by rw [effect]) rfl
    refine ⟨_, done, ?_, cores, retired, ?_⟩
    · rw [shape, effect, regs]
    · rw [sync, named]
      exact congrArg SyncState.signals sent
  case outside =>
    subst hw
    exact ⟨_, xsSig_outside run drained small named outside other, State.exception_trapped s 25 _ vc.isLt⟩
  case barrier =>
    subst hw
    have effect := State.barEnter_shape entered
    obtain ⟨shape, cores, sync, retired⟩ := State.vcSettled_goes (s := s) (u := t0) (by rw [effect]) rfl
    refine ⟨_, xsBar_enters run drained small quiet entered, by rw [shape, effect], cores, retired, ?_, ?_⟩
    · rw [State.syncOf_congr sync]
      exact State.vcSettled_bars t0 vc.val
    · rw [sync]
      rfl
end

section
/-! RISCV_INSTRUCTION: the fetch, the decoding and the base instructions of a core (R242, R318, R511, log entries 27 and 28). -/

namespace Sys2Proof.Machine

variable {core : RvCore} {w : Word32} {s t u : State} {k x op : Nat}

/-! ### From the word to its instruction -/

/-- An uncompressed word of the standard's opcodes, whose fetch succeeds, is decoded in the state that the fetch leaves. -/
theorem riscvInstruction_decodes (run : s.rvRun (rvKey core) = true) (fetch : s.rvFetch (rvKey core) 4 = (u, .val x))
    (code : bits w.toNat 0 7 = op) (base : op % 4 = 3 ∧ op % 32 ≠ 31 ∧ op ≠ opC0 ∧ op ≠ opC1) :
    exec (.riscvInstruction core w) s = .next (u.rvDecode (rvKey core) w.toNat 4 w.toNat) := by
  obtain ⟨long, short, custom0, custom1⟩ := base
  have low : w.toNat % 128 = op := code
  have uncompressed : w.toNat % 4 = 3 := by omega
  have within : w.toNat % 32 ≠ 31 := by omega
  have expand : u.rvExec (rvKey core) w.toNat = u.rvDecode (rvKey core) w.toNat 4 w.toNat := by
    simp only [State.rvExec, uncompressed, within, ne_eq, not_true_eq_false, if_false]
  change execRiscvInstruction core w s = _
  simp only [execRiscvInstruction, run, uncompressed, fetch, Bool.not_true, Bool.false_eq_true, if_true, if_false, expand]
  cases core
  · simp only [code, custom0, custom1, or_self, if_false]
  · rfl
  · rfl

/-- An integer instruction of one of these opcodes has the effect that `State.rvInt` gives it. -/
theorem riscvInstruction_int (run : s.rvRun (rvKey core) = true) (fetch : s.rvFetch (rvKey core) 4 = (u, .val x))
    (code : bits w.toNat 0 7 = op) (int : op ∈ [0x13, 0x33, 0x37, 0x6F, 0x63]) (does : u.rvInt (rvKey core) w.toNat 4 = some t) :
    exec (.riscvInstruction core w) s = .next t := by
  simp only [List.mem_cons, List.not_mem_nil, or_false] at int
  obtain rfl | rfl | rfl | rfl | rfl := int <;>
    rw [riscvInstruction_decodes run fetch code (by decide), State.rvDecode, code] <;> simp only [does]

/-- A SYSTEM instruction has the effect that `State.rvSystem` gives it, or is illegal. -/
theorem riscvInstruction_system (run : s.rvRun (rvKey core) = true) (fetch : s.rvFetch (rvKey core) 4 = (u, .val x))
    (code : bits w.toNat 0 7 = 0x73) : exec (.riscvInstruction core w) s =
      .next ((u.rvSystem (rvKey core) w.toNat 4).getD (u.illegal (rvKey core) w.toNat)) := by
  rw [riscvInstruction_decodes run fetch code (by decide), State.rvDecode, code]
  cases u.rvSystem (rvKey core) w.toNat 4 <;> rfl

/-! ### Integer instructions -/

theorem ofNat_toBits (i : Int) : BitVec.ofNat 64 (toBits i 64) = BitVec.ofInt 64 i := by
  refine BitVec.eq_of_toNat_eq ?_
  rw [BitVec.toNat_ofNat, BitVec.toNat_ofInt, Nat.mod_eq_of_lt (toBits_lt i 64), toBits]

theorem wordOf_eq (i : Int) : wordOf i = BitVec.ofInt 64 i := ofNat_toBits i

theorem State.rvInt_addi {w len : Nat} (code : bits w 0 7 = 0x13) (f3 : iF3 w = 0) : s.rvInt k w len =
    some ((s.setXr k (iRd w) (s.xr k (iRs1 w) + BitVec.ofInt 64 (immI w))).retire k len) := by
  have sum : BitVec.ofNat 64 (((s.xr k (iRs1 w)).toNat + toBits (immI w) 64) % 2 ^ 64) = s.xr k (iRs1 w) + BitVec.ofInt 64 (immI w) := by
    rw [← ofNat_toBits]
    refine BitVec.eq_of_toNat_eq ?_
    simp [BitVec.toNat_add]
  simp only [State.rvInt, code, aluImm, f3, State.rvDone, Option.map_some, sum]

theorem State.rvInt_add {w len : Nat} (code : bits w 0 7 = 0x33) (f3 : iF3 w = 0) (f7 : iF7 w = 0) : s.rvInt k w len =
    some ((s.setXr k (iRd w) (s.xr k (iRs1 w) + s.xr k (iRs2 w))).retire k len) := by
  have sum : BitVec.ofNat 64 (((s.xr k (iRs1 w)).toNat + (s.xr k (iRs2 w)).toNat) % 2 ^ 64) = s.xr k (iRs1 w) + s.xr k (iRs2 w) := by
    refine BitVec.eq_of_toNat_eq ?_
    simp [BitVec.toNat_add]
  simp only [State.rvInt, code, aluOp, f3, f7, State.rvDone, Option.map_some, sum]

theorem State.rvInt_lui {w len : Nat} (code : bits w 0 7 = 0x37) : s.rvInt k w len =
    some ((s.setXr k (iRd w) (BitVec.ofInt 64 (immU w))).retire k len) := by
  simp only [State.rvInt, code, State.rvDone, Option.map_some, ofNat_toBits]

theorem State.rvInt_jal {w len : Nat} (code : bits w 0 7 = 0x6F) : s.rvInt k w len =
    some ((s.setXr k (iRd w) ((s.rv k).pc + BitVec.ofNat 64 len)).jump k ((s.rv k).pc + BitVec.ofInt 64 (immJ w))) := by
  simp only [State.rvInt, code, wordOf_eq]

theorem State.rvInt_beq {w len : Nat} (code : bits w 0 7 = 0x63) (f3 : iF3 w = 0) : s.rvInt k w len =
    some (if s.xr k (iRs1 w) = s.xr k (iRs2 w) then s.jump k ((s.rv k).pc + BitVec.ofInt 64 (immB w)) else s.retire k len) := by
  simp only [State.rvInt, code, f3, branchTaken, Option.map_some, wordOf_eq, beq_iff_eq, BitVec.toNat_inj]

/-- An instruction that writes rd: its core alone changes, and it retires. -/
theorem State.setXr_retire_effect (u : State) (k i : Nat) (v : Word) (ht : t = (u.setXr k i v).retire k 4) : OnlyRiscv k u t ∧
    Retired k 4 [] { u.rv k with x := (t.rv k).x } u t ∧ ∀ j, t.xr k j = if j = 0 then 0 else if j = i then v else u.xr k j :=
  ⟨ht ▸ (onlyRiscv_setXr u k i v).trans (onlyRiscv_retire _ k 4), State.setXr_retire_retired k 4 i v rfl ht⟩

/-- A jump that writes its link to rd reaches its target, and no CSR but instret changes. -/
theorem State.setXr_jump_effect (u : State) (k i : Nat) (v a : Word) (ht : t = (u.setXr k i v).jump k a) : OnlyRiscv k u t ∧
    (t.rv k).pc = a &&& ~~~ 1#64 ∧ (∀ c, c ≠ 0xB02 → t.csr k c = u.csr k c) ∧
    ∀ j, t.xr k j = if j = 0 then 0 else if j = i then v else u.xr k j := by
  subst ht
  refine ⟨(onlyRiscv_setXr u k i v).trans (onlyRiscv_jump _ k a), by rw [State.jump_rv_same], fun c hc => ?_, fun j => ?_⟩
  · rw [State.jump_csr, State.countInst_csr, if_neg hc, State.setXr_csr]
  · rw [State.jump_xr, State.setXr_xr]

/-- A branch goes to its target or on, and changes no integer register and no CSR but instret. -/
theorem State.branch_effect (u : State) (k : Nat) (taken : Prop) [Decidable taken] (a : Word)
    (ht : t = if taken then u.jump k a else u.retire k 4) : OnlyRiscv k u t ∧ (t.rv k).x = (u.rv k).x ∧
    (∀ c, c ≠ 0xB02 → t.csr k c = u.csr k c) ∧ (t.rv k).pc = if taken then a &&& ~~~ 1#64 else (u.rv k).pc + 4 := by
  subst ht
  split
  · refine ⟨onlyRiscv_jump u k a, by rw [State.jump_rv_same], fun c hc => ?_, by rw [State.jump_rv_same]⟩
    rw [State.jump_csr, State.countInst_csr, if_neg hc]
  · refine ⟨onlyRiscv_retire u k 4, by rw [State.retire_rv_same], fun c hc => ?_, by rw [State.retire_rv_same]; rfl⟩
    rw [State.retire_csr, State.countInst_csr, if_neg hc]

/-! ### MRET and ECALL -/

/-- MRET in M mode returns: the pc is mepc, the mode that of MPP, and no CSR but mstatus and instret changes. -/
theorem State.rvMret_effect (s : State) (k : Nat) (mode : (s.rv k).mode = .machine) : ∃ t, s.rvMret k = some t ∧ OnlyRiscv k s t ∧
    (t.rv k).x = (s.rv k).x ∧ (∀ c, c ≠ 0xB02 → c ≠ 0x300 → t.csr k c = s.csr k c) ∧
    (t.rv k).pc = s.csr k 0x341 &&& ~~~ 1#64 ∧ (t.rv k).mode = modeOf (fld (s.csr k 0x300) 11 2) := by
  have allowed : ¬ (s.rv k).mode ≠ .machine := not_not.mpr mode
  refine ⟨_, by rw [State.rvMret, if_neg allowed], ?_, ?_, fun c hc status => ?_, ?_, ?_⟩
  · exact ((onlyRiscv_setCsr s k _ _).trans (onlyRiscv_jump _ k _)).trans (onlyRiscv_updRv _ k _)
  · rw [State.updRv_rv_same, State.jump_rv_same, State.setCsr_rv_same]
  · simp only [State.updRv_csr, State.jump_csr, State.countInst_csr, if_neg hc, State.setCsr_csr]
    exact if_neg status
  · rw [State.updRv_rv_same, State.jump_rv_same]
  · rw [State.updRv_rv_same]
    rfl

/-- MRET decodes to its return. -/
theorem riscvInstruction_mret (run : s.rvRun (rvKey core) = true) (fetch : s.rvFetch (rvKey core) 4 = (u, .val x))
    (does : u.rvMret (rvKey core) = some t) : exec (.riscvInstruction core 0x30200073) s = .next t := by
  rw [riscvInstruction_system run fetch rfl]
  exact congrArg (fun r : Option State => Host.Outcome.next (r.getD (u.illegal (rvKey core) 0x30200073))) does

/-- An environment call is an exception with the cause of its mode. -/
theorem riscvInstruction_ecall (run : s.rvRun (rvKey core) = true) (fetch : s.rvFetch (rvKey core) 4 = (u, .val x)) :
    exec (.riscvInstruction core 0x00000073) s = .next (u.exception (rvKey core) (ecallCause (u.rv (rvKey core)).mode) 0) := by
  rw [riscvInstruction_system run fetch rfl]
  rfl

/-- MRET below M mode is an illegal instruction. -/
theorem riscvInstruction_mret_illegal (run : s.rvRun (rvKey core) = true) (fetch : s.rvFetch (rvKey core) 4 = (u, .val x))
    (mode : (u.rv (rvKey core)).mode ≠ .machine) :
    exec (.riscvInstruction core 0x30200073) s = .next (u.exception (rvKey core) 2 0x30200073) := by
  have undefined : u.rvMret (rvKey core) = none := if_pos mode
  rw [riscvInstruction_system run fetch rfl]
  exact congrArg (fun r : Option State => Host.Outcome.next (r.getD (u.illegal (rvKey core) 0x30200073))) undefined

end Sys2Proof.Machine
end

section
/-! Interrupts, timers and reservations of the RISC-V cores (R245-R248). -/

namespace Sys2Proof.Machine

variable {s t u : State} {k : Nat}

/-- A vector core that takes an interrupt gives up its waits, in its sync unit and with fault service, and traps. -/
theorem vcInterruptTake_traps {vc : Fin 480} {i : Nat} (pending : s.pendingInt vc.val = some i) (going : (s.rv vc.val).stopped = false) :
    exec (.vcInterruptTake vc) s =
      .next (((s.vcSettled vc.val).dropWaiters (fun w => w == .vc vc.val)).takeTrap vc.val i true 0) := by
  change execVcInterruptTake vc s = _
  simp only [execVcInterruptTake, pending, going, Bool.false_eq_true, if_false]
  rfl

/-- A trap turns interrupts off and keeps their enable in MPIE. -/
theorem TrappedToM.interruptsOff {cause tval pc : Word} (h : TrappedToM k cause tval pc s t) :
    fld (t.csr k 0x300) 3 1 = 0 ∧ fld (t.csr k 0x300) 7 1 = fld (s.csr k 0x300) 3 1 := by
  obtain ⟨-, -, -, -, -, -, -, status, -⟩ := h
  rw [status]
  constructor
  · rw [fld_setFld_ne _ _ _ _ _ _ (by decide), fld_setFld_same _ _ _ _ (by decide), Nat.zero_mod]
  · rw [fld_setFld_ne _ _ _ _ _ _ (by decide), fld_setFld_ne _ _ _ _ _ _ (by decide), fld_setFld_same _ _ _ _ (by decide)]
    exact Nat.mod_mod _ _

theorem State.setMip_effect (s : State) (k i : Nat) (b : Bool) (ht : t = s.setMip k i b) : OnlyRiscv k s t ∧
    t.rv k = { s.rv k with csr := (t.rv k).csr } ∧ t.csr k 0x344 = setFld (s.csr k 0x344) i 1 (b2n b) ∧
    ∀ c, c ≠ 0x344 → t.csr k c = s.csr k c := by
  subst ht
  exact ⟨onlyRiscv_setCsr s k _ _, State.setCsr_rv_same s k _ _, (State.setCsr_csr s k _ _ _).trans (if_pos rfl),
    fun c hc => (State.setCsr_csr s k _ c _).trans (if_neg hc)⟩

end Sys2Proof.Machine

open Sys2Proof Sys2Proof.Machine

/-- Settles O14: each word is decoded (`riscvInstruction_int`, `riscvInstruction_system`) to the effect of its instruction, and the traps of a
vector core are those of `State.takeTrap_trapped`. -/
theorem riscvInstructionsTrapsAndInterrupts : Obligations.RiscvInstructionsTrapsAndInterrupts := by
  unfold Obligations.RiscvInstructionsTrapsAndInterrupts
  refine ⟨fun core w s u x run fetch => ⟨fun code f3 => ?addi, fun code f3 f7 => ?add, fun code => ?lui, fun code => ?jal, fun code f3 => ?beq,
    fun word mode => ?mret⟩, fun vc w s u x run fetch kernel user => ⟨fun word => ?ecall, fun word => ?illegal⟩,
    fun vc core i s => ⟨fun pending going => ?interrupt, fun reached => ?timer, ?reservation⟩⟩
  case addi =>
    exact ⟨_, riscvInstruction_int run fetch code (by decide) (State.rvInt_addi code f3), State.setXr_retire_effect u _ _ _ rfl⟩
  case add =>
    exact ⟨_, riscvInstruction_int run fetch code (by decide) (State.rvInt_add code f3 f7), State.setXr_retire_effect u _ _ _ rfl⟩
  case lui =>
    exact ⟨_, riscvInstruction_int run fetch code (by decide) (State.rvInt_lui code), State.setXr_retire_effect u _ _ _ rfl⟩
  case jal =>
    exact ⟨_, riscvInstruction_int run fetch code (by decide) (State.rvInt_jal code), State.setXr_jump_effect u _ _ _ _ rfl⟩
  case beq =>
    exact ⟨_, riscvInstruction_int run fetch code (by decide) (State.rvInt_beq code f3), State.branch_effect u _ _ _ rfl⟩
  case mret =>
    subst word
    obtain ⟨t, does, effect⟩ := State.rvMret_effect u (rvKey core) mode
    exact ⟨t, riscvInstruction_mret run fetch does, effect⟩
  case ecall =>
    subst word
    have call := riscvInstruction_ecall (core := .vc vc) run fetch
    change exec _ s = .next (u.exception vc.val (ecallCause (u.rv vc.val).mode) 0) at call
    rw [user] at call
    exact ⟨_, call, State.exception_trapped u 8 0 vc.isLt, State.exception_ends u 8 0 vc.isLt user kernel⟩
  case illegal =>
    subst word
    have below : (u.rv vc.val).mode ≠ .machine := by rw [user]; decide
    exact ⟨_, riscvInstruction_mret_illegal (core := .vc vc) run fetch below, State.exception_trapped u 2 _ vc.isLt,
      State.exception_ends u 2 _ vc.isLt user kernel⟩
  case interrupt =>
    have taken := vcInterruptTake_traps pending going
    obtain ⟨trap, waits⟩ := State.takeTrap_trapped ((s.vcSettled vc.val).dropWaiters (fun w => w == .vc vc.val)) i true 0 vc.isLt
    obtain ⟨off, kept⟩ := trap.interruptsOff
    obtain ⟨⟨shape, others⟩, mode, pc, resv, epc, cause, -⟩ := trap
    refine ⟨_, taken, ?_, mode, waits, resv, epc, cause, pc, off, kept, others, fun j n => ?_⟩
    · generalize State.takeTrap _ _ _ _ _ = t at shape ⊢
      rw [shape]
      rfl
    · rw [State.syncOf_congr (congrArg State.sync shape)]
      exact State.vcSettled_val s _ j n
  case timer =>
    obtain ⟨only, rest, mip, csrs⟩ := State.setMip_effect s (rvKey core) 7 true rfl
    refine ⟨_, congrArg Host.Outcome.next (if_pos (decide_eq_true reached)), only, rest, ?_, csrs⟩
    rw [mip]
    exact setFld_getLsbD _ 7 1 _ 7 (by decide)
  case reservation => exact ⟨_, rfl, onlyRiscv_updRv s _ _, State.updRv_rv_same _ _ _⟩
end

section
/-! What no command does: it leaves the commands that wait behind it, opens no guard but its own requester's, and keeps the canonical form
of every memory of bytes. One predicate says all three, and one lemma for each function of the model says that it keeps the predicate. -/

namespace Sys2Proof.Machine

/-! ### What is kept -/

/-- What a command is held to: the commands that wait behind it, the guards that may stand open, and whether the memories were in their
canonical form when it began. -/
structure Limits where
  queue : List Instr
  mayOpen : Requester × Nat → Prop
  wf : Prop

/-- A state within the limits. -/
structure Within (lim : Limits) (s : State) : Prop where
  queue : s.pending = lim.queue
  guards : ∀ g ∈ s.guards, lim.mayOpen g
  cells : lim.wf → Memory.wf s.hbm.cells = true
  jsram : lim.wf → Memory.wf s.jsram = true
  mcs : lim.wf → s.mcs.all (fun e => e.2.memWf) = true
  rvs : lim.wf → s.rvs.all (fun e => e.2.memWf) = true
  saved : lim.wf → s.parts.saved.all (fun x => x.memWf) = true

/-- A matrix core, a RISC-V core and a saved context whose memories are within the limits. -/
def McWithin (lim : Limits) (m : McState) : Prop := lim.wf → m.memWf = true
def RvWithin (lim : Limits) (r : RvState) : Prop := lim.wf → r.memWf = true
def CtxWithin (lim : Limits) (x : SavedCtx) : Prop := lim.wf → x.memWf = true

/-- The state, or the matrix core, that a result holds beside its other parts is within the limits. -/
def Via {α : Type} (part : α → State) (lim : Limits) (x : α) : Prop := Within lim (part x)
def McVia {α : Type} (part : α → McState) (lim : Limits) (x : α) : Prop := McWithin lim (part x)

/-! The states that a command, an attempt, a search or a step with a result answers are within the limits. -/

inductive ResWithin (lim : Limits) : Res → Prop
  | next {t : State} (h : Within lim t) : ResWithin lim (.next t)
  | fault {f : Fault} : ResWithin lim (.fault f)
  | refused {r : Refusal} : ResWithin lim (.refused r)

inductive OptWithin (lim : Limits) : Option State → Prop
  | none : OptWithin lim none
  | some {t : State} (h : Within lim t) : OptWithin lim (some t)

inductive OptResWithin (lim : Limits) : Option Res → Prop
  | none : OptResWithin lim none
  | some {r : Res} (h : ResWithin lim r) : OptResWithin lim (some r)

inductive OptPairWithin {α : Type} (lim : Limits) : Option (State × α) → Prop
  | none : OptPairWithin lim none
  | some {p : State × α} (h : Via Prod.fst lim p) : OptPairWithin lim (some p)

inductive SvcWithin {α : Type} (lim : Limits) : Svc α → Prop
  | ok {t : State} {a : α} (h : Within lim t) : SvcWithin lim (.ok t a)
  | miss {u : UnitId} {ctx va : Nat} {acc : Access} {x : Xl} : SvcWithin lim (.miss u ctx va acc x)
  | bad : SvcWithin lim .bad

inductive CmdWithin (lim : Limits) : CmdDo → Prop
  | done {t : State} {st x : Nat} (h : Within lim t) : CmdWithin lim (.done t st x)
  | hold {t : State} (h : Within lim t) : CmdWithin lim (.hold t)
  | run {t : State} (h : Within lim t) : CmdWithin lim (.run t)

inductive RecWithin (lim : Limits) : RecDo → Prop
  | wait {t : State} (h : Within lim t) : RecWithin lim (.wait t)
  | bad {t : State} (h : Within lim t) : RecWithin lim (.bad t)
  | bytes {t : State} {bs : List Byte} (h : Within lim t) : RecWithin lim (.bytes t bs)

inductive SyncWithin (lim : Limits) : SyncDo → Prop
  | hold {t : State} (h : Within lim t) : SyncWithin lim (.hold t)
  | fault {t : State} {code : Nat} (h : Within lim t) : SyncWithin lim (.fault t code)
  | done {t : State} (h : Within lim t) : SyncWithin lim (.done t)

inductive BarWithin (lim : Limits) : BarDo → Prop
  | ok {t : State} {bs : List Byte} {p : Bool} (h : Within lim t) : BarWithin lim (.ok t bs p)
  | bad {t : State} (h : Within lim t) : BarWithin lim (.bad t)
  | wait {t : State} {id : Word32} {va : Nat} (h : Within lim t) : BarWithin lim (.wait t id va)

inductive EnterWithin (lim : Limits) : BarOut → Prop
  | entered {t : State} (h : Within lim t) : EnterWithin lim (.entered t)
  | stalled : EnterWithin lim .stalled
  | error {cause : Nat} : EnterWithin lim (.error cause)

/-- The saved context that a search finds is within the limits. -/
def OptCtxWithin (lim : Limits) (o : Option SavedCtx) : Prop := ∀ x, o = some x → CtxWithin lim x

section
variable {lim : Limits} {s t : State}

/-! ### Rules for every state -/

theorem memWf_iff (s : State) : s.memWf = true ↔ Memory.wf s.hbm.cells = true ∧ Memory.wf s.jsram = true ∧
    s.mcs.all (fun e => e.2.memWf) = true ∧ s.rvs.all (fun e => e.2.memWf) = true ∧ s.parts.saved.all (fun x => x.memWf) = true := by
  simp only [State.memWf, Bool.and_eq_true, and_assoc]

/-- The state in which a command starts is within the limits that it sets. -/
theorem Within.start (s : State) {mayOpen : Requester × Nat → Prop} (hg : ∀ g ∈ s.guards, mayOpen g) :
    Within ⟨s.pending, mayOpen, s.memWf = true⟩ s := by
  refine ⟨rfl, hg, ?_, ?_, ?_, ?_, ?_⟩ <;> intro w <;> obtain ⟨cells, jsram, mcs, rvs, saved⟩ := (memWf_iff s).mp w <;> assumption

/-- Within the limits, every memory is in its canonical form. -/
theorem Within.memWf (h : Within lim s) (w : lim.wf) : s.memWf = true :=
  (memWf_iff s).mpr ⟨h.cells w, h.jsram w, h.mcs w, h.rvs w, h.saved w⟩

/-- A change of anything but the queue, the guards, the cores, the stacks, the bindings and the firmware's SRAM. -/
theorem Within.upd {freeCtr : Nat} {out : List Output} {mtime : Word} {regs regsSlow : SMap Word} {recentW : List (Requester × Nat)}
    {jsramBad : SMap Bool} {rooms : SMap RoomState} {mmu : MmuState} {dma : SMap DmaState} {sync : SyncState} {mesh : MeshState}
    {ports : SMap PortState} {fabric : FabricState} {reds : List RedState} {cellar : CellarState} {host : HostState}
    {service : ServiceState} {irq : IrqState} {power : PowerState} {recovery : RecoveryState} {mgmt : MgmtState} (h : Within lim s) :
    Within lim ⟨s.pending, freeCtr, out, mtime, regs, regsSlow, s.guards, recentW, s.jsram, jsramBad, s.mcs, s.rvs, rooms, s.hbm, mmu, dma,
      sync, mesh, ports, fabric, reds, cellar, host, s.parts, service, irq, power, recovery, mgmt⟩ :=
  ⟨h.queue, h.guards, h.cells, h.jsram, h.mcs, h.rvs, h.saved⟩

/-- A change that reaches the stacks' controllers too. -/
theorem Within.updHbm {freeCtr : Nat} {out : List Output} {mtime : Word} {regs regsSlow : SMap Word} {recentW : List (Requester × Nat)}
    {jsramBad : SMap Bool} {rooms : SMap RoomState} {mmu : MmuState} {dma : SMap DmaState} {sync : SyncState} {mesh : MeshState}
    {ports : SMap PortState} {fabric : FabricState} {reds : List RedState} {cellar : CellarState} {host : HostState}
    {service : ServiceState} {irq : IrqState} {power : PowerState} {recovery : RecoveryState} {mgmt : MgmtState}
    {written poison dieLocal : SMap Bool} {memQ : SMap (List MemReq)} {fills : SMap (List FillData)} (h : Within lim s) :
    Within lim ⟨s.pending, freeCtr, out, mtime, regs, regsSlow, s.guards, recentW, s.jsram, jsramBad, s.mcs, s.rvs, rooms,
      ⟨s.hbm.cells, written, poison, dieLocal, memQ, fills⟩, mmu, dma, sync, mesh, ports, fabric, reds, cellar, host, s.parts, service, irq,
      power, recovery, mgmt⟩ :=
  ⟨h.queue, h.guards, h.cells, h.jsram, h.mcs, h.rvs, h.saved⟩

/-- A change that reaches the bindings too. -/
theorem Within.updParts {freeCtr : Nat} {out : List Output} {mtime : Word} {regs regsSlow : SMap Word} {recentW : List (Requester × Nat)}
    {jsramBad : SMap Bool} {rooms : SMap RoomState} {mmu : MmuState} {dma : SMap DmaState} {sync : SyncState} {mesh : MeshState}
    {ports : SMap PortState} {fabric : FabricState} {reds : List RedState} {cellar : CellarState} {host : HostState}
    {service : ServiceState} {irq : IrqState} {power : PowerState} {recovery : RecoveryState} {mgmt : MgmtState}
    {cellOf granOf ringOf svcWeight : SMap Nat} {physwin : Option Nat} {resetWait partWait : List Nat} (h : Within lim s) :
    Within lim ⟨s.pending, freeCtr, out, mtime, regs, regsSlow, s.guards, recentW, s.jsram, jsramBad, s.mcs, s.rvs, rooms, s.hbm, mmu, dma,
      sync, mesh, ports, fabric, reds, cellar, host, ⟨cellOf, granOf, ringOf, svcWeight, physwin, s.parts.saved, resetWait, partWait⟩,
      service, irq, power, recovery, mgmt⟩ :=
  ⟨h.queue, h.guards, h.cells, h.jsram, h.mcs, h.rvs, h.saved⟩

theorem Within.ite {c : Prop} [Decidable c] {x y : State} (hx : Within lim x) (hy : Within lim y) :
    Within lim (if c then x else y) := by
  split <;> assumption

theorem ResWithin.ite {c : Prop} [Decidable c] {x y : Res} (hx : ResWithin lim x) (hy : ResWithin lim y) :
    ResWithin lim (if c then x else y) := by
  split <;> assumption

theorem OptWithin.ite {c : Prop} [Decidable c] {x y : Option State} (hx : OptWithin lim x) (hy : OptWithin lim y) :
    OptWithin lim (if c then x else y) := by
  split <;> assumption

theorem McWithin.ite {c : Prop} [Decidable c] {x y : McState} (hx : McWithin lim x) (hy : McWithin lim y) :
    McWithin lim (if c then x else y) := by
  split <;> assumption

theorem RvWithin.ite {c : Prop} [Decidable c] {x y : RvState} (hx : RvWithin lim x) (hy : RvWithin lim y) :
    RvWithin lim (if c then x else y) := by
  split <;> assumption

theorem CtxWithin.ite {c : Prop} [Decidable c] {x y : SavedCtx} (hx : CtxWithin lim x) (hy : CtxWithin lim y) :
    CtxWithin lim (if c then x else y) := by
  split <;> assumption

theorem CmdWithin.ite {c : Prop} [Decidable c] {x y : CmdDo} (hx : CmdWithin lim x) (hy : CmdWithin lim y) :
    CmdWithin lim (if c then x else y) := by
  split <;> assumption

theorem SyncWithin.ite {c : Prop} [Decidable c] {x y : SyncDo} (hx : SyncWithin lim x) (hy : SyncWithin lim y) :
    SyncWithin lim (if c then x else y) := by
  split <;> assumption

theorem RecWithin.ite {c : Prop} [Decidable c] {x y : RecDo} (hx : RecWithin lim x) (hy : RecWithin lim y) :
    RecWithin lim (if c then x else y) := by
  split <;> assumption

theorem BarWithin.ite {c : Prop} [Decidable c] {x y : BarDo} (hx : BarWithin lim x) (hy : BarWithin lim y) :
    BarWithin lim (if c then x else y) := by
  split <;> assumption

theorem EnterWithin.ite {c : Prop} [Decidable c] {x y : BarOut} (hx : EnterWithin lim x) (hy : EnterWithin lim y) :
    EnterWithin lim (if c then x else y) := by
  split <;> assumption

theorem OptResWithin.ite {c : Prop} [Decidable c] {x y : Option Res} (hx : OptResWithin lim x) (hy : OptResWithin lim y) :
    OptResWithin lim (if c then x else y) := by
  split <;> assumption

theorem OptPairWithin.ite {α : Type} {c : Prop} [Decidable c] {x y : Option (State × α)} (hx : OptPairWithin lim x)
    (hy : OptPairWithin lim y) : OptPairWithin lim (if c then x else y) := by
  split <;> assumption

theorem SvcWithin.ite {α : Type} {c : Prop} [Decidable c] {x y : Svc α} (hx : SvcWithin lim x) (hy : SvcWithin lim y) :
    SvcWithin lim (if c then x else y) := by
  split <;> assumption

theorem Via.ite {α : Type} {part : α → State} {c : Prop} [Decidable c] {x y : α} (hx : Via part lim x) (hy : Via part lim y) :
    Via part lim (if c then x else y) := by
  split <;> assumption

/-- Steps for each of a list. -/
theorem Within.each {α : Type} {f : State → α → State} (hf : ∀ s a, Within lim s → Within lim (f s a)) {l : List α} {s : State}
    (h : Within lim s) : Within lim (forEach l s f) := by
  induction l generalizing s with
  | nil => exact h
  | cons a r ih => exact ih (hf s a h)

theorem McWithin.each {α : Type} {f : McState → α → McState} (hf : ∀ m a, McWithin lim m → McWithin lim (f m a)) {l : List α} {m : McState}
    (h : McWithin lim m) : McWithin lim (forEach l m f) := by
  induction l generalizing m with
  | nil => exact h
  | cons a r ih => exact ih (hf m a h)

theorem RvWithin.each {α : Type} {f : RvState → α → RvState} (hf : ∀ m a, RvWithin lim m → RvWithin lim (f m a)) {l : List α} {m : RvState}
    (h : RvWithin lim m) : RvWithin lim (forEach l m f) := by
  induction l generalizing m with
  | nil => exact h
  | cons a r ih => exact ih (hf m a h)

theorem Via.each {α β : Type} {part : β → State} {f : β → α → β} (hf : ∀ x a, Via part lim x → Via part lim (f x a)) {l : List α} {x : β}
    (h : Via part lim x) : Via part lim (forEach l x f) := by
  induction l generalizing x with
  | nil => exact h
  | cons a r ih => exact ih (hf x a h)

theorem McVia.each {α β : Type} {part : β → McState} {f : β → α → β} (hf : ∀ x a, McVia part lim x → McVia part lim (f x a)) {l : List α}
    {x : β} (h : McVia part lim x) : McVia part lim (forEach l x f) := by
  induction l generalizing x with
  | nil => exact h
  | cons a r ih => exact ih (hf x a h)

theorem ResWithin.when {c : Bool} {f : State → State} (hf : ∀ t, Within lim t → Within lim (f t)) (h : Within lim s) :
    ResWithin lim (when c f s) :=
  .next (.ite (hf s h) h)

theorem OptWithin.map {α : Type} {f : α → State} {o : Option α} (hf : ∀ a, Within lim (f a)) : OptWithin lim (o.map f) := by
  cases o with
  | none => exact .none
  | some a => exact .some (hf a)

theorem OptWithin.bind {α : Type} {f : α → Option State} {o : Option α} (hf : ∀ a, OptWithin lim (f a)) : OptWithin lim (o.bind f) := by
  cases o with
  | none => exact .none
  | some a => exact hf a

theorem OptWithin.findSome {α : Type} {f : α → Option State} (hf : ∀ a, OptWithin lim (f a)) (l : List α) :
    OptWithin lim (l.findSome? f) := by
  induction l with
  | nil => exact .none
  | cons a r ih =>
    rw [List.findSome?_cons]
    split
    · next t e => exact e ▸ hf a
    · exact ih

theorem ResWithin.getD {o : Option Res} {r : Res} (ho : OptResWithin lim o) (hr : ResWithin lim r) : ResWithin lim (o.getD r) := by
  cases ho with
  | none => exact hr
  | some ht => exact ht

/-- Work in two parts: the second goes on from what the first leaves. -/
theorem SvcWithin.andThen {α β : Type} {x : Svc α} {f : State → α → Svc β} (hx : SvcWithin lim x)
    (hf : ∀ t a, Within lim t → SvcWithin lim (f t a)) : SvcWithin lim (x.andThen f) := by
  cases hx with
  | ok h => exact hf _ _ h
  | miss => exact .miss
  | bad => exact .bad

theorem SvcWithin.andThenDone {α β : Type} {x : Svc α} {f : State → α → Svc β} {Q : State → β → Prop} (hx : SvcWithin lim x)
    (hf : ∀ t a, Within lim t → (f t a).Done Q) : (x.andThen f).Done Q := by
  cases hx with
  | ok h => exact hf _ _ h
  | miss => exact fun _ _ e => nomatch e
  | bad => exact done_bad _

/-! A result, by the state that it holds. -/

theorem Via.pair {α : Type} {a : α} (h : Within lim s) : Via Prod.fst lim (s, a) := h
theorem Via.lineRes {data : List Byte} {p : Bool} (h : Within lim s) : Via LineRes.st lim ⟨s, data, p⟩ := h
theorem Via.amoRes {old : Nat} {p : Bool} (h : Within lim s) : Via AmoRes.st lim ⟨s, old, p⟩ := h
theorem Via.ticketRes {n : Nat} {dup p : Bool} (h : Within lim s) : Via TicketRes.st lim ⟨s, n, dup, p⟩ := h
theorem Via.runRes {segs : List Seg} {bad : Option (Nat × Xl)} (h : Within lim s) : Via RunRes.st lim ⟨s, segs, bad⟩ := h
theorem Via.accRes {o : AccOut} (h : Within lim s) : Via AccRes.st lim ⟨s, o⟩ := h
theorem Via.got {bs : List (Byte × Bool)} {held : Option Word32} (h : Within lim s) : Via Got.st lim ⟨s, bs, held⟩ := h
theorem Via.rowRes {held : Option Word32} {code : Nat} {p : Bool} {outs : List (Int × List (Byte × Bool))} (h : Within lim s) :
    Via RowRes.st lim ⟨s, held, code, p, outs⟩ := h
theorem Via.vRun {bad : Option (Nat × MOut)} (h : Within lim s) : Via VRun.st lim ⟨s, bad⟩ := h
theorem McVia.moveRes {m : McState} {fl : AFlags} (h : McWithin lim m) : McVia MoveRes.m lim ⟨m, fl⟩ := h
theorem McVia.rowsRes {m : McState} {fl : AFlags} {sats : Nat} (h : McWithin lim m) : McVia RowsRes.m lim ⟨m, fl, sats⟩ := h

/-! The state that an answer holds, once its form is known. -/

theorem OptWithin.ofSome {o : Option State} (h : OptWithin lim o) (e : o = .some t) : Within lim t := by
  subst e; cases h; assumption
theorem OptPairWithin.ofSome {α : Type} {o : Option (State × α)} {p : State × α} (h : OptPairWithin lim o) (e : o = .some p) :
    Via Prod.fst lim p := by
  subst e; cases h; assumption
theorem ResWithin.ofNext {r : Res} (h : ResWithin lim r) (e : r = .next t) : Within lim t := by
  subst e; cases h; assumption
theorem SvcWithin.ofOk {α : Type} {r : Svc α} {a : α} (h : SvcWithin lim r) (e : r = .ok t a) : Within lim t := by
  subst e; cases h; assumption
theorem CmdWithin.ofDone {r : CmdDo} {st x : Nat} (h : CmdWithin lim r) (e : r = .done t st x) : Within lim t := by
  subst e; cases h; assumption
theorem CmdWithin.ofHold {r : CmdDo} (h : CmdWithin lim r) (e : r = .hold t) : Within lim t := by
  subst e; cases h; assumption
theorem CmdWithin.ofRun {r : CmdDo} (h : CmdWithin lim r) (e : r = .run t) : Within lim t := by
  subst e; cases h; assumption
theorem RecWithin.ofWait {r : RecDo} (h : RecWithin lim r) (e : r = .wait t) : Within lim t := by
  subst e; cases h; assumption
theorem RecWithin.ofBad {r : RecDo} (h : RecWithin lim r) (e : r = .bad t) : Within lim t := by
  subst e; cases h; assumption
theorem RecWithin.ofBytes {r : RecDo} {bs : List Byte} (h : RecWithin lim r) (e : r = .bytes t bs) : Within lim t := by
  subst e; cases h; assumption
theorem SyncWithin.ofHold {r : SyncDo} (h : SyncWithin lim r) (e : r = .hold t) : Within lim t := by
  subst e; cases h; assumption
theorem SyncWithin.ofFault {r : SyncDo} {code : Nat} (h : SyncWithin lim r) (e : r = .fault t code) : Within lim t := by
  subst e; cases h; assumption
theorem SyncWithin.ofDone {r : SyncDo} (h : SyncWithin lim r) (e : r = .done t) : Within lim t := by
  subst e; cases h; assumption
theorem BarWithin.ofOk {r : BarDo} {bs : List Byte} {p : Bool} (h : BarWithin lim r) (e : r = .ok t bs p) : Within lim t := by
  subst e; cases h; assumption
theorem BarWithin.ofBad {r : BarDo} (h : BarWithin lim r) (e : r = .bad t) : Within lim t := by
  subst e; cases h; assumption
theorem BarWithin.ofWait {r : BarDo} {id : Word32} {va : Nat} (h : BarWithin lim r) (e : r = .wait t id va) : Within lim t := by
  subst e; cases h; assumption
theorem EnterWithin.ofEntered {r : BarOut} (h : EnterWithin lim r) (e : r = .entered t) : Within lim t := by
  subst e; cases h; assumption
theorem OptCtxWithin.ofSome {o : Option SavedCtx} {x : SavedCtx} (h : OptCtxWithin lim o) (e : o = .some x) : CtxWithin lim x := h x e

/-- A change that leaves the queue and the guards, and each memory in its form. -/
theorem Within.via (h : Within lim s) (queue : t.pending = s.pending) (guards : t.guards = s.guards)
    (form : s.memWf = true → t.memWf = true) : Within lim t := by
  have start := Within.start t (mayOpen := lim.mayOpen) (guards ▸ h.guards)
  have wf (w : lim.wf) : t.memWf = true := form (h.memWf w)
  exact ⟨queue.trans h.queue, start.guards, fun w => start.cells (wf w), fun w => start.jsram (wf w), fun w => start.mcs (wf w),
    fun w => start.rvs (wf w), fun w => start.saved (wf w)⟩

/-- An access to memory keeps the limits. -/
theorem Within.mem (h : Within lim s) (m : MemStep s t) : Within lim t := h.via m.pending m.guards m.2
theorem Within.va (h : Within lim s) (m : VaStep s t) : Within lim t := h.via m.pending m.guards m.2

/-! ### Cores and contexts -/

theorem McWithin.mc (h : Within lim s) {n : Nat} : McWithin lim (s.mc n) :=
  fun w => mget_all ({} : McState) s.mcs n McState.memWf rfl (h.mcs w)

theorem RvWithin.rv (h : Within lim s) {n : Nat} : RvWithin lim (s.rv n) :=
  fun w => mget_all ({} : RvState) s.rvs n RvState.memWf rfl (h.rvs w)

/-- A change of anything but the memories of a core. -/
theorem McWithin.upd {m : McState} {launched : Bool} {cfg : SMap (Option TileCfg)} {acc : SMap Word32} {zero tag : SMap Bool}
    {g : SMap Word} {loops : SMap Word32} {seed : Word} {stream : BitVec 16} {swapKey : Bool} {orgRow orgCol : Word32}
    {mask : GradMask} {maskLoads : Nat} {ended : Bool} {ctx : Nat} {halted pcOut : Bool} {fetchHeld : Option Word32} {ops : List TileOp}
    {nextOp : Nat} {jobs : List MmaJob} {passes : List ArrayPass} {lds : Option LdsState} {guard stopped : Bool}
    {badScratch badTiles badAcc : SMap Bool} (h : McWithin lim m) :
    McWithin lim ⟨launched, m.scratch, m.tiles, cfg, acc, zero, tag, m.tabFwd, m.tabDer, g, loops, seed, stream, swapKey, orgRow, orgCol,
      mask, maskLoads, ended, ctx, halted, pcOut, fetchHeld, ops, nextOp, jobs, passes, lds, guard, stopped, badScratch, badTiles,
      badAcc⟩ :=
  h

theorem RvWithin.upd {r : RvState} {pc : Word} {x f csr : SMap Word} {mode : Mode} {resv : Option Nat} {resvScratch : Bool}
    {badScratch : SMap Bool} {mtimecmp : Word} {waiting launched ended stopped : Bool} {ctx : Nat} {held : Option (Word32 × Nat × Nat)}
    {endCause : Option Nat} (h : RvWithin lim r) :
    RvWithin lim ⟨pc, x, f, r.v, csr, mode, resv, resvScratch, r.scratch, badScratch, mtimecmp, waiting, launched, ended, stopped, ctx,
      held, endCause⟩ :=
  h

theorem Within.setMc (h : Within lim s) {n : Nat} {m : McState} (hm : McWithin lim m) : Within lim (s.setMc n m) :=
  ⟨h.queue, h.guards, h.cells, h.jsram, fun w => all_mset _ _ _ _ _ (hm w) (h.mcs w), h.rvs, h.saved⟩

theorem Within.setRv (h : Within lim s) {n : Nat} {r : RvState} (hr : RvWithin lim r) : Within lim (s.setRv n r) :=
  ⟨h.queue, h.guards, h.cells, h.jsram, h.mcs, fun w => all_mset _ _ _ _ _ (hr w) (h.rvs w), h.saved⟩

theorem Within.updMc (h : Within lim s) {n : Nat} {f : McState → McState} (hf : ∀ m, McWithin lim m → McWithin lim (f m)) :
    Within lim (s.updMc n f) :=
  h.setMc (hf _ (.mc h))

theorem Within.updRv (h : Within lim s) {n : Nat} {f : RvState → RvState} (hf : ∀ r, RvWithin lim r → RvWithin lim (f r)) :
    Within lim (s.updRv n f) :=
  h.setRv (hf _ (.rv h))

theorem CtxWithin.ofMem (h : Within lim s) {x : SavedCtx} (hx : x ∈ s.parts.saved) : CtxWithin lim x :=
  fun w => List.all_eq_true.mp (h.saved w) x hx

/-- A change of anything but the cores of a saved context. -/
theorem CtxWithin.upd {x : SavedCtx} {cell part : Nat} {pool : Bool} {need done : List Nat} {dma : DmaState}
    {sync : SMap SyncCore} {regs : SMap Word} (h : CtxWithin lim x) :
    CtxWithin lim ⟨cell, part, pool, need, x.mcs, x.vc, dma, sync, regs, done⟩ :=
  h

theorem ctxMemWf_iff (x : SavedCtx) : x.memWf = true ↔ x.mcs.all (fun e => e.2.memWf) = true ∧ x.vc.memWf = true :=
  Bool.and_eq_true _ _ ▸ Iff.rfl

theorem CtxWithin.vc {x : SavedCtx} (h : CtxWithin lim x) : RvWithin lim x.vc := fun w => ((ctxMemWf_iff x).mp (h w)).2

theorem CtxWithin.mc {x : SavedCtx} (h : CtxWithin lim x) {u : Nat} : McWithin lim (mget {} x.mcs u) :=
  fun w => mget_all ({} : McState) x.mcs u McState.memWf rfl ((ctxMemWf_iff x).mp (h w)).1

theorem CtxWithin.setMc {x : SavedCtx} (h : CtxWithin lim x) {u : Nat} {m : McState} (hm : McWithin lim m) :
    CtxWithin lim { x with mcs := mset {} x.mcs u m } := by
  intro w
  obtain ⟨mcs, vc⟩ := (ctxMemWf_iff x).mp (h w)
  exact (ctxMemWf_iff _).mpr ⟨all_mset _ _ _ _ _ (hm w) mcs, vc⟩

theorem CtxWithin.setVc {x : SavedCtx} (h : CtxWithin lim x) {r : RvState} (hr : RvWithin lim r) : CtxWithin lim { x with vc := r } :=
  fun w => (ctxMemWf_iff _).mpr ⟨((ctxMemWf_iff x).mp (h w)).1, hr w⟩

/-- A change of the bindings and the saved contexts. -/
theorem Within.withParts (h : Within lim s) {parts : PartState} (hx : ∀ x ∈ parts.saved, CtxWithin lim x) :
    Within lim { s with parts := parts } :=
  ⟨h.queue, h.guards, h.cells, h.jsram, h.mcs, h.rvs, fun w => List.all_eq_true.mpr fun x m => hx x m w⟩

/-- A write of the firmware's SRAM. -/
theorem Within.writeSram (h : Within lim s) {o n x : Nat} {bad : SMap Bool} :
    Within lim { s with jsram := writeLE s.jsram o n x, jsramBad := bad } :=
  ⟨h.queue, h.guards, h.cells, fun w => wf_writeBytes _ _ _ (h.jsram w), h.mcs, h.rvs, h.saved⟩

/-- Saved contexts dropped. -/
theorem Within.dropContexts (h : Within lim s) {p : SavedCtx → Bool} :
    Within lim { s with parts := { s.parts with saved := s.parts.saved.filter p } } :=
  h.withParts fun _ hx => .ofMem h (List.mem_of_mem_filter hx)

/-- Guards closed. -/
theorem Within.closeGuards (h : Within lim s) {p : Requester × Nat → Bool} : Within lim { s with guards := s.guards.filter p } :=
  ⟨h.queue, fun g m => h.guards g (List.mem_of_mem_filter m), h.cells, h.jsram, h.mcs, h.rvs, h.saved⟩

/-! ### Writes of a core's memories -/

theorem mcMemWf_iff (m : McState) : m.memWf = true ↔
    Memory.wf m.scratch = true ∧ Memory.wf m.tiles = true ∧ Memory.wf m.tabFwd = true ∧ Memory.wf m.tabDer = true := by
  simp only [McState.memWf, Bool.and_eq_true, and_assoc]

theorem McWithin.putTile {m : McState} {t off : Nat} {bs : List Byte} (hm : McWithin lim m) : McWithin lim (m.putTile t off bs) := by
  intro w
  obtain ⟨scratch, tiles, tabs⟩ := (mcMemWf_iff m).mp (hm w)
  exact (mcMemWf_iff _).mpr ⟨scratch, wf_writeBytes _ _ _ tiles, tabs⟩

theorem McWithin.scrPut {m : McState} {a : Nat} {bs : List Byte} (hm : McWithin lim m) : McWithin lim (m.scrPut a bs) := by
  intro w
  obtain ⟨scratch, rest⟩ := (mcMemWf_iff m).mp (hm w)
  exact (mcMemWf_iff _).mpr ⟨wf_writeBytes _ _ _ (wf_writeBytes _ _ _ scratch), rest⟩

theorem McWithin.setTabFwd {m : McState} {a : Nat} {bs : List Byte} (hm : McWithin lim m) :
    McWithin lim { m with tabFwd := writeBytes m.tabFwd a bs } := by
  intro w
  obtain ⟨scratch, tiles, fwd, der⟩ := (mcMemWf_iff m).mp (hm w)
  exact (mcMemWf_iff _).mpr ⟨scratch, tiles, wf_writeBytes _ _ _ fwd, der⟩

theorem McWithin.setTabDer {m : McState} {a : Nat} {bs : List Byte} (hm : McWithin lim m) :
    McWithin lim { m with tabDer := writeBytes m.tabDer a bs } := by
  intro w
  obtain ⟨scratch, tiles, fwd, der⟩ := (mcMemWf_iff m).mp (hm w)
  exact (mcMemWf_iff _).mpr ⟨scratch, tiles, fwd, wf_writeBytes _ _ _ der⟩

theorem rvMemWf_iff (r : RvState) : r.memWf = true ↔ Memory.wf r.scratch = true ∧ Memory.wf r.v = true :=
  Bool.and_eq_true _ _ ▸ Iff.rfl

theorem RvWithin.scrPut {r : RvState} {a : Nat} {bs : List Byte} (hr : RvWithin lim r) : RvWithin lim (r.scrPut a bs) := by
  intro w
  obtain ⟨scratch, v⟩ := (rvMemWf_iff r).mp (hr w)
  exact (rvMemWf_iff _).mpr ⟨wf_writeBytes _ _ _ scratch, v⟩

theorem RvWithin.setV {r : RvState} {a : Nat} {bs : List Byte} (hr : RvWithin lim r) :
    RvWithin lim { r with v := writeBytes r.v a bs } := by
  intro w
  obtain ⟨scratch, v⟩ := (rvMemWf_iff r).mp (hr w)
  exact (rvMemWf_iff _).mpr ⟨scratch, wf_writeBytes _ _ _ v⟩

theorem RvWithin.setVEl {r : RvState} {v w i x : Nat} (hr : RvWithin lim r) : RvWithin lim (r.setVEl v w i x) := hr.setV

theorem RvWithin.setVBit {r : RvState} {v i : Nat} {b : Bool} (hr : RvWithin lim r) : RvWithin lim (r.setVBit v i b) := hr.setV

end

end Sys2Proof.Machine
end

section
/-! Registers, fields and the units of the state: what each function leaves (Machine/Access). -/

namespace Sys2Proof.Machine

variable {lim : Limits} {s : State}

theorem Within.setReg {k : Nat} {v : Word} (hs : Within lim s) : Within lim (s.setReg k v) :=
  .upd hs

theorem Within.putF {f : RF} {x : Nat} (hs : Within lim s) : Within lim (s.putF f x) :=
  .setReg hs

theorem Within.addF {f : RF} {x : Nat} (hs : Within lim s) : Within lim (s.addF f x) :=
  .putF hs

theorem Within.putB {f : RF} {b : Bool} (hs : Within lim s) : Within lim (s.putB f b) :=
  .putF hs

theorem Within.resetReg {k : Nat} (hs : Within lim s) : Within lim (s.resetReg k) :=
  .upd hs

theorem Within.resetRegs {p : Nat → Bool} (hs : Within lim s) : Within lim (s.resetRegs p) :=
  .upd hs

theorem Within.tickFree (hs : Within lim s) : Within lim s.tickFree :=
  .upd hs

theorem Within.emit {o : Output} (hs : Within lim s) : Within lim (s.emit o) :=
  .upd hs

theorem Within.setRoom {c : Nat} {r : RoomState} (hs : Within lim s) : Within lim (s.setRoom c r) :=
  .upd hs

theorem Within.setDma {c : Nat} {d : DmaState} (hs : Within lim s) : Within lim (s.setDma c d) :=
  .upd hs

theorem Within.setDmaQ {c q : Nat} {l : List DescState} (hs : Within lim s) : Within lim (s.setDmaQ c q l) :=
  .setDma hs

theorem Within.setSync {k : Nat} {x : SyncCore} (hs : Within lim s) : Within lim (s.setSync k x) :=
  .upd hs

theorem Within.setPort {n : Nat} {p : PortState} (hs : Within lim s) : Within lim (s.setPort n p) :=
  .upd hs

theorem Within.updPort {n : Nat} {f : PortState → PortState} (hs : Within lim s) : Within lim (s.updPort n f) :=
  .setPort hs

theorem Within.setCe {n : Nat} {e : CeState} (hs : Within lim s) : Within lim (s.setCe n e) :=
  .upd hs

theorem Within.setEvts {p : Nat} {e : PartEvents} (hs : Within lim s) : Within lim (s.setEvts p e) :=
  .upd hs

end Sys2Proof.Machine
end

section
/-! Flags and counts: what each function leaves (Machine/Raise). -/

namespace Sys2Proof.Machine

variable {lim : Limits} {s : State}

theorem Within.countSet {ctl src : Nat} (hs : Within lim s) : Within lim (s.countSet ctl src) :=
  .upd hs

theorem Within.raiseAt {h : FlagHome} (hs : Within lim s) : Within lim (s.raiseAt h) :=
  .countSet (.putF (.putF hs))

theorem Within.raiseD {d b : Nat} (hs : Within lim s) : Within lim (s.raiseD d b) :=
  .raiseAt hs

theorem Within.raiseC {c b : Nat} (hs : Within lim s) : Within lim (s.raiseC c b) :=
  .raiseAt hs

theorem Within.raiseM {b : Nat} (hs : Within lim s) : Within lim (s.raiseM b) :=
  .raiseAt hs

theorem Within.raiseP {n b : Nat} (hs : Within lim s) : Within lim (s.raiseP n b) :=
  .raiseAt hs

theorem Within.countRegErr {lo off : Nat} {pf : Bool} (hs : Within lim s) : Within lim (s.countRegErr lo off pf) :=
  .putF (.putB (.putF (.addF hs)))

theorem Within.refuse {off : Nat} {pf : Bool} (hs : Within lim s) : Within lim (s.refuse off pf) :=
  .countRegErr hs

theorem Within.badKey {off : Nat} {pf : Bool} (hs : Within lim s) : Within lim (s.badKey off pf) :=
  .countRegErr hs

end Sys2Proof.Machine
end

section
/-! Store rooms, controllers and atomics: what each function leaves (Machine/Memory). -/

namespace Sys2Proof.Machine

variable {lim : Limits} {s : State}

theorem Within.ctlWrite {line : Nat} {data : List Byte} {en : BitVec 128} {p : Bool} (hs : Within lim s) :
    Within lim (s.ctlWrite line data en p) :=
  hs.mem (memStep_ctlWrite ..)

theorem Within.toCtl {r : MemReq} (hs : Within lim s) : Within lim (s.toCtl r) :=
  hs.mem (memStep_toCtl ..)

theorem Within.ctlServe {st : Nat} (hs : Within lim s) : Within lim (s.ctlServe st) :=
  hs.mem (memStep_ctlServe ..)

theorem Within.touch {line way : Nat} (hs : Within lim s) : Within lim (s.touch line way) :=
  hs.mem (memStep_touch ..)

theorem Within.install {part : Nat} {l : RoomLine} (hs : Within lim s) : Within lim (s.install part l) :=
  hs.mem (memStep_install ..)

theorem Within.putLine {l : RoomLine} (hs : Within lim s) : Within lim (s.putLine l) :=
  hs.mem (memStep_putLine ..)

theorem Within.breakResv {line who : Nat} (hs : Within lim s) : Within lim (s.breakResv line who) :=
  hs.mem (memStep_breakResv ..)

theorem Within.answerMem {q : RoomReq} {data : List Byte} {poison : Bool} (hs : Within lim s) : Within lim (s.answerMem q data poison) :=
  hs.mem (memStep_answerMem ..)

theorem Within.fillOne {st : Nat} (hs : Within lim s) : Within lim (s.fillOne st) :=
  hs.mem (memStep_fillOne ..)

theorem Via.physRead {part pa n : Nat} (hs : Within lim s) : Via LineRes.st lim (s.physRead part pa n) :=
  hs.mem (memStep_physRead ..)

theorem Within.physWrite {part who pa : Nat} {bs : List Byte} (hs : Within lim s) : Within lim (s.physWrite part who pa bs) :=
  hs.mem (memStep_physWrite ..)

theorem Within.rangeRoom {k : RangeKind} {first count c : Nat} (hs : Within lim s) : Within lim (s.rangeRoom k first count c) :=
  hs.mem (memStep_rangeRoom ..)

theorem Within.rangeOp {k : RangeKind} {first count : Nat} {die : Nat → Bool} (hs : Within lim s) :
    Within lim (s.rangeOp k first count die) :=
  hs.mem (memStep_rangeOp ..)

theorem Within.srmStart {d : Nat} {k : RangeKind} (hs : Within lim s) : Within lim (s.srmStart d k) :=
  .ite hs (.putF (.rangeOp hs))

theorem Within.releaseGib {g : Nat} (hs : Within lim s) : Within lim (s.releaseGib g) :=
  hs.mem (memStep_releaseGib ..)

theorem Via.amoAt {core part : Nat} {op : AmoOp} {w pa x : Nat} (hs : Within lim s) : Via AmoRes.st lim (s.amoAt core part op w pa x) :=
  hs.mem (memStep_amoAt ..)

theorem Via.ledgerOffer {part pa : Nat} {who : CoreName} {t : Nat} (hs : Within lim s) : Via Prod.fst lim (s.ledgerOffer part pa who t) :=
  .ite (.pair (.physWrite (Via.physRead hs))) (.ite (.pair (Via.physRead hs)) (.pair (.raiseD (.ite (.physWrite (Via.physRead hs))
      (.physWrite (.physWrite (Via.physRead hs)))))))

theorem Via.wcClaim {part pa n : Nat} {who : Option CoreName} (hs : Within lim s) : Via TicketRes.st lim (s.wcClaim part pa n who) := by
  refine .ite (.ticketRes (Via.physRead hs)) ?_
  split
  · exact .ticketRes (.physWrite (Via.physRead hs))
  · exact .ticketRes (Via.each (fun _ _ h => .pair (Via.ledgerOffer h)) (.pair (.physWrite (Via.physRead hs))))

theorem Via.wcPresent {part pa t : Nat} {who : Option CoreName} (hs : Within lim s) :
    Via TicketRes.st lim (s.wcPresent part pa t who) := by
  refine .ite (.ticketRes (Via.physRead hs)) ?_
  split
  · exact .ticketRes (Via.physRead hs)
  · exact .ite (.ticketRes (Via.physRead hs)) (.ite (.ticketRes (Via.physRead hs)) (.ticketRes (Via.ledgerOffer (Via.physRead hs))))

end Sys2Proof.Machine
end

section
/-! Translation: what each function leaves (Machine/Mmu). -/

namespace Sys2Proof.Machine

variable {lim : Limits} {s : State}

theorem Via.translate {u : UnitId} {ctx part va : Nat} {acc : Access} (hs : Within lim s) :
    Via XlRes.st lim (s.translate u ctx part va acc) :=
  hs.va (vaStep_translate ..)

theorem Via.openFault {u : UnitId} {ctx part va : Nat} {acc : Access} {x : Xl} {w : Option Waiter} (hs : Within lim s) :
    Via Prod.fst lim (s.openFault u ctx part va acc x w) :=
  hs.va (vaStep_openFault ..)

theorem Via.xlRun {u : UnitId} {ctx part va n : Nat} {acc : Access} (hs : Within lim s) :
    Via RunRes.st lim (s.xlRun u ctx part va n acc) :=
  hs.va (vaStep_xlRun ..)

theorem Via.freeBytes {n : Nat} (hs : Within lim s) : Via Prod.fst lim (s.freeBytes n) :=
  hs.va (vaStep_freeBytes ..)

theorem Via.readSegs {part : Nat} {l : List Seg} (hs : Within lim s) : Via LineRes.st lim (s.readSegs part l) :=
  hs.va (vaStep_readSegs ..)

theorem Within.writeSegs {part who : Nat} {l : List Seg} {bs : List Byte} (hs : Within lim s) : Within lim (s.writeSegs part who l bs) :=
  hs.mem (memStep_writeSegs ..)

theorem Within.poisonSegs {part who : Nat} {l : List Seg} (hs : Within lim s) : Within lim (s.poisonSegs part who l) :=
  hs.mem (memStep_poisonSegs ..)

theorem Via.vRead {u : UnitId} {ctx part va n : Nat} {acc : Access} {w : Option Waiter} (hs : Within lim s) :
    Via AccRes.st lim (s.vRead u ctx part va n acc w) :=
  hs.va (vaStep_vRead ..)

theorem Via.vWrite {u : UnitId} {ctx part va : Nat} {bs : List Byte} {who : Nat} {w : Option Waiter} (hs : Within lim s) :
    Via AccRes.st lim (s.vWrite u ctx part va bs who w) :=
  hs.va (vaStep_vWrite ..)

theorem Within.dropCached {q : InvReq} (hs : Within lim s) : Within lim (s.dropCached q) :=
  .upd hs

theorem Within.queueInv {q : InvReq} (hs : Within lim s) : Within lim (s.queueInv q) :=
  .upd hs

theorem Within.mmuInvGo {scope off : Nat} {pf : Bool} (hs : Within lim s) : Within lim (s.mmuInvGo scope off pf) :=
  .ite (.putF (.queueInv hs)) (.ite (.putF (.queueInv hs)) (.ite (.ite (.putF hs) (.putF (.queueInv hs))) (.refuse hs)))

end Sys2Proof.Machine
end

section
/-! Operands of the matrix cores: what each function leaves (Machine/Operands). -/

namespace Sys2Proof.Machine

variable {lim : Limits} {s : State}

theorem McWithin.putRow {m : McState} {t : Nat} {c : TileCfg} {i : Nat} {r : RunConv} (hm : McWithin lim m) :
    McWithin lim (m.putRow t c i r) :=
  .ite (.putTile (.putTile hm)) (.putTile hm)

theorem McWithin.putAcc {m : McState} {t i j v : Nat} (hm : McWithin lim m) : McWithin lim (m.putAcc t i j v) :=
  .upd (.ite (.upd hm) hm)

theorem McWithin.putAccRow {m : McState} {t i j : Nat} {vs : List Nat} (hm : McWithin lim m) : McWithin lim (m.putAccRow t i j vs) := by
  induction vs generalizing m j with
  | nil => exact hm
  | cons v r ih => exact ih (.putAcc hm)

theorem McWithin.clearAcc {m : McState} {t : Nat} {int : Bool} (hm : McWithin lim m) : McWithin lim (m.clearAcc t int) :=
  .upd hm

theorem McWithin.clearAccs {m : McState} {t n : Nat} {int : Bool} (hm : McWithin lim m) : McWithin lim (m.clearAccs t n int) :=
  .each (fun _ _ h => .clearAcc h) hm

theorem McWithin.loadAcc {m : McState} {t : Nat} {bs : List Byte} {int : Bool} (hm : McWithin lim m) :
    McWithin lim (m.loadAcc t bs int) :=
  .upd (.each (fun _ _ h => .putAccRow h) hm)

end Sys2Proof.Machine
end

section
/-! Flags of the matrix cores: what each function leaves (Machine/Flags). -/

namespace Sys2Proof.Machine

variable {lim : Limits} {s : State}

theorem Within.setAFlags {n : Nat} {f : AFlags} (hs : Within lim s) : Within lim (s.setAFlags n f) :=
  .ite (.putF (.ite (.putF (.ite (.putF hs) hs)) (.ite (.putF hs) hs))) (.ite (.putF (.ite (.putF hs) hs)) (.ite (.putF hs) hs))

theorem Within.enterFault {n code operand unit fpc : Nat} (hs : Within lim s) : Within lim (s.enterFault n code operand unit fpc) :=
  .raiseC (.putF (.putF (.putF (.setReg hs))))

theorem Within.issueFault {n code operand unit : Nat} (hs : Within lim s) : Within lim (s.issueFault n code operand unit) :=
  .enterFault hs

theorem Within.memFault {n cls unit : Nat} {pc : Word} (hs : Within lim s) : Within lim (s.memFault n cls unit pc) :=
  .enterFault hs

theorem Within.countQnt {n k conv nonfinite sat : Nat} {amax : Option Int} {tgt : Nat} (hs : Within lim s) :
    Within lim (s.countQnt n k conv nonfinite sat amax tgt) :=
  .putB (.putF (.putF (.putF (.putF (.addF (.addF hs))))))

theorem Within.clearQnt {n mask : Nat} (hs : Within lim s) : Within lim (s.clearQnt n mask) :=
  .each (fun _ _ h => .resetReg (.resetReg (.resetReg h))) hs

end Sys2Proof.Machine
end

section
/-! The mesh: what each function leaves (Machine/Mesh). -/

namespace Sys2Proof.Machine

variable {lim : Limits} {s : State}

theorem Within.setMeshBuf {r : Nat} {d : MeshDir} {v : Nat} {l : List Flit} (hs : Within lim s) : Within lim (s.setMeshBuf r d v l) :=
  .upd hs

theorem Within.meshSpend {r : Nat} {d : MeshDir} {v n : Nat} (hs : Within lim s) : Within lim (s.meshSpend r d v n) := by
  unfold State.meshSpend
  split
  · exact hs
  · exact .upd hs

theorem Within.meshOwe {r : Nat} {d : MeshDir} {v n : Nat} (hs : Within lim s) : Within lim (s.meshOwe r d v n) :=
  .upd hs

theorem Within.meshFreed {r : Nat} {inp : MeshDir} {v n : Nat} (hs : Within lim s) : Within lim (s.meshFreed r inp v n) := by
  unfold State.meshFreed
  split
  · exact .meshOwe hs
  · exact hs

theorem Within.meshInject {cell : Nat} {dst : MeshDst} {vc : MeshVc} {flits : Nat} {expects : Bool} (hs : Within lim s) :
    Within lim (s.meshInject cell dst vc flits expects) :=
  .ite (.upd (.upd hs)) (.setMeshBuf (.upd hs))

theorem Within.meshDeliver {e : Nat} {p : MeshPacket} (hs : Within lim s) : Within lim (s.meshDeliver e p) :=
  .upd hs

theorem Within.meshSend {r : Nat} {out : MeshDir} {v : Nat} {fs : List Flit} (hs : Within lim s) :
    Within lim (s.meshSend r out v fs) := by
  unfold State.meshSend
  split
  · exact .setMeshBuf (.meshSpend hs)
  · exact .each (fun _ _ h => .upd h) (.meshSpend hs)
  · exact .each (fun _ _ h => .meshDeliver h) (.meshOwe (.meshSpend hs))
  · exact .each (fun _ _ h => .meshDeliver h) hs

theorem ResWithin.execMeshFlitForward {r : RouterId} {out : MeshDir} {respPlane : Bool} (hs : Within lim s) :
    ResWithin lim (execMeshFlitForward r out respPlane s) := by
  unfold Machine.execMeshFlitForward
  dsimp only
  refine .next ?_
  split
  · exact hs
  · split
    · exact hs
    · split
      · exact hs
      · exact .meshSend (.upd (.meshFreed (.setMeshBuf hs)))

theorem ResWithin.execMeshCreditReturn {r : RouterId} {out : MeshDir} {vc : MeshVc} (hs : Within lim s) :
    ResWithin lim (execMeshCreditReturn r out vc s) :=
  .when (fun _ => .upd) hs

theorem ResWithin.execGatewayAccept {g : GatewayId} {p : MeshPacket} (hs : Within lim s) : ResWithin lim (execGatewayAccept g p s) :=
  .when (fun _ h => .setMeshBuf (.ite (.meshOwe (.upd h)) h)) hs

theorem ResWithin.execCellDownConsume {c : Fin 480} {p : MeshPacket} (hs : Within lim s) : ResWithin lim (execCellDownConsume c p s) :=
  .when (fun _ => .upd) hs

theorem ResWithin.execMcastReplicationEntry {r : RouterId} {inp : MeshDir} (hs : Within lim s) :
    ResWithin lim (execMcastReplicationEntry r inp s) := by
  refine .next ?_
  split
  · exact hs
  · exact .ite (.upd (.meshFreed (.setMeshBuf hs))) hs

theorem ResWithin.execMcastBranchTake {r : RouterId} {branch : MeshDir} (hs : Within lim s) :
    ResWithin lim (execMcastBranchTake r branch s) := by
  refine .next ?_
  split
  · exact hs
  · exact .ite (.meshSend (.upd hs)) hs

end Sys2Proof.Machine
end

section
/-! Sync units and barriers: what each function leaves (Machine/Sync). -/

namespace Sys2Proof.Machine

variable {lim : Limits} {s : State}

theorem Within.putView {k : Nat} {v : CoreView} (hs : Within lim s) : Within lim (s.putView k v) :=
  .setReg (.setReg (.setSync hs))

theorem OptCtxWithin.savedSync {cell part : Nat} (hs : Within lim s) : OptCtxWithin lim (s.savedSync cell part) :=
  fun _ e => .ofMem hs (List.mem_of_find?_eq_some e)

theorem CtxWithin.putView {c : SavedCtx} {k : Nat} {v : CoreView} (hc : CtxWithin lim c) : CtxWithin lim (SavedCtx.putView c k v) := hc

theorem Within.putSaved {c : SavedCtx} (hs : Within lim s) (hc : CtxWithin lim c) : Within lim (s.putSaved c) := by
  refine .withParts hs fun x hx => ?_
  obtain ⟨y, hy, rfl⟩ := List.mem_map.mp hx
  exact .ite hc (.ofMem hs hy)

theorem Within.recvDropped {cell : Nat} (hs : Within lim s) : Within lim (s.recvDropped cell) :=
  .raiseC (.putF (.addF hs))

theorem Within.sentLost {cell : Nat} (hs : Within lim s) : Within lim (s.sentLost cell) :=
  .raiseC (.putF (.addF hs))

theorem Within.sendSignal {g : Signal} (hs : Within lim s) : Within lim (s.sendSignal g) :=
  .ite (.upd hs) (.meshInject (.upd hs))

theorem Via.takeSignal {g : Signal} (hs : Within lim s) : Via Prod.fst lim (s.takeSignal g) := by
  refine .ite (.pair hs) ?_
  split
  · exact .pair (.ite (.raiseC (.putSaved hs (.putView ((OptCtxWithin.savedSync hs).ofSome ‹_›)))) (.putSaved hs
      (.putView ((OptCtxWithin.savedSync hs).ofSome ‹_›))))
  · exact .ite (.pair (.ite (.raiseC (.putView hs)) (.putView hs))) (.pair (.recvDropped hs))

theorem ResWithin.execSignalReceive {g : Signal} (hs : Within lim s) : ResWithin lim (execSignalReceive g s) :=
  .when (fun _ h => .upd (Via.takeSignal (.upd h))) hs

theorem ResWithin.execSignalCompletion {c : Fin 480} {targetDown : Bool} (hs : Within lim s) :
    ResWithin lim (execSignalCompletion c targetDown s) :=
  .when (fun _ h => .ite (.sentLost (.upd h)) (.upd h)) hs

theorem EnterWithin.barEnter {core : CoreName} {part bid sn : Nat} (hs : Within lim s) :
    EnterWithin lim (s.barEnter core part bid sn) := by
  unfold State.barEnter
  split
  · exact .error
  · exact .ite .error (.ite (.ite .error .stalled) (.entered (.ite (.upd (.setSync hs)) (.setSync hs))))

theorem Within.releaseAll {part bid : Nat} {g : BitVec 2} (hs : Within lim s) : Within lim (s.releaseAll part bid g) := by
  unfold State.releaseAll
  split
  · exact hs
  · exact .upd hs

theorem Via.nodeCount {h part bid : Nat} {g : BitVec 2} (hs : Within lim s) : Via Prod.fst lim (s.nodeCount h part bid g) := by
  unfold State.nodeCount
  split
  · refine .ite (.pair (.upd hs)) ?_
    split <;> exact .pair (.upd hs)
  · exact .pair hs

theorem Within.applyRelease {k part bid : Nat} {g : BitVec 2} (hs : Within lim s) : Within lim (s.applyRelease k part bid g) := by
  unfold State.applyRelease
  dsimp only
  split
  · exact .ite (.ite (.raiseC (.putSaved hs (.putView ((OptCtxWithin.savedSync hs).ofSome ‹_›)))) (.putSaved hs
      (.putView ((OptCtxWithin.savedSync hs).ofSome ‹_›)))) (.recvDropped hs)
  · exact .ite (.ite (.ite (.raiseC (.putView hs)) (.putView hs)) (.recvDropped hs)) (.recvDropped hs)

theorem ResWithin.execBarrierReleaseApply {core : CoreName} {part : Fin 16} {bid : BitVec 10} {gen : BitVec 2} (hs : Within lim s) :
    ResWithin lim (execBarrierReleaseApply core part bid gen s) :=
  .when (fun _ h => .applyRelease (.upd h)) hs

theorem ResWithin.execIdleReport {core : CoreName} (hs : Within lim s) : ResWithin lim (execIdleReport core s) :=
  .when (fun _ h => .setSync h) hs

theorem ResWithin.execSyncHang {core : CoreName} {bid : BitVec 10} (hs : Within lim s) : ResWithin lim (execSyncHang core bid s) := by
  refine .next ?_
  split
  · exact hs
  · exact .ite hs (.raiseC (.setSync hs))

end Sys2Proof.Machine
end

section
/-! Running a matrix core: what each function leaves (Machine/Ops). -/

namespace Sys2Proof.Machine

variable {lim : Limits} {s : State}

theorem Within.goTo {n : Nat} {a : Int} (hs : Within lim s) : Within lim (s.goTo n a) :=
  .updMc (.putF hs) (fun _ => .upd)

theorem ResWithin.issueTo {n unit : Nat} {rsv ready : Bool} {chk : Chk} {act : State → State} {next : Int} (hs : Within lim s)
    (hact : ∀ t, Within lim t → Within lim (act t)) : ResWithin lim (s.issueTo n unit rsv ready chk act next) := by
  refine .next (.ite hs (.ite (.issueFault hs) (.ite hs ?_)))
  split
  · exact .issueFault hs
  · exact .goTo (hact _ (.putF hs))

theorem ResWithin.issue {n unit : Nat} {rsv ready : Bool} {chk : Chk} {act : State → State} (hs : Within lim s) (hact : ∀ t, Within lim t
    → Within lim (act t)) : ResWithin lim (s.issue n unit rsv ready chk act) :=
  .issueTo hs (fun _ h => (hact _ h))

theorem Within.scrWrite {n a : Nat} {bs : List Byte} (hs : Within lim s) : Within lim (s.scrWrite n a bs) := by
  unfold State.scrWrite
  dsimp only
  refine .updMc hs (fun _ h => ?_)
  split
  · exact .ite (.upd (.scrPut h)) (.scrPut h)
  · exact .scrPut h

theorem Within.dropWaiters {p : Waiter → Bool} (hs : Within lim s) : Within lim (s.dropWaiters p) :=
  .upd hs

theorem Via.vWriteKept {u : UnitId} {ctx part va : Nat} {bs : List Byte} {runs : List (Nat × Nat)} {who : Nat} {w : Option Waiter}
    (hs : Within lim s) : Via AccRes.st lim (s.vWriteKept u ctx part va bs runs who w) :=
  hs.va (vaStep_vWriteKept ..)

theorem Within.vPoison {u : UnitId} {ctx part va n who : Nat} (hs : Within lim s) : Within lim (s.vPoison u ctx part va n who) :=
  .poisonSegs (Via.xlRun hs)

end Sys2Proof.Machine
end

section
/-! Issue on a matrix core: what each function leaves (Machine/MxcIssue). -/

namespace Sys2Proof.Machine

variable {lim : Limits} {s : State}

theorem ResWithin.execNop {mc : Fin 1920} {f : BitVec 56} (hs : Within lim s) : ResWithin lim (execNop mc f s) :=
  .issue hs (fun _ h => h)

theorem ResWithin.execHalt {mc : Fin 1920} {f : BitVec 56} (hs : Within lim s) : ResWithin lim (execHalt mc f s) :=
  .issue hs (fun _ h => .updMc h (fun _ => .upd))

theorem ResWithin.execProgramComplete {mc : Fin 1920} (hs : Within lim s) : ResWithin lim (execProgramComplete mc s) :=
  .when (fun _ h => .updMc (.putF h) (fun _ => .upd)) hs

theorem ResWithin.execJmp {mc : Fin 1920} {f : BitVec 56} (hs : Within lim s) : ResWithin lim (execJmp mc f s) :=
  .issueTo hs (fun _ h => h)

theorem ResWithin.execSetl {mc : Fin 1920} {f : BitVec 56} (hs : Within lim s) : ResWithin lim (execSetl mc f s) :=
  .issue hs (fun _ h => .updMc h (fun _ => .upd))

theorem ResWithin.execBloop {mc : Fin 1920} {f : BitVec 56} (hs : Within lim s) : ResWithin lim (execBloop mc f s) := by
  unfold Machine.execBloop
  exact .issueTo hs (fun _ h => .updMc h (fun _ => .upd))

theorem ResWithin.execPsync {mc : Fin 1920} {f : BitVec 56} (hs : Within lim s) : ResWithin lim (execPsync mc f s) :=
  .issue hs (fun _ h => h)

theorem ResWithin.execFclr {mc : Fin 1920} {f : BitVec 56} (hs : Within lim s) : ResWithin lim (execFclr mc f s) :=
  .issue hs (fun _ h => .each (fun _ _ h1 => .putF h1) h)

theorem Within.setG {n g : Nat} {v : Word} (hs : Within lim s) : Within lim (s.setG n g v) :=
  .updMc hs (fun _ => .upd)

theorem ResWithin.execGli {mc : Fin 1920} {f : BitVec 56} (hs : Within lim s) : ResWithin lim (execGli mc f s) :=
  .issue hs (fun _ h => .setG h)

theorem ResWithin.execGadd {mc : Fin 1920} {f : BitVec 56} (hs : Within lim s) : ResWithin lim (execGadd mc f s) :=
  .issue hs (fun _ h => .setG h)

theorem ResWithin.execGlds {mc : Fin 1920} {f : BitVec 56} (hs : Within lim s) : ResWithin lim (execGlds mc f s) :=
  .issue hs (fun _ h => .setG h)

theorem ResWithin.execOrg {mc : Fin 1920} {f : BitVec 56} (hs : Within lim s) : ResWithin lim (execOrg mc f s) :=
  .issue hs (fun _ h => .updMc h (fun _ => .upd))

theorem ResWithin.execSrset {mc : Fin 1920} {f : BitVec 56} (hs : Within lim s) : ResWithin lim (execSrset mc f s) :=
  .issue hs (fun _ h => .updMc h (fun _ => .upd))

theorem ResWithin.execTcfg {mc : Fin 1920} {f : BitVec 56} (hs : Within lim s) : ResWithin lim (execTcfg mc f s) :=
  .issue hs (fun _ h => .updMc h (fun _ => .upd))

theorem ResWithin.execTtbl {mc : Fin 1920} {f : BitVec 56} (hs : Within lim s) : ResWithin lim (execTtbl mc f s) :=
  .issue hs (fun _ h => .updMc h fun _ hm => .ite hm.setTabDer hm.setTabFwd)

theorem ResWithin.execIllegalOpcode {mc : Fin 1920} {w : Word} (hs : Within lim s) : ResWithin lim (execIllegalOpcode mc w s) :=
  .when (fun _ h => .issueFault h) hs

theorem ResWithin.execFetchFault {mc : Fin 1920} (hs : Within lim s) : ResWithin lim (execFetchFault mc s) := by
  unfold Machine.execFetchFault
  dsimp only
  refine .when (fun _ h => .ite (.issueFault h) (.ite h ?_)) hs
  split
  · exact .updMc (Via.vRead h) (fun _ => .upd)
  · exact .memFault (Via.vRead h)
  · exact (Via.vRead h)

end Sys2Proof.Machine
end

section
/-! Moves of tiles and tables: what each function leaves (Machine/MxcMove). -/

namespace Sys2Proof.Machine

variable {lim : Limits} {s : State}

theorem Within.newOp {n : Nat} {o : TileOp} (hs : Within lim s) : Within lim (s.newOp n o) :=
  .updMc hs (fun _ => .upd)

theorem Within.updOp {n id : Nat} {g : TileOp → TileOp} (hs : Within lim s) : Within lim (s.updOp n id g) :=
  .updMc hs (fun _ => .upd)

theorem Within.endOp {n id : Nat} (hs : Within lim s) : Within lim (s.endOp n id) :=
  .updMc hs (fun _ => .upd)

theorem Within.rowIn {n : Nat} {o : TileOp} {r : Nat} {bs : List Byte} (hs : Within lim s) : Within lim (s.rowIn n o r bs) :=
  .ite (.endOp (.updMc hs (fun _ h => .putTile h))) (.updOp (.updMc hs (fun _ h => .putTile h)))

theorem Within.tldRow {n : Nat} {o : TileOp} {r : Nat} (hs : Within lim s) : Within lim (s.tldRow n o r) := by
  refine .ite (.ite (.memFault hs) (.rowIn hs)) ?_
  split
  · exact .updOp (Via.vRead hs)
  · exact .memFault (Via.vRead hs)
  · exact .rowIn (Via.vRead hs)

theorem Within.tldRows {n id : Nat} {rs : List Nat} (hs : Within lim s) : Within lim (s.tldRows n id rs) := by
  induction rs generalizing s with
  | nil => exact hs
  | cons r rest ih =>
    unfold State.tldRows
    split
    · exact hs
    · exact .ite hs (ih (.tldRow hs))

theorem ResWithin.execTld {mc : Fin 1920} {f : BitVec 56} (hs : Within lim s) : ResWithin lim (execTld mc f s) := by
  refine .issue hs (fun _ h => ?_)
  split
  · exact h
  · exact .ite (.tldRows (.newOp h)) (.newOp h)

theorem Within.afilTile {n : Nat} {o : TileOp} (hs : Within lim s) : Within lim (s.afilTile n o) := by
  unfold State.afilTile
  dsimp only
  split
  · exact .updOp (Via.vRead hs)
  · exact .memFault (Via.vRead hs)
  · exact .ite (.updMc (.endOp (.updMc (Via.vRead hs) (fun _ h => .loadAcc h))) (fun _ => .upd)) (.updOp (.updMc (Via.vRead hs)
      (fun _ h => .loadAcc h)))

theorem ResWithin.execTileRowArrival {mc : Fin 1920} {op row : Nat} (hs : Within lim s) :
    ResWithin lim (execTileRowArrival mc op row s) := by
  refine .next ?_
  split
  · exact hs
  · exact .ite hs (.ite (.tldRow hs) (.ite (.afilTile hs) hs))

theorem Within.tstRow {n : Nat} {o : TileOp} (hs : Within lim s) : Within lim (s.tstRow n o) := by
  refine .ite (.ite (.endOp (.each (fun _ _ h => .scrWrite h) hs)) (.updOp (.each (fun _ _ h => .scrWrite h) hs))) ?_
  split
  · exact .updOp (Via.vWriteKept hs)
  · exact .ite (.endOp (.ite (.each (fun _ _ h => .vPoison h) (Via.vWriteKept hs)) (Via.vWriteKept hs)))
      (.updOp (.ite (.each (fun _ _ h => .vPoison h) (Via.vWriteKept hs)) (Via.vWriteKept hs)))

theorem Within.tstRows {n id k : Nat} (hs : Within lim s) : Within lim (s.tstRows n id k) := by
  induction k generalizing s with
  | zero => exact hs
  | succ k ih =>
    unfold State.tstRows
    split
    · exact hs
    · exact ih (.tstRow hs)

theorem ResWithin.execTst {mc : Fin 1920} {f : BitVec 56} (hs : Within lim s) : ResWithin lim (execTst mc f s) := by
  refine .issue hs (fun _ h => ?_)
  split
  · exact h
  · exact .ite (.tstRows (.newOp h)) (.newOp h)

theorem ResWithin.execAspl {mc : Fin 1920} {f : BitVec 56} (hs : Within lim s) : ResWithin lim (execAspl mc f s) :=
  .issue hs (fun _ h => .updMc (.newOp h) (fun _ => .upd))

theorem ResWithin.execAfil {mc : Fin 1920} {f : BitVec 56} (hs : Within lim s) : ResWithin lim (execAfil mc f s) :=
  .issue hs (fun _ h => .newOp h)

theorem ResWithin.execTileWriteAck {mc : Fin 1920} {op : Nat} (hs : Within lim s) : ResWithin lim (execTileWriteAck mc op s) := by
  refine .next ?_
  split
  · exact hs
  · exact .ite (.tstRow hs) hs

end Sys2Proof.Machine
end

section
/-! Accumulators: what each function leaves (Machine/MxcAcc). -/

namespace Sys2Proof.Machine

variable {lim : Limits} {s : State}

theorem Within.liftGuard {n : Nat} (hs : Within lim s) : Within lim (s.liftGuard n) :=
  .updMc hs (fun _ => .upd)

theorem ResWithin.execAclr {mc : Fin 1920} {f : BitVec 56} (hs : Within lim s) : ResWithin lim (execAclr mc f s) :=
  .issue hs (fun _ h => .liftGuard (.updMc h (fun _ h1 => .clearAccs h1)))

theorem McVia.ardRow {m : McState} {t a : Nat} {c : TileCfg} {rowoff colblk i : Nat} {sr nonsat ftz : Bool} (hm : McWithin lim m) :
    McVia MoveRes.m lim (m.ardRow t a c rowoff colblk i sr nonsat ftz) :=
  .moveRes (.ite (.putTile (.putTile (.putTile hm))) (.putTile (.putTile hm)))

theorem ResWithin.execArd {mc : Fin 1920} {f : BitVec 56} (hs : Within lim s) : ResWithin lim (execArd mc f s) := by
  refine .issue hs (fun _ h => ?_)
  split
  · exact h
  · exact .liftGuard (.setAFlags (.setMc h (.ite (.clearAcc (McVia.each (fun _ _ h1 => .moveRes (McVia.ardRow h1)) (.moveRes (.mc h))))
      (McVia.each (fun _ _ h1 => .moveRes (McVia.ardRow h1)) (.moveRes (.mc h))))))

theorem McVia.awrRow {m : McState} {t a : Nat} {c : TileCfg} {rowoff colblk i : Nat} {int : Bool} (hm : McWithin lim m) :
    McVia MoveRes.m lim (m.awrRow t a c rowoff colblk i int) :=
  .moveRes (.putAccRow hm)

theorem ResWithin.execAwr {mc : Fin 1920} {f : BitVec 56} (hs : Within lim s) : ResWithin lim (execAwr mc f s) := by
  refine .issue hs (fun _ h => ?_)
  split
  · exact h
  · exact .liftGuard (.setAFlags (.setMc h (.upd (McVia.each (fun _ _ h1 => .moveRes (McVia.awrRow h1)) (.moveRes (.mc h))))))

theorem ResWithin.execAccStarvationGuard {mc : Fin 1920} (hs : Within lim s) : ResWithin lim (execAccStarvationGuard mc s) :=
  .when (fun _ h => .updMc h (fun _ => .upd)) hs

end Sys2Proof.Machine
end

section
/-! Row threads: what each function leaves (Machine/MxcRows). -/

namespace Sys2Proof.Machine

variable {lim : Limits} {s : State}

theorem McVia.emit {m : McState} {t : Nat} {c : TileCfg} {sr nonsat ftz : Bool} {el : Nat → Nat → Src} (hm : McWithin lim m) :
    McVia RowsRes.m lim (m.emit t c sr nonsat ftz el) :=
  .each (fun _ _ h => .rowsRes (.putRow h)) (.rowsRes hm)

theorem Within.putRows {n : Nat} {r : RowsRes} (hs : Within lim s) (hr : McVia RowsRes.m lim r) : Within lim (s.putRows n r) :=
  .setAFlags (.setMc hs hr)

theorem ResWithin.execTew {mc : Fin 1920} {f : BitVec 56} (hs : Within lim s) : ResWithin lim (execTew mc f s) := by
  refine .issue hs (fun _ h => ?_)
  split
  · exact .putRows h (.rowsRes (McVia.emit (.mc hs)))
  · exact h

theorem ResWithin.execTact {mc : Fin 1920} {f : BitVec 56} (hs : Within lim s) : ResWithin lim (execTact mc f s) := by
  refine .issue hs (fun _ h => ?_)
  split
  · exact .putRows h (.rowsRes (McVia.emit (.mc hs)))
  · exact h

theorem ResWithin.execTder {mc : Fin 1920} {f : BitVec 56} (hs : Within lim s) : ResWithin lim (execTder mc f s) := by
  refine .issue hs (fun _ h => ?_)
  split
  · exact .putRows h (.rowsRes (McVia.emit (.mc hs)))
  · exact h

theorem ResWithin.execTqnt {mc : Fin 1920} {f : BitVec 56} (hs : Within lim s) : ResWithin lim (execTqnt mc f s) := by
  refine .issue hs (fun _ h => ?_)
  split
  · exact .countQnt (.putRows h (.rowsRes (McVia.emit (.mc hs))))
  · exact h

theorem ResWithin.execTmsk {mc : Fin 1920} {f : BitVec 56} (hs : Within lim s) : ResWithin lim (execTmsk mc f s) := by
  refine .issue hs (fun _ h => ?_)
  split
  · exact .putRows h (.rowsRes (McVia.emit (.mc hs)))
  · exact h

end Sys2Proof.Machine
end

section
/-! LDS: what each function leaves (Machine/MxcLds). -/

namespace Sys2Proof.Machine

variable {lim : Limits} {s : State}

theorem ResWithin.execLds {mc : Fin 1920} {f : BitVec 56} (hs : Within lim s) : ResWithin lim (execLds mc f s) :=
  .issue hs (fun _ h => .updMc h (fun _ => .upd))

theorem Within.updLds {n : Nat} {g : LdsState → LdsState} (hs : Within lim s) : Within lim (s.updLds n g) :=
  .updMc hs (fun _ => .upd)

theorem Via.ldsRead {n : Nat} {l : List (Nat × Nat)} (hs : Within lim s) : Via Prod.fst lim (s.ldsRead n l) := by
  induction l generalizing s with
  | nil => exact .pair hs
  | cons va len ih =>
    unfold State.ldsRead
    dsimp only
    split
    · exact .pair (Via.vRead hs)
    · exact .pair (Via.vRead hs)
    · exact .pair (ih (Via.vRead hs))

theorem Within.ldsHeld {n : Nat} {id : Word32} (hs : Within lim s) : Within lim (s.ldsHeld n id) :=
  .updLds hs

theorem Within.ldsPoison {n : Nat} (hs : Within lim s) : Within lim (s.ldsPoison n) := by
  unfold State.ldsPoison
  split
  · exact .memFault hs
  · exact hs

theorem Via.wcAt {u : UnitId} {ctx part va : Nat} {w : Option Waiter} (hs : Within lim s) :
    Via Prod.fst lim (s.wcAt u ctx part va w) := by
  unfold State.wcAt
  dsimp only
  split
  · exact .pair (Via.openFault (Via.xlRun hs))
  · exact .pair (Via.xlRun hs)
  · exact .pair (Via.xlRun hs)

theorem Within.ldsClaim {n fuel : Nat} (hs : Within lim s) : Within lim (s.ldsClaim n fuel) := by
  induction fuel generalizing s with
  | zero => exact hs
  | succ k ih =>
    unfold State.ldsClaim
    dsimp only
    split
    · exact hs
    · split
      · exact .ldsHeld (Via.wcAt hs)
      · exact .memFault (Via.wcAt hs)
      · exact .ite (.ldsPoison (Via.wcClaim (Via.wcAt hs))) (.ite (.updLds (Via.wcClaim (Via.wcAt hs)))
          (.ite (ih (Via.wcClaim (Via.wcAt hs))) (.updLds (Via.wcClaim (Via.wcAt hs)))))

theorem Within.ldsOpen {n t : Nat} (hs : Within lim s) : Within lim (s.ldsOpen n t) := by
  unfold State.ldsOpen
  dsimp only
  split
  · exact hs
  · split
    · exact .ldsHeld (Via.wcAt hs)
    · exact .memFault (Via.wcAt hs)
    · exact .ite (.ldsPoison (Via.wcPresent (Via.wcAt hs))) (.ite (.updLds (Via.wcPresent (Via.wcAt hs)))
        (.updLds (Via.wcPresent (Via.wcAt hs))))

theorem Within.ldsReady {n : Nat} (hs : Within lim s) : Within lim (s.ldsReady n) := by
  unfold State.ldsReady
  dsimp only
  split
  · exact hs
  · refine .ite hs ?_
    split
    · split
      · exact .ldsOpen (.ite (.ldsClaim hs) hs)
      · exact .ite (.ldsClaim hs) hs
    · exact .ite (.ldsClaim hs) hs

theorem Within.ldsFinish {n : Nat} (hs : Within lim s) : Within lim (s.ldsFinish n) := by
  unfold State.ldsFinish
  dsimp only
  split
  · exact hs
  · exact .ite (.updMc hs (fun _ h => .upd (.ite h (.clearAccs h)))) hs

theorem Via.stageA {n : Nat} {l : LdsState} {x : LdsIdx} (hs : Within lim s) : Via Prod.fst lim (s.stageA n l x) := by
  unfold State.stageA
  dsimp only
  split
  · exact .pair hs
  · split
    · split
      · exact .pair (.updLds (.updMc (Via.ldsRead (Via.ldsRead hs)) (fun _ h => .scrPut (.scrPut h))))
      · exact .pair (Via.ldsRead (Via.ldsRead hs))
    · exact .ldsRead hs

theorem Via.stageB {n : Nat} {l : LdsState} {x : LdsIdx} (hs : Within lim s) : Via Prod.fst lim (s.stageB n l x) := by
  unfold State.stageB
  dsimp only
  split
  · exact .pair hs
  · split
    · split
      · exact .pair (.updLds (.updMc (Via.ldsRead (Via.ldsRead hs)) (fun _ h => .scrPut (.scrPut h))))
      · exact .pair (Via.ldsRead (Via.ldsRead hs))
    · exact .ldsRead hs

theorem Within.ldsPass {n : Nat} (hs : Within lim s) : Within lim (s.ldsPass n) := by
  unfold State.ldsPass
  dsimp only
  split
  · exact hs
  · refine .ite hs ?_
    split
    · exact hs
    · split
      · exact .ldsHeld (Via.stageA hs)
      · exact .ldsPoison (Via.stageA hs)
      · split
        · exact .ldsHeld (Via.stageB (Via.stageA hs))
        · exact .ldsPoison (Via.stageB (Via.stageA hs))
        · split
          · exact (Via.stageB (Via.stageA hs))
          · exact .ite (.ldsClaim (.updMc (Via.stageB (Via.stageA hs)) (fun _ => .upd))) (.updMc (Via.stageB (Via.stageA hs))
              (fun _ => .upd))

theorem Via.ldsSpillOut {n : Nat} {l : LdsState} {g : LdsGroup} {k : Nat} (hs : Within lim s) :
    Via Prod.fst lim (s.ldsSpillOut n l g k) := by
  induction k generalizing s with
  | zero => exact .pair hs
  | succ j ih =>
    unfold State.ldsSpillOut
    dsimp only
    split
    · exact .pair (.ldsHeld (Via.vWrite hs))
    · exact ih (Via.vWrite hs)

theorem McWithin.loadC {m : McState} {l : LdsState} {tile : Nat} {rows : List (List Byte)} (hm : McWithin lim m) :
    McWithin lim (m.loadC l tile rows) :=
  .each (fun _ _ h => .each (fun _ _ h1 => .putAcc h1) h) hm

theorem Within.ldsLoad {n : Nat} {l : LdsState} {slot mi ni : Nat} (hs : Within lim s) : Within lim (s.ldsLoad n l slot mi ni) := by
  unfold State.ldsLoad
  dsimp only
  refine .ite ?_ (.ite ?_ (.updLds (.updMc hs (fun _ h => .clearAccs h))))
  · split
    · exact .ldsHeld (Via.ldsRead hs)
    · exact .ldsPoison (Via.ldsRead hs)
    · exact .updLds (.updMc (Via.ldsRead hs) (fun _ h => .each (fun _ _ h1 => .loadAcc h1) h))
  · split
    · exact .ldsHeld (Via.ldsRead hs)
    · exact .ldsPoison (Via.ldsRead hs)
    · exact .updLds (.updMc (Via.ldsRead hs) (fun _ h => .loadC (.clearAccs h)))

theorem ResWithin.execLdsSpill {mc : Fin 1920} (hs : Within lim s) : ResWithin lim (execLdsSpill mc s) := by
  unfold Machine.execLdsSpill
  dsimp only
  refine .when (fun _ h => ?_) hs
  split
  · exact .ldsReady h
  · refine .ite (.ldsReady h) ?_
    split
    · exact .ldsFinish (.ldsReady h)
    · split
      · exact .liftGuard (.ldsReady h)
      · exact .ldsLoad (.liftGuard (.ldsReady h))
      · refine .ite (Via.ldsSpillOut (.liftGuard (.ldsReady h))) ?_
        split
        · exact .ldsLoad (.updLds (Via.ldsSpillOut (.liftGuard (.ldsReady h))))
        · exact .updLds (Via.ldsSpillOut (.liftGuard (.ldsReady h)))

theorem Via.drainRows {n : Nat} {l : LdsState} {g : LdsGroup} {rows : List ((Nat × Nat) × Nat)} (hs : Within lim s) :
    Via Prod.fst lim (s.drainRows n l g rows) := by
  induction rows generalizing s with
  | nil => exact .pair hs
  | cons r rest ih =>
    unfold State.drainRows
    dsimp only
    split
    · exact .pair (.ldsHeld (Via.vWriteKept hs))
    · exact ih (.setAFlags (Via.vWriteKept hs))

theorem Within.freeDrain {n : Nat} {l : LdsState} (hs : Within lim s) : Within lim (s.freeDrain n l) := by
  unfold State.freeDrain
  exact .updMc (Via.freeBytes hs) (fun _ h => .scrPut h)

theorem ResWithin.execLdsDrain {mc : Fin 1920} (hs : Within lim s) : ResWithin lim (execLdsDrain mc s) := by
  unfold Machine.execLdsDrain
  dsimp only
  refine .when (fun _ h => ?_) hs
  split
  · exact h
  · refine .ite h ?_
    split
    · exact h
    · exact .ite (.ldsFinish (.updLds h)) (.ite h (.ite (Via.drainRows (.freeDrain (.liftGuard h)))
        (.ldsFinish (.updLds (.updMc (Via.drainRows (.freeDrain (.liftGuard h))) (fun _ h1 => .clearAccs h1))))))

end Sys2Proof.Machine
end

section
/-! The array: what each function leaves (Machine/MxcArray). -/

namespace Sys2Proof.Machine

variable {lim : Limits} {s : State}

theorem ResWithin.execMma {mc : Fin 1920} {f : BitVec 56} (hs : Within lim s) : ResWithin lim (execMma mc f s) :=
  .issue hs (fun _ h => .updMc h (fun _ h1 => .upd (.ite (.clearAccs h1) h1)))

theorem Within.mmaBegin {n : Nat} {j : MmaJob} (hs : Within lim s) : Within lim (s.mmaBegin n j) :=
  .updMc hs (fun _ => .upd)

theorem ResWithin.execArrayPassStart {mc : Fin 1920} (hs : Within lim s) : ResWithin lim (execArrayPassStart mc s) := by
  unfold Machine.execArrayPassStart
  dsimp only
  refine .when (fun _ h => ?_) hs
  split
  · exact .ite (.mmaBegin h) h
  · split
    · exact h
    · exact .ite (.ldsFinish (.ldsPass (.ldsReady h))) h

theorem McVia.runPass {m : McState} {p : ArrayPass} (hm : McWithin lim m) : McVia MoveRes.m lim (m.runPass p) :=
  .each (fun _ _ h => .moveRes (.putAcc h)) (.moveRes hm)

theorem Within.freePass {n : Nat} {p : ArrayPass} (hs : Within lim s) : Within lim (s.freePass n p) :=
  .each (fun _ _ h => .updMc (.tickFree h) (fun _ h1 => .putAcc h1)) hs

theorem ResWithin.execArrayPassComplete {mc : Fin 1920} (hs : Within lim s) : ResWithin lim (execArrayPassComplete mc s) := by
  refine .next ?_
  split
  · exact hs
  · exact .ite (.ldsFinish (.updLds (.updMc (.ite (.freePass hs) (.setAFlags (.setMc hs (McVia.runPass (.mc hs))))) (fun _ => .upd))))
      (.updMc (.updMc (.ite (.freePass hs) (.setAFlags (.setMc hs (McVia.runPass (.mc hs))))) (fun _ => .upd)) (fun _ => .upd))

end Sys2Proof.Machine
end

section
/-! Synchronisation of the matrix cores: what each function leaves (Machine/MxcSync). -/

namespace Sys2Proof.Machine

variable {lim : Limits} {s : State}

theorem Within.clearPend {k n : Nat} (hs : Within lim s) : Within lim (s.clearPend k n) :=
  .ite (.putF (.setSync hs)) (.setSync hs)

theorem Within.synErr {k counter cause barrier : Nat} (hs : Within lim s) : Within lim (s.synErr k counter cause barrier) :=
  .setReg hs

theorem ResWithin.issueSync {n : Nat} {rsv ready : Bool} {act : State → SyncDo} (hs : Within lim s) (hact : ∀ t, Within lim t →
    SyncWithin lim (act t)) : ResWithin lim (s.issueSync n rsv ready act) := by
  refine .next (.ite hs (.ite (.issueFault hs) (.ite hs ?_)))
  split
  · exact .ite (.putF ((hact _ hs).ofHold ‹_›)) ((hact _ hs).ofHold ‹_›)
  · exact .issueFault ((hact _ hs).ofFault ‹_›)
  · exact .goTo (.putF (.setSync ((hact _ hs).ofDone ‹_›)))

theorem SyncWithin.ownAdd {k n : Nat} {x : Int} (hs : Within lim s) : SyncWithin lim (s.ownAdd k n x) := by
  refine .ite (.fault (.clearPend hs)) ?_
  split
  · exact .done (.putView hs)
  · exact .fault (.synErr hs)

theorem SyncWithin.ownWait {k n x : Nat} (hs : Within lim s) : SyncWithin lim (s.ownWait k n x) :=
  .ite (.fault (.clearPend hs)) (.ite (.done (.setSync hs)) (.hold (.setSync hs)))

theorem SyncWithin.ownBar {core : CoreName} {bid n : Nat} (hs : Within lim s) : SyncWithin lim (s.ownBar core bid n) := by
  refine .ite (.fault (.clearPend hs)) ?_
  split
  · exact .done ((EnterWithin.barEnter hs).ofEntered ‹_›)
  · exact .hold (.setSync hs)
  · exact .fault (.synErr hs)

theorem SyncWithin.ownSig {core target : CoreName} {sn : Fin 32} {x : BitVec 16} (hs : Within lim s) :
    SyncWithin lim (s.ownSig core target sn x) :=
  .ite (.fault (.clearPend hs)) (.ite (.done (.sendSignal hs)) (.fault hs))

theorem ResWithin.execSadd {mc : Fin 1920} {f : BitVec 56} (hs : Within lim s) : ResWithin lim (execSadd mc f s) :=
  .issueSync hs (fun _ h => .ownAdd h)

theorem ResWithin.execSwait {mc : Fin 1920} {f : BitVec 56} (hs : Within lim s) : ResWithin lim (execSwait mc f s) :=
  .issueSync hs (fun _ h => .ownWait h)

theorem ResWithin.execSsig {mc : Fin 1920} {f : BitVec 56} (hs : Within lim s) : ResWithin lim (execSsig mc f s) :=
  .issueSync hs (fun _ h => .ownSig h)

theorem ResWithin.execSbar {mc : Fin 1920} {f : BitVec 56} (hs : Within lim s) : ResWithin lim (execSbar mc f s) :=
  .issueSync hs (fun _ h => .ownBar h)

theorem Within.mxcStop {n : Nat} (hs : Within lim s) : Within lim (s.mxcStop n) :=
  .putF hs

theorem Within.abandonMc {n : Nat} (hs : Within lim s) : Within lim (s.abandonMc n) :=
  .dropWaiters (.updMc hs (fun _ => .upd))

theorem Within.mxcEnterStopped {n : Nat} (hs : Within lim s) : Within lim (s.mxcEnterStopped n) :=
  .putF (.setSync (.abandonMc hs))

theorem Within.mxcRelease {n : Nat} (hs : Within lim s) : Within lim (s.mxcRelease n) :=
  .ite (.putF (.putF hs)) (.putF hs)

theorem Within.mxcResume {n : Nat} (hs : Within lim s) : Within lim (s.mxcResume n) :=
  .ite (.putF (.setReg hs)) hs

theorem ResWithin.execMxcStop {mc : Fin 1920} (hs : Within lim s) : ResWithin lim (execMxcStop mc s) :=
  .next (.mxcStop hs)

theorem ResWithin.execMxcStopped {mc : Fin 1920} (hs : Within lim s) : ResWithin lim (execMxcStopped mc s) :=
  .when (fun _ h => .mxcEnterStopped h) hs

theorem ResWithin.execMxcStopRelease {mc : Fin 1920} (hs : Within lim s) : ResWithin lim (execMxcStopRelease mc s) :=
  .next (.mxcRelease hs)

theorem ResWithin.execMxcResume {mc : Fin 1920} (hs : Within lim s) : ResWithin lim (execMxcResume mc s) :=
  .next (.mxcResume hs)

theorem ResWithin.execMxqClr {mc : Fin 1920} {mask : BitVec 8} (hs : Within lim s) : ResWithin lim (execMxqClr mc mask s) :=
  .next (.clearQnt hs)

end Sys2Proof.Machine
end

section
/-! DMA: the movers: what each function leaves (Machine/Dma). -/

namespace Sys2Proof.Machine

variable {lim : Limits} {s : State}

theorem RvWithin.extPut {r : RvState} {a : Nat} {bs : List Byte} (hr : RvWithin lim r) : RvWithin lim (r.extPut a bs) :=
  .ite (.upd (.scrPut hr)) (.scrPut hr)

theorem Via.memGet {x : Mover} {a n fuel : Nat} (hs : Within lim s) : Via Got.st lim (s.memGet x a n fuel) := by
  induction fuel generalizing s a n with
  | zero => exact .got hs
  | succ k ih =>
    unfold State.memGet
    dsimp only
    refine .ite (.got hs) ?_
    split
    · exact .got (Via.vRead hs)
    · exact .got (ih (Via.vRead hs))

theorem Via.spGet {x : Mover} {sp mc : Nat} {a : Int} {n : Nat} (hs : Within lim s) : Via Got.st lim (s.spGet x sp mc a n) := by
  unfold State.spGet
  dsimp only
  split
  · exact .memGet hs
  · exact .got hs
  · exact .got hs
  · exact .got hs

theorem Via.memPut {x : Mover} {a : Nat} {bs : List (Byte × Bool)} {fuel : Nat} (hs : Within lim s) :
    Via Prod.fst lim (s.memPut x a bs fuel) := by
  induction fuel generalizing s a bs with
  | zero => exact .pair hs
  | succ k ih =>
    unfold State.memPut
    dsimp only
    refine .ite (.pair hs) ?_
    split
    · exact .pair (Via.vWrite hs)
    · exact ih (.ite (.vPoison (Via.vWrite hs)) (Via.vWrite hs))

theorem Within.scratchPut {cell sp mc b : Nat} {bs : List (Byte × Bool)} (hs : Within lim s) :
    Within lim (s.scratchPut cell sp mc b bs) :=
  .ite (.updMc (.scrWrite hs) (fun _ => .upd)) (.updRv hs (fun _ h => .upd (.extPut h)))

theorem Via.spPut {x : Mover} {sp mc : Nat} {a : Int} {bs : List (Byte × Bool)} (hs : Within lim s) :
    Via Prod.fst lim (s.spPut x sp mc a bs) :=
  .ite (.memPut hs) (.pair (.scratchPut hs))

theorem Via.spGets {x : Mover} {sp mc : Nat} {as : List Int} {n : Nat} (hs : Within lim s) :
    Via Prod.fst lim (s.spGets x sp mc as n) := by
  induction as generalizing s with
  | nil => exact .pair hs
  | cons a r ih =>
    unfold State.spGets
    dsimp only
    split
    · exact .pair (Via.spGet hs)
    · exact .pair (ih (Via.spGet hs))

theorem Via.rowBytes {x : Mover} {d : Desc} {p r : Nat} {sa : Int} (hs : Within lim s) : Via Got.st lim (s.rowBytes x d p r sa) := by
  unfold State.rowBytes
  dsimp only
  refine .ite (.got (Via.spGets hs)) (.ite ?_ (.got (Via.spGet hs)))
  split
  · exact .got (Via.spGet hs)
  · exact .got (Via.ite (.spGet (Via.spGet hs)) (.got (Via.spGet hs)))

theorem Via.copyRow {x : Mover} {d : Desc} {i : Nat} (hs : Within lim s) : Via RowRes.st lim (s.copyRow x d i) := by
  unfold State.copyRow
  dsimp only
  split
  · exact .rowRes (Via.ite (.spGet hs) (.got hs))
  · exact .ite (.rowRes (Via.ite (.spGet hs) (.got hs))) (.rowRes (Via.rowBytes (Via.ite (.spGet hs) (.got hs))))

theorem Via.operandPlane {x : Mover} {d : Desc} {p : Nat} (hs : Within lim s) : Via RowRes.st lim (s.operandPlane x d p) := by
  unfold State.operandPlane
  dsimp only
  split <;> exact .rowRes (Via.spGets hs)

theorem Via.descAtomic {x : Mover} {d : Desc} {who : Option CoreName} (hs : Within lim s) : Via RowRes.st lim (s.descAtomic x d who) := by
  unfold State.descAtomic
  dsimp only
  split
  · exact .rowRes (Via.openFault (Via.xlRun hs))
  · refine .ite (.rowRes (Via.openFault (Via.xlRun hs))) ?_
    have checked {r : RunRes} (hr : Via RunRes.st lim r) : Via RunRes.st lim (if d.dstSp = 0 then r.st.xlRun x.u x.ctx x.part d.dst 8 .write
        else ⟨r.st, [], none⟩) := .ite (.xlRun hr) (.runRes hr)
    split
    · exact .rowRes (Via.openFault (checked (.xlRun hs)))
    · refine .rowRes ?_
      split
      · exact Via.amoAt (checked (.xlRun hs))
      · exact Via.wcClaim (checked (.xlRun hs))
      · exact Via.wcPresent (checked (.xlRun hs))
  · exact .rowRes (Via.xlRun hs)

end Sys2Proof.Machine
end

section
/-! DMA: the engines: what each function leaves (Machine/DmaRun). -/

namespace Sys2Proof.Machine

variable {lim : Limits} {s : State}

theorem Within.updDesc {c q i : Nat} {f : DescState → DescState} (hs : Within lim s) : Within lim (s.updDesc c q i f) :=
  .setDmaQ hs

theorem McWithin.maskDone {m : McState} {k : GradMask} (hm : McWithin lim m) : McWithin lim (m.maskDone k) :=
  .upd hm

theorem Within.mcastOut {c q i : Nat} {d : Desc} {a : Nat} {bs : List (Byte × Bool)} (hs : Within lim s) :
    Within lim (s.mcastOut c q i d a bs) := by
  unfold State.mcastOut
  exact .updDesc (.each (fun _ _ h => .each (fun _ _ h1 => .meshInject h1) h) hs)

theorem Within.takeCopies {cell : Nat} {l : List McastCopy} (hs : Within lim s) : Within lim (s.takeCopies cell l) :=
  .each (fun _ _ h => .scratchPut h) hs

theorem Within.putStatus {c q : Nat} {d : Desc} {bs : List Byte} (hs : Within lim s) : Within lim (s.putStatus c q d bs) :=
  .ite hs (.ite (.scrWrite hs) (.ite (.updRv hs (fun _ h => .extPut h)) (.physWrite hs)))

theorem Within.descSignal {c q : Nat} {d : Desc} (hs : Within lim s) : Within lim (s.descSignal c q d) :=
  .ite hs (.ite (.sendSignal hs) (.sentLost hs))

theorem Within.descError {c q tag code : Nat} (hs : Within lim s) : Within lim (s.descError c q tag code) :=
  .upd (.putF (.addF (.putF (.putF (.putF hs)))))

theorem Within.dmaRetire {c q fuel : Nat} (hs : Within lim s) : Within lim (s.dmaRetire c q fuel) := by
  induction fuel generalizing s with
  | zero => exact hs
  | succ k ih =>
    unfold State.dmaRetire
    dsimp only
    split
    · exact hs
    · exact .ite hs (ih (.ite (.descError (.descSignal (.putStatus (.setDma (.setDmaQ hs)))))
        (.descSignal (.putStatus (.setDma (.setDmaQ hs))))))

theorem Within.dmaSettle {c q : Nat} (hs : Within lim s) : Within lim (s.dmaSettle c q) :=
  .dmaRetire (.setDmaQ hs)

theorem Within.dmaEnqueue {c q : Nat} {w : BitVec 512} (hs : Within lim s) : Within lim (s.dmaEnqueue c q w) :=
  .dmaSettle (.ite (.updMc (.setDmaQ hs) (fun _ => .upd)) (.setDmaQ hs))

theorem Within.setKey {c q : Nat} {k : KeyState} (hs : Within lim s) : Within lim (s.setKey c q k) :=
  .setDma hs

theorem Via.maskLoad {x : Mover} {c q : Nat} {d : Desc} (hs : Within lim s) : Via RowRes.st lim (s.maskLoad x c q d) := by
  unfold State.maskLoad
  dsimp only
  split
  · exact .rowRes (Via.spGet hs)
  · exact .rowRes (.updMc (Via.spGet hs) (fun _ h => .maskDone h))

theorem Via.descRow {x : Mover} {c q : Nat} {d : Desc} {i : Nat} (hs : Within lim s) : Via RowRes.st lim (s.descRow x c q d i) := by
  unfold State.descRow
  split
  · exact .copyRow hs
  · exact .operandPlane hs
  · exact .operandPlane hs
  · exact .descAtomic hs
  · exact .maskLoad hs
  · exact .rowRes (.setKey hs)

theorem Via.putOuts {x : Mover} {c q i : Nat} {d : Desc} {outs : List (Int × List (Byte × Bool))} (hs : Within lim s) :
    Via Prod.fst lim (s.putOuts x c q i d outs) := by
  induction outs generalizing s with
  | nil => exact .pair hs
  | cons o r ih =>
    unfold State.putOuts
    dsimp only
    refine .ite (ih (.mcastOut hs)) ?_
    split
    · exact .pair (Via.spPut hs)
    · exact ih (Via.spPut hs)

theorem Within.holdDesc {c q i : Nat} {id : Word32} (hs : Within lim s) : Within lim (s.holdDesc c q i id) :=
  .updDesc hs

theorem Within.dmaRow {c q i : Nat} {t : DescState} (hs : Within lim s) : Within lim (s.dmaRow c q i t) := by
  unfold State.dmaRow
  dsimp only
  split
  · exact .holdDesc (Via.descRow (.updDesc hs))
  · split
    · exact .holdDesc (Via.ite (.pair (Via.descRow (.updDesc hs))) (.putOuts (Via.descRow (.updDesc hs))))
    · exact .dmaSettle (.updDesc (Via.ite (.pair (Via.descRow (.updDesc hs))) (.putOuts (Via.descRow (.updDesc hs)))))

theorem Within.dmaRows {c q : Nat} {w : BitVec 512} {fuel : Nat} (hs : Within lim s) : Within lim (s.dmaRows c q w fuel) := by
  induction fuel generalizing s with
  | zero => exact hs
  | succ k ih =>
    unfold State.dmaRows
    split
    · exact .ite (ih (.dmaRow hs)) hs
    · exact hs

theorem Within.dmaDo {c q : Nat} {p : Desc → Bool} (hs : Within lim s) : Within lim (s.dmaDo c q p) := by
  unfold State.dmaDo
  split
  · exact .ite (.dmaRows hs) hs
  · exact hs

theorem ResWithin.execDmaCopy {c : Fin 480} {q : Fin 6} (hs : Within lim s) : ResWithin lim (execDmaCopy c q s) :=
  .next (.dmaDo hs)

theorem ResWithin.execDmaPanel {c : Fin 480} {q : Fin 6} (hs : Within lim s) : ResWithin lim (execDmaPanel c q s) :=
  .next (.dmaDo hs)

theorem ResWithin.execDmaImage {c : Fin 480} {q : Fin 6} (hs : Within lim s) : ResWithin lim (execDmaImage c q s) :=
  .next (.dmaDo hs)

theorem ResWithin.execDmaFetchAdd {c : Fin 480} {q : Fin 6} (hs : Within lim s) : ResWithin lim (execDmaFetchAdd c q s) :=
  .next (.dmaDo hs)

theorem ResWithin.execDmaClaim {c : Fin 480} {q : Fin 6} (hs : Within lim s) : ResWithin lim (execDmaClaim c q s) :=
  .next (.dmaDo hs)

theorem ResWithin.execDmaPresent {c : Fin 480} {q : Fin 6} (hs : Within lim s) : ResWithin lim (execDmaPresent c q s) :=
  .next (.dmaDo hs)

theorem ResWithin.execDmaMaskload {c : Fin 480} {q : Fin 6} (hs : Within lim s) : ResWithin lim (execDmaMaskload c q s) :=
  .next (.dmaDo hs)

theorem ResWithin.execDmaKey {c : Fin 480} {q : Fin 6} (hs : Within lim s) : ResWithin lim (execDmaKey c q s) :=
  .next (.dmaDo hs)

theorem ResWithin.execDmaLineResponse {c : Fin 480} {q : Fin 6} (hs : Within lim s) : ResWithin lim (execDmaLineResponse c q s) := by
  refine .next ?_
  split
  · exact .dmaRow hs
  · exact hs

theorem Within.dmaRetry {c q : Nat} (hs : Within lim s) : Within lim (s.dmaRetry c q) := by
  unfold State.dmaRetry
  split
  · exact .updDesc hs
  · exact hs

theorem Within.dmaAbort {c q cls : Nat} (hs : Within lim s) : Within lim (s.dmaAbort c q cls) := by
  unfold State.dmaAbort
  split
  · exact hs
  · exact .dmaSettle (.updDesc (.ite (.updMc hs (fun _ h => .maskDone h)) hs))

theorem Within.dmaEndQueue {c q : Nat} (hs : Within lim s) : Within lim (s.dmaEndQueue c q) :=
  .dmaRetire (.setDmaQ (.dropWaiters hs))

theorem Within.dmaAbandon {c : Nat} (hs : Within lim s) : Within lim (s.dmaAbandon c) :=
  .each (fun _ _ h => .dmaRetry h) (.dropWaiters hs)

theorem Within.settleTarget {c q i target : Nat} {r : TargetState} (hs : Within lim s) : Within lim (s.settleTarget c q i target r) :=
  .dmaSettle (.updDesc hs)

theorem ResWithin.execMcastTargetCompletion {c : Fin 480} {q : Fin 6} {target : Fin 480} {ok : Bool} (hs : Within lim s) :
    ResWithin lim (execMcastTargetCompletion c q target ok s) := by
  refine .next ?_
  split
  · exact .settleTarget (.ite (.takeCopies hs) hs)
  · split
    · exact hs
    · exact .ite (.takeCopies (.setDma hs)) (.setDma hs)

theorem ResWithin.execMcastTimeout {c : Fin 480} {q : Fin 6} {target : Fin 480} (hs : Within lim s) :
    ResWithin lim (execMcastTimeout c q target s) := by
  refine .next ?_
  split
  · exact .ite hs (.settleTarget hs)
  · exact hs

theorem ResWithin.execDmaq {mc : Fin 1920} {f : BitVec 56} (hs : Within lim s) : ResWithin lim (execDmaq mc f s) :=
  .ite (.next (.putF hs)) (.issue hs (fun _ h => .dmaEnqueue h))

end Sys2Proof.Machine
end

section
/-! RISC-V cores: what each function leaves (Machine/Rv). -/

namespace Sys2Proof.Machine

variable {lim : Limits} {s : State}

theorem Within.setXr {k i : Nat} {v : Word} (hs : Within lim s) : Within lim (s.setXr k i v) :=
  .ite hs (.updRv hs (fun _ => .upd))

theorem Within.setCsr {k n : Nat} {v : Word} (hs : Within lim s) : Within lim (s.setCsr k n v) :=
  .updRv hs (fun _ => .upd)

theorem Within.setFflags {k f : Nat} (hs : Within lim s) : Within lim (s.setFflags k f) :=
  .ite hs (.setCsr (.setCsr hs))

theorem Within.takeTrap {k cause : Nat} {isInt : Bool} {tval : Word} (hs : Within lim s) : Within lim (s.takeTrap k cause isInt tval) :=
  .updRv (.ite (.updRv (.setCsr (.setCsr (.setCsr (.setCsr hs)))) (fun _ => .upd)) (.updRv (.setCsr (.setCsr (.setCsr (.setCsr hs))))
      (fun _ => .upd))) (fun _ => .upd)

theorem Within.exception {k cause : Nat} {tval : Word} (hs : Within lim s) : Within lim (s.exception k cause tval) :=
  .ite (.updRv (.takeTrap hs) (fun _ => .upd)) (.takeTrap hs)

theorem Within.illegal {k w : Nat} (hs : Within lim s) : Within lim (s.illegal k w) :=
  .exception hs

theorem Within.countInst {k : Nat} (hs : Within lim s) : Within lim (s.countInst k) :=
  .ite hs (.setCsr hs)

theorem Within.retire {k len : Nat} (hs : Within lim s) : Within lim (s.retire k len) :=
  .updRv (.countInst hs) (fun _ => .upd)

theorem Within.jump {k : Nat} {target : Word} (hs : Within lim s) : Within lim (s.jump k target) :=
  .updRv (.countInst hs) (fun _ => .upd)

theorem Within.fsDirty {k : Nat} (hs : Within lim s) : Within lim (s.fsDirty k) :=
  .setCsr hs

theorem Within.vsDirty {k : Nat} (hs : Within lim s) : Within lim (s.vsDirty k) :=
  .setCsr hs

theorem Within.endVec {k : Nat} (hs : Within lim s) : Within lim (s.endVec k) :=
  .vsDirty (.setCsr hs)

theorem Within.agnosticFrom {k v w m8 lo evl : Nat} {vm tu : Bool} (hs : Within lim s) :
    Within lim (s.agnosticFrom k v w m8 lo evl vm tu) :=
  .ite hs (.upd (.updRv hs (fun _ h => .each (fun _ _ h1 => .setVEl h1) h)))

theorem Within.agnostic {k v w m8 evl : Nat} {vm tu : Bool} (hs : Within lim s) : Within lim (s.agnostic k v w m8 evl vm tu) :=
  .ite hs (.agnosticFrom hs)

end Sys2Proof.Machine
end

section
/-! Xif instructions: what each function leaves (Machine/Xif). -/

namespace Sys2Proof.Machine

variable {lim : Limits} {s : State}

theorem Within.setTsByte {c a : Nat} {b : Byte} (hs : Within lim s) : Within lim (s.setTsByte c a b) :=
  .updMc hs (fun _ h => .ite (.putTile h) (.putAcc h))

theorem ResWithin.xtAccess {vc w : Nat} {vm load : Bool} {base stride v : Nat} {go : State → Nat → Nat → List Nat → State}
    (hs : Within lim s) (hgo : ∀ t x1 x2 x3, Within lim t → Within lim (go t x1 x2 x3)) : ResWithin lim (s.xtAccess vc w vm load base
    stride v go) := by
  unfold State.xtAccess
  dsimp only
  refine .when (fun _ h => .ite (.illegal h) ?_) hs
  split
  · exact .exception h
  · exact .retire (.endVec (.ite (.agnostic (.each (fun _ _ h1 => (hgo _ _ _ _ h1)) h)) (.each (fun _ _ h1 => (hgo _ _ _ _ h1)) h)))

theorem Within.xtLoad {vc v sew i : Nat} {as : List Nat} (hs : Within lim s) : Within lim (xtLoad vc v s sew i as) :=
  .updRv hs (fun _ h => .setVEl h)

theorem Within.xtStore {vc v sew i : Nat} {as : List Nat} (hs : Within lim s) : Within lim (xtStore vc v s sew i as) :=
  .each (fun _ _ h => .setTsByte h) hs

theorem ResWithin.execXtVl {vc : Fin 480} {vm : Bool} {rs1 vd : BitVec 5} (hs : Within lim s) : ResWithin lim (execXtVl vc vm rs1 vd s) :=
  .xtAccess hs (fun _ _ _ _ h => .xtLoad h)

theorem ResWithin.execXtVls {vc : Fin 480} {vm : Bool} {rs2 rs1 vd : BitVec 5} (hs : Within lim s) :
    ResWithin lim (execXtVls vc vm rs2 rs1 vd s) :=
  .xtAccess hs (fun _ _ _ _ h => .xtLoad h)

theorem ResWithin.execXtVs {vc : Fin 480} {vm : Bool} {rs1 vs3 : BitVec 5} (hs : Within lim s) :
    ResWithin lim (execXtVs vc vm rs1 vs3 s) :=
  .xtAccess hs (fun _ _ _ _ h => .xtStore h)

theorem ResWithin.execXtVss {vc : Fin 480} {vm : Bool} {rs2 rs1 vs3 : BitVec 5} (hs : Within lim s) :
    ResWithin lim (execXtVss vc vm rs2 rs1 vs3 s) :=
  .xtAccess hs (fun _ _ _ _ h => .xtStore h)

theorem ResWithin.execXtFence {vc : Fin 480} (hs : Within lim s) : ResWithin lim (execXtFence vc s) :=
  .when (fun _ h => .retire h) hs

theorem ResWithin.execXtVunp {vc : Fin 480} {vs2 : BitVec 5} {fmt : BitVec 4} {vd : BitVec 5} (hs : Within lim s) :
    ResWithin lim (execXtVunp vc vs2 fmt vd s) := by
  unfold Machine.execXtVunp
  exact .when (fun _ h => .ite (.illegal h) (.retire (.endVec (.updRv h (fun _ h1 => .each (fun _ _ h2 => .setVEl h2) h1))))) hs

theorem ResWithin.execXtVpk {vc : Fin 480} {ovf : Bool} {vs2 : BitVec 5} {fmt : BitVec 4} {vd : BitVec 5} (hs : Within lim s) :
    ResWithin lim (execXtVpk vc ovf vs2 fmt vd s) := by
  unfold Machine.execXtVpk
  exact .when (fun _ h => .ite (.illegal h) (.retire (.endVec (.setFflags (.updRv (.ite (.tickFree h) h) fun _ hr => .setV hr))))) hs

theorem Within.vcSync {vc counter target : Nat} {act : SyncDo} {rd : Option (Nat × Word)} (hact : SyncWithin lim act) :
    Within lim (s.vcSync vc counter target act rd) := by
  unfold State.vcSync
  cases hact with
  | hold h => exact .updRv h fun _ => .upd
  | fault h => exact .ite (.exception h) (.exception h)
  | done h =>
    refine .retire ?_
    dsimp only
    split
    · exact .setXr (.setSync h)
    · exact .setSync h

theorem ResWithin.execXsAdd {vc : Fin 480} {sn : Fin 32} {rs1 : BitVec 5} (hs : Within lim s) : ResWithin lim (execXsAdd vc sn rs1 s) :=
  .when (fun _ h => .vcSync (.ownAdd h)) hs

theorem ResWithin.execXsWait {vc : Fin 480} {sn : Fin 32} {rs1 : BitVec 5} (hs : Within lim s) : ResWithin lim (execXsWait vc sn rs1 s) :=
  .when (fun _ h => .vcSync (.ownWait h)) hs

theorem ResWithin.execXsTry {vc : Fin 480} {sn : Fin 32} {rs1 rd : BitVec 5} (hs : Within lim s) :
    ResWithin lim (execXsTry vc sn rs1 rd s) :=
  .when (fun _ h => .ite (.retire (.setXr h)) (.vcSync (.ownWait h))) hs

theorem ResWithin.execXsRd {vc : Fin 480} {sn : Fin 32} {rd : BitVec 5} (hs : Within lim s) : ResWithin lim (execXsRd vc sn rd s) :=
  .when (fun _ h => .vcSync (.ite (.fault (.clearPend h)) (.done h))) hs

theorem ResWithin.execXsSig {vc : Fin 480} {rs2 rs1 : BitVec 5} (hs : Within lim s) : ResWithin lim (execXsSig vc rs2 rs1 s) :=
  .when (fun _ h => .ite (.illegal h) (.vcSync (.ownSig h))) hs

theorem ResWithin.execXsBar {vc : Fin 480} {sn : Fin 32} {rs1 : BitVec 5} (hs : Within lim s) : ResWithin lim (execXsBar vc sn rs1 s) :=
  .when (fun _ h => .ite (.illegal h) (.vcSync (.ownBar h))) hs

theorem Within.xdEnqueue {vc : Nat} {w : BitVec 512} {rd : Option Nat} (hs : Within lim s) : Within lim (s.xdEnqueue vc w rd) := by
  refine .ite (.retire ?_) ?_
  · split
    · exact .setXr (.dmaEnqueue hs)
    · exact .dmaEnqueue hs
  · split
    · exact .retire (.setXr hs)
    · exact .updRv hs (fun _ => .upd)

theorem Within.xdScratch {vc : Nat} {a : Word} {rd : Option Nat} (hs : Within lim s) : Within lim (s.xdScratch vc a rd) := by
  unfold State.xdScratch
  split
  · exact .exception hs
  · exact .ite (.exception hs) (.xdEnqueue hs)

theorem ResWithin.execXdQ {vc : Fin 480} {rs1 : BitVec 5} (hs : Within lim s) : ResWithin lim (execXdQ vc rs1 s) :=
  .when (fun _ h => .xdScratch h) hs

theorem ResWithin.execXdQv {vc : Fin 480} {vs2 : BitVec 5} (hs : Within lim s) : ResWithin lim (execXdQv vc vs2 s) :=
  .when (fun _ h => .ite (.xdEnqueue h) (.illegal h)) hs

theorem ResWithin.execXdTq {vc : Fin 480} {rs1 rd : BitVec 5} (hs : Within lim s) : ResWithin lim (execXdTq vc rs1 rd s) :=
  .when (fun _ h => .xdScratch h) hs

theorem ResWithin.execXdTqv {vc : Fin 480} {vs2 rd : BitVec 5} (hs : Within lim s) : ResWithin lim (execXdTqv vc vs2 rd s) :=
  .when (fun _ h => .ite (.xdEnqueue h) (.illegal h)) hs

theorem Within.setMip {k i : Nat} {b : Bool} (hs : Within lim s) : Within lim (s.setMip k i b) :=
  .setCsr hs

theorem ResWithin.execVcInterruptTake {vc : Fin 480} (hs : Within lim s) : ResWithin lim (execVcInterruptTake vc s) := by
  refine .next ?_
  split
  · exact .ite hs (.takeTrap (.dropWaiters (.setSync hs)))
  · exact hs

theorem ResWithin.execMtimeCompare {core : RvCore} (hs : Within lim s) : ResWithin lim (execMtimeCompare core s) :=
  .when (fun _ h => .setMip h) hs

theorem ResWithin.execReservationTimeout {core : RvCore} (hs : Within lim s) : ResWithin lim (execReservationTimeout core s) :=
  .next (.updRv hs (fun _ => .upd))

end Sys2Proof.Machine
end

section
/-! Host commands and records: what each function leaves (Machine/HostBase). -/

namespace Sys2Proof.Machine

variable {lim : Limits} {s : State}

theorem Within.setPba {m : Nat} {b : Bool} (hs : Within lim s) : Within lim (s.setPba m b) :=
  .putB hs

theorem Within.sendVec {m : Nat} (hs : Within lim s) : Within lim (s.sendVec m) :=
  .upd (.setPba (.emit hs))

theorem Within.flushVec {m : Nat} (hs : Within lim s) : Within lim (s.flushVec m) :=
  .ite hs (.ite (.setPba hs) (.ite hs (.sendVec hs)))

theorem Within.fireVec {f v : Nat} (hs : Within lim s) : Within lim (s.fireVec f v) :=
  .flushVec (.upd hs)

theorem ResWithin.execMsixModerationExpiry {m : Fin 2048} (hs : Within lim s) : ResWithin lim (execMsixModerationExpiry m s) :=
  .when (fun _ h => .flushVec (.upd h)) hs

theorem Within.unmaskVec {m : Nat} (hs : Within lim s) : Within lim (s.unmaskVec m) :=
  .flushVec (.putF hs)

theorem ResWithin.execMsixUnmask {m : Fin 2048} (hs : Within lim s) : ResWithin lim (execMsixUnmask m s) :=
  .next (.unmaskVec hs)

theorem Within.putRecord {r : Nat} {bs : List Byte} (hs : Within lim s) : Within lim (s.putRecord r bs) :=
  .ite (.fireVec (.upd (.ite (.putF (.putF (.emit hs))) (.putF (.emit hs))))) (.ite (.putF (.putF (.emit hs))) (.putF (.emit hs)))

theorem Within.postEvent {p ty : Nat} {payload : List Byte} (hs : Within lim s) : Within lim (s.postEvent p ty payload) :=
  .ite hs (.ite (.setEvts hs) (.setEvts hs))

theorem Via.postRequest {p ty : Nat} {payload : List Byte} (hs : Within lim s) : Via Prod.fst lim (s.postRequest p ty payload) :=
  .ite (.pair hs) (.pair (.ite (.setEvts hs) (.setEvts hs)))

theorem ResWithin.execEventRecordWrite {p : Fin 16} (hs : Within lim s) : ResWithin lim (execEventRecordWrite p s) := by
  refine .next ?_
  split
  · exact hs
  · exact .ite (.ite (.postEvent (.setEvts (.putRecord (.setEvts hs)))) (.putRecord (.setEvts hs))) hs

theorem Within.closeCmd {src : CmdSrc} {c : Cmd} {started : Bool} (hs : Within lim s) : Within lim (s.closeCmd src c started) :=
  .upd hs

theorem Within.cadenceFails {p i status : Nat} (hs : Within lim s) : Within lim (s.cadenceFails p i status) := by
  unfold State.cadenceFails
  dsimp only
  split
  · exact .upd hs
  · exact hs

theorem Within.complete {src : CmdSrc} {c : Cmd} {started : Bool} {status result : Nat} (hs : Within lim s) :
    Within lim (s.complete src c started status result) := by
  unfold State.complete
  dsimp only
  split
  · exact .ite (.closeCmd hs) (.cadenceFails (.closeCmd hs))
  · exact .ite (.closeCmd hs) (.upd (.closeCmd hs))

theorem Within.markStarted {src : CmdSrc} {c : Cmd} (hs : Within lim s) : Within lim (s.markStarted src c) :=
  .upd hs

theorem RecWithin.cmdRead {src : CmdSrc} {c : Cmd} {va n : Nat} (hs : Within lim s) : RecWithin lim (s.cmdRead src c va n) := by
  unfold State.cmdRead
  dsimp only
  split
  · exact .wait (Via.vRead hs)
  · exact .ite (.bad (Via.vRead hs)) (.bytes (Via.vRead hs))

theorem ResWithin.runCmd {src : CmdSrc} {c : Cmd} {mine : Bool} {used : List (Nat × Nat)} {act : State → CmdDo} (hs : Within lim s)
    (hact : ∀ t, Within lim t → CmdWithin lim (act t)) : ResWithin lim (s.runCmd src c mine used act) := by
  refine .when (fun _ h => .ite (.complete h) ?_) hs
  split
  · exact .complete ((hact _ h).ofDone ‹_›)
  · exact ((hact _ h).ofHold ‹_›)
  · exact .markStarted ((hact _ h).ofRun ‹_›)

theorem CmdWithin.withRecord {src : CmdSrc} {c : Cmd} {va n : Nat} {act : State → List Byte → CmdDo} (hs : Within lim s) (hact : ∀ t x1,
    Within lim t → CmdWithin lim (act t x1)) : CmdWithin lim (s.withRecord src c va n act) := by
  unfold State.withRecord
  split
  · exact .hold ((RecWithin.cmdRead hs).ofWait ‹_›)
  · exact .done ((RecWithin.cmdRead hs).ofBad ‹_›)
  · exact (hact _ _ ((RecWithin.cmdRead hs).ofBytes ‹_›))

theorem Within.cmdReadFailed {k : Nat} (hs : Within lim s) : Within lim (s.cmdReadFailed k) := by
  unfold State.cmdReadFailed
  split
  · exact .complete hs
  · exact hs

theorem ResWithin.execRingNop {src : CmdSrc} {c : Cmd} (hs : Within lim s) : ResWithin lim (execRingNop src c s) :=
  .ite (.runCmd hs (fun _ h => .done h)) (.when (fun _ h => .complete h) hs)

end Sys2Proof.Machine
end

section
/-! Ports: what each function leaves (Machine/Link). -/

namespace Sys2Proof.Machine

variable {lim : Limits} {s : State}

theorem Within.linkEvent {n what : Nat} (hs : Within lim s) : Within lim (s.linkEvent n what) :=
  .ite (.postEvent hs) hs

theorem Within.noLanes {n : Nat} (hs : Within lim s) : Within lim (s.noLanes n) :=
  .putF (.putF hs)

theorem Within.perr {n lo len : Nat} (hs : Within lim s) : Within lim (s.perr n lo len) :=
  .putF (.addF hs)

theorem Within.toDetect {n : Nat} (hs : Within lim s) : Within lim (s.toDetect n) :=
  .ite (.raiseP (.perr (.updPort (.putF (.putF (.noLanes hs)))))) (.updPort (.putF (.putF (.noLanes hs))))

theorem Within.toDisabled {n : Nat} (hs : Within lim s) : Within lim (s.toDisabled n) := by
  unfold State.toDisabled
  exact .updPort (.putF (.putF (.noLanes hs)))

theorem Within.latchCtl {n : Nat} (hs : Within lim s) : Within lim (s.latchCtl n) :=
  .updPort hs

theorem Within.toRetrain {n cause : Nat} {lanes : BitVec 4} {tell : Bool} (hs : Within lim s) :
    Within lim (s.toRetrain n cause lanes tell) :=
  .ite hs (.raiseP (.perr (.latchCtl (.updPort (.putF (.noLanes (.ite (.emit hs) hs)))))))

theorem Within.toQuarantine {n : Nat} (hs : Within lim s) : Within lim (s.toQuarantine n) :=
  .linkEvent (.raiseP (.updPort (.putF (.noLanes hs))))

theorem Within.unquarantine {n : Nat} (hs : Within lim s) : Within lim (s.unquarantine n) :=
  .ite (.linkEvent (.toDetect hs)) hs

theorem Within.rateLimit {n vc : Nat} (hs : Within lim s) : Within lim (s.rateLimit n vc) :=
  .ite (.putF (.setPort hs)) (.setPort hs)

theorem Within.violate {n cls src : Nat} {rl : Option Nat} (hs : Within lim s) : Within lim (s.violate n cls src rl) := by
  refine .ite (.toQuarantine (.updPort ?_)) (.updPort ?_)
  · split
    · exact .rateLimit (.raiseP (.putF (.putF (.putF (.addF hs)))))
    · exact .raiseP (.putF (.putF (.putF (.addF hs))))
  · split
    · exact .rateLimit (.raiseP (.putF (.putF (.putF (.addF hs)))))
    · exact .raiseP (.putF (.putF (.putF (.addF hs))))

theorem Within.violateRetrain {n cls : Nat} (hs : Within lim s) : Within lim (s.violateRetrain n cls) :=
  .toRetrain (.violate hs)

theorem ResWithin.execRateLimitExpiry {p : Fin 18} {vc : Fin 8} (hs : Within lim s) : ResWithin lim (execRateLimitExpiry p vc s) :=
  .when (fun _ h => .putB (.updPort h)) hs

theorem Within.replayFrom {n : Nat} {ack : BitVec 12} (hs : Within lim s) : Within lim (s.replayFrom n ack) := by
  unfold State.replayFrom
  dsimp only
  split
  · exact hs
  · exact .ite (.toRetrain (.perr (.setPort hs))) (.perr (.setPort hs))

theorem Within.takeAck {n : Nat} {ack : BitVec 12} {nak : Bool} (hs : Within lim s) : Within lim (s.takeAck n ack nak) :=
  .ite (.violateRetrain hs) (.ite (.setPort hs) (.ite (.setPort hs) (.replayFrom (.setPort hs))))

theorem ResWithin.execReplayTimeout {p : Fin 18} (hs : Within lim s) : ResWithin lim (execReplayTimeout p s) := by
  refine .when (fun _ h => ?_) hs
  split
  · exact .replayFrom h
  · exact h

theorem Within.badFlit {n : Nat} (hs : Within lim s) : Within lim (s.badFlit n) :=
  .updPort (.perr hs)

theorem ResWithin.onFlit {n : Nat} {bs : List Byte} {ftype : Nat} {act : State → Nat → State} (hs : Within lim s) (hact : ∀ t x1, Within
    lim t → Within lim (act t x1)) : ResWithin lim (s.onFlit n bs ftype act) :=
  .ite (.ite (.next (.ite (.badFlit hs) hs)) (.when (fun _ h => (hact _ _ h)) hs)) (.next hs)

theorem ResWithin.execDataFlit {p : Fin 18} {bytes : List Byte} (hs : Within lim s) : ResWithin lim (execDataFlit p bytes s) :=
  .onFlit hs (fun _ _ h => .ite h (.ite (.ite (.violate (.setPort h)) (.takeAck (.ite (.violate (.setPort h))
      (.ite (.violate (.setPort h)) (.setPort h))))) (.ite (.ite (.setPort h) (.violate (.setPort h))) (.ite (.setPort h)
      (.violateRetrain h)))))

theorem ResWithin.execIdleFlit {p : Fin 18} {bytes : List Byte} (hs : Within lim s) : ResWithin lim (execIdleFlit p bytes s) :=
  .onFlit hs (fun _ _ h => .ite h (.takeAck (.updPort h)))

theorem ResWithin.onCtrl {n : Nat} {bs : List Byte} {kind : Nat} {clean : List Byte → Bool} {act : State → List Byte → State}
    (hs : Within lim s) (hact : ∀ t x1, Within lim t → Within lim (act t x1)) : ResWithin lim (s.onCtrl n bs kind clean act) :=
  .onFlit hs (fun _ _ h => .ite (.violate h) (.ite h (.ite (.violate h) (hact _ _ h))))

theorem ResWithin.execCreditFlit {p : Fin 18} {bytes : List Byte} (hs : Within lim s) : ResWithin lim (execCreditFlit p bytes s) := by
  unfold Machine.execCreditFlit
  exact .onCtrl hs (fun _ _ h => .ite h (.each (fun _ _ h1 => .updPort h1) h))

theorem ResWithin.execRetrainFlit {p : Fin 18} {bytes : List Byte} (hs : Within lim s) : ResWithin lim (execRetrainFlit p bytes s) :=
  .onCtrl hs (fun _ _ h => .toRetrain h)

theorem ResWithin.execQuarantineFlit {p : Fin 18} {bytes : List Byte} (hs : Within lim s) :
    ResWithin lim (execQuarantineFlit p bytes s) :=
  .onCtrl hs (fun _ _ h => h)

theorem ResWithin.execPortEnable {p : Fin 18} (hs : Within lim s) : ResWithin lim (execPortEnable p s) :=
  .next (.ite (.toDetect (.putF hs)) (.putF hs))

theorem ResWithin.execPortDisable {p : Fin 18} (hs : Within lim s) : ResWithin lim (execPortDisable p s) :=
  .next (.toDisabled (.putF hs))

theorem ResWithin.execPortSignalDetect {p : Fin 18} (hs : Within lim s) : ResWithin lim (execPortSignalDetect p s) :=
  .when (fun _ h => .latchCtl (.putF (.upd h))) hs

theorem Within.goStep {n step : Nat} (hs : Within lim s) : Within lim (s.goStep n step) :=
  .ite (.updPort hs) (.putF hs)

theorem ResWithin.execPortTuneDone {p : Fin 18} {tuned : BitVec 4} (hs : Within lim s) : ResWithin lim (execPortTuneDone p tuned s) :=
  .when (fun _ h => .ite (.goStep (.updPort h)) (.ite (.toDetect (.updPort h)) (.updPort (.updPort h)))) hs

theorem ResWithin.execPortTuneBackoff {p : Fin 18} (hs : Within lim s) : ResWithin lim (execPortTuneBackoff p s) :=
  .when (fun _ h => .toDetect h) hs

theorem ResWithin.execPortAlignDone {p : Fin 18} {aligned : BitVec 4} {reversed : Bool} (hs : Within lim s) :
    ResWithin lim (execPortAlignDone p aligned reversed s) :=
  .when (fun _ h => .ite (.toDetect h) (.goStep (.putB (.updPort h)))) hs

theorem ResWithin.execPortStateTimeout {p : Fin 18} (hs : Within lim s) : ResWithin lim (execPortStateTimeout p s) :=
  .when (fun _ h => .toDetect h) hs

theorem ResWithin.execConfigResendTimer {p : Fin 18} (hs : Within lim s) : ResWithin lim (execConfigResendTimer p s) :=
  .when (fun _ h => .updPort h) hs

theorem Within.agree {n : Nat} {r : BitVec 256} (hs : Within lim s) : Within lim (s.agree n r) := by
  unfold State.agree
  dsimp only
  split
  · exact .toDetect hs
  · exact .ite (.linkEvent (.raiseP (.setPort (.putF (.putF (.putB (.putB (.putB (.putF (.putF (.putF hs)))))))))))
      (.setPort (.putF (.putF (.putB (.putB (.putB (.putF (.putF (.putF hs)))))))))

theorem ResWithin.execConfigFlit {p : Fin 18} {bytes : List Byte} (hs : Within lim s) : ResWithin lim (execConfigFlit p bytes s) := by
  unfold Machine.execConfigFlit
  exact .onCtrl hs (fun _ _ h => .ite (.ite h (.violateRetrain h)) (.ite (.ite (.agree (.updPort h)) (.updPort h)) h))

theorem ResWithin.execLaneLockLost {p : Fin 18} {lane : Fin 4} (hs : Within lim s) : ResWithin lim (execLaneLockLost p lane s) :=
  .when (fun _ h => .toRetrain h) hs

theorem ResWithin.execLaneErrorThreshold {p : Fin 18} {lane : Fin 4} {count : BitVec 16} (hs : Within lim s) :
    ResWithin lim (execLaneErrorThreshold p lane count s) := by
  unfold Machine.execLaneErrorThreshold
  exact .when (fun _ h => .toRetrain h) (.putF hs)

theorem ResWithin.execPortRetrain {p : Fin 18} (hs : Within lim s) : ResWithin lim (execPortRetrain p s) :=
  .next (.toRetrain hs)

theorem ResWithin.execPortUnquarantine {p : Fin 18} (hs : Within lim s) : ResWithin lim (execPortUnquarantine p s) :=
  .next (.unquarantine hs)

theorem ResWithin.execDegradedRetrainTimer {p : Fin 18} (hs : Within lim s) : ResWithin lim (execDegradedRetrainTimer p s) :=
  .when (fun _ h => .toRetrain (.updPort h)) hs

theorem ResWithin.execQuarantineReleaseTimer {p : Fin 18} (hs : Within lim s) : ResWithin lim (execQuarantineReleaseTimer p s) :=
  .when (fun _ h => .unquarantine (.updPort h)) hs

theorem ResWithin.execCreditFlitTimer {p : Fin 18} (hs : Within lim s) : ResWithin lim (execCreditFlitTimer p s) :=
  .when (fun _ h => .updPort h) hs

theorem Within.sendData {n : Nat} {f : SentFlit} {p : PortState} (hs : Within lim s) : Within lim (s.sendData n f p) :=
  .emit (.setPort hs)

theorem Within.sendFlit {n : Nat} (hs : Within lim s) : Within lim (s.sendFlit n) := by
  unfold State.sendFlit
  dsimp only
  split
  · exact .emit (.setPort hs)
  · split
    · exact .sendData hs
    · exact .ite (.emit (.setPort hs)) (.sendData (.tickFree hs))

end Sys2Proof.Machine
end

section
/-! The fabric: what each function leaves (Machine/Fabric). -/

namespace Sys2Proof.Machine

variable {lim : Limits} {s : State}

theorem Within.pushTx {n part vc : Nat} {bs : List Byte} (hs : Within lim s) : Within lim (s.pushTx n part vc bs) :=
  .updPort hs

theorem Within.pushLocal {n vc : Nat} {bs : List Byte} (hs : Within lim s) : Within lim (s.pushLocal n vc bs) :=
  .emit (.updPort hs)

theorem Within.sendMsg {m : RouteMsg} {self : Bool} (hs : Within lim s) : Within lim (s.sendMsg m self) := by
  refine .ite (.pushLocal hs) ?_
  split
  · exact .ite (.upd (.pushTx hs)) (.pushTx hs)
  · exact .upd hs

theorem Within.routeAll (hs : Within lim s) : Within lim s.routeAll :=
  .each (fun _ _ h => .sendMsg h) (.upd hs)

theorem ResWithin.execFlitTransmit {p : Fin 18} (hs : Within lim s) : ResWithin lim (execFlitTransmit p s) := by
  refine .next (.ite (.sendFlit (.routeAll hs)) (.ite ?_ (.ite (.emit (.routeAll hs)) (.routeAll hs))))
  split
  · exact .emit (.updPort (.routeAll hs))
  · exact .routeAll hs

theorem Via.request {part type dst ctx a b c : Nat} {pl : List Byte} {poison : Bool} {members : List (BitVec 14)} {owner : ReqOwner}
    (hs : Within lim s) : Via Prod.fst lim (s.request part type dst ctx a b c pl poison members owner) :=
  .pair (.sendMsg (.upd hs))

theorem Within.setReq {r : OutReq} (hs : Within lim s) : Within lim (s.setReq r) :=
  .upd hs

theorem Within.endReq {tag : BitVec 16} (hs : Within lim s) : Within lim (s.endReq tag) :=
  .upd hs

theorem Within.resend {r : OutReq} {to_ : BitVec 14} (hs : Within lim s) : Within lim (s.resend r to_) :=
  .sendMsg (.setReq hs)

theorem ResWithin.execXlateRetryResend {tag : BitVec 16} (hs : Within lim s) : ResWithin lim (execXlateRetryResend tag s) := by
  refine .next ?_
  split
  · refine .each (fun _ _ h => ?_) hs
    split
    · exact .resend h
    · exact h
  · exact hs

theorem Within.answer {n : Nat} {h : Hdr} {status : Nat} {pl : List Byte} {poison : Bool} (hs : Within lim s) :
    Within lim (s.answer n h status pl poison) :=
  .ite (.pushLocal hs) (.pushTx hs)

theorem Within.msgViolate {n cls : Nat} {h : Hdr} (hs : Within lim s) : Within lim (s.msgViolate n cls h) :=
  .violate (.ite (.answer hs) (.ite (.answer hs) (.ite (.answer hs) (.ite (.answer hs) (.ite (.answer hs) (.ite (.answer hs) hs))))))

theorem ResWithin.onMsg {n : Nat} {h : Hdr} {pl : List Byte} {mine : Bool} {act : State → Nat → State} (hs : Within lim s)
    (hact : ∀ t x1, Within lim t → Within lim (act t x1)) : ResWithin lim (s.onMsg n h pl mine act) := by
  unfold State.onMsg
  dsimp only
  refine .when (fun _ h => ?_) hs
  split
  · refine .msgViolate ?_
    split
    · exact .updPort h
    · exact h
  · refine (hact _ _ ?_)
    split
    · exact .updPort h
    · exact h

theorem Within.keepMsg {n : Nat} {h : Hdr} {rcd : Word32} (hs : Within lim s) : Within lim (s.keepMsg n h rcd) :=
  .ite (.answer hs) (.upd (.answer hs))

theorem Within.fabricSettle {rcd : Word32} {retry : Bool} (hs : Within lim s) : Within lim (s.fabricSettle rcd retry) :=
  .each (fun _ _ h => .answer h) (.upd hs)

theorem Within.msgWrite {n p : Nat} {h : Hdr} {pl : List Byte} (hs : Within lim s) : Within lim (s.msgWrite n p h pl) := by
  unfold State.msgWrite
  dsimp only
  split
  · exact .keepMsg (Via.vWrite hs)
  · exact .answer (.ite (.vPoison (Via.vWrite hs)) (Via.vWrite hs))

theorem ResWithin.execPut {p : Fin 18} {h : Hdr} {pl : List Byte} (hs : Within lim s) : ResWithin lim (execPut p h pl s) :=
  .onMsg hs (fun _ _ h => .msgWrite h)

theorem ResWithin.execMcast {p : Fin 18} {h : Hdr} {pl : List Byte} (hs : Within lim s) : ResWithin lim (execMcast p h pl s) :=
  .onMsg hs (fun _ _ h => .msgWrite h)

theorem ResWithin.execGet {p : Fin 18} {h : Hdr} {pl : List Byte} (hs : Within lim s) : ResWithin lim (execGet p h pl s) := by
  unfold Machine.execGet
  dsimp only
  refine .onMsg hs (fun _ _ h => ?_)
  split
  · exact .keepMsg (Via.vRead h)
  · exact .answer (Via.vRead h)

theorem Via.msgAtomic {part pa aop x cmp : Nat} (hs : Within lim s) : Via Prod.fst lim (s.msgAtomic part pa aop x cmp) := by
  unfold State.msgAtomic
  dsimp only
  split
  · exact .pair (Via.amoAt hs)
  · exact .pair (Via.wcClaim hs)
  · exact .pair (Via.wcPresent hs)
  · exact .pair (Via.amoAt hs)
  · exact .ite (.pair (Via.physRead hs)) (.ite (.pair (.physWrite (Via.physRead hs))) (.pair (Via.physRead hs)))

theorem ResWithin.execAtomic {p : Fin 18} {h : Hdr} {pl : List Byte} (hs : Within lim s) : ResWithin lim (execAtomic p h pl s) := by
  unfold Machine.execAtomic
  dsimp only
  refine .onMsg hs (fun _ _ h => ?_)
  split
  · exact .keepMsg (Via.openFault (Via.xlRun h))
  · exact .ite (.keepMsg (Via.openFault (Via.xlRun h))) (.answer (Via.msgAtomic (Via.xlRun h)))
  · exact (Via.xlRun h)

theorem ResWithin.execBarrierArrive {p : Fin 18} {h : Hdr} {pl : List Byte} (hs : Within lim s) :
    ResWithin lim (execBarrierArrive p h pl s) :=
  .onMsg hs (fun _ _ h => .msgViolate h)

theorem ResWithin.execBarrierRelease {p : Fin 18} {h : Hdr} {pl : List Byte} (hs : Within lim s) :
    ResWithin lim (execBarrierRelease p h pl s) := by
  refine .onMsg hs (fun _ _ h => ?_)
  split
  · exact .ite (.releaseAll h) h
  · exact h

theorem Within.sendArrive {part bid : Nat} {g : BitVec 2} (hs : Within lim s) : Within lim (s.sendArrive part bid g) :=
  .sendMsg (.tickFree hs)

theorem ResWithin.execBarrierNodeArrival {node : BarNode} {part : Fin 16} {bid : BitVec 10} {gen : BitVec 2} (hs : Within lim s) :
    ResWithin lim (execBarrierNodeArrival node part bid gen s) := by
  unfold Machine.execBarrierNodeArrival
  dsimp only
  refine .when (fun _ h => ?_) hs
  split
  · exact (Via.nodeCount (.upd h))
  · exact .upd (Via.nodeCount (.upd h))
  · exact .releaseAll (Via.nodeCount (.upd h))
  · exact .sendArrive (Via.nodeCount (.upd h))

theorem ResWithin.execProbe {p : Fin 18} {h : Hdr} {pl : List Byte} (hs : Within lim s) : ResWithin lim (execProbe p h pl s) :=
  .onMsg hs (fun _ _ h => .ite (.answer h) (.answer h))

theorem ResWithin.execNodeCfg {p : Fin 18} {h : Hdr} {pl : List Byte} (hs : Within lim s) : ResWithin lim (execNodeCfg p h pl s) :=
  .onMsg hs (fun _ _ h => .answer h)

theorem ResWithin.execPortStat {p : Fin 18} {h : Hdr} {pl : List Byte} (hs : Within lim s) : ResWithin lim (execPortStat p h pl s) :=
  .onMsg hs (fun _ _ h => .answer h)

end Sys2Proof.Machine
end

section
/-! Bulk engines: what each function leaves (Machine/Bulk). -/

namespace Sys2Proof.Machine

variable {lim : Limits} {s : State}

theorem Within.setBulk {e : Nat} {b : Option BulkState} (hs : Within lim s) : Within lim (s.setBulk e b) :=
  .upd hs

theorem Within.updBulk {e : Nat} {f : BulkState → BulkState} (hs : Within lim s) : Within lim (s.updBulk e f) :=
  .setBulk hs

theorem Within.bulkComplete {e : Nat} {b : BulkState} {code idx off : Nat} (hs : Within lim s) :
    Within lim (s.bulkComplete e b code idx off) := by
  unfold State.bulkComplete
  split
  · exact .complete (.setBulk hs)
  · exact .setBulk hs

theorem Within.bulkNext {e : Nat} {b : BulkState} {code : Nat} (hs : Within lim s) : Within lim (s.bulkNext e b code) :=
  .ite (.setBulk hs) (.bulkComplete hs)

theorem Within.bulkSend {e : Nat} {b : BulkState} {off next type a n : Nat} {pl : List Byte} {poison : Bool} (hs : Within lim s) :
    Within lim (s.bulkSend e b off next type a n pl poison) :=
  .setBulk (Via.request hs)

theorem OptWithin.bulkStep {e : Nat} {b : BulkState} (hs : Within lim s) : OptWithin lim (s.bulkStep e b) := by
  unfold State.bulkStep
  dsimp only
  have taken {d : Desc} {off n : Nat} : Within lim (s.fragBytes e b d off n).1.st := Via.copyRow hs
  refine .ite .none (.ite (.ite (.some (.bulkNext hs)) .none) (.ite (.some (.bulkNext hs)) (.ite ?_ (.ite ?_ (.ite (.some (.bulkNext hs))
    (.ite ?_ (.ite (.some (.bulkNext hs)) ?_)))))))
  · split
    · exact .ite (.some (.bulkSend hs)) .none
    · exact .ite (.ite (.some (.bulkSend hs)) .none) (.ite (.some (.setBulk hs)) .none)
  · split
    · exact .some (.setBulk (Via.descAtomic hs))
    · split
      · split
        · exact .some (.setBulk (Via.spPut (Via.descAtomic hs)))
        · exact .some (.bulkNext (Via.spPut (Via.descAtomic hs)))
      · exact .some (.bulkNext (Via.descAtomic hs))
  · split
    · refine .ite .none ?_
      split
      · exact .some (.setBulk taken)
      · exact .some (.bulkSend taken)
    · refine .ite (.ite .none ?_) (.ite (.some (.bulkNext hs)) .none)
      split
      · exact .some (.setBulk taken)
      · exact .some (.bulkSend taken)
  · split
    · exact .some (.setBulk (Via.copyRow hs))
    · split
      · split
        · exact .some (.setBulk (Via.spPut (Via.copyRow hs)))
        · exact .some (.setBulk (Via.spPut (Via.copyRow hs)))
      · exact .some (.bulkNext (Via.copyRow hs))

theorem OptWithin.mcastStep {e : Nat} {b : BulkState} {m : McastRun} (hs : Within lim s) : OptWithin lim (s.mcastStep e b m) := by
  unfold State.mcastStep
  dsimp only
  refine .ite .none (.ite (.ite .none ?_) (.ite .none (.ite (.some (.bulkComplete hs)) ?_)))
  · split
    · exact .some (.setBulk (Via.ite (.memGet hs) (.got hs)))
    · exact .some (.setBulk (.ite (.endReq (Via.request (.tickFree (Via.ite (.memGet hs) (.got hs)))))
        (Via.request (.tickFree (Via.ite (.memGet hs) (.got hs))))))
  · split
    · exact .some (.setBulk (Via.vWrite hs))
    · exact .some (.bulkComplete (Via.vWrite hs))

theorem Within.bulkRun {e fuel : Nat} (hs : Within lim s) : Within lim (s.bulkRun e fuel) := by
  induction fuel generalizing s with
  | zero => exact hs
  | succ k ih =>
    unfold State.bulkRun
    split
    · exact hs
    · next b _ =>
      have step : OptWithin lim (match b.mcast with | some m => s.mcastStep e b m | none => s.bulkStep e b) := by
        split
        · exact .mcastStep hs
        · exact .bulkStep hs
      split
      · next t e => exact ih (step.ofSome e)
      · exact hs

theorem Within.bulkGo {e : Nat} (hs : Within lim s) : Within lim (s.bulkGo e) :=
  .bulkRun hs

theorem Within.bulkKick {o : BulkOwner} (hs : Within lim s) : Within lim (s.bulkKick o) := by
  unfold State.bulkKick
  split
  · exact .bulkGo hs
  · exact hs

theorem Within.bulkRetry {e : Nat} (hs : Within lim s) : Within lim (s.bulkRetry e) :=
  .bulkGo (.updBulk hs)

theorem Within.bulkAbort {e : Nat} (hs : Within lim s) : Within lim (s.bulkAbort e) :=
  .bulkGo (.updBulk hs)

theorem Within.answered {r : OutReq} {who : BitVec 14} {e off : Nat} (hs : Within lim s) : Within lim (s.answered r who e off) :=
  .ite (.updBulk (.endReq hs)) (.setReq hs)

theorem Within.fragFail {r : OutReq} {who : BitVec 14} {e off : Nat} (hs : Within lim s) : Within lim (s.fragFail r who e off) :=
  .answered (.updBulk hs)

theorem Within.fragOk {r : OutReq} {who : BitVec 14} {e off : Nat} {pl : List Byte} {poison : Bool} (hs : Within lim s) :
    Within lim (s.fragOk r who e off pl poison) :=
  .answered (.ite (.updBulk hs) hs)

theorem ResWithin.kicked {r : Res} {src : CmdSrc} {c : Cmd} (hr : ResWithin lim r) : ResWithin lim (kicked r src c) := by
  unfold Machine.kicked
  split
  · exact .next (.bulkKick (hr.ofNext rfl))
  · exact hr

theorem ResWithin.execCopy {src : CmdSrc} {c : Cmd} (hs : Within lim s) : ResWithin lim (execCopy src c s) := by
  refine .kicked (.runCmd hs (fun _ h => .ite (.done h) (.ite (.done h) ?_)))
  split
  · exact .hold h
  · exact .withRecord h (fun _ _ h1 => .run (.setBulk h1))

theorem ResWithin.execFmcast {src : CmdSrc} {c : Cmd} (hs : Within lim s) : ResWithin lim (execFmcast src c s) := by
  refine .kicked (.runCmd hs (fun _ h => .ite (.done h) (.ite (.done h) ?_)))
  split
  · exact .hold h
  · exact .withRecord h (fun _ _ h1 => .run (.setBulk h1))

theorem Within.bulkDrop {p : Nat} (hs : Within lim s) : Within lim (s.bulkDrop p) := by
  refine .each (fun _ _ h => ?_) hs
  split
  · exact .ite (.upd (.setBulk (.dropWaiters h))) h
  · exact h

end Sys2Proof.Machine
end

section
/-! The coupling service: what each function leaves (Machine/Service). -/

namespace Sys2Proof.Machine

variable {lim : Limits} {s : State}

theorem SvcWithin.svcGet {u : UnitId} {ctx p va n : Nat} (hs : Within lim s) : SvcWithin lim (s.svcGet u ctx p va n) := by
  unfold State.svcGet
  dsimp only
  split
  · exact .miss
  · exact .ite .bad (.ok (Via.readSegs (Via.xlRun hs)))

theorem SvcWithin.svcNat {ctx p va n : Nat} (hs : Within lim s) : SvcWithin lim (s.svcNat ctx p va n) :=
  .andThen (.svcGet hs) (fun _ _ h => .ok h)

theorem SvcWithin.svcPut {u : UnitId} {ctx p va : Nat} {bs : List Byte} (hs : Within lim s) : SvcWithin lim (s.svcPut u ctx p va bs) := by
  unfold State.svcPut
  dsimp only
  split
  · exact .miss
  · exact .ok (.writeSegs (Via.xlRun hs))

theorem SvcWithin.svcSet {ctx p va n v : Nat} (hs : Within lim s) : SvcWithin lim (s.svcSet ctx p va n v) :=
  .svcPut hs

theorem SvcWithin.svcCopyF {u : UnitId} {p c1 src c2 dst n fuel : Nat} (hs : Within lim s) :
    SvcWithin lim (s.svcCopyF u p c1 src c2 dst n fuel) := by
  induction fuel generalizing s src dst n with
  | zero => exact .ok hs
  | succ k ih =>
    unfold State.svcCopyF
    dsimp only
    refine .ite (.ok hs) ?_
    split
    · exact .miss
    · split
      · exact .miss
      · exact ih (.ite (.poisonSegs (.writeSegs (Via.xlRun (Via.readSegs (Via.xlRun hs)))))
          (.writeSegs (Via.xlRun (Via.readSegs (Via.xlRun hs)))))

theorem SvcWithin.svcCopy {u : UnitId} {p c1 src c2 dst n : Nat} (hs : Within lim s) : SvcWithin lim (s.svcCopy u p c1 src c2 dst n) :=
  .svcCopyF hs

theorem SvcWithin.svcEach {α : Type} {l : List α} {f : State → α → Svc Unit} (hs : Within lim s)
    (hf : ∀ t a, Within lim t → SvcWithin lim (f t a)) : SvcWithin lim (svcEach l s f) := by
  induction l generalizing s with
  | nil => exact .ok hs
  | cons a r ih => exact .andThen (hf _ _ hs) (fun _ _ h => ih h)

theorem Via.svcMiss {p : Nat} {u : UnitId} {ctx va : Nat} {acc : Access} {x : Xl} {w : Waiter} (hs : Within lim s) :
    Via Prod.fst lim (s.svcMiss p u ctx va acc x w) :=
  .openFault hs

theorem Within.setPantry {p i : Nat} {x : Option Pantry} (hs : Within lim s) : Within lim (s.setPantry p i x) :=
  .upd hs

theorem Within.updPantry {p i : Nat} {f : Pantry → Pantry} (hs : Within lim s) : Within lim (s.updPantry p i f) :=
  .setPantry hs

theorem Within.setQuery {p q : Nat} {x : Option Query} (hs : Within lim s) : Within lim (s.setQuery p q x) :=
  .upd hs

theorem Within.setCadence {p i : Nat} {x : Option Cadence} (hs : Within lim s) : Within lim (s.setCadence p i x) :=
  .upd hs

theorem Within.updCadence {p i : Nat} {f : Cadence → Cadence} (hs : Within lim s) : Within lim (s.updCadence p i f) :=
  .setCadence hs

theorem SvcWithin.pantryClear {p ctx : Nat} {x : Pantry} (hs : Within lim s) : SvcWithin lim (s.pantryClear p ctx x) :=
  .andThen (.svcSet hs) (fun _ _ h => .andThen (.svcPut h) (fun _ _ h1 => .andThen (.svcEach h1 (fun _ _ h2 => .svcPut h2))
      (fun _ _ h2 => .svcEach h2 (fun _ _ h3 => .svcPut h3))))

theorem SvcWithin.scores {p : Nat} {x : Pantry} {l : List Nat} (hs : Within lim s) : SvcWithin lim (s.scores p x l) := by
  induction l generalizing s with
  | nil => exact .ok hs
  | cons j r ih => exact .andThen (.svcNat hs) (fun _ _ h => .andThen (ih h) (fun _ _ h1 => .ok h1))

theorem SvcWithin.placeOf {p i : Nat} {x : Pantry} {n score : Nat} (hs : Within lim s) : SvcWithin lim (s.placeOf p i x n score) :=
  .ite (.ok hs) (.ite (.ok hs) (.ite (.ok hs) (.andThen (.scores hs) (fun _ _ h => .ok h))))

theorem SvcWithin.batchOf {p i : Nat} {x : Pantry} {b f : Nat} (hs : Within lim s) : SvcWithin lim (s.batchOf p i x b f) :=
  .ite (.ok hs) (.ite (.ok hs) (.andThen (.scores hs) (fun _ _ h => .ok h)))

theorem SvcWithin.nextTicket {p : Nat} {x : Pantry} (hs : Within lim s) : SvcWithin lim (s.nextTicket p x) :=
  .andThen (.svcNat hs) (fun _ _ h => .andThen (.svcNat h) (fun _ _ h1 => .ok h1))

theorem SvcWithin.svcInc {ctx p va n : Nat} (hs : Within lim s) : SvcWithin lim (s.svcInc ctx p va n) :=
  .andThen (.svcNat hs) (fun _ _ h => .svcSet h)

theorem SvcWithin.takeInto {p : Nat} {x : Pantry} {t h : Nat} {slot : Option Nat} (hs : Within lim s) :
    SvcWithin lim (s.takeInto p x t h slot) := by
  refine .andThen ?_ (fun _ _ h => .andThen (.svcInc h) (fun _ _ h1 => .andThen (.svcPut h1) (fun _ _ h2 => .andThen (.svcSet h2)
      (fun _ _ h3 => .ok h3))))
  split
  · exact .andThen (.svcCopy hs) (fun _ _ h => .svcPut h)
  · exact .svcInc hs

theorem Within.askPantry {p i : Nat} {x : Pantry} {kind count n : Nat} (hs : Within lim s) :
    Within lim (s.askPantry p i x kind count n) :=
  .setPantry (Via.postRequest hs)

theorem Within.holdPantry {p i : Nat} {x : Pantry} {m : State × Word32} (hm : Via Prod.fst lim m) : Within lim (holdPantry p i x m) :=
  .setPantry hm

theorem Within.takeTicket {p i : Nat} (hs : Within lim s) : Within lim (s.takeTicket p i) := by
  unfold State.takeTicket
  split
  · exact hs
  · next x _ =>
    refine .ite hs ?_
    have work {r : Svc Pantry} (hr : SvcWithin lim r) :
        (r.andThen fun s x => .ok s (s.setPantry p i (some x), ())).Done (fun _ (z : State × Unit) => Within lim z.1) :=
      hr.andThenDone fun _ _ h => (done_ok ..).mpr (.setPantry h)
    dsimp only
    split
    · next e =>
      refine (?_ : Svc.Done (fun _ (z : State × Unit) => Within lim z.1) _) _ _ e
      refine (SvcWithin.nextTicket hs).andThenDone fun t r h => ?_
      split
      · exact (done_ok ..).mpr h
      · split
        · exact work (.takeInto h)
        · exact (done_ok ..).mpr h
        · split
          · exact (done_ok ..).mpr (.askPantry h)
          · exact work (.andThen (.placeOf h) fun _ _ h => .takeInto h)
    · exact .holdPantry (.svcMiss hs)
    · exact hs

theorem Within.svcEnded {o : SvcOwner} {status : Nat} (hs : Within lim s) : Within lim (s.svcEnded o status) := by
  unfold State.svcEnded
  split
  · exact .complete hs
  · exact .ite hs (.updCadence hs)

theorem SvcWithin.gather {u : UnitId} {p : Nat} {x : Pantry} {ctx a : Nat} {l : List Nat} (hs : Within lim s) :
    SvcWithin lim (s.gather u p x ctx a l) :=
  .svcEach hs (fun _ _ h => .andThen (.svcGet h) (fun _ _ h1 => .andThen (.svcPut h1) (fun _ _ h2 => .svcCopy h2)))

theorem OptWithin.pantryStep {p i : Nat} {x : Pantry} {w : SvcWork} (hs : Within lim s) : OptWithin lim (s.pantryStep p i x w) := by
  unfold State.pantryStep
  dsimp only
  split
  · split
    · exact .some (.svcEnded (.setPantry ((SvcWithin.pantryClear hs).ofOk ‹_›)))
    · exact .some (.holdPantry (.svcMiss hs))
    · exact .some (.svcEnded (.setPantry hs))
  · exact .ite (.some (.svcEnded (.setPantry hs))) .none
  · refine .ite (.some (.svcEnded (.setPantry hs))) ?_
    split
    · exact .none
    · split
      · split
        · exact .some (.svcEnded (.setPantry ((SvcWithin.andThen (.ok hs) (fun _ _ h => .gather h)).ofOk ‹_›)))
        · exact .some (.holdPantry (.svcMiss hs))
        · exact .some (.svcEnded (.setPantry hs))
      · exact .none
      · refine .ite (.some (.askPantry hs)) ?_
        split
        · exact .some (.svcEnded (.setPantry ((SvcWithin.andThen (.batchOf hs) (fun _ _ h => .gather h)).ofOk ‹_›)))
        · exact .some (.holdPantry (.svcMiss hs))
        · exact .some (.svcEnded (.setPantry hs))

theorem Within.pantryGo {p i fuel : Nat} (hs : Within lim s) : Within lim (s.pantryGo p i fuel) := by
  induction fuel generalizing s with
  | zero => exact hs
  | succ k ih =>
    unfold State.pantryGo
    dsimp only
    split
    · exact hs
    · refine .ite hs ?_
      split
      · exact .ite (.takeTicket hs) (ih (.takeTicket hs))
      · exact hs
      · split
        · exact hs
        · split
          · exact ih ((OptWithin.pantryStep hs).ofSome ‹_›)
          · exact hs

theorem Within.setIntake {p i : Nat} {r : Option IntakeRun} (hs : Within lim s) : Within lim (s.setIntake p i r) :=
  .updPantry hs

theorem SvcWithin.svcClaim {u : UnitId} {ctx p va : Nat} (hs : Within lim s) : SvcWithin lim (s.svcClaim u ctx p va) := by
  unfold State.svcClaim
  dsimp only
  split
  · exact .miss
  · exact .ite .miss (.ite .bad (.ok (Via.wcClaim (Via.xlRun hs))))
  · exact .bad

theorem OptWithin.intakeStep {p i : Nat} {x : Pantry} {r : IntakeRun} (hs : Within lim s) : OptWithin lim (s.intakeStep p i x r) := by
  unfold State.intakeStep
  dsimp only
  refine .ite .none (.ite (.some (.complete (.setIntake hs))) ?_)
  split
  · exact .none
  · split
    · split
      · exact .some (.setIntake ((SvcWithin.andThen (.svcClaim hs) (fun _ _ h => .ok h)).ofOk ‹_›))
      · exact .none
      · exact .some (.setIntake (Via.svcMiss hs))
      · exact .some (.complete (.setIntake hs))
    · split
      · exact .some (.setIntake ((SvcWithin.andThen (.svcGet hs) (fun _ _ h => .ite (.ok h) (.ite (.ok h) (.andThen (.svcCopy h)
          (fun _ _ h1 => .andThen (.svcPut (.tickFree h1)) (fun _ _ h2 => .ok h2)))))).ofOk ‹_›))
      · exact .none
      · exact .some (.setIntake (Via.svcMiss hs))
      · exact .some (.complete (.setIntake hs))

theorem Within.intakeGo {p i fuel : Nat} (hs : Within lim s) : Within lim (s.intakeGo p i fuel) := by
  induction fuel generalizing s with
  | zero => exact hs
  | succ k ih =>
    unfold State.intakeGo
    split
    · exact hs
    · split
      · exact hs
      · split
        · exact ih ((OptWithin.intakeStep hs).ofSome ‹_›)
        · exact hs

theorem SvcWithin.pubHeads {ctx p r : Nat} {l : List Nat} (hs : Within lim s) : SvcWithin lim (s.pubHeads ctx p r l) := by
  induction l generalizing s with
  | nil => exact .ok hs
  | cons b t ih => exact .andThen (.svcNat hs) (fun _ _ h => .andThen (ih h) (fun _ _ h1 => .ok h1))

theorem SvcWithin.pubLocal {x : PubRun} (hs : Within lim s) : SvcWithin lim (s.pubLocal x) := by
  refine .andThen (.pubHeads hs) (fun _ _ h => ?_)
  split
  · exact .ok h
  · exact .andThen (.svcSet h) (fun _ _ h1 => .andThen (.svcCopy h1) (fun _ _ h2 => .andThen (.svcSet h2) (fun _ _ h3 => .andThen
      (.svcPut h3) (fun _ _ h4 => .ok (.upd h4)))))

theorem Within.putPub {x : PubRun} (hs : Within lim s) : Within lim (s.putPub x) :=
  .upd hs

theorem Within.dropPub {id : Nat} (hs : Within lim s) : Within lim (s.dropPub id) :=
  .upd hs

theorem Within.pubEnd {x : PubRun} {status : Nat} (hs : Within lim s) : Within lim (s.pubEnd x status) := by
  unfold State.pubEnd
  dsimp only
  split
  · exact .ite (.updCadence (.svcEnded (.dropPub hs))) (.svcEnded (.dropPub hs))
  · exact .svcEnded (.dropPub hs)

theorem Within.pubCast {x : PubRun} {e : Nat} {members : List Nat} (hs : Within lim s) : Within lim (s.pubCast x e members) :=
  .bulkGo (.setBulk (.putPub hs))

theorem OptWithin.pubStep {x : PubRun} (hs : Within lim s) : OptWithin lim (s.pubStep x) := by
  refine .ite .none (.ite ?_ ?_)
  · split
    · exact .some (.ite (.pubEnd ((SvcWithin.pubLocal hs).ofOk ‹_›)) (.putPub ((SvcWithin.pubLocal hs).ofOk ‹_›)))
    · exact .none
    · exact .some (.putPub (Via.svcMiss hs))
    · exact .some (.pubEnd hs)
  · split
    · split
      · exact .ite (.some (.ite (.pubEnd (.setBulk hs)) (.putPub (.setBulk hs)))) .none
      · exact .some (.putPub hs)
    · split
      · exact .none
      · split
        · exact .some (.pubCast ((SvcWithin.svcGet hs).ofOk ‹_›))
        · exact .some (.putPub (Via.svcMiss hs))
        · exact .some (.pubEnd hs)

theorem Within.pubGo {fuel : Nat} (hs : Within lim s) : Within lim (s.pubGo fuel) := by
  induction fuel generalizing s with
  | zero => exact hs
  | succ k ih =>
    unfold State.pubGo
    dsimp only
    split
    · next e => exact ih ((OptWithin.findSome (fun _ => .ite .none (.pubStep hs)) _).ofSome e)
    · exact hs

theorem Within.startPub {o : SvcOwner} {p ctx va : Nat} {r : BitVec 512} (hs : Within lim s) : Within lim (s.startPub o p ctx va r) :=
  .upd hs

theorem SvcWithin.closeBatch {p : Nat} {x : Query} (hs : Within lim s) : SvcWithin lim (s.closeBatch p x) := by
  refine .andThen (.svcNat hs) (fun _ _ h => .andThen (.pubHeads h) (fun _ _ h1 => ?_))
  split
  · exact .ok h1
  · exact .andThen (.svcSet h1) (fun _ _ h2 => .andThen (.svcPut h2) (fun _ _ h3 => .ok h3))

theorem Within.batchDone {p q : Nat} {x : Query} (hs : Within lim s) : (s.batchDone p q x).Done (fun _ t => Within lim t) := by
  have next {t : State} {y : Option Query} (h : Within lim t) : Within lim (if x.stopping then t.setQuery p q none else t.setQuery p q y) :=
    .ite (.setQuery h) (.setQuery h)
  unfold State.batchDone
  dsimp only
  split
  · exact (done_ok ..).mpr (next hs)
  · exact (SvcWithin.svcNat hs).andThenDone fun _ _ h => (SvcWithin.svcSet h).andThenDone fun _ _ h => (done_ok ..).mpr (next h)

theorem OptWithin.answerStep {p q : Nat} {x : Query} {status k off : Nat} (hs : Within lim s) :
    OptWithin lim (s.answerStep p q x status k off) := by
  unfold State.answerStep
  dsimp only
  refine .ite .none (.ite ?_ (.ite ?_ (.ite .none ?_)))
  · split
    · next e => exact .some (Within.batchDone hs _ _ e)
    · exact .some (.setQuery (Via.svcMiss hs))
    · exact .some (.setQuery hs)
  · split
    · next e => exact .some (.setQuery ((SvcWithin.andThen (.ite (.ok hs) (.svcCopy hs)) fun _ _ h => .svcPut h).ofOk e))
    · exact .some (.setQuery (Via.svcMiss hs))
    · exact .some (.setQuery hs)
  · split
    · next e =>
      refine .some (.setQuery (Via.request (SvcWithin.ofOk (.ite (.ok hs) ?_) e)))
      split
      · exact .miss
      · exact .ok (Via.readSegs (Via.xlRun hs))
    · exact .some (.setQuery (Via.svcMiss hs))
    · exact .none

theorem Within.answerGo {p q fuel : Nat} (hs : Within lim s) : Within lim (s.answerGo p q fuel) := by
  induction fuel generalizing s with
  | zero => exact hs
  | succ k ih =>
    unfold State.answerGo
    split
    · exact hs
    · split
      · exact hs
      · split
        · exact ih ((OptWithin.answerStep hs).ofSome ‹_›)
        · exact hs

theorem Within.answerFrom {p q : Nat} {x : Query} {status : Nat} (hs : Within lim s) : Within lim (s.answerFrom p q x status) :=
  .answerGo (.setQuery hs)

theorem Within.closeQuery {p q : Nat} {x : Query} (hs : Within lim s) : Within lim (s.closeQuery p q x) := by
  unfold State.closeQuery
  split
  · exact .answerFrom ((SvcWithin.closeBatch hs).ofOk ‹_›)
  · exact .ite (Via.takeSignal (.setQuery ((SvcWithin.closeBatch hs).ofOk ‹_›))) (.setQuery ((SvcWithin.closeBatch hs).ofOk ‹_›))
  · exact .setQuery (Via.svcMiss hs)
  · exact hs

theorem Within.takeQuery {p q : Nat} (hs : Within lim s) : Within lim (s.takeQuery p q) := by
  unfold State.takeQuery
  dsimp only
  split
  · exact hs
  · refine .ite hs ?_
    split
    · exact .ite (.closeQuery ((SvcWithin.andThen (.svcNat hs) (fun _ _ h => .andThen (.svcGet h) (fun _ _ h1 => .ite
        (.andThen (.svcCopy h1) (fun _ _ h2 => .andThen (.svcInc h2) (fun _ _ h3 => .andThen (.svcPut h3) (fun _ _ h4 => .andThen
        (.svcSet h4) (fun _ _ h5 => .ok h5))))) (.ok h1)))).ofOk ‹_›)) (.setQuery ((SvcWithin.andThen (.svcNat hs) (fun _ _ h => .andThen
        (.svcGet h) (fun _ _ h1 => .ite (.andThen (.svcCopy h1) (fun _ _ h2 => .andThen (.svcInc h2) (fun _ _ h3 => .andThen (.svcPut h3)
        (fun _ _ h4 => .andThen (.svcSet h4) (fun _ _ h5 => .ok h5))))) (.ok h1)))).ofOk ‹_›))
    · exact ((SvcWithin.andThen (.svcNat hs) (fun _ _ h => .andThen (.svcGet h) (fun _ _ h1 => .ite (.andThen (.svcCopy h1)
        (fun _ _ h2 => .andThen (.svcInc h2) (fun _ _ h3 => .andThen (.svcPut h3) (fun _ _ h4 => .andThen (.svcSet h4) (fun _ _ h5 => .ok
        h5))))) (.ok h1)))).ofOk ‹_›)
    · exact (Via.svcMiss hs)
    · exact hs

theorem Within.replyDone {p q : Nat} {good : Bool} (hs : Within lim s) : Within lim (s.replyDone p q good) := by
  unfold State.replyDone
  split
  · exact hs
  · split
    · exact hs
    · exact .answerGo (.setQuery hs)

theorem Within.svcKick {p : Nat} (hs : Within lim s) : Within lim (s.svcKick p) :=
  .pubGo (.each (fun _ _ h => .pantryGo (.intakeGo (.pantryGo h))) (.pubGo hs))

theorem Within.svcKickAll (hs : Within lim s) : Within lim s.svcKickAll :=
  .each (fun _ _ h => .svcKick h) hs

theorem Within.svcSettle {p k : Nat} {retry : Bool} (hs : Within lim s) : Within lim (s.svcSettle p k retry) := by
  unfold State.svcSettle
  dsimp only
  refine .ite (.ite (.svcKick (.updPantry hs)) ?_) (.ite ?_ (.ite ?_ (.ite (.ite (.svcKick (.takeTicket (.updPantry hs)))
      (.svcKick (.updPantry hs))) ?_)))
  · split
    · split
      · exact .svcKick (.svcEnded (.setPantry (.updPantry hs)))
      · exact .updPantry hs
    · exact .updPantry hs
  · split
    · exact hs
    · split
      · exact .ite (.answerGo (.setQuery hs)) (.ite (.answerGo (.setQuery hs)) (.answerGo (.setQuery hs)))
      · exact .ite (.closeQuery hs) (.setQuery hs)
  · split
    · split
      · exact .ite (.svcKick (.setIntake hs)) (.svcKick (.complete (.setIntake hs)))
      · exact hs
    · exact hs
  · split
    · exact .svcKick (.ite (.putPub hs) (.pubEnd hs))
    · exact hs

end Sys2Proof.Machine
end

section
/-! Pantries and queries: what each function leaves (Machine/Pantry). -/

namespace Sys2Proof.Machine

variable {lim : Limits} {s : State}

theorem ResWithin.svcAfter {src : CmdSrc} {r : Res} (hr : ResWithin lim r) : ResWithin lim (svcAfter s src r) := by
  unfold Machine.svcAfter
  split
  · exact .next (.svcKick (hr.ofNext rfl))
  · exact hr

theorem ResWithin.pantryCmd {src : CmdSrc} {c : Cmd} {k top : Nat} {bad : Bool} {act : State → Nat → Nat → CmdDo} (hs : Within lim s)
    (hact : ∀ t p i, Within lim t → CmdWithin lim (act t p i)) : ResWithin lim (s.pantryCmd src c k top bad act) :=
  .svcAfter (.runCmd hs (fun _ h => .ite (.done h) (.ite (.done h) (hact _ _ _ h))))

theorem CmdWithin.svcCmdMiss {src : CmdSrc} {p : Nat} {u : UnitId} {ctx va : Nat} {acc : Access} {x : Xl} (hs : Within lim s) :
    CmdWithin lim (s.svcCmdMiss src p u ctx va acc x) :=
  .hold (Via.svcMiss hs)

theorem ResWithin.execPantryConfig {src : CmdSrc} {c : Cmd} (hs : Within lim s) : ResWithin lim (execPantryConfig src c s) := by
  unfold Machine.execPantryConfig
  dsimp only
  refine .pantryCmd hs (fun _ _ _ h => .ite (.hold h) (.withRecord h (fun _ _ h1 => .ite (.done h1) ?_)))
  split
  · exact .done (.setPantry ((SvcWithin.pantryClear h1).ofOk ‹_›))
  · exact .svcCmdMiss h1
  · exact .done h1

theorem CmdWithin.giveWork {src : CmdSrc} {c : Cmd} {p i : Nat} {k : SvcKind} {n a : Nat} (hs : Within lim s) :
    CmdWithin lim (s.giveWork src c p i k n a) := by
  unfold State.giveWork
  split
  · exact .done hs
  · exact .run (.setPantry hs)

theorem ResWithin.execPantryReset {src : CmdSrc} {c : Cmd} (hs : Within lim s) : ResWithin lim (execPantryReset src c s) :=
  .pantryCmd hs (fun _ _ _ h => .giveWork h)

theorem ResWithin.execPantryIntake {src : CmdSrc} {c : Cmd} (hs : Within lim s) : ResWithin lim (execPantryIntake src c s) := by
  refine .pantryCmd hs (fun _ _ _ h => ?_)
  split
  · exact .done h
  · exact .run (.setPantry h)

theorem ResWithin.execPantrySelect {src : CmdSrc} {c : Cmd} (hs : Within lim s) : ResWithin lim (execPantrySelect src c s) := by
  refine .pantryCmd hs (fun _ _ _ h => ?_)
  split
  · exact .done h
  · split
    · exact .ite (.done h) (.withRecord h (fun _ _ h1 => .ite (.done (.setPantry h1)) (.done h1)))
    · exact .done h

theorem ResWithin.execPantryFeed {src : CmdSrc} {c : Cmd} (hs : Within lim s) : ResWithin lim (execPantryFeed src c s) :=
  .pantryCmd hs (fun _ _ _ h => .giveWork h)

theorem ResWithin.execPantryPublish {src : CmdSrc} {c : Cmd} (hs : Within lim s) : ResWithin lim (execPantryPublish src c s) :=
  .pantryCmd hs (fun _ _ _ h => .withRecord h (fun _ _ h1 => .ite (.done h1) (.run (.startPub h1))))

theorem ResWithin.execPantryQuery {src : CmdSrc} {c : Cmd} (hs : Within lim s) : ResWithin lim (execPantryQuery src c s) := by
  refine .pantryCmd hs (fun _ _ _ h => .withRecord h (fun _ _ h1 => .ite (.done h1) ?_))
  split
  · exact .ite (.done (.setQuery h1)) (.done h1)
  · exact .ite (.done (.setQuery h1)) (.ite (.done (.setQuery h1)) (.hold h1))

theorem ResWithin.execPantryUnconfig {src : CmdSrc} {c : Cmd} (hs : Within lim s) : ResWithin lim (execPantryUnconfig src c s) :=
  .pantryCmd hs (fun _ _ _ h => .giveWork h)

theorem ResWithin.execPantryTicketTake {p : Fin 16} {i : Fin 10} (hs : Within lim s) : ResWithin lim (execPantryTicketTake p i s) :=
  .when (fun _ h => .ite (.takeQuery (.svcKick h)) (.ite (.svcKick (.takeTicket (.svcKick h))) (.svcKick h))) hs

theorem SvcWithin.laterCommitted {ctx p t n : Nat} {slot : Nat → Nat} {k : Nat} (hs : Within lim s) :
    SvcWithin lim (s.laterCommitted ctx p t n slot k) := by
  induction k generalizing s with
  | zero => exact .ok hs
  | succ j ih => exact .ite (ih hs) (.andThen (.svcNat hs) (fun _ _ h => .ite (.ok h) (ih h)))

theorem SvcWithin.skipTicket {ctx p ctrl n : Nat} {slot : Nat → Nat} (hs : Within lim s) :
    SvcWithin lim (s.skipTicket ctx p ctrl n slot) :=
  .andThen (.svcNat hs) (fun _ _ h => .andThen (.svcNat h) (fun _ _ h1 => .ite (.ok h1) (.andThen (.laterCommitted h1) (fun _ _ h2 =>
      .ite (.ok h2) (.andThen (.svcInc h2) (fun _ _ h3 => .andThen (.svcPut h3) (fun _ _ h4 => .svcSet h4)))))))

theorem ResWithin.execIntakeSkip {p : Fin 16} {i : Fin 10} (hs : Within lim s) : ResWithin lim (execIntakeSkip p i s) := by
  unfold Machine.execIntakeSkip
  dsimp only
  refine .ite (.next hs) (.ite ?_ ?_)
  · split
    · refine .ite (.next hs) ?_
      split
      · exact .next (.svcKick ((SvcWithin.skipTicket hs).ofOk ‹_›))
      · exact .next (Via.svcMiss hs)
      · exact .next hs
    · exact .next hs
  · split
    · split
      · exact .next (.svcKick ((SvcWithin.skipTicket hs).ofOk ‹_›))
      · exact .next (Via.svcMiss hs)
      · exact .next hs
    · exact .next hs

theorem ResWithin.execQueryBatchTimeout {p : Fin 16} {i : Fin 2} (hs : Within lim s) : ResWithin lim (execQueryBatchTimeout p i s) := by
  unfold Machine.execQueryBatchTimeout
  split
  · exact .when (fun _ h => .svcKick (.closeQuery h)) hs
  · exact .next hs

theorem ResWithin.execQueryDoneRead {p : Fin 16} {i : Fin 2} (hs : Within lim s) : ResWithin lim (execQueryDoneRead p i s) := by
  unfold Machine.execQueryDoneRead
  split
  · refine .when (fun _ h => ?_) hs
    split
    · exact .ite (.svcKick (.answerFrom ((SvcWithin.svcNat h).ofOk ‹_›))) ((SvcWithin.svcNat h).ofOk ‹_›)
    · exact (Via.svcMiss h)
    · exact h
  · exact .next hs

theorem ResWithin.execQueryDoneTimeout {p : Fin 16} {i : Fin 2} (hs : Within lim s) : ResWithin lim (execQueryDoneTimeout p i s) := by
  unfold Machine.execQueryDoneTimeout
  split
  · exact .when (fun _ h => .svcKick (.answerFrom h)) hs
  · exact .next hs

end Sys2Proof.Machine
end

section
/-! Cadences: what each function leaves (Machine/Cadence). -/

namespace Sys2Proof.Machine

variable {lim : Limits} {s : State}

theorem Within.cadStatus {p i : Nat} (hs : Within lim s) : Within lim (s.cadStatus p i) := by
  unfold State.cadStatus
  split
  · exact hs
  · exact (Via.vWrite hs)

theorem Within.askCadence {p i reason phase status : Nat} (hs : Within lim s) : Within lim (s.askCadence p i reason phase status) := by
  unfold State.askCadence
  split
  · exact hs
  · exact .setCadence (Via.postRequest hs)

theorem Within.cadStop {p i : Nat} (hs : Within lim s) : Within lim (s.cadStop p i) := by
  unfold State.cadStop
  split
  · exact hs
  · split
    · exact .complete (.cadStatus (.setCadence hs))
    · exact .cadStatus (.setCadence hs)

theorem Within.cadPeriodEnd {p i : Nat} (hs : Within lim s) : Within lim (s.cadPeriodEnd p i) := by
  unfold State.cadPeriodEnd
  split
  · exact hs
  · exact .ite (.cadStop (.updCadence (.ite (.askCadence (.cadStatus (.setCadence hs))) (.cadStatus (.setCadence hs)))))
      (.updCadence (.ite (.askCadence (.cadStatus (.setCadence hs))) (.cadStatus (.setCadence hs))))

theorem Within.cadFailed {p i : Nat} (hs : Within lim s) : Within lim (s.cadFailed p i) := by
  unfold State.cadFailed
  split
  · exact hs
  · exact .ite (.cadStop (.askCadence (.cadStatus (.setCadence hs)))) (.askCadence (.cadStatus (.setCadence hs)))

theorem SvcWithin.committed_go {p : Nat} {x : Pantry} {t k : Nat} (hs : Within lim s) :
    SvcWithin lim (State.committed.go p x t s k) := by
  induction k generalizing s with
  | zero => exact .ok hs
  | succ j ih => exact .andThen (.svcNat hs) fun _ _ h => .andThen (ih h) fun _ _ h => .ok h

theorem SvcWithin.committed {p : Nat} {x : Pantry} (hs : Within lim s) : SvcWithin lim (s.committed p x) :=
  .andThen (.svcNat hs) (fun _ _ h => .committed_go h)

theorem Within.cadBegin {p i : Nat} {c : Cadence} (hs : Within lim s) : Within lim (s.cadBegin p i c) := by
  unfold State.cadBegin
  dsimp only
  refine .ite ?_ (.ite ?_ (.ite ?_ ?_))
  · split
    · exact .setCadence (.setCadence hs)
    · split
      · exact .setCadence (.setCadence hs)
      · refine .ite (.setCadence (.setCadence hs)) ?_
        split
        · exact .setCadence ((SvcWithin.committed (.setCadence hs)).ofOk ‹_›)
        · exact .setCadence (Via.svcMiss (.setCadence hs))
        · exact .setCadence (.setCadence hs)
  · split
    · exact .setCadence (.setCadence hs)
    · exact .svcKick (.updPantry (.setCadence hs))
  · split
    · exact .upd ((SvcWithin.svcGet (.setCadence hs)).ofOk ‹_›)
    · exact .setCadence (Via.svcMiss (.setCadence hs))
    · exact .setCadence (.setCadence hs)
  · split
    · exact .ite (.setCadence ((SvcWithin.svcGet (.setCadence hs)).ofOk ‹_›))
        (.svcKick (.startPub ((SvcWithin.svcGet (.setCadence hs)).ofOk ‹_›)))
    · exact .setCadence (Via.svcMiss (.setCadence hs))
    · exact .setCadence (.setCadence hs)

theorem Within.cadNext {p i fuel : Nat} (hs : Within lim s) : Within lim (s.cadNext p i fuel) := by
  induction fuel generalizing s with
  | zero => exact hs
  | succ k ih =>
    unfold State.cadNext
    dsimp only
    split
    · exact hs
    · exact .ite (.cadPeriodEnd hs) (.ite (ih (.setCadence hs)) (.cadBegin hs))

theorem ResWithin.execCadencePeriodStart {p : Fin 16} {i : Fin 4} (hs : Within lim s) : ResWithin lim (execCadencePeriodStart p i s) := by
  unfold Machine.execCadencePeriodStart
  dsimp only
  split
  · exact .next hs
  · exact .when (fun _ h => .ite (.cadStatus (.setCadence h)) (.cadNext (.setCadence h))) hs

theorem Within.phaseOver {p i : Nat} {c : Cadence} (hs : Within lim s) : Within lim (s.phaseOver p i c) :=
  .ite (.cadFailed hs) (.ite (.cadPeriodEnd (.setCadence hs)) (.ite (.cadStop hs) (.ite (.cadStatus (.setCadence hs))
      (.cadNext (.setCadence hs)))))

theorem Within.cadGo {p i : Nat} (hs : Within lim s) : Within lim (s.cadGo p i) := by
  unfold State.cadGo
  split
  · exact hs
  · exact .ite (.phaseOver hs) hs

theorem ResWithin.execCadencePhaseEnd {p : Fin 16} {i : Fin 4} (hs : Within lim s) : ResWithin lim (execCadencePhaseEnd p i s) :=
  .next (.cadGo (.svcKick hs))

theorem Within.svcResume {p : Nat} (hs : Within lim s) : Within lim (s.svcResume p) := by
  refine .each (fun _ _ h => ?_) hs
  split
  · exact h
  · exact .ite h (.ite (.cadNext (.setCadence h)) (.setCadence h))

theorem Within.cadSettle {p i : Nat} {retry : Bool} (hs : Within lim s) : Within lim (s.cadSettle p i retry) := by
  unfold State.cadSettle
  split
  · exact hs
  · exact .ite (.cadBegin hs) (.setCadence hs)

theorem ResWithin.cadenceCmd {src : CmdSrc} {c : Cmd} {k : Nat} {bad : Bool} {act : State → Nat → Nat → CmdDo} (hs : Within lim s)
    (hact : ∀ t x1 x2, Within lim t → CmdWithin lim (act t x1 x2)) : ResWithin lim (s.cadenceCmd src c k bad act) := by
  refine .runCmd hs (fun _ h => ?_)
  split
  · exact .done h
  · exact .ite (.done h) (.ite (.done h) (hact _ _ _ h))

theorem ResWithin.execCadenceStart {src : CmdSrc} {c : Cmd} (hs : Within lim s) : ResWithin lim (execCadenceStart src c s) :=
  .cadenceCmd hs (fun _ _ _ h => .ite (.done h) (.withRecord h (fun _ _ h1 => .ite (.done h1) (.done (.setCadence h1)))))

theorem ResWithin.execCadenceStop {src : CmdSrc} {c : Cmd} (hs : Within lim s) : ResWithin lim (execCadenceStop src c s) := by
  refine .cadenceCmd hs (fun _ _ _ h => ?_)
  split
  · exact .done h
  · exact .ite (.hold h) (.ite (.done h) (.ite (.run (.setCadence h)) (.done (.cadStop h))))

theorem ResWithin.execCadenceAdjust {src : CmdSrc} {c : Cmd} (hs : Within lim s) : ResWithin lim (execCadenceAdjust src c s) := by
  refine .cadenceCmd hs (fun _ _ _ h => ?_)
  split
  · exact .done h
  · exact .ite (.done h) (.ite (.done h) (.done (.setCadence h)))

theorem ResWithin.execCadenceResume {src : CmdSrc} {c : Cmd} (hs : Within lim s) : ResWithin lim (execCadenceResume src c s) := by
  refine .cadenceCmd hs (fun _ _ _ h => ?_)
  split
  · exact .done h
  · exact .ite (.done h) (.done (.setCadence h))

theorem Within.svcDrop {p : Nat} (hs : Within lim s) : Within lim (s.svcDrop p) := by
  refine .upd (.dropWaiters (.upd (.each (fun _ _ h => ?_) hs)))
  split
  · split
    · exact .ite (.setBulk h) h
    · exact h
  · exact h

end Sys2Proof.Machine
end

section
/-! Reductions: what each function leaves (Machine/Reduce). -/

namespace Sys2Proof.Machine

variable {lim : Limits} {s : State}

theorem Within.putRed {r : RedState} (hs : Within lim s) : Within lim (s.putRed r) :=
  .upd hs

theorem Within.updCur {r : RedState} {f : RedRound → RedRound} (hs : Within lim s) : Within lim (s.updCur r f) := by
  unfold State.updCur
  split
  · exact .putRed hs
  · exact hs

theorem Within.redLate {lo len : Nat} (hs : Within lim s) : Within lim (s.redLate lo len) :=
  .putF (.addF hs)

theorem Within.lateCount (hs : Within lim s) : Within lim s.lateCount :=
  .redLate hs

theorem Within.discCount (hs : Within lim s) : Within lim s.discCount :=
  .redLate hs

theorem Within.exclCount (hs : Within lim s) : Within lim s.exclCount :=
  .redLate hs

theorem Within.sendRed {part type vc : Nat} {ports : List Nat} {a b c : Nat} {pl : List Byte} (hs : Within lim s) :
    Within lim (s.sendRed part type vc ports a b c pl) :=
  .sendMsg (.tickFree hs)

theorem Within.sendSum {part id : Nat} {r : RedRound} {f : Nat} {x : Frag} {els : List AccEl} {first fuel : Nat} (hs : Within lim s) :
    Within lim (s.sendSum part id r f x els first fuel) := by
  induction fuel generalizing s els first with
  | zero => exact hs
  | succ k ih => exact .ite hs (ih (.sendRed hs))

theorem Within.writeFrag {red : RedState} {f : Nat} (hs : Within lim s) : Within lim (s.writeFrag red f) := by
  unfold State.writeFrag
  dsimp only
  split
  · exact hs
  · split
    · exact hs
    · split
      · exact .updCur (Via.vWrite hs)
      · split
        · exact .updCur (Via.vWrite (Via.vWrite hs))
        · exact (Via.vWrite (Via.vWrite hs))

theorem Within.startWrite {part id f : Nat} {res : Nat × BitVec 8 × List Byte} (hs : Within lim s) :
    Within lim (s.startWrite part id f res) := by
  unfold State.startWrite
  dsimp only
  split
  · exact hs
  · split
    · refine .writeFrag ?_
      split
      · exact .ite (.each (fun _ _ h => .sendRed h) (.updCur hs)) (.updCur hs)
      · exact .updCur hs
    · split
      · exact .ite (.each (fun _ _ h => .sendRed h) (.updCur hs)) (.updCur hs)
      · exact .updCur hs

theorem Within.closeFrag {part id f : Nat} {deadline : Bool} (hs : Within lim s) : Within lim (s.closeFrag part id f deadline) := by
  unfold State.closeFrag
  dsimp only
  split
  · exact hs
  · split
    · exact hs
    · refine .ite (.startWrite (.updCur hs)) ?_
      split
      · exact .startWrite (.ite (.updCur hs) (.sendSum (.updCur hs)))
      · exact .ite (.updCur hs) (.sendSum (.updCur hs))

theorem Within.settleFrag {part id f : Nat} (hs : Within lim s) : Within lim (s.settleFrag part id f) := by
  unfold State.settleFrag
  split
  · split
    · exact .ite (.closeFrag hs) hs
    · exact hs
  · exact hs

theorem Within.settleStats {part id : Nat} (hs : Within lim s) : Within lim (s.settleStats part id) := by
  unfold State.settleStats
  split
  · exact hs
  · split
    · exact hs
    · refine .ite hs (.each (fun _ _ h => ?_) hs)
      split
      · exact h
      · split
        · exact h
        · exact .ite (.settleFrag (.updCur h)) h

theorem Via.lateArrival {red : RedState} {r : RedRound} {f first : Nat} {els : List AccEl} {count : Nat} {status : BitVec 8}
    (hs : Within lim s) : Via Prod.fst lim (s.lateArrival red r f first els count status) := by
  unfold State.lateArrival
  dsimp only
  split
  · exact .pair (.lateCount hs)
  · split
    · exact .ite (.pair (.putRed (.lateCount hs))) (.pair (.lateCount hs))
    · exact .pair (.lateCount hs)

theorem Within.addLocal {red : RedState} {r : RedRound} {f i : Nat} {els : List AccEl} (hs : Within lim s) :
    Within lim (s.addLocal red r f i els) :=
  .ite (.updCur (.discCount hs)) (.updCur hs)

theorem Within.dropLocal {red : RedState} {r : RedRound} {f i : Nat} (hs : Within lim s) : Within lim (s.dropLocal red r f i) :=
  .updCur (.exclCount hs)

theorem Within.localRead {red : RedState} {r : RedRound} {f i : Nat} (hs : Within lim s) : Within lim (s.localRead red r f i) := by
  unfold State.localRead
  dsimp only
  split
  · exact (Via.vRead (.updCur hs))
  · split
    · exact (Via.vRead (.updCur hs))
    · split
      · exact (Via.vRead (.updCur hs))
      · exact .ite (.ite (.updCur (.exclCount (Via.vRead (.updCur hs)))) (.updCur (Via.lateArrival (Via.vRead (.updCur hs)))))
          (.ite (.settleFrag (.dropLocal (Via.vRead (.updCur hs)))) (.ite (.settleFrag (.updCur (.sendRed (Via.vRead (.updCur hs)))))
          (.settleFrag (.addLocal (Via.vRead (.updCur hs))))))

theorem ResWithin.execLocalContribRead {id : BitVec 12} {frag : Nat} {i : Fin 64} (hs : Within lim s) :
    ResWithin lim (execLocalContribRead id frag i s) := by
  refine .next ?_
  split
  · split
    · exact .localRead hs
    · exact hs
  · exact hs

theorem ResWithin.execFragmentDeadline {id : BitVec 12} {frag : Nat} (hs : Within lim s) :
    ResWithin lim (execFragmentDeadline id frag s) := by
  refine .next ?_
  split
  · split
    · exact hs
    · exact .ite (.ite hs (.updCur (Via.postRequest hs))) (.closeFrag hs)
  · exact hs

theorem Within.endRound {red : RedState} {num : Nat} (hs : Within lim s) : Within lim (s.endRound red num) := by
  unfold State.endRound
  split
  · exact .settleStats (.putRed hs)
  · exact hs

theorem Within.statsDone {job : Nat} {ok : Bool} {r : RedRound} (hs : Within lim s) : Within lim (s.statsDone job ok r) :=
  .upd hs

theorem Within.roundDone {red : RedState} {r : RedRound} (hs : Within lim s) : Within lim (s.roundDone red r) := by
  unfold State.roundDone
  dsimp only
  split
  · exact .complete (.endRound hs)
  · exact .statsDone (.endRound hs)

theorem ResWithin.execResultWriteAck {id : BitVec 12} {frag : Nat} (hs : Within lim s) :
    ResWithin lim (execResultWriteAck id frag s) := by
  refine .next ?_
  split
  · split
    · exact hs
    · exact .ite (.roundDone hs) (.settleStats (.putRed hs))
  · exact hs

theorem Within.contribSettle {part id f i : Nat} {retry : Bool} (hs : Within lim s) : Within lim (s.contribSettle part id f i retry) := by
  unfold State.contribSettle
  split
  · exact hs
  · split
    · exact hs
    · exact .ite hs (.ite (.localRead hs) (.ite (.settleFrag (.dropLocal hs)) (.updCur (.exclCount hs))))

theorem Within.writeEnding {red : RedState} {f : Nat} (hs : Within lim s) : Within lim (s.writeEnding red f) := by
  refine .each (fun _ _ h => ?_) hs
  split
  · exact .ite h (Via.vWrite (Via.vWrite h))
  · exact h

theorem Within.resultSettle {part id f : Nat} {retry : Bool} (hs : Within lim s) : Within lim (s.resultSettle part id f retry) := by
  unfold State.resultSettle
  dsimp only
  split
  · split
    · exact .ite (.writeEnding hs) hs
    · exact hs
  · split
    · refine .ite (.writeEnding ?_) ?_
      · split
        · exact .ite (.writeEnding hs) hs
        · exact hs
      · split
        · exact .ite (.writeEnding hs) hs
        · exact hs
    · refine .ite (.ite (.writeEnding ?_) ?_) (.ite (.writeFrag (.putRed ?_)) ?_)
      · split
        · exact .ite (.writeEnding hs) hs
        · exact hs
      · split
        · exact .ite (.writeEnding hs) hs
        · exact hs
      · split
        · exact .ite (.writeEnding hs) hs
        · exact hs
      · split
        · refine .complete (.endRound (.dropWaiters ?_))
          split
          · exact .ite (.writeEnding hs) hs
          · exact hs
        · refine .statsDone (.endRound (.dropWaiters ?_))
          split
          · exact .ite (.writeEnding hs) hs
          · exact hs

theorem Within.takeContrib {n : Nat} {h : Hdr} {pl : List Byte} {red : RedState} {r : RedRound} (hs : Within lim s) :
    Within lim (s.takeContrib n h pl red r) :=
  .ite (.msgViolate hs) (.ite (.ite (Via.lateArrival hs) (.answer (Via.lateArrival hs))) (.ite (.msgViolate hs)
      (.ite (.settleFrag (.updCur (.exclCount hs))) (.settleFrag (.updCur hs)))))

theorem ResWithin.execReduceContrib {p : Fin 18} {h : Hdr} {pl : List Byte} (hs : Within lim s) :
    ResWithin lim (execReduceContrib p h pl s) := by
  unfold Machine.execReduceContrib
  dsimp only
  refine .onMsg hs (fun _ _ h => ?_)
  split
  · exact .msgViolate h
  · split
    · exact .answer h
    · exact .ite (.msgViolate h) (.ite (.answer h) (.takeContrib h))

theorem ResWithin.execReduceResult {p : Fin 18} {h : Hdr} {pl : List Byte} (hs : Within lim s) :
    ResWithin lim (execReduceResult p h pl s) := by
  unfold Machine.execReduceResult
  dsimp only
  refine .onMsg hs (fun _ _ h => ?_)
  split
  · exact .msgViolate h
  · split
    · exact .msgViolate h
    · exact .ite (.msgViolate h) (.ite (.msgViolate h) (.ite (.startWrite h) (.ite (.updCur h) (.msgViolate h))))

theorem ResWithin.execReductionHang {id : BitVec 12} {frag : Nat} (hs : Within lim s) : ResWithin lim (execReductionHang id frag s) := by
  refine .next ?_
  split
  · exact .ite hs (.raiseM (.updCur hs))
  · exact hs

theorem Within.startRound {part id w : Nat} {r : RedRound} (hs : Within lim s) : Within lim (s.startRound part id w r) := by
  unfold State.startRound
  split
  · exact .putRed hs
  · exact .addF (.upd hs)

theorem ResWithin.execRedjob {src : CmdSrc} {c : Cmd} (hs : Within lim s) : ResWithin lim (execRedjob src c s) :=
  .runCmd hs (fun _ h => .ite (.done h) (.withRecord h (fun _ _ h1 => .ite (.done h1) (.ite (.done h1) (.withRecord h1 (fun _ _ h2 =>
      .ite (.done h2) (.ite (.done h2) (.ite (.done h2) (.ite (.hold h2) (.run (.startRound h2)))))))))))

theorem ResWithin.execRedctlClose {src : CmdSrc} {c : Cmd} (hs : Within lim s) : ResWithin lim (execRedctlClose src c s) := by
  refine .runCmd hs (fun _ h => .ite (.done h) ?_)
  split
  · exact .done h
  · split
    · exact .done h
    · exact .ite (.done h) (.done (.each (fun _ _ h1 => .closeFrag h1) (.updCur h)))

theorem Within.killRound {r : RedRound} (hs : Within lim s) : Within lim (s.killRound r) := by
  unfold State.killRound
  split
  · exact .complete hs
  · exact .statsDone hs

theorem Within.unconfigRed {red : RedState} (hs : Within lim s) : Within lim (s.unconfigRed red) := by
  refine .ite ?_ (.upd ?_)
  · split
    · refine .killRound ?_
      split
      · exact .killRound (.putF (.dropWaiters (.upd hs)))
      · exact .putF (.dropWaiters (.upd hs))
    · split
      · exact .killRound (.putF (.dropWaiters (.upd hs)))
      · exact .putF (.dropWaiters (.upd hs))
  · split
    · refine .killRound ?_
      split
      · exact .killRound (.putF (.dropWaiters (.upd hs)))
      · exact .putF (.dropWaiters (.upd hs))
    · split
      · exact .killRound (.putF (.dropWaiters (.upd hs)))
      · exact .putF (.dropWaiters (.upd hs))

theorem ResWithin.execRedctlUnconfigure {src : CmdSrc} {c : Cmd} (hs : Within lim s) : ResWithin lim (execRedctlUnconfigure src c s) := by
  refine .runCmd hs (fun _ h => .ite (.done h) ?_)
  split
  · exact .done h
  · exact .done (.unconfigRed h)

end Sys2Proof.Machine
end

section
/-! The cellar: what each function leaves (Machine/Cellar). -/

namespace Sys2Proof.Machine

variable {lim : Limits} {s : State}

theorem Within.progWrite {ctx part va : Nat} {bs : List Byte} (hs : Within lim s) : Within lim (s.progWrite ctx part va bs) :=
  (Via.vWrite hs)

theorem Within.writeProg {j : UpdJob} {status : Nat} (hs : Within lim s) : Within lim (s.writeProg j status) :=
  .progWrite hs

theorem Within.putJob {j : UpdJob} (hs : Within lim s) : Within lim (s.putJob j) :=
  .upd hs

theorem Within.showCe {e : Nat} (hs : Within lim s) : Within lim (s.showCe e) :=
  .setReg hs

theorem Within.startCe {e p : Nat} (hs : Within lim s) : Within lim (s.startCe e p) := by
  refine .ite hs ?_
  split
  · exact hs
  · exact .showCe (.setCe hs)

theorem Within.freeCes {j : UpdJob} (hs : Within lim s) : Within lim (s.freeCes j) :=
  .each (fun _ _ h => .startCe (.ite (.showCe (.setCe (.dropWaiters h))) (.dropWaiters h))) hs

theorem Within.endJob {j : UpdJob} {status : Nat} (hs : Within lim s) : Within lim (s.endJob j status) :=
  .freeCes (.ite (.ite (.complete (.upd (.writeProg hs))) (.complete (.upd (.writeProg hs)))) (.each (fun _ _ h => .countSet
      (.putB (.addF (.putF (.putF h))))) (.ite (.complete (.upd (.writeProg hs))) (.complete (.upd (.writeProg hs))))))

theorem Within.statsPut {j : UpdJob} {e : Nat} {sums : SMap AccEl} {excl : Bool} (hs : Within lim s) :
    Within lim (s.statsPut j e sums excl) := by
  unfold State.statsPut
  dsimp only
  split
  · exact hs
  · exact .settleStats (.putRed hs)

theorem Within.ctlPut {pa : Nat} {bs : List Byte} {fuel : Nat} (hs : Within lim s) : Within lim (s.ctlPut pa bs fuel) := by
  induction fuel generalizing s pa bs with
  | zero => exact hs
  | succ k ih => exact .ite hs (ih (.ctlWrite hs))

theorem Via.ceRead {e ctx part va n : Nat} {direct : Bool} (hs : Within lim s) : Via LineRes.st lim (s.ceRead e ctx part va n direct) :=
  .ite (.lineRes (Via.xlRun hs)) (.readSegs (Via.xlRun hs))

theorem Within.ceWrite {e ctx part va : Nat} {bs : List Byte} {direct : Bool} (hs : Within lim s) :
    Within lim (s.ceWrite e ctx part va bs direct) := by
  unfold State.ceWrite
  have run : Within lim (s.xlRun (ceUnit e) ctx part va bs.length .write).st := Via.xlRun hs
  exact .ite (Via.each (part := Prod.fst) (fun _ _ h => .pair (.ctlPut h)) (.pair run)) (.writeSegs run)

theorem Via.phase1 {e ctx part : Nat} {w : Waiter} {l : List Area} (hs : Within lim s) : Via Prod.fst lim (s.phase1 e ctx part w l) := by
  induction l generalizing s with
  | nil => exact .pair hs
  | cons a rest ih =>
    unfold State.phase1
    dsimp only
    split
    · exact .pair (Via.openFault (Via.xlRun hs))
    · exact .ite (.pair (Via.xlRun hs)) (ih (Via.xlRun hs))

theorem Via.readAreas {e ctx part : Nat} {l : List Area} (hs : Within lim s) : Via Prod.fst lim (s.readAreas e ctx part l) := by
  induction l generalizing s with
  | nil => exact .pair hs
  | cons a rest ih => exact .ite (ih hs) (.pair (ih (Via.ceRead hs)))

theorem Within.ceFinish {k : Nat} {j : UpdJob} (hs : Within lim s) : Within lim (s.ceFinish k j) :=
  .ite (.endJob (.putJob hs)) (.startCe (.showCe (.setCe (.putJob hs))))

theorem Within.ceSeek {k : Nat} {j : UpdJob} {i c : Nat} (hs : Within lim s) : Within lim (s.ceSeek k j i c) := by
  unfold State.ceSeek
  dsimp only
  split
  · exact .setCe hs
  · exact .ite (.ceFinish hs) (.statsPut (.putJob (.setCe hs)))

theorem Within.cePass2 {k : Nat} {j : UpdJob} (hs : Within lim s) : Within lim (s.cePass2 k j) :=
  .ceSeek (.setCe hs)

theorem Within.ceNext {k : Nat} {j : UpdJob} (hs : Within lim s) : Within lim (s.ceNext k j) := by
  unfold State.ceNext
  dsimp only
  split
  · exact .ite (.ceSeek (.setCe hs)) (.ceSeek hs)
  · exact .ceSeek hs

theorem Within.ceStop {k : Nat} {j : UpdJob} {status : Nat} (hs : Within lim s) : Within lim (s.ceStop k j status) :=
  .ite (.statsPut (.setCe (.putJob hs))) (.endJob (.putJob hs))

theorem Within.doChunk {k : Nat} {j : UpdJob} (hs : Within lim s) : Within lim (s.doChunk k j) := by
  unfold State.doChunk
  dsimp only
  split
  · exact .setCe (Via.phase1 hs)
  · exact .ceStop (Via.phase1 hs)
  · exact .ite (.ceStop (Via.readAreas (Via.phase1 hs))) (.ite (.ceNext (.setCe (Via.readAreas (Via.phase1 hs))))
      (.ceNext (.putJob (.setCe (.each (fun _ _ h => .ceWrite h) (Via.readAreas (Via.phase1 hs)))))))

theorem Within.stackClean {st : Nat} (hs : Within lim s) : Within lim (s.stackClean st) :=
  .each (fun _ _ h => .each (fun _ _ h1 => .rangeRoom h1) h) hs

theorem Via.ceTurn {e : Nat} (hs : Within lim s) : Via Prod.fst lim (s.ceTurn e) := by
  refine .ite (.pair hs) ?_
  split
  · exact .pair (.upd hs)
  · exact .pair (.upd hs)
  · exact .pair hs

theorem ResWithin.execCellarChunk {s : Fin 12} {st : State} (hst : Within lim st) : ResWithin lim (execCellarChunk s st) := by
  unfold Machine.execCellarChunk
  dsimp only
  refine .next ?_
  split
  · exact hst
  · split
    · exact (Via.ceTurn hst)
    · refine .showCe (.ite (Via.ceTurn hst) ?_)
      split
      · refine .ite (.stackClean (Via.ceTurn hst)) (.ite ?_ (.cePass2 (.putJob (.stackClean (Via.ceTurn hst)))))
        split
        · exact .ceSeek (.putJob (.setCe (.stackClean (Via.ceTurn hst))))
        · exact .putJob (.setCe (.stackClean (Via.ceTurn hst)))
      · exact .doChunk (Via.ceTurn hst)
      · exact .doChunk (Via.ceTurn hst)
      · exact (Via.ceTurn hst)
      · exact (Via.ceTurn hst)

theorem Within.chunkSettle {k : Nat} {retry : Bool} (hs : Within lim s) : Within lim (s.chunkSettle k retry) := by
  unfold State.chunkSettle
  split
  · exact hs
  · exact .ite hs (.showCe (.ite (.setCe hs) (.ceStop (.setCe hs))))

theorem Within.ceRound {k : Nat} {j : UpdJob} (hs : Within lim s) : Within lim (s.ceRound k j) := by
  unfold State.ceRound
  dsimp only
  refine .ite (.endJob hs) (.ite (.endJob hs) ?_)
  split
  · exact .setCe (Via.phase1 hs)
  · exact (Via.phase1 hs)
  · exact .ite (.endJob (Via.ceRead (Via.phase1 hs)))
      (.cePass2 (.ite (Via.postRequest (.writeProg (.putJob (Via.ceRead (Via.phase1 hs))))) (.putJob (Via.ceRead (Via.phase1 hs)))))

theorem ResWithin.execCellarStatsRoundDone {s : Fin 12} {st : State} (hst : Within lim st) :
    ResWithin lim (execCellarStatsRoundDone s st) := by
  refine .next ?_
  split
  · exact hst
  · split
    · exact .showCe (.ceRound hst)
    · exact hst

theorem CmdWithin.jobRefused {c : Cmd} {part r status : Nat} (hs : Within lim s) : CmdWithin lim (s.jobRefused c part r status) :=
  .done (.ite (.progWrite hs) hs)

theorem Within.jobStart {src : CmdSrc} {c : Cmd} {r red : Nat} {es sets : List (List Byte)} {prog : Nat} (hs : Within lim s) :
    Within lim (s.jobStart src c r red es sets prog) := by
  unfold State.jobStart
  exact .each (fun _ _ h => .startCe h) (.ite (.startRound (.upd hs)) (.upd hs))

theorem CmdWithin.jobCheck {src : CmdSrc} {c : Cmd} {r : Nat} {es sets : List (List Byte)} {red prog : Nat} (hs : Within lim s) :
    CmdWithin lim (s.jobCheck src c r es sets red prog) := by
  unfold State.jobCheck
  dsimp only
  refine .ite (.done hs) (.ite (.done hs) (.ite (.jobRefused hs) (.ite (.jobRefused hs) (.ite (.hold hs) ?_))))
  split
  · exact .ite (.done (.upd (.writeProg (.jobStart hs)))) (.run (.jobStart hs))
  · exact .run (.jobStart hs)

theorem ResWithin.execUpdjob {src : CmdSrc} {c : Cmd} (hs : Within lim s) : ResWithin lim (execUpdjob src c s) :=
  .runCmd hs (fun _ h => .ite (.done h) (.withRecord h (fun _ _ h1 => .ite (.jobRefused h1) (.withRecord h1 (fun _ _ h2 => .withRecord h2
      (fun _ _ h3 => .ite (.withRecord h3 (fun _ _ h4 => .ite (.withRecord h4 (fun _ _ h5 => .jobCheck h5)) (.jobCheck h4)))
      (.ite (.withRecord h3 (fun _ _ h4 => .jobCheck h4)) (.jobCheck h3))))))))

theorem Within.stopJob {j : UpdJob} (hs : Within lim s) : Within lim (s.stopJob j) := by
  unfold State.stopJob
  dsimp only
  split
  · exact .endJob (.ite hs (.each (fun _ _ h => .ite h (.ite h (.statsPut h))) hs))
  · exact .ite hs (.each (fun _ _ h => .ite h (.ite h (.statsPut h))) hs)

theorem Within.stopJobsOn {p : Nat} {es : List Nat} (hs : Within lim s) : Within lim (s.stopJobsOn p es) := by
  refine .each (fun _ _ h => ?_) hs
  split
  · exact .stopJob h
  · exact h

theorem ResWithin.execUpdstop {src : CmdSrc} {c : Cmd} (hs : Within lim s) : ResWithin lim (execUpdstop src c s) := by
  unfold Machine.execUpdstop
  dsimp only
  refine .runCmd hs (fun _ h => ?_)
  split
  · exact .done h
  · refine .ite (.done (.complete h)) ?_
    split
    · exact .done (.stopJob h)
    · exact .done h

end Sys2Proof.Machine
end

section
/-! Commands of the host: what each function leaves (Machine/HostCmds). -/

namespace Sys2Proof.Machine

variable {lim : Limits} {s : State}

theorem Within.barClear {part bid : Nat} (hs : Within lim s) : Within lim (s.barClear part bid) := by
  unfold State.barClear
  split
  · exact hs
  · refine .each (fun _ _ h => ?_) (.upd hs)
    dsimp only
    split
    · next e =>
      have found := (OptCtxWithin.savedSync (.ite (.setSync h) h)).ofSome e
      exact .putSaved (.ite (.setSync h) h) (.upd found)
    · exact .ite (.setSync h) h

theorem Within.barPut {part bid : Nat} {c : BarCfg} (hs : Within lim s) : Within lim (s.barPut part bid c) :=
  .each (fun _ _ h => .upd h) (.upd (.barClear hs))

theorem ResWithin.execBarcfg {src : CmdSrc} {c : Cmd} (hs : Within lim s) : ResWithin lim (execBarcfg src c s) :=
  .runCmd hs (fun _ h => .ite (.done h) (.withRecord h (fun _ _ h1 => .ite (.done h1) (.ite (.ite (.done h1) (.done (.barClear h1)))
      (.withRecord h1 (fun _ _ h2 => .ite (.done h2) (.ite (.done h2) (.ite (.done h2) (.ite (.done h2) (.done (.barPut h2)))))))))))

theorem Within.sendNode {port : Nat} {owner : ReqOwner} {rec_ : List Byte} (hs : Within lim s) :
    Within lim (s.sendNode port owner rec_) :=
  .sendMsg (.upd (.tickFree hs))

theorem ResWithin.execFabcfg {src : CmdSrc} {c : Cmd} (hs : Within lim s) : ResWithin lim (execFabcfg src c s) :=
  .runCmd hs (fun _ h => .ite (.done h) (.ite (.done h) (.ite (.hold h) (.withRecord h (fun _ _ h1 => .run
      (.each (fun _ _ h2 => .sendNode h2) h1))))))

theorem Within.nodeDone {r : OutReq} {src : CmdSrc} {c : Cmd} {i : Nat} {ok : Bool} (hs : Within lim s) :
    Within lim (s.nodeDone r src c i ok) :=
  .ite (.complete (.upd (.endReq hs))) (.ite (.endReq hs) (.complete (.endReq hs)))

theorem ResWithin.portctl {src : CmdSrc} {c : Cmd} {mine : Bool} {act : State → Nat → State} (hs : Within lim s) (hact : ∀ t x1, Within
    lim t → Within lim (act t x1)) : ResWithin lim (s.portctl src c mine act) :=
  .runCmd hs (fun _ h => .ite (.done h) (.ite (.done h) (.done (hact _ _ h))))

theorem ResWithin.execPortctlUnquarantine {src : CmdSrc} {c : Cmd} (hs : Within lim s) :
    ResWithin lim (execPortctlUnquarantine src c s) :=
  .portctl hs (fun _ _ h => .unquarantine h)

theorem ResWithin.execPortctlRetrain {src : CmdSrc} {c : Cmd} (hs : Within lim s) : ResWithin lim (execPortctlRetrain src c s) :=
  .portctl hs (fun _ _ h => .toRetrain h)

theorem ResWithin.execInval {src : CmdSrc} {c : Cmd} (hs : Within lim s) : ResWithin lim (execInval src c s) :=
  .runCmd hs (fun _ h => .ite (.done h) (.ite (.done h) (.ite (.done h) (.run (.putF (.queueInv h))))))

theorem Within.invGo {scope : Nat} (hs : Within lim s) : Within lim (s.invGo scope) :=
  .mmuInvGo (.putF hs)

theorem ResWithin.execInvalidateAll (hs : Within lim s) : ResWithin lim (execInvalidateAll s) :=
  .next (.invGo hs)

theorem ResWithin.execInvalidateContext (hs : Within lim s) : ResWithin lim (execInvalidateContext s) :=
  .next (.invGo hs)

theorem ResWithin.execInvalidateRange (hs : Within lim s) : ResWithin lim (execInvalidateRange s) :=
  .next (.invGo hs)

theorem Within.bindGran {g p : Nat} (hs : Within lim s) : Within lim (s.bindGran g p) :=
  .updParts hs

theorem Within.memFinish {src : CmdSrc} {c : Cmd} (hs : Within lim s) : Within lim (s.memFinish src c) :=
  .complete (.each (fun _ _ h => .bindGran h) (.each (fun _ _ h => .releaseGib h) hs))

theorem Within.invDone (hs : Within lim s) : Within lim s.invDone := by
  unfold State.invDone
  split
  · exact hs
  · split
    · exact .ite (.memFinish (.putF (.putF (.upd (.dropCached hs))))) (.complete (.putF (.putF (.upd (.dropCached hs)))))
    · exact .putF (.putF (.upd (.dropCached hs)))

theorem ResWithin.execInvalidationComplete (hs : Within lim s) : ResWithin lim (execInvalidationComplete s) :=
  .next (.invDone hs)

theorem ResWithin.execAtsInvalidateRequest {pasid : Option (BitVec 20)} {page pages : Nat} (hs : Within lim s) :
    ResWithin lim (execAtsInvalidateRequest pasid page pages s) :=
  .next (.emit (.upd hs))

end Sys2Proof.Machine
end

section
/-! Answers of the fabric: what each function leaves (Machine/Answers). -/

namespace Sys2Proof.Machine

variable {lim : Limits} {s : State}

theorem Within.reqGood {r : OutReq} {who : BitVec 14} {pl : List Byte} {poison : Bool} (hs : Within lim s) :
    Within lim (s.reqGood r who pl poison) := by
  unfold State.reqGood
  split
  · exact .bulkGo (.fragOk hs)
  · exact .nodeDone hs
  · exact .replyDone (.endReq hs)

theorem Within.reqBad {r : OutReq} {who : BitVec 14} (hs : Within lim s) : Within lim (s.reqBad r who) := by
  unfold State.reqBad
  split
  · exact .bulkGo (.fragFail hs)
  · exact .nodeDone hs
  · exact .replyDone (.endReq hs)

theorem ResWithin.execFabricResponse {p : Fin 18} {h : Hdr} {pl : List Byte} (hs : Within lim s) :
    ResWithin lim (execFabricResponse p h pl s) := by
  refine .onMsg hs (fun _ _ h => .ite h ?_)
  split
  · exact .msgViolate h
  · exact .ite (.msgViolate h) (.ite (.setReq h) (.ite (.ite (.resend h) (.msgViolate h)) (.svcKickAll (.ite (.reqGood h) (.reqBad h)))))

theorem ResWithin.execTransactionTimeout {tag : BitVec 16} (hs : Within lim s) : ResWithin lim (execTransactionTimeout tag s) := by
  refine .next ?_
  split
  · exact hs
  · refine .ite hs (.svcKickAll (.each (fun _ _ h => ?_) hs))
    split
    · exact .reqBad h
    · exact h

end Sys2Proof.Machine
end

section
/-! The audit log: what each function leaves (Machine/Audit). -/

namespace Sys2Proof.Machine

variable {lim : Limits} {s : State}

theorem Within.auditPut {r : AuditRec} (hs : Within lim s) : Within lim (s.auditPut r) :=
  .upd hs

theorem Within.audit {ty who : Nat} {data : List Nat} (hs : Within lim s) : Within lim (s.audit ty who data) :=
  .ite (.upd hs) (.auditPut hs)

theorem Within.auditRestore (hs : Within lim s) : Within lim s.auditRestore :=
  .ite hs (.auditPut (.each (fun _ _ h => .auditPut h) (.upd hs)))

end Sys2Proof.Machine
end

section
/-! Rings and records: what each function leaves (Machine/HostRings). -/

namespace Sys2Proof.Machine

variable {lim : Limits} {s : State}

theorem Within.dbBad {f : Nat} (hs : Within lim s) : Within lim (s.dbBad f) :=
  .putF (.addF hs)

theorem Within.winErr {f : Nat} (hs : Within lim s) : Within lim (s.winErr f) :=
  .putF (.addF hs)

theorem Within.dbMap {r : Nat} (hs : Within lim s) : Within lim (s.dbMap r) :=
  .putF hs

theorem ResWithin.execSqDoorbell {f : Fin 16} {r : Fin 1024} {v : Word32} (hs : Within lim s) : ResWithin lim (execSqDoorbell f r v s) :=
  .when (fun _ h => .ite (.dbBad (.dbMap h)) (.upd (.putF (.dbMap h)))) hs

theorem ResWithin.execCqDoorbell {f : Fin 16} {r : Fin 1024} {v : Word32} (hs : Within lim s) : ResWithin lim (execCqDoorbell f r v s) :=
  .when (fun _ h => .ite (.dbBad (.dbMap h)) (.ite (.putF (.dbMap h)) (.ite (.fireVec (.putF (.dbMap h))) (.upd (.putF (.dbMap h)))))) hs

theorem ResWithin.execCommandFetch {r : Fin 1024} {data : Option Cmd} (hs : Within lim s) :
    ResWithin lim (execCommandFetch r data s) := by
  unfold Machine.execCommandFetch
  dsimp only
  refine .when (fun _ h => ?_) hs
  split
  · exact .upd (.putF h)
  · exact .postEvent (.putF (.putF h))

theorem Within.ringStart {r : Nat} (hs : Within lim s) : Within lim (s.ringStart r) :=
  .ite (.putF (.putF (.upd (.putF (.setReg (.putF hs)))))) (.putF (.putF (.upd (.putF (.setReg (.putF hs))))))

theorem Within.ringStop {r : Nat} (hs : Within lim s) : Within lim (s.ringStop r) :=
  .putF (.putF (.putF hs))

theorem Within.ringCfgWrite {r : Nat} {v : Word} (hs : Within lim s) : Within lim (s.ringCfgWrite r v) :=
  .ite (.ite hs (.ringStop hs)) (.ite (.ringStart (.putF (.putF (.putF (.putF hs))))) (.putF (.putF (.putF (.putF hs)))))

theorem ResWithin.execRingEnable {f : Fin 16} {r : Fin 1024} {v : Word} (hs : Within lim s) : ResWithin lim (execRingEnable f r v s) :=
  .when (fun _ h => .ringCfgWrite h) hs

theorem ResWithin.execRingDisable {f : Fin 16} {r : Fin 1024} {v : Word} (hs : Within lim s) : ResWithin lim (execRingDisable f r v s) :=
  .when (fun _ h => .ringCfgWrite h) hs

theorem ResWithin.execCompletionRecordWrite {r : Fin 1024} (hs : Within lim s) : ResWithin lim (execCompletionRecordWrite r s) := by
  refine .next ?_
  split
  · exact hs
  · exact .ite (.putRecord (.upd hs)) hs

theorem Within.fnPop {p : Nat} (hs : Within lim s) : Within lim (s.fnPop p) := by
  unfold State.fnPop
  dsimp only
  split
  · exact .emit hs
  · exact .emit (.setReg (.setEvts (.each (fun _ _ h => .setReg h) hs)))

theorem ResWithin.execFnPop {f : Fin 16} (hs : Within lim s) : ResWithin lim (execFnPop f s) :=
  .when (fun _ h => .fnPop h) hs

theorem Within.barAnswer {f : Nat} {isRead ok : Bool} {data : List Byte} {poison : Bool} (hs : Within lim s) :
    Within lim (s.barAnswer f isRead ok data poison) :=
  .ite (.emit (.ite hs (.winErr hs))) (.ite hs (.winErr hs))

theorem BarWithin.barTry {f va : Nat} {data : Option (List Byte)} {len : Nat} (hs : Within lim s) :
    BarWithin lim (s.barTry f va data len) := by
  unfold State.barTry
  dsimp only
  refine .ite (.bad hs) ?_
  split
  · refine .ite (.bad hs) ?_
    split
    · exact .ok (.physWrite hs)
    · exact .ok (Via.physRead hs)
  · split
    · exact .ite (.bad (Via.xlRun hs)) (.wait (Via.openFault (Via.xlRun hs)))
    · exact .bad (Via.xlRun hs)
    · refine .ite (.bad (Via.xlRun hs)) ?_
      split
      · exact .ok (.writeSegs (Via.xlRun hs))
      · exact .ok (Via.readSegs (Via.xlRun hs))

theorem Within.barAccess {f va : Nat} {data : Option (List Byte)} {len : Nat} (hs : Within lim s) :
    Within lim (s.barAccess f va data len) := by
  unfold State.barAccess
  dsimp only
  split
  · exact .barAnswer ((BarWithin.barTry hs).ofOk ‹_›)
  · exact .barAnswer ((BarWithin.barTry hs).ofBad ‹_›)
  · exact .ite (.barAnswer ((BarWithin.barTry hs).ofWait ‹_›)) (.upd ((BarWithin.barTry hs).ofWait ‹_›))

theorem ResWithin.execBar4Read {f : Fin 16} {off len : Nat} (hs : Within lim s) : ResWithin lim (execBar4Read f off len s) :=
  .when (fun _ h => .barAccess h) hs

theorem ResWithin.execBar4Write {f : Fin 16} {off : Nat} {data : List Byte} (hs : Within lim s) :
    ResWithin lim (execBar4Write f off data s) :=
  .when (fun _ h => .barAccess h) hs

theorem Within.unhold {h : HeldBar} (hs : Within lim s) : Within lim (s.unhold h) :=
  .upd hs

theorem ResWithin.execBar4HoldExpiry {f : Fin 16} {id : Nat} (hs : Within lim s) : ResWithin lim (execBar4HoldExpiry f id s) := by
  refine .next ?_
  split
  · exact .barAnswer (.unhold hs)
  · exact hs

theorem Within.barSettle {rcd : Word32} {retry : Bool} (hs : Within lim s) : Within lim (s.barSettle rcd retry) :=
  .each (fun _ _ h => .ite (.barAccess (.unhold h)) (.barAnswer (.unhold h))) hs

end Sys2Proof.Machine
end

section
/-! Kernels: what each function leaves (Machine/Kernels). -/

namespace Sys2Proof.Machine

variable {lim : Limits} {s : State}

theorem Within.updKern {id : Nat} {f : Kernel → Kernel} (hs : Within lim s) : Within lim (s.updKern id f) :=
  .upd hs

theorem Within.dropKern {id : Nat} (hs : Within lim s) : Within lim (s.dropKern id) :=
  .upd hs

theorem Within.startMc {n pc : Nat} {mem : Bool} {arg : Word} {ctx strict : Nat} (hs : Within lim s) :
    Within lim (s.startMc n pc mem arg ctx strict) :=
  .setKey (.setReg (.setReg (.setSync (.setReg (.setReg (.putB (.putF (.setMc hs (.upd (.mc hs))))))))))

theorem Within.startVc {c pc : Nat} {arg : Word} {ctx strict : Nat} (hs : Within lim s) : Within lim (s.startVc c pc arg ctx strict) := by
  have core : RvWithin lim {
      pc := BitVec.ofNat 64 pc, x := mset 0 [] 10 arg, csr := (s.rv c).csr.filter (fun e => keepsCsr e.1), mode := .user
      scratch := (s.rv c).scratch, badScratch := (s.rv c).badScratch, mtimecmp := (s.rv c).mtimecmp, launched := true, ctx := ctx } := by
    intro w
    obtain ⟨scratch, -⟩ := (rvMemWf_iff _).mp (RvWithin.rv (n := c) hs w)
    exact (rvMemWf_iff _).mpr ⟨scratch, rfl⟩
  unfold State.startVc
  exact .setKey (.setReg (.setReg (.setSync (.setRv hs core))))

theorem Within.endMc {n : Nat} (hs : Within lim s) : Within lim (s.endMc n) :=
  .ite hs (.dmaEndQueue (.setSync (.putF (.putF (.updMc (.abandonMc hs) (fun _ => .upd))))))

theorem Within.endVc {c : Nat} (hs : Within lim s) : Within lim (s.endVc c) :=
  .dmaEndQueue (.setSync (.updRv (.dropWaiters hs) (fun _ => .upd)))

theorem OptCtxWithin.savedOf {c p : Nat} (hs : Within lim s) : OptCtxWithin lim (s.savedOf c p) :=
  fun _ e => .ofMem hs (List.mem_of_find?_eq_some e)

theorem Within.dropSaved {c p : Nat} (hs : Within lim s) : Within lim (s.dropSaved c p) :=
  .dropContexts hs

theorem Within.stopCell {c : Nat} {need : List Nat} (hs : Within lim s) : Within lim (s.stopCell c need) := by
  have stopped : Within lim (forEach ((upTo 4).filter (fun i => need.contains i)) s (fun s i => s.mxcStop (4 * c + i))) :=
    .each (fun _ _ h => .mxcStop h) hs
  have dropped {t : State} {p : Nat} (ht : Within lim t) : Within lim ((t.putF ⟨dmaBase c, 30, 1⟩ 1).dropSaved c p) := .dropSaved (.putF ht)
  refine .withParts (dropped (.ite (.updRv stopped fun _ => .upd) stopped)) fun x hx => ?_
  rcases List.mem_append.mp hx with old | new
  · exact .ofMem (dropped (.ite (.updRv stopped fun _ => .upd) stopped)) old
  · obtain rfl := List.mem_singleton.mp new
    exact fun _ => rfl

theorem Within.saveUnit {c u : Nat} {x : SavedCtx} (hs : Within lim s) (hx : CtxWithin lim x) : Within lim (s.saveUnit c u x) := by
  have left : Within lim (if u < 4 then s.abandonMc (4 * c + u) else if u = 4 then s.dropWaiters (fun w => w == .vc c)
      else s.dmaAbandon c) := .ite (.abandonMc hs) (.ite (.dropWaiters hs) (.dmaAbandon hs))
  unfold State.saveUnit
  exact .ite (.putF (.putSaved left (.setMc (.upd hx) (.mc left))))
    (.ite (.putSaved left (.setVc (.upd hx) (.upd (.rv left)))) (.putSaved left (.upd hx)))

theorem Within.scrubCell {c : Nat} (hs : Within lim s) : Within lim (s.scrubCell c) :=
  .upd (.dropWaiters (.resetRegs (.each (fun _ _ h => .setSync h) (.setDma (.setRv (.each (fun _ _ h => .setMc h (fun _ => rfl)) hs)
      (fun _ => rfl))))))

theorem Within.cellResetNow {c : Nat} (hs : Within lim s) : Within lim (s.cellResetNow c) := by
  unfold State.cellResetNow
  dsimp only
  split
  · exact .scrubCell hs
  · exact .updKern (.ite (.updRv (.each (fun _ _ h => .updMc h (fun _ => .upd)) (.scrubCell (.ite (.endVc (.each (fun _ _ h => .endMc h)
      hs)) (.each (fun _ _ h => .endMc h) hs)))) (fun _ => .upd)) (.each (fun _ _ h => .updMc h (fun _ => .upd))
      (.scrubCell (.ite (.endVc (.each (fun _ _ h => .endMc h) hs)) (.each (fun _ _ h => .endMc h) hs)))))

theorem Within.cellReset {c : Nat} (hs : Within lim s) : Within lim (s.cellReset c) :=
  .ite (.ite hs (.updParts hs)) (.cellResetNow hs)

theorem Within.drainResets (hs : Within lim s) : Within lim s.drainResets :=
  .each (fun _ _ h => .cellResetNow h) (.updParts hs)

theorem Within.bindCell {c p : Nat} (hs : Within lim s) : Within lim (s.bindCell c p) :=
  .updParts hs

theorem Within.moveFinish {src : CmdSrc} {cmd : Cmd} (hs : Within lim s) : Within lim (s.moveFinish src cmd) := by
  refine .complete (.each (fun _ _ h => .complete (.dropKern h)) (.each (fun _ _ h => .bindCell (.scrubCell h))
    (.withParts hs fun x hx => ?_)))
  obtain ⟨y, hy, rfl⟩ := List.mem_map.mp hx
  have kept : CtxWithin lim y := .ofMem hs hy
  exact .ite kept (.ite kept (.ite kept kept))

theorem Within.stopDone {c : Nat} (hs : Within lim s) : Within lim (s.stopDone c) := by
  unfold State.stopDone
  split
  · exact hs
  · refine .ite ?_ hs
    split
    · exact .ite (.complete (.updKern hs)) (.ite (.updKern hs) (.moveFinish (.updKern hs)))
    · exact hs

theorem ResWithin.execCellSaveComplete {u : SaveUnit} (hs : Within lim s) : ResWithin lim (execCellSaveComplete u s) := by
  refine .next ?_
  split
  · exact hs
  · exact .ite (.drainResets (.stopDone (.saveUnit hs ((OptCtxWithin.savedOf hs).ofSome ‹_›)))) hs

theorem Within.restoreUnit {x : SavedCtx} {u : Nat} (hs : Within lim s) (hx : CtxWithin lim x) : Within lim (s.restoreUnit x u) := by
  have regs : Within lim ((unitRegs u).foldl (fun s o => s.setReg (cellBase x.cell + o) (mget 0 x.regs o)) s) :=
    .each (fun _ _ h => .setReg h) hs
  exact .ite (.setMc regs hx.mc) (.ite (.setRv regs hx.vc) (.each (fun _ _ h => .setSync h) (.setDma regs)))

theorem Within.releaseCell {c : Nat} (hs : Within lim s) : Within lim (s.releaseCell c) :=
  .putF (.updRv (.each (fun _ _ h => .ite (.mxcRelease h) h) hs) (fun _ => .upd))

theorem ResWithin.execCellRestoreComplete {c : Fin 480} (hs : Within lim s) : ResWithin lim (execCellRestoreComplete c s) := by
  refine .next ?_
  split
  · refine .ite (.releaseCell (.dropSaved (.each (fun _ _ h => .restoreUnit h ((OptCtxWithin.savedOf hs).ofSome ‹_›)) hs))) ?_
    split
    · exact .complete (.updKern (.releaseCell (.dropSaved (.each (fun _ _ h => .restoreUnit h ((OptCtxWithin.savedOf hs).ofSome ‹_›))
        hs))))
    · exact .updKern (.releaseCell (.dropSaved (.each (fun _ _ h => .restoreUnit h ((OptCtxWithin.savedOf hs).ofSome ‹_›)) hs)))
  · exact hs

theorem ResWithin.execLaunch {src : CmdSrc} {c : Cmd} (hs : Within lim s) : ResWithin lim (execLaunch src c s) :=
  .runCmd hs (fun _ h => .ite (.done h) (.ite (.done h) (.withRecord h (fun _ _ h1 => .ite (.done h1) (.ite (.done h1)
      (.run (.upd h1)))))))

theorem Via.readImage {k : Kernel} {va n : Nat} (hs : Within lim s) : Via AccRes.st lim (s.readImage k va n) :=
  .ite (.accRes hs) (.vRead hs)

theorem Within.startKernel {k : Kernel} {mcImg vcImg : List Byte} (hs : Within lim s) : Within lim (s.startKernel k mcImg vcImg) := by
  unfold State.startKernel
  dsimp only
  split
  · exact .complete (.updKern (.each (fun _ _ h => .startVc (.updRv h (fun _ h1 => .scrPut h1))) (.each (fun _ _ h => .startMc
      (.scrWrite h)) (.each (fun _ _ h => .updRv h (fun _ => .upd)) hs))))
  · exact .updKern (.each (fun _ _ h => .startVc (.updRv h (fun _ h1 => .scrPut h1))) (.each (fun _ _ h => .startMc (.scrWrite h))
      (.each (fun _ _ h => .updRv h (fun _ => .upd)) hs)))

theorem Within.endKernel {k : Kernel} {status result : Nat} (hs : Within lim s) : Within lim (s.endKernel k status result) := by
  unfold State.endKernel
  dsimp only
  split
  · refine .complete ?_
    split
    · exact .complete (.complete (.dropKern (.dropWaiters hs)))
    · exact .complete (.dropKern (.dropWaiters hs))
  · split
    · exact .complete (.complete (.dropKern (.dropWaiters hs)))
    · exact .complete (.dropKern (.dropWaiters hs))

theorem ResWithin.execKernelStart {k : Nat} (hs : Within lim s) : ResWithin lim (execKernelStart k s) := by
  unfold Machine.execKernelStart
  dsimp only
  refine .next ?_
  split
  · exact hs
  · refine .ite hs ?_
    split
    · exact (Via.readImage hs)
    · split
      · exact (Via.readImage (Via.readImage hs))
      · exact .ite (.endKernel (Via.readImage (Via.readImage hs))) (.startKernel (Via.readImage (Via.readImage hs)))

theorem ResWithin.execKernelComplete {k : Nat} (hs : Within lim s) : ResWithin lim (execKernelComplete k s) := by
  refine .next ?_
  split
  · exact hs
  · exact .ite (.endKernel (.each (fun _ _ h => .ite (.dmaEndQueue h) h) (.each (fun _ _ h => .endMc h) hs))) hs

theorem ResWithin.execKstopPreempt {src : CmdSrc} {c : Cmd} (hs : Within lim s) : ResWithin lim (execKstopPreempt src c s) := by
  refine .runCmd hs (fun _ h => .ite (.done h) ?_)
  split
  · exact .ite (.hold h) (.done h)
  · split
    · exact .done (.updKern h)
    · exact .run (.updKern (.each (fun _ _ h1 => .stopCell h1) h))
    · exact .ite (.hold h) (.done h)
    · exact .done h
    · exact .hold h
    · exact .done h

theorem Within.killKernel {k : Kernel} (hs : Within lim s) : Within lim (s.killKernel k) :=
  .ite hs (.each (fun _ _ h => .dropSaved h) (.each (fun _ _ h => .ite (.endVc h) h) (.each (fun _ _ h => .ite (.endMc h) h)
      (.each (fun _ _ h => .ite (.releaseCell h) h) hs))))

theorem ResWithin.execKstopEnd {src : CmdSrc} {c : Cmd} (hs : Within lim s) : ResWithin lim (execKstopEnd src c s) := by
  unfold Machine.execKstopEnd
  dsimp only
  refine .runCmd hs (fun _ h => ?_)
  split
  · exact .done (.endKernel (.killKernel h))
  · split
    · exact .done (.complete h)
    · exact .done h

theorem ResWithin.execKresume {src : CmdSrc} {c : Cmd} (hs : Within lim s) : ResWithin lim (execKresume src c s) := by
  unfold Machine.execKresume
  dsimp only
  refine .runCmd hs (fun _ h => ?_)
  split
  · exact .ite (.hold h) (.done h)
  · split
    · exact .ite (.hold h) (.run (.updKern h))
    · exact .ite (.hold h) (.run (.updKern h))
    · exact .hold h
    · exact .done h

end Sys2Proof.Machine
end

section
/-! Fault records: what each function leaves (Machine/Faults). -/

namespace Sys2Proof.Machine

variable {lim : Limits} {s : State}

theorem Within.settleWaiter {w : Waiter} {rcd : Word32} {retry : Bool} {cls : Nat} (hs : Within lim s) :
    Within lim (s.settleWaiter w rcd retry cls) := by
  unfold State.settleWaiter
  split
  · split
    · exact hs
    · exact .ite (.updMc hs (fun _ => .upd)) (.memFault (.updMc hs (fun _ => .upd)))
  · split
    · exact hs
    · exact .ite (.updMc hs (fun _ => .upd)) (.memFault (.updMc hs (fun _ => .upd)))
  · exact .ite hs (.ite (.updMc hs (fun _ => .upd)) (.issueFault (.updMc hs (fun _ => .upd))))
  · split
    · exact hs
    · exact .ite (.updRv hs (fun _ => .upd)) (.exception (.updRv hs (fun _ => .upd)))
  · exact .ite (.dmaRetry hs) (.dmaAbort hs)
  · exact .svcKickAll (.ite (.bulkRetry hs) (.bulkAbort hs))
  · exact .chunkSettle hs
  · exact .fabricSettle hs
  · exact .barSettle hs
  · exact .contribSettle hs
  · exact .resultSettle hs
  · refine .ite hs (.ite (.cmdReadFailed hs) ?_)
    split
    · exact .endKernel hs
    · exact hs
  · exact .ite (.cadSettle hs) (.svcSettle hs)

theorem Within.releaseRec {f : FaultRec} {retry : Bool} {cls : Nat} (hs : Within lim s) : Within lim (s.releaseRec f retry cls) :=
  .each (fun _ _ h => .settleWaiter h) (.upd hs)

theorem Within.retryRec {f : FaultRec} (hs : Within lim s) : Within lim (s.retryRec f) :=
  .releaseRec (.addF hs)

theorem Within.abortRec {f : FaultRec} {cls : Nat} {tell : Bool} (hs : Within lim s) : Within lim (s.abortRec f cls tell) :=
  .releaseRec (.ite (.postEvent (.each (fun _ _ h => .setReg h) (.addF hs))) (.each (fun _ _ h => .setReg h) (.addF hs)))

theorem Within.putRec {f : FaultRec} (hs : Within lim s) : Within lim (s.putRec f) :=
  .upd hs

theorem Within.sendPrg {f : FaultRec} (hs : Within lim s) : Within lim (s.sendPrg f) := by
  refine .ite hs ?_
  split
  · exact hs
  · exact .upd (.emit (.putRec hs))

theorem ResWithin.execFaultRecordQueued {id : Word32} (hs : Within lim s) : ResWithin lim (execFaultRecordQueued id s) := by
  refine .next ?_
  split
  · exact hs
  · exact .ite hs (.ite (.ite (.abortRec hs) (.sendPrg (.putRec hs))) (.ite (.abortRec hs) (.ite (Via.postRequest (.putRec hs))
      (.ite (.putRec hs) (.abortRec hs)))))

theorem Within.growTake {f : FaultRec} {e : CtxEntry} {fuel : Nat} (hs : Within lim s) : Within lim (s.growTake f e fuel) := by
  induction fuel generalizing s with
  | zero => exact hs
  | succ k ih => exact .ite (.abortRec (Via.physRead hs)) (.ite (.ite (Via.physRead hs) (.raiseM (.postEvent (.upd (Via.physRead hs)))))
      (.ite (ih (.audit (.physWrite (Via.physRead (.upd (Via.physRead hs)))))) (.retryRec (.each (fun _ _ h => .physWrite h)
      (.updHbm (.physWrite (Via.physRead (.upd (Via.physRead hs)))))))))

theorem ResWithin.execGrowFaultService {id : Word32} (hs : Within lim s) : ResWithin lim (execGrowFaultService id s) := by
  refine .next ?_
  split
  · exact hs
  · refine .ite ?_ hs
    split
    · exact .growTake hs
    · exact hs

theorem ResWithin.execFaultTimeout {id : Word32} (hs : Within lim s) : ResWithin lim (execFaultTimeout id s) := by
  refine .next ?_
  split
  · exact hs
  · split
    · exact .ite (.abortRec hs) hs
    · exact hs

theorem ResWithin.execAtsTranslationCompletion {id : Word32} {res : AtsOutcome} (hs : Within lim s) :
    ResWithin lim (execAtsTranslationCompletion id res s) := by
  refine .next ?_
  split
  · exact hs
  · refine .ite hs ?_
    split
    · split
      · exact .putRec hs
      · exact .ite (.releaseRec (.upd hs)) (.putRec hs)
    · exact .putRec hs
    · exact .putRec hs

theorem Within.nextPrgs (hs : Within lim s) : Within lim s.nextPrgs := by
  refine .each (fun _ _ h => ?_) hs
  split
  · exact .sendPrg h
  · exact h

theorem ResWithin.execPrgResponse {id : Word32} {code : PrgCode} (hs : Within lim s) : ResWithin lim (execPrgResponse id code s) := by
  refine .next ?_
  split
  · exact hs
  · refine .ite hs ?_
    split
    · exact .nextPrgs (.retryRec hs)
    · exact .nextPrgs (.abortRec hs)
    · refine .each (fun _ _ h => ?_) (.abortRec (.upd hs))
      split
      · exact .abortRec h
      · exact h

theorem ResWithin.execPageWalk {u : UnitId} {ctx : Fin 64} {part : Fin 16} {va : Nat} {acc : Access} (hs : Within lim s) :
    ResWithin lim (execPageWalk u ctx part va acc s) := by
  refine .next ?_
  split
  · exact (Via.translate hs)
  · exact (Via.translate hs)
  · exact (Via.openFault (Via.translate hs))

theorem ResWithin.fltres {src : CmdSrc} {c : Cmd} {mine : Bool} {act : State → FaultRec → State} (hs : Within lim s) (hact : ∀ t x1,
    Within lim t → Within lim (act t x1)) : ResWithin lim (s.fltres src c mine act) := by
  refine .runCmd hs (fun _ h => .ite (.done h) ?_)
  split
  · exact .ite (.done (hact _ _ h)) (.done (.addF h))
  · exact .done (.addF h)

theorem ResWithin.execFltresRetry {src : CmdSrc} {c : Cmd} (hs : Within lim s) : ResWithin lim (execFltresRetry src c s) :=
  .fltres hs (fun _ _ h => .retryRec h)

theorem ResWithin.execFltresAbort {src : CmdSrc} {c : Cmd} (hs : Within lim s) : ResWithin lim (execFltresAbort src c s) :=
  .fltres hs (fun _ _ h => .abortRec h)

end Sys2Proof.Machine
end

section
/-! Partitions: what each function leaves (Machine/PartOp). -/

namespace Sys2Proof.Machine

variable {lim : Limits} {s : State}

theorem ResWithin.partop {src : CmdSrc} {c : Cmd} {k : Nat} {clean : Bool} {refusals : List Refuse} {act : State → CmdDo}
    (hs : Within lim s) (hact : ∀ t, Within lim t → CmdWithin lim (act t)) : ResWithin lim (s.partop src c k clean refusals act) := by
  refine .when (fun _ h => ?_) hs
  split
  · exact .complete h
  · split
    · exact .ite (.complete h) (.complete h)
    · refine .ite (.complete h) ?_
      split
      · exact .complete ((hact _ h).ofDone ‹_›)
      · exact ((hact _ h).ofHold ‹_›)
      · exact .markStarted ((hact _ h).ofRun ‹_›)

theorem Within.setAssist {p v : Nat} (hs : Within lim s) : Within lim (s.setAssist p v) :=
  .putF hs

theorem ResWithin.execCreate {src : CmdSrc} {c : Cmd} (hs : Within lim s) : ResWithin lim (execCreate src c s) :=
  .partop hs (fun _ h => .done (.setAssist (.putF (.putF (.setEvts (.putB h))))))

theorem ResWithin.execAssist {src : CmdSrc} {c : Cmd} (hs : Within lim s) : ResWithin lim (execAssist src c s) :=
  .partop hs (fun _ h => .done (.setAssist h))

theorem ResWithin.execPhyswin {src : CmdSrc} {c : Cmd} (hs : Within lim s) : ResWithin lim (execPhyswin src c s) :=
  .partop hs (fun _ h => .done (.updParts h))

theorem ResWithin.execScope {src : CmdSrc} {c : Cmd} (hs : Within lim s) : ResWithin lim (execScope src c s) :=
  .partop hs (fun _ h => .done (.updHbm h))

theorem ResWithin.execWaymask {src : CmdSrc} {c : Cmd} (hs : Within lim s) : ResWithin lim (execWaymask src c s) :=
  .partop hs (fun _ h => .done (.each (fun _ _ h1 => .putF h1) h))

theorem Within.bindPort {n p : Nat} {on : Bool} (hs : Within lim s) : Within lim (s.bindPort n p on) :=
  .putF hs

theorem ResWithin.execPorts {src : CmdSrc} {c : Cmd} (hs : Within lim s) : ResWithin lim (execPorts src c s) :=
  .partop hs (fun _ h => .done (.each (fun _ _ h1 => .bindPort h1) h))

theorem Within.setWeight {e p w : Nat} (hs : Within lim s) : Within lim (s.setWeight e p w) :=
  .ite (.stopJobsOn (.upd hs)) (.upd hs)

theorem Within.setSvcWeight {p w : Nat} (hs : Within lim s) : Within lim (s.setSvcWeight p w) :=
  .ite (.svcResume (.updParts hs)) (.updParts hs)

theorem ResWithin.execShare {src : CmdSrc} {c : Cmd} (hs : Within lim s) : ResWithin lim (execShare src c s) :=
  .partop hs (fun _ h => .done (.ite (.setSvcWeight h) (.each (fun _ _ h1 => .setWeight h1) h)))

theorem Within.putCtx {n : Nat} {e : Option CtxEntry} (hs : Within lim s) : Within lim (s.putCtx n e) :=
  .upd hs

theorem ResWithin.execSetCtx {src : CmdSrc} {c : Cmd} (hs : Within lim s) : ResWithin lim (execSetCtx src c s) :=
  .partop hs (fun _ h => .done (.putCtx h))

theorem ResWithin.execClearCtx {src : CmdSrc} {c : Cmd} (hs : Within lim s) : ResWithin lim (execClearCtx src c s) :=
  .partop hs (fun _ h => .run (.queueInv (.putCtx h)))

theorem Within.bindRing {r p : Nat} (hs : Within lim s) : Within lim (s.bindRing r p) :=
  .updParts hs

theorem ResWithin.execMoveRings {src : CmdSrc} {c : Cmd} (hs : Within lim s) : ResWithin lim (execMoveRings src c s) :=
  .partop hs (fun _ h => .done (.each (fun _ _ h1 => .bindRing h1) h))

theorem ResWithin.execMoveMem {src : CmdSrc} {c : Cmd} (hs : Within lim s) : ResWithin lim (execMoveMem src c s) :=
  .partop hs (fun _ h => .ite (.done (.each (fun _ _ h1 => .bindGran h1) (.each (fun _ _ h1 => .releaseGib h1)
      (.each (fun _ _ h1 => .bindGran h1) h)))) (.run (.queueInv (.each (fun _ _ h1 => .bindGran h1) h))))

theorem Within.endKern {k : Kernel} (hs : Within lim s) : Within lim (s.endKern k) :=
  .endKernel (.killKernel hs)

theorem ResWithin.moveReady {r : Res} {src : CmdSrc} {c : Cmd} (hr : ResWithin lim r) : ResWithin lim (moveReady r src c) := by
  unfold Machine.moveReady
  split
  · exact .next (.ite (.moveFinish (hr.ofNext rfl)) (hr.ofNext rfl))
  · exact hr

theorem ResWithin.execMoveCells {src : CmdSrc} {c : Cmd} (hs : Within lim s) : ResWithin lim (execMoveCells src c s) := by
  unfold Machine.execMoveCells
  exact .moveReady (.partop hs (fun _ h => .ite (.run (.each (fun _ _ h1 => .endKern h1) h)) (.ite (.hold h)
      (.run (.each (fun _ _ h1 => .updKern (.each (fun _ _ h2 => .stopCell h2) h1)) h)))))

theorem ResWithin.execDiscard {src : CmdSrc} {c : Cmd} (hs : Within lim s) : ResWithin lim (execDiscard src c s) :=
  .partop hs (fun _ h => .done (.each (fun _ _ h1 => .dropSaved h1) (.each (fun _ _ h1 => .endKern h1) h)))

theorem Within.abortBulk {p : Nat} (hs : Within lim s) : Within lim (s.abortBulk p) := by
  refine .bulkDrop (.each (fun _ _ h => ?_) hs)
  split
  · exact .ite (.bulkComplete h) h
  · exact h

theorem Within.endCommands {p : Nat} {but : CmdSrc × Cmd} (hs : Within lim s) : Within lim (s.endCommands p but) :=
  .each (fun _ _ h => .complete h) hs

theorem Within.destroyWork {p : Nat} (hs : Within lim s) : Within lim (s.destroyWork p) := by
  unfold State.destroyWork
  refine .setEvts (.each (fun _ _ h => .ite ?_ h) (.svcDrop (.each (fun _ _ h => .ite ?_ h) (.abortBulk (.dropContexts
    (.each (fun _ _ h => .endKern h) hs))))))
  · split
    · exact .abortRec h
    · exact h
  · split
    · exact .stopJob h
    · exact h

theorem Within.destroySync {p : Nat} {me : CmdSrc × Cmd} (hs : Within lim s) : Within lim (s.destroySync p me) :=
  .each (fun _ _ h => .barClear h) (.endCommands (.upd (.each (fun _ _ h => .ite (.unconfigRed h) h) hs)))

theorem Within.destroyUnits {p : Nat} (hs : Within lim s) : Within lim (s.destroyUnits p) :=
  .each (fun _ _ h => .bindRing (.ringStop h)) (.each (fun _ _ h => .releaseGib h) (.dropCached (.each (fun _ _ h => .bindGran h)
      (.each (fun _ _ h => .bindCell (.scrubCell h)) hs))))

theorem Within.destroyRest {p : Nat} (hs : Within lim s) : Within lim (s.destroyRest p) :=
  .putB (.setReg (.each (fun _ _ h => .ite (.putCtx h) h) (.updParts (.upd (.each (fun _ _ h => .bindPort h) hs)))))

theorem Within.destroySteps {p : Nat} {me : CmdSrc × Cmd} (hs : Within lim s) : Within lim (s.destroySteps p me) :=
  .destroyRest (.destroyUnits (.destroySync (.destroyWork hs)))

theorem ResWithin.execDestroy {src : CmdSrc} {c : Cmd} (hs : Within lim s) : ResWithin lim (execDestroy src c s) :=
  .partop hs (fun _ h => .done (.destroySteps h))

end Sys2Proof.Machine
end

section
/-! Sensors: what each function leaves (Machine/Sensor). -/

namespace Sys2Proof.Machine

variable {lim : Limits} {s : State}

theorem Within.tellSensor {n lvl : Nat} (hs : Within lim s) : Within lim (s.tellSensor n lvl) := by
  unfold State.tellSensor
  split
  · exact hs
  · exact .ite (.upd hs) (.ite hs (.ite (.emit (.emit hs)) (.emit hs)))

theorem Within.checkSensor {n : Nat} (hs : Within lim s) : Within lim (s.checkSensor n) :=
  .ite hs (.upd (.tellSensor hs))

theorem Within.sense {n : Nat} {v : Int} (hs : Within lim s) : Within lim (s.sense n v) :=
  .checkSensor (.upd hs)

theorem Within.faultCause {c : Nat} (hs : Within lim s) : Within lim (s.faultCause c) :=
  .audit (.putF (.upd hs))

theorem Within.dropDies (hs : Within lim s) : Within lim s.dropDies := by
  obtain ⟨queue, guards, -, jsram, -, rvs, saved⟩ := hs
  exact ⟨queue, fun g m => guards g (List.mem_of_mem_filter m), fun _ => rfl, jsram, fun _ => rfl,
    fun w => List.all_eq_true.mpr fun e m => List.all_eq_true.mp (rvs w) e (List.mem_of_mem_filter m), saved⟩

theorem Within.railsOff (hs : Within lim s) : Within lim s.railsOff :=
  .upd (.dropDies hs)

theorem Within.shutdown {c : Nat} (hs : Within lim s) : Within lim (s.shutdown c) :=
  .railsOff (.faultCause hs)

end Sys2Proof.Machine
end

section
/-! Power and clocks: what each function leaves (Machine/Power). -/

namespace Sys2Proof.Machine

variable {lim : Limits} {s : State}

theorem Within.setStep {c n : Nat} (hs : Within lim s) : Within lim (s.setStep c n) :=
  .upd hs

theorem Within.setMesh {h n : Nat} (hs : Within lim s) : Within lim (s.setMesh h n) :=
  .upd hs

theorem Within.askPower {reason p present : Nat} (hs : Within lim s) : Within lim (s.askPower reason p present) :=
  .ite hs (.upd (Via.postRequest hs))

theorem Within.updE (hs : Within lim s) : Within lim s.updE :=
  .ite (.putF hs) (.ite (.each (fun _ _ h => .askPower h) (.sense (.putF (.putF (.putF hs))))) (.upd (.sense (.putF (.putF (.putF hs))))))

theorem Within.limiter (hs : Within lim s) : Within lim s.limiter :=
  .raiseM (.putF (.addF hs))

theorem Within.allSlow (hs : Within lim s) : Within lim s.allSlow :=
  .upd hs

theorem ResWithin.execPowerSample {x : InputSample} (hs : Within lim s) : ResWithin lim (execPowerSample x s) :=
  .next (.sense (.sense (.sense (.sense (.ite (.ite (.upd (.ite (.limiter (.allSlow (.ite (.updE (.upd (.setReg hs))) (.setReg hs))))
      (.ite (.updE (.upd (.setReg hs))) (.setReg hs))))
      (.limiter (.upd (.upd (.ite (.limiter (.allSlow (.ite (.updE (.upd (.setReg hs))) (.setReg hs)))) (.ite (.updE (.upd (.setReg hs)))
      (.setReg hs))))))) (.ite (.upd (.upd (.ite (.limiter (.allSlow (.ite (.updE (.upd (.setReg hs))) (.setReg hs))))
      (.ite (.updE (.upd (.setReg hs))) (.setReg hs)))))
      (.upd (.ite (.limiter (.allSlow (.ite (.updE (.upd (.setReg hs))) (.setReg hs)))) (.ite (.updE (.upd (.setReg hs)))
      (.setReg hs))))))))))

theorem ResWithin.execSustainedOverdraw (hs : Within lim s) : ResWithin lim (execSustainedOverdraw s) :=
  .next (.limiter (.each (fun _ _ h => .setStep h) hs))

theorem Within.meshClocks (hs : Within lim s) : Within lim s.meshClocks :=
  .each (fun _ _ h => .setMesh h) hs

theorem Within.calGuard {c act : Nat} (hs : Within lim s) : Within lim (s.calGuard c act) :=
  .ite hs (.raiseM (.putF (.putF (.addF (.upd hs)))))

theorem Within.setLent {c : Nat} {b : Bool} (hs : Within lim s) : Within lim (s.setLent c b) :=
  .upd hs

theorem Within.recall {act : Nat → Nat} (hs : Within lim s) : Within lim (s.recall act) :=
  (Via.each (fun _ _ h => .each (fun _ _ h1 => .ite h1 (.pair (.setStep h1))) h) (.pair hs))

theorem Via.lendTo {x : State × Int} {act : Nat → Nat} {c : Nat} (hx : Via Prod.fst lim x) : Via Prod.fst lim (State.lendTo x act c) := by
  unfold State.lendTo
  exact .ite (.pair (.upd (.setStep hx))) hx

theorem Within.lend {act : Nat → Nat} {hot : Nat → Bool} (hs : Within lim s) : Within lim (s.lend act hot) :=
  (Via.each (fun _ _ h => .lendTo h) (.pair hs))

theorem Within.toGuaranteed {c : Nat} {ramp : Bool} (hs : Within lim s) : Within lim (s.toGuaranteed c ramp) :=
  .ite (.setStep hs) hs

theorem Within.clip {c : Nat} (hs : Within lim s) : Within lim (s.clip c) :=
  .ite (.setStep hs) hs

theorem Within.clockStep {act : Nat → Nat} {hot : Nat → Bool} (hs : Within lim s) : Within lim (s.clockStep act hot) :=
  .ite (.each (fun _ _ h => .setStep h) (.ite (.upd (.ite (.recall (.each (fun _ _ h => .clip h) (.each (fun _ _ h => .setLent h)
      (.each (fun _ _ h => .setLent (.setStep h)) hs)))) (.each (fun _ _ h => .toGuaranteed h) (.recall (.each (fun _ _ h => .clip h)
      (.each (fun _ _ h => .setLent h) (.each (fun _ _ h => .setLent (.setStep h)) hs))))))) (.ite (.recall (.each (fun _ _ h => .clip h)
      (.each (fun _ _ h => .setLent h) (.each (fun _ _ h => .setLent (.setStep h)) hs)))) (.each (fun _ _ h => .toGuaranteed h)
      (.recall (.each (fun _ _ h => .clip h) (.each (fun _ _ h => .setLent h) (.each (fun _ _ h => .setLent (.setStep h)) hs))))))))
      (.lend (.each (fun _ _ h => .setStep h) (.ite (.upd (.ite (.recall (.each (fun _ _ h => .clip h) (.each (fun _ _ h => .setLent h)
      (.each (fun _ _ h => .setLent (.setStep h)) hs)))) (.each (fun _ _ h => .toGuaranteed h) (.recall (.each (fun _ _ h => .clip h)
      (.each (fun _ _ h => .setLent h) (.each (fun _ _ h => .setLent (.setStep h)) hs))))))) (.ite (.recall (.each (fun _ _ h => .clip h)
      (.each (fun _ _ h => .setLent h) (.each (fun _ _ h => .setLent (.setStep h)) hs)))) (.each (fun _ _ h => .toGuaranteed h)
      (.recall (.each (fun _ _ h => .clip h) (.each (fun _ _ h => .setLent h) (.each (fun _ _ h => .setLent (.setStep h)) hs)))))))))

theorem Within.dropUnbound (hs : Within lim s) : Within lim s.dropUnbound :=
  .upd hs

theorem Within.telemetry {x : ControlSample} (hs : Within lim s) : Within lim (s.telemetry x) :=
  .sense (.each (fun _ _ h => .sense h) (.sense (.sense (.setReg (.setReg hs)))))

theorem ResWithin.execPowerControlStep {x : ControlSample} (hs : Within lim s) : ResWithin lim (execPowerControlStep x s) :=
  .next (.putB (.clockStep (.each (fun _ _ h => .calGuard h) (.dropUnbound (.meshClocks (.telemetry hs))))))

theorem Within.installCal {c : Nat} {r : CalRecord} (hs : Within lim s) : Within lim (s.installCal c r) :=
  .upd hs

theorem ResWithin.execRecalibrationComplete {c : Fin 480} {rec : CalRecord} (hs : Within lim s) :
    ResWithin lim (execRecalibrationComplete c rec s) :=
  .when (fun _ h => .installCal h) hs

theorem ResWithin.execCalibrationRetake {c : Fin 480} {rec : CalRecord} (hs : Within lim s) :
    ResWithin lim (execCalibrationRetake c rec s) :=
  .when (fun _ h => .installCal h) hs

theorem Within.stepsChanged {shares : List (Nat × Nat)} {entry : Bool} (hs : Within lim s) : Within lim (s.stepsChanged shares entry) :=
  .ite (.each (fun _ _ h => .askPower h) (.each (fun _ _ h => .ite (.setStep h) h) (.meshClocks (.sense (.raiseM (.putF hs))))))
      (.each (fun _ _ h => .ite (.setStep h) h) (.meshClocks (.sense (.raiseM (.putF hs)))))

theorem Within.setScope {x : ThermalScope} {n : Nat} (hs : Within lim s) : Within lim (s.setScope x n) := by
  unfold State.setScope
  split <;> exact .upd hs

theorem ResWithin.execThermalStepEntry {sc : ThermalScope} {step : Fin 4} (hs : Within lim s) :
    ResWithin lim (execThermalStepEntry sc step s) :=
  .when (fun _ h => .stepsChanged (.setScope h)) hs

theorem ResWithin.execThermalStepExit {sc : ThermalScope} (hs : Within lim s) : ResWithin lim (execThermalStepExit sc s) :=
  .when (fun _ h => .stepsChanged (.setScope h)) hs

theorem ResWithin.execThermalTrip {_sc : ThermalScope} (hs : Within lim s) : ResWithin lim (execThermalTrip _sc s) :=
  .when (fun _ h => .shutdown (.sense (.raiseM h))) hs

theorem Within.applyShare {p x : Nat} (hs : Within lim s) : Within lim (s.applyShare p x) :=
  .upd hs

theorem Within.powerAnswer {p seq share : Nat} (hs : Within lim s) : Within lim (s.powerAnswer p seq share) := by
  unfold State.powerAnswer
  split
  · exact .ite (.applyShare hs) hs
  · exact hs

theorem ResWithin.execPowerAnswerTimeout {p : Fin 16} (hs : Within lim s) : ResWithin lim (execPowerAnswerTimeout p s) := by
  refine .next ?_
  split
  · exact .applyShare hs
  · exact hs

theorem ResWithin.execHbmTempRead {k : Fin 12} {t : BitVec 8} (hs : Within lim s) : ResWithin lim (execHbmTempRead k t s) :=
  .when (fun _ h => .sense (.putF h)) hs

theorem ResWithin.execInputUndervoltageShutdown (hs : Within lim s) : ResWithin lim (execInputUndervoltageShutdown s) :=
  .next (.shutdown hs)

theorem ResWithin.execInputOvervoltageShutdown (hs : Within lim s) : ResWithin lim (execInputOvervoltageShutdown s) :=
  .next (.shutdown hs)

theorem ResWithin.execInputLowBandEntry {vin : BitVec 16} (hs : Within lim s) : ResWithin lim (execInputLowBandEntry vin s) :=
  .when (fun _ h => .updE (.raiseM (.upd h))) hs

theorem ResWithin.execInputLowBandExit {_vin : BitVec 16} (hs : Within lim s) : ResWithin lim (execInputLowBandExit _vin s) :=
  .when (fun _ h => .updE (.raiseM (.upd h))) hs

theorem ResWithin.execLeakDetected (hs : Within lim s) : ResWithin lim (execLeakDetected s) :=
  .next (.sense (.raiseM (.faultCause hs)))

theorem ResWithin.execRailOutOfRegulation (hs : Within lim s) : ResWithin lim (execRailOutOfRegulation s) :=
  .when (fun _ h => .upd (.raiseM (.faultCause h))) hs

theorem ResWithin.execReversedFlowDetect (hs : Within lim s) : ResWithin lim (execReversedFlowDetect s) :=
  .next (.updE (.raiseM (.upd hs)))

theorem ResWithin.execCommandedPowerDown (hs : Within lim s) : ResWithin lim (execCommandedPowerDown s) :=
  .next (.railsOff hs)

theorem ResWithin.execFabRefclkLoss (hs : Within lim s) : ResWithin lim (execFabRefclkLoss s) :=
  .next (.raiseM (.upd (.each (fun _ _ h => .ite h (.toDetect h)) hs)))

theorem ResWithin.execSlowClockSwitchToRef (hs : Within lim s) : ResWithin lim (execSlowClockSwitchToRef s) :=
  .when (fun _ h => .raiseM (.upd h)) hs

theorem ResWithin.execSlowClockSwitchToOsc (hs : Within lim s) : ResWithin lim (execSlowClockSwitchToOsc s) :=
  .when (fun _ h => .raiseM (.upd h)) hs

end Sys2Proof.Machine
end

section
/-! Boot and resets: what each function leaves (Machine/Boot). -/

namespace Sys2Proof.Machine

variable {lim : Limits} {s : State}

theorem Within.setImage {region comp : Nat} {i : Image} (hs : Within lim s) : Within lim (s.setImage region comp i) :=
  .upd hs

theorem Within.setBooted {comp region : Nat} {i : Option Image} (hs : Within lim s) : Within lim (s.setBooted comp region i) :=
  .upd hs

theorem Via.bootComp {comp : Nat} (hs : Within lim s) : Via Prod.fst lim (s.bootComp comp) :=
  .ite (.pair (.setBooted hs)) (.ite (.pair (.setBooted (.audit hs))) (.pair (.audit (.audit hs))))

theorem Within.bootChain (hs : Within lim s) : Within lim s.bootChain :=
  .each (fun _ _ h => .ite h (.ite (Via.bootComp h) (.upd (.putF (.putF (Via.bootComp h)))))) (.upd (.each (fun _ _ h => .setBooted h)
      hs))

theorem Within.finishBoot (hs : Within lim s) : Within lim s.finishBoot :=
  .ite (.upd hs) hs

theorem Within.burn {n v : Nat} (hs : Within lim s) : Within lim (s.burn n v) :=
  .ite (.upd hs) (.ite (.upd hs) (.ite (.upd hs) (.upd hs)))

theorem Within.loadSettings (hs : Within lim s) : Within lim s.loadSettings :=
  .putF (.putF (.putF (.putF (.putB (.putF (.putF (.putF hs)))))))

theorem Within.numberNow (hs : Within lim s) : Within lim s.numberNow :=
  .putB (.putF hs)

theorem Within.settleBurn (hs : Within lim s) : Within lim s.settleBurn := by
  unfold State.settleBurn
  split
  · exact hs
  · exact .ite (.audit (.burn (.upd (.tickFree hs)))) (.upd (.tickFree hs))

theorem Within.endUpdate (hs : Within lim s) : Within lim s.endUpdate := by
  unfold State.endUpdate
  split
  · exact hs
  · exact .upd (.each (fun _ _ h => .setImage h) hs)

theorem Within.bare (hs : Within lim s) : Within lim s.bare :=
  ⟨hs.queue, (fun _ m => nomatch m), fun _ => rfl, fun _ => rfl, fun _ => rfl, fun _ => rfl, fun _ => rfl⟩

theorem Within.markBad (hs : Within lim s) : Within lim s.markBad :=
  .each (fun _ _ h => .putF h) (.putF hs)

theorem ResWithin.execColdPowerOn {straps : BitVec 5} {mgmtClk : Bool} (hs : Within lim s) :
    ResWithin lim (execColdPowerOn straps mgmtClk s) :=
  .next (.updE (.ite (.markBad
      (.upd (.bootChain (.numberNow (.loadSettings (.ite (.raiseM (.upd (.upd (.bare (.endUpdate (.settleBurn hs))))))
      (.upd (.upd (.bare (.endUpdate (.settleBurn hs)))))))))))
      (.upd (.bootChain (.numberNow (.loadSettings (.ite (.raiseM (.upd (.upd (.bare (.endUpdate (.settleBurn hs))))))
      (.upd (.upd (.bare (.endUpdate (.settleBurn hs))))))))))))

theorem ResWithin.execHbmTrainingComplete {k : Fin 12} {ok80 ok64 : Bool} {repaired : BitVec 8} (hs : Within lim s) :
    ResWithin lim (execHbmTrainingComplete k ok80 ok64 repaired s) :=
  .when (fun _ h => .finishBoot (.ite (.putF (.putF h)) (.ite (.putF (.putF (.putF h))) (.raiseM (.putF (.putF h)))))) hs

theorem Within.warmReset {cause : Nat} {straps : BitVec 5} (hs : Within lim s) : Within lim (s.warmReset cause straps) := by
  have old : Within lim s.settleBurn.endUpdate := .endUpdate (.settleBurn hs)
  generalize e : s.settleBurn.endUpdate = o at old
  have kept : Within lim { o.bare with
      regs := o.keptRegs, regsSlow := o.keptRegs, hbm := { cells := o.hbm.cells, poison := o.hbm.poison } } :=
    ⟨old.queue, (fun _ m => nomatch m), old.cells, fun _ => rfl, fun _ => rfl, fun _ => rfl, fun _ => rfl⟩
  unfold State.warmReset
  rw [e]
  exact .updE (.finishBoot (.bootChain (.numberNow (.loadSettings (.each (fun _ _ h => .faultCause h)
    (.putF (.putF (.addF (.upd (.upd kept))))))))))

theorem ResWithin.execModRstNAssert {straps : BitVec 5} (hs : Within lim s) : ResWithin lim (execModRstNAssert straps s) :=
  .next (.warmReset hs)

theorem Within.flrWork {p : Nat} (hs : Within lim s) : Within lim (s.flrWork p) := by
  unfold State.flrWork
  refine .each (fun _ _ h => .ite ?_ h) (.each (fun _ _ h => ?_) (.each (fun _ _ h => .endKern h) hs))
  · split
    · exact .stopJob h
    · exact h
  · split
    · exact .ite (.upd (.setBulk (.dropWaiters h))) h
    · exact h

theorem Within.flrQueues {p : Nat} (hs : Within lim s) : Within lim (s.flrQueues p) := by
  refine .upd (.setEvts (.each (fun _ _ h => .ite ?_ h) hs))
  split
  · exact .abortRec h
  · exact h

theorem Within.flrPage {p : Nat} (hs : Within lim s) : Within lim (s.flrPage p) :=
  .upd (.resetRegs (.resetRegs (.each (fun _ _ h => .ringStop h) hs)))

theorem Within.flrSteps {p : Nat} (hs : Within lim s) : Within lim (s.flrSteps p) :=
  .flrPage (.flrQueues (.flrWork hs))

theorem ResWithin.execFlr {f : Fin 16} (hs : Within lim s) : ResWithin lim (execFlr f s) :=
  .when (fun _ h => .raiseM (.ite (.closeGuards (.each (fun _ _ h1 => .flrSteps h1) h)) (.each (fun _ _ h1 => .flrSteps h1) h))) hs

theorem Within.linkReset (hs : Within lim s) : Within lim s.linkReset :=
  .upd (.each (fun _ _ h => .flrSteps h) hs)

theorem ResWithin.execPerstNAssert (hs : Within lim s) : ResWithin lim (execPerstNAssert s) :=
  .next (.linkReset (.upd hs))

theorem ResWithin.execPerstNDeassert {refclkOk : Bool} (hs : Within lim s) : ResWithin lim (execPerstNDeassert refclkOk s) :=
  .next (.upd hs)

theorem ResWithin.execPcieHotReset (hs : Within lim s) : ResWithin lim (execPcieHotReset s) :=
  .next (.linkReset hs)

theorem ResWithin.execPcieLinkStateChange {up : Bool} {rate width : Fin 8} (hs : Within lim s) :
    ResWithin lim (execPcieLinkStateChange up rate width s) :=
  .when (fun _ h => .raiseM (.upd h)) hs

theorem ResWithin.execNumvfsWrite {n : BitVec 16} (hs : Within lim s) : ResWithin lim (execNumvfsWrite n s) :=
  .when (fun _ => .upd) hs

theorem ResWithin.execConfigurationWrite {f : Fin 16} {w : CfgWrite} (hs : Within lim s) :
    ResWithin lim (execConfigurationWrite f w s) := by
  refine .when (fun _ h => ?_) hs
  split
  · exact .upd h
  · exact .upd h
  · exact .ite h (.ite (.upd h) (.upd h))

theorem Within.partReset {p : Nat} (hs : Within lim s) : Within lim (s.partReset p) :=
  .each (fun _ _ h => .cellReset h) (.dropContexts (.flrSteps hs))

theorem Within.askPartReset {p : Nat} (hs : Within lim s) : Within lim (s.askPartReset p) :=
  .ite hs (.ite (.updParts hs) (.partReset hs))

theorem Within.drainParts (hs : Within lim s) : Within lim s.drainParts :=
  .ite hs (.each (fun _ _ h => .ite (.partReset h) h) (.updParts hs))

end Sys2Proof.Machine
end

section
/-! Interrupts of the controllers: what each function leaves (Machine/Irq). -/

namespace Sys2Proof.Machine

variable {lim : Limits} {s : State}

theorem ResWithin.execIrqFlagSet {fl : IrqFlag} (hs : Within lim s) : ResWithin lim (execIrqFlagSet fl s) := by
  refine .next ?_
  split
  · exact .raiseD hs
  · exact .raiseC hs
  · exact .ite (.raiseM hs) hs
  · exact .raiseP hs

theorem ResWithin.execIrqFilterPass {ctl : Fin 5} {src : Fin 512} (hs : Within lim s) : ResWithin lim (execIrqFilterPass ctl src s) :=
  .when (fun _ => .upd) hs

theorem Within.postRouted {p ctl src cell : Nat} (hs : Within lim s) : Within lim (s.postRouted p ctl src cell) :=
  .ite (.postEvent hs) hs

theorem Within.routedTake {ctl src : Nat} (hs : Within lim s) : Within lim (s.routedTake ctl src) :=
  .ite hs (.upd (.each (fun _ _ h => .postRouted h) hs))

theorem Within.irqTake {t ctl src : Nat} (hs : Within lim s) : Within lim (s.irqTake t ctl src) :=
  .ite (.routedTake (.upd hs)) hs

theorem ResWithin.execIrqTake {t : Fin 17} {ctl : BitVec 3} {src : BitVec 9} (hs : Within lim s) :
    ResWithin lim (execIrqTake t ctl src s) :=
  .next (.irqTake hs)

theorem Within.irqDone {t ctl src : Nat} (hs : Within lim s) : Within lim (s.irqDone t ctl src) :=
  .ite (.upd hs) hs

theorem ResWithin.execIrqDone {t : Fin 17} {ctl : BitVec 3} {src : BitVec 9} (hs : Within lim s) :
    ResWithin lim (execIrqDone t ctl src s) :=
  .next (.irqDone hs)

theorem ResWithin.execIrqHoldoffExpiry {ctl : Fin 5} {g : Fin 32} (hs : Within lim s) : ResWithin lim (execIrqHoldoffExpiry ctl g s) :=
  .next (.upd hs)

end Sys2Proof.Machine
end

section
/-! Recovery: what each function leaves (Machine/Recovery). -/

namespace Sys2Proof.Machine

variable {lim : Limits} {s : State}

theorem Within.setOwner {k : Nat} {o : Option Nat} (hs : Within lim s) : Within lim (s.setOwner k o) :=
  .upd hs

theorem Within.setFailed {k : Nat} {b : Bool} (hs : Within lim s) : Within lim (s.setFailed k b) :=
  .upd hs

theorem Within.setMoved {k : Nat} {l : List MovedTgt} (hs : Within lim s) : Within lim (s.setMoved k l) :=
  .upd hs

theorem Within.routeTo {ctl src code : Nat} (hs : Within lim s) : Within lim (s.routeTo ctl src code) := by
  unfold State.routeTo
  split
  · exact .setMoved (.putF hs)
  · exact .putF hs

theorem Within.rewrite {k o : Nat} (hs : Within lim s) : Within lim (s.rewrite k o) := by
  refine .upd (.each (fun _ _ h => ?_) hs)
  split
  · exact .putF h
  · exact .setMoved (.putF h)

theorem Within.restoreTargets {k : Nat} (hs : Within lim s) : Within lim (s.restoreTargets k) :=
  .each (fun _ _ h => .routeTo h) (.setMoved hs)

theorem Within.recovRegs (hs : Within lim s) : Within lim s.recovRegs :=
  .setReg (.each (fun _ _ h => .setReg h) hs)

theorem Within.restart {k : Nat} (hs : Within lim s) : Within lim (s.restart k) :=
  .recovRegs (.audit (.ite (.setRv (.closeGuards (.upd hs)) (fun _ => rfl)) (.closeGuards (.upd hs))))

theorem Within.preemptKern {k : Kernel} (hs : Within lim s) : Within lim (s.preemptKern k) :=
  .updKern (.each (fun _ _ h => .stopCell h) hs)

theorem Within.askRecovery {k o p : Nat} (hs : Within lim s) : Within lim (s.askRecovery k o p) :=
  .ite hs (.upd (Via.postRequest (.each (fun _ _ h => .preemptKern h) hs)))

theorem Within.hbFlag {k : Nat} (hs : Within lim s) : Within lim (s.hbFlag k) :=
  .ite (.ite (.raiseM (.raiseD hs)) (.raiseD hs)) (.ite (.raiseM hs) (.raiseM hs))

theorem ResWithin.execHeartbeatLost {k : Ctlr} (hs : Within lim s) : ResWithin lim (execHeartbeatLost k s) :=
  .when (fun _ h => .recovRegs (.upd (.setFailed (.hbFlag h)))) hs

theorem Within.passOn {k : Nat} (hs : Within lim s) : Within lim (s.passOn k) :=
  .each (fun _ _ h => .ite (.setOwner h) h) hs

theorem Within.takeOver {k o : Nat} (hs : Within lim s) : Within lim (s.takeOver k o) :=
  .ite (.restart (.each (fun _ _ h => .askRecovery h) (.audit (.rewrite (.passOn (.setOwner hs))))))
      (.recovRegs (.each (fun _ _ h => .askRecovery h) (.audit (.rewrite (.passOn (.setOwner hs))))))

theorem ResWithin.execControllerTakeover {k : Ctlr} (hs : Within lim s) : ResWithin lim (execControllerTakeover k s) := by
  refine .when (fun _ h => ?_) hs
  split
  · exact .takeOver h
  · exact h
  · exact .ite (.restart h) h

theorem Within.restored {k : Nat} (hs : Within lim s) : Within lim (s.restored k) :=
  .recovRegs (.ite (.auditRestore (.restoreTargets (.setOwner (.upd (.setFailed hs))))) (.restoreTargets
      (.setOwner (.upd (.setFailed hs)))))

theorem ResWithin.execHeartbeat {k : Ctlr} (hs : Within lim s) : ResWithin lim (execHeartbeat k s) :=
  .when (fun _ h => .restored h) hs

theorem ResWithin.execRestartTimeout {k : Ctlr} (hs : Within lim s) : ResWithin lim (execRestartTimeout k s) :=
  .when (fun _ h => .ite (.restart (.upd h)) (.upd (.upd h))) hs

theorem ResWithin.execJunctionHang (hs : Within lim s) : ResWithin lim (execJunctionHang s) :=
  .next (.putF (.faultCause hs))

theorem Within.recovDone {p : Nat} (hs : Within lim s) : Within lim (s.recovDone p) :=
  .upd hs

theorem Within.recovAnswer {p seq action : Nat} (hs : Within lim s) : Within lim (s.recovAnswer p seq action) := by
  unfold State.recovAnswer
  split
  · exact hs
  · exact .ite hs (.ite (.each (fun _ _ h => .updKern h) (.recovDone hs)) (.ite (.each (fun _ _ h => .endKern h) (.recovDone hs))
      (.askPartReset (.recovDone hs))))

end Sys2Proof.Machine
end

section
/-! Management messages: what each function leaves (Machine/Mgmt). -/

namespace Sys2Proof.Machine

variable {lim : Limits} {s : State}

theorem Within.mgReply {b : Binding} {kind : Nat} {data : List Nat} (hs : Within lim s) : Within lim (s.mgReply b kind data) :=
  .ite (.emit (.emit hs)) (.emit hs)

theorem ResWithin.message {b : Binding} {inRom : Bool} {f : State → State} (hs : Within lim s) (hf : ∀ t, Within lim t → Within lim
    (f t)) : ResWithin lim (s.message b inRom f) :=
  .when (fun _ h => .ite (.raiseM h) (hf _ (.raiseM h))) hs

theorem ResWithin.mctp {b : Binding} {inRom : Bool} {f : State → State} (hs : Within lim s) (hf : ∀ t, Within lim t → Within lim (f t)) :
    ResWithin lim (s.mctp b inRom f) :=
  .message hs (fun _ h => .ite h (hf _ h))

theorem ResWithin.execEntdaa {addr : BitVec 7} (hs : Within lim s) : ResWithin lim (execEntdaa addr s) :=
  .when (fun _ h => .emit (.upd h)) hs

theorem ResWithin.execSetEndpointId {b : Binding} {eid : BitVec 8} (hs : Within lim s) : ResWithin lim (execSetEndpointId b eid s) :=
  .message hs (fun _ h => .ite h (.ite (.mgReply h) (.mgReply (.upd h))))

theorem ResWithin.execGetEndpointId {b : Binding} (hs : Within lim s) : ResWithin lim (execGetEndpointId b s) :=
  .message hs (fun _ h => .ite h (.mgReply h))

theorem ResWithin.execGetEndpointUuid {b : Binding} (hs : Within lim s) : ResWithin lim (execGetEndpointUuid b s) :=
  .mctp hs (fun _ h => .mgReply h)

theorem ResWithin.execGetMctpVersionSupport {b : Binding} {type : BitVec 8} (hs : Within lim s) :
    ResWithin lim (execGetMctpVersionSupport b type s) :=
  .mctp hs (fun _ h => .ite (.tickFree (.mgReply h)) (.mgReply h))

theorem ResWithin.execGetMessageTypeSupport {b : Binding} (hs : Within lim s) : ResWithin lim (execGetMessageTypeSupport b s) :=
  .mctp hs (fun _ h => .mgReply h)

theorem ResWithin.execPldmResetRequest {b : Binding} {straps : BitVec 5} (hs : Within lim s) :
    ResWithin lim (execPldmResetRequest b straps s) :=
  .mctp hs (fun _ h => .warmReset (.mgReply h))

theorem ResWithin.execGetSensorReading {b : Binding} {sensor : BitVec 16} (hs : Within lim s) :
    ResWithin lim (execGetSensorReading b sensor s) :=
  .mctp hs (fun _ h => .ite (.mgReply h) (.mgReply h))

theorem ResWithin.execGetStateSensorReadings {b : Binding} {sensor : BitVec 16} (hs : Within lim s) :
    ResWithin lim (execGetStateSensorReadings b sensor s) :=
  .mctp hs (fun _ h => .ite (.mgReply h) (.mgReply h))

theorem ResWithin.execSetEventReceiver {b : Binding} {eid : BitVec 8} {mode : BitVec 2} (hs : Within lim s) :
    ResWithin lim (execSetEventReceiver b eid mode s) :=
  .mctp hs (fun _ h => .mgReply (.upd h))

theorem ResWithin.execPlatformEventMessage {b : Binding} (hs : Within lim s) : ResWithin lim (execPlatformEventMessage b s) := by
  refine .mctp hs (fun _ h => ?_)
  split
  · exact .mgReply h
  · exact .mgReply (.upd h)

theorem Within.setSession {u : Option UpdateSession} (hs : Within lim s) : Within lim (s.setSession u) :=
  .upd hs

theorem ResWithin.execRequestUpdate {b : Binding} (hs : Within lim s) : ResWithin lim (execRequestUpdate b s) :=
  .mctp hs (fun _ h => .ite (.mgReply h) (.mgReply (.setSession h)))

theorem ResWithin.execPassComponentTable {b : Binding} {comps : List CompEntry} (hs : Within lim s) :
    ResWithin lim (execPassComponentTable b comps s) := by
  refine .mctp hs (fun _ h => ?_)
  split
  · exact .mgReply h
  · exact .mgReply (.setSession h)

theorem ResWithin.execFirmwareComponentWrite {b : Binding} {comp : Fin 5} {img : Image} (hs : Within lim s) :
    ResWithin lim (execFirmwareComponentWrite b comp img s) := by
  refine .mctp hs (fun _ h => ?_)
  split
  · exact .mgReply h
  · exact .ite (.mgReply h) (.mgReply (.audit (.setSession (.setImage h))))

theorem ResWithin.execActivateFirmware {b : Binding} (hs : Within lim s) : ResWithin lim (execActivateFirmware b s) := by
  refine .mctp hs (fun _ h => ?_)
  split
  · exact .mgReply h
  · exact .mgReply (.setSession (.upd (.each (fun _ _ h1 => .audit (.upd h1)) h)))

theorem ResWithin.execCancelUpdate {b : Binding} (hs : Within lim s) : ResWithin lim (execCancelUpdate b s) := by
  refine .mctp hs (fun _ h => ?_)
  split
  · exact .mgReply h
  · exact .mgReply (.each (fun _ _ h1 => .audit h1) (.endUpdate h))

theorem Within.setSpdm {b : Binding} {x : SpdmStage} (hs : Within lim s) : Within lim (s.setSpdm b x) :=
  .upd hs

theorem ResWithin.spdmReq {b : Binding} {f : State → State} (hs : Within lim s) (hf : ∀ t, Within lim t → Within lim (f t)) :
    ResWithin lim (s.spdmReq b f) :=
  .message hs (fun _ h => .ite h (hf _ h))

theorem ResWithin.spdmNeg {b : Binding} {kind : Nat} {f : State → State} (hs : Within lim s) (hf : ∀ t, Within lim t → Within lim (f t))
    : ResWithin lim (s.spdmNeg b kind f) :=
  .spdmReq hs (fun _ h => .ite (hf _ h) (.mgReply h))

theorem ResWithin.execGetVersion {b : Binding} (hs : Within lim s) : ResWithin lim (execGetVersion b s) :=
  .spdmReq hs (fun _ h => .mgReply (.setSpdm h))

theorem ResWithin.execGetCapabilities {b : Binding} (hs : Within lim s) : ResWithin lim (execGetCapabilities b s) :=
  .spdmReq hs (fun _ h => .ite (.mgReply h) (.mgReply (.setSpdm h)))

theorem ResWithin.execNegotiateAlgorithms {b : Binding} {ecdsa384 sha384 : Bool} (hs : Within lim s) :
    ResWithin lim (execNegotiateAlgorithms b ecdsa384 sha384 s) :=
  .spdmReq hs (fun _ h => .ite (.mgReply h) (.ite (.mgReply (.setSpdm h)) (.mgReply h)))

theorem ResWithin.execGetDigests {b : Binding} (hs : Within lim s) : ResWithin lim (execGetDigests b s) :=
  .spdmNeg hs (fun _ h => .mgReply h)

theorem ResWithin.execGetCertificate {b : Binding} {slot : Fin 8} {off len : BitVec 16} (hs : Within lim s) :
    ResWithin lim (execGetCertificate b slot off len s) :=
  .spdmNeg hs (fun _ h => .ite (.mgReply h) (.mgReply h))

theorem ResWithin.execChallenge {b : Binding} {slot : Fin 8} {nonce : BitVec 256} (hs : Within lim s) :
    ResWithin lim (execChallenge b slot nonce s) :=
  .spdmNeg hs (fun _ h => .ite (.mgReply h) (.tickFree (.mgReply h)))

theorem ResWithin.execGetMeasurements {b : Binding} {index : BitVec 8} {sign : Bool} {nonce : BitVec 256} (hs : Within lim s) :
    ResWithin lim (execGetMeasurements b index sign nonce s) :=
  .spdmNeg hs (fun _ h => .ite (.mgReply h) (.ite (.tickFree (.mgReply h)) (.mgReply h)))

end Sys2Proof.Machine
end

section
/-! Registers written by a requester: what each function leaves (Machine/Regs). -/

namespace Sys2Proof.Machine

variable {lim : Limits} {s : State}

theorem Within.openGuard {rq : Requester} {g : Nat} (hg : ∀ g, lim.mayOpen (rq, g)) (hs : Within lim s) :
    Within lim (s.openGuard rq g) := by
  refine .ite hs ⟨hs.queue, fun x m => ?_, hs.cells, hs.jsram, hs.mcs, hs.rvs, hs.saved⟩
  rcases List.mem_append.mp m with old | new
  · exact hs.guards x old
  · obtain rfl := List.mem_singleton.mp new
    exact hg g

theorem Within.closeGuard {rq : Requester} {g : Nat} (hs : Within lim s) : Within lim (s.closeGuard rq g) := .closeGuards hs

theorem Within.unlock {rq : Requester} {off g key v : Nat} (hg : ∀ g, lim.mayOpen (rq, g)) (hs : Within lim s) :
    Within lim (s.unlock rq off g key v) :=
  .ite (.openGuard hg hs) (.badKey (.closeGuard hs))

theorem Within.countedWrite {n v : Nat} (hs : Within lim s) : Within lim (s.countedWrite n v) :=
  .ite hs (.ite (.putF (.upd (.putF hs))) (.putF (.putF hs)))

theorem ResWithin.execOtpBurnComplete (hs : Within lim s) : ResWithin lim (execOtpBurnComplete s) := by
  refine .next ?_
  split
  · exact hs
  · exact .updE (.raiseM (.audit (.putF (.putF (.loadSettings (.burn (.upd hs)))))))

theorem Within.clearFlags {k : Nat} {w1 : Word} (hs : Within lim s) : Within lim (s.clearFlags k w1) := by
  unfold State.clearFlags
  dsimp only
  split
  · exact .ite (.setReg (.setReg hs)) (.setReg hs)
  · exact .setReg hs

theorem Within.beat {k : Nat} (hs : Within lim s) : Within lim (s.beat k) :=
  .ite (.restored hs) hs

theorem Within.pctlWrite {n : Nat} {new wv : Word} {isOpen : Bool} (hs : Within lim s) : Within lim (s.pctlWrite n new wv isOpen) :=
  .ite (.unquarantine (.ite (.toRetrain (.ite (.toDetect (.setReg hs)) (.ite (.toDisabled (.setReg hs)) (.setReg hs))))
      (.ite (.toDetect (.setReg hs)) (.ite (.toDisabled (.setReg hs)) (.setReg hs))))) (.ite (.toRetrain (.ite (.toDetect (.setReg hs))
      (.ite (.toDisabled (.setReg hs)) (.setReg hs)))) (.ite (.toDetect (.setReg hs)) (.ite (.toDisabled (.setReg hs)) (.setReg hs))))

theorem Within.srcWrite {ctl n k : Nat} {new : Word} (hs : Within lim s) : Within lim (s.srcWrite ctl n k new) :=
  .ite (.ite hs (.putF hs)) (.ite (.ite hs (.putF hs)) (.routeTo (.ite hs (.putF hs))))

theorem Within.irqWrite {ctl o k : Nat} {new wv : Word} {plain : State} (hs : Within lim s) (hplain : Within lim plain) :
    Within lim (s.irqWrite ctl o k new wv plain) :=
  .ite (.srcWrite hs) (.ite (.ite (.irqTake hs) (.ite (.irqDone hs) hs)) hplain)

theorem Within.rstJWrite {o : Nat} {new : Word} {isOpen : Bool} {straps : BitVec 5} {plain : State} (hs : Within lim s) (hplain : Within
    lim plain) : Within lim (s.rstJWrite o new isOpen straps plain) :=
  .ite (.beat hs) (.ite (.beat hs) (.ite hs (.ite (.ite (.warmReset hs) hs) (.ite (.ite (.askPartReset (.setReg hs)) (.setReg hs))
      (.ite (.recovAnswer hplain) hplain)))))

theorem Within.rstDWrite {d o : Nat} {new : Word} {isOpen : Bool} (hs : Within lim s) : Within lim (s.rstDWrite d o new isOpen) :=
  .ite (.beat hs) (.ite (.beat hs) (.ite (.ite (.cellReset (.setReg hs)) (.setReg hs)) hs))

theorem Within.pwrWrite {o : Nat} {new wv : Word} {isOpen : Bool} {plain : State} (hs : Within lim s) (hplain : Within lim plain) :
    Within lim (s.pwrWrite o new wv isOpen plain) :=
  .ite (.ite (.countedWrite hs) hs) (.ite (.ite (.updE hplain) hs) (.ite (.powerAnswer hplain) hplain))

theorem Within.mgtWrite {o : Nat} {wv : Word} {isOpen : Bool} {plain : State} (hs : Within lim s) (hplain : Within lim plain) :
    Within lim (s.mgtWrite o wv isOpen plain) :=
  .ite (.ite (.countedWrite hs) hs) (.ite (.ite (.countedWrite hs) hs) (.ite (.ite (.countedWrite hs) hs) hplain))

theorem Within.jobWrite {p : Nat} {new : Word} {plain : State} (hs : Within lim s) (hplain : Within lim plain) :
    Within lim (s.jobWrite p new plain) :=
  .ite hs hplain

theorem Within.mxcWrite {n : Nat} {new wv : Word} (hs : Within lim s) : Within lim (s.mxcWrite n new wv) :=
  .ite (.mxcResume (.ite (.mxcStop (.putF hs)) (.ite (.mxcRelease (.putF hs)) (.putF hs)))) (.ite (.mxcStop (.putF hs))
      (.ite (.mxcRelease (.putF hs)) (.putF hs)))

theorem Within.fnWrite {f o : Nat} {plain : State} (hplain : Within lim plain) : Within lim (plain.fnWrite f o) :=
  .ite (.ite hplain (.flushVec hplain)) hplain

theorem Within.takeWrite {rq : Requester} {off k : Nat} {wv wm : Word} {isOpen : Bool} {straps : BitVec 5} (hs : Within lim s) :
    Within lim (s.takeWrite rq off k wv wm isOpen straps) := by
  unfold State.takeWrite
  dsimp only
  split
  · exact .ite hs (.ite (.ringCfgWrite hs) (.ite (.ite hs (.ite (.setReg hs) (.clearFlags (.setReg hs)))) (.ite (.setReg hs)
      (.clearFlags (.setReg hs)))))
  · exact .fnWrite (.ite (.setReg hs) (.clearFlags (.setReg hs)))
  · exact .pwrWrite hs (.ite (.setReg hs) (.clearFlags (.setReg hs)))
  · exact .ite (.mmuInvGo (.ite (.setReg hs) (.clearFlags (.setReg hs)))) (.ite (.setReg hs) (.clearFlags (.setReg hs)))
  · exact .mgtWrite hs (.ite (.setReg hs) (.clearFlags (.setReg hs)))
  · exact .rstJWrite hs (.ite (.setReg hs) (.clearFlags (.setReg hs)))
  · exact .rstDWrite hs
  · exact .ite (.jobWrite hs (.ite (.setReg hs) (.clearFlags (.setReg hs)))) (.ite (.pctlWrite hs) (.ite (.setReg hs)
      (.clearFlags (.setReg hs))))
  · exact .irqWrite hs (.ite (.setReg hs) (.clearFlags (.setReg hs)))
  · exact .irqWrite hs (.ite (.setReg hs) (.clearFlags (.setReg hs)))
  · refine .ite ?_ (.ite (.setReg hs) (.clearFlags (.setReg hs)))
    split
    · exact .srmStart (.putF (.ite (.setReg hs) (.clearFlags (.setReg hs))))
    · exact .srmStart (.putF (.ite (.setReg hs) (.clearFlags (.setReg hs))))
    · exact .srmStart (.putF (.ite (.setReg hs) (.clearFlags (.setReg hs))))
    · exact .refuse (.putF (.ite (.setReg hs) (.clearFlags (.setReg hs))))
  · exact .ite (.mxcWrite hs) (.ite (.setReg hs) (.clearFlags (.setReg hs)))
  · exact .ite (.clearQnt hs) (.ite (.setReg hs) (.clearFlags (.setReg hs)))
  · exact .ite (.setReg hs) (.clearFlags (.setReg hs))

theorem Within.noteWrite {rq : Requester} {k : Nat} (hs : Within lim s) : Within lim (s.noteWrite rq k) :=
  .ite hs (.upd hs)

theorem Within.regWrite {rq : Requester} {off size : Nat} {v : Word} {straps : BitVec 5} (hg : ∀ g, lim.mayOpen (rq, g)) (hs : Within lim
    s) : Within lim (s.regWrite rq off size v straps) := by
  unfold State.regWrite
  dsimp only
  split
  · exact hs
  · refine .ite (.refuse ?_) (.ite ?_ (.ite (.refuse ?_) ?_))
    · split
      · exact .ite (.noteWrite hs) (.closeGuard (.noteWrite hs))
      · exact .noteWrite hs
    · split
      · exact .ite (.noteWrite hs) (.closeGuard (.noteWrite hs))
      · exact .noteWrite hs
    · split
      · exact .ite (.noteWrite hs) (.closeGuard (.noteWrite hs))
      · exact .noteWrite hs
    · split
      · refine .ite ?_ (.unlock hg ?_)
        · split
          · exact .ite (.noteWrite hs) (.closeGuard (.noteWrite hs))
          · exact .noteWrite hs
        · split
          · exact .ite (.noteWrite hs) (.closeGuard (.noteWrite hs))
          · exact .noteWrite hs
      · refine .takeWrite (.ite (.refuse ?_) ?_)
        · split
          · exact .ite (.noteWrite hs) (.closeGuard (.noteWrite hs))
          · exact .noteWrite hs
        · split
          · exact .ite (.noteWrite hs) (.closeGuard (.noteWrite hs))
          · exact .noteWrite hs

theorem ResWithin.execRegisterWrite {rq : Requester} {off : Fin 67108864} {size : Fin 16} {v : Word} (hg : ∀ g, lim.mayOpen (rq, g))
    (hs : Within lim s) : ResWithin lim (execRegisterWrite rq off size v s) :=
  .next (.regWrite hg hs)

theorem ResWithin.execUnlockWrite {rq : Requester} {off : Fin 67108864} {v : Word} (hg : ∀ g, lim.mayOpen (rq, g)) (hs : Within lim s) :
    ResWithin lim (execUnlockWrite rq off v s) :=
  .when (fun _ h => .regWrite hg h) hs

theorem ResWithin.execChnJobWrite {rq : Requester} {p : Fin 16} {v : Word} (hg : ∀ g, lim.mayOpen (rq, g)) (hs : Within lim s) :
    ResWithin lim (execChnJobWrite rq p v s) :=
  .next (.regWrite hg hs)

theorem ResWithin.execW1cClear {rq : Requester} {off : Fin 67108864} {v : Word} (hg : ∀ g, lim.mayOpen (rq, g)) (hs : Within lim s) :
    ResWithin lim (execW1cClear rq off v s) :=
  .when (fun _ h => .regWrite hg h) hs

theorem ResWithin.execPwrCapWrite {rq : Requester} {v : Word} (hg : ∀ g, lim.mayOpen (rq, g)) (hs : Within lim s) :
    ResWithin lim (execPwrCapWrite rq v s) :=
  .next (.regWrite hg hs)

theorem ResWithin.execPwrCeilWrite {rq : Requester} {v : Word} (hg : ∀ g, lim.mayOpen (rq, g)) (hs : Within lim s) :
    ResWithin lim (execPwrCeilWrite rq v s) :=
  .next (.regWrite hg hs)

theorem ResWithin.execPwrAnsWrite {rq : Requester} {p : Fin 16} {v : Word} (hg : ∀ g, lim.mayOpen (rq, g)) (hs : Within lim s) :
    ResWithin lim (execPwrAnsWrite rq p v s) :=
  .next (.regWrite hg hs)

theorem ResWithin.execMgtModnumWrite {rq : Requester} {v : Word} (hg : ∀ g, lim.mayOpen (rq, g)) (hs : Within lim s) :
    ResWithin lim (execMgtModnumWrite rq v s) :=
  .next (.regWrite hg hs)

theorem ResWithin.execMgtSvnWrite {rq : Requester} {v : Word} (hg : ∀ g, lim.mayOpen (rq, g)) (hs : Within lim s) :
    ResWithin lim (execMgtSvnWrite rq v s) :=
  .next (.regWrite hg hs)

theorem ResWithin.execMgtBadstkWrite {rq : Requester} {v : Word} (hg : ∀ g, lim.mayOpen (rq, g)) (hs : Within lim s) :
    ResWithin lim (execMgtBadstkWrite rq v s) :=
  .next (.regWrite hg hs)

theorem ResWithin.execCellReset {rq : Requester} {d : Fin 4} {v : Word} (hg : ∀ g, lim.mayOpen (rq, g)) (hs : Within lim s) :
    ResWithin lim (execCellReset rq d v s) :=
  .next (.regWrite hg hs)

theorem ResWithin.execWarmResetWrite {rq : Requester} {v : Word} {straps : BitVec 5} (hg : ∀ g, lim.mayOpen (rq, g)) (hs : Within lim s)
    : ResWithin lim (execWarmResetWrite rq v straps s) :=
  .next (.regWrite hg hs)

theorem ResWithin.execPartitionReset {rq : Requester} {v : Word} (hg : ∀ g, lim.mayOpen (rq, g)) (hs : Within lim s) :
    ResWithin lim (execPartitionReset rq v s) :=
  .next (.regWrite hg hs)

theorem ResWithin.execRecoveryResume {rq : Requester} {p : Fin 16} {v : Word} (hg : ∀ g, lim.mayOpen (rq, g)) (hs : Within lim s) :
    ResWithin lim (execRecoveryResume rq p v s) :=
  .when (fun _ h => .regWrite hg h) hs

theorem ResWithin.execRecoveryEnd {rq : Requester} {p : Fin 16} {v : Word} (hg : ∀ g, lim.mayOpen (rq, g)) (hs : Within lim s) :
    ResWithin lim (execRecoveryEnd rq p v s) :=
  .when (fun _ h => .regWrite hg h) hs

theorem ResWithin.execRecoveryReset {rq : Requester} {p : Fin 16} {v : Word} (hg : ∀ g, lim.mayOpen (rq, g)) (hs : Within lim s) :
    ResWithin lim (execRecoveryReset rq p v s) :=
  .when (fun _ h => .regWrite hg h) hs

theorem Within.showUnits (hs : Within lim s) : Within lim s.showUnits :=
  .each (fun _ _ h => .putB (.putF h)) (.each (fun _ _ h => .setReg h) (.each (fun _ _ h => .each (fun _ _ h1 => .setReg h1) h) hs))

theorem Within.showMxc (hs : Within lim s) : Within lim s.showMxc :=
  .each (fun _ _ h => .putF h) hs

theorem Within.showParts (hs : Within lim s) : Within lim s.showParts :=
  .each (fun _ _ h => .setReg (.putB (.putB (.putF (.putF (.putF h)))))) hs

theorem Within.showLog (hs : Within lim s) : Within lim s.showLog :=
  .each (fun _ _ h => .setReg h) hs

theorem Within.showRest (hs : Within lim s) : Within lim s.showRest :=
  .recovRegs (.putF hs)

theorem ResWithin.execSlowClockEdge (hs : Within lim s) : ResWithin lim (execSlowClockEdge s) :=
  .next (.upd (.showRest (.showLog (.showParts (.showMxc (.showUnits (.drainParts (.drainResets (.upd hs)))))))))

end Sys2Proof.Machine
end

section
/-! Integer instructions: what each function leaves (Machine/RvInt). -/

namespace Sys2Proof.Machine

variable {lim : Limits} {s : State}

theorem OptWithin.rvDone {k len rd : Nat} {x : Option Nat} (hs : Within lim s) : OptWithin lim (s.rvDone k len rd x) :=
  .map (fun _ => .retire (.setXr hs))

theorem OptWithin.rvInt {k w len : Nat} (hs : Within lim s) : OptWithin lim (s.rvInt k w len) := by
  unfold State.rvInt
  dsimp only
  split
  · exact .rvDone hs
  · exact .rvDone hs
  · exact .rvDone hs
  · exact .rvDone hs
  · exact .rvDone hs
  · exact .rvDone hs
  · exact .some (.jump (.setXr hs))
  · exact .ite (.some (.jump (.setXr hs))) .none
  · exact .map (fun _ => .ite (.jump hs) (.retire hs))
  · exact .none

end Sys2Proof.Machine
end

section
/-! Floating-point instructions: what each function leaves (Machine/RvFp). -/

namespace Sys2Proof.Machine

variable {lim : Limits} {s : State}

theorem Within.setFr {k : Nat} {f : FFmt} {i c : Nat} (hs : Within lim s) : Within lim (s.setFr k f i c) :=
  .fsDirty (.updRv hs (fun _ => .upd))

theorem Within.fpDone {k len rd : Nat} {f : FFmt} {r : FR} (hs : Within lim s) : Within lim (s.fpDone k len rd f r) :=
  .retire (.setFflags (.setFr hs))

theorem Within.fpInt {k len rd x fl : Nat} (hs : Within lim s) : Within lim (s.fpInt k len rd x fl) :=
  .retire (.setFflags (.setXr hs))

theorem OptWithin.rvFma {k w len : Nat} (hs : Within lim s) : OptWithin lim (s.rvFma k w len) := by
  unfold State.rvFma
  split
  · exact .some (.fpDone hs)
  · exact .none

theorem OptWithin.rvFcvtInt {k w len : Nat} {f : FFmt} {toI : Bool} {rnd : Rnd} (hs : Within lim s) :
    OptWithin lim (s.rvFcvtInt k w len f toI rnd) :=
  .ite .none (.ite (.some (.fpInt hs)) (.some (.fpDone hs)))

theorem OptWithin.rvOpFp {k w len : Nat} (hs : Within lim s) : OptWithin lim (s.rvOpFp k w len) := by
  unfold State.rvOpFp
  dsimp only
  split
  · exact .none
  · split
    · exact .map (fun _ => .fpDone hs)
    · exact .map (fun _ => .fpDone hs)
    · exact .map (fun _ => .fpDone hs)
    · exact .map (fun _ => .fpDone hs)
    · exact .ite (.map (fun _ => .fpDone hs)) .none
    · exact .ite (.some (.fpDone hs)) .none
    · exact .ite (.some (.fpDone hs)) .none
    · split
      · exact .ite .none (.some (.fpDone hs))
      · exact .none
    · exact .ite .none (.some (.fpInt hs))
    · exact .bind (fun _ => .rvFcvtInt hs)
    · exact .bind (fun _ => .rvFcvtInt hs)
    · exact .ite .none (.ite (.some (.fpInt hs)) (.ite (.some (.fpInt hs)) .none))
    · exact .ite (.some (.fpDone hs)) .none
    · exact .none

theorem OptWithin.rvFp {k w len : Nat} (hs : Within lim s) : OptWithin lim (s.rvFp k w len) := by
  refine .ite .none ?_
  split
  · exact .rvFma hs
  · exact .rvFma hs
  · exact .rvFma hs
  · exact .rvFma hs
  · exact .rvOpFp hs
  · exact .none

end Sys2Proof.Machine
end

section
/-! Loads, stores and fetches: what each function leaves (Machine/RvMem). -/

namespace Sys2Proof.Machine

variable {lim : Limits} {s : State}

theorem Via.regRead {rq : Requester} {off size : Nat} (hs : Within lim s) : Via Prod.fst lim (s.regRead rq off size) := by
  unfold State.regRead
  dsimp only
  split
  · exact .pair hs
  · exact .ite (.pair hs) (.ite (.ite (.pair (.fnPop hs)) (.pair hs)) (.pair hs))

theorem Via.regAccess {k off n : Nat} {acc : Access} {x : Nat} (hg : ∀ g, lim.mayOpen (fwOf k, g)) (hs : Within lim s) :
    Via Prod.fst lim (s.regAccess k off n acc x) := by
  unfold State.regAccess
  dsimp only
  split
  · exact .ite (.pair hs) (.pair (Via.regRead hs))
  · exact .pair (.regWrite hg hs)

theorem Via.vcPiece {k a n : Nat} {acc : Access} {x : Nat} (hg : ∀ g, lim.mayOpen (fwOf k, g)) (hs : Within lim s) :
    Via Prod.fst lim (s.vcPiece k a n acc x) := by
  unfold State.vcPiece
  dsimp only
  refine .ite (.ite (.pair (.updRv hs (fun _ h => .scrPut h))) (.ite (.pair hs) (.pair hs))) (.ite (.ite (.pair hs) (.regAccess hg hs))
      (.ite (.pair hs) ?_))
  split
  · exact .ite (.pair (Via.ite (.vWrite hs) (.vRead hs))) (.pair (Via.ite (.vWrite hs) (.vRead hs)))
  · exact .pair (.updRv (Via.ite (.vWrite hs) (.vRead hs)) (fun _ => .upd))

theorem Via.fwPiece {k pa n : Nat} {acc : Access} {va x : Nat} (hg : ∀ g, lim.mayOpen (fwOf k, g)) (hs : Within lim s) :
    Via Prod.fst lim (s.fwPiece k pa n acc va x) := by
  unfold State.fwPiece
  refine .ite (.pair hs) (.ite (.ite (.pair (.physWrite hs)) (.ite (.pair (Via.physRead hs)) (.pair (Via.physRead hs)))) (.ite
    (.regAccess hg hs) (.ite (.ite (.pair (.writeSram hs)) (.ite (.pair hs) (.pair hs))) ?_)))
  split
  · exact .ite (.pair (.setMip (.updRv hs fun _ => .upd))) (.pair hs)
  · exact .ite (.pair (.setMip hs)) (.pair hs)
  · exact .pair hs

theorem Via.svWalk {k va ppn lvl : Nat} {acc : Access} {m : Mode} (hg : ∀ g, lim.mayOpen (fwOf k, g)) (hs : Within lim s) :
    Via Prod.fst lim (s.svWalk k va ppn lvl acc m) := by
  induction lvl generalizing s ppn with
  | zero =>
    unfold State.svWalk
    dsimp only
    refine .ite (.pair hs) ?_
    split
    · exact .ite (.pair (Via.fwPiece hg hs)) (.ite (.pair (Via.fwPiece hg hs)) (.ite (.pair (Via.fwPiece hg hs))
        (.pair (Via.fwPiece hg hs))))
    · exact .pair (Via.fwPiece hg hs)
  | succ l ih =>
    unfold State.svWalk
    dsimp only
    refine .ite (.pair hs) ?_
    split
    · exact .ite (.pair (Via.fwPiece hg hs)) (.ite (.ite (.pair (Via.fwPiece hg hs)) (ih (Via.fwPiece hg hs)))
        (.ite (.pair (Via.fwPiece hg hs)) (.pair (Via.fwPiece hg hs))))
    · exact .pair (Via.fwPiece hg hs)

theorem Via.svXlate {k va : Nat} {acc : Access} (hg : ∀ g, lim.mayOpen (fwOf k, g)) (hs : Within lim s) :
    Via Prod.fst lim (s.svXlate k va acc) :=
  .ite (.pair hs) (.ite (.pair hs) (.svWalk hg hs))

theorem Via.cpPiece {k a n : Nat} {acc : Access} {x : Nat} (hg : ∀ g, lim.mayOpen (fwOf k, g)) (hs : Within lim s) :
    Via Prod.fst lim (s.cpPiece k a n acc x) := by
  unfold State.cpPiece
  dsimp only
  split
  · exact .pair (Via.svXlate hg hs)
  · exact .ite (.fwPiece hg (Via.svXlate hg hs)) (.pair (Via.svXlate hg hs))

theorem Via.rvAccessF {k a n : Nat} {acc : Access} {x fuel : Nat} (hg : ∀ g, lim.mayOpen (fwOf k, g)) (hs : Within lim s) :
    Via Prod.fst lim (s.rvAccessF k a n acc x fuel) := by
  induction fuel generalizing s a n x with
  | zero => exact .pair hs
  | succ j ih =>
    refine .ite (.ite (.vcPiece hg hs) (.cpPiece hg hs)) ?_
    split
    · exact .pair (ih (Via.ite (.vcPiece hg hs) (.cpPiece hg hs)))
    · exact .pair (Via.ite (.vcPiece hg hs) (.cpPiece hg hs))

theorem Via.rvAccess {k a n : Nat} {acc : Access} {x : Nat} (hg : ∀ g, lim.mayOpen (fwOf k, g)) (hs : Within lim s) :
    Via Prod.fst lim (s.rvAccess k a n acc x) :=
  .rvAccessF hg hs

theorem Within.rvThen {k a n : Nat} {acc : Access} {x : Nat} {go : State → Nat → State} (hg : ∀ g, lim.mayOpen (fwOf k, g))
    (hs : Within lim s) (hgo : ∀ t x1, Within lim t → Within lim (go t x1)) : Within lim (s.rvThen k a n acc x go) := by
  unfold State.rvThen
  dsimp only
  split
  · exact (hgo _ _ (Via.rvAccess hg hs))
  · exact .exception (Via.rvAccess hg hs)
  · exact .updRv (Via.rvAccess hg hs) (fun _ => .upd)

theorem OptWithin.rvLoad {k w len : Nat} (hg : ∀ g, lim.mayOpen (fwOf k, g)) (hs : Within lim s) : OptWithin lim (s.rvLoad k w len) :=
  .ite .none (.some (.rvThen hg hs (fun _ _ h => .retire (.setXr h))))

theorem OptWithin.rvStore {k w len : Nat} (hg : ∀ g, lim.mayOpen (fwOf k, g)) (hs : Within lim s) : OptWithin lim (s.rvStore k w len) :=
  .ite .none (.some (.rvThen hg hs (fun _ _ h => .retire h)))

theorem OptWithin.rvFpLoad {k w len : Nat} (hg : ∀ g, lim.mayOpen (fwOf k, g)) (hs : Within lim s) : OptWithin lim (s.rvFpLoad k w len) :=
  .ite .none (.map (fun _ => .rvThen hg hs (fun _ _ h1 => .retire (.setFr h1))))

theorem OptWithin.rvFpStore {k w len : Nat} (hg : ∀ g, lim.mayOpen (fwOf k, g)) (hs : Within lim s) :
    OptWithin lim (s.rvFpStore k w len) :=
  .ite .none (.map (fun _ => .rvThen hg hs (fun _ _ h1 => .retire h1)))

theorem Via.amoScratch {k o : Nat} {op : AmoOp} {w x : Nat} (hs : Within lim s) : Via AmoRes.st lim (s.amoScratch k o op w x) :=
  .ite (.ite (.amoRes (.setRv hs (.upd (.rv hs)))) (.ite (.amoRes (.updRv (.setRv hs (.upd (.rv hs))) (fun _ h => .scrPut h)))
      (.amoRes (.setRv hs (.upd (.rv hs)))))) (.ite (.amoRes hs) (.ite (.amoRes (.setRv hs (.upd (.rv hs))))
      (.amoRes (.updRv hs (fun _ h => .scrPut h)))))

theorem Via.vcAmo {k a : Nat} {op : AmoOp} {w x : Nat} (hs : Within lim s) : Via Prod.fst lim (s.vcAmo k a op w x) := by
  unfold State.vcAmo
  dsimp only
  refine .ite (.ite (.pair (Via.amoScratch hs)) (.pair (Via.amoScratch hs))) (.ite (.pair hs) ?_)
  split
  · exact .pair (.updRv (Via.openFault (Via.xlRun hs)) (fun _ => .upd))
  · exact .ite (.pair (Via.xlRun hs)) (.ite (.pair (Via.amoAt (Via.xlRun hs))) (.pair (Via.amoAt (Via.xlRun hs))))
  · exact .pair (Via.xlRun hs)

theorem Via.cpAmo {k a : Nat} {op : AmoOp} {w x : Nat} (hg : ∀ g, lim.mayOpen (fwOf k, g)) (hs : Within lim s) :
    Via Prod.fst lim (s.cpAmo k a op w x) := by
  unfold State.cpAmo
  dsimp only
  split
  · exact .pair (Via.svXlate hg hs)
  · exact .ite (.ite (.pair (Via.amoAt (Via.svXlate hg hs))) (.pair (Via.amoAt (Via.svXlate hg hs)))) (.pair (Via.svXlate hg hs))

theorem OptWithin.rvAmo {k w len : Nat} (hg : ∀ g, lim.mayOpen (fwOf k, g)) (hs : Within lim s) : OptWithin lim (s.rvAmo k w len) := by
  unfold State.rvAmo
  dsimp only
  split
  · exact .none
  · refine .ite .none (.ite (.some (.exception hs)) (.some ?_))
    split
    · exact .retire (.setXr (Via.ite (.vcAmo hs) (.cpAmo hg hs)))
    · exact .exception (Via.ite (.vcAmo hs) (.cpAmo hg hs))
    · exact .updRv (Via.ite (.vcAmo hs) (.cpAmo hg hs)) (fun _ => .upd)

theorem OptWithin.rvMem {k w len : Nat} (hg : ∀ g, lim.mayOpen (fwOf k, g)) (hs : Within lim s) : OptWithin lim (s.rvMem k w len) := by
  unfold State.rvMem
  split
  · exact .rvLoad hg hs
  · exact .rvStore hg hs
  · exact .rvFpLoad hg hs
  · exact .rvFpStore hg hs
  · exact .rvAmo hg hs
  · exact .none

end Sys2Proof.Machine
end

section
/-! CSRs and system instructions: what each function leaves (Machine/RvCsr). -/

namespace Sys2Proof.Machine

variable {lim : Limits} {s : State}

theorem Via.cycleRead {k : Nat} (hs : Within lim s) : Via Prod.fst lim (s.cycleRead k) :=
  .ite (.pair hs) (.pair (.tickFree hs))

theorem OptPairWithin.csrReadU {k n : Nat} (hs : Within lim s) : OptPairWithin lim (s.csrReadU k n) := by
  unfold State.csrReadU
  dsimp only
  split
  · exact .ite (.some (.pair hs)) .none
  · exact .ite (.some (.pair hs)) .none
  · exact .ite (.some (.pair hs)) .none
  · exact .ite (.some (.pair hs)) .none
  · exact .ite (.some (.pair hs)) .none
  · exact .ite (.some (.pair hs)) .none
  · exact .ite (.some (.pair hs)) .none
  · exact .ite (.some (.pair hs)) .none
  · exact .ite (.some (.pair hs)) .none
  · exact .ite (.some (.pair hs)) .none
  · exact .ite (.some (.cycleRead hs)) .none
  · exact .ite (.some (.pair hs)) .none
  · exact .ite (.some (.pair hs)) .none
  · exact .ite (.some (.pair hs)) .none

theorem OptPairWithin.csrRead {k n : Nat} (hs : Within lim s) : OptPairWithin lim (s.csrRead k n) :=
  .ite .none (.ite (.csrReadU hs) (.ite (.some (.pair hs)) (.ite (.some (.pair hs)) (.ite (.some (.pair hs))
      (.ite (.some (.cycleRead hs)) (.ite (.some (.pair hs)) (.ite (.some (.pair hs)) (.ite (.some (.pair hs)) (.ite (.some (.pair hs))
      (.ite .none (.ite (.some (.pair hs)) (.ite (.some (.pair hs)) (.ite (.some (.pair hs)) (.ite (.ite .none (.some (.pair hs)))
      .none))))))))))))))

theorem Within.mstatusWrite {k : Nat} {v mask : Word} (hs : Within lim s) : Within lim (s.mstatusWrite k v mask) :=
  .setCsr hs

theorem Within.csrWrite {k n : Nat} {v : Word} (hs : Within lim s) : Within lim (s.csrWrite k n v) := by
  unfold State.csrWrite
  dsimp only
  split
  · exact .fsDirty (.setCsr hs)
  · exact .fsDirty (.setCsr hs)
  · exact .fsDirty (.setCsr hs)
  · exact .vsDirty (.setCsr hs)
  · exact .vsDirty (.setCsr hs)
  · exact .vsDirty (.setCsr hs)
  · exact .vsDirty (.setCsr hs)
  · exact .mstatusWrite hs
  · exact .mstatusWrite hs
  · exact .setCsr hs
  · exact .setCsr hs
  · exact .setCsr hs
  · exact .ite (.setCsr hs) hs
  · refine .ite (.setCsr hs) (.ite (.ite hs (.setCsr hs)) ?_)
    split
    · exact .setCsr hs
    · exact hs

theorem OptWithin.rvCsr {k w len : Nat} (hs : Within lim s) : OptWithin lim (s.rvCsr k w len) := by
  unfold State.rvCsr
  dsimp only
  refine .ite .none ?_
  split
  · exact .none
  · next t old e =>
    have taken : Within lim (if iF3 w % 4 = 1 ∧ iRd w = 0 then s else t) := .ite hs ((OptPairWithin.csrRead hs).ofSome e)
    exact .some (.ite (.csrWrite (.retire (.setXr taken))) (.retire (.setXr taken)))

theorem OptWithin.rvMret {k : Nat} (hs : Within lim s) : OptWithin lim (s.rvMret k) :=
  .ite .none (.some (.updRv (.jump (.setCsr hs)) (fun _ => .upd)))

theorem OptWithin.rvSret {k : Nat} (hs : Within lim s) : OptWithin lim (s.rvSret k) :=
  .ite .none (.some (.updRv (.jump (.setCsr hs)) (fun _ => .upd)))

theorem OptWithin.rvSfence {k len : Nat} (hs : Within lim s) : OptWithin lim (s.rvSfence k len) :=
  .ite .none (.some (.retire hs))

theorem OptWithin.rvWfi {k len : Nat} (hs : Within lim s) : OptWithin lim (s.rvWfi k len) :=
  .ite .none (.some (.retire hs))

theorem OptWithin.rvSystem {k w len : Nat} (hs : Within lim s) : OptWithin lim (s.rvSystem k w len) :=
  .ite .none (.ite (.rvCsr hs) (.ite (.some (.exception hs)) (.ite (.some (.exception hs)) (.ite (.rvMret hs) (.ite (.rvSret hs)
      (.ite (.rvWfi hs) (.ite (.rvSfence hs) .none)))))))

theorem OptWithin.rvFence {k w len : Nat} (hs : Within lim s) : OptWithin lim (s.rvFence k w len) :=
  .ite (.some (.retire hs)) .none

end Sys2Proof.Machine
end

section
/-! Vector instructions: what each function leaves (Machine/RvVec). -/

namespace Sys2Proof.Machine

variable {lim : Limits} {s : State}

theorem Within.setVtype {k : Nat} {t : Word} {avl : Option Nat} (hs : Within lim s) : Within lim (s.setVtype k t avl) := by
  unfold State.setVtype
  dsimp only
  split <;> exact .setCsr (.setCsr hs)

theorem OptWithin.rvVset {k w len : Nat} (hs : Within lim s) : OptWithin lim (s.rvVset k w len) :=
  .ite (.some (.retire (.setXr (.endVec (.setVtype hs))))) (.ite (.some (.retire (.setXr (.endVec (.setVtype hs)))))
      (.ite (.some (.retire (.setXr (.endVec (.setVtype hs))))) .none))

theorem RvWithin.putEls {r : RvState} {vd w : Nat} {es : List Nat} {f : Nat → Nat} (hr : RvWithin lim r) :
    RvWithin lim (putEls r vd w es f) :=
  .each (fun _ _ h => .setVEl h) hr

theorem Within.vDone {k len vd w m8 : Nat} {vm : Bool} (hs : Within lim s) : Within lim (s.vDone k len vd w m8 vm) :=
  .retire (.endVec (.agnostic hs))

theorem Within.vMap {k len vd w m8 : Nat} {vm : Bool} {f : Nat → Nat} (hs : Within lim s) : Within lim (s.vMap k len vd w m8 vm f) :=
  .vDone (.updRv hs (fun _ h => .putEls h))

theorem Within.maskTail {k vd : Nat} {vm : Bool} (hs : Within lim s) : Within lim (s.maskTail k vd vm) :=
  .ite hs (.upd (.updRv hs (fun _ h => .each (fun _ _ h1 => .setVBit h1) h)))

theorem Within.vMapMask {k len vd : Nat} {vm : Bool} {f : Nat → Bool} (hs : Within lim s) : Within lim (s.vMapMask k len vd vm f) :=
  .retire (.endVec (.maskTail (.updRv hs (fun _ h => .each (fun _ _ h1 => .setVBit h1) h))))

theorem Within.setVxsat {k : Nat} {b : Bool} (hs : Within lim s) : Within lim (s.setVxsat k b) :=
  .ite (.setCsr hs) hs

theorem OptWithin.vCarry {k len : Nat} {c : VCtx} {o : VSrc} (hs : Within lim s) : OptWithin lim (s.vCarry k len c o) := by
  unfold State.vCarry
  dsimp only
  split
  · exact .ite .none (.some (.vMap hs))
  · exact .ite .none (.some (.vMap hs))
  · exact .ite .none (.some (.vMapMask hs))
  · exact .ite .none (.some (.vMapMask hs))

theorem OptWithin.vMerge {k len : Nat} {c : VCtx} {o : VSrc} (hs : Within lim s) : OptWithin lim (s.vMerge k len c o) :=
  .ite (.ite .none (.some (.vMap hs))) (.ite .none (.some (.vMap hs)))

theorem OptWithin.vSlide {k len : Nat} {c : VCtx} {n : Nat} (hs : Within lim s) : OptWithin lim (s.vSlide k len c n) :=
  .ite .none (.ite (.ite .none (.some (.retire (.endVec (.ite (.updRv hs (fun _ h => .putEls h)) (.agnosticFrom
      (.updRv hs (fun _ h => .putEls h)))))))) (.some (.vMap hs)))

theorem OptWithin.vGather {k len : Nat} {c : VCtx} {o : VSrc} {iw im8 : Nat} (hs : Within lim s) :
    OptWithin lim (s.vGather k len c o iw im8) :=
  .ite .none (.some (.vMap hs))

theorem OptWithin.vNarrow {k len : Nat} {c : VCtx} {o : VSrc} (hs : Within lim s) : OptWithin lim (s.vNarrow k len c o) :=
  .ite .none (.some (.vMap (.setVxsat hs)))

theorem OptWithin.vMoveWhole {k len i : Nat} {c : VCtx} (hs : Within lim s) : OptWithin lim (s.vMoveWhole k len i c) :=
  .ite .none (.some (.retire (.endVec (.updRv hs (fun _ h => .putEls h)))))

theorem Within.vReduce {k len vd w : Nat} {x : State → Nat} (hs : Within lim s) : Within lim (s.vReduce k len vd w x) :=
  .retire (.endVec (.ite hs (.agnostic (.updRv hs (fun _ h => .setVEl h)))))

theorem OptWithin.vRedInt {k len vs1 : Nat} {c : VCtx} (hs : Within lim s) : OptWithin lim (s.vRedInt k len vs1 c) :=
  .ite .none (.some (.vReduce hs))

theorem OptWithin.vRedWide {k len vs1 : Nat} {c : VCtx} (hs : Within lim s) : OptWithin lim (s.vRedWide k len vs1 c) :=
  .ite .none (.some (.vReduce hs))

theorem OptWithin.vIvPlain {k len : Nat} {c : VCtx} {o : VSrc} (hs : Within lim s) : OptWithin lim (s.vIvPlain k len c o) :=
  .ite (.ite .none (.some (.vMap hs))) (.ite (.ite .none (.some (.vMap (.setVxsat hs)))) (.ite (.ite .none (.some (.vMapMask hs))) .none))

theorem OptWithin.rvOpIv {k i len : Nat} (hs : Within lim s) : OptWithin lim (s.rvOpIv k i len) := by
  refine .ite .none (.ite (.vMoveWhole hs) (.ite .none ?_))
  split
  · exact .vGather hs
  · exact .ite (.vGather hs) (.vSlide hs)
  · exact .vSlide hs
  · exact .vCarry hs
  · exact .vCarry hs
  · exact .vCarry hs
  · exact .vCarry hs
  · exact .vMerge hs
  · exact .vNarrow hs
  · exact .vNarrow hs
  · exact .vNarrow hs
  · exact .vNarrow hs
  · exact .vRedWide hs
  · exact .vRedWide hs
  · exact .vIvPlain hs

theorem OptWithin.vScalarOut {k i len : Nat} {c : VCtx} (hs : Within lim s) : OptWithin lim (s.vScalarOut k i len c) := by
  unfold State.vScalarOut
  dsimp only
  split
  · exact .ite (.some (.retire (.setXr (.endVec hs)))) .none
  · exact .ite (.some (.retire (.setXr (.endVec hs)))) .none
  · exact .ite (.some (.retire (.setXr (.endVec hs)))) .none
  · exact .none

theorem Within.vScalarIn {k len vd w x : Nat} (hs : Within lim s) : Within lim (s.vScalarIn k len vd w x) :=
  .retire (.endVec (.ite (.agnostic (.updRv hs (fun _ h => .setVEl h))) hs))

theorem OptWithin.vExt {k i len : Nat} {c : VCtx} (hs : Within lim s) : OptWithin lim (s.vExt k i len c) :=
  .ite .none (.ite .none (.some (.vMap hs)))

theorem OptWithin.vMaskUnary {k i len : Nat} {c : VCtx} (hs : Within lim s) : OptWithin lim (s.vMaskUnary k i len c) := by
  unfold State.vMaskUnary
  dsimp only
  split
  · exact .ite (.some (.vMapMask hs)) .none
  · exact .ite (.some (.vMapMask hs)) .none
  · exact .ite (.some (.vMapMask hs)) .none
  · exact .ite .none (.some (.vMap hs))
  · exact .ite .none (.some (.vMap hs))
  · exact .none

theorem OptWithin.vCompress {k i len : Nat} {c : VCtx} (hs : Within lim s) : OptWithin lim (s.vCompress k i len c) :=
  .ite .none (.some (.retire (.endVec (.ite hs (.agnosticFrom (.updRv hs (fun _ h => .each (fun _ _ h1 => .setVEl h1) h)))))))

theorem OptWithin.vSlide1 {k len : Nat} {c : VCtx} {up : Bool} {x : Nat} (hs : Within lim s) : OptWithin lim (s.vSlide1 k len c up x) :=
  .ite .none (.some (.vMap hs))

theorem OptWithin.vWiden {k len : Nat} {c : VCtx} {o : VSrc} (hs : Within lim s) : OptWithin lim (s.vWiden k len c o) :=
  .ite .none (.some (.vMap hs))

theorem OptWithin.vMvPlain {k len : Nat} {c : VCtx} {o : VSrc} (hs : Within lim s) : OptWithin lim (s.vMvPlain k len c o) :=
  .ite .none (.some (.vMap hs))

theorem OptWithin.rvOpMv {k i len : Nat} (hs : Within lim s) : OptWithin lim (s.rvOpMv k i len) := by
  refine .ite .none (.ite (.ite (.vRedInt hs) .none) (.ite (.vWiden hs) ?_))
  split
  · exact .ite .none (.vSlide1 hs)
  · exact .ite .none (.vSlide1 hs)
  · exact .ite (.vScalarOut hs) (.ite (.some (.vScalarIn hs)) .none)
  · exact .ite (.vExt hs) .none
  · exact .ite (.vMaskUnary hs) .none
  · exact .ite (.vCompress hs) .none
  · exact .ite (.ite (.some (.vMapMask hs)) .none) (.vMvPlain hs)

end Sys2Proof.Machine
end

section
/-! Vector floating-point instructions: what each function leaves (Machine/RvVecFp). -/

namespace Sys2Proof.Machine

variable {lim : Limits} {s : State}

theorem Within.vMapF {k len vd w m8 : Nat} {vm : Bool} {f : Nat → FR} (hs : Within lim s) : Within lim (s.vMapF k len vd w m8 vm f) :=
  .vMap (.setFflags hs)

theorem Within.vMapMaskF {k len vd : Nat} {vm : Bool} {f : Nat → FR} (hs : Within lim s) : Within lim (s.vMapMaskF k len vd vm f) :=
  .vMapMask (.setFflags hs)

theorem OptWithin.vRedFp {k len vs1 : Nat} {c : VCtx} {f g : FFmt} {rnd : Rnd} (hs : Within lim s) :
    OptWithin lim (s.vRedFp k len vs1 c f g rnd) :=
  .ite .none (.some (.vReduce (.ite hs (.setFflags hs))))

theorem OptWithin.vCvt {k i len : Nat} {c : VCtx} {rnd : Rnd} (hs : Within lim s) : OptWithin lim (s.vCvt k i len c rnd) :=
  .ite .none (.some (.vMapF hs))

theorem OptWithin.vFpUnary {k i len : Nat} {c : VCtx} {f : FFmt} {rnd : Rnd} (hs : Within lim s) :
    OptWithin lim (s.vFpUnary k i len c f rnd) := by
  unfold State.vFpUnary
  dsimp only
  split
  · exact .none
  · exact .ite .none (.some (.vMapF hs))

theorem OptWithin.vFpWiden {k len : Nat} {c : VCtx} {o : VSrc} {f : FFmt} {rnd : Rnd} (hs : Within lim s) :
    OptWithin lim (s.vFpWiden k len c o f rnd) := by
  unfold State.vFpWiden
  dsimp only
  split
  · exact .none
  · exact .ite .none (.some (.vMapF hs))

theorem OptWithin.vFpMove {k i len : Nat} {c : VCtx} {f : FFmt} {x : Nat} (hs : Within lim s) : OptWithin lim (s.vFpMove k i len c f x) :=
  .ite .none (.ite (.ite (.some (.retire (.endVec (.setFr hs)))) .none) (.ite (.some (.vScalarIn hs)) .none))

theorem OptWithin.vFpPlain {k len : Nat} {c : VCtx} {o : VSrc} {f : FFmt} {rnd : Rnd} {x : Nat} (hs : Within lim s) :
    OptWithin lim (s.vFpPlain k len c o f rnd x) :=
  .ite (.vSlide1 hs) (.ite (.vSlide1 hs) (.ite (.vMerge hs) (.ite (.ite .none (.some (.vMapF hs)))
      (.ite (.ite .none (.some (.vMapMaskF hs))) .none))))

theorem OptWithin.rvOpFv {k i len : Nat} (hs : Within lim s) : OptWithin lim (s.rvOpFv k i len) := by
  unfold State.rvOpFv
  dsimp only
  refine .ite .none ?_
  split
  · exact .none
  · refine .ite (.vCvt hs) ?_
    split
    · exact .none
    · split
      · exact .vRedFp hs
      · exact .vRedFp hs
      · exact .vRedFp hs
      · exact .vRedFp hs
      · exact .bind (fun _ => .vRedFp hs)
      · exact .bind (fun _ => .vRedFp hs)
      · exact .vFpMove hs
      · exact .vFpUnary hs
      · exact .ite (.vFpWiden hs) (.vFpPlain hs)

end Sys2Proof.Machine
end

section
/-! Vector loads and stores: what each function leaves (Machine/RvVecMem). -/

namespace Sys2Proof.Machine

variable {lim : Limits} {s : State}

theorem Via.vAccRun {k w : Nat} {store : Bool} {l : List VAcc} (hg : ∀ g, lim.mayOpen (fwOf k, g)) (hs : Within lim s) :
    Via VRun.st lim (s.vAccRun k w store l) := by
  induction l generalizing s with
  | nil => exact .vRun hs
  | cons a rest ih =>
    unfold State.vAccRun
    dsimp only
    split
    · exact ih (.ite (Via.rvAccess hg hs) (.updRv (Via.rvAccess hg hs) (fun _ h => .setVEl h)))
    · exact .vRun (Via.rvAccess hg hs)

theorem Within.vMemRun {k w : Nat} {store : Bool} {l : List VAcc} {fin : State → State} (hg : ∀ g, lim.mayOpen (fwOf k, g))
    (hs : Within lim s) (hfin : ∀ t, Within lim t → Within lim (fin t)) : Within lim (s.vMemRun k w store l fin) := by
  unfold State.vMemRun
  dsimp only
  split
  · exact (hfin _ (Via.vAccRun hg hs))
  · split
    · exact .exception (.vsDirty (.setCsr (Via.vAccRun hg hs)))
    · exact .updRv (.vsDirty (.setCsr (Via.vAccRun hg hs))) (fun _ => .upd)

theorem Within.vLoadDone {k len nf vd w m8 : Nat} {vm : Bool} (hs : Within lim s) : Within lim (s.vLoadDone k len nf vd w m8 vm) :=
  .retire (.endVec (.each (fun _ _ h => .agnostic h) hs))

theorem Within.vStoreDone {k len : Nat} (hs : Within lim s) : Within lim (s.vStoreDone k len) :=
  .retire (.endVec hs)

theorem OptWithin.vStrided {k len i w e8 stride : Nat} {store ff : Bool} (hg : ∀ g, lim.mayOpen (fwOf k, g)) (hs : Within lim s) :
    OptWithin lim (s.vStrided k len i w e8 stride store ff) := by
  refine .ite .none (.some (.vMemRun hg hs (fun _ h => .ite (.vStoreDone ?_) (.vLoadDone ?_))))
  · split
    · exact .setCsr h
    · exact h
  · split
    · exact .setCsr h
    · exact h

theorem OptWithin.vIndexed {k len i iw : Nat} {store : Bool} (hg : ∀ g, lim.mayOpen (fwOf k, g)) (hs : Within lim s) :
    OptWithin lim (s.vIndexed k len i iw store) :=
  .ite .none (.some (.vMemRun hg hs (fun _ h => .ite (.vStoreDone h) (.vLoadDone h))))

theorem OptWithin.vWholeMem {k len i w : Nat} {store : Bool} (hg : ∀ g, lim.mayOpen (fwOf k, g)) (hs : Within lim s) :
    OptWithin lim (s.vWholeMem k len i w store) :=
  .ite .none (.some (.vMemRun hg hs (fun _ h => .vStoreDone h)))

theorem OptWithin.vMaskMem {k len i : Nat} {store : Bool} (hg : ∀ g, lim.mayOpen (fwOf k, g)) (hs : Within lim s) :
    OptWithin lim (s.vMaskMem k len i store) :=
  .ite .none (.some (.vMemRun hg hs (fun _ h => .vStoreDone (.ite h (.agnostic h)))))

theorem OptWithin.rvVecMem {k i len : Nat} {store : Bool} (hg : ∀ g, lim.mayOpen (fwOf k, g)) (hs : Within lim s) :
    OptWithin lim (s.rvVecMem k i len store) := by
  unfold State.rvVecMem
  dsimp only
  split
  · exact .none
  · refine .ite .none ?_
    split
    · exact .vWholeMem hg hs
    · exact .ite (.vMaskMem hg hs) .none
    · exact .ite .none (.vStrided hg hs)
    · exact .ite .none (.vStrided hg hs)
    · exact .none
    · exact .ite .none (.vStrided hg hs)
    · exact .ite .none (.vIndexed hg hs)

theorem OptWithin.rvVec {k w len : Nat} (hg : ∀ g, lim.mayOpen (fwOf k, g)) (hs : Within lim s) : OptWithin lim (s.rvVec k w len) := by
  refine .ite .none ?_
  split
  · exact .rvVecMem hg hs
  · exact .rvVecMem hg hs
  · split
    · exact .rvVset hs
    · exact .rvOpFv hs
    · exact .rvOpFv hs
    · exact .rvOpMv hs
    · exact .rvOpMv hs
    · exact .rvOpIv hs

end Sys2Proof.Machine
end

section
/-! RISC-V instructions: what each function leaves (Machine/Riscv). -/

namespace Sys2Proof.Machine

variable {lim : Limits} {s : State}

theorem Within.rvDecode {k w len raw : Nat} (hg : ∀ g, lim.mayOpen (fwOf k, g)) (hs : Within lim s) :
    Within lim (s.rvDecode k w len raw) := by
  unfold State.rvDecode
  dsimp only
  split
  · next t e =>
    refine OptWithin.ofSome ?_ e
    split
    · exact .rvFence hs
    · exact .rvSystem hs
    · exact .rvVec hg hs
    · exact .rvMem hg hs
    · exact .rvMem hg hs
    · exact .rvMem hg hs
    · exact .ite (.rvVec hg hs) (.rvMem hg hs)
    · exact .ite (.rvVec hg hs) (.rvMem hg hs)
    · exact .rvFp hs
    · exact .rvFp hs
    · exact .rvFp hs
    · exact .rvFp hs
    · exact .rvFp hs
    · exact .rvInt hs
  · exact .illegal hs

theorem Within.rvExec {k raw : Nat} (hg : ∀ g, lim.mayOpen (fwOf k, g)) (hs : Within lim s) : Within lim (s.rvExec k raw) := by
  refine .ite ?_ (.ite (.illegal hs) (.rvDecode hg hs))
  split
  · exact .rvDecode hg hs
  · exact .illegal hs

theorem OptResWithin.rvCustom {vc : Fin 480} {w : Nat} (hs : Within lim s) : OptResWithin lim (s.rvCustom vc w) := by
  refine .ite ?_ ?_
  · split
    · exact .ite (.some (.execXtVl hs)) .none
    · exact .some (.execXtVls hs)
    · exact .ite (.some (.execXtVs hs)) .none
    · exact .some (.execXtVss hs)
    · exact .ite (.some (.execXtVunp hs)) .none
    · exact .ite (.some (.execXtVpk hs)) .none
    · exact .ite (.some (.execXtVpk hs)) .none
    · exact .ite (.some (.execXtFence hs)) .none
    · exact .none
  · split
    · exact .ite (.some (.execXsAdd hs)) .none
    · exact .ite (.some (.execXsWait hs)) .none
    · exact .ite (.some (.execXsTry hs)) .none
    · exact .ite (.some (.execXsRd hs)) .none
    · exact .ite (.some (.execXsSig hs)) .none
    · exact .ite (.some (.execXsBar hs)) .none
    · exact .ite (.some (.execXdQ hs)) .none
    · exact .ite (.some (.execXdQv hs)) .none
    · exact .ite (.some (.execXdTq hs)) .none
    · exact .ite (.some (.execXdTqv hs)) .none
    · exact .none

theorem Via.rvFetch {k len : Nat} (hg : ∀ g, lim.mayOpen (fwOf k, g)) (hs : Within lim s) : Via Prod.fst lim (s.rvFetch k len) := by
  refine .ite (.rvAccess hg hs) ?_
  split
  · exact .pair (Via.svXlate hg hs)
  · exact .ite (.pair (Via.svXlate hg hs)) (.pair (Via.svXlate hg hs))

theorem ResWithin.execRiscvInstruction {core : RvCore} {w : Word32} (hg : ∀ g, lim.mayOpen (fwOf (rvKey core), g)) (hs : Within lim s) :
    ResWithin lim (execRiscvInstruction core w s) := by
  refine .ite (.next hs) ?_
  split
  · exact .next (.exception (Via.rvFetch hg hs))
  · exact .next (Via.rvFetch hg hs)
  · split
    · exact .ite (.getD (.rvCustom (Via.rvFetch hg hs)) (.next (.illegal (Via.rvFetch hg hs)))) (.next (.rvExec hg (Via.rvFetch hg hs)))
    · exact .next (.rvExec hg (Via.rvFetch hg hs))

end Sys2Proof.Machine
end

section
/-! Store rooms served: what each function leaves (Machine/StoreRoom). -/

namespace Sys2Proof.Machine

variable {lim : Limits} {s : State}

theorem Within.roomArrive {q : RoomReq} (hs : Within lim s) : Within lim (s.roomArrive q) := by
  unfold State.roomArrive
  dsimp only
  split
  · exact .ite (.touch (.putLine (.ite (.breakResv hs) hs))) (.answerMem (.touch (.ite (.breakResv hs) hs)))
  · exact .ite (.toCtl (.ite (.breakResv hs) hs)) (.ite (.install (.ite (.breakResv hs) hs)) (.toCtl (.ite (.breakResv hs) hs)))

theorem ResWithin.execStoreRoomAccess {q : RoomReq} (hs : Within lim s) : ResWithin lim (execStoreRoomAccess q s) :=
  .when (fun _ h => .roomArrive h) hs

theorem ResWithin.execStoreRoomAmo {core : RvCore} {part : Fin 16} {op : AmoOp} {wide : Bool} {pa : Nat} {x : Word} (hs : Within lim s) :
    ResWithin lim (execStoreRoomAmo core part op wide pa x s) :=
  .when (fun _ h => .emit (Via.amoAt h)) hs

theorem ResWithin.execStoreRoomFill {st : Fin 12} (hs : Within lim s) : ResWithin lim (execStoreRoomFill st s) :=
  .next (.fillOne hs)

theorem ResWithin.execWorkCounterClaim {who : Option CoreName} {part : Fin 16} {pa : Nat} {n : Word} (hs : Within lim s) :
    ResWithin lim (execWorkCounterClaim who part pa n s) :=
  .when (fun _ h => .emit (Via.wcClaim h)) hs

theorem ResWithin.execWorkCounterPresent {who : Option CoreName} {part : Fin 16} {pa : Nat} {t : Word} (hs : Within lim s) :
    ResWithin lim (execWorkCounterPresent who part pa t s) :=
  .when (fun _ h => .emit (Via.wcPresent h)) hs

theorem ResWithin.execHbmRequest {st : Fin 12} (hs : Within lim s) : ResWithin lim (execHbmRequest st s) :=
  .next (.ctlServe hs)

theorem Within.badLine {st a : Nat} (hs : Within lim s) : Within lim (s.badLine st a) :=
  .raiseD (.updHbm (.putF (.addF hs)))

theorem ResWithin.execHbmScrub {st : Fin 12} {corrected : BitVec 32} {bad : List Nat} (hs : Within lim s) :
    ResWithin lim (execHbmScrub st corrected bad s) :=
  .when (fun _ h => .each (fun _ _ h1 => .badLine h1) (.addF h)) hs

theorem ResWithin.execStackDegradingEvent {st : Fin 12} (hs : Within lim s) : ResWithin lim (execStackDegradingEvent st s) :=
  .when (fun _ h => .raiseD h) hs

theorem Within.roomUe {c line : Nat} (hs : Within lim s) : Within lim (s.roomUe c line) := by
  unfold State.roomUe
  dsimp only
  split
  · exact hs
  · exact .ite (.setRoom hs) (.setRoom hs)

theorem ResWithin.execSramUncorrectableError {loc : SramLoc} (hs : Within lim s) : ResWithin lim (execSramUncorrectableError loc s) := by
  refine .next ?_
  split
  · exact .raiseD (.roomUe hs)
  · exact .raiseD (.updMc hs (fun _ => .upd))
  · exact .raiseD (.updMc hs (fun _ => .upd))
  · exact .raiseD (.updMc hs (fun _ => .upd))
  · exact .raiseD (.updRv hs (fun _ => .upd))
  · exact .raiseM (.upd hs)

theorem ResWithin.execClean {d : Fin 4} (hs : Within lim s) : ResWithin lim (execClean d s) :=
  .next (.srmStart hs)

theorem ResWithin.execCleanInv {d : Fin 4} (hs : Within lim s) : ResWithin lim (execCleanInv d s) :=
  .next (.srmStart hs)

theorem ResWithin.execDrop {d : Fin 4} (hs : Within lim s) : ResWithin lim (execDrop d s) :=
  .next (.srmStart hs)

theorem ResWithin.execSrmRangeDone {d : Fin 4} (hs : Within lim s) : ResWithin lim (execSrmRangeDone d s) :=
  .when (fun _ h => .putF (.putF h)) hs

end Sys2Proof.Machine
end

section
/-! Every command: what each function leaves (Machine/Dispatch). -/

namespace Sys2Proof.Machine

variable {lim : Limits} {s : State}

/-- The requester for whom a command may open a guard. -/
def opensFor : Instr → Option Requester
  | .registerWrite rq .. | .unlockWrite rq .. | .chnJobWrite rq .. | .w1cClear rq .. | .pwrAnsWrite rq .. | .pwrCapWrite rq .. => some rq
  | .pwrCeilWrite rq .. | .mgtModnumWrite rq .. | .mgtSvnWrite rq .. | .mgtBadstkWrite rq .. | .cellReset rq .. => some rq
  | .warmResetWrite rq .. | .partitionReset rq .. | .recoveryResume rq .. | .recoveryEnd rq .. | .recoveryReset rq .. => some rq
  | .riscvInstruction core _ => some (fwOf (rvKey core))
  | _ => none

theorem ResWithin.exec {i : Instr} (hg : ∀ rq ∈ opensFor i, ∀ g, lim.mayOpen (rq, g)) (hs : Within lim s) : ResWithin lim (exec i s) := by
  unfold Machine.exec
  split
  · exact .execColdPowerOn hs
  · exact .execHbmTrainingComplete hs
  · exact .execInputUndervoltageShutdown hs
  · exact .execInputOvervoltageShutdown hs
  · exact .execInputLowBandEntry hs
  · exact .execInputLowBandExit hs
  · exact .execLeakDetected hs
  · exact .execRailOutOfRegulation hs
  · exact .execReversedFlowDetect hs
  · exact .execFabRefclkLoss hs
  · exact .execSlowClockSwitchToRef hs
  · exact .execSlowClockSwitchToOsc hs
  · exact .execModRstNAssert hs
  · exact .execPerstNAssert hs
  · exact .execPerstNDeassert hs
  · exact .execPcieHotReset hs
  · exact .execFlr hs
  · exact .execNumvfsWrite hs
  · exact .execMeshFlitForward hs
  · exact .execMeshCreditReturn hs
  · exact .execGatewayAccept hs
  · exact .execCellDownConsume hs
  · exact .execMcastReplicationEntry hs
  · exact .execMcastBranchTake hs
  · exact .execNop hs
  · exact .execHalt hs
  · exact .execProgramComplete hs
  · exact .execJmp hs
  · exact .execSetl hs
  · exact .execBloop hs
  · exact .execPsync hs
  · exact .execFclr hs
  · exact .execGli hs
  · exact .execGadd hs
  · exact .execGlds hs
  · exact .execOrg hs
  · exact .execSrset hs
  · exact .execTcfg hs
  · exact .execTtbl hs
  · exact .execTld hs
  · exact .execTst hs
  · exact .execTileRowArrival hs
  · exact .execTileWriteAck hs
  · exact .execDmaq hs
  · exact .execAclr hs
  · exact .execArd hs
  · exact .execAwr hs
  · exact .execAspl hs
  · exact .execAfil hs
  · exact .execAccStarvationGuard hs
  · exact .execMma hs
  · exact .execArrayPassStart hs
  · exact .execArrayPassComplete hs
  · exact .execLds hs
  · exact .execLdsSpill hs
  · exact .execLdsDrain hs
  · exact .execTew hs
  · exact .execTact hs
  · exact .execTder hs
  · exact .execTqnt hs
  · exact .execTmsk hs
  · exact .execSadd hs
  · exact .execSwait hs
  · exact .execSsig hs
  · exact .execSbar hs
  · exact .execMxcStop hs
  · exact .execMxcStopped hs
  · exact .execMxcStopRelease hs
  · exact .execMxcResume hs
  · exact .execMxqClr hs
  · exact .execXtVl hs
  · exact .execXtVls hs
  · exact .execXtVs hs
  · exact .execXtVss hs
  · exact .execXtVunp hs
  · exact .execXtVpk hs
  · exact .execXtFence hs
  · exact .execXsAdd hs
  · exact .execXsWait hs
  · exact .execXsTry hs
  · exact .execXsRd hs
  · exact .execXsSig hs
  · exact .execXsBar hs
  · exact .execXdQ hs
  · exact .execXdQv hs
  · exact .execXdTq hs
  · exact .execXdTqv hs
  · exact .execRiscvInstruction (hg _ rfl) hs
  · exact .execVcInterruptTake hs
  · exact .execMtimeCompare hs
  · exact .execReservationTimeout hs
  · exact .execStoreRoomAccess hs
  · exact .execStoreRoomAmo hs
  · exact .execStoreRoomFill hs
  · exact .execWorkCounterClaim hs
  · exact .execWorkCounterPresent hs
  · exact .execHbmRequest hs
  · exact .execHbmScrub hs
  · exact .execStackDegradingEvent hs
  · exact .execSramUncorrectableError hs
  · exact .execHbmTempRead hs
  · exact .execClean hs
  · exact .execCleanInv hs
  · exact .execDrop hs
  · exact .execSrmRangeDone hs
  · exact .execPageWalk hs
  · exact .execFaultRecordQueued hs
  · exact .execGrowFaultService hs
  · exact .execFaultTimeout hs
  · exact .execAtsTranslationCompletion hs
  · exact .execPrgResponse hs
  · exact .execAtsInvalidateRequest hs
  · exact .execInvalidateAll hs
  · exact .execInvalidateContext hs
  · exact .execInvalidateRange hs
  · exact .execInvalidationComplete hs
  · exact .execCellSaveComplete hs
  · exact .execCellRestoreComplete hs
  · exact .execDmaCopy hs
  · exact .execDmaPanel hs
  · exact .execDmaImage hs
  · exact .execDmaFetchAdd hs
  · exact .execDmaClaim hs
  · exact .execDmaPresent hs
  · exact .execDmaMaskload hs
  · exact .execDmaKey hs
  · exact .execDmaLineResponse hs
  · exact .execSignalReceive hs
  · exact .execSignalCompletion hs
  · exact .execBarrierNodeArrival hs
  · exact .execBarrierReleaseApply hs
  · exact .execIdleReport hs
  · exact .execSyncHang hs
  · exact .execPortEnable hs
  · exact .execPortDisable hs
  · exact .execPortSignalDetect hs
  · exact .execPortTuneDone hs
  · exact .execPortAlignDone hs
  · exact .execPortStateTimeout hs
  · exact .execPortTuneBackoff hs
  · exact .execConfigFlit hs
  · exact .execConfigResendTimer hs
  · exact .execLaneLockLost hs
  · exact .execLaneErrorThreshold hs
  · exact .execPortRetrain hs
  · exact .execPortUnquarantine hs
  · exact .execDegradedRetrainTimer hs
  · exact .execQuarantineReleaseTimer hs
  · exact .execRateLimitExpiry hs
  · exact .execDataFlit hs
  · exact .execIdleFlit hs
  · exact .execCreditFlit hs
  · exact .execRetrainFlit hs
  · exact .execQuarantineFlit hs
  · exact .execFlitTransmit hs
  · exact .execReplayTimeout hs
  · exact .execCreditFlitTimer hs
  · exact .execPut hs
  · exact .execGet hs
  · exact .execAtomic hs
  · exact .execReduceContrib hs
  · exact .execReduceResult hs
  · exact .execBarrierArrive hs
  · exact .execBarrierRelease hs
  · exact .execMcast hs
  · exact .execProbe hs
  · exact .execNodeCfg hs
  · exact .execPortStat hs
  · exact .execFabricResponse hs
  · exact .execXlateRetryResend hs
  · exact .execTransactionTimeout hs
  · exact .execLocalContribRead hs
  · exact .execFragmentDeadline hs
  · exact .execResultWriteAck hs
  · exact .execReductionHang hs
  · exact .execMcastTargetCompletion hs
  · exact .execMcastTimeout hs
  · exact .execCellarChunk hs
  · exact .execCellarStatsRoundDone hs
  · exact .execSqDoorbell hs
  · exact .execCqDoorbell hs
  · exact .execCommandFetch hs
  · exact .execRingEnable hs
  · exact .execRingDisable hs
  · exact .execCompletionRecordWrite hs
  · exact .execEventRecordWrite hs
  · exact .execFnPop hs
  · exact .execBar4Read hs
  · exact .execBar4Write hs
  · exact .execBar4HoldExpiry hs
  · exact .execMsixModerationExpiry hs
  · exact .execMsixUnmask hs
  · exact .execRingNop hs
  · exact .execLaunch hs
  · exact .execKernelStart hs
  · exact .execKernelComplete hs
  · exact .execKstopPreempt hs
  · exact .execKstopEnd hs
  · exact .execKresume hs
  · exact .execCopy hs
  · exact .execBarcfg hs
  · exact .execRedjob hs
  · exact .execRedctlClose hs
  · exact .execRedctlUnconfigure hs
  · exact .execUpdjob hs
  · exact .execUpdstop hs
  · exact .execFltresRetry hs
  · exact .execFltresAbort hs
  · exact .execInval hs
  · exact .execFabcfg hs
  · exact .execFmcast hs
  · exact .execPortctlUnquarantine hs
  · exact .execPortctlRetrain hs
  · exact .execPantryConfig hs
  · exact .execPantryReset hs
  · exact .execPantryIntake hs
  · exact .execPantrySelect hs
  · exact .execPantryFeed hs
  · exact .execPantryPublish hs
  · exact .execPantryQuery hs
  · exact .execPantryUnconfig hs
  · exact .execCadenceStart hs
  · exact .execCadenceStop hs
  · exact .execCadenceAdjust hs
  · exact .execCadenceResume hs
  · exact .execCreate hs
  · exact .execDestroy hs
  · exact .execMoveCells hs
  · exact .execMoveMem hs
  · exact .execMoveRings hs
  · exact .execPorts hs
  · exact .execSetCtx hs
  · exact .execClearCtx hs
  · exact .execShare hs
  · exact .execWaymask hs
  · exact .execScope hs
  · exact .execAssist hs
  · exact .execPhyswin hs
  · exact .execDiscard hs
  · exact .execPantryTicketTake hs
  · exact .execIntakeSkip hs
  · exact .execQueryBatchTimeout hs
  · exact .execQueryDoneRead hs
  · exact .execQueryDoneTimeout hs
  · exact .execCadencePeriodStart hs
  · exact .execCadencePhaseEnd hs
  · exact .execIrqFlagSet hs
  · exact .execIrqFilterPass hs
  · exact .execIrqTake hs
  · exact .execIrqDone hs
  · exact .execIrqHoldoffExpiry hs
  · exact .execPowerSample hs
  · exact .execSustainedOverdraw hs
  · exact .execPowerControlStep hs
  · exact .execRecalibrationComplete hs
  · exact .execCalibrationRetake hs
  · exact .execThermalStepEntry hs
  · exact .execThermalStepExit hs
  · exact .execThermalTrip hs
  · exact .execPowerAnswerTimeout hs
  · exact .execPwrAnsWrite (hg _ rfl) hs
  · exact .execPwrCapWrite (hg _ rfl) hs
  · exact .execPwrCeilWrite (hg _ rfl) hs
  · exact .execMgtModnumWrite (hg _ rfl) hs
  · exact .execMgtSvnWrite (hg _ rfl) hs
  · exact .execMgtBadstkWrite (hg _ rfl) hs
  · exact .execOtpBurnComplete hs
  · exact .execCellReset (hg _ rfl) hs
  · exact .execWarmResetWrite (hg _ rfl) hs
  · exact .execPartitionReset (hg _ rfl) hs
  · exact .execRecoveryResume (hg _ rfl) hs
  · exact .execRecoveryEnd (hg _ rfl) hs
  · exact .execRecoveryReset (hg _ rfl) hs
  · exact .execHeartbeat hs
  · exact .execHeartbeatLost hs
  · exact .execControllerTakeover hs
  · exact .execRestartTimeout hs
  · exact .execJunctionHang hs
  · exact .execEntdaa hs
  · exact .execSetEndpointId hs
  · exact .execGetEndpointId hs
  · exact .execGetEndpointUuid hs
  · exact .execGetMctpVersionSupport hs
  · exact .execGetMessageTypeSupport hs
  · exact .execPldmResetRequest hs
  · exact .execGetSensorReading hs
  · exact .execGetStateSensorReadings hs
  · exact .execSetEventReceiver hs
  · exact .execPlatformEventMessage hs
  · exact .execRequestUpdate hs
  · exact .execPassComponentTable hs
  · exact .execFirmwareComponentWrite hs
  · exact .execActivateFirmware hs
  · exact .execGetVersion hs
  · exact .execGetCapabilities hs
  · exact .execNegotiateAlgorithms hs
  · exact .execGetDigests hs
  · exact .execGetCertificate hs
  · exact .execChallenge hs
  · exact .execGetMeasurements hs
  · exact .execUnlockWrite (hg _ rfl) hs
  · exact .execChnJobWrite (hg _ rfl) hs
  · exact .execW1cClear (hg _ rfl) hs
  · exact .execRegisterWrite (hg _ rfl) hs
  · exact .execCommandedPowerDown hs
  · exact .execIllegalOpcode hs
  · exact .execFetchFault hs
  · exact .execConfigurationWrite hs
  · exact .execPcieLinkStateChange hs
  · exact .execCancelUpdate hs
  · exact .execSlowClockEdge hs

end Sys2Proof.Machine
end

section
namespace Sys2Proof.Machine

/-- What a command leaves: the commands that wait behind it, no guard opened but for its own requester, and the memories in their form. -/
theorem within_of_exec {c : Instr} {s t : State} (h : exec c s = .next t) :
    Within ⟨s.pending, fun g => g ∈ s.guards ∨ some g.1 = opensFor c, s.memWf = true⟩ t :=
  (ResWithin.exec (fun _ e _ => Or.inr e.symm) (.start s fun _ m => Or.inl m)).ofNext h

theorem memWf_of_exec {c : Instr} {s t : State} (h : exec c s = .next t) (w : s.memWf = true) : t.memWf = true :=
  (within_of_exec h).memWf w

end Sys2Proof.Machine

open Sys2Proof Sys2Proof.Machine

/-- Settles O59: a step runs one command, and every command leaves the memories in their form (`memWf_of_exec`): each function of the model
keeps `Within`, and only the writes of a memory have to be looked into. -/
theorem memoriesKeepTheirForm : Obligations.MemoriesKeepTheirForm := by
  unfold Obligations.MemoriesKeepTheirForm
  intro s t w h
  cases e : s.pending with
  | nil =>
    rw [step, e] at h
    cases h
    exact w
  | cons c l =>
    rw [step, e] at h
    exact memWf_of_exec h w
end

section
/-! PARTOPs (R530-R533): when one acts, and what it answers when it is refused. -/

namespace Sys2Proof.Machine

/-! ### A list of writes -/

section
variable {σ β : Type} {read : σ → Nat → β} {f : σ → Nat → σ} {key : Nat → Nat} {new : Nat → β → β}
  (writes : ∀ s i j, read (f s i) j = if j = key i then new i (read s j) else read s j)
include writes

/-- A place that no write of a list names reads as before. -/
theorem forEach_read_off {j : Nat} (l : List Nat) (s : σ) (off : ∀ i ∈ l, j ≠ key i) : read (forEach l s f) j = read s j := by
  induction l generalizing s with
  | nil => rfl
  | cons i r ih =>
    have first : read (f s i) j = read s j := (writes s i j).trans (if_neg (off i (.head r)))
    exact (ih (f s i) fun x hx => off x (.tail i hx)).trans first

/-- Each place that a list of writes names is written once. -/
theorem forEach_read_at (inj : ∀ i j, key i = key j → i = j) {i : Nat} (l : List Nat) (s : σ) (once : l.Nodup) (here : i ∈ l) :
    read (forEach l s f) (key i) = new i (read s (key i)) := by
  induction l generalizing s with
  | nil => nomatch here
  | cons x r ih =>
    obtain ⟨fresh, once⟩ := List.nodup_cons.mp once
    by_cases e : i = x
    · subst e
      refine (forEach_read_off writes r (f s i) fun y hy same => fresh ((inj i y same).symm ▸ hy)).trans ?_
      exact (writes s i _).trans (if_pos rfl)
    · have first : read (f s x) (key i) = read s (key i) := (writes s x _).trans (if_neg fun same => e (inj _ _ same))
      exact (ih (f s x) once ((List.mem_cons.mp here).resolve_left e)).trans (congrArg (new i) first)

end

/-- What each step of a list keeps holds after the list. -/
theorem forEach_induction {σ α : Type} {P : σ → Prop} {f : σ → α → σ} {s : σ} (l : List α) (start : P s)
    (step : ∀ t a, P t → P (f t a)) :
    P (forEach l s f) :=
  List.foldlRecOn (motive := P) l f start fun t ht a _ => step t a ht

/-- Writes of registers change registers only. -/
theorem forEach_regs {f : State → Nat → State} (only : ∀ s i, f s i = { s with regs := (f s i).regs }) (l : List Nat) (s : State) :
    forEach l s f = { s with regs := (forEach l s f).regs } :=
  forEach_induction (P := fun t : State => t = { s with regs := t.regs }) l rfl fun t i ht => by rw [only t i, ht]

/-! ### When a PARTOP acts -/

/-- The state after a PARTOP of ring r has acted. -/
def CmdDo.after (r : Fin 1024) (c : Cmd) : CmdDo → State
  | .done t st x => t.complete (.ring r) c false st x
  | .hold t => t
  | .run t => t.markStarted (.ring r) c

section
variable {s : State} {r : Fin 1024} {c : Cmd} {k : Nat} {clean : Bool} {refusals : List Refuse} {act : State → CmdDo}

/-- A PARTOP that nothing refuses does what its op does (R530, R531). -/
theorem partop_acts (ready : PartopReady r c k clean s) (known : k ≤ 13) (accepted : refusals = []) :
    s.partop (.ring r) c k clean refusals act = .next ((act s).after r c) := by
  obtain ⟨code, op, may, idle, pf, ok⟩ := ready
  have few : ¬ 13 < k := by omega
  cases does : act s <;>
    simp [State.partop, when, code, op, may, idle, pf, ok, accepted, refuseIf, worstOf, few, does, CmdDo.after]

theorem partop_completes {i : Instr} {u : State} (runs : exec i s = s.partop (.ring r) c k clean refusals act)
    (ready : PartopReady r c k clean s) (known : k ≤ 13) (accepted : refusals = []) (does : act s = .done u cmOk 0) :
    ∃ t, exec i s = .next t ∧ Completes (.ring r) c false 0 0 u t := by
  rw [runs, partop_acts ready known accepted, does]
  exact ⟨_, rfl, completes u _ _ _ _ _⟩

theorem partop_starts {i : Instr} {u : State} (runs : exec i s = s.partop (.ring r) c k clean refusals act)
    (ready : PartopReady r c k clean s) (known : k ≤ 13) (accepted : refusals = []) (does : act s = .run u) :
    ∃ t, exec i s = .next t ∧ Starts (.ring r) c u t := by
  rw [runs, partop_acts ready known accepted, does]
  exact ⟨_, rfl, starts u _ _⟩

/-! ### Reasons to refuse -/

theorem absent_eq_nil {p : Nat} (h : s.partExists p = true) : s.absent [p] = [] := by
  simp [State.absent, refuseUnit, h]

theorem absent_eq_cons {p : Nat} (h : s.partExists p = false) (hp : p ≠ 16) : s.absent [p] = [⟨cmNotPermitted, 3, p, 8⟩] := by
  simp [State.absent, refuseUnit, refuseIf, h, hp]

theorem refuseUnit_eq_nil {l : List Nat} {f : Nat → Bool} {reason kind : Nat} (h : ∀ x ∈ l, f x = false) :
    refuseUnit l f reason kind = [] := by
  have none : l.find? f = none := List.find?_eq_none.mpr fun x hx => by simp [h x hx]
  simp [refuseUnit, none]

end

/-! ### Weights -/

/-- A weight other than 0 changes the engine's weights only (R488, R543). -/
theorem State.setWeight_weights (s : State) (e p : Nat) {w : Nat} (hw : w ≠ 0) :
    s.setWeight e p w = { s with cellar := { s.cellar with weights := mset 0 s.cellar.weights (16 * e + p) w } } :=
  if_neg hw

/-- Engines given a weight (R543). -/
theorem forEach_setWeight (s : State) (p : Nat) {w : Nat} (hw : w ≠ 0) (l : List Nat) :
    forEach l s (fun s e => s.setWeight e p w) =
      { s with cellar := { s.cellar with weights := (forEach l s (fun s e => s.setWeight e p w)).cellar.weights } } :=
  forEach_induction (P := fun t : State => t = { s with cellar := { s.cellar with weights := t.cellar.weights } }) l rfl fun t e ht => by
    rw [State.setWeight_weights t e p hw, ht]

/-- Saved contexts of cells dropped one by one (R532). -/
theorem forEach_dropSaved (s : State) (q : Nat) (l : List Nat) :
    forEach l s (fun s d => s.dropSaved d q) =
      { s with parts := { s.parts with saved := s.parts.saved.filter (fun x => !(l.contains x.cell && x.part == q)) } } := by
  induction l generalizing s with
  | nil => simp [forEach]
  | cons d r ih =>
    show forEach r (s.dropSaved d q) _ = _
    rw [ih]
    simp only [State.dropSaved, List.filter_filter]
    congr 2
    refine List.filter_congr fun x _ => ?_
    simp only [List.contains_cons]
    cases x.cell == d <;> cases r.contains x.cell <;> cases x.part == q <;> rfl

end Sys2Proof.Machine
end


section
namespace Sys2Proof.Machine

/-! ### Fields of a PARTOP -/

section
variable {c : Cmd} {p q move fl entry : Bool} {m n : Nat}

theorem poArg_lt (h : poClean c p q move fl entry m n = true) : poArg c < 2 ^ m := by
  simp only [poClean, Bool.and_eq_true, decide_eq_true_eq] at h
  obtain ⟨⟨⟨⟨-, arg⟩, -⟩, -⟩, -⟩ := h
  exact arg

theorem poArg2_lt (h : poClean c p q move fl entry m n = true) : poArg2 c < 2 ^ n := by
  simp only [poClean, Bool.and_eq_true, decide_eq_true_eq] at h
  obtain ⟨⟨⟨-, arg2⟩, -⟩, -⟩ := h
  exact arg2

theorem poP_lt (h : poClean c true q false fl entry m n = true) : poP c < 16 := by
  simp only [poClean, Bool.and_eq_true] at h
  obtain ⟨⟨⟨⟨⟨⟨⟨-, part⟩, -⟩, -⟩, -⟩, -⟩, -⟩, -⟩ := h
  simpa [partNo] using part

end

/-! ### The settings -/

section
variable {r : Fin 1024} {c : Cmd} {s : State}

/-- PORTS: bit p of the binding of each port named (R396, R543). -/
theorem ports_sets (here : s.partExists (poP c) = true)
    (ready : PartopReady r c 5 (poClean c true false false false false 18 1) s) :
    ∃ t u, exec (.ports (.ring r) c) s = .next t ∧ Completes (.ring r) c false 0 0 u t ∧
      OnlyRegs ((upTo 18).map (fun n => portKey n + 0x10)) s u ∧
      ∀ n, n < 18 → u.reg (portKey n + 0x10) =
        if bit (poArg c) n then setFld (s.reg (portKey n + 0x10)) (poP c) 1 (poArg2 c) else s.reg (portKey n + 0x10) := by
  obtain ⟨t, run, done⟩ := partop_completes (i := .ports (.ring r) c) (execPorts.eq_1 (.ring r) c s) ready (by decide)
      (absent_eq_nil here) rfl
  have on : b2n (poArg2 c == 1) = poArg2 c := by
    have : poArg2 c < 2 := poArg2_lt ready.2.2.2.2.2
    obtain e | e : poArg2 c = 0 ∨ poArg2 c = 1 := by omega
    · rw [e]; rfl
    · rw [e]; rfl
  have inj (i j : Nat) (same : portKey i + 0x10 = portKey j + 0x10) : i = j := by
    simp only [portKey] at same; omega
  have writes (s : State) (i j : Nat) : (s.bindPort i (poP c) (poArg2 c == 1)).reg j =
      if j = portKey i + 0x10 then setFld (s.reg j) (poP c) 1 (poArg2 c) else s.reg j := by
    rw [State.bindPort, State.putF_reg, on]
    split <;> simp_all
  refine ⟨t, _, run, done, ⟨forEach_regs (fun _ _ => rfl) _ s, fun j off => ?_⟩, fun n hn => ?_⟩
  · refine forEach_read_off (new := fun _ v => setFld v (poP c) 1 (poArg2 c)) writes _ s fun i hi same => off ?_
    exact List.mem_map.mpr ⟨i, List.mem_of_mem_filter hi, same.symm⟩
  · split
    · next set =>
      exact forEach_read_at (key := fun n => portKey n + 0x10) (new := fun _ v => setFld v (poP c) 1 (poArg2 c)) writes inj _ s
        (List.nodup_range.filter _) (List.mem_filter.mpr ⟨List.mem_range.mpr hn, set⟩)
    · next unset =>
      refine forEach_read_off (new := fun _ v => setFld v (poP c) 1 (poArg2 c)) writes _ s fun i hi same => unset ?_
      exact inj n i same ▸ (List.mem_filter.mp hi).2

/-- WAYMASK: the partition's mask at each die's store rooms (R278). -/
theorem waymask_sets (here : s.partExists (poP c) = true)
    (ready : PartopReady r c 9 (poClean c true false false false false 16 0) s) :
    ∃ t u, exec (.waymask (.ring r) c) s = .next t ∧ Completes (.ring r) c false 0 0 u t ∧
      OnlyRegs ((upTo 4).map (fun d => srmBase d + 0x100 + 8 * poP c)) s u ∧
      ∀ d, d < 4 → u.getF ⟨srmBase d + 0x100 + 8 * poP c, 0, 16⟩ = poArg c := by
  obtain ⟨t, run, done⟩ := partop_completes (i := .waymask (.ring r) c) (execWaymask.eq_1 (.ring r) c s) ready (by decide)
      (absent_eq_nil here) rfl
  have small : poArg c < 2 ^ 16 := poArg_lt ready.2.2.2.2.2
  have inj (i j : Nat) (same : srmBase i + 0x100 + 8 * poP c = srmBase j + 0x100 + 8 * poP c) : i = j := by
    simp only [srmBase, dieBase] at same; omega
  have writes (s : State) (i j : Nat) : (s.putF ⟨srmBase i + 0x100 + 8 * poP c, 0, 16⟩ (poArg c)).reg j =
      if j = srmBase i + 0x100 + 8 * poP c then setFld (s.reg j) 0 16 (poArg c) else s.reg j := by
    rw [State.putF_reg]
    split <;> simp_all
  refine ⟨t, _, run, done, ⟨forEach_regs (fun _ _ => rfl) _ s, fun j off => ?_⟩, fun d hd => ?_⟩
  · refine forEach_read_off (new := fun _ v => setFld v 0 16 (poArg c)) writes _ s fun i hi same => off ?_
    exact List.mem_map.mpr ⟨i, hi, same.symm⟩
  · have set := forEach_read_at (key := fun d => srmBase d + 0x100 + 8 * poP c) (new := fun _ v => setFld v 0 16 (poArg c)) writes inj
      (upTo 4) s List.nodup_range (List.mem_range.mpr hd)
    rw [State.getF, set, fld_setFld_same _ _ _ _ (by decide), Nat.mod_eq_of_lt small]

/-- SHARE of engines: the partition's weight at each engine named (R543). -/
theorem share_engines (here : s.partExists (poP c) = true)
    (room : ∀ e, e < 12 → bit (poArg c) e = true → s.otherWeights e (poP c) + poArg2 c ≤ 64)
    (some_ : poArg2 c ≠ 0) (engines : bit (poArg c) 12 = false)
    (ready : PartopReady r c 8 (poClean c true false false false false 13 7 && decide (poArg2 c ≤ 64) &&
      !(bit (poArg c) 12 && decide (poArg c % 4096 ≠ 0))) s) :
    ∃ t u, exec (.share (.ring r) c) s = .next t ∧ Completes (.ring r) c false 0 0 u t ∧
      u = { s with cellar := { s.cellar with weights := u.cellar.weights } } ∧
      ∀ e, e < 12 → mget 0 u.cellar.weights (16 * e + poP c) =
        if bit (poArg c) e then poArg2 c else mget 0 s.cellar.weights (16 * e + poP c) := by
  have fits : refuseUnit ((upTo 12).filter (fun e => bit (poArg c) e)) (fun e =>
      decide (s.otherWeights e (poP c) + poArg2 c > 64)) 8 6 = [] := by
    refine refuseUnit_eq_nil fun e he => decide_eq_false ?_
    obtain ⟨lt, named⟩ := List.mem_filter.mp he
    have := room e (List.mem_range.mp lt) named
    omega
  obtain ⟨t, run, done⟩ := partop_completes (i := .share (.ring r) c) (execShare.eq_1 (.ring r) c s) ready (by decide)
    (by rw [absent_eq_nil here, if_neg (by simp [engines]), fits]; rfl) rfl
  rw [engines, if_neg (by decide)] at done
  have inj (i j : Nat) (same : 16 * i + poP c = 16 * j + poP c) : i = j := by omega
  have writes (s : State) (i j : Nat) : mget 0 (s.setWeight i (poP c) (poArg2 c)).cellar.weights j =
      if j = 16 * i + poP c then poArg2 c else mget 0 s.cellar.weights j := by
    rw [State.setWeight_weights s _ _ some_, mget_mset]
  refine ⟨t, _, run, done, forEach_setWeight s (poP c) some_ _, fun e he => ?_⟩
  split
  · next set =>
    exact forEach_read_at (read := fun s j => mget 0 s.cellar.weights j) (key := fun e => 16 * e + poP c) (new := fun _ _ => poArg2 c) writes
      inj _ s (List.nodup_range.filter _) (List.mem_filter.mpr ⟨List.mem_range.mpr he, set⟩)
  · next unset =>
    refine forEach_read_off (read := fun s j => mget 0 s.cellar.weights j) (new := fun _ _ => poArg2 c) writes _ s fun i hi same => unset ?_
    exact inj e i same ▸ (List.mem_filter.mp hi).2

/-- DISCARD with no kernel open: the saved contexts of the cells and the partition go (R532). -/
theorem discard_drops (here : s.partExists (poQ c) = true) (idle : s.host.kernels = [])
    (ready : PartopReady r c 13 (poClean c false true false false false 19 0 && cellRangeOk c) s) :
    ∃ t u, exec (.discard (.ring r) c) s = .next t ∧ Completes (.ring r) c false 0 0 u t ∧
      u = { s with parts := { s.parts with saved := s.parts.saved.filter (fun x => !((moveCells c).contains x.cell && x.part == poQ c)) } } := by
  obtain ⟨t, run, done⟩ := partop_completes (i := .discard (.ring r) c) (execDiscard.eq_1 (.ring r) c s) ready (by decide)
      (absent_eq_nil here) rfl
  rw [idle] at done
  exact ⟨t, _, run, done, forEach_dropSaved s (poQ c) (moveCells c)⟩

/-! ### Refusals (R533, R562) -/

/-- ASSIST is a PARTOP that gives the partition its cells for assistance. -/
theorem exec_assist (src : CmdSrc) (c : Cmd) (s : State) : exec (.assist src c) s = s.partop src c 11
    (poClean c true false false false false 9 0) (s.absent [poP c]) (fun s => .done (s.setAssist (poP c) (poArg c)) cmOk 0) := rfl

/-- A PARTOP of a VF is refused with no reason given. -/
theorem assist_refuses_vf (code : cmdOp c = 0x60) (op : poOp c = 11) (idle : s.partopBusy = false) (may : s.cmdReady (.ring r) c = true)
    (vf : s.ringPart r.val ≠ 0) (clean : poClean c true false false false false 9 0 = true) :
    exec (.assist (.ring r) c) s = .next (s.complete (.ring r) c false cmNotPermitted 0) := by
  have part : poP c ≠ 16 := Nat.ne_of_lt (poP_lt clean)
  rw [exec_assist]
  cases here : s.partExists (poP c)
  · rw [absent_eq_cons here part]
    simp [State.partop, when, code, op, may, idle, clean, refuseIf, worstOf, vf, cmNotPermitted, cmBadField]
  · rw [absent_eq_nil here]
    simp [State.partop, when, code, op, may, idle, clean, refuseIf, worstOf, vf]

/-- A PARTOP of a partition that does not exist is refused with the reason 3 and the partition (R533). -/
theorem assist_refuses_absent (code : cmdOp c = 0x60) (op : poOp c = 11) (idle : s.partopBusy = false)
    (may : s.cmdReady (.ring r) c = true) (pf : s.ringPart r.val = 0) (clean : poClean c true false false false false 9 0 = true)
    (gone : s.partExists (poP c) = false) :
    exec (.assist (.ring r) c) s = .next (s.complete (.ring r) c false cmNotPermitted (Refuse.result ⟨cmNotPermitted, 3, poP c, 8⟩)) := by
  have part : poP c ≠ 16 := Nat.ne_of_lt (poP_lt clean)
  rw [exec_assist]
  rw [absent_eq_cons gone part]
  simp [State.partop, when, code, op, may, idle, clean, refuseIf, worstOf, pf, cmNotPermitted, cmBadField]

/-- A PARTOP of a cadence is refused as an opcode that it has not (R562). -/
theorem assist_refuses_cadence {p : Fin 16} {i : Fin 4} (code : cmdOp c = 0x60) (op : poOp c = 11) (idle : s.partopBusy = false)
    (may : s.cmdReady (.cadence p i) c = true) :
    exec (.assist (.cadence p i) c) s = .next (s.complete (.cadence p i) c false cmBadOpcode 0) := by
  rw [exec_assist]
  simp [State.partop, when, code, op, may, idle]

end

end Sys2Proof.Machine

open Sys2Proof Sys2Proof.Machine

/-- Settles O44: a PARTOP that nothing refuses acts (`partop_completes`, `partop_starts`), the lists of writes of PORTS, WAYMASK and SHARE
write each place once (`forEach_read_at`), and the three refusals of ASSIST are read off. -/
theorem partitionSettingsComplete : Obligations.PartitionSettingsComplete := by
  unfold Obligations.PartitionSettingsComplete
  intro r c s p q a hp hq ha
  subst hp hq ha
  refine ⟨fun here => ⟨ports_sets here, fun ready free => ?setCtx,
    fun ready => ⟨fun svc room => ?service, fun engines room weight => ?engines⟩,
    waymask_sets here, fun ready => ?assist, fun ready => ?physwin⟩, fun here => ⟨fun ready free idle => ?clearCtx,
    fun ready idle => discard_drops here idle ready⟩, fun b hb ready free => ?scope, fun code op idle => ⟨fun may vf clean => ?vf,
    fun may pf clean gone => ?absent, fun pp i may => ?cadence⟩⟩
  case setCtx =>
    obtain ⟨t, run, done⟩ := partop_completes (i := .setCtx (.ring r) c) (execSetCtx.eq_1 (.ring r) c s) ready (by decide)
      (by rw [absent_eq_nil here, free]; rfl) rfl
    exact ⟨t, _, run, done, rfl⟩
  case service =>
    have fits : ¬ s.otherSvc (poP c) + poArg2 c > 64 := by omega
    obtain ⟨t, run, done⟩ := partop_completes (i := .share (.ring r) c) (execShare.eq_1 (.ring r) c s) ready (by decide)
      (by rw [absent_eq_nil here, if_pos svc, decide_eq_false fits]; rfl) rfl
    rw [if_pos svc] at done
    exact ⟨t, run, done⟩
  case engines => exact share_engines here room weight engines ready
  case assist =>
    obtain ⟨t, run, done⟩ := partop_completes (i := .assist (.ring r) c) (execAssist.eq_1 (.ring r) c s) ready (by decide)
      (absent_eq_nil here) rfl
    have small : poArg c < 2 ^ 9 := poArg_lt ready.2.2.2.2.2
    refine ⟨t, _, run, done, ⟨rfl, fun k off => ?_⟩, ?_⟩
    · exact (State.putF_reg s _ _ k).trans (if_neg fun same => off (List.mem_singleton.mpr same))
    · rw [State.setAssist, State.putF_getF_same _ _ _ (by simp)]
      exact Nat.mod_eq_of_lt small
  case physwin =>
    exact partop_completes (i := .physwin (.ring r) c) (execPhyswin.eq_1 (.ring r) c s) ready (by decide)
      (absent_eq_nil here) rfl
  case clearCtx =>
    have quiet : ((s.ctxEntry (poArg c)).isSome && s.ctxBusy (poArg c)) = false := by
      rcases idle with none | idle
      · rw [none]; rfl
      · rw [idle, Bool.and_false]
    exact partop_starts (i := .clearCtx (.ring r) c) (execClearCtx.eq_1 (.ring r) c s) ready (by decide)
      (by rw [absent_eq_nil here, free, quiet]; rfl) rfl
  case scope =>
    subst hb
    exact partop_completes (i := .scope (.ring r) c) (execScope.eq_1 (.ring r) c s) ready (by decide) (by rw [free]; rfl) rfl
  case vf => exact ⟨_, assist_refuses_vf code op idle may vf clean, completes s _ _ _ _ _⟩
  case absent => exact ⟨_, assist_refuses_absent code op idle may pf clean gone, completes s _ _ _ _ _⟩
  case cadence => exact ⟨_, assist_refuses_cadence code op idle may, completes s _ _ _ _ _⟩
end

section
/-! The HBM controllers, atomics and work counters (R219, R222, R245, R268, R281, R285): what each gives, case by case. -/

namespace Sys2Proof.Machine

/-! ### Bytes of a line -/

theorem mergeFrom_length (old new : List Byte) (en : BitVec 128) (i : Nat) : (mergeFrom old new en i).length = old.length := by
  induction old generalizing new i with
  | nil => cases new <;> rfl
  | cons o os ih =>
    cases new with
    | nil => rfl
    | cons n ns => simp [mergeFrom, ih]

/-- A merged byte is the new one where it is enabled, else the old one. -/
theorem mergeFrom_getD (old new : List Byte) (en : BitVec 128) (i j : Nat) (enough : old.length ≤ new.length) :
    (mergeFrom old new en i).getD j 0 = if en.getLsbD (i + j) ∧ j < old.length then new.getD j 0 else old.getD j 0 := by
  induction old generalizing new i j with
  | nil => cases new <;> simp [mergeFrom]
  | cons o os ih =>
    cases new with
    | nil => simp at enough
    | cons n ns =>
      cases j with
      | zero => simp [mergeFrom]
      | succ j =>
        have shift : i + 1 + j = i + (j + 1) := by omega
        simpa [mergeFrom, shift] using ih ns (i + 1) j (by simpa using enough)

/-- A byte of a run as the memory holds it. -/
theorem readBytes_getD (m : SMap Byte) (a n i : Nat) : (readBytes m a n).getD i 0 = if i < n then mget 0 m (a + i) else 0 := by
  induction n generalizing a i with
  | zero => simp [readBytes]
  | succ n ih =>
    cases i with
    | zero => simp [readBytes]
    | succ i =>
      have shift : a + 1 + i = a + (i + 1) := by omega
      simpa [readBytes, shift] using ih (a + 1) i

section
variable {s : State}

/-! ### Controllers -/

theorem ctlRead_eq (line : Nat) : s.ctlRead line =
    (if s.isFresh line then zeroLine else readBytes s.hbm.cells (128 * (s.lineHome line).2) 128,
      !s.isFresh line && mget false s.hbm.poison (s.lineHome line).2) := by
  cases fresh : s.isFresh line <;> simp [State.ctlRead, fresh]

theorem exec_hbmRequest {st : Fin 12} {u : State} (serves : s.ctlServe st.val = u) : exec (.hbmRequest st) s = .next u := by
  show execHbmRequest st s = _
  rw [execHbmRequest, serves]

/-- A read hands what the controller returns to the store room (R268). -/
theorem ctlServe_of_read {st : Nat} {r : MemReq} {rest : List MemReq} (oldest : s.memQ st = r :: rest) (read : r.write = false) :
    s.ctlServe st = { s with hbm := { s.hbm with
      memQ := mset [] s.hbm.memQ st rest
      fills := mset [] s.hbm.fills st (mget [] s.hbm.fills st ++ [⟨r, (s.ctlRead r.line).1, (s.ctlRead r.line).2⟩]) } } := by
  rw [State.ctlServe, oldest]
  simp only [read]
  rfl

/-- A write puts its enabled bytes into a line that is not fresh (R281). -/
theorem ctlWrite_of_not_fresh {line : Nat} (data : List Byte) (en : BitVec 128) (poison : Bool) (fresh : s.isFresh line = false) :
    s.ctlWrite line data en poison = { s with hbm := { s.hbm with
      cells := writeBytes s.hbm.cells (128 * (s.lineHome line).2)
        (mergeFrom (readBytes s.hbm.cells (128 * (s.lineHome line).2) 128) data en 0)
      poison := mset false s.hbm.poison (s.lineHome line).2
        (if en = fullEn then poison else poison || mget false s.hbm.poison (s.lineHome line).2) } } := by
  unfold State.ctlWrite
  rw [if_neg (Bool.eq_false_iff.mp fresh)]

theorem ctlServe_of_write {st : Nat} {r : MemReq} {rest : List MemReq} (oldest : s.memQ st = r :: rest) (write : r.write = true) :
    s.ctlServe st = { s with hbm := { s.hbm with memQ := mset [] s.hbm.memQ st rest } }.ctlWrite r.line r.data r.enables r.poison := by
  rw [State.ctlServe, oldest]
  exact if_pos write

/-- A byte of the line that a masked write reaches. -/
theorem mget_writeMerged (m : SMap Byte) (base i : Nat) (new : List Byte) (en : BitVec 128) (full : new.length = 128) (inside : i < 128) :
    mget 0 (writeBytes m base (mergeFrom (readBytes m base 128) new en 0)) (base + i) =
      if en.getLsbD i then new.getD i 0 else mget 0 m (base + i) := by
  have old : (readBytes m base 128).length = 128 := readBytes_length m base 128
  have sameByte : base + i - base = i := by omega
  rw [mget_writeBytes, mergeFrom_length, old, if_pos ⟨by omega, by omega⟩,
    sameByte, mergeFrom_getD _ _ _ _ _ (by omega), readBytes_getD, old]
  simp [inside]

/-! ### Atomics -/

/-- An aligned atomic at a line of memory answers what it gives (R245). -/
theorem exec_amo {core : RvCore} {part : Fin 16} {op : AmoOp} {wide : Bool} {pa w n : Nat} {x : Word} (ok : s.lineOk (pa / 128) = true)
    (hw : w = if wide then 64 else 32) (hn : n = w / 8) (aligned : pa % n = 0) {a : AmoRes}
    (gives : s.amoAt (rvKey core) part.val op w pa x.toNat = a) :
    exec (.storeRoomAmo core part op wide pa x) s = .next (a.st.emit (.memData part.val (pa / 128) (toLE 8 a.old) a.poison)) ∧
      OnlyMemory s (a.st.emit (.memData part.val (pa / 128) (toLE 8 a.old) a.poison)) := by
  subst hw hn gives
  have bytes : (if wide then 64 else 32) / 8 = if wide then 8 else 4 := by cases wide <;> rfl
  rw [bytes] at aligned
  refine ⟨?_, ((memStep_amoAt s _ _ _ _ _ _).trans (memStep_emit _ _)).1⟩
  show execStoreRoomAmo core part op wide pa x s = _
  simp [execStoreRoomAmo, when, ok, aligned]

section
variable {core part w pa x n : Nat} {op : AmoOp} {r : LineRes} (hn : n = w / 8) (reads : r = s.physRead part pa n)
include hn reads

/-- An AMO stores what its operation makes of the old value, which it answers. -/
theorem amoAt_of_clean (lr : op ≠ .lr) (sc : op ≠ .sc) (clean : r.poison = false) : s.amoAt core part op w pa x =
    ⟨r.st.physWrite part core pa (toLE n (amoVal op w (ofLE r.data) (x % 2 ^ w))), ofLE r.data, false⟩ := by
  subst hn reads
  simp [State.amoAt, lr, sc, clean]

theorem amoAt_of_poison (sc : op ≠ .sc) (bad : r.poison = true) : s.amoAt core part op w pa x = ⟨r.st, 0, true⟩ := by
  subst hn reads
  simp [State.amoAt, sc, bad]

/-- An LR answers the value and reserves the line. -/
theorem amoAt_lr (clean : r.poison = false) : s.amoAt core part .lr w pa x =
    ⟨r.st.setRv core { r.st.rv core with resv := some (pa / 128), resvScratch := false }, ofLE r.data, false⟩ := by
  subst hn reads
  simp [State.amoAt, clean, State.updRv]

/-- An SC whose reservation stands stores and answers 0. -/
theorem amoAt_sc_of_reserved (clean : r.poison = false) (mine : (r.st.rv core).resv = some (pa / 128))
    (memory : (r.st.rv core).resvScratch = false) : s.amoAt core part .sc w pa x =
    ⟨(r.st.setRv core { r.st.rv core with resv := none }).physWrite part core pa (toLE n (x % 2 ^ w)), 0, false⟩ := by
  subst hn reads
  simp [State.amoAt, clean, mine, memory]

/-- An SC without the reservation answers 1. -/
theorem amoAt_sc_of_lost (clean : r.poison = false) (lost : (r.st.rv core).resv ≠ some (pa / 128)) : s.amoAt core part .sc w pa x =
    ⟨r.st.setRv core { r.st.rv core with resv := none }, 1, false⟩ := by
  subst hn reads
  simp [State.amoAt, clean, lost]

end

/-! ### Work counters -/

/-- What follows a read of memory and is answered reaches memory only. -/
theorem onlyMemory_answer {part pa n : Nat} {r : LineRes} {t : State} {o : Output} (reads : r = s.physRead part pa n)
    (later : MemStep r.st t) :
    OnlyMemory s (t.emit o) := by
  subst reads
  exact (((memStep_physRead s part pa n).trans later).trans (memStep_emit t o)).1

/-- What a work-counter operation answers where it is no duplicate. -/
theorem ticket_bytes (ticket : Nat) : toLE 8 ticket ++ toLE 1 (b2n false) = toLE 8 ticket ++ [0] := rfl

theorem exec_claim {who : Option CoreName} {part : Fin 16} {pa ticket : Nat} {n : Word} {t : State} {poison : Bool}
    (ok : s.lineOk (pa / 128) = true) (aligned : pa % 32 = 0) (gives : s.wcClaim part.val pa n.toNat who = ⟨t, ticket, false, poison⟩) :
    exec (.workCounterClaim who part pa n) s = .next (t.emit (.memData part.val (pa / 128) (toLE 8 ticket ++ [0]) poison)) := by
  show execWorkCounterClaim who part pa n s = _
  simp only [execWorkCounterClaim, when, ok, aligned, gives, ticket_bytes]
  rfl

theorem exec_present {who : Option CoreName} {part : Fin 16} {pa ticket : Nat} {n : Word} {t : State} {poison : Bool}
    (ok : s.lineOk (pa / 128) = true) (aligned : pa % 32 = 0) (gives : s.wcPresent part.val pa n.toNat who = ⟨t, ticket, false, poison⟩) :
    exec (.workCounterPresent who part pa n) s = .next (t.emit (.memData part.val (pa / 128) (toLE 8 ticket ++ [0]) poison)) := by
  show execWorkCounterPresent who part pa n s = _
  simp only [execWorkCounterPresent, when, ok, aligned, gives, ticket_bytes]
  rfl

section
variable {part pa n : Nat} {who : Option CoreName} {r : LineRes} (reads : r = s.physRead part pa 32)
include reads

/-- A CLAIM without a ledger answers the next ticket and moves the counter on (R219). -/
theorem wcClaim_of_off (clean : r.poison = false) (off : who = none ∨ ledgerOn (ofLE r.data) = false) : s.wcClaim part pa n who =
    ⟨r.st.physWrite part noCore pa (toLE 8 ((recB (ofLE r.data) 0 8 + n) % 2 ^ 64)), recB (ofLE r.data) 0 8, false, false⟩ := by
  subst reads
  cases who with
  | none => simp [State.wcClaim, clean]
  | some w =>
    have off : ledgerOn (ofLE (s.physRead part pa 32).data) = false := off.resolve_left (by simp)
    simp [State.wcClaim, clean, off, forEach]

theorem wcClaim_of_poison (bad : r.poison = true) : s.wcClaim part pa n who = ⟨r.st, recB (ofLE r.data) 0 8, false, true⟩ := by
  subst reads
  simp [State.wcClaim, bad]

/-- A PRESENT without a ledger only answers its ticket (R222). -/
theorem wcPresent_of_off (clean : r.poison = false) (off : who = none ∨ ledgerOn (ofLE r.data) = false) :
    s.wcPresent part pa n who = ⟨r.st, n, false, false⟩ := by
  subst reads
  cases who with
  | none => simp [State.wcPresent, clean]
  | some w =>
    have off : ledgerOn (ofLE (s.physRead part pa 32).data) = false := off.resolve_left (by simp)
    simp [State.wcPresent, clean, off]

theorem wcPresent_of_poison (bad : r.poison = true) : s.wcPresent part pa n who = ⟨r.st, n, false, true⟩ := by
  subst reads
  simp [State.wcPresent, bad]

end

end

end Sys2Proof.Machine

open Sys2Proof Sys2Proof.Machine

/-- Settles O16: what the controller, the atomics and the work counters give in each case (`ctlServe_of_read`, `ctlServe_of_write`,
`amoAt_of_clean` and the lemmas beside them), with the frame of a memory access (`MemStep`). -/
theorem controllersAndAtomicsComplete : Obligations.ControllersAndAtomicsComplete := by
  unfold Obligations.ControllersAndAtomicsComplete
  refine ⟨fun st s r rest a oldest home => ⟨fun read => ?read, fun write full fresh => ?write⟩, fun s part pa ok =>
    ⟨fun core op wide x w n r hw hn reads aligned lr sc => ⟨fun clean => ?amo, fun bad => ?amoPoison⟩,
    fun core wide x w n r hw hn reads aligned clean => ⟨?lr, fun mine memory => ?sc, fun lost => ?scLost⟩,
    fun who r n aligned reads clean off => ⟨?claim, ?present⟩, fun who r n aligned reads bad => ⟨?claimPoison, ?presentPoison⟩⟩⟩
  case read =>
    refine ⟨_, exec_hbmRequest (ctlServe_of_read oldest read), rfl, mget_mset_same _ _ _ _, fun k off => ⟨?_, ?_⟩, ?_⟩
    · exact mget_mset_ne _ _ _ _ _ off
    · exact mget_mset_ne _ _ _ _ _ off
    · rw [ctlRead_eq, home]
      exact mget_mset_same _ _ _ _
  case write =>
    subst home
    have writes := (ctlServe_of_write oldest write).trans (ctlWrite_of_not_fresh r.data r.enables r.poison fresh)
    refine ⟨_, exec_hbmRequest writes, rfl, mget_mset_same _ _ _ _, fun k off => ?_, fun i inside => ?_,
      fun b outside => ?_, mget_mset_same _ _ _ _, fun k off => ?_⟩
    · exact mget_mset_ne _ _ _ _ _ off
    · exact mget_writeMerged _ _ _ _ _ full inside
    · exact mget_writeBytes_out _ _ _ _ (by rwa [mergeFrom_length, readBytes_length])
    · exact mget_mset_ne _ _ _ _ _ off
  case amo =>
    obtain ⟨run, only⟩ := exec_amo ok hw hn aligned (amoAt_of_clean (core := rvKey core) (x := x.toNat) hn reads lr sc clean)
    exact ⟨_, run, only, rfl⟩
  case amoPoison =>
    obtain ⟨run, only⟩ := exec_amo ok hw hn aligned (amoAt_of_poison (core := rvKey core) (x := x.toNat) hn reads sc bad)
    exact ⟨_, run, only, rfl⟩
  case lr =>
    obtain ⟨run, only⟩ := exec_amo ok hw hn aligned (amoAt_lr (core := rvKey core) (x := x.toNat) hn reads clean)
    exact ⟨_, run, only, rfl⟩
  case sc =>
    obtain ⟨run, only⟩ := exec_amo ok hw hn aligned (amoAt_sc_of_reserved (x := x.toNat) hn reads clean mine memory)
    exact ⟨_, run, only, rfl⟩
  case scLost =>
    obtain ⟨run, only⟩ := exec_amo ok hw hn aligned (amoAt_sc_of_lost (x := x.toNat) hn reads clean lost)
    exact ⟨_, run, only, rfl⟩
  case claim =>
    exact ⟨_, exec_claim ok aligned (wcClaim_of_off reads clean off), onlyMemory_answer reads (memStep_physWrite _ _ _ _ _), rfl⟩
  case present => exact ⟨_, exec_present ok aligned (wcPresent_of_off reads clean off), onlyMemory_answer reads (MemStep.refl _), rfl⟩
  case claimPoison =>
    exact ⟨_, exec_claim ok aligned (wcClaim_of_poison reads bad), onlyMemory_answer reads (MemStep.refl _), rfl⟩
  case presentPoison =>
    exact ⟨_, exec_present ok aligned (wcPresent_of_poison reads bad), onlyMemory_answer reads (MemStep.refl _), rfl⟩
end

section
/-! The store rooms (R268, R274, R275, R278, R281): what a touch, a replacement, an installation and a fill change. -/

namespace Sys2Proof.Machine

section
variable {s : State}

/-! ### Held lines -/

/-- The line that a room finds is the line that was asked for. -/
theorem RoomState.line_of_find {r : RoomState} {line : Nat} {l : RoomLine} (found : r.find line = some l) : l.line = line :=
  eq_of_beq (List.find?_some (p := fun x : RoomLine => x.line == line) found)

/-- A line put at the end of lines that do not hold it is the one found. -/
theorem RoomState.find_append {keep lines : List RoomLine} {p : SMap (BitVec 15)} {l : RoomLine} {line : Nat} (own : l.line = line)
    (fewer : keep.Sublist lines) (absent : lines.find? (fun x => x.line == line) = none) :
    RoomState.find ⟨keep ++ [l], p⟩ line = some l := by
  have gone : keep.find? (fun x => x.line == line) = none :=
    List.find?_eq_none.mpr fun x hx => List.find?_eq_none.mp absent x (fewer.subset hx)
  simp [RoomState.find, List.find?_append, gone, own]

/-! ### Touching and replacing -/

/-- A touch is for the replacement only: every room holds what it held. -/
theorem touch_lines (line way c : Nat) : ((s.touch line way).room c).lines = (s.room c).lines := by
  rw [State.touch, State.setRoom_room]
  split
  · next same => rw [same]
  · rfl

theorem touch_room_ne {line way c : Nat} (off : c ≠ s.homeOf line) : (s.touch line way).room c = s.room c :=
  State.setRoom_room_ne _ _ _ _ off

theorem touch_find (line way c x : Nat) : ((s.touch line way).room c).find x = (s.room c).find x :=
  congrArg (fun l => List.find? (fun y : RoomLine => y.line == x) l) (touch_lines line way c)

/-- A held line's new data stands where the line stood. -/
theorem putLine_lines (l : RoomLine) : ((s.putLine l).room (s.homeOf l.line)).lines =
    mapWhere (s.room (s.homeOf l.line)).lines (fun x => x.line == l.line) (fun _ => l) := by
  rw [State.putLine, State.setRoom_room_same]

theorem putLine_room_ne {l : RoomLine} {c : Nat} (off : c ≠ s.homeOf l.line) : (s.putLine l).room c = s.room c :=
  State.setRoom_room_ne _ _ _ _ off

/-! ### Reservations -/

/-- A core after a write to a line by another agent. -/
def RvState.broken (line : Nat) (c : RvState) : RvState :=
  { c with resv := if c.resv = some line ∧ c.resvScratch = false then none else c.resv }

/-- A map whose values are changed key by key reads changed, where the change leaves the default. -/
theorem mget_map_value {α : Type} {d : α} {g : Nat → α → α} (m : SMap α) (k : Nat) (default : g k d = d) :
    mget d (m.map fun e => (e.1, g e.1 e.2)) k = g k (mget d m k) := by
  induction m with
  | nil => exact default.symm
  | cons e r ih =>
    obtain ⟨j, c⟩ := e
    by_cases here : j = k
    · simp [mget, mgetF, mfind, here]
    · simpa [mget, mgetF, mfind, here] using ih

theorem RvState.broken_of_other {line : Nat} {c : RvState} (other : ¬ (c.resv = some line ∧ c.resvScratch = false)) :
    c.broken line = c := by
  rw [RvState.broken, if_neg other]

/-- A write by no core ends every reservation of the line (R245). -/
theorem breakResv_rv {line k : Nat} (core : k ≠ noCore) : (s.breakResv line noCore).rv k = (s.rv k).broken line := by
  have each : (s.breakResv line noCore).rvs =
      s.rvs.map fun e => (e.1, if e.1 = noCore then e.2 else e.2.broken line) := by
    refine List.map_congr_left fun e _ => ?_
    by_cases noOne : e.1 = noCore
    · rw [if_neg (fun h => h.1 noOne), if_pos noOne]
    · by_cases mine : e.2.resv = some line ∧ e.2.resvScratch = false
      · simp [noOne, mine, RvState.broken]
      · rw [if_neg (fun h => mine h.2), if_neg noOne, RvState.broken_of_other mine]
  rw [State.rv, each]
  refine (mget_map_value (g := fun j c => if j = noCore then c else c.broken line) s.rvs k ?_).trans (if_neg core)
  exact (if_neg core).trans (RvState.broken_of_other (by simp))

/-! ### Controllers' queues -/

theorem toCtl_memQ_same {r : MemReq} {st : Nat} (home : st = (s.lineHome r.line).1.stack) : (s.toCtl r).memQ st = s.memQ st ++ [r] := by
  subst home
  exact mget_mset_same _ _ _ _

theorem toCtl_memQ_ne {r : MemReq} {k : Nat} (off : k ≠ (s.lineHome r.line).1.stack) : (s.toCtl r).memQ k = s.memQ k :=
  mget_mset_ne _ _ _ _ _ off

/-! ### Installation -/

/-- A line installed: the set's other lines stay, the victim's dirty data goes to its controller, the way is touched (R274). -/
theorem install_eq {part : Nat} {l : RoomLine} (allowed : s.wayMask (s.homeOf l.line / 120) part ≠ 0) :
    ∃ w keep m, keep.Sublist (s.room (s.homeOf l.line)).lines ∧ s.install part l =
      ({ s.setRoom (s.homeOf l.line) { s.room (s.homeOf l.line) with lines := keep ++ [{ l with way := w }] } with
        hbm := { s.hbm with memQ := m } }).touch l.line w := by
  unfold State.install
  simp only [if_neg allowed]
  split
  · split
    · exact ⟨_, _, _, List.filter_sublist, rfl⟩
    · exact ⟨_, _, _, List.filter_sublist, rfl⟩
  · exact ⟨_, _, _, List.filter_sublist, rfl⟩

/-- A line installed is held, in some way, with its data; other rooms and all else are as they were. -/
theorem install_holds {part : Nat} {l : RoomLine} (allowed : s.wayMask (s.homeOf l.line / 120) part ≠ 0)
    (absent : (s.room (s.homeOf l.line)).find l.line = none) :
    ∃ w, ((s.install part l).room (s.homeOf l.line)).find l.line = some { l with way := w } ∧
      (∀ c, c ≠ s.homeOf l.line → (s.install part l).room c = s.room c) ∧
      s.install part l = { s with
        rooms := (s.install part l).rooms, hbm := { s.hbm with memQ := (s.install part l).hbm.memQ } } := by
  obtain ⟨w, keep, m, fewer, eq⟩ := install_eq allowed
  rw [eq]
  refine ⟨w, ?_, fun c off => ?_, rfl⟩
  · rw [touch_find]
    refine Eq.trans (congrArg (fun r => RoomState.find r l.line) (State.setRoom_room_same _ _ _)) ?_
    exact RoomState.find_append rfl fewer absent
  · refine (touch_room_ne ?_).trans (State.setRoom_room_ne s _ c _ off)
    exact off

/-! ### A request that arrives -/

theorem exec_storeRoomAccess {q : RoomReq} (ok : s.lineOk q.line = true) : exec (.storeRoomAccess q) s = .next (s.roomArrive q) := by
  show execStoreRoomAccess q s = _
  simp [execStoreRoomAccess, when, ok]

section
variable {q : RoomReq} {l : RoomLine}

/-- A read that hits is answered. -/
theorem roomArrive_read_hit (read : q.kind ≠ .write) (held : (s.room (s.homeOf q.line)).find q.line = some l) :
    s.roomArrive q = (s.touch q.line l.way).emit (.memData q.part.val q.line l.data l.poison) := by
  simp [State.roomArrive, read, held, State.answerMem]

/-- A write that hits is merged. -/
theorem roomArrive_write_hit (write : q.kind = .write) (held : (s.room (s.homeOf q.line)).find q.line = some l) :
    s.roomArrive q = ((s.breakResv q.line noCore).putLine (mergeLine l q.data q.enables)).touch q.line l.way := by
  have held : ((s.breakResv q.line noCore).room (s.homeOf q.line)).find q.line = some l := held
  simp [State.roomArrive, write, held]

/-- A read that misses asks the controller for its line. -/
theorem roomArrive_read_miss (read : q.kind ≠ .write) (absent : (s.room (s.homeOf q.line)).find q.line = none) :
    s.roomArrive q = s.toCtl ⟨q.line, s.homeOf q.line, false, 0, [], false, some q, true⟩ := by
  simp [State.roomArrive, read, absent]

section
variable (write : q.kind = .write) (absent : (s.room (s.homeOf q.line)).find q.line = none) (first : s.linePending q.line = false)
include write absent first

/-- A write that misses with no way allowed goes to the controller (R278). -/
theorem roomArrive_write_through (noWay : s.wayMask (s.homeOf q.line / 120) q.part.val = 0) :
    s.roomArrive q = (s.breakResv q.line noCore).toCtl ⟨q.line, s.homeOf q.line, true, q.enables, q.data, false, none, false⟩ := by
  have absent : ((s.breakResv q.line noCore).room (s.homeOf q.line)).find q.line = none := absent
  have first : (s.breakResv q.line noCore).linePending q.line = false := first
  simp [State.roomArrive, write, absent, first, noWay]

/-- A write of a whole line that misses is installed. -/
theorem roomArrive_write_whole (allowed : s.wayMask (s.homeOf q.line / 120) q.part.val ≠ 0) (whole : q.enables = fullEn) :
    s.roomArrive q = (s.breakResv q.line noCore).install q.part.val ⟨q.line, 0, q.data, true, false⟩ := by
  have absent : ((s.breakResv q.line noCore).room (s.homeOf q.line)).find q.line = none := absent
  have first : (s.breakResv q.line noCore).linePending q.line = false := first
  simp [State.roomArrive, write, absent, first, allowed, whole]

end

end

/-! ### Data that comes back -/

/-- The state once a controller's oldest returned line is taken. -/
def State.popFill (s : State) (st : Nat) (rest : List FillData) : State :=
  { s with hbm := { s.hbm with fills := mset [] s.hbm.fills st rest } }

theorem exec_storeRoomFill {st : Fin 12} {u : State} (fills : s.fillOne st.val = u) : exec (.storeRoomFill st) s = .next u := by
  show execStoreRoomFill st s = _
  rw [execStoreRoomFill, fills]

/-- The data that comes back for a read is installed, and answers it with what its line then holds (R274). -/
theorem fillOne_of_read {st : Nat} {f : FillData} {rest : List FillData} {q : RoomReq} {l : RoomLine}
    (oldest : mget [] s.hbm.fills st = f :: rest) (wanted : f.req.want = some q) (line : q.line = f.req.line) (read : q.kind ≠ .write)
    (absent : (s.room (s.homeOf q.line)).find q.line = none) {u : State}
    (installs : (s.popFill st rest).install q.part.val ⟨q.line, 0, f.data, false, f.poison⟩ = u)
    (found : (u.room (u.homeOf q.line)).find q.line = some l) :
    s.fillOne st = u.emit (.memData q.part.val q.line l.data l.poison) := by
  have absent : ((s.popFill st rest).room ((s.popFill st rest).homeOf q.line)).find q.line = none := absent
  have performs : (s.popFill st rest).performFill f = u := by
    simp [State.performFill, ← line, absent, wanted, read, installs]
  unfold State.popFill at performs
  simp [State.fillOne, oldest, wanted, performs, found, State.answerMem, read]

end

end Sys2Proof.Machine

open Sys2Proof Sys2Proof.Machine

/-- Settles O15: a request that arrives, case by case (`roomArrive_read_hit` and the lemmas beside it), with what an installed line leaves
as it was (`install_holds`) and the answer to the request that waited (`fillOne_of_read`). -/
theorem storeRoomsServeAndFill : Obligations.StoreRoomsServeAndFill := by
  unfold Obligations.StoreRoomsServeAndFill
  refine ⟨fun q s l h ok home held => ?hit, fun q s h st ok home stack absent => ?miss,
    fun st s f rest q oldest wanted line read allowed absent => ?fill⟩
  case hit =>
    subst home
    have run := exec_storeRoomAccess ok
    refine ⟨fun read => ?_, fun write => ?_⟩
    · refine ⟨_, run.trans (congrArg _ (roomArrive_read_hit read held)), rfl, fun c => ?_⟩
      exact touch_lines _ _ _
    · have own : q.line = l.line := (RoomState.line_of_find held).symm
      refine ⟨_, run.trans (congrArg _ (roomArrive_write_hit write held)), rfl, fun c off => ?_, ?_, fun k core => ?_⟩
      · refine (touch_room_ne ?_).trans (putLine_room_ne (s := s.breakResv q.line noCore) ?_)
        · exact off
        · exact own ▸ off
      · rw [touch_lines, own]
        exact putLine_lines _
      · exact breakResv_rv core
  case miss =>
    subst home stack
    have run := exec_storeRoomAccess ok
    refine ⟨fun read => ?_, fun write first noWay => ?_, fun write first allowed whole => ?_⟩
    · exact ⟨_, run.trans (congrArg _ (roomArrive_read_miss read absent)), rfl, toCtl_memQ_same rfl,
        fun k off => toCtl_memQ_ne off⟩
    · exact ⟨_, run.trans (congrArg _ (roomArrive_write_through write absent first noWay)), rfl, toCtl_memQ_same rfl,
        fun k off => toCtl_memQ_ne off⟩
    · obtain ⟨w, found, others, frame⟩ := install_holds (s := s.breakResv q.line noCore)
        (l := ⟨q.line, 0, q.data, true, false⟩) allowed absent
      refine ⟨_, w, run.trans (congrArg _ (roomArrive_write_whole write absent first allowed whole)), ?_, found, others⟩
      rw [frame]
      rfl
  case fill =>
    obtain ⟨w, found, others, frame⟩ := install_holds (s := s.popFill st.val rest)
      (l := ⟨q.line, 0, f.data, false, f.poison⟩) allowed absent
    have home : ((s.popFill st.val rest).install q.part.val ⟨q.line, 0, f.data, false, f.poison⟩).homeOf q.line = s.homeOf q.line := by
      rw [frame]; rfl
    have serves := fillOne_of_read oldest wanted line read absent rfl (by rw [home]; exact found)
    refine ⟨_, w, exec_storeRoomFill serves, ?_, ?_, fun k off => ?_, found, others⟩
    · rw [frame]; rfl
    · rw [frame]
      exact mget_mset_same _ _ _ _
    · rw [frame]
      exact mget_mset_ne _ _ _ _ _ off
end

section
/-! Translations and fault records: what a translation leaves, and how a record is found, replaced, told of and closed
(R296-R303, R311-R317). -/

namespace Sys2Proof.Machine

variable {s t u : State}

/-! ### Translations -/

/-- Of the translation unit, at most the cached translations differ. -/
def TlbStep (s t : State) : Prop := t.mmu = { s.mmu with tlb := t.mmu.tlb }

namespace TlbStep

theorem refl : TlbStep s s := rfl

theorem trans (h : TlbStep s t) (g : TlbStep t u) : TlbStep s u := by
  unfold TlbStep at *
  rw [g, h]

theorem recs (h : TlbStep s t) : t.mmu.recs = s.mmu.recs := by rw [h]

theorem nextId (h : TlbStep s t) : t.mmu.nextId = s.mmu.nextId := by rw [h]

theorem openRec (h : TlbStep s t) (ctx page : Nat) : t.openRec ctx page = s.openRec ctx page := by
  rw [State.openRec, h.recs, State.openRec]

theorem put (e : TlbEntry) : TlbStep s (s.tlbPut e) := rfl

theorem ite {c : Prop} [Decidable c] (ht : TlbStep s t) (hu : TlbStep s u) : TlbStep s (if c then t else u) := by
  split
  · exact ht
  · exact hu

/-- A choice between translations, by the states after them. -/
theorem ite_st {c : Prop} [Decidable c] {x y : XlRes} (hx : TlbStep s x.st) (hy : TlbStep s y.st) :
    TlbStep s (if c then x else y).st := by
  split
  · exact hx
  · exact hy

end TlbStep

theorem MemStep.mmu (h : MemStep s t) : t.mmu = s.mmu := by rw [h.1]

theorem MemStep.tlbStep (h : MemStep s t) : TlbStep s t := by
  unfold TlbStep
  rw [h.mmu]

/-- A translation opens no record: it walks in memory and fills cached translations. -/
theorem tlbStep_translate (unit : UnitId) (ctx part va : Nat) (acc : Access) : TlbStep s (s.translate unit ctx part va acc).st := by
  have walks (e : CtxEntry) : TlbStep s (s.walk e va e.root.toNat 0 3).1 := (memStep_walk e va 3 s e.root.toNat 0).tlbStep
  unfold State.translate
  refine .ite_st .refl ?_
  split
  case h_1 => exact .refl
  case h_2 e _ =>
    refine .ite_st .refl ?_
    dsimp only
    split
    case h_1 => exact .refl
    case h_2 =>
      split
      case h_1 => exact .put _
      case h_2 =>
        split
        case h_1 => exact walks e
        case h_2 =>
          refine .ite_st (walks e) (.ite_st (walks e) ?_)
          have marks (c : Prop) [Decidable c] (a : Nat) (bs : List Byte) : TlbStep s
              (if c then (s.walk e va e.root.toNat 0 3).1 else (s.walk e va e.root.toNat 0 3).1.physWrite part noCore a bs) :=
            .ite (walks e) ((walks e).trans (memStep_physWrite ..).tlbStep)
          dsimp only
          split
          · exact ((marks ..).trans (.put _)).trans (.put _)
          · exact (marks ..).trans (.put _)

/-- Addresses from 2^48 on fail with ADDRESS. -/
theorem translate_of_far {unit : UnitId} {ctx part va : Nat} {acc : Access} (far : 2 ^ 48 ≤ va) :
    s.translate unit ctx part va acc = ⟨s, .fail clsAddress 0 0 false⟩ :=
  if_pos far

/-- A context that is not valid, or of another partition, fails with CONTEXT (R296). -/
theorem translate_of_not_ctxOk {unit : UnitId} {ctx part va : Nat} {acc : Access} (near : va < 2 ^ 48) (bad : s.ctxOk ctx part = false) :
    s.translate unit ctx part va acc = ⟨s, .fail clsContext 0 0 false⟩ := by
  refine (if_neg near.not_ge).trans ?_
  unfold State.ctxOk at bad
  split
  case h_1 => rfl
  case h_2 e entry =>
    rw [entry] at bad
    exact if_pos (ne_of_beq_false bad)

/-! ### Lists of records -/

theorem mapWhere_id {α : Type} (l : List α) (p : α → Bool) : mapWhere l p (fun x => x) = l := by
  simp [mapWhere]

/-- Of two replacements of the same entries the later one stands. -/
theorem mapWhere_const_const {α : Type} (l : List α) (p : α → Bool) {x : α} (y : α) (hit : p x = true) :
    mapWhere (mapWhere l p fun _ => x) p (fun _ => y) = mapWhere l p fun _ => y := by
  rw [mapWhere, mapWhere, List.map_map]
  refine List.map_congr_left fun a _ => ?_
  by_cases ha : p a <;> simp [ha, hit]

/-! ### Opening a record (R311, R312) -/

/-- A page without an open record gets one. -/
theorem openFault_of_none {unit : UnitId} {ctx part va cls lvl pte : Nat} {acc : Access} {hst : Bool}
    (first : s.openRec ctx (va / 4096) = none) :
    (s.openFault unit ctx part va acc (.fail cls lvl pte hst) none).1 = { s with mmu := { s.mmu with
      recs := s.mmu.recs ++ [⟨s.mmu.nextId, va, unit, ctx, part, cls, acc, hst, lvl, BitVec.ofNat 64 pte, [], none, false, false⟩]
      nextId := s.mmu.nextId + 1 } } := by
  simp only [State.openFault, first, addWaiter]

/-- A page with an open record keeps it. -/
theorem openFault_of_some {unit : UnitId} {ctx part va : Nat} {acc : Access} {x : Xl} {f : FaultRec}
    (opened : s.openRec ctx (va / 4096) = some f) :
    (s.openFault unit ctx part va acc x none).1 = s := by
  simp only [State.openFault, opened, addWaiter, mapWhere_id]

section
variable {unit : UnitId} {ctx : Fin 64} {part : Fin 16} {va : Nat} {acc : Access} {r : XlRes}
  (hr : r = s.translate unit ctx.val part.val va acc)
include hr

theorem exec_pageWalk_of_dev {pa : Nat} (x : r.x = .dev pa) : exec (.pageWalk unit ctx part va acc) s = .next r.st := by
  show execPageWalk unit ctx part va acc s = _
  simp only [execPageWalk, ← hr, x]

theorem exec_pageWalk_of_fail {cls lvl pte : Nat} {hst : Bool} (x : r.x = .fail cls lvl pte hst) :
    exec (.pageWalk unit ctx part va acc) s = .next (r.st.openFault unit ctx.val part.val va acc (.fail cls lvl pte hst) none).1 := by
  show execPageWalk unit ctx part va acc s = _
  simp only [execPageWalk, ← hr, x]

end

/-! ### Events of a partition (R521, R522) -/

variable (s)

theorem postEvent_shape (p ty : Nat) (payload : List Byte) : s.postEvent p ty payload =
    { s with host := { s.host with events := (s.postEvent p ty payload).host.events } } := by
  unfold State.postEvent
  split
  · rfl
  · dsimp only
    split
    · rfl
    · rfl

theorem postEvent_evts_ne {p j : Nat} (ty : Nat) (payload : List Byte) (other : j ≠ p) :
    (s.postEvent p ty payload).evts j = s.evts j := by
  unfold State.postEvent
  split
  · rfl
  · dsimp only
    split
    · exact State.setEvts_evts_ne s p j _ other
    · exact State.setEvts_evts_ne s p j _ other

/-- A buffer with room takes an event at its end. -/
theorem postEvent_buffer {p : Nat} (ty : Nat) (payload : List Byte) (part : p < 16) (room : (s.evts p).buffer.length < 1024) :
    ((s.postEvent p ty payload).evts p).buffer = (s.evts p).buffer ++ [eventBytes ty (s.evts p).seq.toNat s.mtime payload] := by
  simp [State.postEvent, part.not_ge, room.not_ge]

/-- A request is taken whether the partition's requests are popped or written: one more waits, and its number is used. -/
theorem postRequest_effect {p : Nat} (ty : Nat) (payload : List Byte) (part : p < 16) {t : State}
    (ht : t = (s.postRequest p ty payload).1) :
    t = { s with host := { s.host with events := t.host.events } } ∧
    ((t.evts p).buffer ++ (t.evts p).popReqs).length = ((s.evts p).buffer ++ (s.evts p).popReqs).length + 1 ∧
    (t.evts p).seq = nextSeq (s.evts p).seq ∧ ∀ j, j ≠ p → t.evts j = s.evts j := by
  have post : ∃ e : PartEvents, t = s.setEvts p e ∧ e.seq = nextSeq (s.evts p).seq ∧
      (e.buffer ++ e.popReqs).length = ((s.evts p).buffer ++ (s.evts p).popReqs).length + 1 := by
    rw [ht, State.postRequest, if_neg part.not_ge]
    dsimp only
    split
    · exact ⟨_, rfl, rfl, by simp; omega⟩
    · exact ⟨_, rfl, rfl, by simp; omega⟩
  obtain ⟨e, rfl, seq, more⟩ := post
  rw [State.setEvts_evts_same]
  exact ⟨rfl, more, seq, fun j other => State.setEvts_evts_ne s p j e other⟩

/-! ### Closing a record (R314, R317, R331) -/

theorem recordClosed_releaseRec (f : FaultRec) (retry : Bool) (cls : Nat) : RecordClosed f retry cls s (s.releaseRec f retry cls) := (rfl)

theorem recordClosed_retryRec (f : FaultRec) : RecordClosed f true 0 (s.addF ⟨mmuBase + 0x20, 0, 32⟩ 1) (s.retryRec f) := (rfl)

/-- Word i of a record's bytes. -/
def recordWord (bs : List Byte) (i : Nat) : Word := BitVec.ofNat 64 (ofLE ((bs.drop (8 * i)).take 8))

/-- MMU_FLTLAST shows the 32 bytes of a record. -/
def State.showRecord (s : State) (bs : List Byte) : State :=
  forEach (upTo 4) s (fun s i => s.setReg (mmuBase + 0x28 + 8 * i) (recordWord bs i))

theorem showRecord_shape (bs : List Byte) : s.showRecord bs = { s with regs := (s.showRecord bs).regs } :=
  forEach_regs (fun _ _ => rfl) _ s

section
variable (bs : List Byte)

/-- One write of MMU_FLTLAST. -/
theorem showRecord_writes (t : State) (i k : Nat) : (t.setReg (mmuBase + 0x28 + 8 * i) (recordWord bs i)).reg k =
    if k = mmuBase + 0x28 + 8 * i then recordWord bs i else t.reg k :=
  State.setReg_reg ..

theorem showRecord_reg_ne {k : Nat} (off : ∀ i < 4, k ≠ mmuBase + 0x28 + 8 * i) : (s.showRecord bs).reg k = s.reg k :=
  forEach_read_off (new := fun i _ => recordWord bs i) (showRecord_writes bs) (upTo 4) s fun i hi => off i (List.mem_range.mp hi)

theorem showRecord_reg {i : Nat} (word : i < 4) : (s.showRecord bs).reg (mmuBase + 0x28 + 8 * i) = recordWord bs i :=
  forEach_read_at (new := fun i _ => recordWord bs i) (showRecord_writes bs) (fun i j h => by omega) (upTo 4) s List.nodup_range
    (List.mem_range.mpr word)

end

/-- The state in which an abort is counted, shown and told with a record's bytes, and the record has not yet left. -/
def State.tellAbort (s : State) (p : Nat) (bs : List Byte) : State :=
  ((s.addF ⟨mmuBase + 0x20, 32, 16⟩ 1).showRecord bs).postEvent p 2 bs

theorem recordClosed_abortRec (f : FaultRec) (cls : Nat) :
    RecordClosed { f with cls := cls } false cls (s.tellAbort f.part { f with cls := cls }.bytes) (s.abortRec f cls true) := (rfl)

section
variable (p : Nat) (bs : List Byte)

theorem showRecord_addF_shape (g : RF) : (s.addF g 1).showRecord bs = { s with regs := ((s.addF g 1).showRecord bs).regs } :=
  showRecord_shape (s.addF g 1) bs

theorem tellAbort_shape : s.tellAbort p bs =
    { s with regs := (s.tellAbort p bs).regs, host := { s.host with events := (s.tellAbort p bs).host.events } } := by
  have shown := showRecord_addF_shape s bs ⟨mmuBase + 0x20, 32, 16⟩
  unfold State.tellAbort
  generalize (s.addF ⟨mmuBase + 0x20, 32, 16⟩ 1).showRecord bs = u at shown
  rw [postEvent_shape, shown]

theorem tellAbort_reg (k : Nat) : (s.tellAbort p bs).reg k = ((s.addF ⟨mmuBase + 0x20, 32, 16⟩ 1).showRecord bs).reg k := by
  rw [State.tellAbort, postEvent_shape]
  rfl

theorem tellAbort_reg_ne {k : Nat} (count : k ≠ mmuBase + 0x20) (off : ∀ i < 4, k ≠ mmuBase + 0x28 + 8 * i) :
    (s.tellAbort p bs).reg k = s.reg k := by
  rw [tellAbort_reg, showRecord_reg_ne _ _ off]
  exact State.setReg_reg_ne s _ _ _ count

theorem tellAbort_count : (s.tellAbort p bs).getF ⟨mmuBase + 0x20, 32, 16⟩ = satAdd (s.getF ⟨mmuBase + 0x20, 32, 16⟩) 1 16 := by
  have apart : ∀ i < 4, mmuBase + 0x20 ≠ mmuBase + 0x28 + 8 * i := by omega
  rw [State.getF, tellAbort_reg, showRecord_reg_ne _ _ apart]
  refine (State.putF_getF_same s ⟨mmuBase + 0x20, 32, 16⟩ _ (by decide)).trans (Nat.mod_eq_of_lt ?_)
  exact (Nat.min_le_right _ _).trans_lt (by decide)

theorem tellAbort_evts_ne {j : Nat} (other : j ≠ p) : (s.tellAbort p bs).evts j = s.evts j := by
  rw [State.tellAbort, postEvent_evts_ne _ _ _ other, showRecord_addF_shape]
  rfl

theorem tellAbort_buffer (part : p < 16) (room : (s.evts p).buffer.length < 1024) :
    ((s.tellAbort p bs).evts p).buffer = (s.evts p).buffer ++ [eventBytes 2 (s.evts p).seq.toNat s.mtime bs] := by
  have shown := showRecord_addF_shape s bs ⟨mmuBase + 0x20, 32, 16⟩
  unfold State.tellAbort
  generalize (s.addF ⟨mmuBase + 0x20, 32, 16⟩ 1).showRecord bs = u at shown
  have events : u.evts p = s.evts p := by rw [shown]; rfl
  have time : u.mtime = s.mtime := by rw [shown]
  rw [postEvent_buffer _ 2 bs part (by rwa [events]), events, time]

end

/-- An abort is told of before its record leaves. -/
theorem abortTold_tellAbort (f : FaultRec) (cls : Nat) : AbortTold f cls s (s.tellAbort f.part { f with cls := cls }.bytes) := by
  generalize hbs : { f with cls := cls }.bytes = bs
  unfold AbortTold
  rw [hbs]
  refine ⟨tellAbort_shape s _ bs, fun k off => ?_, tellAbort_count s _ bs, fun i word => ?_,
    fun p other => tellAbort_evts_ne s _ bs other, tellAbort_buffer s _ bs⟩
  · simp only [List.mem_cons, List.not_mem_nil, or_false, not_or] at off
    exact tellAbort_reg_ne s _ bs off.1 (by omega)
  · exact (tellAbort_reg ..).trans (showRecord_reg _ bs word)

end Sys2Proof.Machine
end

section
/-! Fault service (R313-R317): what each way of serving a record does to it. -/

namespace Sys2Proof.Machine

variable {s : State} {id : Word32} {f : FaultRec}

/-! ### Host pages (R307, R308) -/

/-- The host page that a record's address lies in. -/
def FaultRec.hostPage (f : FaultRec) : Nat := leafPpn f.pte.toNat + f.va / 4096 % leafPages f.pte.toNat f.level

/-- A Page Request leaves for a record that has sent none, while an index is free. -/
theorem sendPrg_sends {e : CtxEntry} (first : f.pri = false) (room : s.mmu.prgs.length < 512) (entry : s.ctxEntry f.ctx = some e) :
    s.sendPrg f = { s with
      out := s.out ++ [.pageRequest e.pasid f.hostPage (f.acc == .read || f.acc == .atomic) (accWrites f.acc) (f.acc == .fetch)]
      mmu := { s.mmu with
        recs := mapWhere s.mmu.recs (fun r => r.id == f.id) (fun _ => { f with pri := true })
        prgs := s.mmu.prgs ++ [f.id] } } := by
  simp only [State.sendPrg, first, room.not_ge, entry]
  rfl

/-! ### A record reaches its queue (R313, R314, R316) -/

/-- What the service of a record begins with, by its class and its partition's mode. -/
def State.beginService (s : State) (f : FaultRec) : State :=
  if f.cls = clsHostDenied then
    (if s.mmu.priFailed then s.abortRec f clsHostDenied true
    else (s.putRec { f with queue := some (unitQueue f.unit) }).sendPrg { f with queue := some (unitQueue f.unit) })
  else if f.cls ≥ 4 then s.abortRec f f.cls true
  else if s.faultAssist f.part then ((s.putRec { f with posted := true }).postRequest f.part 1 f.bytes).1
  else if s.growFault f then s.putRec { f with queue := some (unitQueue f.unit) }
  else s.abortRec f f.cls true

theorem exec_faultRecordQueued (found : s.recOf id = some f) (failed : f.cls ≠ 0) (unqueued : f.queue = none)
    (unposted : f.posted = false) (room : s.queueUse (unitQueue f.unit) < queueCap (unitQueue f.unit)) :
    exec (.faultRecordQueued id) s = .next (s.beginService f) := by
  show execFaultRecordQueued id s = _
  simp only [execFaultRecordQueued, found]
  refine congrArg _ (if_neg ?_)
  simp [failed, unqueued, unposted, room]

section
variable (s f)

/-- While Page Requests are sent, a host-page denial sends one. -/
theorem beginService_of_hostDenied (cls : f.cls = clsHostDenied) (enabled : s.mmu.priFailed = false) : s.beginService f =
    (s.putRec { f with queue := some (unitQueue f.unit) }).sendPrg { f with queue := some (unitQueue f.unit) } := by
  simp [State.beginService, cls, enabled]

/-- Classes that no retry mends are aborted. -/
theorem beginService_of_abort (cls : 4 ≤ f.cls) (other : f.cls ≠ clsHostDenied) : s.beginService f = s.abortRec f f.cls true := by
  simp [State.beginService, cls, other]

variable (cls : f.cls < 4)
include cls

theorem cls_ne_hostDenied : f.cls ≠ clsHostDenied := by
  unfold clsHostDenied
  omega

/-- Where the host assists, it is told. -/
theorem beginService_of_assist (assist : s.faultAssist f.part = true) :
    s.beginService f = ((s.putRec { f with posted := true }).postRequest f.part 1 f.bytes).1 := by
  simp [State.beginService, cls_ne_hostDenied f cls, cls.not_ge, assist]

/-- A fault of the grow range waits for firmware. -/
theorem beginService_of_grow (alone : s.faultAssist f.part = false) (grow : s.growFault f = true) :
    s.beginService f = s.putRec { f with queue := some (unitQueue f.unit) } := by
  simp [State.beginService, cls_ne_hostDenied f cls, cls.not_ge, alone, grow]

/-- Hardware aborts every other fault. -/
theorem beginService_of_hardware (alone : s.faultAssist f.part = false) (grow : s.growFault f = false) :
    s.beginService f = s.abortRec f f.cls true := by
  simp [State.beginService, cls_ne_hostDenied f cls, cls.not_ge, alone, grow]

end

theorem exec_faultTimeout {e : CtxEntry} (found : s.recOf id = some f) (entry : s.ctxEntry f.ctx = some e) (timed : e.timeout ≠ 0)
    (failed : f.cls ≠ 0) :
    exec (.faultTimeout id) s = .next (s.abortRec f clsTimeout true) := by
  show execFaultTimeout id s = _
  simp only [execFaultTimeout, found, entry]
  exact congrArg _ (if_pos ⟨timed, failed⟩)

/-! ### The pool (R315) -/

theorem exec_growFaultService {e : CtxEntry} (found : s.recOf id = some f) (queued : f.queue.isSome = true) (grow : s.growFault f = true)
    (entry : s.ctxEntry f.ctx = some e) :
    exec (.growFaultService id) s = .next (s.growTake f e (65535 + 1)) := by
  show execGrowFaultService id s = _
  simp only [execGrowFaultService, found, queued, grow, entry]
  rfl

/-- The state in which a pool is marked empty and its event is raised. -/
def State.tellEmpty (s : State) (f : FaultRec) : State :=
  (State.postEvent { s with mmu := { s.mmu with poolEmpty := mset false s.mmu.poolEmpty f.ctx true } } f.part 3 (toLE 1 f.ctx)).raiseM 17

/-- A 64 KiB page is fresh. -/
def State.freshPage (s : State) (pa : Nat) : State :=
  { s with hbm := { s.hbm with
      written := s.hbm.written.filter (fun y => !(decide (pa / 65536 * 16 ≤ y.1) && decide (y.1 < pa / 65536 * 16 + 16))) } }

/-- The sixteen PTEs of the group that maps a 64 KiB page. -/
def State.mapGroup (s : State) (f : FaultRec) (e : CtxEntry) (pa : Nat) : State :=
  forEach (upTo 16) s (fun t i => t.physWrite e.part noCore (s.pteAddr e (f.va / 65536 * 65536) e.root.toNat 3 + 8 * i)
    (toLE 8 (2 ^ 63 + (pa / 4096 + 8) * 2 ^ 10 + 7)))

section
variable {e : CtxEntry} {d : LineRes} {r : Nat} (k : Nat) (hd : d = s.physRead e.part e.poolPa 64) (hr : r = ofLE d.data)
include hd hr

/-- An unusable pool, or one that reads poisoned, aborts the record. -/
theorem growTake_of_bad (bad : d.poison = true ∨ d.st.poolBad e r = true) :
    s.growTake f e (k + 1) = d.st.abortRec f clsNotPresent true := by
  subst hd hr
  exact if_pos (by simpa using bad)

variable (clean : d.poison = false) (usable : d.st.poolBad e r = false)
include clean usable

/-- An empty pool raises its event where it has not yet done so. -/
theorem growTake_of_empty (empty : recB r 0 8 = recB r 8 8) :
    s.growTake f e (k + 1) = if mget false d.st.mmu.poolEmpty f.ctx then d.st else d.st.tellEmpty f := by
  subst hd hr
  exact (if_neg (by simp [clean, usable])).trans (if_pos empty)

/-- A pool that names a page of the partition gives it: head moves on, the page is made fresh and mapped, and the record is retried. -/
theorem growTake_of_page {en : LineRes} {pa : Nat} {w : State} (stocked : recB r 0 8 ≠ recB r 8 8)
    (hen : en = State.physRead { d.st with mmu := { d.st.mmu with poolEmpty := mset false d.st.mmu.poolEmpty f.ctx false } } e.part
      (e.poolPa + 0x40 + 8 * (recB r 0 8 % recB r 0x10 4)) 8)
    (pure : en.poison = false) (hpa : pa = bits (ofLE en.data) 16 32 * 65536)
    (hw : w = en.st.physWrite e.part noCore e.poolPa (toLE 8 (recB r 0 8 + 1))) (own : w.granulesOk e.part pa 65536 = true) :
    s.growTake f e (k + 1) = ((w.freshPage pa).mapGroup f e pa).retryRec f := by
  subst hd hr hen hpa hw
  refine (if_neg (by simp [clean, usable])).trans ((if_neg stocked).trans (if_neg ?_))
  simp only [pure, own]
  decide

end

/-- The pool's event: raised, marked, and nothing else changed but the partition's events. -/
theorem tellEmpty_effect {t : State} (ht : t = s.tellEmpty f) :
    mget false t.mmu.poolEmpty f.ctx = true ∧ t.getB ⟨irqJBase + 0x2000, 17, 1⟩ = true ∧
    t = { s with regs := t.regs, irq := { s.irq with routed := t.irq.routed }
                 mmu := { s.mmu with poolEmpty := t.mmu.poolEmpty }, host := { s.host with events := t.host.events } } := by
  subst ht
  have shape : s.tellEmpty f = _ := raiseAt_shape _ (mstatHome 17)
  rw [postEvent_shape] at shape
  refine ⟨?_, raiseM_set _ 17 (by decide), ?_⟩
  · rw [shape]
    exact mget_mset_same false s.mmu.poolEmpty f.ctx true
  · rw [shape]

end Sys2Proof.Machine

open Sys2Proof Sys2Proof.Machine

/-- Settles O18: a walk changes cached translations at most (`tlbStep_translate`) and opens what its failure asks for; a record in its place
is served by its class and mode (`State.beginService`); firmware's turn is one round of `growTake`, by what the pool reads; and every abort
is told of before its record leaves (`abortTold_tellAbort`). -/
theorem walksAndFaultServiceComplete : Obligations.WalksAndFaultServiceComplete := by
  unfold Obligations.WalksAndFaultServiceComplete
  refine ⟨fun unit ctx part va acc s r hr => ?walk, fun id s f found => ⟨fun failed unqueued unposted room => ?queued,
    fun e entry timed failed => ?timeout⟩, fun id s f e d r found queued grow entry hd hr => ?pool⟩
  case walk =>
    have kept : TlbStep s r.st := hr ▸ tlbStep_translate unit ctx part va acc
    refine ⟨fun pa x => ⟨_, exec_pageWalk_of_dev hr x, rfl, kept.recs⟩,
      fun cls lvl pte hst x => ⟨fun first => ?_, fun f opened => ?_⟩, fun far => ?_, fun near bad => ?_⟩
    · refine ⟨_, exec_pageWalk_of_fail hr x, ?_⟩
      rw [openFault_of_none (by rw [kept.openRec, first]), kept.recs, kept.nextId]
    · refine ⟨_, exec_pageWalk_of_fail hr x, ?_⟩
      rw [openFault_of_some (by rw [kept.openRec, opened])]
      exact ⟨rfl, kept.recs⟩
    · rw [hr, translate_of_far far]
      exact ⟨rfl, rfl⟩
    · rw [hr, translate_of_not_ctxOk near bad]
      exact ⟨rfl, rfl⟩
  case queued =>
    have run := exec_faultRecordQueued found failed unqueued unposted room
    refine ⟨fun cls enabled free first e entry => ?_, fun cls other => ?_, fun cls assist part => ?_, fun cls alone grow => ?_,
      fun cls alone grow => ?_⟩
    · rw [beginService_of_hostDenied s f cls enabled] at run
      have sends := sendPrg_sends (s := s.putRec { f with queue := some (unitQueue f.unit) })
        (f := { f with queue := some (unitQueue f.unit) }) first free entry
      exact ⟨_, _, run.trans (congrArg _ sends), rfl, mapWhere_const_const _ _ _ (beq_self_eq_true f.id), rfl⟩
    · rw [beginService_of_abort s f cls other] at run
      exact ⟨_, _, run, abortTold_tellAbort s f f.cls, recordClosed_abortRec s f f.cls⟩
    · rw [beginService_of_assist s f cls assist] at run
      obtain ⟨shape, more, seq, others⟩ := postRequest_effect (s.putRec { f with posted := true }) 1 f.bytes part rfl
      refine ⟨_, run, ?_, ?_, more, seq, others⟩
      · rw [shape]; rfl
      · rw [shape]; rfl
    · rw [beginService_of_grow s f cls alone grow] at run
      exact ⟨_, run, rfl, rfl⟩
    · rw [beginService_of_hardware s f cls alone grow] at run
      exact ⟨_, _, run, abortTold_tellAbort s f f.cls, recordClosed_abortRec s f f.cls⟩
  case timeout =>
    exact ⟨_, _, exec_faultTimeout found entry timed failed, abortTold_tellAbort s f clsTimeout, recordClosed_abortRec s f clsTimeout⟩
  case pool =>
    have run := exec_growFaultService found queued grow entry
    have mmu : d.st.mmu = s.mmu := hd ▸ (memStep_physRead s e.part e.poolPa 64).mmu
    refine ⟨fun bad => ?_, fun clean usable empty => ⟨fun told => ?_, fun untold => ?_⟩,
      fun en pa w g x s1 clean usable stocked hs1 hen pure hpa hw own hg hx => ?_⟩
    · rw [growTake_of_bad _ hd hr bad] at run
      exact ⟨_, _, run, abortTold_tellAbort d.st f clsNotPresent, recordClosed_abortRec d.st f clsNotPresent⟩
    · rw [growTake_of_empty _ hd hr clean usable empty, mmu, if_pos told] at run
      exact run
    · rw [growTake_of_empty _ hd hr clean usable empty, mmu, if_neg (by simp [untold])] at run
      obtain ⟨marked, raised, shape⟩ := tellEmpty_effect (s := d.st) (f := f) rfl
      refine ⟨_, run, marked, raised, ?_, shape⟩
      rw [shape, ← mmu]
    · subst hs1 hg hx
      exact ⟨_, run.trans (congrArg _ (growTake_of_page _ hd hr clean usable stocked hen pure hpa hw own)), recordClosed_retryRec _ f⟩
end

section
/-! Answers of the host and invalidations (R304, R307-R309, R330): what each leaves of translations, records and MMU_INV. -/

namespace Sys2Proof.Machine

variable {s : State} {id : Word32} {f : FaultRec}

/-! ### ATS and PRG -/

/-- A host translation joins the cached ones, in place of an older one of its page. -/
def State.grantAtc (s : State) (grant : AtcEntry) : State :=
  let old := s.mmu.atc.filter (fun a => !(a.pasid == grant.pasid && a.page == grant.page))
  { s with mmu := { s.mmu with atc := old.drop (old.length + 1 - 4096) ++ [grant] } }

theorem mem_grantAtc (grant : AtcEntry) : grant ∈ (s.grantAtc grant).mmu.atc := List.mem_append_right _ (.head _)

section
variable (found : s.recOf id = some f) (asked : f.cls = 0)
include found asked

/-- A translation that grants what the access needs is kept, and its record is released. -/
theorem exec_ats_of_granted {e : CtxEntry} {hpa : Nat} {r w x : Bool} (entry : s.ctxEntry f.ctx = some e)
    (enough : permOk f.acc r w x = true) :
    exec (.atsTranslationCompletion id (.granted hpa r w x)) s =
      .next ((s.grantAtc ⟨e.pasid, f.hostPage, hpa / 4096 * 4096, r, w, x⟩).releaseRec f true 0) := by
  show execAtsTranslationCompletion id (.granted hpa r w x) s = _
  simp only [execAtsTranslationCompletion, found, asked, entry, enough]
  rfl

theorem exec_ats_of_short {e : CtxEntry} {hpa : Nat} {r w x : Bool} (entry : s.ctxEntry f.ctx = some e)
    (short : permOk f.acc r w x = false) :
    exec (.atsTranslationCompletion id (.granted hpa r w x)) s = .next (s.putRec { f with cls := clsHostDenied }) := by
  show execAtsTranslationCompletion id (.granted hpa r w x) s = _
  simp [execAtsTranslationCompletion, found, asked, entry, short]

theorem exec_ats_of_error {res : AtsOutcome} (error : res = .unsupported ∨ res = .aborted) :
    exec (.atsTranslationCompletion id res) s = .next (s.putRec { f with cls := clsHostError }) := by
  show execAtsTranslationCompletion id res s = _
  rcases error with rfl | rfl
  · simp [execAtsTranslationCompletion, found, asked]
  · simp [execAtsTranslationCompletion, found, asked]

end

/-- What each answer to a Page Request does. -/
def State.prgAnswered (s : State) (f : FaultRec) : PrgCode → State
  | .success => (s.retryRec f).nextPrgs
  | .invalid => (s.abortRec f clsHostDenied true).nextPrgs
  | .failure =>
    let s := State.abortRec { s with mmu := { s.mmu with priFailed := true } } f clsHostDenied true
    forEach (s.mmu.recs.filter (fun r => r.cls == clsHostDenied && r.queue.isSome && !r.pri)) s (fun s r =>
      match s.recOf r.id with | some f => s.abortRec f clsHostDenied true | none => s)

theorem exec_prgResponse (found : s.recOf id = some f) (asked : s.mmu.prgs.contains id = true) (code : PrgCode) :
    exec (.prgResponse id code) s = .next (s.prgAnswered f code) := by
  show execPrgResponse id code s = _
  simp only [execPrgResponse, found, asked]
  cases code <;> rfl

/-! ### Invalidations of the host (R309) -/

/-- Whether an invalidation for one PASID, or for all, covers a PASID. -/
def pasidHit (pasid : Option (BitVec 20)) (x : BitVec 20) : Bool := match pasid with | some p => p == x | none => true

/-- Whether an invalidated run of host pages meets the n pages from page a on. -/
def pagesHit (page pages a n : Nat) : Bool := decide (a < page + pages) && decide (page < a + n)

theorem pasidHit_iff {pasid : Option (BitVec 20)} {x : BitVec 20} : pasidHit pasid x = true ↔ ∀ p, pasid = some p → p = x := by
  cases pasid <;> simp [pasidHit]

theorem pagesHit_iff {page pages a n : Nat} : pagesHit page pages a n = true ↔ a < page + pages ∧ page < a + n := by simp [pagesHit]

/-- What an invalidation of the host covers goes: host translations, and cached translations of its pages. -/
def State.dropHost (s : State) (pasid : Option (BitVec 20)) (page pages : Nat) : State :=
  { s with mmu := { s.mmu with
    atc := s.mmu.atc.filter (fun a => !(pasidHit pasid a.pasid && pagesHit page pages a.page 1))
    tlb := s.mmu.tlb.filter (fun t => !(t.host && pagesHit page pages t.ppn t.pages &&
      (match s.ctxEntry t.ctx with | some e => pasidHit pasid e.pasid | none => true))) } }

theorem exec_atsInvalidateRequest (pasid : Option (BitVec 20)) (page pages : Nat) :
    exec (.atsInvalidateRequest pasid page pages) s = .next ((s.dropHost pasid page pages).emit .invCompletion) := (rfl)

/-- A host translation that stays is not covered. -/
theorem dropHost_atc {pasid : Option (BitVec 20)} {page pages : Nat} {a : AtcEntry} (held : a ∈ (s.dropHost pasid page pages).mmu.atc) :
    a ∈ s.mmu.atc ∧ ¬((∀ p, pasid = some p → p = a.pasid) ∧ page ≤ a.page ∧ a.page < page + pages) := by
  obtain ⟨before, uncovered⟩ := List.mem_filter.mp held
  refine ⟨before, fun ⟨covers, from_, below⟩ => ?_⟩
  rw [pasidHit_iff.mpr covers, pagesHit_iff.mpr ⟨below, Nat.lt_succ_of_le from_⟩] at uncovered
  exact Bool.noConfusion uncovered

/-- No cached translation to a host page that an invalidation for every PASID covers stays. -/
theorem dropHost_tlb {page pages : Nat} {a : TlbEntry} (held : a ∈ (s.dropHost none page pages).mmu.tlb) (host : a.host = true) :
    a.ppn + a.pages ≤ page ∨ page + pages ≤ a.ppn := by
  have uncovered := (List.mem_filter.mp held).2
  have every : (match s.ctxEntry a.ctx with | some e => pasidHit none e.pasid | none => true) = true := by split <;> rfl
  by_contra meets
  rw [host, pagesHit_iff.mpr (by omega), every] at uncovered
  exact Bool.noConfusion uncovered

/-! ### MMU_INV (R330) -/

variable (s)

/-- Two writes of fields of one register. -/
theorem putF_putF_onlyRegs (k lo len x lo' len' x' : Nat) {t : State} (ht : t = (s.putF ⟨k, lo, len⟩ x).putF ⟨k, lo', len'⟩ x') :
    OnlyRegs [k] s t ∧ t.reg k = setFld (setFld (s.reg k) lo len x) lo' len' x' := by
  subst ht
  refine ⟨⟨rfl, fun j off => ?_⟩, ?_⟩
  · have off : j ≠ k := by simpa using off
    simp [State.putF_reg, off]
  · simp [State.putF_reg]

/-- An invalidation asked for through MMU_INV waits, and busy is set. -/
theorem queueInv_busy (scope : Nat) (q : InvReq) {t : State}
    (ht : t = ((s.putF ⟨mmuBase + 8, 8, 2⟩ scope).queueInv q).putF ⟨mmuBase + 8, 11, 1⟩ 1) :
    t = { s with regs := t.regs, mmu := { s.mmu with invs := s.mmu.invs ++ [q] } } ∧ OtherRegs [mmuBase + 8] s t ∧
    t.reg (mmuBase + 8) = setFld (setFld (s.reg (mmuBase + 8)) 8 2 scope) 11 1 1 := by
  obtain ⟨⟨shape, others⟩, own⟩ := putF_putF_onlyRegs (s.queueInv q) (mmuBase + 8) 8 2 scope 11 1 1 ht
  exact ⟨shape, others, own⟩

theorem exec_invalidateAll : exec .invalidateAll s =
    .next (((s.putF ⟨mmuBase + 8, 8, 2⟩ 0).queueInv ⟨none, none, none, none, 0⟩).putF ⟨mmuBase + 8, 11, 1⟩ 1) := (rfl)

/-- The scope of MMU_INV stands apart from the context that it names. -/
theorem invCtx_putF_scope (scope : Nat) :
    (s.putF ⟨mmuBase + 8, 8, 2⟩ scope).getF ⟨mmuBase + 8, 0, 6⟩ = s.getF ⟨mmuBase + 8, 0, 6⟩ :=
  State.putF_getF_ne s _ _ _ (.inr (.inl (by decide)))

theorem exec_invalidateContext : exec .invalidateContext s =
    .next (((s.putF ⟨mmuBase + 8, 8, 2⟩ 1).queueInv ⟨some (s.getF ⟨mmuBase + 8, 0, 6⟩), none, none, none, 0⟩).putF
      ⟨mmuBase + 8, 11, 1⟩ 1) := by
  rw [← invCtx_putF_scope s 1]
  rfl

section
variable {s}

theorem exec_invalidateRange_empty (empty : s.getF ⟨mmuBase + 0x18, 0, 36⟩ = 0) : exec .invalidateRange s =
    .next ((s.putF ⟨mmuBase + 8, 8, 2⟩ 2).putF ⟨mmuBase + 8, 12, 1⟩ 1) := by
  rw [← State.putF_getF_ne s ⟨mmuBase + 8, 8, 2⟩ _ 2 (.inl (by decide))] at empty
  exact congrArg _ (if_pos empty)

theorem exec_invalidateRange (pages : s.getF ⟨mmuBase + 0x18, 0, 36⟩ ≠ 0) : exec .invalidateRange s =
    .next (((s.putF ⟨mmuBase + 8, 8, 2⟩ 2).queueInv ⟨some (s.getF ⟨mmuBase + 8, 0, 6⟩),
      some (s.getF ⟨mmuBase + 0x10, 12, 36⟩, s.getF ⟨mmuBase + 0x18, 0, 36⟩), none, none, 0⟩).putF
        ⟨mmuBase + 8, 11, 1⟩ 1) := by
  have first := State.putF_getF_ne s ⟨mmuBase + 8, 8, 2⟩ ⟨mmuBase + 0x10, 12, 36⟩ 2 (.inl (by decide))
  have count := State.putF_getF_ne s ⟨mmuBase + 8, 8, 2⟩ ⟨mmuBase + 0x18, 0, 36⟩ 2 (.inl (by decide))
  rw [← invCtx_putF_scope s 2, ← first, ← count]
  exact congrArg _ (if_neg (count ▸ pages))

end

/-! ### Completion (R304) -/

/-- busy stays while invalidations wait. -/
theorem b2n_not_isEmpty {α : Type} (l : List α) : b2n (!l.isEmpty) = if l = [] then 0 else 1 := by
  cases l <;> rfl

/-- The state once an invalidation's translations are dropped and it waits no more. -/
def State.popInv (s : State) (q : InvReq) (rest : List InvReq) : State :=
  { s.dropCached q with mmu := { (s.dropCached q).mmu with invs := rest } }

/-- The oldest invalidation, asked for through MMU_INV, completes: no translation that it covers is left, and done is set. -/
theorem invDone_of_register {q : InvReq} {rest : List InvReq} (oldest : s.mmu.invs = q :: rest) (register : q.src = none) {t : State}
    (ht : t = s.invDone) :
    t = { s with regs := t.regs, mmu := { s.mmu with invs := rest, tlb := t.mmu.tlb, atc := t.mmu.atc } } ∧
    OtherRegs [mmuBase + 8] s t ∧
    t.reg (mmuBase + 8) = setFld (setFld (s.reg (mmuBase + 8)) 11 1 (if rest = [] then 0 else 1)) 12 1 1 ∧
    t.mmu.tlb = s.mmu.tlb.filter (fun e => !s.invCovers q e.ctx e.page e.pages) ∧ ∀ a, a ∈ t.mmu.atc → a ∈ s.mmu.atc := by
  have told : t = ((s.popInv q rest).putF ⟨mmuBase + 8, 11, 1⟩ (b2n !rest.isEmpty)).putF ⟨mmuBase + 8, 12, 1⟩ 1 := by
    rw [ht, State.invDone]
    simp only [oldest, register]
    rfl
  obtain ⟨⟨shape, others⟩, own⟩ := putF_putF_onlyRegs _ _ _ _ _ _ _ _ told
  rw [b2n_not_isEmpty] at own
  have mmu : t.mmu = (s.popInv q rest).mmu := by rw [told]; rfl
  refine ⟨?_, others, own, ?_, fun a held => ?_⟩
  · rw [shape]
    rfl
  · rw [mmu]
    rfl
  · rw [mmu] at held
    exact (List.mem_filter.mp held).1

end Sys2Proof.Machine

open Sys2Proof Sys2Proof.Machine

/-- Settles O19: each answer of the host by its code (`exec_ats_of_granted`, `exec_prgResponse`), what an invalidation of the host covers
(`dropHost_atc`, `dropHost_tlb`), the two writes of MMU_INV that queue an invalidation (`queueInv_busy`) and its completion
(`invDone_of_register`). -/
theorem hostPagesAndInvalidationsComplete : Obligations.HostPagesAndInvalidationsComplete := by
  unfold Obligations.HostPagesAndInvalidationsComplete
  refine ⟨⟨fun id s f found asked => ?ats, fun id s f found asked => ?prg, fun pasid page pages s => ?invalidate⟩, fun s => ?mmuInv,
    fun s q rest oldest register => ?complete⟩
  case ats =>
    refine ⟨fun hpa r w x e entry enough => ?_, fun hpa r w x e entry short => ?_, fun res error => ?_⟩
    · exact ⟨_, _, exec_ats_of_granted found asked entry enough, recordClosed_releaseRec _ f true 0, rfl, mem_grantAtc _⟩
    · exact ⟨_, exec_ats_of_short found asked entry short, rfl⟩
    · exact ⟨_, exec_ats_of_error found asked error, rfl⟩
  case prg =>
    have run := exec_prgResponse found asked
    exact ⟨⟨_, _, run .success, recordClosed_retryRec s f, rfl⟩,
      ⟨_, _, _, run .invalid, abortTold_tellAbort s f clsHostDenied, recordClosed_abortRec s f clsHostDenied, rfl⟩,
      ⟨_, _, _, run .failure, abortTold_tellAbort _ f clsHostDenied, recordClosed_abortRec _ f clsHostDenied, rfl⟩⟩
  case invalidate =>
    refine ⟨_, exec_atsInvalidateRequest pasid page pages, rfl, fun a held => dropHost_atc held,
      fun a held => (List.mem_filter.mp held).1, ?_⟩
    rintro rfl a held host
    exact dropHost_tlb held host
  case mmuInv =>
    refine ⟨⟨_, exec_invalidateAll s, queueInv_busy s 0 _ rfl⟩, ⟨_, exec_invalidateContext s, queueInv_busy s 1 _ rfl⟩,
      fun empty => ⟨_, exec_invalidateRange_empty empty, putF_putF_onlyRegs s _ _ _ _ _ _ _ rfl⟩,
      fun pages => ⟨_, exec_invalidateRange pages, queueInv_busy s 2 _ rfl⟩⟩
  case complete =>
    exact ⟨_, rfl, invDone_of_register s oldest register rfl⟩
end

section
/-! Descriptors that move rows (R338-R343, R351) and multicast targets (R463, R464): what a row reaches, and what the last row leaves. -/

namespace Sys2Proof.Machine

/-! ### What a write of a space reaches (R337, R352) -/

theorem EngineStep.forEach {α : Type} {c : Nat} {s : State} (l : List α) (f : State → α → State) (h : ∀ s a, EngineStep c s (f s a)) :
    EngineStep c s (forEach l s f) :=
  List.foldlRecOn (motive := EngineStep c s) l f .refl (fun t ht a _ => ht.trans (h t a))

theorem VaStep.ite {p : Prop} [Decidable p] {s t u : State} (h : VaStep s t) (g : VaStep s u) : VaStep s (if p then t else u) := by
  split
  · exact h
  · exact g

section
variable (s : State)

theorem vaStep_vPoison (u : UnitId) (ctx part va n who : Nat) : VaStep s (s.vPoison u ctx part va n who) :=
  (vaStep_xlRun s u ctx part va n .write).trans (memStep_poisonSegs _ _ _ _).va

theorem vaStep_memPut (x : Mover) (fuel : Nat) : ∀ (s : State) (a : Nat) (bs : List (Byte × Bool)), VaStep s (s.memPut x a bs fuel).1 := by
  induction fuel with
  | zero => exact fun s _ _ => .refl s
  | succ k ih =>
    intro s a bs
    have line := vaStep_vWrite s x.u x.ctx x.part a ((bs.take (128 - a % 128)).map (·.1)) noCore (some x.w)
    unfold State.memPut
    dsimp only
    split
    · exact .refl s
    · split
      · exact line
      · exact (VaStep.ite (line.trans (vaStep_vPoison _ _ _ _ _ _ _)) line).trans (ih _ _ _)

theorem engineStep_spPut (c : Nat) (x : Mover) (sp mc : Nat) (a : Int) (bs : List (Byte × Bool)) :
    EngineStep c s (s.spPut x sp mc a bs).1 := by
  unfold State.spPut
  dsimp only
  split
  · exact (vaStep_memPut x _ s _ _).engineStep
  · exact engineStep_scratchPut c s _ _ _ _ _

/-! ### What reading a row reaches (R339, R341, R342) -/

theorem vaStep_spGets (x : Mover) (sp mc n : Nat) (as : List Int) : ∀ s : State, VaStep s (s.spGets x sp mc as n).1 := by
  induction as with
  | nil => exact fun s => .refl s
  | cons a r ih =>
    intro s
    have first := vaStep_spGet s x sp mc a n
    unfold State.spGets
    dsimp only
    split
    · exact first
    · exact first.trans (ih _)

theorem vaStep_rowBytes (x : Mover) (d : Desc) (p r : Nat) (sa : Int) : VaStep s (s.rowBytes x d p r sa).st := by
  unfold State.rowBytes
  dsimp only
  split
  · exact vaStep_spGets x _ _ _ _ s
  · split
    · have elements := vaStep_spGet s x d.srcSp d.srcMc sa
      split
      · exact elements _
      · split
        · exact (elements _).trans (vaStep_spGet _ _ _ _ _ _)
        · exact elements _
    · exact vaStep_spGet s x _ _ _ _

theorem vaStep_copyRow (x : Mover) (d : Desc) (i : Nat) : VaStep s (s.copyRow x d i).st := by
  have index : VaStep s (if d.gather || d.scatter then s.spGet x (bits d.aux 48 3) (bits d.aux 51 2) (bits d.aux 0 48 + 4 * i) 4
      else ⟨s, [], none⟩ : Got).st := by
    split
    · exact vaStep_spGet s x _ _ _ _
    · exact .refl s
  unfold State.copyRow
  dsimp only
  split
  · exact index
  · rw [apply_ite RowRes.st]
    exact .ite index (index.trans (vaStep_rowBytes _ x d _ _ _))

theorem vaStep_operandPlane (x : Mover) (d : Desc) (p : Nat) : VaStep s (s.operandPlane x d p).st := by
  unfold State.operandPlane
  dsimp only
  split <;> exact vaStep_spGets x _ _ _ _ s

variable (c : Nat)

theorem engineStep_descAtomic (x : Mover) (d : Desc) (who : Option CoreName) : EngineStep c s (s.descAtomic x d who).st := by
  have source (n : Nat) := (vaStep_xlRun s x.u x.ctx x.part d.src n .atomic).engineStep (c := c)
  have hold {t : State} (h : EngineStep c s t) (a : Nat) (acc : Access) (f : Xl) :
      EngineStep c s (t.openFault x.u x.ctx x.part a acc f (some x.w)).1 := h.trans (vaStep_openFault t _ _ _ _ _ _ _).engineStep
  unfold State.descAtomic
  dsimp only
  split
  case h_1 => exact hold (source _) _ _ _
  case h_3 => exact source _
  case h_2 =>
    split
    · exact hold (source _) _ _ _
    · have checked (n : Nat) : EngineStep c s (if d.dstSp = 0 then
          (s.xlRun x.u x.ctx x.part d.src n .atomic).st.xlRun x.u x.ctx x.part d.dst 8 .write
          else ⟨(s.xlRun x.u x.ctx x.part d.src n .atomic).st, [], none⟩ : RunRes).st := by
        split
        · exact (source n).trans (vaStep_xlRun _ _ _ _ _ _ _).engineStep
        · exact source n
      split
      · exact hold (checked _) _ _ _
      · refine (checked (if d.aop = 0 then 8 else 32)).trans ?_
        generalize RunRes.st (ite (d.dstSp = 0) _ _) = t
        dsimp only
        split
        · exact (memStep_amoAt _ _ _ _ _ _ _).engineStep
        · exact engineStep_wcClaim c _ _ _ _ _
        · exact engineStep_wcPresent c _ _ _ _ _

theorem engineStep_maskLoad (x : Mover) (q : Nat) (d : Desc) : EngineStep c s (s.maskLoad x c q d).st := by
  have record := (vaStep_spGet s x 0 0 d.src 128).engineStep (c := c)
  unfold State.maskLoad
  dsimp only
  split
  · exact record
  · dsimp only
    exact record.trans (engineStep_updMc c _ _ _)

theorem onlyDma_descRow (x : Mover) (q : Nat) (d : Desc) (i : Nat) : OnlyDma s (s.descRow x c q d i).st := by
  unfold State.descRow
  split
  · exact (vaStep_copyRow s x d i).engineStep (c := c) |>.frame
  · exact (vaStep_operandPlane s x d i).engineStep (c := c) |>.frame
  · exact (vaStep_operandPlane s x d i).engineStep (c := c) |>.frame
  · exact (engineStep_descAtomic s c x d _).frame
  · exact (engineStep_maskLoad s c x q d).frame
  · exact onlyDma_setKey c s q _

/-! ### What moving rows reaches (R338, R340) -/

theorem engineStep_meshInject (cell : Nat) (dst : MeshDst) (vc : MeshVc) (flits : Nat) (expects : Bool) :
    EngineStep c s (s.meshInject cell dst vc flits expects) :=
  .ite (.of_dma rfl rfl) (.of_dma rfl rfl)

theorem engineStep_mcastOut (q i : Nat) (d : Desc) (a : Nat) (bs : List (Byte × Bool)) : EngineStep c s (s.mcastOut c q i d a bs) := by
  unfold State.mcastOut
  exact (EngineStep.forEach _ _ (fun _ _ => .forEach _ _ (fun t _ => engineStep_meshInject t c _ _ _ _ _))).trans
    (engineStep_updDesc c _ q i _)

theorem engineStep_putOuts (x : Mover) (q i : Nat) (d : Desc) (outs : List (Int × List (Byte × Bool))) :
    ∀ s : State, EngineStep c s (s.putOuts x c q i d outs).1 := by
  induction outs with
  | nil => exact fun _ => .refl
  | cons o r ih =>
    intro s
    have put := engineStep_spPut s c x d.dstSp d.dstMc o.1 o.2
    unfold State.putOuts
    dsimp only
    split
    · exact (engineStep_mcastOut s c q i d _ _).trans (ih _)
    · split
      · exact put
      · exact put.trans (ih _)

theorem onlyDma_dmaRow (q i : Nat) (t : DescState) : OnlyDma s (s.dmaRow c q i t) := by
  have row := (engineStep_updDesc c s q i (fun t => { t with phase := .moving })).frame.trans
    (onlyDma_descRow _ c (s.mover c q) q (descOf t.d) t.rowsDone)
  have hold (u : State) (id : Word32) : OnlyDma u (u.holdDesc c q i id) := (engineStep_updDesc c u q i _).frame
  unfold State.dmaRow
  dsimp only
  generalize State.descRow _ _ c q (descOf t.d) t.rowsDone = r at row ⊢
  split
  · exact row.trans (hold _ _)
  · have put (p : Prop) [Decidable p] :
        OnlyDma s (if p then (r.st, none) else r.st.putOuts (s.mover c q) c q i (descOf t.d) r.outs).1 := by
      split
      · exact row
      · exact row.trans (engineStep_putOuts c _ q i _ _ _).frame
    split
    · exact (put _).trans (hold _ _)
    · exact ((put _).trans (engineStep_updDesc c _ q i _).frame).trans (engineStep_dmaSettle c _ q).frame

theorem onlyDma_dmaRows (q : Nat) (w : BitVec 512) (fuel : Nat) : ∀ s : State, OnlyDma s (s.dmaRows c q w fuel) := by
  induction fuel with
  | zero => exact fun _ => rfl
  | succ k ih =>
    intro s
    unfold State.dmaRows
    split
    · split
      · exact (onlyDma_dmaRow s c q _ _).trans (ih _)
      · rfl
    · rfl

end

/-! ### A row (R338, R351) -/

/-- Descriptor i of a queue moves (R351). -/
abbrev State.startRow (s : State) (c q i : Nat) : State := s.updDesc c q i (fun x => { x with phase := .moving })

section
variable {s : State} {c q i : Nat} {t : DescState} {r : RowRes}

theorem State.dmaReady_of_stopped (stopped : s.getB ⟨dmaBase c, 30, 1⟩ = true) : s.dmaReady c q = none := by
  unfold State.dmaReady
  split
  · simp [State.mayIssue, stopped]
  · rfl

theorem State.dmaDo_of_stopped (stopped : s.getB ⟨dmaBase c, 30, 1⟩ = true) (p : Desc → Bool) : s.dmaDo c q p = s := by
  simp only [State.dmaDo, State.dmaReady_of_stopped stopped]

section
variable (row : r = (s.startRow c q i).descRow (s.mover c q) c q (descOf t.d) t.rowsDone)
include row

theorem State.dmaRow_held {id : Word32} (held : r.held = some id) : s.dmaRow c q i t = r.st.holdDesc c q i id := by
  subst row
  simp only [State.dmaRow, held]

/-- A row whose bytes are written is done, and the queue is settled (R338, R347). -/
theorem State.dmaRow_rowDone {w : State} (held : r.held = none) (code : r.code = 0) (single : (descOf t.d).mcast = false)
    (puts : r.st.putOuts (s.mover c q) c q i (descOf t.d) r.outs = (w, none)) : RowDone c q i 0 r.poison w (s.dmaRow c q i t) := by
  subst row
  have set : (0 : Nat) ≠ stMcastTarget := by decide
  have range : (0 : Nat) ≠ stScratchRange := by decide
  simp [RowDone, State.dmaRow, held, code, single, puts, set, range]

end

/-- A descriptor with one row left is carried out by moving that row. -/
theorem State.dmaDo_lastRow {p : Desc → Bool} (ready : s.dmaReady c q = some (i, t)) (hp : p (descOf t.d) = true)
    (last : (descOf t.d).rows = t.rowsDone + 1) : s.dmaDo c q p = s.dmaRow c q i t := by
  have one : (descOf t.d).rows - t.rowsDone = 1 := by omega
  simp [State.dmaDo, State.dmaRows, ready, hp, one]

/-- A run of bytes for a scratch is put there (R337). -/
theorem State.putOuts_scratch (s : State) (x : Mover) (c q i : Nat) {d : Desc} (o : Int × List (Byte × Bool)) (single : d.mcast = false)
    (scratch : d.dstSp ≠ 0) : s.putOuts x c q i d [o] = (s.scratchPut x.cell d.dstSp d.dstMc (toBits o.1 64) o.2, none) := by
  simp [State.putOuts, State.spPut, single, scratch]

/-- The last row of a descriptor, one run of bytes for a scratch, is put there and done (R338). -/
theorem State.dmaDo_lastRow_scratch {d : Desc} {p : Desc → Bool} {o : Int × List (Byte × Bool)} (ready : s.dmaReady c q = some (i, t))
    (desc : d = descOf t.d) (hp : p d = true) (last : d.rows = t.rowsDone + 1) (single : d.mcast = false) (scratch : d.dstSp ≠ 0)
    (row : r = (s.startRow c q i).descRow (s.mover c q) c q d t.rowsDone) (held : r.held = none) (code : r.code = 0)
    (outs : r.outs = [o]) : OnlyDma s (s.dmaDo c q p) ∧
      RowDone c q i 0 r.poison (r.st.scratchPut c d.dstSp d.dstMc (toBits o.1 64) o.2) (s.dmaDo c q p) := by
  have puts := State.putOuts_scratch r.st (s.mover c q) c q i o single scratch
  subst desc
  rw [State.dmaDo_lastRow ready hp last]
  exact ⟨onlyDma_dmaRow s c q i t, State.dmaRow_rowDone row held code single (outs ▸ puts)⟩

end

/-! ### What a row is, by kind (R338, R339, R341, R342) -/

/-- The row of bytes read that go to address a as they are (R338). -/
def Got.row (g : Got) (a : Int) : RowRes := ⟨g.st, g.held, 0, g.bs.any (·.2), [(a, g.bs)]⟩

section
variable (s : State) (x : Mover) (c q i : Nat) {d : Desc}

theorem State.descRow_copy (kind : d.kind = 0) : s.descRow x c q d i = s.copyRow x d i := by
  rw [State.descRow, kind]
  rfl

theorem State.descRow_plane (kind : d.kind = 1 ∨ d.kind = 2) : s.descRow x c q d i = s.operandPlane x d i := by
  rcases kind with kind | kind
  all_goals
    rw [State.descRow, kind]
    rfl

/-- A row of a COPY that only moves bytes: the source's bytes, with their poison, for the row's place in the destination (R338). -/
theorem State.copyRow_plain (inside : i < d.n1 * d.n2) (gather : d.gather = false) (scatter : d.scatter = false)
    (trans : d.trans = false) (zpad : d.zpad = false) (conv : d.conv = false) {g : Got}
    (read : g = s.spGet x d.srcSp d.srcMc (d.src + (i / d.n1 : Nat) * d.s2 + (i % d.n1 : Nat) * d.s1) d.len) :
    s.copyRow x d i = g.row (d.dst + (i / d.n1 : Nat) * d.d2 + (i % d.n1 : Nat) * d.d1) := by
  subst read
  have plane : i / d.n1 < d.n2 := Nat.div_lt_of_lt_mul inside
  have row : i % d.n1 < d.n1 := Nat.mod_lt _ (Nat.pos_of_lt_mul_right inside)
  have whole (sa : Int) : s.rowBytes x d (i / d.n1) (i % d.n1) sa = s.spGet x d.srcSp d.srcMc sa d.len := by
    simp [State.rowBytes, Desc.valid, trans, conv, zpad, plane, row, zeros]
  simp [State.copyRow, gather, scatter, whole, Got.row]

/-- The object of a plane that is not held has one place in the destination (R341, R342). -/
theorem State.operandPlane_out {r : RowRes} (read : r = s.operandPlane x d i) (held : r.held = none) {o : Int × List (Byte × Bool)}
    (outs : r.outs = [o]) : r.code = 0 ∧ o.1 = d.dst + (i : Nat) * d.d2 := by
  subst read
  revert held outs
  unfold State.operandPlane
  dsimp only
  split
  · exact fun held => nomatch held
  · exact fun _ outs => ⟨rfl, (congrArg Prod.fst (List.singleton_inj.mp outs)).symm⟩

end

/-! ### The last row of a descriptor (R338, R341, R342) -/

section
variable {s : State} {c q i : Nat} {t : DescState} {d : Desc} {p : Desc → Bool} (ready : s.dmaReady c q = some (i, t))
include ready

/-- The last row of a COPY that only moves bytes puts the source's bytes, with their poison, at its destination (R338). -/
theorem State.dmaDo_lastCopy (desc : d = descOf t.d) (hp : p d = true) (kind : d.kind = 0) (last : d.n1 * d.n2 = t.rowsDone + 1)
    (single : d.mcast = false) (scratch : d.dstSp ≠ 0) (gather : d.gather = false) (scatter : d.scatter = false)
    (trans : d.trans = false) (zpad : d.zpad = false) (conv : d.conv = false) {g : Got}
    (read : g = (s.startRow c q i).spGet (s.mover c q) d.srcSp d.srcMc
      (d.src + (t.rowsDone / d.n1 : Nat) * d.s2 + (t.rowsDone % d.n1 : Nat) * d.s1) d.len) (held : g.held = none) :
    OnlyDma s (s.dmaDo c q p) ∧ RowDone c q i 0 (g.bs.any (·.2)) (g.st.scratchPut c d.dstSp d.dstMc
      (toBits (d.dst + (t.rowsDone / d.n1 : Nat) * d.d2 + (t.rowsDone % d.n1 : Nat) * d.d1) 64) g.bs) (s.dmaDo c q p) := by
  have inside : t.rowsDone < d.n1 * d.n2 := last ▸ Nat.lt_succ_self _
  have rows : d.rows = t.rowsDone + 1 := by rw [Desc.rows, if_pos kind, last]
  have row := (State.copyRow_plain _ _ t.rowsDone inside gather scatter trans zpad conv read).symm.trans
    (State.descRow_copy _ _ c q t.rowsDone kind).symm
  exact State.dmaDo_lastRow_scratch (r := g.row _) (o := (_, g.bs)) ready desc hp rows single scratch row held rfl rfl

/-- The last plane of a PANEL or IMAGE puts the object built from it at its destination (R341, R342). -/
theorem State.dmaDo_lastPlane (desc : d = descOf t.d) (hp : p d = true) (kind : d.kind = 1 ∨ d.kind = 2) (last : d.n2 = t.rowsDone + 1)
    (single : d.mcast = false) (scratch : d.dstSp ≠ 0) {r : RowRes}
    (read : r = (s.startRow c q i).operandPlane (s.mover c q) d t.rowsDone) (held : r.held = none) {o : Int × List (Byte × Bool)}
    (outs : r.outs = [o]) : OnlyDma s (s.dmaDo c q p) ∧ o.1 = d.dst + (t.rowsDone : Nat) * d.d2 ∧
      RowDone c q i 0 r.poison (r.st.scratchPut c d.dstSp d.dstMc (toBits o.1 64) o.2) (s.dmaDo c q p) := by
  obtain ⟨code, place⟩ := State.operandPlane_out _ _ t.rowsDone read held outs
  have rows : d.rows = t.rowsDone + 1 := by rw [Desc.rows, if_neg (by omega), if_pos (by omega), last]
  have row := read.trans (State.descRow_plane _ _ c q t.rowsDone kind).symm
  obtain ⟨frame, done⟩ := State.dmaDo_lastRow_scratch ready desc hp rows single scratch row held code outs
  exact ⟨frame, place, done⟩

end

/-! ### Multicast targets (R463, R464) -/

section
variable {s : State}

theorem engineStep_takeCopies (c : Nat) (s : State) (cell : Nat) (l : List McastCopy) : EngineStep c s (s.takeCopies cell l) :=
  .forEach _ _ (fun t _ => engineStep_scratchPut c t _ _ _ _ _)

theorem engineStep_settleTarget (c : Nat) (s : State) (q i target : Nat) (r : TargetState) :
    EngineStep c s (s.settleTarget c q i target r) :=
  (engineStep_updDesc c s q i _).trans (engineStep_dmaSettle c _ q)

theorem State.takeCopies_dmaOf (s : State) (cell : Nat) (l : List McastCopy) (c : Nat) : (s.takeCopies cell l).dmaOf c = s.dmaOf c :=
  forEach_keeps (fun t : State => t.dmaOf c) l s _ (fun _ _ => by
    unfold State.scratchPut
    dsimp only
    split <;> rfl)

variable {c : Fin 480} {q : Fin 6} {target : Fin 480} {i : Nat} {t : DescState}

/-- A target that a descriptor waits for and that is up has taken its copies (R463). -/
theorem exec_mcastTargetCompletion_ok (waits : s.waitsFor c.val q.val target.val = some i) (desc : (s.dmaQ c.val q.val)[i]? = some t)
    (up : s.cellDown target.val = false) : exec (.mcastTargetCompletion c q target true) s =
      .next ((s.takeCopies target.val t.copies).settleTarget c.val q.val i target.val .delivered) := by
  change execMcastTargetCompletion c q target true s = _
  simp [execMcastTargetCompletion, waits, desc, up]

theorem exec_mcastTargetCompletion_failed (waits : s.waitsFor c.val q.val target.val = some i) :
    exec (.mcastTargetCompletion c q target false) s = .next (s.settleTarget c.val q.val i target.val .undelivered) := by
  change execMcastTargetCompletion c q target false s = _
  simp [execMcastTargetCompletion, waits]

/-- A completion after the timeout delivers the copies that were held and is discarded (R464). -/
theorem exec_mcastTargetCompletion_late {e : Nat × Nat × List McastCopy} (settled : s.waitsFor c.val q.val target.val = none)
    (late : (s.dmaOf c.val).late.find? (fun e => e.1 == q.val && e.2.1 == target.val) = some e) (up : s.cellDown target.val = false) :
    exec (.mcastTargetCompletion c q target true) s =
      .next ((s.setDma c.val { s.dmaOf c.val with late := (s.dmaOf c.val).late.erase e }).takeCopies target.val e.2.2) := by
  change execMcastTargetCompletion c q target true s = _
  simp [execMcastTargetCompletion, settled, late, up]

theorem exec_mcastTimeout (waits : s.waitsFor c.val q.val target.val = some i) : exec (.mcastTimeout c q target) s =
    .next (if s.getF ⟨redBase, 0, 16⟩ = 0 then s else s.settleTarget c.val q.val i target.val .undelivered) := by
  change execMcastTimeout c q target s = _
  simp [execMcastTimeout, waits]

end

/-! ### The commands -/

section
variable (c : Fin 480) (q : Fin 6) (s : State)

theorem exec_dmaCopy : exec (.dmaCopy c q) s = .next (s.dmaDo c.val q.val (fun d => d.kind == 0)) := (rfl)
theorem exec_dmaPanel : exec (.dmaPanel c q) s = .next (s.dmaDo c.val q.val (fun d => d.kind == 1)) := (rfl)
theorem exec_dmaImage : exec (.dmaImage c q) s = .next (s.dmaDo c.val q.val (fun d => d.kind == 2)) := (rfl)

variable {c q s}

theorem exec_dmaLineResponse {i : Nat} {t : DescState} (ready : s.dmaReady c.val q.val = some (i, t)) :
    exec (.dmaLineResponse c q) s = .next (s.dmaRow c.val q.val i t) := by
  change execDmaLineResponse c q s = _
  simp only [execDmaLineResponse, ready]

theorem exec_dmaLineResponse_stopped (stopped : s.getB ⟨dmaBase c.val, 30, 1⟩ = true) : exec (.dmaLineResponse c q) s = .next s := by
  change execDmaLineResponse c q s = _
  simp only [execDmaLineResponse, State.dmaReady_of_stopped stopped]

/-- A COPY moves the rows that its descriptor has left (R338). -/
theorem exec_dmaCopy_rows {i : Nat} {t : DescState} (ready : s.dmaReady c.val q.val = some (i, t)) (kind : (descOf t.d).kind = 0) :
    exec (.dmaCopy c q) s = .next (s.dmaRows c.val q.val t.d ((descOf t.d).n1 * (descOf t.d).n2 - t.rowsDone)) := by
  simp [exec_dmaCopy, State.dmaDo, ready, kind, Desc.rows]

end

end Sys2Proof.Machine

open Sys2Proof Sys2Proof.Machine

/-- Settles O21: a row is held or done (`State.dmaRow_held`, `State.dmaRow_rowDone`), the last row of a COPY, PANEL or IMAGE is one run of
bytes for its scratch (`State.dmaDo_lastCopy`, `State.dmaDo_lastPlane`), and each answer of a multicast target settles it; every step stays within the
engine's reach (`onlyDma_dmaRow`, `EngineStep`). -/
theorem descriptorMovesComplete : Obligations.DescriptorMovesComplete := by
  unfold Obligations.DescriptorMovesComplete
  refine ⟨fun c q s => ⟨fun i t s1 r ready moving row => ?rows, fun stopped => ?stopped⟩,
    fun c q s i t d s1 x ready desc hx moving single => ?kinds,
    fun c q target s => ⟨fun i t waits desc => ?targets, fun e settled late up => ?late⟩⟩
  case rows =>
    subst moving
    rw [exec_dmaLineResponse ready]
    have frame := onlyDma_dmaRow s c.val q.val i t
    exact ⟨fun id held => ⟨_, rfl, frame, State.dmaRow_held row held⟩,
      fun w held code single puts done =>
        ⟨_, rfl, frame, State.dmaRow_rowDone row held code single (puts.symm.trans (Prod.ext rfl done))⟩⟩
  case stopped =>
    have idle := State.dmaDo_of_stopped stopped (q := q.val)
    exact ⟨exec_dmaLineResponse_stopped stopped, congrArg _ (idle _), congrArg _ (idle _), congrArg _ (idle _), congrArg _ (idle _),
      congrArg _ (idle _), congrArg _ (idle _), congrArg _ (idle _), congrArg _ (idle _)⟩
  case kinds =>
    subst hx moving
    refine ⟨fun kind => ?copyRows, fun g kind last gather scatter trans zpad conv scratch _ _ read held => ?copy,
      fun r o kind last scratch read held outs => ?panel, fun r o kind last scratch read held outs => ?image⟩
    case copyRows =>
      subst desc
      exact ⟨_, exec_dmaCopy_rows ready kind, rfl, onlyDma_dmaRows c.val q.val _ _ s⟩
    case copy =>
      exact ⟨_, exec_dmaCopy c q s, State.dmaDo_lastCopy ready desc (by simp [kind]) kind last single scratch gather scatter trans
        zpad conv read held⟩
    case panel =>
      exact ⟨_, exec_dmaPanel c q s, State.dmaDo_lastPlane ready desc (by simp [kind]) (.inl kind) last single scratch read held outs⟩
    case image =>
      exact ⟨_, exec_dmaImage c q s, State.dmaDo_lastPlane ready desc (by simp [kind]) (.inr kind) last single scratch read held outs⟩
  case targets =>
    have settles (u : State) (r : TargetState) := (engineStep_settleTarget c.val u q.val i target.val r).frame
    rw [exec_mcastTargetCompletion_failed waits, exec_mcastTimeout waits]
    refine ⟨fun up => ⟨_, exec_mcastTargetCompletion_ok waits desc up, ?_, rfl⟩, ⟨_, rfl, settles s _, rfl⟩,
      fun timed => ⟨_, congrArg _ (if_neg timed), settles s _, rfl⟩, fun untimed => congrArg _ (if_pos untimed)⟩
    exact (engineStep_takeCopies c.val s _ _).frame.trans (settles _ _)
  case late =>
    refine ⟨_, exec_mcastTargetCompletion_late settled late up, ?_, ?_, ?_, rfl⟩
    · have discarded := engineStep_setDma c.val s { s.dmaOf c.val with late := (s.dmaOf c.val).late.erase e } rfl
      exact (discarded.trans (engineStep_takeCopies c.val _ _ _)).frame
    · rw [State.takeCopies_dmaOf, State.setDma_dmaOf_same]
    · rw [State.takeCopies_dmaOf, State.setDma_dmaOf_same]
end

section
/-! Sync counters, signals and barriers (R362-R380): an incoming addition, a signal taken, an arrival counted, a release applied. -/

namespace Sys2Proof.Machine

/-- A list that takes a number that it lacks holds it. -/
theorem contains_pushNew (l : List Nat) (n : Nat) : (if l.contains n then l else l ++ [n]).contains n = true := by
  split
  · assumption
  · simp

/-! ### A view put back (R366) -/

/-- A core that is settled differs in its idle report only (R380). -/
theorem SyncCore.eq_of_settled {c d : SyncCore} (settled : d = c.settleIdle) : d = { c with idle := d.idle } := by
  subst settled
  rfl

/-- A view put back reaches registers and the sync unit's cores. -/
theorem State.putView_frame (s : State) (k : Nat) (v : CoreView) :
    s.putView k v = { s with regs := (s.putView k v).regs, sync := (s.putView k v).sync } := (rfl)

theorem State.putView_sync (s : State) (k : Nat) (v : CoreView) :
    (s.putView k v).sync = { s.sync with cores := (s.putView k v).sync.cores } := (rfl)

theorem State.putView_syncOf_same (s : State) (k : Nat) (v : CoreView) : (s.putView k v).syncOf k = v.core.settleIdle :=
  State.setSync_syncOf_same s k _

theorem State.putView_syncOf_ne (s : State) (k j : Nat) (v : CoreView) (other : j ≠ k) : (s.putView k v).syncOf j = s.syncOf j :=
  State.setSync_syncOf_ne s k j _ other

theorem State.putView_reg (s : State) (k j : Nat) (v : CoreView) :
    (s.putView k v).reg j = if j = synKey k + 0x10 then v.err else if j = synKey k + 8 then v.flag else s.reg j := by
  simp only [State.putView, State.setReg_reg, State.setSync_reg]

/-- Two registers that are given the values that they have. -/
theorem State.reg_of_unchanged (s : State) (a b j : Nat) : (if j = a then s.reg a else if j = b then s.reg b else s.reg j) = s.reg j := by
  split
  · next h => rw [h]
  · split
    · next h => rw [h]
    · rfl

/-! ### Incoming additions (R362) -/

section
variable {v : CoreView} {n x : Nat}

theorem CoreView.incoming_fits (fits : v.core.val n + x ≤ 65535) :
    v.incoming n x = ({ v with core := v.core.setVal n (v.core.val n + x) }, false) := by
  simp only [CoreView.incoming, fits, if_true]

theorem CoreView.incoming_saturates (above : 65535 < v.core.val n + x) (lax : v.mode.getLsbD n = false) :
    v.incoming n x = ({ v with core := v.core.setVal n 65535, flag := setBitW v.flag n }, false) := by
  simp only [CoreView.incoming, Nat.not_le.mpr above, if_false, lax, Bool.false_eq_true]

theorem CoreView.incoming_error (above : 65535 < v.core.val n + x) (strict : v.mode.getLsbD n = true) :
    v.incoming n x = ({ v with
      core := { v.core.setVal n 65535 with pend := if v.core.pend.contains n then v.core.pend else v.core.pend ++ [n] }
      flag := setBitW v.flag n, err := errWord n 3 true 0 }, true) := by
  simp only [CoreView.incoming, Nat.not_le.mpr above, if_false, strict, if_true]
  rfl

end

/-! ### Flags of a cell (R570, R583) -/

/-- A cell's flags stand apart from their counters. -/
theorem cstatHome_apart (c b : Nat) (hb : b < 64) : (cstatHome c b).key ≠ (cstatHome c b).cntKey ∧ (cstatHome c b).bitNo < 64 := by
  refine ⟨?_, hb⟩
  simp only [cstatHome]
  omega

/-- A cell's SYN registers stand apart from its flags. -/
theorem synBase_notMem_keys {c : Nat} (b o : Nat) (inside : c < 480) (hb : b < 64) : synBase c + o ∉ (cstatHome c b).keys := by
  simp only [FlagHome.keys, cstatHome, synBase, cellBase, irqDBase, dieBase, List.mem_cons, List.not_mem_nil, or_false]
  omega

theorem State.raiseC_raised (s : State) (c b : Nat) (hb : b < 64) : OnlyRaised [] (cstatHome c b) s (s.raiseC c b) :=
  onlyRaised s (cstatHome c b) (cstatHome_apart c b hb).1 hb

/-- Registers written, and then a flag of a cell raised. -/
theorem OnlyRegs.raiseC {s u : State} {keys : List Nat} (only : OnlyRegs keys s u) (c b : Nat) (hb : b < 64) :
    OnlyRaised keys (cstatHome c b) s (u.raiseC c b) := by
  obtain ⟨shape, others⟩ := only
  obtain ⟨raised, other, flag⟩ := u.raiseC_raised c b hb
  refine ⟨?_, fun k hk => ?_, flag⟩
  · rw [raised, shape]
  · obtain ⟨out, off⟩ := not_or.mp fun h => hk (List.mem_append.mpr h)
    exact (other k off).trans (others k out)

/-- A signal or release dropped is counted, with its event (R366, R375). -/
theorem State.recvDropped_raised (s : State) (cell : Nat) :
    OnlyRaised [synBase cell + 0x108] (cstatHome cell 7) s (s.recvDropped cell) :=
  (putF_putF_onlyRegs s _ _ _ _ _ _ _ rfl).1.raiseC cell 7 (by decide)

/-- A signal lost is counted, with its event (R367). -/
theorem State.sentLost_raised (s : State) (cell : Nat) : OnlyRaised [synBase cell + 0x108] (cstatHome cell 7) s (s.sentLost cell) :=
  (putF_putF_onlyRegs s _ _ _ _ _ _ _ rfl).1.raiseC cell 7 (by decide)

/-- A signal lost adds 1 to its cell's saturating count (R367). -/
theorem State.sentLost_count (s : State) {cell : Nat} (inside : cell < 480) :
    (s.sentLost cell).getF ⟨synBase cell + 0x108, 0, 16⟩ = satAdd (s.getF ⟨synBase cell + 0x108, 0, 16⟩) 1 16 := by
  obtain ⟨-, others, -⟩ :=
    ((s.addF ⟨synBase cell + 0x108, 0, 16⟩ 1).putF ⟨synBase cell + 0x108, 32, 1⟩ 1).raiseC_raised cell 7 (by decide)
  have apart : 0 + 16 ≤ 32 := by decide
  have fits : 0 + 16 ≤ 64 := by decide
  have small : satAdd (s.getF ⟨synBase cell + 0x108, 0, 16⟩) 1 16 < 2 ^ 16 := lt_of_le_of_lt (Nat.min_le_right _ _) (by decide)
  rw [State.sentLost, others.getF (synBase_notMem_keys 7 0x108 inside (by decide)), State.putF_getF_ne _ _ _ _ (.inr (.inl apart)),
    State.addF, State.putF_getF_same _ _ _ fits, Nat.mod_eq_of_lt small]

/-! ### Signals (R366, R367) -/

/-- A signal is no longer on its way. -/
def State.takenOff (s : State) (g : Signal) : State := { s with sync := { s.sync with signals := s.sync.signals.erase g } }

/-- An answer to a cell is on its way. -/
def State.answerTo (s : State) (a : Nat × Bool) : State := { s with sync := { s.sync with answers := s.sync.answers ++ [a] } }

@[simp] theorem State.takenOff_syncOf (s : State) (g : Signal) (j : Nat) : (s.takenOff g).syncOf j = s.syncOf j := (rfl)
@[simp] theorem State.takenOff_reg (s : State) (g : Signal) (j : Nat) : (s.takenOff g).reg j = s.reg j := (rfl)
@[simp] theorem State.answerTo_syncOf (s : State) (a : Nat × Bool) (j : Nat) : (s.answerTo a).syncOf j = s.syncOf j := (rfl)
@[simp] theorem State.answerTo_reg (s : State) (a : Nat × Bool) (j : Nat) : (s.answerTo a).reg j = s.reg j := (rfl)

theorem State.raiseC_answerTo (s : State) (c b : Nat) (a : Nat × Bool) : (s.raiseC c b).answerTo a = (s.answerTo a).raiseC c b := (rfl)

section
variable {s : State} {g : Signal}

/-- A signal to a live core of its partition is an incoming addition there. -/
theorem State.takeSignal_live (up : s.cellDown (coreCell g.target) = false) (unsaved : s.savedSync (coreCell g.target) g.stamp.val = none)
    (own : s.cellPart (coreCell g.target) = g.stamp.val) {v : CoreView} {error : Bool}
    (takes : (s.coreView (coreKey g.target)).incoming g.sn.val g.value.toNat = (v, error)) :
    s.takeSignal g = (if error then (s.putView (coreKey g.target) v).raiseC (coreCell g.target) 6 else s.putView (coreKey g.target) v,
      false) := by
  simp only [State.takeSignal, up, unsaved, own, takes, Bool.false_eq_true, if_false, if_true]

theorem State.takeSignal_down (down : s.cellDown (coreCell g.target) = true) : s.takeSignal g = (s, true) := by
  simp only [State.takeSignal, down, if_true]

/-- A signal that finds its cell bound to another partition is dropped and counted there. -/
theorem State.takeSignal_foreign (up : s.cellDown (coreCell g.target) = false)
    (unsaved : s.savedSync (coreCell g.target) g.stamp.val = none) (foreign : s.cellPart (coreCell g.target) ≠ g.stamp.val) :
    s.takeSignal g = (s.recvDropped (coreCell g.target), true) := by
  simp only [State.takeSignal, up, unsaved, foreign, Bool.false_eq_true, if_false]

theorem exec_signalReceive (first : s.signalFirst g = true) {u : State} {down : Bool} (taken : (s.takenOff g).takeSignal g = (u, down)) :
    exec (.signalReceive g) s = .next (u.answerTo (coreCell g.sender, down)) := by
  change execSignalReceive g s = _
  simp only [execSignalReceive, when, first, if_true]
  rw [show State.takeSignal { s with sync := { s.sync with signals := s.sync.signals.erase g } } g = (u, down) from taken]
  rfl

/-- A signal to a live core of its partition that raises no error (R366). -/
theorem exec_signalReceive_added (first : s.signalFirst g = true) (up : s.cellDown (coreCell g.target) = false)
    (unsaved : s.savedSync (coreCell g.target) g.stamp.val = none) (own : s.cellPart (coreCell g.target) = g.stamp.val) {v : CoreView}
    (takes : (s.coreView (coreKey g.target)).incoming g.sn.val g.value.toNat = (v, false)) :
    exec (.signalReceive g) s = .next (((s.takenOff g).putView (coreKey g.target) v).answerTo (coreCell g.sender, false)) :=
  exec_signalReceive first (State.takeSignal_live (s := s.takenOff g) up unsaved own (error := false) takes)

/-- A signal to a live core of its partition whose addition is an error: its event is raised (R362). -/
theorem exec_signalReceive_error (first : s.signalFirst g = true) (up : s.cellDown (coreCell g.target) = false)
    (unsaved : s.savedSync (coreCell g.target) g.stamp.val = none) (own : s.cellPart (coreCell g.target) = g.stamp.val) {v : CoreView}
    (takes : (s.coreView (coreKey g.target)).incoming g.sn.val g.value.toNat = (v, true)) :
    exec (.signalReceive g) s =
      .next ((((s.takenOff g).putView (coreKey g.target) v).answerTo (coreCell g.sender, false)).raiseC (coreCell g.target) 6) :=
  (exec_signalReceive first (State.takeSignal_live (s := s.takenOff g) up unsaved own (error := true) takes)).trans
    (congrArg _ (State.raiseC_answerTo _ _ _ _))

/-- A signal to a cell of another partition is dropped there, and its answer is on its way (R366). -/
theorem exec_signalReceive_foreign (first : s.signalFirst g = true) (up : s.cellDown (coreCell g.target) = false)
    (unsaved : s.savedSync (coreCell g.target) g.stamp.val = none) (foreign : s.cellPart (coreCell g.target) ≠ g.stamp.val) :
    exec (.signalReceive g) s = .next (((s.takenOff g).recvDropped (coreCell g.target)).answerTo (coreCell g.sender, true)) :=
  exec_signalReceive first (State.takeSignal_foreign (s := s.takenOff g) up unsaved foreign)

end

/-- What the answer of a signal adds to what its sync unit has changed. -/
theorem answerTo_frame {s u t : State} (g : Signal) {a : Nat × Bool} (frame : u = { s.takenOff g with regs := u.regs, sync := u.sync })
    (sync : u.sync = { (s.takenOff g).sync with cores := u.sync.cores }) (ht : t = u.answerTo a) :
    t = { s with regs := t.regs, sync := t.sync } ∧
    t.sync = { s.sync with cores := t.sync.cores, signals := s.sync.signals.erase g, answers := s.sync.answers ++ [a] } := by
  subst ht
  exact ⟨congrArg (State.answerTo · a) frame, congrArg (fun y : SyncState => { y with answers := y.answers ++ [a] }) sync⟩

/-- What the answer of a signal adds to a drop counted at its cell. -/
theorem answerTo_dropped {s u t : State} (g : Signal) {keys : List Nat} {h : FlagHome} {a : Nat × Bool}
    (dropped : OnlyRaised keys h (s.takenOff g) u) (ht : t = u.answerTo a) :
    t = { s with regs := t.regs, irq := { s.irq with routed := t.irq.routed }, sync := { s.sync with
      signals := s.sync.signals.erase g, answers := s.sync.answers ++ [a] } } ∧ OtherRegs (keys ++ h.keys) s t := by
  subst ht
  obtain ⟨shape, others, -⟩ := dropped
  exact ⟨congrArg (State.answerTo · a) shape, others⟩

/-- What a view put back by the oldest signal of its source leaves: its core, the two registers of the view, and the answer on its way. -/
theorem signalTaken_shape (s : State) (g : Signal) (k : Nat) (v : CoreView) (a : Nat × Bool) {t : State}
    (ht : t = ((s.takenOff g).putView k v).answerTo a) :
    t = { s with regs := t.regs, sync := t.sync } ∧
    t.sync = { s.sync with cores := t.sync.cores, signals := s.sync.signals.erase g, answers := s.sync.answers ++ [a] } ∧
    (∀ j, j ≠ k → t.syncOf j = s.syncOf j) ∧ t.syncOf k = v.core.settleIdle ∧
    ∀ j, t.reg j = if j = synKey k + 0x10 then v.err else if j = synKey k + 8 then v.flag else s.reg j := by
  obtain ⟨frame, sync⟩ := answerTo_frame g ((s.takenOff g).putView_frame k v) ((s.takenOff g).putView_sync k v) ht
  refine ⟨frame, sync, fun j other => ?_, ?_, fun j => ?_⟩
  · rw [ht, State.answerTo_syncOf, State.putView_syncOf_ne _ _ _ _ other, State.takenOff_syncOf]
  · rw [ht, State.answerTo_syncOf, State.putView_syncOf_same]
  · rw [ht, State.answerTo_reg, State.putView_reg, State.takenOff_reg]

/-- What an addition that is an error leaves besides: its event (R362). -/
theorem signalError_shape (s : State) (g : Signal) (k : Nat) (v : CoreView) (a : Nat × Bool) (cell : Nat) {t : State}
    (ht : t = (((s.takenOff g).putView k v).answerTo a).raiseC cell 6) :
    t = { s with regs := t.regs, sync := t.sync, irq := { s.irq with routed := t.irq.routed } } ∧
    OtherRegs ([synKey k + 8, synKey k + 0x10] ++ (cstatHome cell 6).keys) s t ∧
    t.getB ⟨(cstatHome cell 6).key, 6, 1⟩ = true ∧ t.syncOf k = v.core.settleIdle ∧ ∀ j, j ≠ k → t.syncOf j = s.syncOf j := by
  have reached := signalTaken_shape s g k v a rfl
  generalize ((s.takenOff g).putView k v).answerTo a = u at ht reached
  obtain ⟨frame, -, others, core, regs⟩ := reached
  have same (j : Nat) : t.syncOf j = u.syncOf j := by
    rw [ht]
    rfl
  obtain ⟨raised, kept, flag⟩ := u.raiseC_raised cell 6 (by decide)
  rw [← ht] at raised kept flag
  refine ⟨?_, fun j off => ?_, flag, (same k).trans core, fun j other => (same j).trans (others j other)⟩
  · rw [raised, frame]
  · obtain ⟨out, off⟩ := not_or.mp fun h => off (List.mem_append.mpr h)
    obtain ⟨flagOff, out⟩ := List.ne_and_not_mem_of_not_mem_cons out
    rw [kept j off, regs, if_neg (List.ne_of_not_mem_cons out), if_neg flagOff]

section
variable {c : Fin 480} {s : State}

/-- An answer has arrived at the cell that waited for it. -/
def State.answerTaken (s : State) (a : Nat × Bool) : State := { s with sync := { s.sync with answers := s.sync.answers.erase a } }

theorem exec_signalCompletion_ok (arrived : s.sync.answers.contains (c.val, false) = true) :
    exec (.signalCompletion c false) s = .next (s.answerTaken (c.val, false)) := congrArg _ (if_pos arrived)

theorem exec_signalCompletion_down (arrived : s.sync.answers.contains (c.val, true) = true) :
    exec (.signalCompletion c true) s = .next ((s.answerTaken (c.val, true)).sentLost c.val) := congrArg _ (if_pos arrived)

end

/-! ### Arrivals at a node (R371-R373) -/

/-- An arrival is no longer on its way. -/
def State.arrived (s : State) (a : BarNode × Nat × BitVec 10 × BitVec 2) : State :=
  { s with sync := { s.sync with arrivals := s.sync.arrivals.erase a } }

/-- A node's entry has a count for a generation. -/
def State.setNodeCount (s : State) (key : Nat) (e : NodeEntry) (gen : BitVec 2) (n : Nat) : State :=
  { s with sync := { s.sync with nodes := mset none s.sync.nodes key (some { e with counts := mset 0 e.counts gen.toNat n }) } }

section
variable {s : State} {h part bid : Nat} {gen : BitVec 2} {cfg : BarCfg} {e : NodeEntry}
  (configured : s.barCfg part bid = some cfg) (entry : mget none s.sync.nodes (nodeKey part bid h) = some e)
include configured entry

theorem State.nodeCount_counted (waits : mget 0 e.counts gen.toNat + 1 < e.expected) :
    s.nodeCount h part bid gen = (s.setNodeCount (nodeKey part bid h) e gen (mget 0 e.counts gen.toNat + 1), .counted) := by
  simp only [State.nodeCount, configured, entry, waits, if_true]
  rfl

/-- The last arrival clears the count and goes on to the parent. -/
theorem State.nodeCount_up {up : Nat} (full : e.expected ≤ mget 0 e.counts gen.toNat + 1) (parent : parentOf cfg.scope h = some up) :
    s.nodeCount h part bid gen = (s.setNodeCount (nodeKey part bid h) e gen 0, .up up) := by
  simp only [State.nodeCount, configured, entry, Nat.not_lt.mpr full, if_false, parent]
  rfl

/-- At the root of a barrier of one module, the last arrival clears the count and releases. -/
theorem State.nodeCount_release (full : e.expected ≤ mget 0 e.counts gen.toNat + 1) (root : parentOf cfg.scope h = none)
    (oneModule : cfg.scope ≠ 3) : s.nodeCount h part bid gen = (s.setNodeCount (nodeKey part bid h) e gen 0, .release) := by
  simp only [State.nodeCount, configured, entry, Nat.not_lt.mpr full, if_false, root, oneModule]
  rfl

end

/-- The state once a node has done with an arrival what its count asks for (R373). -/
def State.afterArrival (u : State) (part : Nat) (bid : BitVec 10) (gen : BitVec 2) (out : NodeOut) : State :=
  match out with
  | .counted => u
  | .up h => { u with sync := { u.sync with arrivals := u.sync.arrivals ++ [(nodeOf h, part, bid, gen)] } }
  | .release => u.releaseAll part bid.toNat gen
  | .fabric => u.sendArrive part bid.toNat gen

theorem exec_barrierNodeArrival {s u : State} {node : BarNode} {part : Fin 16} {bid : BitVec 10} {gen : BitVec 2} {out : NodeOut}
    (arrives : s.sync.arrivals.contains (node, part.val, bid, gen) = true)
    (counts : (s.arrived (node, part.val, bid, gen)).nodeCount (nodeNo node) part.val bid.toNat gen = (u, out)) :
    exec (.barrierNodeArrival node part bid gen) s = .next (u.afterArrival part.val bid gen out) := by
  change execBarrierNodeArrival node part bid gen s = _
  rw [State.arrived] at counts
  simp only [execBarrierNodeArrival, when, arrives, if_true, counts]
  cases out <;> rfl

/-- A release leaves for every participant (R373). -/
theorem State.releaseAll_eq {s : State} {part : Nat} {bid : BitVec 10} {cfg : BarCfg} (gen : BitVec 2)
    (configured : s.barCfg part bid.toNat = some cfg) :
    s.releaseAll part bid.toNat gen = { s with sync := { s.sync with
      releases := s.sync.releases ++ cfg.cores.map (fun b => (coreKey (bitCore b), part, bid, gen)) } } := by
  simp only [State.releaseAll, configured, BitVec.ofNat_toNat, BitVec.setWidth_eq]

end Sys2Proof.Machine

open Sys2Proof Sys2Proof.Machine

/-- Settles O23: a signal taken is an incoming addition to its core's view (`signalTaken_shape`, `signalError_shape`), one that is not taken
is counted where it is dropped (`answerTo_dropped`) or lost (`State.sentLost_count`), and an arrival is counted at its node
(`State.nodeCount_counted` and the lemmas beside it). -/
theorem signalsAndBarrierNodesComplete : Obligations.SignalsAndBarrierNodesComplete := by
  unfold Obligations.SignalsAndBarrierNodesComplete
  refine ⟨⟨fun g s cell k v first hcell hk hv up unsaved own => ?live, fun g s first down => ?down,
    fun g s cell first hcell up unsaved foreign => ?foreign, fun c s arrived => ?done, fun c s arrived => ?lost⟩,
    fun node part bid gen s cfg e n key arrives configured hkey entry hn => ?node⟩
  case live =>
    subst hcell hk hv
    refine ⟨fun fits => ?fits, fun above lax => ?saturates, fun above strict inside => ?error⟩
    case fits =>
      have takes := CoreView.incoming_fits (v := s.coreView (coreKey g.target)) fits
      refine ⟨_, exec_signalReceive_added first up unsaved own takes, ?_⟩
      obtain ⟨shape, sync, others, core, regs⟩ := signalTaken_shape s g _ _ _ rfl
      refine ⟨shape, fun key => ?_, sync, others, ?_⟩
      · rw [regs]
        exact s.reg_of_unchanged _ _ key
      · exact SyncCore.eq_of_settled core
    case saturates =>
      have takes := CoreView.incoming_saturates (v := s.coreView (coreKey g.target)) above lax
      refine ⟨_, exec_signalReceive_added first up unsaved own takes, ?_⟩
      obtain ⟨shape, -, others, core, regs⟩ := signalTaken_shape s g _ _ _ rfl
      refine ⟨shape, fun j off => ?_, ?_, others, SyncCore.eq_of_settled core⟩
      · rw [regs, if_neg (List.ne_of_not_mem_cons off)]
        exact ite_eq_right_iff.mpr fun h => h ▸ rfl
      · rw [regs, if_neg (by omega), if_pos rfl]
        rfl
    case error =>
      have takes := CoreView.incoming_error (v := s.coreView (coreKey g.target)) above strict
      refine ⟨_, exec_signalReceive_error first up unsaved own takes, ?_⟩
      obtain ⟨shape, regs, flag, core, others⟩ := signalError_shape s g _ _ _ _ rfl
      refine ⟨shape, regs, flag, ?_, ?_, others⟩
      · rw [core]
        exact (SyncCore.setVal_val (s.syncOf (coreKey g.target)) g.sn.val 65535 g.sn.val (by decide)).trans (if_pos rfl)
      · rw [core]
        exact contains_pushNew _ _
  case down => exact ⟨_, exec_signalReceive first (State.takeSignal_down (s := s.takenOff g) down), rfl⟩
  case foreign =>
    subst hcell
    exact ⟨_, exec_signalReceive_foreign first up unsaved foreign, answerTo_dropped g ((s.takenOff g).recvDropped_raised _) rfl⟩
  case done => exact ⟨_, exec_signalCompletion_ok arrived, rfl⟩
  case lost =>
    have run := exec_signalCompletion_down arrived
    have counted := (s.answerTaken (c.val, true)).sentLost_raised c.val
    have count := State.sentLost_count (s.answerTaken (c.val, true)) c.isLt
    generalize (s.answerTaken (c.val, true)).sentLost c.val = t at run counted count
    obtain ⟨shape, others, flag⟩ := counted
    exact ⟨_, run, shape, others, count, flag⟩
  case node =>
    subst hkey hn
    have held : mget none (s.arrived (node, part.val, bid, gen)).sync.nodes (nodeKey part.val bid.toNat (nodeNo node)) = some e := entry
    have barrier : (s.arrived (node, part.val, bid, gen)).barCfg part.val bid.toNat = some cfg := configured
    exact ⟨fun waits => ⟨_, exec_barrierNodeArrival arrives (State.nodeCount_counted barrier held waits), rfl⟩,
      fun full up parent => ⟨_, exec_barrierNodeArrival arrives (State.nodeCount_up barrier held full parent), rfl⟩,
      fun full root oneModule => ⟨_, exec_barrierNodeArrival arrives (State.nodeCount_release barrier held full root oneModule),
        State.releaseAll_eq gen configured⟩⟩
end

section
/-! Releases of barriers, idle reports and hung rounds (R375, R378, R380). -/

namespace Sys2Proof.Machine

/-! ### Releases (R375) -/

/-- A core once an open entry of a barrier is released, before the release is counted. -/
def SyncCore.closeEntry (c : SyncCore) (bid : Nat) (b : BarPart) (e : BitVec 2 × Nat) (g : BitVec 2) : SyncCore :=
  { c with
    bars := mset none c.bars bid (some { b with entries := b.entries.erase e })
    hung := c.hung.filter (fun h => h != (bid, g))
    stall := if c.stall = some bid then none else c.stall }

theorem CoreView.release_of_open {v : CoreView} {bid : Nat} {g : BitVec 2} {b : BarPart} {e : BitVec 2 × Nat}
    (bar : mget none v.core.bars bid = some b) (found : b.entries.find? (fun e => e.1 == g) = some e) (room : v.core.val e.2 < 65535) :
    v.release bid g = ({ v with core := (v.core.closeEntry bid b e g).setVal e.2 (v.core.val e.2 + 1) }, true, false) := by
  have counts := CoreView.incoming_fits (v := { v with core := v.core.closeEntry bid b e g }) (n := e.2) (x := 1) room
  unfold SyncCore.closeEntry at counts
  simp only [CoreView.release, bar, found, counts]
  rfl

/-- A release is no longer on its way. -/
def State.releaseTaken (s : State) (r : Nat × Nat × BitVec 10 × BitVec 2) : State :=
  { s with sync := { s.sync with releases := s.sync.releases.erase r } }

@[simp] theorem State.releaseTaken_syncOf (s : State) (r : Nat × Nat × BitVec 10 × BitVec 2) (j : Nat) :
    (s.releaseTaken r).syncOf j = s.syncOf j := (rfl)
@[simp] theorem State.releaseTaken_reg (s : State) (r : Nat × Nat × BitVec 10 × BitVec 2) (j : Nat) :
    (s.releaseTaken r).reg j = s.reg j := (rfl)

section
variable {s : State} {k part bid : Nat} {g : BitVec 2}

/-- A release of an open entry of a live core puts the released view back. -/
theorem State.applyRelease_live (unsaved : s.savedSync (k / 5) part = none) (own : s.cellPart (k / 5) = part) {v : CoreView}
    (releases : (s.coreView k).release bid g = (v, true, false)) : s.applyRelease k part bid g = s.putView k v := by
  simp only [State.applyRelease, unsaved, own, releases, if_true, Bool.false_eq_true, if_false]

end

theorem exec_barrierReleaseApply {s : State} {core : CoreName} {part : Fin 16} {bid : BitVec 10} {gen : BitVec 2}
    (first : s.releaseFirst (coreKey core) part.val bid gen = true) : exec (.barrierReleaseApply core part bid gen) s =
      .next ((s.releaseTaken (coreKey core, part.val, bid, gen)).applyRelease (coreKey core) part.val bid.toNat gen) :=
  congrArg _ (if_pos first)

/-- What a release of an open entry leaves: its core, and nothing on its way of the release. -/
theorem releaseApplied_shape (s : State) (r : Nat × Nat × BitVec 10 × BitVec 2) (k : Nat) (c : SyncCore) {t : State}
    (ht : t = (s.releaseTaken r).putView k { s.coreView k with core := c }) :
    t = { s with regs := t.regs, sync := { s.sync with releases := s.sync.releases.erase r, cores := t.sync.cores } } ∧
    (∀ key, t.reg key = s.reg key) ∧ (∀ j, j ≠ k → t.syncOf j = s.syncOf j) ∧ t.syncOf k = c.settleIdle := by
  have frame := (s.releaseTaken r).putView_frame k { s.coreView k with core := c }
  have sync := (s.releaseTaken r).putView_sync k { s.coreView k with core := c }
  rw [← ht] at frame sync
  refine ⟨?_, fun key => ?_, fun j other => ?_, ?_⟩
  · rw [frame, sync]
    rfl
  · rw [ht, State.putView_reg, State.releaseTaken_reg]
    exact s.reg_of_unchanged _ _ key
  · rw [ht, State.putView_syncOf_ne _ _ _ _ other, State.releaseTaken_syncOf]
  · rw [ht, State.putView_syncOf_same]

/-! ### Idle reports and hung rounds (R378, R380) -/

section
variable {s : State} {core : CoreName}

theorem exec_idleReport (real : coreExists core = true) (waits : s.coreWaits core = true)
    (threshold : s.getF ⟨synBase (coreCell core) + 0x100, 0, 16⟩ ≠ 0) :
    exec (.idleReport core) s = .next (s.setSync (coreKey core) { s.syncOf (coreKey core) with idle := true }) := by
  have reported : (coreExists core && s.coreWaits core && decide (s.getF ⟨synBase (coreCell core) + 0x100, 0, 16⟩ ≠ 0)) = true := by
    rw [real, waits, decide_eq_true threshold]
    rfl
  exact congrArg _ (if_pos reported)

variable {bid : BitVec 10} {g : BitVec 2} (opened : s.openRound core bid.toNat = some g)
include opened

theorem exec_syncHang_first (threshold : s.getF ⟨synBase (coreCell core) + 0x100, 16, 16⟩ ≠ 0)
    (fresh : (s.syncOf (coreKey core)).hung.contains (bid.toNat, g) = false) :
    exec (.syncHang core bid) s = .next ((s.setSync (coreKey core) { s.syncOf (coreKey core) with
      hung := (s.syncOf (coreKey core)).hung ++ [(bid.toNat, g)] }).raiseC (coreCell core) 8) := by
  change execSyncHang core bid s = _
  simp only [execSyncHang, opened, fresh, decide_eq_false threshold, Bool.or_self, Bool.false_eq_true, if_false]

theorem exec_syncHang_again (told : (s.syncOf (coreKey core)).hung.contains (bid.toNat, g) = true) :
    exec (.syncHang core bid) s = .next s := by
  change execSyncHang core bid s = _
  simp only [execSyncHang, opened, told, Bool.or_true, if_true]

end

/-- A core's sync state written, and a flag of a cell raised. -/
theorem setSync_raiseC (s : State) (k : Nat) (x : SyncCore) (cell b : Nat) (hb : b < 64) {t : State}
    (ht : t = (s.setSync k x).raiseC cell b) :
    t = { s with regs := t.regs, irq := { s.irq with routed := t.irq.routed }, sync := { s.sync with cores := t.sync.cores } } ∧
    OtherRegs (cstatHome cell b).keys s t ∧ t.getB ⟨(cstatHome cell b).key, b, 1⟩ = true ∧
    (∀ j, j ≠ k → t.syncOf j = s.syncOf j) ∧ t.syncOf k = x := by
  obtain ⟨raised, kept, flag⟩ := (s.setSync k x).raiseC_raised cell b hb
  have same (j : Nat) : t.syncOf j = (s.setSync k x).syncOf j := by
    rw [ht]
    rfl
  rw [← ht] at raised kept flag
  refine ⟨?_, kept, flag, fun j other => (same j).trans (State.setSync_syncOf_ne s k j x other),
    (same k).trans (State.setSync_syncOf_same s k x)⟩
  rw [raised]
  rfl

end Sys2Proof.Machine

open Sys2Proof Sys2Proof.Machine

/-- Settles O24: a release closes its entry and is an incoming addition of 1 (`CoreView.release_of_open`), whose core is put back
(`releaseApplied_shape`); an idle report is one write of a core; a hung round is recorded with its event (`setSync_raiseC`). -/
theorem releasesIdleReportsAndHangs : Obligations.ReleasesIdleReportsAndHangs := by
  unfold Obligations.ReleasesIdleReportsAndHangs
  refine ⟨fun core part bid gen s k b e hk first unsaved own bar found room => ?release,
    fun core s real waits threshold => ?idle, fun core bid s g k hk opened threshold => ?hang⟩
  case release =>
    subst hk
    have releases := CoreView.release_of_open (v := s.coreView (coreKey core)) bar found room
    have applied := State.applyRelease_live (s := s.releaseTaken (coreKey core, part.val, bid, gen)) unsaved own releases
    obtain ⟨shape, regs, others, released⟩ := releaseApplied_shape s (coreKey core, part.val, bid, gen) (coreKey core) _ applied
    exact ⟨_, exec_barrierReleaseApply first, shape, regs, others, SyncCore.eq_of_settled released⟩
  case idle =>
    exact ⟨_, exec_idleReport real waits threshold, rfl, fun j other => State.setSync_syncOf_ne s _ j _ other,
      State.setSync_syncOf_same s _ _⟩
  case hang =>
    subst hk
    exact ⟨fun fresh => ⟨_, exec_syncHang_first opened threshold fresh, setSync_raiseC s _ _ _ 8 (by decide) rfl⟩,
      exec_syncHang_again opened⟩
end

section
/-! Commands of rings on bulk engines, barriers, reductions and updates (R369, R370, R444-R455, R466, R474-R488, R509, R513). -/

namespace Sys2Proof.Machine

/-! ### What running a command leaves (R507, R508) -/

section
variable {s u : State} {src : CmdSrc} {c : Cmd} {op : Nat} {used : List (Nat × Nat)} {mine : Bool} {act : State → CmdDo} {i : Instr}

theorem State.runCmd_run (ready : CmdReady src c op used s) (own : mine = true) (does : act s = .run u) :
    s.runCmd src c mine used act = .next (u.markStarted src c) := by
  obtain ⟨-, may, clean⟩ := ready
  simp only [State.runCmd, when, own, may, clean, does, Bool.and_self, if_true, Bool.not_true, Bool.false_eq_true, if_false]

theorem State.runCmd_done {status result : Nat} (ready : CmdReady src c op used s) (own : mine = true)
    (does : act s = .done u status result) : s.runCmd src c mine used act = .next (u.complete src c false status result) := by
  obtain ⟨-, may, clean⟩ := ready
  simp only [State.runCmd, when, own, may, clean, does, Bool.and_self, if_true, Bool.not_true, Bool.false_eq_true, if_false]

theorem runCmd_starts (runs : exec i s = s.runCmd src c mine used act) (ready : CmdReady src c op used s) (own : mine = true)
    (does : act s = .run u) : ∃ t, exec i s = .next t ∧ Starts src c u t :=
  ⟨_, runs.trans (State.runCmd_run ready own does), starts u src c⟩

theorem runCmd_completes {status result : Nat} (runs : exec i s = s.runCmd src c mine used act) (ready : CmdReady src c op used s)
    (own : mine = true) (does : act s = .done u status result) :
    ∃ t, exec i s = .next t ∧ Completes src c false status result u t :=
  ⟨_, runs.trans (State.runCmd_done ready own does), completes u src c false status result⟩

/-- A command of the bulk engines starts, and its engine begins to work (R513). -/
theorem runCmd_kicks (runs : exec i s = kicked (s.runCmd src c mine used act) src c) (ready : CmdReady src c op used s)
    (own : mine = true) (does : act s = .run u) :
    ∃ t, exec i s = .next t ∧ t = (u.markStarted src c).bulkKick (.cmd src c) :=
  ⟨_, runs.trans (congrArg (kicked · src c) (State.runCmd_run ready own does)), rfl⟩

theorem State.withRecord_of_bytes {va n : Nat} {bs : List Byte} {act : State → List Byte → CmdDo}
    (read : s.cmdRead src c va n = .bytes u bs) : s.withRecord src c va n act = act u bs := by
  simp only [State.withRecord, read]

/-- The read of a record changes no binding. -/
theorem State.srcPart_of_cmdRead {va n : Nat} {bs : List Byte} (read : s.cmdRead src c va n = .bytes u bs) (x : CmdSrc) :
    u.srcPart x = s.srcPart x := by
  obtain ⟨frame, -⟩ := vaStep_vRead s (frontUnit (s.srcPart src)) (cmdCtx c) (s.srcPart src) va n .read (some (.command (srcKey src)))
  unfold State.cmdRead at read
  dsimp only at read
  split at read
  · cases read
  · split at read <;> cases read
    rw [frame]
    rfl

end

/-! ### The job that UPDJOB starts (R473, R478) -/

theorem State.startCe_jobs (s : State) (e p : Nat) : (s.startCe e p).cellar.jobs = s.cellar.jobs := by
  unfold State.startCe
  split
  · rfl
  · split <;> rfl

/-- An engine that an entry of a job names has an entry in it. -/
theorem mem_engines {j : UpdJob} {x : BitVec 1024} (entry : x ∈ j.entries) (named : entCe x.toNat < 12) : entCe x.toNat ∈ j.engines :=
  List.mem_filter.mpr ⟨List.mem_range.mpr named, List.any_eq_true.mpr ⟨x, entry, beq_self_eq_true _⟩⟩

/-- A field of a number is kept in a word that is long enough for it. -/
theorem bits_ofNat (v : Nat) {lo len w : Nat} (inside : lo + len ≤ w) : bits (BitVec.ofNat w v).toNat lo len = bits v lo len := by
  apply Nat.eq_of_testBit_eq
  intro i
  simp only [bits_testBit, BitVec.toNat_ofNat, Nat.testBit_mod_two_pow]
  by_cases h : i < len
  · simp [h, show lo + i < w by omega]
  · simp [h]

/-- An entry names the same engine in the word that its job holds. -/
theorem entCe_ofNat_lt {e : Nat} (named : recB e 1 1 < 12) : entCe (BitVec.ofNat 1024 e).toNat < 12 := by
  rw [entCe, recB, bits_ofNat e (by decide)]
  exact lt_of_le_of_lt (Nat.mod_le _ _) named

/-- A new job without statistics joins the jobs with its entries, none of its engines finished (R478). -/
theorem jobStart_jobs {s : State} {src : CmdSrc} {c : Cmd} {r red prog : Nat} {es hs : List (List Byte)} (quiet : bit (recB r 0 4) 0 = false)
    (new : bit (recB r 0 4) 2 = false) :
    ∃ j, (s.jobStart src c r red es hs prog).cellar.jobs = s.cellar.jobs ++ [j] ∧ j.finished = [] ∧
      j.entries = es.map (fun b => BitVec.ofNat 1024 (ofLE b)) := by
  unfold State.jobStart
  dsimp only
  rw [quiet]
  refine ⟨_, forEach_induction (P := fun t : State => t.cellar.jobs = _) _ rfl fun t e ht => (t.startCe_jobs e _).trans ht, ?_, rfl⟩
  simp only [new, Bool.false_eq_true, if_false]

/-- UPDJOB of a new job without statistics whose table is sound starts it. -/
theorem jobCheck_starts {s : State} {src : CmdSrc} {c : Cmd} {r : Nat} {es hs : List (List Byte)} (quiet : bit (recB r 0 4) 0 = false)
    (new : bit (recB r 0 4) 2 = false) (nonempty : es ≠ [])
    (sound : ∀ b ∈ es, recB (ofLE b) 1 1 < 12 ∧ mget 0 s.cellar.weights (16 * recB (ofLE b) 1 1 + s.srcPart src) ≠ 0 ∧
      s.entryBad r 0 (hs.map (fun b => BitVec.ofNat 256 (ofLE b))) (s.srcPart src) (ofLE b) = false)
    (sets : ∀ b ∈ hs, hsetBad (BitVec.ofNat 256 (ofLE b)).toNat = false) :
    s.jobCheck src c r es hs 0 0 = .run (s.jobStart src c r 0 es hs 0) := by
  have weighted : (es.map ofLE).any (fun e => decide (recB e 1 1 < 12) && mget 0 s.cellar.weights (16 * recB e 1 1 + s.srcPart src) == 0) =
      false := by
    simp only [List.any_map, List.any_eq_false, Function.comp_apply, Bool.and_eq_true, beq_iff_eq, not_and]
    exact fun b hb _ => (sound b hb).2.1
  have entries : (es.map ofLE).any (s.entryBad r (recB 0 8 4) (hs.map fun b => BitVec.ofNat 256 (ofLE b)) (s.srcPart src)) = false := by
    simp only [List.any_map, List.any_eq_false, Function.comp_apply, Bool.not_eq_true]
    exact fun b hb => (sound b hb).2.2
  have hyper : (hs.map fun b => BitVec.ofNat 256 (ofLE b)).any (fun h => hsetBad h.toNat) = false := by
    simp only [List.any_map, List.any_eq_false, Function.comp_apply, Bool.not_eq_true]
    exact sets
  obtain ⟨j, jobs, unfinished, held⟩ := jobStart_jobs (s := s) (src := src) (c := c) (red := 0) (prog := 0) (es := es) (hs := hs) quiet new
  have works : j.engines.all (fun e => j.finished.contains e) = false := by
    obtain ⟨b, hb⟩ := List.exists_mem_of_ne_nil es nonempty
    have entry : BitVec.ofNat 1024 (ofLE b) ∈ j.entries := held ▸ List.mem_map_of_mem hb
    have engine := mem_engines entry (entCe_ofNat_lt (sound b hb).1)
    simp only [unfinished, List.contains_nil, List.all_eq_false, Bool.false_eq_true, not_false_eq_true, and_true]
    exact ⟨_, engine⟩
  unfold State.jobCheck
  simp only [quiet, new, weighted, hyper, entries, Bool.false_and, Bool.or_self, Bool.false_eq_true, if_false, jobs, List.getLast?_append,
    List.getLast?_singleton, Option.some_or, works]

/-! ### The commands -/

section
variable (src : CmdSrc) (c : Cmd) (s : State)

theorem exec_copy : exec (.copy src c) s = execCopy src c s := (rfl)
theorem exec_fmcast : exec (.fmcast src c) s = execFmcast src c s := (rfl)
theorem exec_barcfg : exec (.barcfg src c) s = execBarcfg src c s := (rfl)
theorem exec_redjob : exec (.redjob src c) s = execRedjob src c s := (rfl)
theorem exec_redctlClose : exec (.redctlClose src c) s = execRedctlClose src c s := (rfl)
theorem exec_redctlUnconfigure : exec (.redctlUnconfigure src c) s = execRedctlUnconfigure src c s := (rfl)
theorem exec_updjob : exec (.updjob src c) s = execUpdjob src c s := (rfl)
theorem exec_updstop : exec (.updstop src c) s = execUpdstop src c s := (rfl)

end

end Sys2Proof.Machine

open Sys2Proof Sys2Proof.Machine

/-- Settles O39: a command that may start and breaks no rule does what its action does (`runCmd_completes`, `runCmd_starts`,
`runCmd_kicks`), its records having been read (`State.withRecord_of_bytes`); a sound UPDJOB is `jobCheck_starts`. -/
theorem copyBarrierReductionUpdateCommands : Obligations.CopyBarrierReductionUpdateCommands := by
  unfold Obligations.CopyBarrierReductionUpdateCommands
  rintro src c s p rfl
  refine ⟨fun ctx => ⟨fun ready least most eng e u bs ds free read hds => ?copy, fun ready small e u bs free read => ?fmcast,
    fun ready u bs r read hr ctl addr rsvd => ?barcfg, fun ready u v bs ls r read hr sound bound entries locs ports room next => ?redjob,
    fun ready u v w bs tb hb r read hr => ?updjob⟩, fun red found small ready => ?redctl, fun ready o found => ?updstop⟩
  case copy =>
    subst hds
    have legal : ¬ (cmdB c 0x10 2 = 0 ∨ cmdB c 0x10 2 > 256 ∨ (16 ≤ cmdB c 0x12 1 ∧ cmdB c 0x12 1 < 255)) := by omega
    refine runCmd_kicks (exec_copy src c s) ready (beq_of_eq ready.1) ?_
    simp only [legal, if_false, ctx, Bool.not_true, Bool.false_eq_true, free, State.withRecord_of_bytes read]
  case fmcast =>
    refine runCmd_kicks (exec_fmcast src c s) ready (beq_of_eq ready.1) ?_
    simp only [ge_iff_le, Nat.not_le.mpr small, if_false, ctx, Bool.not_true, Bool.false_eq_true, free, State.withRecord_of_bytes read]
  case barcfg =>
    subst hr
    have legal : (decide (recB (ofLE bs) 0 4 ≥ 2 ^ 14) || decide (recB (ofLE bs) 8 8 ≥ 2 ^ 48) ||
        decide (recB (ofLE bs) 0x10 48 ≠ 0)) = false := by
      simp only [decide_eq_false (Nat.not_le.mpr ctl), decide_eq_false (Nat.not_le.mpr addr), rsvd, ge_iff_le]
      rfl
    refine ⟨fun off closed => runCmd_completes (exec_barcfg src c s) ready (beq_of_eq ready.1) ?_,
      fun off opened => runCmd_completes (exec_barcfg src c s) ready (beq_of_eq ready.1) ?_,
      fun v bm cfg on map hcfg named bound scope room closed =>
        runCmd_completes (exec_barcfg src c s) ready (beq_of_eq ready.1) ?_⟩
    · simp only [ctx, Bool.not_true, Bool.false_eq_true, if_false, State.withRecord_of_bytes read, legal, off, if_true, closed]
      rfl
    · simp only [ctx, Bool.not_true, Bool.false_eq_true, if_false, State.withRecord_of_bytes read, legal, off, if_true, opened]
    · subst hcfg
      simp only [ctx, Bool.not_true, Bool.false_eq_true, if_false, State.withRecord_of_bytes read, legal, on,
        State.withRecord_of_bytes map, named, bound, Bool.or_self, scope, room, closed]
      rfl
  case redjob =>
    subst hr
    refine runCmd_starts (exec_redjob src c s) ready (beq_of_eq ready.1) ?_
    have enough : ¬ (u.redOf (s.srcPart src) (recB (ofLE bs) 0 4 % 4096) = none ∧ v.getF redReserved + 2 ^ recB (ofLE bs) 7 1 > 4096) :=
      fun ⟨fresh, full⟩ => Nat.not_lt.mpr (room fresh) full
    simp only [ctx, Bool.not_true, Bool.false_eq_true, if_false, State.withRecord_of_bytes read, sound, bound,
      State.withRecord_of_bytes entries, locs, ports, enough]
    cases known : u.redOf (s.srcPart src) (recB (ofLE bs) 0 4 % 4096) with
    | none => simp only [Bool.false_eq_true, if_false]
    | some red =>
      rw [known] at next
      simp only [show (red.cur.isSome && red.next.isSome) = false from next, Bool.false_eq_true, if_false]
  case updjob =>
    subst hr
    refine ⟨fun bad u' hu' => runCmd_completes (exec_updjob src c s) ready (beq_of_eq ready.1) ?_,
      fun good quiet new table sets es hs hes hhs nonempty sound legal => runCmd_starts (exec_updjob src c s) ready (beq_of_eq ready.1) ?_⟩
    · subst hu'
      simp only [ctx, Bool.not_true, Bool.false_eq_true, if_false, State.withRecord_of_bytes read, bad, if_true]
      rfl
    · subst hes hhs
      have part : w.srcPart src = s.srcPart src := ((State.srcPart_of_cmdRead sets src).trans (State.srcPart_of_cmdRead table src)).trans
        (State.srcPart_of_cmdRead read src)
      rw [← part] at sound
      simp only [ctx, Bool.not_true, Bool.false_eq_true, if_false, State.withRecord_of_bytes read, good,
        State.withRecord_of_bytes table, State.withRecord_of_bytes sets, quiet, new]
      exact jobCheck_starts quiet new nonempty sound legal
  case redctl =>
    refine ⟨fun r close cur num => runCmd_completes (exec_redctlClose src c s) ready (by simp [ready.1, close]) ?_,
      fun drop => runCmd_completes (exec_redctlUnconfigure src c s) ready (by simp [ready.1, drop]) ?_⟩
    · have legal : ¬ (cmdB c 8 2 ≥ 4096 ∨ cmdB c 0xA 1 > 1) := by omega
      simp only [legal, if_false, found, cur, num, ne_eq, not_true_eq_false]
      rfl
    · simp only [ge_iff_le, Nat.not_le.mpr small, if_false, found]
      rfl
  case updstop =>
    refine ⟨fun waiting => runCmd_completes (exec_updstop src c s) ready (beq_of_eq ready.1) ?_,
      fun j started job => runCmd_completes (exec_updstop src c s) ready (beq_of_eq ready.1) ?_⟩
    · simp only [found, waiting, Bool.not_false, if_true]
      rfl
    · simp only [found, started, Bool.not_true, Bool.false_eq_true, if_false, job]
      rfl
end
